-- ==== Sys2Proof/Word.lean ====
section
/-! DEFINITION. The word types of the Yarhorn D128 and their plainest arithmetic (spec 00 R2, 03 R43). -/

namespace Sys2Proof

/-- One byte of memory. -/
abbrev Byte := BitVec 8

/-- A 32-bit register (03 R43). -/
abbrev Word := BitVec 32

/-- A 64-bit value, held in a register pair (03 R45). -/
abbrev DWord := BitVec 64

/-- A 128-bit value, held in a register quad (03 R45), and an AXA state (05 R111). -/
abbrev Quad := BitVec 128

/-- The low word of a double word: the register of the lower number (03 R45). -/
abbrev DWord.lo (v : DWord) : Word := v.setWidth 32

/-- The high word of a double word. -/
abbrev DWord.hi (v : DWord) : Word := (v >>> 32).setWidth 32

end Sys2Proof
end

