-- ==== Sys2Proof/Syntax.lean ====
section
/-! DEFINITION. The instructions of the Yarhorn D128: the 213 encoded instructions of the opcode map
(spec 03 Tables 3.11 to 3.18) and the 104 steps of the device that have no encoding
(opcode_table.json, 95_what_each_step_holds.md), one constructor of Instr for each row. -/

namespace Sys2Proof

/-- A register name (03 R43, Table 3.1). -/
inductive Reg where
  | w (n : Fin 96)
  | k (n : Fin 12)
  | ix
  | wix
  | tid
  | lane
  | zero
  | clk
  deriving DecidableEq, Repr

/-- Element type of the vector float majors (03 R63, 05 R105). -/
inductive FTy where
  | f32
  | h2
  | b2
  | e4
  deriving DecidableEq, Repr

/-- Conversion element code CE (03 R65). -/
inductive CE where
  | f32
  | f16
  | bf16
  | e4m3
  | e5m2
  | e2m3
  | e3m2
  | e2m1
  deriving DecidableEq, Repr

/-- Row type code RT (03 R66). -/
inductive RT where
  | i32
  | u32
  | f32
  | i64
  | u64
  deriving DecidableEq, Repr

/-- Access size SZ (03 Table 3.5). -/
inductive Sz where
  | u8
  | s8
  | u16
  | s16
  | w32
  | w64
  | w128
  deriving DecidableEq, Repr

/-- Routing class RC (11 R227). -/
inductive RC where
  | o
  | a
  | s
  deriving DecidableEq, Repr

/-- Scope SC (03 Table 3.5, 11 R221). -/
inductive Scope where
  | plot
  | tract
  | dev
  | sys
  deriving DecidableEq, Repr

/-- Order of an atomic (03 Table 3.7). -/
inductive AOrd where
  | rlx
  | acq
  | rel
  | ar
  deriving DecidableEq, Repr

/-- An instruction-address comparator of a context (21 R395). -/
structure Comparator where
  enabled : Bool
  addr : BitVec 64
  plots : BitVec 8
  tid : Option Nat
  deriving DecidableEq, Repr

/-- What the power-on self-test found (23 R425, Table 23.8): passed, or the failing unit. -/
structure SelfTest where
  pass : Bool
  result : BitVec 8
  unitk : BitVec 8
  unit : BitVec 16
  detail : BitVec 64
  deriving DecidableEq, Repr

/-- What a view access of a peer asks of a gleaner of this device (09 R212, R216). -/
inductive ViewAct where
  | load (bytes : Nat)
  | store (data : List (BitVec 8))
  | atomic (aop operand : Nat) (rmode : BitVec 2)
  deriving DecidableEq, Repr

/-- What a request that reaches the device through a fabric port asks for (23 R404, R413): LR and SC name the thread of the peer (09
R198), a view access its tensor ID and shadow offset; a write carries the bytes that it writes and leaves the others (log 62). -/
inductive FabKind where
  | read (pa len : Nat)
  | write (pa : Nat) (data : List (Option (BitVec 8)))
  | atomic (pa bytes aop operand : Nat) (rmode : BitVec 2)
  | lr (pa bytes tag tid : Nat)
  | sc (pa : Nat) (data : List (BitVec 8)) (tag tid : Nat)
  | view (id off : Nat) (act : ViewAct)
  | land (name value : BitVec 64) (wide : Bool) (sc : Scope)
  | arrive (handle : BitVec 64) (n : Nat)
  deriving DecidableEq, Repr

/-- A request that reaches the device through a fabric port: source device, context identifier,
transaction tag, final destination (another device's number when this device relays, 23 R407), port of arrival, the scope of the access
and whether it is a release (11 R222, R231). -/
structure FabReq where
  port : Nat
  src : Nat
  ctxid : Nat
  tag : Nat
  dst : Nat
  scope : Scope
  rel : Bool
  kind : FabKind
  deriving DecidableEq, Repr

/-- An access of the host through the Igmel link, to a device physical local address (23 R418), at system scope; rel: the write is a
release (11 R249). -/
inductive HostAcc where
  | read (pa len : Nat)
  | write (pa : Nat) (data : List (BitVec 8)) (rel : Bool)
  deriving DecidableEq, Repr

/-- A data link flit as it arrives: its generation bit G and its ciphertext with tag (23 R411). -/
structure Flit where
  gen : Bool
  body : Nat
  deriving DecidableEq, Repr

/-- What a flit of the other end of a link says to the data link layer (23 R404, R411): that it has so many more flits, or that those it does not have
are to be sent again. -/
inductive LinkCmd where
  | ack (n : Nat)
  | replay
  deriving DecidableEq, Repr

/-- A sub-operation of the steward's debug service (21 R371, R395 to R398, 01 R14, 22 R403). A state is written from a buffer of the device: the record of the
thread, then its register block (21 R396). -/
inductive DebugSub where
  | comparator (n : Nat) (cmp : Comparator)
  | control (still haz bks : Bool)
  | read (tag tid : Nat)
  | write (tag tid pa : Nat)
  | resume (tag tid : Nat)
  | step (tag tid : Nat)
  | kill (tag tid : Nat)
  | hold
  | release
  | killRecord (n : Nat)
  deriving DecidableEq, Repr

/-- Where an uncorrectable SECDED error struck (23 R437). -/
inductive ErrSite where
  | cleanLine (line : Nat)
  | dirtyLine (line : Nat)
  | plotState (tag : Nat)
  deriving DecidableEq, Repr

/-- A synchronisation source that another device reports with a value: the device of the agent that released, its tract and plot where they are
of this device, and the scope of the release (11 R232). -/
structure WireSrc where
  dev : Nat
  tract : Option Nat
  plot : Option Nat
  scope : Scope
  deriving DecidableEq, Repr

/-- What another device answers to a request that reads: a value with the sources of the writes that it returns, the code of a fault there (23
R413, 09 R212), or that a relay refused it (23 R428). -/
inductive WireValue where
  | value (v : BitVec 128) (srcs : List WireSrc)
  | fault (code : Nat)
  | relayRefused
  deriving DecidableEq, Repr

/-- What another device answers to a store: done, the code of a fault there, or that a relay refused it (23 R428). -/
inductive WireAck where
  | done
  | fault (code : Nat)
  | relayRefused
  deriving DecidableEq, Repr

/-- An acknowledgement: of which request, and what another device answered. -/
structure Ack where
  id : Nat
  answer : WireAck
  deriving DecidableEq, Repr

/-- A line on a compute die (09 R195). -/
structure DieLine where
  die : Nat
  line : Nat
  deriving DecidableEq, Repr

/-- A service of a context's next fault record, with the runtime's answer to one that is passed to it: a resume, or not (22 R401). -/
structure Service where
  ctx : Nat
  resume : Bool
  deriving DecidableEq, Repr

/-- The instructions and steps, one constructor per row of opcode_table.json. -/
inductive Instr where
  /-- IADD (R124). Adds two 32-bit registers modulo 2^32. -/
  | iadd (d : Reg) (a : Reg) (b : Reg) (g : Fin 8)
  /-- ISUB (R124). Subtracts B from A modulo 2^32. -/
  | isub (d : Reg) (a : Reg) (b : Reg) (g : Fin 8)
  /-- IMUL (R124). Writes the low 32 bits of A times B. -/
  | imul (d : Reg) (a : Reg) (b : Reg) (g : Fin 8)
  /-- IMULH (R124). Writes the high 32 bits of the signed product. -/
  | imulh (d : Reg) (a : Reg) (b : Reg) (g : Fin 8)
  /-- IMULHU (R124). Writes the high 32 bits of the unsigned product. -/
  | imulhu (d : Reg) (a : Reg) (b : Reg) (g : Fin 8)
  /-- IMAD (R124). Writes the low 32 bits of A times B plus D. -/
  | imad (d : Reg) (a : Reg) (b : Reg) (g : Fin 8)
  /-- DIVS (R125). Signed division truncated towards zero; never traps. -/
  | divs (d : Reg) (a : Reg) (b : Reg) (g : Fin 8)
  /-- DIVU (R125). Unsigned division; never traps. -/
  | divu (d : Reg) (a : Reg) (b : Reg) (g : Fin 8)
  /-- REMS (R125). Signed remainder with the sign of A. -/
  | rems (d : Reg) (a : Reg) (b : Reg) (g : Fin 8)
  /-- REMU (R125). Unsigned remainder. -/
  | remu (d : Reg) (a : Reg) (b : Reg) (g : Fin 8)
  /-- IMIN (R124). Signed minimum. -/
  | imin (d : Reg) (a : Reg) (b : Reg) (g : Fin 8)
  /-- IMAX (R124). Signed maximum. -/
  | imax (d : Reg) (a : Reg) (b : Reg) (g : Fin 8)
  /-- IMINU (R124). Unsigned minimum. -/
  | iminu (d : Reg) (a : Reg) (b : Reg) (g : Fin 8)
  /-- IMAXU (R124). Unsigned maximum. -/
  | imaxu (d : Reg) (a : Reg) (b : Reg) (g : Fin 8)
  /-- IABS (R124). Absolute value of a signed 32-bit register. -/
  | iabs (d : Reg) (a : Reg) (g : Fin 8)
  /-- INEG (R124). Two's-complement negation. -/
  | ineg (d : Reg) (a : Reg) (g : Fin 8)
  /-- AND (R126). Bitwise and. -/
  | andb (d : Reg) (a : Reg) (b : Reg) (g : Fin 8)
  /-- OR (R126). Bitwise or. -/
  | orb (d : Reg) (a : Reg) (b : Reg) (g : Fin 8)
  /-- XOR (R126). Bitwise exclusive or. -/
  | xorb (d : Reg) (a : Reg) (b : Reg) (g : Fin 8)
  /-- ANDN (R126). A and not B. -/
  | andn (d : Reg) (a : Reg) (b : Reg) (g : Fin 8)
  /-- SHL (R126). Logical shift left by B[4:0]. -/
  | shl (d : Reg) (a : Reg) (b : Reg) (g : Fin 8)
  /-- SHR (R126). Logical shift right by B[4:0]. -/
  | shr (d : Reg) (a : Reg) (b : Reg) (g : Fin 8)
  /-- SAR (R126). Arithmetic shift right by B[4:0]. -/
  | sar (d : Reg) (a : Reg) (b : Reg) (g : Fin 8)
  /-- ROTL (R126). Rotate left by B[4:0]. -/
  | rotl (d : Reg) (a : Reg) (b : Reg) (g : Fin 8)
  /-- POPC (R126). Counts the 1 bits of A. -/
  | popc (d : Reg) (a : Reg) (g : Fin 8)
  /-- CLZ (R126). Counts leading zero bits of A. -/
  | clz (d : Reg) (a : Reg) (g : Fin 8)
  /-- BREV (R126). Reverses the bits of A. -/
  | brev (d : Reg) (a : Reg) (g : Fin 8)
  /-- BFE (R127). Extracts a zero-extended bit field described by B. -/
  | bfe (d : Reg) (a : Reg) (b : Reg) (g : Fin 8)
  /-- BFI (R127). Inserts the low bits of A into a field of D described by B. -/
  | bfi (d : Reg) (a : Reg) (b : Reg) (g : Fin 8)
  /-- LEA (R128). Forms a 64-bit address pair from a pair plus a sign-extended register. -/
  | lea (d : Reg) (a : Reg) (b : Reg) (g : Fin 8)
  /-- SEL (R128). Selects A or B by the predicate named in G, in every thread. -/
  | sel (d : Reg) (a : Reg) (b : Reg) (g : Fin 8)
  /-- MOV (R126). Copies A to D. -/
  | mov (d : Reg) (a : Reg) (g : Fin 8)
  /-- IADD64 (R129). 64-bit add of register pairs. -/
  | iadd64 (d : Reg) (a : Reg) (b : Reg) (g : Fin 8)
  /-- ISUB64 (R129). 64-bit subtract of register pairs. -/
  | isub64 (d : Reg) (a : Reg) (b : Reg) (g : Fin 8)
  /-- IMUL64 (R129). Low 64 bits of a 64-bit product. -/
  | imul64 (d : Reg) (a : Reg) (b : Reg) (g : Fin 8)
  /-- MOV64 (R129). Copies a register pair. -/
  | mov64 (d : Reg) (a : Reg) (g : Fin 8)
  /-- SHL64 (R129). 64-bit logical shift left by B[5:0]. -/
  | shl64 (d : Reg) (a : Reg) (b : Reg) (g : Fin 8)
  /-- SHR64 (R129). 64-bit logical shift right by B[5:0]. -/
  | shr64 (d : Reg) (a : Reg) (b : Reg) (g : Fin 8)
  /-- SAR64 (R129). 64-bit arithmetic shift right by B[5:0]. -/
  | sar64 (d : Reg) (a : Reg) (b : Reg) (g : Fin 8)
  /-- IMAD64 (R129). 64-bit multiply-add into the D pair. -/
  | imad64 (d : Reg) (a : Reg) (b : Reg) (g : Fin 8)
  /-- ICMP.EQ (R130). Sets a predicate when A equals B. -/
  | icmpEq (p : Fin 128) (a : Reg) (b : Reg) (g : Fin 8)
  /-- ICMP.NE (R130). Sets a predicate when A differs from B. -/
  | icmpNe (p : Fin 128) (a : Reg) (b : Reg) (g : Fin 8)
  /-- ICMP.LT (R130). Signed less-than compare into a predicate. -/
  | icmpLt (p : Fin 128) (a : Reg) (b : Reg) (g : Fin 8)
  /-- ICMP.LE (R130). Signed less-or-equal compare into a predicate. -/
  | icmpLe (p : Fin 128) (a : Reg) (b : Reg) (g : Fin 8)
  /-- ICMP.LTU (R130). Unsigned less-than compare into a predicate. -/
  | icmpLtu (p : Fin 128) (a : Reg) (b : Reg) (g : Fin 8)
  /-- ICMP.LEU (R130). Unsigned less-or-equal compare into a predicate. -/
  | icmpLeu (p : Fin 128) (a : Reg) (b : Reg) (g : Fin 8)
  /-- ITST (R130). Sets a predicate when A and B share a 1 bit. -/
  | itst (p : Fin 128) (a : Reg) (b : Reg) (g : Fin 8)
  /-- ITSTN (R130). Sets a predicate when A and B share no 1 bit. -/
  | itstn (p : Fin 128) (a : Reg) (b : Reg) (g : Fin 8)
  /-- PAND (R131). Predicate and. -/
  | pand (p : Fin 128) (q : Fin 128) (r : Fin 128) (g : Fin 8)
  /-- POR (R131). Predicate or. -/
  | por (p : Fin 128) (q : Fin 128) (r : Fin 128) (g : Fin 8)
  /-- PXOR (R131). Predicate exclusive or. -/
  | pxor (p : Fin 128) (q : Fin 128) (r : Fin 128) (g : Fin 8)
  /-- PANDN (R131). Predicate and-not. -/
  | pandn (p : Fin 128) (q : Fin 128) (r : Fin 128) (g : Fin 8)
  /-- PMOV (R131). Copies a predicate. -/
  | pmov (p : Fin 128) (q : Fin 128) (g : Fin 8)
  /-- PTOR (R132). Packs 32 predicates into a register. -/
  | ptor (d : Reg) (q : Fin 128) (g : Fin 8)
  /-- RTOP (R132). Unpacks a register into 32 predicates. -/
  | rtop (p : Fin 128) (a : Reg) (g : Fin 8)
  /-- PCNT (R132). Counts true predicates in a group of 32. -/
  | pcnt (d : Reg) (q : Fin 128) (g : Fin 8)
  /-- FADD (R134). Packed float add of the type FN selects, rounded once. -/
  | fadd (ty : FTy) (d : Reg) (a : Reg) (b : Reg) (g : Fin 8)
  /-- FSUB (R134). Packed float subtract, rounded once. -/
  | fsub (ty : FTy) (d : Reg) (a : Reg) (b : Reg) (g : Fin 8)
  /-- FMUL (R134). Packed float multiply, rounded once. -/
  | fmul (ty : FTy) (d : Reg) (a : Reg) (b : Reg) (g : Fin 8)
  /-- FFMA (R134). Packed fused multiply-add into D, rounded once. -/
  | ffma (ty : FTy) (d : Reg) (a : Reg) (b : Reg) (g : Fin 8)
  /-- FMIN (R135). Packed minimumNumber. -/
  | fmin (ty : FTy) (d : Reg) (a : Reg) (b : Reg) (g : Fin 8)
  /-- FMAX (R135). Packed maximumNumber. -/
  | fmax (ty : FTy) (d : Reg) (a : Reg) (b : Reg) (g : Fin 8)
  /-- FCMPEQ (R136). Per-element equality compare into predicates. -/
  | fcmpeq (ty : FTy) (p : Fin 128) (a : Reg) (b : Reg) (g : Fin 8)
  /-- FCMPLT (R136). Per-element less-than compare into predicates. -/
  | fcmplt (ty : FTy) (p : Fin 128) (a : Reg) (b : Reg) (g : Fin 8)
  /-- FCMPLE (R136). Per-element less-or-equal compare into predicates. -/
  | fcmple (ty : FTy) (p : Fin 128) (a : Reg) (b : Reg) (g : Fin 8)
  /-- FCMPUN (R136). Per-element unordered compare into predicates. -/
  | fcmpun (ty : FTy) (p : Fin 128) (a : Reg) (b : Reg) (g : Fin 8)
  /-- FDIV (R137). Correctly rounded F32 division. -/
  | fdiv (d : Reg) (a : Reg) (b : Reg) (g : Fin 8)
  /-- FSQRT (R137). Correctly rounded F32 square root. -/
  | fsqrt (d : Reg) (a : Reg) (g : Fin 8)
  /-- FRSQ (R137). Correctly rounded reciprocal square root. -/
  | frsq (d : Reg) (a : Reg) (g : Fin 8)
  /-- FRCP (R137). Correctly rounded reciprocal. -/
  | frcp (d : Reg) (a : Reg) (g : Fin 8)
  /-- FEXP2 (R137). Correctly rounded 2^x. -/
  | fexp2 (d : Reg) (a : Reg) (g : Fin 8)
  /-- FLOG2 (R137). Correctly rounded log2 x. -/
  | flog2 (d : Reg) (a : Reg) (g : Fin 8)
  /-- FSINPI (R137). Correctly rounded sin(pi x). -/
  | fsinpi (d : Reg) (a : Reg) (g : Fin 8)
  /-- FCOSPI (R137). Correctly rounded cos(pi x). -/
  | fcospi (d : Reg) (a : Reg) (g : Fin 8)
  /-- FTANH (R137). Correctly rounded tanh. -/
  | ftanh (d : Reg) (a : Reg) (g : Fin 8)
  /-- FSIGM (R137). Correctly rounded logistic sigmoid. -/
  | fsigm (d : Reg) (a : Reg) (g : Fin 8)
  /-- FLDEXP (R138). Scales A by 2^B and rounds once. -/
  | fldexp (d : Reg) (a : Reg) (b : Reg) (g : Fin 8)
  /-- FRINT (R139). Rounds A to an integral F32 in RMODE. -/
  | frint (d : Reg) (a : Reg) (g : Fin 8)
  /-- CVTFI (R140). Converts a float to INT32 or UINT32. -/
  | cvtfi (d : Reg) (a : Reg) (ce : CE) (uns : Bool) (g : Fin 8)
  /-- CVTIF (R140). Converts INT32 or UINT32 to a float format. -/
  | cvtif (d : Reg) (a : Reg) (ce : CE) (uns : Bool) (g : Fin 8)
  /-- CVTFF (R140). Converts between float formats, rounding once. -/
  | cvtff (d : Reg) (a : Reg) (src : CE) (dst : CE) (g : Fin 8)
  /-- CVTPK (R141). Packs two or four F32 values into one narrow-format register. -/
  | cvtpk (d : Reg) (a : Reg) (ce : CE) (g : Fin 8)
  /-- FABS (R142). Clears bit 31. -/
  | fabs (d : Reg) (a : Reg) (g : Fin 8)
  /-- FNEG (R142). Inverts bit 31. -/
  | fneg (d : Reg) (a : Reg) (g : Fin 8)
  /-- FCPYS (R142). Copies A with the sign of B. -/
  | fcpys (d : Reg) (a : Reg) (b : Reg) (g : Fin 8)
  /-- FCLASS (R143). Writes the class mask of A. -/
  | fclass (d : Reg) (a : Reg) (g : Fin 8)
  /-- XACC (R145). Admits an exact F32 product into an AXA quad. -/
  | xacc (d : Reg) (a : Reg) (b : Reg) (g : Fin 8)
  /-- XADD (R146). Combines two AXA states. -/
  | xadd (d : Reg) (a : Reg) (g : Fin 8)
  /-- XCVT (R147). Converts an AXA state to a float format under XA. -/
  | xcvt (d : Reg) (a : Reg) (ce : CE) (g : Fin 8)
  /-- XNEG (R146). Negates an AXA state. -/
  | xneg (d : Reg) (a : Reg) (g : Fin 8)
  /-- XANC (R144). Sets the anchor XA from A[11:0]. -/
  | xanc (a : Reg) (g : Fin 8)
  /-- XDOTH (R145). Admits two exact FP16 products into an AXA quad. -/
  | xdoth (d : Reg) (a : Reg) (b : Reg) (g : Fin 8)
  /-- XDOTB (R145). Admits two exact BF16 products into an AXA quad. -/
  | xdotb (d : Reg) (a : Reg) (b : Reg) (g : Fin 8)
  /-- XCMP (R148). Compares two AXA quads bit by bit, ignoring Z. -/
  | xcmp (p : Fin 128) (a : Reg) (b : Reg) (g : Fin 8)
  /-- RSHF (R150). Row shuffle from a lane given per thread. -/
  | rshf (d : Reg) (a : Reg) (b : Reg) (g : Fin 8)
  /-- RSHFX (R150). Row shuffle from lane i xor mask. -/
  | rshfx (d : Reg) (a : Reg) (b : Reg) (g : Fin 8)
  /-- RBCAST (R150). Broadcasts A from an immediate lane across the row. -/
  | rbcast (d : Reg) (a : Reg) (n : Fin 64) (g : Fin 8)
  /-- RBALLOT (R151). Writes the 64-bit mask of a predicate over present lanes. -/
  | rballot (d : Reg) (q : Fin 128) (g : Fin 8)
  /-- RRED.ADDI (R152). Integer row reduction by the fixed tree. -/
  | rredAddi (d : Reg) (a : Reg) (rt : RT) (g : Fin 8)
  /-- RRED.ADDF (R152). F32 row sum by the fixed RNE tree. -/
  | rredAddf (d : Reg) (a : Reg) (g : Fin 8)
  /-- RRED.MIN (R152). Row minimum by the fixed tree. -/
  | rredMin (d : Reg) (a : Reg) (rt : RT) (g : Fin 8)
  /-- RRED.MAX (R152). Row maximum by the fixed tree. -/
  | rredMax (d : Reg) (a : Reg) (rt : RT) (g : Fin 8)
  /-- RSCANI (R153). Integer row scan, inclusive or exclusive. -/
  | rscani (d : Reg) (a : Reg) (rt : RT) (ex : Bool) (g : Fin 8)
  /-- RSCANF (R153). F32 row scan, inclusive or exclusive. -/
  | rscanf (d : Reg) (a : Reg) (ex : Bool) (g : Fin 8)
  /-- RANY (R154). True when a predicate holds in any present lane. -/
  | rany (p : Fin 128) (q : Fin 128) (g : Fin 8)
  /-- RALL (R154). True when a predicate holds in every present lane. -/
  | rall (p : Fin 128) (q : Fin 128) (g : Fin 8)
  /-- MOVI (R67). Loads a sign-extended 16-bit immediate. -/
  | movi (d : Reg) (imm : BitVec 16)
  /-- MOVHI (R67). Sets the upper 16 bits of D. -/
  | movhi (d : Reg) (imm : BitVec 16)
  /-- ADDI (R67). Adds a sign-extended immediate to D. -/
  | addi (d : Reg) (imm : BitVec 16)
  /-- ANDI (R67). Ands D with a zero-extended immediate. -/
  | andi (d : Reg) (imm : BitVec 16)
  /-- ORI (R67). Ors D with a zero-extended immediate. -/
  | ori (d : Reg) (imm : BitVec 16)
  /-- XORI (R67). Xors D with a zero-extended immediate. -/
  | xori (d : Reg) (imm : BitVec 16)
  /-- SHLI (R67). Shifts D left by an immediate. -/
  | shli (d : Reg) (n : Fin 32)
  /-- SHRI (R67). Shifts D right logically by an immediate. -/
  | shri (d : Reg) (n : Fin 32)
  /-- FMOVI.F32.BF (R157). Loads a BF16 immediate widened to F32. -/
  | fmoviF32Bf (d : Reg) (imm : BitVec 16)
  /-- FMOVI.F32.HF (R157). Loads an FP16 immediate widened exactly to F32. -/
  | fmoviF32Hf (d : Reg) (imm : BitVec 16)
  /-- FMOVI.E4 (R67). Loads two E4M3 codes into both halves of D. -/
  | fmoviE4 (d : Reg) (imm : BitVec 16)
  /-- FMOVI.E5 (R67). Loads two E5M2 codes into both halves of D. -/
  | fmoviE5 (d : Reg) (imm : BitVec 16)
  /-- FMOVI.B2 (R67). Loads a BF16 immediate into both halves. -/
  | fmoviB2 (d : Reg) (imm : BitVec 16)
  /-- FMOVI.H2 (R67). Loads an FP16 immediate into both halves. -/
  | fmoviH2 (d : Reg) (imm : BitVec 16)
  /-- FADDI.F32 (R67). Adds a BF16 immediate to F32 D, rounding once. -/
  | faddiF32 (d : Reg) (imm : BitVec 16)
  /-- FMULI.F32 (R67). Multiplies F32 D by a BF16 immediate. -/
  | fmuliF32 (d : Reg) (imm : BitVec 16)
  /-- WINB (R158). Sets the window base WB, trapping on an illegal value. -/
  | winb (imm : BitVec 16)
  /-- IXSET (R158). Sets ix to a sign-extended immediate. -/
  | ixset (imm : BitVec 16)
  /-- IXADD (R158). Adds a sign-extended immediate to ix. -/
  | ixadd (imm : BitVec 16)
  /-- LD (R262). Global load of 1 to 16 bytes at the place of Table 9.4. -/
  | ld (d : Reg) (a : Reg) (off : BitVec 4) (rc : RC) (sc : Scope) (ord : Bool) (sz : Sz)
  /-- ST (R262). Global store of 1 to 16 bytes by PerformAt. -/
  | st (d : Reg) (a : Reg) (off : BitVec 4) (rc : RC) (sc : Scope) (ord : Bool) (sz : Sz)
  /-- LDS (R264). Scratchpad load. -/
  | lds (d : Reg) (a : Reg) (off : BitVec 9) (sz : Sz)
  /-- STS (R264). Scratchpad store. -/
  | sts (d : Reg) (a : Reg) (off : BitVec 9) (sz : Sz)
  /-- ATOM.ADD (R266). Global atomic add returning the old value. -/
  | atomAdd (w : Bool) (d : Reg) (a : Reg) (rc : RC) (sc : Scope) (ord : AOrd)
  /-- ATOM.AND (R266). Global atomic and. -/
  | atomAnd (w : Bool) (d : Reg) (a : Reg) (rc : RC) (sc : Scope) (ord : AOrd)
  /-- ATOM.OR (R266). Global atomic or. -/
  | atomOr (w : Bool) (d : Reg) (a : Reg) (rc : RC) (sc : Scope) (ord : AOrd)
  /-- ATOM.XOR (R266). Global atomic xor. -/
  | atomXor (w : Bool) (d : Reg) (a : Reg) (rc : RC) (sc : Scope) (ord : AOrd)
  /-- ATOM.MIN (R266). Global atomic signed minimum. -/
  | atomMin (w : Bool) (d : Reg) (a : Reg) (rc : RC) (sc : Scope) (ord : AOrd)
  /-- ATOM.MAX (R266). Global atomic signed maximum. -/
  | atomMax (w : Bool) (d : Reg) (a : Reg) (rc : RC) (sc : Scope) (ord : AOrd)
  /-- ATOM.MINU (R266). Global atomic unsigned minimum. -/
  | atomMinu (w : Bool) (d : Reg) (a : Reg) (rc : RC) (sc : Scope) (ord : AOrd)
  /-- ATOM.MAXU (R266). Global atomic unsigned maximum. -/
  | atomMaxu (w : Bool) (d : Reg) (a : Reg) (rc : RC) (sc : Scope) (ord : AOrd)
  /-- ATOM.EXCH (R266). Global atomic exchange. -/
  | atomExch (w : Bool) (d : Reg) (a : Reg) (rc : RC) (sc : Scope) (ord : AOrd)
  /-- ATOM.CAS (R267). Global compare-and-swap. -/
  | atomCas (w : Bool) (d : Reg) (a : Reg) (rc : RC) (sc : Scope) (ord : AOrd)
  /-- ATOM.FADD.F32 (R268). Global atomic F32 add in the issuing RMODE. -/
  | atomFaddF32 (d : Reg) (a : Reg) (rc : RC) (sc : Scope) (ord : AOrd)
  /-- ATOM.XADD128 (R268). Global atomic combine of a 16-byte AXA state. -/
  | atomXadd128 (d : Reg) (a : Reg) (rc : RC) (sc : Scope) (ord : AOrd)
  /-- ATOM.INCW (R266). Global atomic wrapping increment. -/
  | atomIncw (w : Bool) (d : Reg) (a : Reg) (rc : RC) (sc : Scope) (ord : AOrd)
  /-- ATOM.DECW (R266). Global atomic wrapping decrement. -/
  | atomDecw (w : Bool) (d : Reg) (a : Reg) (rc : RC) (sc : Scope) (ord : AOrd)
  /-- ATOMS.ADD (R269). Scratchpad atomic add. -/
  | atomsAdd (w : Bool) (d : Reg) (a : Reg) (tr : Bool) (ord : AOrd)
  /-- ATOMS.AND (R269). Scratchpad atomic and. -/
  | atomsAnd (w : Bool) (d : Reg) (a : Reg) (tr : Bool) (ord : AOrd)
  /-- ATOMS.OR (R269). Scratchpad atomic or. -/
  | atomsOr (w : Bool) (d : Reg) (a : Reg) (tr : Bool) (ord : AOrd)
  /-- ATOMS.XOR (R269). Scratchpad atomic xor. -/
  | atomsXor (w : Bool) (d : Reg) (a : Reg) (tr : Bool) (ord : AOrd)
  /-- ATOMS.MIN (R269). Scratchpad atomic signed minimum. -/
  | atomsMin (w : Bool) (d : Reg) (a : Reg) (tr : Bool) (ord : AOrd)
  /-- ATOMS.MAX (R269). Scratchpad atomic signed maximum. -/
  | atomsMax (w : Bool) (d : Reg) (a : Reg) (tr : Bool) (ord : AOrd)
  /-- ATOMS.MINU (R269). Scratchpad atomic unsigned minimum. -/
  | atomsMinu (w : Bool) (d : Reg) (a : Reg) (tr : Bool) (ord : AOrd)
  /-- ATOMS.MAXU (R269). Scratchpad atomic unsigned maximum. -/
  | atomsMaxu (w : Bool) (d : Reg) (a : Reg) (tr : Bool) (ord : AOrd)
  /-- ATOMS.EXCH (R269). Scratchpad atomic exchange. -/
  | atomsExch (w : Bool) (d : Reg) (a : Reg) (tr : Bool) (ord : AOrd)
  /-- ATOMS.CAS (R269). Scratchpad compare-and-swap. -/
  | atomsCas (w : Bool) (d : Reg) (a : Reg) (tr : Bool) (ord : AOrd)
  /-- ATOMS.FADD.F32 (R269). Scratchpad atomic F32 add. -/
  | atomsFaddF32 (d : Reg) (a : Reg) (tr : Bool) (ord : AOrd)
  /-- ATOMS.XADD128 (R269). Scratchpad atomic AXA combine. -/
  | atomsXadd128 (d : Reg) (a : Reg) (tr : Bool) (ord : AOrd)
  /-- ATOMS.INCW (R269). Scratchpad atomic wrapping increment. -/
  | atomsIncw (w : Bool) (d : Reg) (a : Reg) (tr : Bool) (ord : AOrd)
  /-- ATOMS.DECW (R269). Scratchpad atomic wrapping decrement. -/
  | atomsDecw (w : Bool) (d : Reg) (a : Reg) (tr : Bool) (ord : AOrd)
  /-- LR (R271). Load-reserved: loads and makes the thread's sector reservation. -/
  | lr (d : Reg) (a : Reg) (off : BitVec 4) (rc : RC) (sc : Scope) (ord : Bool) (sz : Sz)
  /-- SC (R272). Store-conditional: stores only under a matching reservation and writes status. -/
  | sc (d : Reg) (a : Reg) (off : BitVec 4) (rc : RC) (sc : Scope) (ord : Bool) (sz : Sz)
  /-- BRA (R159). Conditional branch; divergent outcomes split the drill. -/
  | bra (p : Fin 128) (n : Bool) (off : BitVec 18)
  /-- BRF (R160). Branch that files every thread of the drill at its next PC. -/
  | brf (p : Fin 128) (n : Bool) (off : BitVec 18)
  /-- CALL (R163). Conditional call pushing the return address. -/
  | call (p : Fin 128) (n : Bool) (off : BitVec 18)
  /-- NOP (R164). Does nothing. -/
  | nop (g : Fin 128)
  /-- RET (R164). Pops the return stack, exiting when it is empty. -/
  | ret (g : Fin 128)
  /-- CALLI (R164). Indirect call through a register pair. -/
  | calli (g : Fin 128) (a : Reg)
  /-- JMPI (R164). Indirect jump through a register pair. -/
  | jmpi (g : Fin 128) (a : Reg)
  /-- REFORM (R166). Files guard-true threads at PC + 4 for regrouping. -/
  | reform (g : Fin 128)
  /-- EXIT (R167). Makes the thread exited. -/
  | exit (g : Fin 128)
  /-- YIELD (R168). Files guard-true threads and marks the tract's quantum as used. -/
  | yield (g : Fin 128)
  /-- PAUSE (R169). Sleeps the thread for a number of cycles. -/
  | pause (g : Fin 128) (a : Reg)
  /-- SETRM (R170). Sets the thread's rounding mode. -/
  | setrm (g : Fin 128) (m : Fin 4)
  /-- WAIT (R257). Sleeps until the thread's LD, ST, CP and TL counters fall to the given bounds. -/
  | wait (ld : Fin 64) (st : Fin 64) (cp : Fin 64) (tl : Fin 64)
  /-- FENCE (R236). Waits for earlier accesses of the masked classes and invalidates caches by scope. -/
  | fence (sc : Scope) (o : Bool) (a : Bool) (s : Bool)
  /-- BARP (R281). Arrives at the plot barrier and sleeps. -/
  | barp
  /-- BARC (R282). Arrives at a common barrier and sleeps if the plot is a member. -/
  | barc (a : Reg)
  /-- BCINIT (R275). Initialises a byte-count barrier. -/
  | bcinit (a : Reg) (b : Reg)
  /-- BCEXP (R277). Adds expected bytes to a byte-count barrier. -/
  | bcexp (a : Reg) (b : Reg)
  /-- BCARR (R276). Thread arrival at a byte-count barrier with a full release. -/
  | bcarr (a : Reg) (b : Reg)
  /-- BCWAIT (R279). Sleeps until the barrier's phase differs from the awaited one. -/
  | bcwait (a : Reg) (ph : Bool)
  /-- BCTEST (R279). Tests a barrier phase into a predicate without sleeping. -/
  | bctest (p : Fin 128) (a : Reg) (ph : Bool)
  /-- WAITW (R283). Sleeps until a memory word differs from a value. -/
  | waitw (a : Reg) (b : Reg)
  /-- MINT (R289). Mints a landing name bound to a register. -/
  | mint (d : Reg) (a : Reg) (b : Reg)
  /-- LAND (R290). Sends a value to a landing name as a posted release. -/
  | land (rc : RC) (sc : Scope) (w : Bool) (a : Reg) (b : Reg)
  /-- LWAIT (R292). Sleeps while a bound register is pending, then reports delivery. -/
  | lwait (p : Fin 128) (a : Reg)
  /-- LTEST (R292). Tests a bound register's landing state without sleeping. -/
  | ltest (p : Fin 128) (a : Reg)
  /-- LDROP (R293). Revokes an owned live landing name. -/
  | ldrop (a : Reg)
  /-- RNEXT (R285). Advances the ring cursor and returns the stage's full-barrier address. -/
  | rnext (d : Reg) (a : Reg)
  /-- MMA (R344). Issues a matrix multiply-accumulate command from a parameter block. -/
  | mma (g : Fin 128) (a : Reg)
  /-- MMAC (R345). Closes the open batch under a tag. -/
  | mmac (g : Fin 128) (t : Fin 64)
  /-- MWAITB (R346). Sleeps until a batch tag's count is 0. -/
  | mwaitb (t : Fin 64)
  /-- MDRAIN (R347). Issues a tile drain command from a drain block. -/
  | mdrain (g : Fin 128) (a : Reg)
  /-- MZERO (R351). Queues a command that zeroes a tile. -/
  | mzero (g : Fin 128) (arr : Bool) (tile : Bool)
  /-- MSTAT (R352). Reads and clears a tile status word. -/
  | mstat (d : Reg) (arr : Bool) (tile : Bool)
  /-- APIPE (R359). Issues an attention-pipe command. -/
  | apipe (g : Fin 128) (a : Reg)
  /-- CPOST (R317). Posts a copy command to the core's copy-engine front end. -/
  | cpost (g : Fin 128) (a : Reg)
  /-- QPOST (R318). Posts a packet from scratchpad to a work queue. -/
  | qpost (g : Fin 128) (a : Reg) (b : Reg)
  /-- TTLD (R322). Loads a tensor-table entry into 16 registers. -/
  | ttld (d : Reg) (a : Reg)
  /-- TTST (R322). Checks and stores a tensor-table entry, invalidating held copies. -/
  | ttst (g : Fin 128) (a : Reg) (b : Reg)
  /-- TTINV (R322). Invalidates a tensor-table entry. -/
  | ttinv (g : Fin 128) (a : Reg)
  /-- VBIND (R324). Binds a view entry to a shadow range by writing VIEW leaves. -/
  | vbind (g : Fin 128) (a : Reg) (b : Reg)
  /-- VUNBIND (R325). Removes a view binding from the shadow region. -/
  | vunbind (g : Fin 128) (b : Reg)
  /-- TRAP (R379). Takes a trap with code 0x06 and an immediate. -/
  | trap (i : Fin 128)
  /-- ERET (R376). Returns from the supervisor handler to EPC. -/
  | eret
  /-- SRD (R381). Reads a system register. -/
  | srd (d : Reg) (n : Fin 128)
  /-- SWR (R381). Writes a system register that has no row of its own. -/
  | swr (a : Reg) (n : Fin 128)
  /-- SWR (R378). Writes FPARK: records a handler fault, restores state and parks the thread. -/
  | swrFpark (a : Reg)
  /-- SWR (R193). Writes LPWCn, arming or releasing an LLC pinned window. -/
  | swrLpwc (a : Reg) (n : Fin 16)
  /-- BKPT (R379). Breakpoint: traps or stops the thread by BKS. -/
  | bkpt (i : Fin 128)
  /-- CINV (R383). Invalidates a line in L1 and/or L2. -/
  | cinv (a : Reg) (l1 : Bool) (l2 : Bool)
  /-- CWB (R383). Writes every dirty copy of a line back to HBM. -/
  | cwb (a : Reg)
  /-- TLBINV (R384). Invalidates translations of a page or of the context. -/
  | tlbinv (a : Reg) (all : Bool)
  /-- SEEDSET (R385). Writes the core's formation selector L. -/
  | seedset (a : Reg)
  /-- CLKRD (R382). Reads the 64-bit cycle counter. -/
  | clkrd (d : Reg)
  /-- ISSUE_CYCLE (R28). Each cycle the core issues one instruction from up to four ready drills, round-robin. -/
  | issueCycle
  /-- FORM_DRILL (R24). With a free slot and an eligible furrow, the core steps L and forms one drill. -/
  | formDrill (core : Nat)
  /-- FURROW_AGE_ELIGIBLE (R24). A furrow's oldest thread reaching 64 cycles filed makes the furrow eligible. -/
  | furrowAgeEligible (core : Nat) (furrow : Nat)
  /-- ROW_RENDEZVOUS_COMPLETE (R26). When every live thread of a row waits at a cross-lane instruction, the groups execute. -/
  | rowRendezvousComplete (tag : Nat) (row : Nat)
  /-- ROW_GROUP_EXECUTE (R149). A rendezvous group waiting for a drill slot executes once a slot frees. -/
  | rowGroupExecute (tag : Nat) (row : Nat)
  /-- TOKEN_READ (R36). The distributor re-reads a queue token after an update or every 10 us. -/
  | tokenRead (sow : Nat)
  /-- PLACE_TRACT (R31). The distributor places a waiting tract on the lowest fitting run of cores. -/
  | placeTract
  /-- QUANTUM_EXPIRY (R33). A tract resident for its quantum becomes a swap candidate. -/
  | quantumExpiry (tract : Nat)
  /-- SLEEP_CANDIDATE_TIMER (R33). A tract whose live threads have all slept 10 us becomes a swap candidate. -/
  | sleepCandidateTimer (tract : Nat)
  /-- SWAP_OUT (R391). Finishes or records outstanding work, writes the context image and frees the tract. -/
  | swapOut (tract : Nat)
  /-- SWAP_IN (R392). Restores an image, applies held arrivals and landings, reissues work and files threads. -/
  | swapIn (tract : Nat)
  /-- PLOT_RETIRE (R35). A plot retires when all threads exited and its issued work completed. -/
  | plotRetire (tag : Nat)
  /-- SOWING_COMPLETE (R305). All tracts retired: DONE is signalled and the completion record written. -/
  | sowingComplete (sow : Nat)
  /-- THREAD_WAKE (R258). A sleeping thread whose condition holds is filed at PC + 4. -/
  | threadWake (tag : Nat) (tid : Nat)
  /-- PAUSE_EXPIRY (R169). A PAUSE count runs out and the thread is filed. -/
  | pauseExpiry (tag : Nat) (tid : Nat)
  /-- WAITW_RECHECK (R283). On a write to the sector or after 10 us, WAITW reloads its word. -/
  | waitwRecheck (tag : Nat) (tid : Nat)
  /-- BARP_COMPLETE (R281). The plot barrier instance completes and its threads are filed. -/
  | barpComplete (tag : Nat)
  /-- BARC_COMPLETE (R282). A common barrier instance completes across its member plots. -/
  | barcComplete (sow : Nat) (com : Nat)
  /-- LOAD_RETURN (R255). An outstanding load or atomic writes its destination and lowers LD. -/
  | loadReturn (id : Nat) (value : WireValue)
  /-- STORE_ACK (R223). A store's performance is acknowledged and ST falls. -/
  | storeAck (ack : Ack)
  /-- PAGE_WALK (R178). A walker completes a four-level walk, possibly claiming a private page. -/
  | pageWalk (core : Nat) (ctx : Nat) (va : Nat)
  /-- DIRECTORY_MAKE_SHARED (R194). A miss on another core's private page moves its lines home and marks it shared. -/
  | directoryMakeShared (core : Nat) (ctx : Nat) (va : Nat)
  /-- REGION_WINDOW_END (R195). At the end of a 4,096-cycle window the region directory decides migration or split. -/
  | regionWindowEnd (line : DieLine)
  /-- REGION_MIGRATE (R196). A region is moved to its new L2 slice after held writes complete. -/
  | regionMigrate (line : DieLine)
  /-- REGION_MERGE (R195). Sibling halves idle for 10,000 cycles merge. -/
  | regionMerge (line : DieLine)
  /-- LPW_FADE_TICK (R193). Each millisecond an unhit armed window decrements FADE and may release. -/
  | lpwFadeTick (ctx : Nat) (n : Nat)
  /-- GLEAN (R212). A gleaner performs a view access through ViewToBase and sector sub-requests. -/
  | glean (id : Nat)
  /-- VIEW_ATOMIC (R216). The gleaner's combining unit applies an atomic to a base element. -/
  | viewAtomic (id : Nat)
  /-- FARAT_ATOMIC (R185). The HBM-side unit performs an access on a far-atomic page. -/
  | faratAtomic (id : Nat)
  /-- RESERVATION_EXPIRY (R198). An LR reservation is lost 4,096 cycles after the LR. -/
  | reservationExpiry (tag : Nat) (tid : Nat)
  /-- BARRIER_ARRIVE (R276). An engine or peer Arrive is applied at a barrier's bank, possibly completing a phase. -/
  | barrierArrive (id : Nat)
  /-- LAND_ARRIVE (R291). A LAND reaches its slot and is accepted, delivered or parked, or refused. -/
  | landArrive (id : Nat)
  /-- LAND_ANSWER (R291). The slot's answer returns to the sender, setting LANDX and a record if refused. -/
  | landAnswer (id : Nat)
  /-- SLOT_LAPSE (R294). A live minting slot expires, freeing it and marking its register lapsed. -/
  | slotLapse (core : Nat) (slot : Nat)
  /-- FRONT_END_TAKE_PACKET (R301). The front end reads a released slot header, consumes the packet and checks it. -/
  | frontEndTakePacket (q : Nat)
  /-- LAUNCH (R305). A launch packet is checked and its tracts queued for placement. -/
  | launch (q : Nat)
  /-- NOP_PACKET (R303). A nop packet completes at once. -/
  | nopPacket (q : Nat)
  /-- TOKEN_SIGNAL (R314). After earlier packets complete, adds VALUE to a token as a release. -/
  | tokenSignal (q : Nat)
  /-- QUEUE_COPY_HANDOFF (R441). A queue copy packet is handed to the queue copy engine once it has room. -/
  | queueCopyHandoff (q : Nat)
  /-- QPOST_RING_ROOM (R318). A QPOST waiting for ring room writes its slots and releases the header. -/
  | qpostRingRoom (id : Nat)
  /-- COPY (R307). Copy engine runs a plain or converting copy. -/
  | copy (id : Nat)
  /-- QUANTISING_COPY (R308). Copy engine quantises a tile into a BQ4 or MX tensor. -/
  | quantisingCopy (id : Nat)
  /-- CONDITIONAL_COPY (R309). Copy engine commits a tile only if the version word CAS succeeds. -/
  | conditionalCopy (id : Nat)
  /-- PEER_COPY (R310). Copy engine copies bytes to the same context on another device. -/
  | peerCopy (id : Nat)
  /-- COPY_COMPLETE (R314). A copy's last write performed: Arrive, completion record, counter falls. -/
  | copyComplete (id : Nat)
  /-- MMA_STREAM_START (R356). An accepted MMA begins streaming operands when order and the stream allow. -/
  | mmaStreamStart (core : Nat) (arr : Nat)
  /-- MMA_STREAM_END (R341). An MMA finishes streaming, arrives at its operand-release barrier and completes. -/
  | mmaStreamEnd (core : Nat) (arr : Nat)
  /-- MDRAIN_RUN (R348). A drain in its turn reads and converts tile rows and writes the destination. -/
  | mdrainRun (core : Nat) (arr : Nat)
  /-- MDRAIN_COMPLETE (R348). A drain's writes performed, it arrives and completes. -/
  | mdrainComplete (core : Nat) (arr : Nat)
  /-- MZERO_TURN (R351). An MZERO in its turn zeroes its tile and completes a cycle later. -/
  | mzeroTurn (core : Nat) (arr : Nat)
  /-- APIPE_START (R364). An accepted APIPE starts its sweeps once the row stage is free. -/
  | apipeStart (core : Nat)
  /-- APIPE_COMPLETE (R367). The APIPE writes maxima, row sums and its result record and completes. -/
  | apipeComplete (core : Nat)
  /-- FAULT_RECORD_FLUSH (R389). Held fault records are written once the queue has room or is usable. -/
  | faultRecordFlush (ctx : Nat)
  /-- PARKING_BUDGET_EXPIRY (R388). A tract's parking budget runs out with records unserviced and it is swapped out. -/
  | parkingBudgetExpiry (tract : Nat)
  /-- FAULT_SERVICE (R401). The steward services the next fault record: map a lazy page, resume, kill or abort. -/
  | faultService (service : Service)
  /-- DEBUG_SET_COMPARATOR (R395). Debug service sets an instruction-address comparator. -/
  | debugSetComparator (ctx : Nat) (n : Nat) (cmp : Comparator)
  /-- DEBUG_SET_CONTROL (R371). Debug service changes STILL, HAZ or BKS of a context. -/
  | debugSetControl (ctx : Nat) (still : Bool) (haz : Bool) (bks : Bool)
  /-- DEBUG_READ_STATE (R396). Debug service reads a stopped thread's state. -/
  | debugReadState (tag : Nat) (tid : Nat)
  /-- DEBUG_WRITE_STATE (R396). Debug service writes a stopped thread's state. -/
  | debugWriteState (tag : Nat) (tid : Nat) (image : BitVec 2048) (regs : List (BitVec 32))
  /-- DEBUG_RESUME (R397). Debug service files a stopped thread or a still tract. -/
  | debugResume (tag : Nat) (tid : Nat)
  /-- DEBUG_SINGLE_STEP (R398). Debug service executes one instruction of a stopped thread. -/
  | debugSingleStep (tag : Nat) (tid : Nat)
  /-- DEBUG_KILL (R14). Debug service kills a thread. -/
  | debugKill (tag : Nat) (tid : Nat)
  /-- FAULTS_HOLD (R403). Debug service holds servicing of a context's fault records. -/
  | faultsHold (ctx : Nat)
  /-- FAULTS_RELEASE (R403). Debug service releases held fault service in queue order. -/
  | faultsRelease (ctx : Nat)
  /-- FAULTS_KILL (R403). Debug service kills the thread of one held record. -/
  | faultsKill (ctx : Nat) (n : Nat)
  /-- H2D_DOORBELL (R421). Host write of H2DDB posts messages up to that sequence. -/
  | h2dDoorbell (seq : BitVec 32)
  /-- MAILBOX_WRITE (R420). Host write to a mailbox slot or field without behaviour of its own. -/
  | mailboxWrite (off : Nat) (value : BitVec 32)
  /-- MAILBOX_ACCEPT (R421). The steward accepts the next posted H2D message once the previous completes. -/
  | mailboxAccept
  /-- D2H_POST (R422). The steward posts a reply or event when the D2H ring has room. -/
  | d2hPost
  /-- SELF_TEST_RECORD (R430). Mailbox op 0x0001 returns the self-test record. -/
  | selfTestRecord
  /-- ATTESTATION (R431). Mailbox op 0x0002 writes a signed attestation report. -/
  | attestation
  /-- CERTIFICATES (R431). Mailbox op 0x0003 returns the device-key certificate chain. -/
  | certificates
  /-- CONTEXT_REGISTER (R371). Mailbox op 0x0010 checks and registers a context descriptor. -/
  | contextRegister
  /-- CONTEXT_UNREGISTER (R424). Mailbox op 0x0011 unregisters a context, busy while tracts exist. -/
  | contextUnregister
  /-- QUEUE_REGISTER (R299). Mailbox op 0x0012 binds a queue header to a context. -/
  | queueRegister
  /-- QUEUE_UNREGISTER (R424). Mailbox op 0x0013 unregisters a queue. -/
  | queueUnregister
  /-- PIN_CHANGE (R183). Mailbox op 0x0014 changes a pinned PTE, copying the frame to or from the pin area. -/
  | pinChange
  /-- LAZY_ADD (R400). Mailbox op 0x0015 adds a page to the lazy list. -/
  | lazyAdd
  /-- DISCARD (R202). Mailbox op 0x0016 drops cached copies and unsows a physical range. -/
  | discard
  /-- UNFREEZE (R394). Mailbox op 0x0018 releases a frozen master. -/
  | unfreeze
  /-- APERTURE_SET (R418). Mailbox op 0x0019 sets or closes a host aperture window. -/
  | apertureSet
  /-- PEER_WINDOW_SET (R414). Mailbox op 0x0020 sets a context's peer window. -/
  | peerWindowSet
  /-- LINK_KEY_ROTATE (R412). Mailbox op 0x0021 starts a link key rotation, or answers busy. -/
  | linkKeyRotate
  /-- MEMORY_KEY_ROTATE (R435). Mailbox op 0x0022 installs a new memory key version. -/
  | memoryKeyRotate
  /-- ERROR_LOG_READ (R424). Mailbox op 0x0030 copies the error log to a buffer. -/
  | errorLogRead
  /-- KEY_DELIVER (R412). The receiver installs the new link key and acknowledges. -/
  | keyDeliver (port : Nat) (key : BitVec 256)
  /-- KEY_INSTALL_ACK (R412). On the receiver's acknowledgement the sender switches generation. -/
  | keyInstallAck (port : Nat)
  /-- OLD_GENERATION_ACKED (R412). All old-generation flits acknowledged: sender erases its slot and sends a retire marker. -/
  | oldGenerationAcked (port : Nat)
  /-- RETIRE_MARKER (R412). The receiver erases the retired key slot. -/
  | retireMarker (port : Nat) (gen : Bool)
  /-- FLIT_RECEIVE (R411). A port decrypts and authenticates a flit, discarding it on failure. -/
  | flitReceive (port : Nat) (flit : Flit)
  /-- PORT_LINK_UP (R405). A port enters service, and held requests are sent. -/
  | portLinkUp (port : Nat) (lanes : Nat)
  /-- PORT_LEAVE_SERVICE (R409). A port leaves service and unacknowledged requests are resent. -/
  | portLeaveService (port : Nat)
  /-- O_REMAP_RELEASE (R408). Held class-O requests are released once earlier ones to the destination complete. -/
  | oRemapRelease (dst : Nat)
  /-- DEST_UNREACHABLE (R410). After 100 ms with no eligible port the destination is declared unreachable. -/
  | destUnreachable (dst : Nat)
  /-- FABRIC_REQUEST_RECEIVE (R413). A remote request arrives and is checked against context and peer windows. -/
  | fabricRequestReceive (req : FabReq)
  /-- RELAY_FORWARD (R407). A relay engine forwards a class-S request to its destination. -/
  | relayForward (id : Nat)
  /-- HOST_ACCESS (R418). A host access through the Igmel link is performed or is a violation. -/
  | hostAccess (acc : HostAcc)
  /-- POWER_ON (R425). Power-on starts the boot stages. -/
  | powerOn (st : SelfTest)
  /-- DEVICE_RESET (R423). Reset clears the mailbox, increments EPOCH and reruns boot. -/
  | deviceReset (st : SelfTest)
  /-- PATROL_SCRUB (R435). The scrub visits a sown line, correcting and re-encrypting it. -/
  | patrolScrub (line : Nat)
  /-- POWER_THROTTLE (R438). Power above PCAP or junction above 95 C lowers the core clock. -/
  | powerThrottle (watts : Nat) (celsius : Nat)
  /-- THERMAL_TRIP (R438). At 105 C the device enters the fallow state. -/
  | thermalTrip
  /-- UNCORRECTABLE_ERROR (R437). An uncorrectable SECDED error invalidates, poisons or freezes. -/
  | uncorrectableError (site : ErrSite)
  /-- REACHABILITY_TABLE_CHANGE (R405). The steward's reachability table changes which destinations lie behind a port, changing E(dst) without any local port entering or leaving service. -/
  | reachabilityTableChange (port : Nat) (dsts : List Nat)
  deriving DecidableEq, Repr

end Sys2Proof
end

