-- ==== Sys2Proof/WellFormed.lean ====
section
/-! DEFINITION. When an instruction is well formed: every field holds a value that spec 03 allows
(R43, R45, R56 to R58, R64 to R70), and every operand of a step of the device lies in its range. -/

namespace Sys2Proof

/-- A 32-bit destination (03 R43): k0-k11, tid, lane and clk are illegal. -/
def Reg.dst32 : Reg → Bool
  | .w _ | .ix | .wix | .zero => true
  | .k _ | .tid | .lane | .clk => false

/-- A pair as a source (03 R45). -/
def Reg.src64 : Reg → Bool
  | .w n => n.val % 2 == 0
  | .k n => n.val % 2 == 0
  | .wix | .zero => true
  | .ix | .tid | .lane | .clk => false

/-- A pair as a destination (03 R43, R45). -/
def Reg.dst64 : Reg → Bool
  | .w n => n.val % 2 == 0
  | .wix | .zero => true
  | .k _ | .ix | .tid | .lane | .clk => false

/-- A quad as a source (03 R45). -/
def Reg.src128 : Reg → Bool
  | .w n => n.val % 4 == 0
  | .k n => n.val % 4 == 0
  | .wix | .zero => true
  | .ix | .tid | .lane | .clk => false

/-- A quad as a destination, or read and written (03 R43, R45). -/
def Reg.dst128 : Reg → Bool
  | .w n => n.val % 4 == 0
  | .wix | .zero => true
  | .k _ | .ix | .tid | .lane | .clk => false

/-- A 16-register block (03 R45): no plot-constant block exists. -/
def Reg.srcBlk : Reg → Bool
  | .w n => n.val % 4 == 0
  | .wix | .zero => true
  | .k _ | .ix | .tid | .lane | .clk => false

/-- A 16-register block as a destination (03 R45). -/
def Reg.dstBlk : Reg → Bool := Reg.srcBlk

/-- A register that MINT can bind (13 R289); LWAIT and LTEST name the same registers (log 23). -/
def Reg.bindable : Reg → Bool
  | .w _ | .wix => true
  | .k _ | .ix | .tid | .lane | .zero | .clk => false

/-- Elements of a packed type (05 Table 5.4). -/
def FTy.elems : FTy → Nat
  | .f32 => 1
  | .h2 | .b2 => 2
  | .e4 => 4

/-- Target of XCVT (03 Table 3.20): CE 5 to 7 are illegal. -/
def CE.axaTarget : CE → Bool
  | .f32 | .f16 | .bf16 | .e4m3 | .e5m2 => true
  | .e2m3 | .e3m2 | .e2m1 => false

/-- Target of CVTPK (03 Table 3.21): CE 1 to 4. -/
def CE.packTarget : CE → Bool
  | .f16 | .bf16 | .e4m3 | .e5m2 => true
  | .f32 | .e2m3 | .e3m2 | .e2m1 => false

/-- Source of CVTPK: a pair to F16 or BF16, otherwise a quad (03 Table 3.20). -/
def Reg.packSource (r : Reg) (ce : CE) : Bool :=
  match ce with
  | .f16 | .bf16 => r.src64
  | .f32 | .e4m3 | .e5m2 | .e2m3 | .e3m2 | .e2m1 => r.src128

/-- RT 3 and 4 are 64 bits wide (03 Table 3.20). -/
def RT.wide : RT → Bool
  | .i64 | .u64 => true
  | .i32 | .u32 | .f32 => false

/-- Destination of a row instruction by RT (03 Table 3.20). -/
def Reg.dstRT (r : Reg) (rt : RT) : Bool := if rt.wide then r.dst64 else r.dst32

/-- Source of a row instruction by RT (03 Table 3.20). -/
def Reg.srcRT (r : Reg) (rt : RT) : Bool := if rt.wide then r.src64 else true

/-- Destination of a load by SZ (03 Table 3.5). -/
def Reg.dstSz (r : Reg) : Sz → Bool
  | .u8 | .s8 | .u16 | .s16 | .w32 => r.dst32
  | .w64 => r.dst64
  | .w128 => r.dst128

/-- Source of a store by SZ (03 Table 3.5). -/
def Reg.srcSz (r : Reg) : Sz → Bool
  | .u8 | .s8 | .u16 | .s16 | .w32 => true
  | .w64 => r.src64
  | .w128 => r.src128

/-- Sizes a store may name (03 R56): no sign extension. -/
def Sz.storeOk : Sz → Bool
  | .u8 | .u16 | .w32 | .w64 | .w128 => true
  | .s8 | .s16 => false

/-- Sizes LR and SC may name (03 R56). -/
def Sz.exclusiveOk : Sz → Bool
  | .w32 | .w64 => true
  | .u8 | .s8 | .u16 | .s16 | .w128 => false

/-- A system register number that Table 21.2 lists (21 R372). -/
def sysListed (n : Nat) : Bool :=
  decide (n ≤ 8) || (decide (16 ≤ n) && decide (n ≤ 47)) || (decide (48 ≤ n) && decide (n ≤ 60))

/-- Numbers SRD may name in some mode (21 R372): SRD of FPARK is illegal. -/
def srdListed (n : Fin 128) : Bool := sysListed n.val && n.val != 60

/-- Numbers SWR may name in some mode (21 R372): PTAG, CORE and LSEL are read only. FPARK and the
LPWC registers have their own constructors. -/
def swrListed (n : Fin 128) : Bool :=
  sysListed n.val && n.val != 5 && n.val != 7 && n.val != 8 && n.val != 60 &&
    !(decide (32 ≤ n.val) && decide (n.val ≤ 47))

/-- Sizes of a view access (09 R214, R216). -/
def ViewAct.ok : ViewAct → Bool
  | .load bytes => [1, 2, 4, 8, 16].contains bytes
  | .store data => [1, 2, 4, 8, 16].contains data.length
  | .atomic aop _ _ => decide (aop < 14)

/-- A die and a line of the device. -/
def DieLine.ok (l : DieLine) : Bool := decide (l.die < 4) && decide (l.line < 2 ^ 32)

/-- Request sizes of the fabric (23 Table 23.1), within one 128-byte line. -/
def FabReq.ok (r : FabReq) : Bool :=
  decide (r.port < 24) && decide (r.src < 1024) && decide (r.dst < 1024) &&
  match r.kind with
  | .read pa len => decide (4 ≤ len) && decide (len ≤ 128) && decide (pa % 128 + len ≤ 128) && decide (pa < 2 ^ 42)
  | .write pa data => decide (4 ≤ data.length) && decide (pa % 128 + data.length ≤ 128) && decide (pa < 2 ^ 42) && data.any Option.isSome
  | .atomic pa bytes aop _ _ => (bytes == 4 || bytes == 8 || bytes == 16) && pa % bytes == 0 && decide (pa < 2 ^ 42) && decide (aop < 14)
  | .lr pa bytes _ _ => (bytes == 4 || bytes == 8) && pa % bytes == 0 && decide (pa < 2 ^ 42)
  | .sc pa data _ _ => (data.length == 4 || data.length == 8) && pa % data.length == 0 && decide (pa < 2 ^ 42)
  | .view id _ act => decide (id < 4096) && act.ok
  | .land _ _ _ _ => true
  | .arrive _ n => decide (n < 2 ^ 32)

/-- A host access names local addresses of the device (23 R418). -/
def HostAcc.ok : HostAcc → Bool
  | .read pa len => decide (1 ≤ len) && decide (pa + len ≤ 2 ^ 42)
  | .write pa data _ => decide (1 ≤ data.length) && decide (pa + data.length ≤ 2 ^ 42)

/-- Every field of the instruction holds a value the spec allows. -/
def Instr.wf : Instr → Bool
  | .iadd d _ _ _ => d.dst32
  | .isub d _ _ _ => d.dst32
  | .imul d _ _ _ => d.dst32
  | .imulh d _ _ _ => d.dst32
  | .imulhu d _ _ _ => d.dst32
  | .imad d _ _ _ => d.dst32
  | .divs d _ _ _ => d.dst32
  | .divu d _ _ _ => d.dst32
  | .rems d _ _ _ => d.dst32
  | .remu d _ _ _ => d.dst32
  | .imin d _ _ _ => d.dst32
  | .imax d _ _ _ => d.dst32
  | .iminu d _ _ _ => d.dst32
  | .imaxu d _ _ _ => d.dst32
  | .iabs d _ _ => d.dst32
  | .ineg d _ _ => d.dst32
  | .andb d _ _ _ => d.dst32
  | .orb d _ _ _ => d.dst32
  | .xorb d _ _ _ => d.dst32
  | .andn d _ _ _ => d.dst32
  | .shl d _ _ _ => d.dst32
  | .shr d _ _ _ => d.dst32
  | .sar d _ _ _ => d.dst32
  | .rotl d _ _ _ => d.dst32
  | .popc d _ _ => d.dst32
  | .clz d _ _ => d.dst32
  | .brev d _ _ => d.dst32
  | .bfe d _ _ _ => d.dst32
  | .bfi d _ _ _ => d.dst32
  | .lea d a _ _ => d.dst64 && a.src64
  | .sel d _ _ _ => d.dst32
  | .mov d _ _ => d.dst32
  | .iadd64 d a b _ => d.dst64 && a.src64 && b.src64
  | .isub64 d a b _ => d.dst64 && a.src64 && b.src64
  | .imul64 d a b _ => d.dst64 && a.src64 && b.src64
  | .mov64 d a _ => d.dst64 && a.src64
  | .shl64 d a _ _ => d.dst64 && a.src64
  | .shr64 d a _ _ => d.dst64 && a.src64
  | .sar64 d a _ _ => d.dst64 && a.src64
  | .imad64 d a b _ => d.dst64 && a.src64 && b.src64
  | .icmpEq _ _ _ _ => true
  | .icmpNe _ _ _ _ => true
  | .icmpLt _ _ _ _ => true
  | .icmpLe _ _ _ _ => true
  | .icmpLtu _ _ _ _ => true
  | .icmpLeu _ _ _ _ => true
  | .itst _ _ _ _ => true
  | .itstn _ _ _ _ => true
  | .pand _ _ _ _ => true
  | .por _ _ _ _ => true
  | .pxor _ _ _ _ => true
  | .pandn _ _ _ _ => true
  | .pmov _ _ _ => true
  | .ptor d q _ => d.dst32 && q.val % 32 == 0
  | .rtop p _ _ => p.val % 32 == 0
  | .pcnt d q _ => d.dst32 && q.val % 32 == 0
  | .fadd _ d _ _ _ => d.dst32
  | .fsub _ d _ _ _ => d.dst32
  | .fmul _ d _ _ _ => d.dst32
  | .ffma _ d _ _ _ => d.dst32
  | .fmin _ d _ _ _ => d.dst32
  | .fmax _ d _ _ _ => d.dst32
  | .fcmpeq ty p _ _ _ => p.val % ty.elems == 0
  | .fcmplt ty p _ _ _ => p.val % ty.elems == 0
  | .fcmple ty p _ _ _ => p.val % ty.elems == 0
  | .fcmpun ty p _ _ _ => p.val % ty.elems == 0
  | .fdiv d _ _ _ => d.dst32
  | .fsqrt d _ _ => d.dst32
  | .frsq d _ _ => d.dst32
  | .frcp d _ _ => d.dst32
  | .fexp2 d _ _ => d.dst32
  | .flog2 d _ _ => d.dst32
  | .fsinpi d _ _ => d.dst32
  | .fcospi d _ _ => d.dst32
  | .ftanh d _ _ => d.dst32
  | .fsigm d _ _ => d.dst32
  | .fldexp d _ _ _ => d.dst32
  | .frint d _ _ => d.dst32
  | .cvtfi d _ _ _ _ => d.dst32
  | .cvtif d _ _ _ _ => d.dst32
  | .cvtff d _ _ _ _ => d.dst32
  | .cvtpk d a ce _ => d.dst32 && ce.packTarget && a.packSource ce
  | .fabs d _ _ => d.dst32
  | .fneg d _ _ => d.dst32
  | .fcpys d _ _ _ => d.dst32
  | .fclass d _ _ => d.dst32
  | .xacc d _ _ _ => d.dst128
  | .xadd d a _ => d.dst128 && a.src128
  | .xcvt d a ce _ => d.dst32 && a.src128 && ce.axaTarget
  | .xneg d a _ => d.dst128 && a.src128
  | .xanc _ _ => true
  | .xdoth d _ _ _ => d.dst128
  | .xdotb d _ _ _ => d.dst128
  | .xcmp _ a b _ => a.src128 && b.src128
  | .rshf d _ _ _ => d.dst32
  | .rshfx d _ _ _ => d.dst32
  | .rbcast d _ _ _ => d.dst32
  | .rballot d _ _ => d.dst64
  | .rredAddi d a rt _ => d.dstRT rt && a.srcRT rt && rt != .f32
  | .rredAddf d _ _ => d.dst32
  | .rredMin d a rt _ => d.dstRT rt && a.srcRT rt
  | .rredMax d a rt _ => d.dstRT rt && a.srcRT rt
  | .rscani d a rt _ _ => d.dstRT rt && a.srcRT rt && rt != .f32
  | .rscanf d _ _ _ => d.dst32
  | .rany _ _ _ => true
  | .rall _ _ _ => true
  | .movi d _ => d.dst32
  | .movhi d _ => d.dst32
  | .addi d _ => d.dst32
  | .andi d _ => d.dst32
  | .ori d _ => d.dst32
  | .xori d _ => d.dst32
  | .shli d _ => d.dst32
  | .shri d _ => d.dst32
  | .fmoviF32Bf d _ => d.dst32
  | .fmoviF32Hf d _ => d.dst32
  | .fmoviE4 d _ => d.dst32
  | .fmoviE5 d _ => d.dst32
  | .fmoviB2 d _ => d.dst32
  | .fmoviH2 d _ => d.dst32
  | .faddiF32 d _ => d.dst32
  | .fmuliF32 d _ => d.dst32
  | .winb _ => true
  | .ixset _ => true
  | .ixadd _ => true
  | .ld d a _ _ _ _ sz => d.dstSz sz && a.src64
  | .st d a _ _ _ _ sz => d.srcSz sz && a.src64 && sz.storeOk
  | .lds d _ _ sz => d.dstSz sz
  | .sts d _ _ sz => d.srcSz sz && sz.storeOk
  | .atomAdd w d a _ _ _ => (if w then d.dst64 else d.dst32) && a.src64
  | .atomAnd w d a _ _ _ => (if w then d.dst64 else d.dst32) && a.src64
  | .atomOr w d a _ _ _ => (if w then d.dst64 else d.dst32) && a.src64
  | .atomXor w d a _ _ _ => (if w then d.dst64 else d.dst32) && a.src64
  | .atomMin w d a _ _ _ => (if w then d.dst64 else d.dst32) && a.src64
  | .atomMax w d a _ _ _ => (if w then d.dst64 else d.dst32) && a.src64
  | .atomMinu w d a _ _ _ => (if w then d.dst64 else d.dst32) && a.src64
  | .atomMaxu w d a _ _ _ => (if w then d.dst64 else d.dst32) && a.src64
  | .atomExch w d a _ _ _ => (if w then d.dst64 else d.dst32) && a.src64
  | .atomCas w d a _ _ _ => (if w then d.dst128 else d.dst64) && a.src64
  | .atomFaddF32 d a _ _ _ => d.dst32 && a.src64
  | .atomXadd128 d a _ _ _ => d.dst128 && a.src64
  | .atomIncw w d a _ _ _ => (if w then d.dst64 else d.dst32) && a.src64
  | .atomDecw w d a _ _ _ => (if w then d.dst64 else d.dst32) && a.src64
  | .atomsAdd w d _ _ _ => (if w then d.dst64 else d.dst32)
  | .atomsAnd w d _ _ _ => (if w then d.dst64 else d.dst32)
  | .atomsOr w d _ _ _ => (if w then d.dst64 else d.dst32)
  | .atomsXor w d _ _ _ => (if w then d.dst64 else d.dst32)
  | .atomsMin w d _ _ _ => (if w then d.dst64 else d.dst32)
  | .atomsMax w d _ _ _ => (if w then d.dst64 else d.dst32)
  | .atomsMinu w d _ _ _ => (if w then d.dst64 else d.dst32)
  | .atomsMaxu w d _ _ _ => (if w then d.dst64 else d.dst32)
  | .atomsExch w d _ _ _ => (if w then d.dst64 else d.dst32)
  | .atomsCas w d _ _ _ => (if w then d.dst128 else d.dst64)
  | .atomsFaddF32 d _ _ _ => d.dst32
  | .atomsXadd128 d _ _ _ => d.dst128
  | .atomsIncw w d _ _ _ => (if w then d.dst64 else d.dst32)
  | .atomsDecw w d _ _ _ => (if w then d.dst64 else d.dst32)
  | .lr d a _ _ _ _ sz => d.dstSz sz && a.src64 && sz.exclusiveOk
  | .sc d a _ _ _ _ sz => d.dstSz sz && a.src64 && sz.exclusiveOk
  | .bra _ _ _ => true
  | .brf _ _ _ => true
  | .call _ _ _ => true
  | .nop _ => true
  | .ret _ => true
  | .calli _ a => a.src64
  | .jmpi _ a => a.src64
  | .reform _ => true
  | .exit _ => true
  | .yield _ => true
  | .pause _ _ => true
  | .setrm _ _ => true
  | .wait _ _ _ _ => true
  | .fence _ o a s => (o || a || s)
  | .barp => true
  | .barc _ => true
  | .bcinit _ _ => true
  | .bcexp _ _ => true
  | .bcarr _ _ => true
  | .bcwait _ _ => true
  | .bctest _ _ _ => true
  | .waitw a _ => a.src64
  | .mint d a _ => d.dst64 && a.bindable
  | .land _ _ w a b => a.src64 && (!w || b.src64)
  | .lwait _ a => a.bindable
  | .ltest _ a => a.bindable
  | .ldrop a => a.src64
  | .rnext d _ => d.dst32
  | .mma _ _ => true
  | .mmac _ _ => true
  | .mwaitb _ => true
  | .mdrain _ _ => true
  | .mzero _ _ _ => true
  | .mstat d _ _ => d.dst32
  | .apipe _ _ => true
  | .cpost _ _ => true
  | .qpost _ a _ => a.src64
  | .ttld d _ => d.dstBlk
  | .ttst _ _ b => b.srcBlk
  | .ttinv _ _ => true
  | .vbind _ _ b => b.src64
  | .vunbind _ b => b.src64
  | .trap _ => true
  | .eret => true
  | .srd d n => d.dst32 && srdListed n
  | .swr _ n => swrListed n
  | .swrFpark _ => true
  | .swrLpwc _ _ => true
  | .bkpt _ => true
  | .cinv a l1 l2 => a.src64 && (l1 || l2)
  | .cwb a => a.src64
  | .tlbinv a _ => a.src64
  | .seedset _ => true
  | .clkrd d => d.dst64
  | .issueCycle => true
  | .formDrill core => decide (core < 128)
  | .furrowAgeEligible core furrow => decide (core < 128) && decide (furrow < 128)
  | .rowRendezvousComplete tag row => decide (tag < 2 ^ 20) && decide (row < 64)
  | .rowGroupExecute tag row => decide (tag < 2 ^ 20) && decide (row < 64)
  | .tokenRead _ => true
  | .placeTract => true
  | .quantumExpiry _ => true
  | .sleepCandidateTimer _ => true
  | .swapOut _ => true
  | .swapIn _ => true
  | .plotRetire tag => decide (tag < 2 ^ 20)
  | .sowingComplete _ => true
  | .threadWake tag tid => decide (tag < 2 ^ 20) && decide (tid < 4096)
  | .pauseExpiry tag tid => decide (tag < 2 ^ 20) && decide (tid < 4096)
  | .waitwRecheck tag tid => decide (tag < 2 ^ 20) && decide (tid < 4096)
  | .barpComplete tag => decide (tag < 2 ^ 20)
  | .barcComplete _ com => decide (com < 256)
  | .loadReturn _ _ => true
  | .storeAck _ => true
  | .pageWalk core _ va => decide (core < 128) && decide (va < 2 ^ 64)
  | .directoryMakeShared core _ va => decide (core < 128) && decide (va < 2 ^ 64)
  | .regionWindowEnd l => l.ok
  | .regionMigrate l => l.ok
  | .regionMerge l => l.ok
  | .lpwFadeTick _ n => decide (n < 16)
  | .glean _ => true
  | .viewAtomic _ => true
  | .faratAtomic _ => true
  | .reservationExpiry tag tid => decide (tag < 2 ^ 20) && decide (tid < 4096)
  | .barrierArrive _ => true
  | .landArrive _ => true
  | .landAnswer _ => true
  | .slotLapse core slot => decide (core < 128) && decide (slot < 4096)
  | .frontEndTakePacket _ => true
  | .launch _ => true
  | .nopPacket _ => true
  | .tokenSignal _ => true
  | .queueCopyHandoff _ => true
  | .qpostRingRoom _ => true
  | .copy _ => true
  | .quantisingCopy _ => true
  | .conditionalCopy _ => true
  | .peerCopy _ => true
  | .copyComplete _ => true
  | .mmaStreamStart core arr => decide (core < 128) && decide (arr < 2)
  | .mmaStreamEnd core arr => decide (core < 128) && decide (arr < 2)
  | .mdrainRun core arr => decide (core < 128) && decide (arr < 2)
  | .mdrainComplete core arr => decide (core < 128) && decide (arr < 2)
  | .mzeroTurn core arr => decide (core < 128) && decide (arr < 2)
  | .apipeStart core => decide (core < 128)
  | .apipeComplete core => decide (core < 128)
  | .faultRecordFlush _ => true
  | .parkingBudgetExpiry _ => true
  | .faultService _ => true
  | .debugSetComparator _ n cmp => decide (n < 16) && cmp.addr.toNat % 4 == 0
  | .debugSetControl _ _ _ _ => true
  | .debugReadState tag tid => decide (tag < 2 ^ 20) && decide (tid < 4096)
  | .debugWriteState tag tid _ _ => decide (tag < 2 ^ 20) && decide (tid < 4096)
  | .debugResume tag tid => decide (tag < 2 ^ 20) && decide (tid < 4096)
  | .debugSingleStep tag tid => decide (tag < 2 ^ 20) && decide (tid < 4096)
  | .debugKill tag tid => decide (tag < 2 ^ 20) && decide (tid < 4096)
  | .faultsHold _ => true
  | .faultsRelease _ => true
  | .faultsKill _ _ => true
  | .h2dDoorbell _ => true
  | .mailboxWrite off _ => decide (off < 4096) && off % 4 == 0
  | .mailboxAccept => true
  | .d2hPost => true
  | .selfTestRecord => true
  | .attestation => true
  | .certificates => true
  | .contextRegister => true
  | .contextUnregister => true
  | .queueRegister => true
  | .queueUnregister => true
  | .pinChange => true
  | .lazyAdd => true
  | .discard => true
  | .unfreeze => true
  | .apertureSet => true
  | .peerWindowSet => true
  | .linkKeyRotate => true
  | .memoryKeyRotate => true
  | .errorLogRead => true
  | .keyDeliver port _ => decide (port < 24)
  | .keyInstallAck port => decide (port < 24)
  | .oldGenerationAcked port => decide (port < 24)
  | .retireMarker port _ => decide (port < 24)
  | .flitReceive port _ => decide (port < 24)
  | .portLinkUp port lanes => decide (port < 24) && decide (lanes < 5)
  | .portLeaveService port => decide (port < 24)
  | .oRemapRelease dst => decide (dst < 1024)
  | .destUnreachable dst => decide (dst < 1024)
  | .fabricRequestReceive req => req.ok
  | .relayForward _ => true
  | .hostAccess acc => acc.ok
  | .powerOn _ => true
  | .deviceReset _ => true
  | .patrolScrub line => decide (line < 2 ^ 32)
  | .powerThrottle _ _ => true
  | .thermalTrip => true
  | .uncorrectableError _ => true
  | .reachabilityTableChange port dsts => decide (port < 24) && dsts.all (fun x => decide (x < 1024))

/-- A step of the device: a constructor without an encoding. -/
def Instr.isEvent : Instr → Bool
  | .iadd _ _ _ _ => false
  | .isub _ _ _ _ => false
  | .imul _ _ _ _ => false
  | .imulh _ _ _ _ => false
  | .imulhu _ _ _ _ => false
  | .imad _ _ _ _ => false
  | .divs _ _ _ _ => false
  | .divu _ _ _ _ => false
  | .rems _ _ _ _ => false
  | .remu _ _ _ _ => false
  | .imin _ _ _ _ => false
  | .imax _ _ _ _ => false
  | .iminu _ _ _ _ => false
  | .imaxu _ _ _ _ => false
  | .iabs _ _ _ => false
  | .ineg _ _ _ => false
  | .andb _ _ _ _ => false
  | .orb _ _ _ _ => false
  | .xorb _ _ _ _ => false
  | .andn _ _ _ _ => false
  | .shl _ _ _ _ => false
  | .shr _ _ _ _ => false
  | .sar _ _ _ _ => false
  | .rotl _ _ _ _ => false
  | .popc _ _ _ => false
  | .clz _ _ _ => false
  | .brev _ _ _ => false
  | .bfe _ _ _ _ => false
  | .bfi _ _ _ _ => false
  | .lea _ _ _ _ => false
  | .sel _ _ _ _ => false
  | .mov _ _ _ => false
  | .iadd64 _ _ _ _ => false
  | .isub64 _ _ _ _ => false
  | .imul64 _ _ _ _ => false
  | .mov64 _ _ _ => false
  | .shl64 _ _ _ _ => false
  | .shr64 _ _ _ _ => false
  | .sar64 _ _ _ _ => false
  | .imad64 _ _ _ _ => false
  | .icmpEq _ _ _ _ => false
  | .icmpNe _ _ _ _ => false
  | .icmpLt _ _ _ _ => false
  | .icmpLe _ _ _ _ => false
  | .icmpLtu _ _ _ _ => false
  | .icmpLeu _ _ _ _ => false
  | .itst _ _ _ _ => false
  | .itstn _ _ _ _ => false
  | .pand _ _ _ _ => false
  | .por _ _ _ _ => false
  | .pxor _ _ _ _ => false
  | .pandn _ _ _ _ => false
  | .pmov _ _ _ => false
  | .ptor _ _ _ => false
  | .rtop _ _ _ => false
  | .pcnt _ _ _ => false
  | .fadd _ _ _ _ _ => false
  | .fsub _ _ _ _ _ => false
  | .fmul _ _ _ _ _ => false
  | .ffma _ _ _ _ _ => false
  | .fmin _ _ _ _ _ => false
  | .fmax _ _ _ _ _ => false
  | .fcmpeq _ _ _ _ _ => false
  | .fcmplt _ _ _ _ _ => false
  | .fcmple _ _ _ _ _ => false
  | .fcmpun _ _ _ _ _ => false
  | .fdiv _ _ _ _ => false
  | .fsqrt _ _ _ => false
  | .frsq _ _ _ => false
  | .frcp _ _ _ => false
  | .fexp2 _ _ _ => false
  | .flog2 _ _ _ => false
  | .fsinpi _ _ _ => false
  | .fcospi _ _ _ => false
  | .ftanh _ _ _ => false
  | .fsigm _ _ _ => false
  | .fldexp _ _ _ _ => false
  | .frint _ _ _ => false
  | .cvtfi _ _ _ _ _ => false
  | .cvtif _ _ _ _ _ => false
  | .cvtff _ _ _ _ _ => false
  | .cvtpk _ _ _ _ => false
  | .fabs _ _ _ => false
  | .fneg _ _ _ => false
  | .fcpys _ _ _ _ => false
  | .fclass _ _ _ => false
  | .xacc _ _ _ _ => false
  | .xadd _ _ _ => false
  | .xcvt _ _ _ _ => false
  | .xneg _ _ _ => false
  | .xanc _ _ => false
  | .xdoth _ _ _ _ => false
  | .xdotb _ _ _ _ => false
  | .xcmp _ _ _ _ => false
  | .rshf _ _ _ _ => false
  | .rshfx _ _ _ _ => false
  | .rbcast _ _ _ _ => false
  | .rballot _ _ _ => false
  | .rredAddi _ _ _ _ => false
  | .rredAddf _ _ _ => false
  | .rredMin _ _ _ _ => false
  | .rredMax _ _ _ _ => false
  | .rscani _ _ _ _ _ => false
  | .rscanf _ _ _ _ => false
  | .rany _ _ _ => false
  | .rall _ _ _ => false
  | .movi _ _ => false
  | .movhi _ _ => false
  | .addi _ _ => false
  | .andi _ _ => false
  | .ori _ _ => false
  | .xori _ _ => false
  | .shli _ _ => false
  | .shri _ _ => false
  | .fmoviF32Bf _ _ => false
  | .fmoviF32Hf _ _ => false
  | .fmoviE4 _ _ => false
  | .fmoviE5 _ _ => false
  | .fmoviB2 _ _ => false
  | .fmoviH2 _ _ => false
  | .faddiF32 _ _ => false
  | .fmuliF32 _ _ => false
  | .winb _ => false
  | .ixset _ => false
  | .ixadd _ => false
  | .ld _ _ _ _ _ _ _ => false
  | .st _ _ _ _ _ _ _ => false
  | .lds _ _ _ _ => false
  | .sts _ _ _ _ => false
  | .atomAdd _ _ _ _ _ _ => false
  | .atomAnd _ _ _ _ _ _ => false
  | .atomOr _ _ _ _ _ _ => false
  | .atomXor _ _ _ _ _ _ => false
  | .atomMin _ _ _ _ _ _ => false
  | .atomMax _ _ _ _ _ _ => false
  | .atomMinu _ _ _ _ _ _ => false
  | .atomMaxu _ _ _ _ _ _ => false
  | .atomExch _ _ _ _ _ _ => false
  | .atomCas _ _ _ _ _ _ => false
  | .atomFaddF32 _ _ _ _ _ => false
  | .atomXadd128 _ _ _ _ _ => false
  | .atomIncw _ _ _ _ _ _ => false
  | .atomDecw _ _ _ _ _ _ => false
  | .atomsAdd _ _ _ _ _ => false
  | .atomsAnd _ _ _ _ _ => false
  | .atomsOr _ _ _ _ _ => false
  | .atomsXor _ _ _ _ _ => false
  | .atomsMin _ _ _ _ _ => false
  | .atomsMax _ _ _ _ _ => false
  | .atomsMinu _ _ _ _ _ => false
  | .atomsMaxu _ _ _ _ _ => false
  | .atomsExch _ _ _ _ _ => false
  | .atomsCas _ _ _ _ _ => false
  | .atomsFaddF32 _ _ _ _ => false
  | .atomsXadd128 _ _ _ _ => false
  | .atomsIncw _ _ _ _ _ => false
  | .atomsDecw _ _ _ _ _ => false
  | .lr _ _ _ _ _ _ _ => false
  | .sc _ _ _ _ _ _ _ => false
  | .bra _ _ _ => false
  | .brf _ _ _ => false
  | .call _ _ _ => false
  | .nop _ => false
  | .ret _ => false
  | .calli _ _ => false
  | .jmpi _ _ => false
  | .reform _ => false
  | .exit _ => false
  | .yield _ => false
  | .pause _ _ => false
  | .setrm _ _ => false
  | .wait _ _ _ _ => false
  | .fence _ _ _ _ => false
  | .barp => false
  | .barc _ => false
  | .bcinit _ _ => false
  | .bcexp _ _ => false
  | .bcarr _ _ => false
  | .bcwait _ _ => false
  | .bctest _ _ _ => false
  | .waitw _ _ => false
  | .mint _ _ _ => false
  | .land _ _ _ _ _ => false
  | .lwait _ _ => false
  | .ltest _ _ => false
  | .ldrop _ => false
  | .rnext _ _ => false
  | .mma _ _ => false
  | .mmac _ _ => false
  | .mwaitb _ => false
  | .mdrain _ _ => false
  | .mzero _ _ _ => false
  | .mstat _ _ _ => false
  | .apipe _ _ => false
  | .cpost _ _ => false
  | .qpost _ _ _ => false
  | .ttld _ _ => false
  | .ttst _ _ _ => false
  | .ttinv _ _ => false
  | .vbind _ _ _ => false
  | .vunbind _ _ => false
  | .trap _ => false
  | .eret => false
  | .srd _ _ => false
  | .swr _ _ => false
  | .swrFpark _ => false
  | .swrLpwc _ _ => false
  | .bkpt _ => false
  | .cinv _ _ _ => false
  | .cwb _ => false
  | .tlbinv _ _ => false
  | .seedset _ => false
  | .clkrd _ => false
  | .issueCycle => true
  | .formDrill _ => true
  | .furrowAgeEligible _ _ => true
  | .rowRendezvousComplete _ _ => true
  | .rowGroupExecute _ _ => true
  | .tokenRead _ => true
  | .placeTract => true
  | .quantumExpiry _ => true
  | .sleepCandidateTimer _ => true
  | .swapOut _ => true
  | .swapIn _ => true
  | .plotRetire _ => true
  | .sowingComplete _ => true
  | .threadWake _ _ => true
  | .pauseExpiry _ _ => true
  | .waitwRecheck _ _ => true
  | .barpComplete _ => true
  | .barcComplete _ _ => true
  | .loadReturn _ _ => true
  | .storeAck _ => true
  | .pageWalk _ _ _ => true
  | .directoryMakeShared _ _ _ => true
  | .regionWindowEnd _ => true
  | .regionMigrate _ => true
  | .regionMerge _ => true
  | .lpwFadeTick _ _ => true
  | .glean _ => true
  | .viewAtomic _ => true
  | .faratAtomic _ => true
  | .reservationExpiry _ _ => true
  | .barrierArrive _ => true
  | .landArrive _ => true
  | .landAnswer _ => true
  | .slotLapse _ _ => true
  | .frontEndTakePacket _ => true
  | .launch _ => true
  | .nopPacket _ => true
  | .tokenSignal _ => true
  | .queueCopyHandoff _ => true
  | .qpostRingRoom _ => true
  | .copy _ => true
  | .quantisingCopy _ => true
  | .conditionalCopy _ => true
  | .peerCopy _ => true
  | .copyComplete _ => true
  | .mmaStreamStart _ _ => true
  | .mmaStreamEnd _ _ => true
  | .mdrainRun _ _ => true
  | .mdrainComplete _ _ => true
  | .mzeroTurn _ _ => true
  | .apipeStart _ => true
  | .apipeComplete _ => true
  | .faultRecordFlush _ => true
  | .parkingBudgetExpiry _ => true
  | .faultService _ => true
  | .debugSetComparator _ _ _ => true
  | .debugSetControl _ _ _ _ => true
  | .debugReadState _ _ => true
  | .debugWriteState _ _ _ _ => true
  | .debugResume _ _ => true
  | .debugSingleStep _ _ => true
  | .debugKill _ _ => true
  | .faultsHold _ => true
  | .faultsRelease _ => true
  | .faultsKill _ _ => true
  | .h2dDoorbell _ => true
  | .mailboxWrite _ _ => true
  | .mailboxAccept => true
  | .d2hPost => true
  | .selfTestRecord => true
  | .attestation => true
  | .certificates => true
  | .contextRegister => true
  | .contextUnregister => true
  | .queueRegister => true
  | .queueUnregister => true
  | .pinChange => true
  | .lazyAdd => true
  | .discard => true
  | .unfreeze => true
  | .apertureSet => true
  | .peerWindowSet => true
  | .linkKeyRotate => true
  | .memoryKeyRotate => true
  | .errorLogRead => true
  | .keyDeliver _ _ => true
  | .keyInstallAck _ => true
  | .oldGenerationAcked _ => true
  | .retireMarker _ _ => true
  | .flitReceive _ _ => true
  | .portLinkUp _ _ => true
  | .portLeaveService _ => true
  | .oRemapRelease _ => true
  | .destUnreachable _ => true
  | .fabricRequestReceive _ => true
  | .relayForward _ => true
  | .hostAccess _ => true
  | .powerOn _ => true
  | .deviceReset _ => true
  | .patrolScrub _ => true
  | .powerThrottle _ _ => true
  | .thermalTrip => true
  | .uncorrectableError _ => true
  | .reachabilityTableChange _ _ => true

end Sys2Proof
end

