-- ==== Sys2Proof/Decode.lean ====
section
/-! DEFINITION. The decoder of the 32-bit instruction words (spec 03 R54 to R70), total on any bytes and
rejecting by name, and after it the encoder written from the same tables. -/

namespace Sys2Proof

/-- Why a word is no instruction (03 R70): every one of these raises the illegal-instruction trap. -/
inductive Reject where
  /-- Fewer than four bytes. -/
  | truncated
  /-- The major, FN, FN3, SUB or AOP is not allocated, or a field that must be 0 is not. -/
  | unallocated
  /-- An operand is of a kind or alignment the instruction does not allow. -/
  | illegalOperand
  deriving DecidableEq, Repr

/-- The field of w that starts at the bit of weight lo and has span values. -/
def fld (w lo span : Nat) : Nat := w / lo % span

/-- A number taken into Fin n. -/
def fin (n : Nat) [NeZero n] (v : Nat) : Fin n := Fin.ofNat n v

/-- The register a 7-bit field names (03 Table 3.1). -/
def Reg.ofCode (n : Nat) : Option Reg :=
  if h : n < 96 then some (.w ⟨n, h⟩)
  else if h : n - 96 < 12 then some (.k ⟨n - 96, h⟩)
  else if n = 108 then some .ix
  else if n = 109 then some .wix
  else if n = 110 then some .tid
  else if n = 111 then some .lane
  else if n = 112 then some .zero
  else if n = 113 then some .clk
  else none

/-- The field value of a register name (03 Table 3.1). -/
def Reg.code : Reg → Nat
  | .w n => n.val
  | .k n => 96 + n.val
  | .ix => 108
  | .wix => 109
  | .tid => 110
  | .lane => 111
  | .zero => 112
  | .clk => 113

/-- FN of the typed majors (03 R63). -/
def FTy.ofCode : Nat → Option FTy
  | 0 => some .f32
  | 1 => some .h2
  | 2 => some .b2
  | 3 => some .e4
  | _ => none

/-- The field value: FN of the typed majors (03 R63). -/
def FTy.code : FTy → Nat
  | .f32 => 0
  | .h2 => 1
  | .b2 => 2
  | .e4 => 3

/-- Conversion element code (03 R65). -/
def CE.ofCode : Nat → Option CE
  | 0 => some .f32
  | 1 => some .f16
  | 2 => some .bf16
  | 3 => some .e4m3
  | 4 => some .e5m2
  | 5 => some .e2m3
  | 6 => some .e3m2
  | 7 => some .e2m1
  | _ => none

/-- The field value: Conversion element code (03 R65). -/
def CE.code : CE → Nat
  | .f32 => 0
  | .f16 => 1
  | .bf16 => 2
  | .e4m3 => 3
  | .e5m2 => 4
  | .e2m3 => 5
  | .e3m2 => 6
  | .e2m1 => 7

/-- Row type code (03 R66); 5 to 7 are illegal. -/
def RT.ofCode : Nat → Option RT
  | 0 => some .i32
  | 1 => some .u32
  | 2 => some .f32
  | 3 => some .i64
  | 4 => some .u64
  | _ => none

/-- The field value: Row type code (03 R66); 5 to 7 are illegal. -/
def RT.code : RT → Nat
  | .i32 => 0
  | .u32 => 1
  | .f32 => 2
  | .i64 => 3
  | .u64 => 4

/-- SZ (03 Table 3.5); 7 is illegal. -/
def Sz.ofCode : Nat → Option Sz
  | 0 => some .u8
  | 1 => some .s8
  | 2 => some .u16
  | 3 => some .s16
  | 4 => some .w32
  | 5 => some .w64
  | 6 => some .w128
  | _ => none

/-- The field value: SZ (03 Table 3.5); 7 is illegal. -/
def Sz.code : Sz → Nat
  | .u8 => 0
  | .s8 => 1
  | .u16 => 2
  | .s16 => 3
  | .w32 => 4
  | .w64 => 5
  | .w128 => 6

/-- RC (03 Table 3.5); 3 is illegal. -/
def RC.ofCode : Nat → Option RC
  | 0 => some .o
  | 1 => some .a
  | 2 => some .s
  | _ => none

/-- The field value: RC (03 Table 3.5); 3 is illegal. -/
def RC.code : RC → Nat
  | .o => 0
  | .a => 1
  | .s => 2

/-- SC (03 Table 3.5). -/
def Scope.ofCode : Nat → Option Scope
  | 0 => some .plot
  | 1 => some .tract
  | 2 => some .dev
  | 3 => some .sys
  | _ => none

/-- The field value: SC (03 Table 3.5). -/
def Scope.code : Scope → Nat
  | .plot => 0
  | .tract => 1
  | .dev => 2
  | .sys => 3

/-- ORD of an atomic (03 Table 3.7). -/
def AOrd.ofCode : Nat → Option AOrd
  | 0 => some .rlx
  | 1 => some .acq
  | 2 => some .rel
  | 3 => some .ar
  | _ => none

/-- The field value: ORD of an atomic (03 Table 3.7). -/
def AOrd.code : AOrd → Nat
  | .rlx => 0
  | .acq => 1
  | .rel => 2
  | .ar => 3

/-- Words of major 0x00 (03 Table 3.12). -/
def parse00 (w : Nat) : Option Instr :=
  if fld w 8 4 = 0 then
    (Reg.ofCode (fld w 524288 128)).bind fun d => (Reg.ofCode (fld w 4096 128)).bind fun a => (Reg.ofCode (fld w 32 128)).bind fun b => some (.iadd d a b (fin 8 (fld w 1 8)))
  else if fld w 8 4 = 1 then
    (Reg.ofCode (fld w 524288 128)).bind fun d => (Reg.ofCode (fld w 4096 128)).bind fun a => (Reg.ofCode (fld w 32 128)).bind fun b => some (.isub d a b (fin 8 (fld w 1 8)))
  else if fld w 8 4 = 2 then
    (Reg.ofCode (fld w 524288 128)).bind fun d => (Reg.ofCode (fld w 4096 128)).bind fun a => (Reg.ofCode (fld w 32 128)).bind fun b => some (.imul d a b (fin 8 (fld w 1 8)))
  else if fld w 8 4 = 3 then
    (Reg.ofCode (fld w 524288 128)).bind fun d => (Reg.ofCode (fld w 4096 128)).bind fun a => (Reg.ofCode (fld w 32 128)).bind fun b => some (.imulh d a b (fin 8 (fld w 1 8)))
  else none

/-- Words of major 0x01 (03 Table 3.12). -/
def parse01 (w : Nat) : Option Instr :=
  if fld w 8 4 = 0 then
    (Reg.ofCode (fld w 524288 128)).bind fun d => (Reg.ofCode (fld w 4096 128)).bind fun a => (Reg.ofCode (fld w 32 128)).bind fun b => some (.imulhu d a b (fin 8 (fld w 1 8)))
  else if fld w 8 4 = 1 then
    (Reg.ofCode (fld w 524288 128)).bind fun d => (Reg.ofCode (fld w 4096 128)).bind fun a => (Reg.ofCode (fld w 32 128)).bind fun b => some (.imad d a b (fin 8 (fld w 1 8)))
  else if fld w 8 4 = 2 then
    (Reg.ofCode (fld w 524288 128)).bind fun d => (Reg.ofCode (fld w 4096 128)).bind fun a => (Reg.ofCode (fld w 32 128)).bind fun b => some (.divs d a b (fin 8 (fld w 1 8)))
  else if fld w 8 4 = 3 then
    (Reg.ofCode (fld w 524288 128)).bind fun d => (Reg.ofCode (fld w 4096 128)).bind fun a => (Reg.ofCode (fld w 32 128)).bind fun b => some (.divu d a b (fin 8 (fld w 1 8)))
  else none

/-- Words of major 0x02 (03 Table 3.12). -/
def parse02 (w : Nat) : Option Instr :=
  if fld w 8 4 = 0 then
    (Reg.ofCode (fld w 524288 128)).bind fun d => (Reg.ofCode (fld w 4096 128)).bind fun a => (Reg.ofCode (fld w 32 128)).bind fun b => some (.rems d a b (fin 8 (fld w 1 8)))
  else if fld w 8 4 = 1 then
    (Reg.ofCode (fld w 524288 128)).bind fun d => (Reg.ofCode (fld w 4096 128)).bind fun a => (Reg.ofCode (fld w 32 128)).bind fun b => some (.remu d a b (fin 8 (fld w 1 8)))
  else if fld w 8 4 = 2 then
    (Reg.ofCode (fld w 524288 128)).bind fun d => (Reg.ofCode (fld w 4096 128)).bind fun a => (Reg.ofCode (fld w 32 128)).bind fun b => some (.imin d a b (fin 8 (fld w 1 8)))
  else if fld w 8 4 = 3 then
    (Reg.ofCode (fld w 524288 128)).bind fun d => (Reg.ofCode (fld w 4096 128)).bind fun a => (Reg.ofCode (fld w 32 128)).bind fun b => some (.imax d a b (fin 8 (fld w 1 8)))
  else none

/-- Words of major 0x03 (03 Table 3.12). -/
def parse03 (w : Nat) : Option Instr :=
  if fld w 8 4 = 2 ∧ fld w 32 128 = 0 then
    (Reg.ofCode (fld w 524288 128)).bind fun d => (Reg.ofCode (fld w 4096 128)).bind fun a => some (.iabs d a (fin 8 (fld w 1 8)))
  else if fld w 8 4 = 3 ∧ fld w 32 128 = 0 then
    (Reg.ofCode (fld w 524288 128)).bind fun d => (Reg.ofCode (fld w 4096 128)).bind fun a => some (.ineg d a (fin 8 (fld w 1 8)))
  else if fld w 8 4 = 0 then
    (Reg.ofCode (fld w 524288 128)).bind fun d => (Reg.ofCode (fld w 4096 128)).bind fun a => (Reg.ofCode (fld w 32 128)).bind fun b => some (.iminu d a b (fin 8 (fld w 1 8)))
  else if fld w 8 4 = 1 then
    (Reg.ofCode (fld w 524288 128)).bind fun d => (Reg.ofCode (fld w 4096 128)).bind fun a => (Reg.ofCode (fld w 32 128)).bind fun b => some (.imaxu d a b (fin 8 (fld w 1 8)))
  else none

/-- Words of major 0x04 (03 Table 3.12). -/
def parse04 (w : Nat) : Option Instr :=
  if fld w 8 4 = 0 then
    (Reg.ofCode (fld w 524288 128)).bind fun d => (Reg.ofCode (fld w 4096 128)).bind fun a => (Reg.ofCode (fld w 32 128)).bind fun b => some (.andb d a b (fin 8 (fld w 1 8)))
  else if fld w 8 4 = 1 then
    (Reg.ofCode (fld w 524288 128)).bind fun d => (Reg.ofCode (fld w 4096 128)).bind fun a => (Reg.ofCode (fld w 32 128)).bind fun b => some (.orb d a b (fin 8 (fld w 1 8)))
  else if fld w 8 4 = 2 then
    (Reg.ofCode (fld w 524288 128)).bind fun d => (Reg.ofCode (fld w 4096 128)).bind fun a => (Reg.ofCode (fld w 32 128)).bind fun b => some (.xorb d a b (fin 8 (fld w 1 8)))
  else if fld w 8 4 = 3 then
    (Reg.ofCode (fld w 524288 128)).bind fun d => (Reg.ofCode (fld w 4096 128)).bind fun a => (Reg.ofCode (fld w 32 128)).bind fun b => some (.andn d a b (fin 8 (fld w 1 8)))
  else none

/-- Words of major 0x05 (03 Table 3.12). -/
def parse05 (w : Nat) : Option Instr :=
  if fld w 8 4 = 0 then
    (Reg.ofCode (fld w 524288 128)).bind fun d => (Reg.ofCode (fld w 4096 128)).bind fun a => (Reg.ofCode (fld w 32 128)).bind fun b => some (.shl d a b (fin 8 (fld w 1 8)))
  else if fld w 8 4 = 1 then
    (Reg.ofCode (fld w 524288 128)).bind fun d => (Reg.ofCode (fld w 4096 128)).bind fun a => (Reg.ofCode (fld w 32 128)).bind fun b => some (.shr d a b (fin 8 (fld w 1 8)))
  else if fld w 8 4 = 2 then
    (Reg.ofCode (fld w 524288 128)).bind fun d => (Reg.ofCode (fld w 4096 128)).bind fun a => (Reg.ofCode (fld w 32 128)).bind fun b => some (.sar d a b (fin 8 (fld w 1 8)))
  else if fld w 8 4 = 3 then
    (Reg.ofCode (fld w 524288 128)).bind fun d => (Reg.ofCode (fld w 4096 128)).bind fun a => (Reg.ofCode (fld w 32 128)).bind fun b => some (.rotl d a b (fin 8 (fld w 1 8)))
  else none

/-- Words of major 0x06 (03 Table 3.12). -/
def parse06 (w : Nat) : Option Instr :=
  if fld w 8 4 = 0 ∧ fld w 32 128 = 0 then
    (Reg.ofCode (fld w 524288 128)).bind fun d => (Reg.ofCode (fld w 4096 128)).bind fun a => some (.popc d a (fin 8 (fld w 1 8)))
  else if fld w 8 4 = 1 ∧ fld w 32 128 = 0 then
    (Reg.ofCode (fld w 524288 128)).bind fun d => (Reg.ofCode (fld w 4096 128)).bind fun a => some (.clz d a (fin 8 (fld w 1 8)))
  else if fld w 8 4 = 2 ∧ fld w 32 128 = 0 then
    (Reg.ofCode (fld w 524288 128)).bind fun d => (Reg.ofCode (fld w 4096 128)).bind fun a => some (.brev d a (fin 8 (fld w 1 8)))
  else if fld w 8 4 = 3 then
    (Reg.ofCode (fld w 524288 128)).bind fun d => (Reg.ofCode (fld w 4096 128)).bind fun a => (Reg.ofCode (fld w 32 128)).bind fun b => some (.bfe d a b (fin 8 (fld w 1 8)))
  else none

/-- Words of major 0x07 (03 Table 3.12). -/
def parse07 (w : Nat) : Option Instr :=
  if fld w 8 4 = 3 ∧ fld w 32 128 = 0 then
    (Reg.ofCode (fld w 524288 128)).bind fun d => (Reg.ofCode (fld w 4096 128)).bind fun a => some (.mov d a (fin 8 (fld w 1 8)))
  else if fld w 8 4 = 0 then
    (Reg.ofCode (fld w 524288 128)).bind fun d => (Reg.ofCode (fld w 4096 128)).bind fun a => (Reg.ofCode (fld w 32 128)).bind fun b => some (.bfi d a b (fin 8 (fld w 1 8)))
  else if fld w 8 4 = 1 then
    (Reg.ofCode (fld w 524288 128)).bind fun d => (Reg.ofCode (fld w 4096 128)).bind fun a => (Reg.ofCode (fld w 32 128)).bind fun b => some (.lea d a b (fin 8 (fld w 1 8)))
  else if fld w 8 4 = 2 then
    (Reg.ofCode (fld w 524288 128)).bind fun d => (Reg.ofCode (fld w 4096 128)).bind fun a => (Reg.ofCode (fld w 32 128)).bind fun b => some (.sel d a b (fin 8 (fld w 1 8)))
  else none

/-- Words of major 0x08 (03 Table 3.12). -/
def parse08 (w : Nat) : Option Instr :=
  if fld w 8 4 = 3 ∧ fld w 32 128 = 0 then
    (Reg.ofCode (fld w 524288 128)).bind fun d => (Reg.ofCode (fld w 4096 128)).bind fun a => some (.mov64 d a (fin 8 (fld w 1 8)))
  else if fld w 8 4 = 0 then
    (Reg.ofCode (fld w 524288 128)).bind fun d => (Reg.ofCode (fld w 4096 128)).bind fun a => (Reg.ofCode (fld w 32 128)).bind fun b => some (.iadd64 d a b (fin 8 (fld w 1 8)))
  else if fld w 8 4 = 1 then
    (Reg.ofCode (fld w 524288 128)).bind fun d => (Reg.ofCode (fld w 4096 128)).bind fun a => (Reg.ofCode (fld w 32 128)).bind fun b => some (.isub64 d a b (fin 8 (fld w 1 8)))
  else if fld w 8 4 = 2 then
    (Reg.ofCode (fld w 524288 128)).bind fun d => (Reg.ofCode (fld w 4096 128)).bind fun a => (Reg.ofCode (fld w 32 128)).bind fun b => some (.imul64 d a b (fin 8 (fld w 1 8)))
  else none

/-- Words of major 0x09 (03 Table 3.12). -/
def parse09 (w : Nat) : Option Instr :=
  if fld w 8 4 = 0 then
    (Reg.ofCode (fld w 524288 128)).bind fun d => (Reg.ofCode (fld w 4096 128)).bind fun a => (Reg.ofCode (fld w 32 128)).bind fun b => some (.shl64 d a b (fin 8 (fld w 1 8)))
  else if fld w 8 4 = 1 then
    (Reg.ofCode (fld w 524288 128)).bind fun d => (Reg.ofCode (fld w 4096 128)).bind fun a => (Reg.ofCode (fld w 32 128)).bind fun b => some (.shr64 d a b (fin 8 (fld w 1 8)))
  else if fld w 8 4 = 2 then
    (Reg.ofCode (fld w 524288 128)).bind fun d => (Reg.ofCode (fld w 4096 128)).bind fun a => (Reg.ofCode (fld w 32 128)).bind fun b => some (.sar64 d a b (fin 8 (fld w 1 8)))
  else if fld w 8 4 = 3 then
    (Reg.ofCode (fld w 524288 128)).bind fun d => (Reg.ofCode (fld w 4096 128)).bind fun a => (Reg.ofCode (fld w 32 128)).bind fun b => some (.imad64 d a b (fin 8 (fld w 1 8)))
  else none

/-- Words of major 0x0a (03 Table 3.12). -/
def parse0A (w : Nat) : Option Instr :=
  if fld w 8 4 = 0 then
    (Reg.ofCode (fld w 4096 128)).bind fun a => (Reg.ofCode (fld w 32 128)).bind fun b => some (.icmpEq (fin 128 (fld w 524288 128)) a b (fin 8 (fld w 1 8)))
  else if fld w 8 4 = 1 then
    (Reg.ofCode (fld w 4096 128)).bind fun a => (Reg.ofCode (fld w 32 128)).bind fun b => some (.icmpNe (fin 128 (fld w 524288 128)) a b (fin 8 (fld w 1 8)))
  else if fld w 8 4 = 2 then
    (Reg.ofCode (fld w 4096 128)).bind fun a => (Reg.ofCode (fld w 32 128)).bind fun b => some (.icmpLt (fin 128 (fld w 524288 128)) a b (fin 8 (fld w 1 8)))
  else if fld w 8 4 = 3 then
    (Reg.ofCode (fld w 4096 128)).bind fun a => (Reg.ofCode (fld w 32 128)).bind fun b => some (.icmpLe (fin 128 (fld w 524288 128)) a b (fin 8 (fld w 1 8)))
  else none

/-- Words of major 0x0b (03 Table 3.12). -/
def parse0B (w : Nat) : Option Instr :=
  if fld w 8 4 = 0 then
    (Reg.ofCode (fld w 4096 128)).bind fun a => (Reg.ofCode (fld w 32 128)).bind fun b => some (.icmpLtu (fin 128 (fld w 524288 128)) a b (fin 8 (fld w 1 8)))
  else if fld w 8 4 = 1 then
    (Reg.ofCode (fld w 4096 128)).bind fun a => (Reg.ofCode (fld w 32 128)).bind fun b => some (.icmpLeu (fin 128 (fld w 524288 128)) a b (fin 8 (fld w 1 8)))
  else if fld w 8 4 = 2 then
    (Reg.ofCode (fld w 4096 128)).bind fun a => (Reg.ofCode (fld w 32 128)).bind fun b => some (.itst (fin 128 (fld w 524288 128)) a b (fin 8 (fld w 1 8)))
  else if fld w 8 4 = 3 then
    (Reg.ofCode (fld w 4096 128)).bind fun a => (Reg.ofCode (fld w 32 128)).bind fun b => some (.itstn (fin 128 (fld w 524288 128)) a b (fin 8 (fld w 1 8)))
  else none

/-- Words of major 0x0c (03 Table 3.12). -/
def parse0C (w : Nat) : Option Instr :=
  if fld w 8 4 = 0 then
    some (.pand (fin 128 (fld w 524288 128)) (fin 128 (fld w 4096 128)) (fin 128 (fld w 32 128)) (fin 8 (fld w 1 8)))
  else if fld w 8 4 = 1 then
    some (.por (fin 128 (fld w 524288 128)) (fin 128 (fld w 4096 128)) (fin 128 (fld w 32 128)) (fin 8 (fld w 1 8)))
  else if fld w 8 4 = 2 then
    some (.pxor (fin 128 (fld w 524288 128)) (fin 128 (fld w 4096 128)) (fin 128 (fld w 32 128)) (fin 8 (fld w 1 8)))
  else if fld w 8 4 = 3 then
    some (.pandn (fin 128 (fld w 524288 128)) (fin 128 (fld w 4096 128)) (fin 128 (fld w 32 128)) (fin 8 (fld w 1 8)))
  else none

/-- Words of major 0x0d (03 Table 3.12). -/
def parse0D (w : Nat) : Option Instr :=
  if fld w 8 4 = 0 ∧ fld w 32 128 = 0 then
    some (.pmov (fin 128 (fld w 524288 128)) (fin 128 (fld w 4096 128)) (fin 8 (fld w 1 8)))
  else if fld w 8 4 = 1 ∧ fld w 32 128 = 0 then
    (Reg.ofCode (fld w 524288 128)).bind fun d => some (.ptor d (fin 128 (fld w 4096 128)) (fin 8 (fld w 1 8)))
  else if fld w 8 4 = 2 ∧ fld w 32 128 = 0 then
    (Reg.ofCode (fld w 4096 128)).bind fun a => some (.rtop (fin 128 (fld w 524288 128)) a (fin 8 (fld w 1 8)))
  else if fld w 8 4 = 3 ∧ fld w 32 128 = 0 then
    (Reg.ofCode (fld w 524288 128)).bind fun d => some (.pcnt d (fin 128 (fld w 4096 128)) (fin 8 (fld w 1 8)))
  else none

/-- Words of major 0x0e (03 Table 3.12). -/
def parse0E (w : Nat) : Option Instr :=
  (FTy.ofCode (fld w 8 4)).bind fun ty => (Reg.ofCode (fld w 524288 128)).bind fun d => (Reg.ofCode (fld w 4096 128)).bind fun a => (Reg.ofCode (fld w 32 128)).bind fun b => some (.fadd ty d a b (fin 8 (fld w 1 8)))

/-- Words of major 0x0f (03 Table 3.12). -/
def parse0F (w : Nat) : Option Instr :=
  (FTy.ofCode (fld w 8 4)).bind fun ty => (Reg.ofCode (fld w 524288 128)).bind fun d => (Reg.ofCode (fld w 4096 128)).bind fun a => (Reg.ofCode (fld w 32 128)).bind fun b => some (.fsub ty d a b (fin 8 (fld w 1 8)))

/-- Words of major 0x10 (03 Table 3.12). -/
def parse10 (w : Nat) : Option Instr :=
  (FTy.ofCode (fld w 8 4)).bind fun ty => (Reg.ofCode (fld w 524288 128)).bind fun d => (Reg.ofCode (fld w 4096 128)).bind fun a => (Reg.ofCode (fld w 32 128)).bind fun b => some (.fmul ty d a b (fin 8 (fld w 1 8)))

/-- Words of major 0x11 (03 Table 3.12). -/
def parse11 (w : Nat) : Option Instr :=
  (FTy.ofCode (fld w 8 4)).bind fun ty => (Reg.ofCode (fld w 524288 128)).bind fun d => (Reg.ofCode (fld w 4096 128)).bind fun a => (Reg.ofCode (fld w 32 128)).bind fun b => some (.ffma ty d a b (fin 8 (fld w 1 8)))

/-- Words of major 0x12 (03 Table 3.12). -/
def parse12 (w : Nat) : Option Instr :=
  (FTy.ofCode (fld w 8 4)).bind fun ty => (Reg.ofCode (fld w 524288 128)).bind fun d => (Reg.ofCode (fld w 4096 128)).bind fun a => (Reg.ofCode (fld w 32 128)).bind fun b => some (.fmin ty d a b (fin 8 (fld w 1 8)))

/-- Words of major 0x13 (03 Table 3.12). -/
def parse13 (w : Nat) : Option Instr :=
  (FTy.ofCode (fld w 8 4)).bind fun ty => (Reg.ofCode (fld w 524288 128)).bind fun d => (Reg.ofCode (fld w 4096 128)).bind fun a => (Reg.ofCode (fld w 32 128)).bind fun b => some (.fmax ty d a b (fin 8 (fld w 1 8)))

/-- Words of major 0x14 (03 Table 3.12). -/
def parse14 (w : Nat) : Option Instr :=
  (FTy.ofCode (fld w 8 4)).bind fun ty => (Reg.ofCode (fld w 4096 128)).bind fun a => (Reg.ofCode (fld w 32 128)).bind fun b => some (.fcmpeq ty (fin 128 (fld w 524288 128)) a b (fin 8 (fld w 1 8)))

/-- Words of major 0x15 (03 Table 3.12). -/
def parse15 (w : Nat) : Option Instr :=
  (FTy.ofCode (fld w 8 4)).bind fun ty => (Reg.ofCode (fld w 4096 128)).bind fun a => (Reg.ofCode (fld w 32 128)).bind fun b => some (.fcmplt ty (fin 128 (fld w 524288 128)) a b (fin 8 (fld w 1 8)))

/-- Words of major 0x16 (03 Table 3.12). -/
def parse16 (w : Nat) : Option Instr :=
  (FTy.ofCode (fld w 8 4)).bind fun ty => (Reg.ofCode (fld w 4096 128)).bind fun a => (Reg.ofCode (fld w 32 128)).bind fun b => some (.fcmple ty (fin 128 (fld w 524288 128)) a b (fin 8 (fld w 1 8)))

/-- Words of major 0x17 (03 Table 3.12). -/
def parse17 (w : Nat) : Option Instr :=
  (FTy.ofCode (fld w 8 4)).bind fun ty => (Reg.ofCode (fld w 4096 128)).bind fun a => (Reg.ofCode (fld w 32 128)).bind fun b => some (.fcmpun ty (fin 128 (fld w 524288 128)) a b (fin 8 (fld w 1 8)))

/-- Words of major 0x18 (03 Table 3.12). -/
def parse18 (w : Nat) : Option Instr :=
  if fld w 8 4 = 1 ∧ fld w 32 128 = 0 then
    (Reg.ofCode (fld w 524288 128)).bind fun d => (Reg.ofCode (fld w 4096 128)).bind fun a => some (.fsqrt d a (fin 8 (fld w 1 8)))
  else if fld w 8 4 = 2 ∧ fld w 32 128 = 0 then
    (Reg.ofCode (fld w 524288 128)).bind fun d => (Reg.ofCode (fld w 4096 128)).bind fun a => some (.frsq d a (fin 8 (fld w 1 8)))
  else if fld w 8 4 = 3 ∧ fld w 32 128 = 0 then
    (Reg.ofCode (fld w 524288 128)).bind fun d => (Reg.ofCode (fld w 4096 128)).bind fun a => some (.frcp d a (fin 8 (fld w 1 8)))
  else if fld w 8 4 = 0 then
    (Reg.ofCode (fld w 524288 128)).bind fun d => (Reg.ofCode (fld w 4096 128)).bind fun a => (Reg.ofCode (fld w 32 128)).bind fun b => some (.fdiv d a b (fin 8 (fld w 1 8)))
  else none

/-- Words of major 0x19 (03 Table 3.12). -/
def parse19 (w : Nat) : Option Instr :=
  if fld w 8 4 = 0 ∧ fld w 32 128 = 0 then
    (Reg.ofCode (fld w 524288 128)).bind fun d => (Reg.ofCode (fld w 4096 128)).bind fun a => some (.fexp2 d a (fin 8 (fld w 1 8)))
  else if fld w 8 4 = 1 ∧ fld w 32 128 = 0 then
    (Reg.ofCode (fld w 524288 128)).bind fun d => (Reg.ofCode (fld w 4096 128)).bind fun a => some (.flog2 d a (fin 8 (fld w 1 8)))
  else if fld w 8 4 = 2 ∧ fld w 32 128 = 0 then
    (Reg.ofCode (fld w 524288 128)).bind fun d => (Reg.ofCode (fld w 4096 128)).bind fun a => some (.fsinpi d a (fin 8 (fld w 1 8)))
  else if fld w 8 4 = 3 ∧ fld w 32 128 = 0 then
    (Reg.ofCode (fld w 524288 128)).bind fun d => (Reg.ofCode (fld w 4096 128)).bind fun a => some (.fcospi d a (fin 8 (fld w 1 8)))
  else none

/-- Words of major 0x1a (03 Table 3.12). -/
def parse1A (w : Nat) : Option Instr :=
  if fld w 8 4 = 0 ∧ fld w 32 128 = 0 then
    (Reg.ofCode (fld w 524288 128)).bind fun d => (Reg.ofCode (fld w 4096 128)).bind fun a => some (.ftanh d a (fin 8 (fld w 1 8)))
  else if fld w 8 4 = 1 ∧ fld w 32 128 = 0 then
    (Reg.ofCode (fld w 524288 128)).bind fun d => (Reg.ofCode (fld w 4096 128)).bind fun a => some (.fsigm d a (fin 8 (fld w 1 8)))
  else if fld w 8 4 = 3 ∧ fld w 32 128 = 0 then
    (Reg.ofCode (fld w 524288 128)).bind fun d => (Reg.ofCode (fld w 4096 128)).bind fun a => some (.frint d a (fin 8 (fld w 1 8)))
  else if fld w 8 4 = 2 then
    (Reg.ofCode (fld w 524288 128)).bind fun d => (Reg.ofCode (fld w 4096 128)).bind fun a => (Reg.ofCode (fld w 32 128)).bind fun b => some (.fldexp d a b (fin 8 (fld w 1 8)))
  else none

/-- Words of major 0x1b (03 Table 3.12). -/
def parse1B (w : Nat) : Option Instr :=
  if fld w 8 4 = 0 ∧ fld w 64 8 = 0 then
    (Reg.ofCode (fld w 524288 128)).bind fun d => (Reg.ofCode (fld w 4096 128)).bind fun a => (CE.ofCode (fld w 512 8)).bind fun ce => some (.cvtfi d a ce (fld w 32 2 == 1) (fin 8 (fld w 1 8)))
  else if fld w 8 4 = 1 ∧ fld w 64 8 = 0 then
    (Reg.ofCode (fld w 524288 128)).bind fun d => (Reg.ofCode (fld w 4096 128)).bind fun a => (CE.ofCode (fld w 512 8)).bind fun ce => some (.cvtif d a ce (fld w 32 2 == 1) (fin 8 (fld w 1 8)))
  else if fld w 8 4 = 2 ∧ fld w 256 2 = 0 then
    (Reg.ofCode (fld w 524288 128)).bind fun d => (Reg.ofCode (fld w 4096 128)).bind fun a => (CE.ofCode (fld w 512 8)).bind fun src => (CE.ofCode (fld w 32 8)).bind fun dst => some (.cvtff d a src dst (fin 8 (fld w 1 8)))
  else if fld w 8 4 = 3 ∧ fld w 32 16 = 0 then
    (Reg.ofCode (fld w 524288 128)).bind fun d => (Reg.ofCode (fld w 4096 128)).bind fun a => (CE.ofCode (fld w 512 8)).bind fun ce => some (.cvtpk d a ce (fin 8 (fld w 1 8)))
  else none

/-- Words of major 0x1c (03 Table 3.12). -/
def parse1C (w : Nat) : Option Instr :=
  if fld w 8 4 = 0 ∧ fld w 32 128 = 0 then
    (Reg.ofCode (fld w 524288 128)).bind fun d => (Reg.ofCode (fld w 4096 128)).bind fun a => some (.fabs d a (fin 8 (fld w 1 8)))
  else if fld w 8 4 = 1 ∧ fld w 32 128 = 0 then
    (Reg.ofCode (fld w 524288 128)).bind fun d => (Reg.ofCode (fld w 4096 128)).bind fun a => some (.fneg d a (fin 8 (fld w 1 8)))
  else if fld w 8 4 = 3 ∧ fld w 32 128 = 0 then
    (Reg.ofCode (fld w 524288 128)).bind fun d => (Reg.ofCode (fld w 4096 128)).bind fun a => some (.fclass d a (fin 8 (fld w 1 8)))
  else if fld w 8 4 = 2 then
    (Reg.ofCode (fld w 524288 128)).bind fun d => (Reg.ofCode (fld w 4096 128)).bind fun a => (Reg.ofCode (fld w 32 128)).bind fun b => some (.fcpys d a b (fin 8 (fld w 1 8)))
  else none

/-- Words of major 0x1d (03 Table 3.12). -/
def parse1D (w : Nat) : Option Instr :=
  if fld w 8 4 = 1 ∧ fld w 32 128 = 0 then
    (Reg.ofCode (fld w 524288 128)).bind fun d => (Reg.ofCode (fld w 4096 128)).bind fun a => some (.xadd d a (fin 8 (fld w 1 8)))
  else if fld w 8 4 = 2 ∧ fld w 32 16 = 0 then
    (Reg.ofCode (fld w 524288 128)).bind fun d => (Reg.ofCode (fld w 4096 128)).bind fun a => (CE.ofCode (fld w 512 8)).bind fun ce => some (.xcvt d a ce (fin 8 (fld w 1 8)))
  else if fld w 8 4 = 3 ∧ fld w 32 128 = 0 then
    (Reg.ofCode (fld w 524288 128)).bind fun d => (Reg.ofCode (fld w 4096 128)).bind fun a => some (.xneg d a (fin 8 (fld w 1 8)))
  else if fld w 8 4 = 0 then
    (Reg.ofCode (fld w 524288 128)).bind fun d => (Reg.ofCode (fld w 4096 128)).bind fun a => (Reg.ofCode (fld w 32 128)).bind fun b => some (.xacc d a b (fin 8 (fld w 1 8)))
  else none

/-- Words of major 0x1e (03 Table 3.12). -/
def parse1E (w : Nat) : Option Instr :=
  if fld w 8 4 = 0 ∧ fld w 524288 128 = 0 ∧ fld w 32 128 = 0 then
    (Reg.ofCode (fld w 4096 128)).bind fun a => some (.xanc a (fin 8 (fld w 1 8)))
  else if fld w 8 4 = 1 then
    (Reg.ofCode (fld w 524288 128)).bind fun d => (Reg.ofCode (fld w 4096 128)).bind fun a => (Reg.ofCode (fld w 32 128)).bind fun b => some (.xdoth d a b (fin 8 (fld w 1 8)))
  else if fld w 8 4 = 2 then
    (Reg.ofCode (fld w 524288 128)).bind fun d => (Reg.ofCode (fld w 4096 128)).bind fun a => (Reg.ofCode (fld w 32 128)).bind fun b => some (.xdotb d a b (fin 8 (fld w 1 8)))
  else if fld w 8 4 = 3 then
    (Reg.ofCode (fld w 4096 128)).bind fun a => (Reg.ofCode (fld w 32 128)).bind fun b => some (.xcmp (fin 128 (fld w 524288 128)) a b (fin 8 (fld w 1 8)))
  else none

/-- Words of major 0x1f (03 Table 3.12). -/
def parse1F (w : Nat) : Option Instr :=
  if fld w 8 4 = 2 ∧ fld w 2048 2 = 0 then
    (Reg.ofCode (fld w 524288 128)).bind fun d => (Reg.ofCode (fld w 4096 128)).bind fun a => some (.rbcast d a (fin 64 (fld w 32 64)) (fin 8 (fld w 1 8)))
  else if fld w 8 4 = 3 ∧ fld w 32 128 = 0 then
    (Reg.ofCode (fld w 524288 128)).bind fun d => some (.rballot d (fin 128 (fld w 4096 128)) (fin 8 (fld w 1 8)))
  else if fld w 8 4 = 0 then
    (Reg.ofCode (fld w 524288 128)).bind fun d => (Reg.ofCode (fld w 4096 128)).bind fun a => (Reg.ofCode (fld w 32 128)).bind fun b => some (.rshf d a b (fin 8 (fld w 1 8)))
  else if fld w 8 4 = 1 then
    (Reg.ofCode (fld w 524288 128)).bind fun d => (Reg.ofCode (fld w 4096 128)).bind fun a => (Reg.ofCode (fld w 32 128)).bind fun b => some (.rshfx d a b (fin 8 (fld w 1 8)))
  else none

/-- Words of major 0x20 (03 Table 3.12). -/
def parse20 (w : Nat) : Option Instr :=
  if fld w 8 4 = 0 ∧ fld w 256 16 = 0 then
    (Reg.ofCode (fld w 524288 128)).bind fun d => (Reg.ofCode (fld w 4096 128)).bind fun a => (RT.ofCode (fld w 32 8)).bind fun rt => some (.rredAddi d a rt (fin 8 (fld w 1 8)))
  else if fld w 8 4 = 1 ∧ fld w 32 128 = 2 then
    (Reg.ofCode (fld w 524288 128)).bind fun d => (Reg.ofCode (fld w 4096 128)).bind fun a => some (.rredAddf d a (fin 8 (fld w 1 8)))
  else if fld w 8 4 = 2 ∧ fld w 256 16 = 0 then
    (Reg.ofCode (fld w 524288 128)).bind fun d => (Reg.ofCode (fld w 4096 128)).bind fun a => (RT.ofCode (fld w 32 8)).bind fun rt => some (.rredMin d a rt (fin 8 (fld w 1 8)))
  else if fld w 8 4 = 3 ∧ fld w 256 16 = 0 then
    (Reg.ofCode (fld w 524288 128)).bind fun d => (Reg.ofCode (fld w 4096 128)).bind fun a => (RT.ofCode (fld w 32 8)).bind fun rt => some (.rredMax d a rt (fin 8 (fld w 1 8)))
  else none

/-- Words of major 0x21 (03 Table 3.12). -/
def parse21 (w : Nat) : Option Instr :=
  if fld w 8 4 = 0 ∧ fld w 256 8 = 0 then
    (Reg.ofCode (fld w 524288 128)).bind fun d => (Reg.ofCode (fld w 4096 128)).bind fun a => (RT.ofCode (fld w 32 8)).bind fun rt => some (.rscani d a rt (fld w 2048 2 == 1) (fin 8 (fld w 1 8)))
  else if fld w 8 4 = 1 ∧ fld w 32 64 = 2 then
    (Reg.ofCode (fld w 524288 128)).bind fun d => (Reg.ofCode (fld w 4096 128)).bind fun a => some (.rscanf d a (fld w 2048 2 == 1) (fin 8 (fld w 1 8)))
  else if fld w 8 4 = 2 ∧ fld w 32 128 = 0 then
    some (.rany (fin 128 (fld w 524288 128)) (fin 128 (fld w 4096 128)) (fin 8 (fld w 1 8)))
  else if fld w 8 4 = 3 ∧ fld w 32 128 = 0 then
    some (.rall (fin 128 (fld w 524288 128)) (fin 128 (fld w 4096 128)) (fin 8 (fld w 1 8)))
  else none

/-- Words of major 0x26 (03 Table 3.12). -/
def parse26 (w : Nat) : Option Instr :=
  if fld w 65536 8 = 6 ∧ fld w 32 2048 = 0 then
    (Reg.ofCode (fld w 524288 128)).bind fun d => some (.shli d (fin 32 (fld w 1 32)))
  else if fld w 65536 8 = 7 ∧ fld w 32 2048 = 0 then
    (Reg.ofCode (fld w 524288 128)).bind fun d => some (.shri d (fin 32 (fld w 1 32)))
  else if fld w 65536 8 = 0 then
    (Reg.ofCode (fld w 524288 128)).bind fun d => some (.movi d (BitVec.ofNat 16 (fld w 1 65536)))
  else if fld w 65536 8 = 1 then
    (Reg.ofCode (fld w 524288 128)).bind fun d => some (.movhi d (BitVec.ofNat 16 (fld w 1 65536)))
  else if fld w 65536 8 = 2 then
    (Reg.ofCode (fld w 524288 128)).bind fun d => some (.addi d (BitVec.ofNat 16 (fld w 1 65536)))
  else if fld w 65536 8 = 3 then
    (Reg.ofCode (fld w 524288 128)).bind fun d => some (.andi d (BitVec.ofNat 16 (fld w 1 65536)))
  else if fld w 65536 8 = 4 then
    (Reg.ofCode (fld w 524288 128)).bind fun d => some (.ori d (BitVec.ofNat 16 (fld w 1 65536)))
  else if fld w 65536 8 = 5 then
    (Reg.ofCode (fld w 524288 128)).bind fun d => some (.xori d (BitVec.ofNat 16 (fld w 1 65536)))
  else none

/-- Words of major 0x27 (03 Table 3.12). -/
def parse27 (w : Nat) : Option Instr :=
  if fld w 65536 8 = 0 then
    (Reg.ofCode (fld w 524288 128)).bind fun d => some (.fmoviF32Bf d (BitVec.ofNat 16 (fld w 1 65536)))
  else if fld w 65536 8 = 1 then
    (Reg.ofCode (fld w 524288 128)).bind fun d => some (.fmoviF32Hf d (BitVec.ofNat 16 (fld w 1 65536)))
  else if fld w 65536 8 = 2 then
    (Reg.ofCode (fld w 524288 128)).bind fun d => some (.fmoviE4 d (BitVec.ofNat 16 (fld w 1 65536)))
  else if fld w 65536 8 = 3 then
    (Reg.ofCode (fld w 524288 128)).bind fun d => some (.fmoviE5 d (BitVec.ofNat 16 (fld w 1 65536)))
  else if fld w 65536 8 = 4 then
    (Reg.ofCode (fld w 524288 128)).bind fun d => some (.fmoviB2 d (BitVec.ofNat 16 (fld w 1 65536)))
  else if fld w 65536 8 = 5 then
    (Reg.ofCode (fld w 524288 128)).bind fun d => some (.fmoviH2 d (BitVec.ofNat 16 (fld w 1 65536)))
  else if fld w 65536 8 = 6 then
    (Reg.ofCode (fld w 524288 128)).bind fun d => some (.faddiF32 d (BitVec.ofNat 16 (fld w 1 65536)))
  else if fld w 65536 8 = 7 then
    (Reg.ofCode (fld w 524288 128)).bind fun d => some (.fmuliF32 d (BitVec.ofNat 16 (fld w 1 65536)))
  else none

/-- Words of major 0x28 (03 Table 3.12). -/
def parse28 (w : Nat) : Option Instr :=
  if fld w 65536 8 = 0 ∧ fld w 524288 128 = 0 then
    some (.winb (BitVec.ofNat 16 (fld w 1 65536)))
  else if fld w 65536 8 = 1 ∧ fld w 524288 128 = 0 then
    some (.ixset (BitVec.ofNat 16 (fld w 1 65536)))
  else if fld w 65536 8 = 2 ∧ fld w 524288 128 = 0 then
    some (.ixadd (BitVec.ofNat 16 (fld w 1 65536)))
  else none

/-- Words of major 0x2c (03 Table 3.12). -/
def parse2C (w : Nat) : Option Instr :=
  (Reg.ofCode (fld w 524288 128)).bind fun d => (Reg.ofCode (fld w 4096 128)).bind fun a => (RC.ofCode (fld w 64 4)).bind fun rc => (Scope.ofCode (fld w 16 4)).bind fun sc => (Sz.ofCode (fld w 1 8)).bind fun sz => some (.ld d a (BitVec.ofNat 4 (fld w 256 16)) rc sc (fld w 8 2 == 1) sz)

/-- Words of major 0x2d (03 Table 3.12). -/
def parse2D (w : Nat) : Option Instr :=
  (Reg.ofCode (fld w 524288 128)).bind fun d => (Reg.ofCode (fld w 4096 128)).bind fun a => (RC.ofCode (fld w 64 4)).bind fun rc => (Scope.ofCode (fld w 16 4)).bind fun sc => (Sz.ofCode (fld w 1 8)).bind fun sz => some (.st d a (BitVec.ofNat 4 (fld w 256 16)) rc sc (fld w 8 2 == 1) sz)

/-- Words of major 0x2e (03 Table 3.12). -/
def parse2E (w : Nat) : Option Instr :=
  (Reg.ofCode (fld w 524288 128)).bind fun d => (Reg.ofCode (fld w 4096 128)).bind fun a => (Sz.ofCode (fld w 1 8)).bind fun sz => some (.lds d a (BitVec.ofNat 9 (fld w 8 512)) sz)

/-- Words of major 0x2f (03 Table 3.12). -/
def parse2F (w : Nat) : Option Instr :=
  (Reg.ofCode (fld w 524288 128)).bind fun d => (Reg.ofCode (fld w 4096 128)).bind fun a => (Sz.ofCode (fld w 1 8)).bind fun sz => some (.sts d a (BitVec.ofNat 9 (fld w 8 512)) sz)

/-- Words of major 0x30 (03 Table 3.12). -/
def parse30 (w : Nat) : Option Instr :=
  if fld w 256 16 = 10 ∧ fld w 128 2 = 0 ∧ fld w 1 2 = 0 then
    (Reg.ofCode (fld w 524288 128)).bind fun d => (Reg.ofCode (fld w 4096 128)).bind fun a => (RC.ofCode (fld w 32 4)).bind fun rc => (Scope.ofCode (fld w 8 4)).bind fun sc => (AOrd.ofCode (fld w 2 4)).bind fun ord => some (.atomFaddF32 d a rc sc ord)
  else if fld w 256 16 = 11 ∧ fld w 128 2 = 1 ∧ fld w 1 2 = 0 then
    (Reg.ofCode (fld w 524288 128)).bind fun d => (Reg.ofCode (fld w 4096 128)).bind fun a => (RC.ofCode (fld w 32 4)).bind fun rc => (Scope.ofCode (fld w 8 4)).bind fun sc => (AOrd.ofCode (fld w 2 4)).bind fun ord => some (.atomXadd128 d a rc sc ord)
  else if fld w 256 16 = 0 ∧ fld w 1 2 = 0 then
    (Reg.ofCode (fld w 524288 128)).bind fun d => (Reg.ofCode (fld w 4096 128)).bind fun a => (RC.ofCode (fld w 32 4)).bind fun rc => (Scope.ofCode (fld w 8 4)).bind fun sc => (AOrd.ofCode (fld w 2 4)).bind fun ord => some (.atomAdd (fld w 128 2 == 1) d a rc sc ord)
  else if fld w 256 16 = 1 ∧ fld w 1 2 = 0 then
    (Reg.ofCode (fld w 524288 128)).bind fun d => (Reg.ofCode (fld w 4096 128)).bind fun a => (RC.ofCode (fld w 32 4)).bind fun rc => (Scope.ofCode (fld w 8 4)).bind fun sc => (AOrd.ofCode (fld w 2 4)).bind fun ord => some (.atomAnd (fld w 128 2 == 1) d a rc sc ord)
  else if fld w 256 16 = 2 ∧ fld w 1 2 = 0 then
    (Reg.ofCode (fld w 524288 128)).bind fun d => (Reg.ofCode (fld w 4096 128)).bind fun a => (RC.ofCode (fld w 32 4)).bind fun rc => (Scope.ofCode (fld w 8 4)).bind fun sc => (AOrd.ofCode (fld w 2 4)).bind fun ord => some (.atomOr (fld w 128 2 == 1) d a rc sc ord)
  else if fld w 256 16 = 3 ∧ fld w 1 2 = 0 then
    (Reg.ofCode (fld w 524288 128)).bind fun d => (Reg.ofCode (fld w 4096 128)).bind fun a => (RC.ofCode (fld w 32 4)).bind fun rc => (Scope.ofCode (fld w 8 4)).bind fun sc => (AOrd.ofCode (fld w 2 4)).bind fun ord => some (.atomXor (fld w 128 2 == 1) d a rc sc ord)
  else if fld w 256 16 = 4 ∧ fld w 1 2 = 0 then
    (Reg.ofCode (fld w 524288 128)).bind fun d => (Reg.ofCode (fld w 4096 128)).bind fun a => (RC.ofCode (fld w 32 4)).bind fun rc => (Scope.ofCode (fld w 8 4)).bind fun sc => (AOrd.ofCode (fld w 2 4)).bind fun ord => some (.atomMin (fld w 128 2 == 1) d a rc sc ord)
  else if fld w 256 16 = 5 ∧ fld w 1 2 = 0 then
    (Reg.ofCode (fld w 524288 128)).bind fun d => (Reg.ofCode (fld w 4096 128)).bind fun a => (RC.ofCode (fld w 32 4)).bind fun rc => (Scope.ofCode (fld w 8 4)).bind fun sc => (AOrd.ofCode (fld w 2 4)).bind fun ord => some (.atomMax (fld w 128 2 == 1) d a rc sc ord)
  else if fld w 256 16 = 6 ∧ fld w 1 2 = 0 then
    (Reg.ofCode (fld w 524288 128)).bind fun d => (Reg.ofCode (fld w 4096 128)).bind fun a => (RC.ofCode (fld w 32 4)).bind fun rc => (Scope.ofCode (fld w 8 4)).bind fun sc => (AOrd.ofCode (fld w 2 4)).bind fun ord => some (.atomMinu (fld w 128 2 == 1) d a rc sc ord)
  else if fld w 256 16 = 7 ∧ fld w 1 2 = 0 then
    (Reg.ofCode (fld w 524288 128)).bind fun d => (Reg.ofCode (fld w 4096 128)).bind fun a => (RC.ofCode (fld w 32 4)).bind fun rc => (Scope.ofCode (fld w 8 4)).bind fun sc => (AOrd.ofCode (fld w 2 4)).bind fun ord => some (.atomMaxu (fld w 128 2 == 1) d a rc sc ord)
  else if fld w 256 16 = 8 ∧ fld w 1 2 = 0 then
    (Reg.ofCode (fld w 524288 128)).bind fun d => (Reg.ofCode (fld w 4096 128)).bind fun a => (RC.ofCode (fld w 32 4)).bind fun rc => (Scope.ofCode (fld w 8 4)).bind fun sc => (AOrd.ofCode (fld w 2 4)).bind fun ord => some (.atomExch (fld w 128 2 == 1) d a rc sc ord)
  else if fld w 256 16 = 9 ∧ fld w 1 2 = 0 then
    (Reg.ofCode (fld w 524288 128)).bind fun d => (Reg.ofCode (fld w 4096 128)).bind fun a => (RC.ofCode (fld w 32 4)).bind fun rc => (Scope.ofCode (fld w 8 4)).bind fun sc => (AOrd.ofCode (fld w 2 4)).bind fun ord => some (.atomCas (fld w 128 2 == 1) d a rc sc ord)
  else if fld w 256 16 = 12 ∧ fld w 1 2 = 0 then
    (Reg.ofCode (fld w 524288 128)).bind fun d => (Reg.ofCode (fld w 4096 128)).bind fun a => (RC.ofCode (fld w 32 4)).bind fun rc => (Scope.ofCode (fld w 8 4)).bind fun sc => (AOrd.ofCode (fld w 2 4)).bind fun ord => some (.atomIncw (fld w 128 2 == 1) d a rc sc ord)
  else if fld w 256 16 = 13 ∧ fld w 1 2 = 0 then
    (Reg.ofCode (fld w 524288 128)).bind fun d => (Reg.ofCode (fld w 4096 128)).bind fun a => (RC.ofCode (fld w 32 4)).bind fun rc => (Scope.ofCode (fld w 8 4)).bind fun sc => (AOrd.ofCode (fld w 2 4)).bind fun ord => some (.atomDecw (fld w 128 2 == 1) d a rc sc ord)
  else none

/-- Words of major 0x31 (03 Table 3.12). -/
def parse31 (w : Nat) : Option Instr :=
  if fld w 256 16 = 10 ∧ fld w 128 2 = 0 ∧ fld w 16 8 = 0 ∧ fld w 1 2 = 0 then
    (Reg.ofCode (fld w 524288 128)).bind fun d => (Reg.ofCode (fld w 4096 128)).bind fun a => (AOrd.ofCode (fld w 2 4)).bind fun ord => some (.atomsFaddF32 d a (fld w 8 2 == 1) ord)
  else if fld w 256 16 = 11 ∧ fld w 128 2 = 1 ∧ fld w 16 8 = 0 ∧ fld w 1 2 = 0 then
    (Reg.ofCode (fld w 524288 128)).bind fun d => (Reg.ofCode (fld w 4096 128)).bind fun a => (AOrd.ofCode (fld w 2 4)).bind fun ord => some (.atomsXadd128 d a (fld w 8 2 == 1) ord)
  else if fld w 256 16 = 0 ∧ fld w 16 8 = 0 ∧ fld w 1 2 = 0 then
    (Reg.ofCode (fld w 524288 128)).bind fun d => (Reg.ofCode (fld w 4096 128)).bind fun a => (AOrd.ofCode (fld w 2 4)).bind fun ord => some (.atomsAdd (fld w 128 2 == 1) d a (fld w 8 2 == 1) ord)
  else if fld w 256 16 = 1 ∧ fld w 16 8 = 0 ∧ fld w 1 2 = 0 then
    (Reg.ofCode (fld w 524288 128)).bind fun d => (Reg.ofCode (fld w 4096 128)).bind fun a => (AOrd.ofCode (fld w 2 4)).bind fun ord => some (.atomsAnd (fld w 128 2 == 1) d a (fld w 8 2 == 1) ord)
  else if fld w 256 16 = 2 ∧ fld w 16 8 = 0 ∧ fld w 1 2 = 0 then
    (Reg.ofCode (fld w 524288 128)).bind fun d => (Reg.ofCode (fld w 4096 128)).bind fun a => (AOrd.ofCode (fld w 2 4)).bind fun ord => some (.atomsOr (fld w 128 2 == 1) d a (fld w 8 2 == 1) ord)
  else if fld w 256 16 = 3 ∧ fld w 16 8 = 0 ∧ fld w 1 2 = 0 then
    (Reg.ofCode (fld w 524288 128)).bind fun d => (Reg.ofCode (fld w 4096 128)).bind fun a => (AOrd.ofCode (fld w 2 4)).bind fun ord => some (.atomsXor (fld w 128 2 == 1) d a (fld w 8 2 == 1) ord)
  else if fld w 256 16 = 4 ∧ fld w 16 8 = 0 ∧ fld w 1 2 = 0 then
    (Reg.ofCode (fld w 524288 128)).bind fun d => (Reg.ofCode (fld w 4096 128)).bind fun a => (AOrd.ofCode (fld w 2 4)).bind fun ord => some (.atomsMin (fld w 128 2 == 1) d a (fld w 8 2 == 1) ord)
  else if fld w 256 16 = 5 ∧ fld w 16 8 = 0 ∧ fld w 1 2 = 0 then
    (Reg.ofCode (fld w 524288 128)).bind fun d => (Reg.ofCode (fld w 4096 128)).bind fun a => (AOrd.ofCode (fld w 2 4)).bind fun ord => some (.atomsMax (fld w 128 2 == 1) d a (fld w 8 2 == 1) ord)
  else if fld w 256 16 = 6 ∧ fld w 16 8 = 0 ∧ fld w 1 2 = 0 then
    (Reg.ofCode (fld w 524288 128)).bind fun d => (Reg.ofCode (fld w 4096 128)).bind fun a => (AOrd.ofCode (fld w 2 4)).bind fun ord => some (.atomsMinu (fld w 128 2 == 1) d a (fld w 8 2 == 1) ord)
  else if fld w 256 16 = 7 ∧ fld w 16 8 = 0 ∧ fld w 1 2 = 0 then
    (Reg.ofCode (fld w 524288 128)).bind fun d => (Reg.ofCode (fld w 4096 128)).bind fun a => (AOrd.ofCode (fld w 2 4)).bind fun ord => some (.atomsMaxu (fld w 128 2 == 1) d a (fld w 8 2 == 1) ord)
  else if fld w 256 16 = 8 ∧ fld w 16 8 = 0 ∧ fld w 1 2 = 0 then
    (Reg.ofCode (fld w 524288 128)).bind fun d => (Reg.ofCode (fld w 4096 128)).bind fun a => (AOrd.ofCode (fld w 2 4)).bind fun ord => some (.atomsExch (fld w 128 2 == 1) d a (fld w 8 2 == 1) ord)
  else if fld w 256 16 = 9 ∧ fld w 16 8 = 0 ∧ fld w 1 2 = 0 then
    (Reg.ofCode (fld w 524288 128)).bind fun d => (Reg.ofCode (fld w 4096 128)).bind fun a => (AOrd.ofCode (fld w 2 4)).bind fun ord => some (.atomsCas (fld w 128 2 == 1) d a (fld w 8 2 == 1) ord)
  else if fld w 256 16 = 12 ∧ fld w 16 8 = 0 ∧ fld w 1 2 = 0 then
    (Reg.ofCode (fld w 524288 128)).bind fun d => (Reg.ofCode (fld w 4096 128)).bind fun a => (AOrd.ofCode (fld w 2 4)).bind fun ord => some (.atomsIncw (fld w 128 2 == 1) d a (fld w 8 2 == 1) ord)
  else if fld w 256 16 = 13 ∧ fld w 16 8 = 0 ∧ fld w 1 2 = 0 then
    (Reg.ofCode (fld w 524288 128)).bind fun d => (Reg.ofCode (fld w 4096 128)).bind fun a => (AOrd.ofCode (fld w 2 4)).bind fun ord => some (.atomsDecw (fld w 128 2 == 1) d a (fld w 8 2 == 1) ord)
  else none

/-- Words of major 0x32 (03 Table 3.12). -/
def parse32 (w : Nat) : Option Instr :=
  (Reg.ofCode (fld w 524288 128)).bind fun d => (Reg.ofCode (fld w 4096 128)).bind fun a => (RC.ofCode (fld w 64 4)).bind fun rc => (Scope.ofCode (fld w 16 4)).bind fun sc => (Sz.ofCode (fld w 1 8)).bind fun sz => some (.lr d a (BitVec.ofNat 4 (fld w 256 16)) rc sc (fld w 8 2 == 1) sz)

/-- Words of major 0x33 (03 Table 3.12). -/
def parse33 (w : Nat) : Option Instr :=
  (Reg.ofCode (fld w 524288 128)).bind fun d => (Reg.ofCode (fld w 4096 128)).bind fun a => (RC.ofCode (fld w 64 4)).bind fun rc => (Scope.ofCode (fld w 16 4)).bind fun sc => (Sz.ofCode (fld w 1 8)).bind fun sz => some (.sc d a (BitVec.ofNat 4 (fld w 256 16)) rc sc (fld w 8 2 == 1) sz)

/-- Words of major 0x34 (03 Table 3.12). -/
def parse34 (w : Nat) : Option Instr :=
  some (.bra (fin 128 (fld w 524288 128)) (fld w 262144 2 == 1) (BitVec.ofNat 18 (fld w 1 262144)))

/-- Words of major 0x35 (03 Table 3.12). -/
def parse35 (w : Nat) : Option Instr :=
  some (.brf (fin 128 (fld w 524288 128)) (fld w 262144 2 == 1) (BitVec.ofNat 18 (fld w 1 262144)))

/-- Words of major 0x36 (03 Table 3.12). -/
def parse36 (w : Nat) : Option Instr :=
  some (.call (fin 128 (fld w 524288 128)) (fld w 262144 2 == 1) (BitVec.ofNat 18 (fld w 1 262144)))

/-- Words of major 0x37 (03 Table 3.12). -/
def parse37 (w : Nat) : Option Instr :=
  if fld w 1 32 = 0 ∧ fld w 4096 128 = 0 ∧ fld w 32 128 = 0 then
    some (.nop (fin 128 (fld w 524288 128)))
  else if fld w 1 32 = 1 ∧ fld w 4096 128 = 0 ∧ fld w 32 128 = 0 then
    some (.ret (fin 128 (fld w 524288 128)))
  else if fld w 1 32 = 4 ∧ fld w 4096 128 = 0 ∧ fld w 32 128 = 0 then
    some (.reform (fin 128 (fld w 524288 128)))
  else if fld w 1 32 = 5 ∧ fld w 4096 128 = 0 ∧ fld w 32 128 = 0 then
    some (.exit (fin 128 (fld w 524288 128)))
  else if fld w 1 32 = 6 ∧ fld w 4096 128 = 0 ∧ fld w 32 128 = 0 then
    some (.yield (fin 128 (fld w 524288 128)))
  else if fld w 1 32 = 8 ∧ fld w 128 32 = 0 ∧ fld w 4096 128 = 0 then
    some (.setrm (fin 128 (fld w 524288 128)) (fin 4 (fld w 32 4)))
  else if fld w 1 32 = 2 ∧ fld w 32 128 = 0 then
    (Reg.ofCode (fld w 4096 128)).bind fun a => some (.calli (fin 128 (fld w 524288 128)) a)
  else if fld w 1 32 = 3 ∧ fld w 32 128 = 0 then
    (Reg.ofCode (fld w 4096 128)).bind fun a => some (.jmpi (fin 128 (fld w 524288 128)) a)
  else if fld w 1 32 = 7 ∧ fld w 32 128 = 0 then
    (Reg.ofCode (fld w 4096 128)).bind fun a => some (.pause (fin 128 (fld w 524288 128)) a)
  else none

/-- Words of major 0x38 (03 Table 3.12). -/
def parse38 (w : Nat) : Option Instr :=
  if fld w 1 4 = 0 then
    some (.wait (fin 64 (fld w 1048576 64)) (fin 64 (fld w 16384 64)) (fin 64 (fld w 256 64)) (fin 64 (fld w 4 64)))
  else none

/-- Words of major 0x39 (03 Table 3.12). -/
def parse39 (w : Nat) : Option Instr :=
  if fld w 1 32 = 0 ∧ fld w 1024 4 = 0 ∧ fld w 524288 128 = 0 ∧ fld w 4096 128 = 0 then
    (Scope.ofCode (fld w 32 4)).bind fun sc => some (.fence sc (fld w 128 2 == 1) (fld w 256 2 == 1) (fld w 512 2 == 1))
  else if fld w 1 32 = 1 ∧ fld w 524288 128 = 0 ∧ fld w 4096 128 = 0 ∧ fld w 32 128 = 0 then
    some (.barp)
  else if fld w 1 32 = 2 ∧ fld w 524288 128 = 0 ∧ fld w 32 128 = 0 then
    (Reg.ofCode (fld w 4096 128)).bind fun a => some (.barc a)
  else if fld w 1 32 = 6 ∧ fld w 64 64 = 0 ∧ fld w 524288 128 = 0 then
    (Reg.ofCode (fld w 4096 128)).bind fun a => some (.bcwait a (fld w 32 2 == 1))
  else if fld w 1 32 = 13 ∧ fld w 524288 128 = 0 ∧ fld w 32 128 = 0 then
    (Reg.ofCode (fld w 4096 128)).bind fun a => some (.ldrop a)
  else if fld w 1 32 = 3 ∧ fld w 524288 128 = 0 then
    (Reg.ofCode (fld w 4096 128)).bind fun a => (Reg.ofCode (fld w 32 128)).bind fun b => some (.bcinit a b)
  else if fld w 1 32 = 4 ∧ fld w 524288 128 = 0 then
    (Reg.ofCode (fld w 4096 128)).bind fun a => (Reg.ofCode (fld w 32 128)).bind fun b => some (.bcexp a b)
  else if fld w 1 32 = 5 ∧ fld w 524288 128 = 0 then
    (Reg.ofCode (fld w 4096 128)).bind fun a => (Reg.ofCode (fld w 32 128)).bind fun b => some (.bcarr a b)
  else if fld w 1 32 = 7 ∧ fld w 64 64 = 0 then
    (Reg.ofCode (fld w 4096 128)).bind fun a => some (.bctest (fin 128 (fld w 524288 128)) a (fld w 32 2 == 1))
  else if fld w 1 32 = 8 ∧ fld w 524288 128 = 0 then
    (Reg.ofCode (fld w 4096 128)).bind fun a => (Reg.ofCode (fld w 32 128)).bind fun b => some (.waitw a b)
  else if fld w 1 32 = 10 ∧ fld w 524288 4 = 0 then
    (Reg.ofCode (fld w 4096 128)).bind fun a => (Reg.ofCode (fld w 32 128)).bind fun b => (RC.ofCode (fld w 16777216 4)).bind fun rc => (Scope.ofCode (fld w 4194304 4)).bind fun sc => some (.land rc sc (fld w 2097152 2 == 1) a b)
  else if fld w 1 32 = 11 ∧ fld w 32 128 = 0 then
    (Reg.ofCode (fld w 4096 128)).bind fun a => some (.lwait (fin 128 (fld w 524288 128)) a)
  else if fld w 1 32 = 12 ∧ fld w 32 128 = 0 then
    (Reg.ofCode (fld w 4096 128)).bind fun a => some (.ltest (fin 128 (fld w 524288 128)) a)
  else if fld w 1 32 = 14 ∧ fld w 32 128 = 0 then
    (Reg.ofCode (fld w 524288 128)).bind fun d => (Reg.ofCode (fld w 4096 128)).bind fun a => some (.rnext d a)
  else if fld w 1 32 = 9 then
    (Reg.ofCode (fld w 524288 128)).bind fun d => (Reg.ofCode (fld w 4096 128)).bind fun a => (Reg.ofCode (fld w 32 128)).bind fun b => some (.mint d a b)
  else none

/-- Words of major 0x3a (03 Table 3.12). -/
def parse3A (w : Nat) : Option Instr :=
  if fld w 1 32 = 2 ∧ fld w 2048 2 = 0 ∧ fld w 524288 128 = 0 ∧ fld w 4096 128 = 0 then
    some (.mwaitb (fin 64 (fld w 32 64)))
  else if fld w 1 32 = 1 ∧ fld w 2048 2 = 0 ∧ fld w 4096 128 = 0 then
    some (.mmac (fin 128 (fld w 524288 128)) (fin 64 (fld w 32 64)))
  else if fld w 1 32 = 4 ∧ fld w 128 32 = 0 ∧ fld w 4096 128 = 0 then
    some (.mzero (fin 128 (fld w 524288 128)) (fld w 64 2 == 1) (fld w 32 2 == 1))
  else if fld w 1 32 = 5 ∧ fld w 128 32 = 0 ∧ fld w 4096 128 = 0 then
    (Reg.ofCode (fld w 524288 128)).bind fun d => some (.mstat d (fld w 64 2 == 1) (fld w 32 2 == 1))
  else if fld w 1 32 = 0 ∧ fld w 32 128 = 0 then
    (Reg.ofCode (fld w 4096 128)).bind fun a => some (.mma (fin 128 (fld w 524288 128)) a)
  else if fld w 1 32 = 3 ∧ fld w 32 128 = 0 then
    (Reg.ofCode (fld w 4096 128)).bind fun a => some (.mdrain (fin 128 (fld w 524288 128)) a)
  else if fld w 1 32 = 6 ∧ fld w 32 128 = 0 then
    (Reg.ofCode (fld w 4096 128)).bind fun a => some (.apipe (fin 128 (fld w 524288 128)) a)
  else if fld w 1 32 = 7 ∧ fld w 32 128 = 0 then
    (Reg.ofCode (fld w 4096 128)).bind fun a => some (.cpost (fin 128 (fld w 524288 128)) a)
  else if fld w 1 32 = 9 ∧ fld w 32 128 = 0 then
    (Reg.ofCode (fld w 524288 128)).bind fun d => (Reg.ofCode (fld w 4096 128)).bind fun a => some (.ttld d a)
  else if fld w 1 32 = 11 ∧ fld w 32 128 = 0 then
    (Reg.ofCode (fld w 4096 128)).bind fun a => some (.ttinv (fin 128 (fld w 524288 128)) a)
  else if fld w 1 32 = 13 ∧ fld w 4096 128 = 0 then
    (Reg.ofCode (fld w 32 128)).bind fun b => some (.vunbind (fin 128 (fld w 524288 128)) b)
  else if fld w 1 32 = 8 then
    (Reg.ofCode (fld w 4096 128)).bind fun a => (Reg.ofCode (fld w 32 128)).bind fun b => some (.qpost (fin 128 (fld w 524288 128)) a b)
  else if fld w 1 32 = 10 then
    (Reg.ofCode (fld w 4096 128)).bind fun a => (Reg.ofCode (fld w 32 128)).bind fun b => some (.ttst (fin 128 (fld w 524288 128)) a b)
  else if fld w 1 32 = 12 then
    (Reg.ofCode (fld w 4096 128)).bind fun a => (Reg.ofCode (fld w 32 128)).bind fun b => some (.vbind (fin 128 (fld w 524288 128)) a b)
  else none

/-- Words of major 0x3b (03 Table 3.12). -/
def parse3B (w : Nat) : Option Instr :=
  if fld w 1 32 = 1 ∧ fld w 524288 128 = 0 ∧ fld w 4096 128 = 0 ∧ fld w 32 128 = 0 then
    some (.eret)
  else if fld w 1 32 = 0 ∧ fld w 524288 128 = 0 ∧ fld w 4096 128 = 0 then
    some (.trap (fin 128 (fld w 32 128)))
  else if fld w 1 32 = 3 ∧ fld w 32 128 = 60 ∧ fld w 524288 128 = 0 then
    (Reg.ofCode (fld w 4096 128)).bind fun a => some (.swrFpark a)
  else if fld w 1 32 = 3 ∧ fld w 512 8 = 2 ∧ fld w 524288 128 = 0 then
    (Reg.ofCode (fld w 4096 128)).bind fun a => some (.swrLpwc a (fin 16 (fld w 32 16)))
  else if fld w 1 32 = 4 ∧ fld w 524288 128 = 0 ∧ fld w 4096 128 = 0 then
    some (.bkpt (fin 128 (fld w 32 128)))
  else if fld w 1 32 = 5 ∧ fld w 128 32 = 0 ∧ fld w 524288 128 = 0 then
    (Reg.ofCode (fld w 4096 128)).bind fun a => some (.cinv a (fld w 32 2 == 1) (fld w 64 2 == 1))
  else if fld w 1 32 = 6 ∧ fld w 524288 128 = 0 ∧ fld w 32 128 = 0 then
    (Reg.ofCode (fld w 4096 128)).bind fun a => some (.cwb a)
  else if fld w 1 32 = 7 ∧ fld w 64 64 = 0 ∧ fld w 524288 128 = 0 then
    (Reg.ofCode (fld w 4096 128)).bind fun a => some (.tlbinv a (fld w 32 2 == 1))
  else if fld w 1 32 = 8 ∧ fld w 524288 128 = 0 ∧ fld w 32 128 = 0 then
    (Reg.ofCode (fld w 4096 128)).bind fun a => some (.seedset a)
  else if fld w 1 32 = 9 ∧ fld w 4096 128 = 0 ∧ fld w 32 128 = 0 then
    (Reg.ofCode (fld w 524288 128)).bind fun d => some (.clkrd d)
  else if fld w 1 32 = 2 ∧ fld w 4096 128 = 0 then
    (Reg.ofCode (fld w 524288 128)).bind fun d => some (.srd d (fin 128 (fld w 32 128)))
  else if fld w 1 32 = 3 ∧ fld w 524288 128 = 0 then
    (Reg.ofCode (fld w 4096 128)).bind fun a => some (.swr a (fin 128 (fld w 32 128)))
  else none

/-- The instruction a word encodes, before its operand kinds are checked; none where the encoding is not
allocated (03 R63, R70). -/
def parse (w : Nat) : Option Instr :=
  match fld w 67108864 64 with
  | 0 => parse00 w
  | 1 => parse01 w
  | 2 => parse02 w
  | 3 => parse03 w
  | 4 => parse04 w
  | 5 => parse05 w
  | 6 => parse06 w
  | 7 => parse07 w
  | 8 => parse08 w
  | 9 => parse09 w
  | 10 => parse0A w
  | 11 => parse0B w
  | 12 => parse0C w
  | 13 => parse0D w
  | 14 => parse0E w
  | 15 => parse0F w
  | 16 => parse10 w
  | 17 => parse11 w
  | 18 => parse12 w
  | 19 => parse13 w
  | 20 => parse14 w
  | 21 => parse15 w
  | 22 => parse16 w
  | 23 => parse17 w
  | 24 => parse18 w
  | 25 => parse19 w
  | 26 => parse1A w
  | 27 => parse1B w
  | 28 => parse1C w
  | 29 => parse1D w
  | 30 => parse1E w
  | 31 => parse1F w
  | 32 => parse20 w
  | 33 => parse21 w
  | 38 => parse26 w
  | 39 => parse27 w
  | 40 => parse28 w
  | 44 => parse2C w
  | 45 => parse2D w
  | 46 => parse2E w
  | 47 => parse2F w
  | 48 => parse30 w
  | 49 => parse31 w
  | 50 => parse32 w
  | 51 => parse33 w
  | 52 => parse34 w
  | 53 => parse35 w
  | 54 => parse36 w
  | 55 => parse37 w
  | 56 => parse38 w
  | 57 => parse39 w
  | 58 => parse3A w
  | 59 => parse3B w
  | _ => none

/-- Decode a word: an instruction, or the reason it is none (03 R62 check 2, R70). -/
def decodeWord (w : BitVec 32) : Except Reject Instr :=
  match parse w.toNat with
  | none => .error .unallocated
  | some i => if i.wf then .ok i else .error .illegalOperand

/-- The word stored little-endian in four bytes (00 R2, 03). -/
def wordOfBytes (b0 b1 b2 b3 : Byte) : BitVec 32 :=
  BitVec.ofNat 32 (b0.toNat + b1.toNat * 256 + b2.toNat * 65536 + b3.toNat * 16777216)

/-- Decode the instruction at the start of a byte sequence. -/
def decode : List Byte → Except Reject Instr
  | b0 :: b1 :: b2 :: b3 :: _ => decodeWord (wordOfBytes b0 b1 b2 b3)
  | _ => .error .truncated

/-- The four bytes of a word, lowest address first (00 R2). -/
def bytesOfWord (w : Nat) : List Byte :=
  [BitVec.ofNat 8 w, BitVec.ofNat 8 (w / 256), BitVec.ofNat 8 (w / 65536), BitVec.ofNat 8 (w / 16777216)]

/-- The instruction the decoder reads from a table row's word; every encoded row has 32 bits. -/
def decodeTableWord (nbits w : Nat) : Option Instr :=
  match decode (bytesOfWord (w % 2 ^ nbits)) with
  | .ok i => some i
  | .error _ => none

/-- The number whose bits are the word of an instruction (03 Tables 3.3 to 3.18); none for a step of the device,
which has no encoding. -/
def encodeNat : Instr → Option Nat
  | .iadd d a b g => some (0 * 67108864 + d.code * 524288 + a.code * 4096 + b.code * 32 + g.val)
  | .isub d a b g => some (0 * 67108864 + d.code * 524288 + a.code * 4096 + b.code * 32 + 1 * 8 + g.val)
  | .imul d a b g => some (0 * 67108864 + d.code * 524288 + a.code * 4096 + b.code * 32 + 2 * 8 + g.val)
  | .imulh d a b g => some (0 * 67108864 + d.code * 524288 + a.code * 4096 + b.code * 32 + 3 * 8 + g.val)
  | .imulhu d a b g => some (1 * 67108864 + d.code * 524288 + a.code * 4096 + b.code * 32 + g.val)
  | .imad d a b g => some (1 * 67108864 + d.code * 524288 + a.code * 4096 + b.code * 32 + 1 * 8 + g.val)
  | .divs d a b g => some (1 * 67108864 + d.code * 524288 + a.code * 4096 + b.code * 32 + 2 * 8 + g.val)
  | .divu d a b g => some (1 * 67108864 + d.code * 524288 + a.code * 4096 + b.code * 32 + 3 * 8 + g.val)
  | .rems d a b g => some (2 * 67108864 + d.code * 524288 + a.code * 4096 + b.code * 32 + g.val)
  | .remu d a b g => some (2 * 67108864 + d.code * 524288 + a.code * 4096 + b.code * 32 + 1 * 8 + g.val)
  | .imin d a b g => some (2 * 67108864 + d.code * 524288 + a.code * 4096 + b.code * 32 + 2 * 8 + g.val)
  | .imax d a b g => some (2 * 67108864 + d.code * 524288 + a.code * 4096 + b.code * 32 + 3 * 8 + g.val)
  | .iminu d a b g => some (3 * 67108864 + d.code * 524288 + a.code * 4096 + b.code * 32 + g.val)
  | .imaxu d a b g => some (3 * 67108864 + d.code * 524288 + a.code * 4096 + b.code * 32 + 1 * 8 + g.val)
  | .iabs d a g => some (3 * 67108864 + d.code * 524288 + a.code * 4096 + 2 * 8 + g.val)
  | .ineg d a g => some (3 * 67108864 + d.code * 524288 + a.code * 4096 + 3 * 8 + g.val)
  | .andb d a b g => some (4 * 67108864 + d.code * 524288 + a.code * 4096 + b.code * 32 + g.val)
  | .orb d a b g => some (4 * 67108864 + d.code * 524288 + a.code * 4096 + b.code * 32 + 1 * 8 + g.val)
  | .xorb d a b g => some (4 * 67108864 + d.code * 524288 + a.code * 4096 + b.code * 32 + 2 * 8 + g.val)
  | .andn d a b g => some (4 * 67108864 + d.code * 524288 + a.code * 4096 + b.code * 32 + 3 * 8 + g.val)
  | .shl d a b g => some (5 * 67108864 + d.code * 524288 + a.code * 4096 + b.code * 32 + g.val)
  | .shr d a b g => some (5 * 67108864 + d.code * 524288 + a.code * 4096 + b.code * 32 + 1 * 8 + g.val)
  | .sar d a b g => some (5 * 67108864 + d.code * 524288 + a.code * 4096 + b.code * 32 + 2 * 8 + g.val)
  | .rotl d a b g => some (5 * 67108864 + d.code * 524288 + a.code * 4096 + b.code * 32 + 3 * 8 + g.val)
  | .popc d a g => some (6 * 67108864 + d.code * 524288 + a.code * 4096 + g.val)
  | .clz d a g => some (6 * 67108864 + d.code * 524288 + a.code * 4096 + 1 * 8 + g.val)
  | .brev d a g => some (6 * 67108864 + d.code * 524288 + a.code * 4096 + 2 * 8 + g.val)
  | .bfe d a b g => some (6 * 67108864 + d.code * 524288 + a.code * 4096 + b.code * 32 + 3 * 8 + g.val)
  | .bfi d a b g => some (7 * 67108864 + d.code * 524288 + a.code * 4096 + b.code * 32 + g.val)
  | .lea d a b g => some (7 * 67108864 + d.code * 524288 + a.code * 4096 + b.code * 32 + 1 * 8 + g.val)
  | .sel d a b g => some (7 * 67108864 + d.code * 524288 + a.code * 4096 + b.code * 32 + 2 * 8 + g.val)
  | .mov d a g => some (7 * 67108864 + d.code * 524288 + a.code * 4096 + 3 * 8 + g.val)
  | .iadd64 d a b g => some (8 * 67108864 + d.code * 524288 + a.code * 4096 + b.code * 32 + g.val)
  | .isub64 d a b g => some (8 * 67108864 + d.code * 524288 + a.code * 4096 + b.code * 32 + 1 * 8 + g.val)
  | .imul64 d a b g => some (8 * 67108864 + d.code * 524288 + a.code * 4096 + b.code * 32 + 2 * 8 + g.val)
  | .mov64 d a g => some (8 * 67108864 + d.code * 524288 + a.code * 4096 + 3 * 8 + g.val)
  | .shl64 d a b g => some (9 * 67108864 + d.code * 524288 + a.code * 4096 + b.code * 32 + g.val)
  | .shr64 d a b g => some (9 * 67108864 + d.code * 524288 + a.code * 4096 + b.code * 32 + 1 * 8 + g.val)
  | .sar64 d a b g => some (9 * 67108864 + d.code * 524288 + a.code * 4096 + b.code * 32 + 2 * 8 + g.val)
  | .imad64 d a b g => some (9 * 67108864 + d.code * 524288 + a.code * 4096 + b.code * 32 + 3 * 8 + g.val)
  | .icmpEq p a b g => some (10 * 67108864 + p.val * 524288 + a.code * 4096 + b.code * 32 + g.val)
  | .icmpNe p a b g => some (10 * 67108864 + p.val * 524288 + a.code * 4096 + b.code * 32 + 1 * 8 + g.val)
  | .icmpLt p a b g => some (10 * 67108864 + p.val * 524288 + a.code * 4096 + b.code * 32 + 2 * 8 + g.val)
  | .icmpLe p a b g => some (10 * 67108864 + p.val * 524288 + a.code * 4096 + b.code * 32 + 3 * 8 + g.val)
  | .icmpLtu p a b g => some (11 * 67108864 + p.val * 524288 + a.code * 4096 + b.code * 32 + g.val)
  | .icmpLeu p a b g => some (11 * 67108864 + p.val * 524288 + a.code * 4096 + b.code * 32 + 1 * 8 + g.val)
  | .itst p a b g => some (11 * 67108864 + p.val * 524288 + a.code * 4096 + b.code * 32 + 2 * 8 + g.val)
  | .itstn p a b g => some (11 * 67108864 + p.val * 524288 + a.code * 4096 + b.code * 32 + 3 * 8 + g.val)
  | .pand p q r g => some (12 * 67108864 + p.val * 524288 + q.val * 4096 + r.val * 32 + g.val)
  | .por p q r g => some (12 * 67108864 + p.val * 524288 + q.val * 4096 + r.val * 32 + 1 * 8 + g.val)
  | .pxor p q r g => some (12 * 67108864 + p.val * 524288 + q.val * 4096 + r.val * 32 + 2 * 8 + g.val)
  | .pandn p q r g => some (12 * 67108864 + p.val * 524288 + q.val * 4096 + r.val * 32 + 3 * 8 + g.val)
  | .pmov p q g => some (13 * 67108864 + p.val * 524288 + q.val * 4096 + g.val)
  | .ptor d q g => some (13 * 67108864 + d.code * 524288 + q.val * 4096 + 1 * 8 + g.val)
  | .rtop p a g => some (13 * 67108864 + p.val * 524288 + a.code * 4096 + 2 * 8 + g.val)
  | .pcnt d q g => some (13 * 67108864 + d.code * 524288 + q.val * 4096 + 3 * 8 + g.val)
  | .fadd ty d a b g => some (14 * 67108864 + d.code * 524288 + a.code * 4096 + b.code * 32 + ty.code * 8 + g.val)
  | .fsub ty d a b g => some (15 * 67108864 + d.code * 524288 + a.code * 4096 + b.code * 32 + ty.code * 8 + g.val)
  | .fmul ty d a b g => some (16 * 67108864 + d.code * 524288 + a.code * 4096 + b.code * 32 + ty.code * 8 + g.val)
  | .ffma ty d a b g => some (17 * 67108864 + d.code * 524288 + a.code * 4096 + b.code * 32 + ty.code * 8 + g.val)
  | .fmin ty d a b g => some (18 * 67108864 + d.code * 524288 + a.code * 4096 + b.code * 32 + ty.code * 8 + g.val)
  | .fmax ty d a b g => some (19 * 67108864 + d.code * 524288 + a.code * 4096 + b.code * 32 + ty.code * 8 + g.val)
  | .fcmpeq ty p a b g => some (20 * 67108864 + p.val * 524288 + a.code * 4096 + b.code * 32 + ty.code * 8 + g.val)
  | .fcmplt ty p a b g => some (21 * 67108864 + p.val * 524288 + a.code * 4096 + b.code * 32 + ty.code * 8 + g.val)
  | .fcmple ty p a b g => some (22 * 67108864 + p.val * 524288 + a.code * 4096 + b.code * 32 + ty.code * 8 + g.val)
  | .fcmpun ty p a b g => some (23 * 67108864 + p.val * 524288 + a.code * 4096 + b.code * 32 + ty.code * 8 + g.val)
  | .fdiv d a b g => some (24 * 67108864 + d.code * 524288 + a.code * 4096 + b.code * 32 + g.val)
  | .fsqrt d a g => some (24 * 67108864 + d.code * 524288 + a.code * 4096 + 1 * 8 + g.val)
  | .frsq d a g => some (24 * 67108864 + d.code * 524288 + a.code * 4096 + 2 * 8 + g.val)
  | .frcp d a g => some (24 * 67108864 + d.code * 524288 + a.code * 4096 + 3 * 8 + g.val)
  | .fexp2 d a g => some (25 * 67108864 + d.code * 524288 + a.code * 4096 + g.val)
  | .flog2 d a g => some (25 * 67108864 + d.code * 524288 + a.code * 4096 + 1 * 8 + g.val)
  | .fsinpi d a g => some (25 * 67108864 + d.code * 524288 + a.code * 4096 + 2 * 8 + g.val)
  | .fcospi d a g => some (25 * 67108864 + d.code * 524288 + a.code * 4096 + 3 * 8 + g.val)
  | .ftanh d a g => some (26 * 67108864 + d.code * 524288 + a.code * 4096 + g.val)
  | .fsigm d a g => some (26 * 67108864 + d.code * 524288 + a.code * 4096 + 1 * 8 + g.val)
  | .fldexp d a b g => some (26 * 67108864 + d.code * 524288 + a.code * 4096 + b.code * 32 + 2 * 8 + g.val)
  | .frint d a g => some (26 * 67108864 + d.code * 524288 + a.code * 4096 + 3 * 8 + g.val)
  | .cvtfi d a ce uns g => some (27 * 67108864 + d.code * 524288 + a.code * 4096 + ce.code * 512 + uns.toNat * 32 + g.val)
  | .cvtif d a ce uns g => some (27 * 67108864 + d.code * 524288 + a.code * 4096 + ce.code * 512 + uns.toNat * 32 + 1 * 8 + g.val)
  | .cvtff d a src dst g => some (27 * 67108864 + d.code * 524288 + a.code * 4096 + src.code * 512 + dst.code * 32 + 2 * 8 + g.val)
  | .cvtpk d a ce g => some (27 * 67108864 + d.code * 524288 + a.code * 4096 + ce.code * 512 + 3 * 8 + g.val)
  | .fabs d a g => some (28 * 67108864 + d.code * 524288 + a.code * 4096 + g.val)
  | .fneg d a g => some (28 * 67108864 + d.code * 524288 + a.code * 4096 + 1 * 8 + g.val)
  | .fcpys d a b g => some (28 * 67108864 + d.code * 524288 + a.code * 4096 + b.code * 32 + 2 * 8 + g.val)
  | .fclass d a g => some (28 * 67108864 + d.code * 524288 + a.code * 4096 + 3 * 8 + g.val)
  | .xacc d a b g => some (29 * 67108864 + d.code * 524288 + a.code * 4096 + b.code * 32 + g.val)
  | .xadd d a g => some (29 * 67108864 + d.code * 524288 + a.code * 4096 + 1 * 8 + g.val)
  | .xcvt d a ce g => some (29 * 67108864 + d.code * 524288 + a.code * 4096 + ce.code * 512 + 2 * 8 + g.val)
  | .xneg d a g => some (29 * 67108864 + d.code * 524288 + a.code * 4096 + 3 * 8 + g.val)
  | .xanc a g => some (30 * 67108864 + a.code * 4096 + g.val)
  | .xdoth d a b g => some (30 * 67108864 + d.code * 524288 + a.code * 4096 + b.code * 32 + 1 * 8 + g.val)
  | .xdotb d a b g => some (30 * 67108864 + d.code * 524288 + a.code * 4096 + b.code * 32 + 2 * 8 + g.val)
  | .xcmp p a b g => some (30 * 67108864 + p.val * 524288 + a.code * 4096 + b.code * 32 + 3 * 8 + g.val)
  | .rshf d a b g => some (31 * 67108864 + d.code * 524288 + a.code * 4096 + b.code * 32 + g.val)
  | .rshfx d a b g => some (31 * 67108864 + d.code * 524288 + a.code * 4096 + b.code * 32 + 1 * 8 + g.val)
  | .rbcast d a n g => some (31 * 67108864 + d.code * 524288 + a.code * 4096 + n.val * 32 + 2 * 8 + g.val)
  | .rballot d q g => some (31 * 67108864 + d.code * 524288 + q.val * 4096 + 3 * 8 + g.val)
  | .rredAddi d a rt g => some (32 * 67108864 + d.code * 524288 + a.code * 4096 + rt.code * 32 + g.val)
  | .rredAddf d a g => some (32 * 67108864 + d.code * 524288 + a.code * 4096 + 2 * 32 + 1 * 8 + g.val)
  | .rredMin d a rt g => some (32 * 67108864 + d.code * 524288 + a.code * 4096 + rt.code * 32 + 2 * 8 + g.val)
  | .rredMax d a rt g => some (32 * 67108864 + d.code * 524288 + a.code * 4096 + rt.code * 32 + 3 * 8 + g.val)
  | .rscani d a rt ex g => some (33 * 67108864 + d.code * 524288 + a.code * 4096 + ex.toNat * 2048 + rt.code * 32 + g.val)
  | .rscanf d a ex g => some (33 * 67108864 + d.code * 524288 + a.code * 4096 + ex.toNat * 2048 + 2 * 32 + 1 * 8 + g.val)
  | .rany p q g => some (33 * 67108864 + p.val * 524288 + q.val * 4096 + 2 * 8 + g.val)
  | .rall p q g => some (33 * 67108864 + p.val * 524288 + q.val * 4096 + 3 * 8 + g.val)
  | .movi d imm => some (38 * 67108864 + d.code * 524288 + imm.toNat)
  | .movhi d imm => some (38 * 67108864 + d.code * 524288 + 1 * 65536 + imm.toNat)
  | .addi d imm => some (38 * 67108864 + d.code * 524288 + 2 * 65536 + imm.toNat)
  | .andi d imm => some (38 * 67108864 + d.code * 524288 + 3 * 65536 + imm.toNat)
  | .ori d imm => some (38 * 67108864 + d.code * 524288 + 4 * 65536 + imm.toNat)
  | .xori d imm => some (38 * 67108864 + d.code * 524288 + 5 * 65536 + imm.toNat)
  | .shli d n => some (38 * 67108864 + d.code * 524288 + 6 * 65536 + n.val)
  | .shri d n => some (38 * 67108864 + d.code * 524288 + 7 * 65536 + n.val)
  | .fmoviF32Bf d imm => some (39 * 67108864 + d.code * 524288 + imm.toNat)
  | .fmoviF32Hf d imm => some (39 * 67108864 + d.code * 524288 + 1 * 65536 + imm.toNat)
  | .fmoviE4 d imm => some (39 * 67108864 + d.code * 524288 + 2 * 65536 + imm.toNat)
  | .fmoviE5 d imm => some (39 * 67108864 + d.code * 524288 + 3 * 65536 + imm.toNat)
  | .fmoviB2 d imm => some (39 * 67108864 + d.code * 524288 + 4 * 65536 + imm.toNat)
  | .fmoviH2 d imm => some (39 * 67108864 + d.code * 524288 + 5 * 65536 + imm.toNat)
  | .faddiF32 d imm => some (39 * 67108864 + d.code * 524288 + 6 * 65536 + imm.toNat)
  | .fmuliF32 d imm => some (39 * 67108864 + d.code * 524288 + 7 * 65536 + imm.toNat)
  | .winb imm => some (40 * 67108864 + imm.toNat)
  | .ixset imm => some (40 * 67108864 + 1 * 65536 + imm.toNat)
  | .ixadd imm => some (40 * 67108864 + 2 * 65536 + imm.toNat)
  | .ld d a off rc sc ord sz => some (44 * 67108864 + d.code * 524288 + a.code * 4096 + off.toNat * 256 + rc.code * 64 + sc.code * 16 + ord.toNat * 8 + sz.code)
  | .st d a off rc sc ord sz => some (45 * 67108864 + d.code * 524288 + a.code * 4096 + off.toNat * 256 + rc.code * 64 + sc.code * 16 + ord.toNat * 8 + sz.code)
  | .lds d a off sz => some (46 * 67108864 + d.code * 524288 + a.code * 4096 + off.toNat * 8 + sz.code)
  | .sts d a off sz => some (47 * 67108864 + d.code * 524288 + a.code * 4096 + off.toNat * 8 + sz.code)
  | .atomAdd w d a rc sc ord => some (48 * 67108864 + d.code * 524288 + a.code * 4096 + w.toNat * 128 + rc.code * 32 + sc.code * 8 + ord.code * 2)
  | .atomAnd w d a rc sc ord => some (48 * 67108864 + d.code * 524288 + a.code * 4096 + 1 * 256 + w.toNat * 128 + rc.code * 32 + sc.code * 8 + ord.code * 2)
  | .atomOr w d a rc sc ord => some (48 * 67108864 + d.code * 524288 + a.code * 4096 + 2 * 256 + w.toNat * 128 + rc.code * 32 + sc.code * 8 + ord.code * 2)
  | .atomXor w d a rc sc ord => some (48 * 67108864 + d.code * 524288 + a.code * 4096 + 3 * 256 + w.toNat * 128 + rc.code * 32 + sc.code * 8 + ord.code * 2)
  | .atomMin w d a rc sc ord => some (48 * 67108864 + d.code * 524288 + a.code * 4096 + 4 * 256 + w.toNat * 128 + rc.code * 32 + sc.code * 8 + ord.code * 2)
  | .atomMax w d a rc sc ord => some (48 * 67108864 + d.code * 524288 + a.code * 4096 + 5 * 256 + w.toNat * 128 + rc.code * 32 + sc.code * 8 + ord.code * 2)
  | .atomMinu w d a rc sc ord => some (48 * 67108864 + d.code * 524288 + a.code * 4096 + 6 * 256 + w.toNat * 128 + rc.code * 32 + sc.code * 8 + ord.code * 2)
  | .atomMaxu w d a rc sc ord => some (48 * 67108864 + d.code * 524288 + a.code * 4096 + 7 * 256 + w.toNat * 128 + rc.code * 32 + sc.code * 8 + ord.code * 2)
  | .atomExch w d a rc sc ord => some (48 * 67108864 + d.code * 524288 + a.code * 4096 + 8 * 256 + w.toNat * 128 + rc.code * 32 + sc.code * 8 + ord.code * 2)
  | .atomCas w d a rc sc ord => some (48 * 67108864 + d.code * 524288 + a.code * 4096 + 9 * 256 + w.toNat * 128 + rc.code * 32 + sc.code * 8 + ord.code * 2)
  | .atomFaddF32 d a rc sc ord => some (48 * 67108864 + d.code * 524288 + a.code * 4096 + 10 * 256 + rc.code * 32 + sc.code * 8 + ord.code * 2)
  | .atomXadd128 d a rc sc ord => some (48 * 67108864 + d.code * 524288 + a.code * 4096 + 11 * 256 + 1 * 128 + rc.code * 32 + sc.code * 8 + ord.code * 2)
  | .atomIncw w d a rc sc ord => some (48 * 67108864 + d.code * 524288 + a.code * 4096 + 12 * 256 + w.toNat * 128 + rc.code * 32 + sc.code * 8 + ord.code * 2)
  | .atomDecw w d a rc sc ord => some (48 * 67108864 + d.code * 524288 + a.code * 4096 + 13 * 256 + w.toNat * 128 + rc.code * 32 + sc.code * 8 + ord.code * 2)
  | .atomsAdd w d a tr ord => some (49 * 67108864 + d.code * 524288 + a.code * 4096 + w.toNat * 128 + tr.toNat * 8 + ord.code * 2)
  | .atomsAnd w d a tr ord => some (49 * 67108864 + d.code * 524288 + a.code * 4096 + 1 * 256 + w.toNat * 128 + tr.toNat * 8 + ord.code * 2)
  | .atomsOr w d a tr ord => some (49 * 67108864 + d.code * 524288 + a.code * 4096 + 2 * 256 + w.toNat * 128 + tr.toNat * 8 + ord.code * 2)
  | .atomsXor w d a tr ord => some (49 * 67108864 + d.code * 524288 + a.code * 4096 + 3 * 256 + w.toNat * 128 + tr.toNat * 8 + ord.code * 2)
  | .atomsMin w d a tr ord => some (49 * 67108864 + d.code * 524288 + a.code * 4096 + 4 * 256 + w.toNat * 128 + tr.toNat * 8 + ord.code * 2)
  | .atomsMax w d a tr ord => some (49 * 67108864 + d.code * 524288 + a.code * 4096 + 5 * 256 + w.toNat * 128 + tr.toNat * 8 + ord.code * 2)
  | .atomsMinu w d a tr ord => some (49 * 67108864 + d.code * 524288 + a.code * 4096 + 6 * 256 + w.toNat * 128 + tr.toNat * 8 + ord.code * 2)
  | .atomsMaxu w d a tr ord => some (49 * 67108864 + d.code * 524288 + a.code * 4096 + 7 * 256 + w.toNat * 128 + tr.toNat * 8 + ord.code * 2)
  | .atomsExch w d a tr ord => some (49 * 67108864 + d.code * 524288 + a.code * 4096 + 8 * 256 + w.toNat * 128 + tr.toNat * 8 + ord.code * 2)
  | .atomsCas w d a tr ord => some (49 * 67108864 + d.code * 524288 + a.code * 4096 + 9 * 256 + w.toNat * 128 + tr.toNat * 8 + ord.code * 2)
  | .atomsFaddF32 d a tr ord => some (49 * 67108864 + d.code * 524288 + a.code * 4096 + 10 * 256 + tr.toNat * 8 + ord.code * 2)
  | .atomsXadd128 d a tr ord => some (49 * 67108864 + d.code * 524288 + a.code * 4096 + 11 * 256 + 1 * 128 + tr.toNat * 8 + ord.code * 2)
  | .atomsIncw w d a tr ord => some (49 * 67108864 + d.code * 524288 + a.code * 4096 + 12 * 256 + w.toNat * 128 + tr.toNat * 8 + ord.code * 2)
  | .atomsDecw w d a tr ord => some (49 * 67108864 + d.code * 524288 + a.code * 4096 + 13 * 256 + w.toNat * 128 + tr.toNat * 8 + ord.code * 2)
  | .lr d a off rc sc ord sz => some (50 * 67108864 + d.code * 524288 + a.code * 4096 + off.toNat * 256 + rc.code * 64 + sc.code * 16 + ord.toNat * 8 + sz.code)
  | .sc d a off rc sc ord sz => some (51 * 67108864 + d.code * 524288 + a.code * 4096 + off.toNat * 256 + rc.code * 64 + sc.code * 16 + ord.toNat * 8 + sz.code)
  | .bra p n off => some (52 * 67108864 + p.val * 524288 + n.toNat * 262144 + off.toNat)
  | .brf p n off => some (53 * 67108864 + p.val * 524288 + n.toNat * 262144 + off.toNat)
  | .call p n off => some (54 * 67108864 + p.val * 524288 + n.toNat * 262144 + off.toNat)
  | .nop g => some (55 * 67108864 + g.val * 524288)
  | .ret g => some (55 * 67108864 + g.val * 524288 + 1)
  | .calli g a => some (55 * 67108864 + g.val * 524288 + a.code * 4096 + 2)
  | .jmpi g a => some (55 * 67108864 + g.val * 524288 + a.code * 4096 + 3)
  | .reform g => some (55 * 67108864 + g.val * 524288 + 4)
  | .exit g => some (55 * 67108864 + g.val * 524288 + 5)
  | .yield g => some (55 * 67108864 + g.val * 524288 + 6)
  | .pause g a => some (55 * 67108864 + g.val * 524288 + a.code * 4096 + 7)
  | .setrm g m => some (55 * 67108864 + g.val * 524288 + m.val * 32 + 8)
  | .wait ld st cp tl => some (56 * 67108864 + ld.val * 1048576 + st.val * 16384 + cp.val * 256 + tl.val * 4)
  | .fence sc o a s => some (57 * 67108864 + s.toNat * 512 + a.toNat * 256 + o.toNat * 128 + sc.code * 32)
  | .barp => some (57 * 67108864 + 1)
  | .barc a => some (57 * 67108864 + a.code * 4096 + 2)
  | .bcinit a b => some (57 * 67108864 + a.code * 4096 + b.code * 32 + 3)
  | .bcexp a b => some (57 * 67108864 + a.code * 4096 + b.code * 32 + 4)
  | .bcarr a b => some (57 * 67108864 + a.code * 4096 + b.code * 32 + 5)
  | .bcwait a ph => some (57 * 67108864 + a.code * 4096 + ph.toNat * 32 + 6)
  | .bctest p a ph => some (57 * 67108864 + p.val * 524288 + a.code * 4096 + ph.toNat * 32 + 7)
  | .waitw a b => some (57 * 67108864 + a.code * 4096 + b.code * 32 + 8)
  | .mint d a b => some (57 * 67108864 + d.code * 524288 + a.code * 4096 + b.code * 32 + 9)
  | .land rc sc w a b => some (57 * 67108864 + rc.code * 16777216 + sc.code * 4194304 + w.toNat * 2097152 + a.code * 4096 + b.code * 32 + 10)
  | .lwait p a => some (57 * 67108864 + p.val * 524288 + a.code * 4096 + 11)
  | .ltest p a => some (57 * 67108864 + p.val * 524288 + a.code * 4096 + 12)
  | .ldrop a => some (57 * 67108864 + a.code * 4096 + 13)
  | .rnext d a => some (57 * 67108864 + d.code * 524288 + a.code * 4096 + 14)
  | .mma g a => some (58 * 67108864 + g.val * 524288 + a.code * 4096)
  | .mmac g t => some (58 * 67108864 + g.val * 524288 + t.val * 32 + 1)
  | .mwaitb t => some (58 * 67108864 + t.val * 32 + 2)
  | .mdrain g a => some (58 * 67108864 + g.val * 524288 + a.code * 4096 + 3)
  | .mzero g arr tile => some (58 * 67108864 + g.val * 524288 + arr.toNat * 64 + tile.toNat * 32 + 4)
  | .mstat d arr tile => some (58 * 67108864 + d.code * 524288 + arr.toNat * 64 + tile.toNat * 32 + 5)
  | .apipe g a => some (58 * 67108864 + g.val * 524288 + a.code * 4096 + 6)
  | .cpost g a => some (58 * 67108864 + g.val * 524288 + a.code * 4096 + 7)
  | .qpost g a b => some (58 * 67108864 + g.val * 524288 + a.code * 4096 + b.code * 32 + 8)
  | .ttld d a => some (58 * 67108864 + d.code * 524288 + a.code * 4096 + 9)
  | .ttst g a b => some (58 * 67108864 + g.val * 524288 + a.code * 4096 + b.code * 32 + 10)
  | .ttinv g a => some (58 * 67108864 + g.val * 524288 + a.code * 4096 + 11)
  | .vbind g a b => some (58 * 67108864 + g.val * 524288 + a.code * 4096 + b.code * 32 + 12)
  | .vunbind g b => some (58 * 67108864 + g.val * 524288 + b.code * 32 + 13)
  | .trap i => some (59 * 67108864 + i.val * 32)
  | .eret => some (59 * 67108864 + 1)
  | .srd d n => some (59 * 67108864 + d.code * 524288 + n.val * 32 + 2)
  | .swr a n => some (59 * 67108864 + a.code * 4096 + n.val * 32 + 3)
  | .swrFpark a => some (59 * 67108864 + a.code * 4096 + 60 * 32 + 3)
  | .swrLpwc a n => some (59 * 67108864 + a.code * 4096 + 2 * 512 + n.val * 32 + 3)
  | .bkpt i => some (59 * 67108864 + i.val * 32 + 4)
  | .cinv a l1 l2 => some (59 * 67108864 + a.code * 4096 + l2.toNat * 64 + l1.toNat * 32 + 5)
  | .cwb a => some (59 * 67108864 + a.code * 4096 + 6)
  | .tlbinv a all => some (59 * 67108864 + a.code * 4096 + all.toNat * 32 + 7)
  | .seedset a => some (59 * 67108864 + a.code * 4096 + 8)
  | .clkrd d => some (59 * 67108864 + d.code * 524288 + 9)
  | .issueCycle => none
  | .formDrill _ => none
  | .furrowAgeEligible _ _ => none
  | .rowRendezvousComplete _ _ => none
  | .rowGroupExecute _ _ => none
  | .tokenRead _ => none
  | .placeTract => none
  | .quantumExpiry _ => none
  | .sleepCandidateTimer _ => none
  | .swapOut _ => none
  | .swapIn _ => none
  | .plotRetire _ => none
  | .sowingComplete _ => none
  | .threadWake _ _ => none
  | .pauseExpiry _ _ => none
  | .waitwRecheck _ _ => none
  | .barpComplete _ => none
  | .barcComplete _ _ => none
  | .loadReturn _ _ => none
  | .storeAck _ => none
  | .pageWalk _ _ _ => none
  | .directoryMakeShared _ _ _ => none
  | .regionWindowEnd _ => none
  | .regionMigrate _ => none
  | .regionMerge _ => none
  | .lpwFadeTick _ _ => none
  | .glean _ => none
  | .viewAtomic _ => none
  | .faratAtomic _ => none
  | .reservationExpiry _ _ => none
  | .barrierArrive _ => none
  | .landArrive _ => none
  | .landAnswer _ => none
  | .slotLapse _ _ => none
  | .frontEndTakePacket _ => none
  | .launch _ => none
  | .nopPacket _ => none
  | .tokenSignal _ => none
  | .queueCopyHandoff _ => none
  | .qpostRingRoom _ => none
  | .copy _ => none
  | .quantisingCopy _ => none
  | .conditionalCopy _ => none
  | .peerCopy _ => none
  | .copyComplete _ => none
  | .mmaStreamStart _ _ => none
  | .mmaStreamEnd _ _ => none
  | .mdrainRun _ _ => none
  | .mdrainComplete _ _ => none
  | .mzeroTurn _ _ => none
  | .apipeStart _ => none
  | .apipeComplete _ => none
  | .faultRecordFlush _ => none
  | .parkingBudgetExpiry _ => none
  | .faultService _ => none
  | .debugSetComparator _ _ _ => none
  | .debugSetControl _ _ _ _ => none
  | .debugReadState _ _ => none
  | .debugWriteState _ _ _ _ => none
  | .debugResume _ _ => none
  | .debugSingleStep _ _ => none
  | .debugKill _ _ => none
  | .faultsHold _ => none
  | .faultsRelease _ => none
  | .faultsKill _ _ => none
  | .h2dDoorbell _ => none
  | .mailboxWrite _ _ => none
  | .mailboxAccept => none
  | .d2hPost => none
  | .selfTestRecord => none
  | .attestation => none
  | .certificates => none
  | .contextRegister => none
  | .contextUnregister => none
  | .queueRegister => none
  | .queueUnregister => none
  | .pinChange => none
  | .lazyAdd => none
  | .discard => none
  | .unfreeze => none
  | .apertureSet => none
  | .peerWindowSet => none
  | .linkKeyRotate => none
  | .memoryKeyRotate => none
  | .errorLogRead => none
  | .keyDeliver _ _ => none
  | .keyInstallAck _ => none
  | .oldGenerationAcked _ => none
  | .retireMarker _ _ => none
  | .flitReceive _ _ => none
  | .portLinkUp _ _ => none
  | .portLeaveService _ => none
  | .oRemapRelease _ => none
  | .destUnreachable _ => none
  | .fabricRequestReceive _ => none
  | .relayForward _ => none
  | .hostAccess _ => none
  | .powerOn _ => none
  | .deviceReset _ => none
  | .patrolScrub _ => none
  | .powerThrottle _ _ => none
  | .thermalTrip => none
  | .uncorrectableError _ => none
  | .reachabilityTableChange _ _ => none

/-- The word of a well-formed instruction; none for a step of the device. -/
def encode (i : Instr) : Option (BitVec 32) := (encodeNat i).map (BitVec.ofNat 32)

end Sys2Proof
end

