-- ==== Sys2Proof/Config.lean ====
section
/-! DEFINITION. What the spec leaves open: free values, constants without a body, so that nothing can be proved
about the value they take; each is named in a log entry. -/

namespace Sys2Proof.Config

/-- A free 32-bit value for each draw: check tags of landing names (13 R289, log 6); and words that no rule gives (log 52). -/
opaque freeWord : Nat → Word

/-- A free choice for each draw: a relay device among those eligible (23 R407, log 6). -/
opaque freeNat : Nat → Nat

/-- Whether a line of an L1, a view read buffer or an L2 is still present when it is looked up (09 R186 to R188, log 7). -/
opaque lineKept : Nat → Bool

/-- Whether a fetch of a core from a line of its instruction cache, in a cycle, still finds the word that the cache holds (11 R249, log 57). -/
opaque codeKept : Nat → Nat → Nat → Bool

/-- Compressed size in sectors of a line written (09 R189, log 15). -/
opaque sectors : Nat → Nat

/-- A key the steward generates (23 R412, R435, log 6). -/
opaque freeKey : Nat → BitVec 256

/-- The plaintext of a flit under a key, none where its tag fails (23 R411, log 13). -/
opaque openFlit : BitVec 256 → Nat → Option Nat

/-- The ciphertext with tag of the flit that a draw numbers, under a key (23 R411, log 13). -/
opaque sealFlit : BitVec 256 → Nat → Nat

/-- What the plaintext of a flit says to the data link layer, none where it says nothing to it (23 R404, log 13). -/
opaque linkCmd : Nat → Option LinkCmd

/-- An Ed25519 signature of a message verifies under a public key: key, message, signature (23 R426, log 13). -/
opaque edVerify : List Byte → List Byte → List Byte → Bool

/-- The same for ML-DSA-65 (23 R426, log 13). -/
opaque mlVerify : List Byte → List Byte → List Byte → Bool

/-- AES-256-XTS of a line of 128 bytes: the pair of keys, the tweak, the bytes (23 R433, log 13). -/
opaque xts : BitVec 256 → BitVec 256 → Nat → List Byte → List Byte

/-- The integrity tag of a line: the pair of keys, the ciphertext, the address, the version (23 R433, log 13). -/
opaque lineTag : BitVec 256 → BitVec 256 → List Byte → Nat → Nat → BitVec 64

/-- Soft errors that SECDED codes correct in a cycle in register files, scratchpads, caches, tiles and tags (23 R437, log 6). -/
opaque softErrors : Nat → Nat

/-- The sub-operation that a debug message asks for, none where it asks for none (23 R424, log 16). -/
opaque debugSub : BitVec 512 → Option DebugSub

/-- SHA-512 (23 R431, log 13). -/
opaque sha512 : List Byte → BitVec 512

/-- Ed25519 signature with the device key over a message (23 R431, log 13). -/
opaque signEd : Nat → BitVec 512

/-- ML-DSA-65 signature with the device key over a message, 3,309 bytes (23 R431, log 13). -/
opaque signMl : Nat → List Byte

/-- The boot ROM's bytes (23 R431, log 13). -/
opaque bootRom : List Byte

/-- The device-key certificate chain (23 R431, log 13). -/
opaque certChain : List Byte

/-- A byte of another device or of the host that an engine reads (log 18). -/
opaque freeByte : Nat → Byte

/-- The fault that another device answers to an access that the model makes in one step, none where it performs it (23 R413, log 18). -/
opaque farFault : Nat → Option Nat

/-- The sources of the writes that such a read returns (11 R232, log 18). -/
opaque freeSrcs : Nat → List WireSrc

/-- Whether a gleaner's read of a base sector combines with an identical outstanding one, for each draw (10 R218, log 49). -/
opaque combines : Nat → Bool

end Sys2Proof.Config
end

