-- ==== Sys2Proof/Machine/State.lean ====
section
/-! DEFINITION. The state of the machine: everything spec/ gives the device, its cores, contexts, plots and threads,
as plain data, and the state after reset. -/

namespace Sys2Proof.Machine

/-! ## Tables: sparse data by key, keys strictly rising -/

/-- A table from numbers to records, keys strictly rising. -/
abbrev Tab (α : Type) := List (Nat × α)

/-- Memory contents: addresses strictly rising, no byte 0 listed; an unlisted byte reads 0 (09 R203). -/
abbrev Mem := List (Nat × Byte)

/-! ## Threads -/

/-- A thread: the tag of its plot (15 R311) and its tid (01 R13). -/
structure Ref where
  tag : Nat
  tid : Nat
  deriving DecidableEq, Repr

/-- The instruction a sleeping thread sleeps in, with what its condition needs (13 Table 13.2, 21 SLEEPK). -/
inductive Sleep where
  | wait (ld st cp tl : Nat)
  | barp
  | barc (com : Nat)
  | bcwait (addr : Word) (phase : Bool)
  | waitw (va : DWord) (value : Word) (since : Nat)
  | lwait (p : Fin 128) (reg : Nat)
  | pause (wake : Nat)
  | mwaitb (batch : Nat)
  deriving DecidableEq, Repr

/-- Why a thread is in the headland (01 R14). -/
inductive Reason where
  | sleep (k : Sleep)
  | rendezvous
  | parked
  | stopped
  deriving DecidableEq, Repr

/-- Where a thread is (01 Table 1.4). -/
inductive Place where
  | filed
  | drill (slot : Nat)
  | headland (r : Reason)
  | exited
  deriving DecidableEq, Repr

/-- The 2-bit landing state of a register (13 R288). -/
inductive LandState where
  | none
  | pending
  | delivered
  | lapsed
  deriving DecidableEq, Repr

/-- An agent as the scope tests of 11 R221 see it: its device, and for a thread or an engine command the
tract and plot it belongs to. -/
structure Agent where
  dev : Nat
  tract : Option Nat
  plot : Option Nat
  deriving DecidableEq, Repr

/-- Routing classes as a mask of O, A, S (11 R227, R236). -/
structure Classes where
  o : Bool
  a : Bool
  s : Bool
  deriving DecidableEq, Repr

/-- A synchronisation source: the agent that released and the scope of the release (11 R232). -/
structure SyncSrc where
  agent : Agent
  scope : Scope
  deriving DecidableEq, Repr

/-- A relaxed read of a write that has a source, kept until a FENCE of its class (11 R232, R237; log 21). -/
structure SeenSrc where
  src : SyncSrc
  clsO : Bool
  clsA : Bool
  clsS : Bool
  deriving DecidableEq, Repr

/-- What a debugger wrote to a stopped thread: a record of Table 21.12 and a register block (21 R396). -/
structure DebugWrite where
  image : BitVec 2048
  regs : List Word
  deriving DecidableEq, Repr

/-- One thread (01 Table 1.3, 21 Tables 21.2 and 21.12). RA is the length of regs; lapses are registers whose name lapsed while the tract was
swapped out (13 R294); written is a debugger's write that has not taken effect (21 R396). -/
structure Thread where
  pc : DWord
  regs : List Word
  landing : List LandState
  landSrc : Tab SyncSrc
  wb : Nat
  ix : Word
  preds : BitVec 128
  tstat : Word
  rmode : BitVec 2
  xa : BitVec 12
  rstack : List DWord
  spd : Word
  tlsb : DWord
  ld : Nat
  st : Nat
  cp : Nat
  tl : Nat
  rcurRing : Word
  rcurStage : Nat
  rcurPhase : Bool
  epc : DWord
  ecode : Word
  einfo : Word
  eaddr : DWord
  ewb : Word
  eix : Word
  scr : List Word
  place : Place
  pflt : Bool
  stopReq : Bool
  bkptStop : Option Nat
  noMatch : Bool
  stepping : Bool
  fenceO : Option Scope
  fenceA : Option Scope
  fenceS : Option Scope
  fenceL : Option Scope
  seen : List SeenSrc
  lapses : List Nat
  written : Option DebugWrite
  deriving DecidableEq, Repr

/-! ## Plots -/

/-- Role of a thread (01 R16). -/
inductive Role where
  | copy
  | matrix
  | vector
  deriving DecidableEq, Repr

/-- Arrivals at a byte-count barrier, for the edges of 11 R243: those of the phase in progress and those of
the phase completed last. -/
structure BarEdges where
  cur : List SyncSrc
  last : List SyncSrc
  deriving DecidableEq, Repr

/-- The word that a row group executes, or the fault of its fetch: fetched once, when the rendezvous completes (07 R149). -/
inductive GroupWord where
  | word (w : Word)
  | fault (code : Nat)
  deriving DecidableEq, Repr

/-- A group of threads of one home row that a completed rendezvous left to execute at one PC (01 R26). -/
structure RowGroup where
  row : Nat
  pc : DWord
  tids : List Nat
  word : GroupWord
  deriving DecidableEq, Repr

/-- An engine command accepted at a matrix array and not yet complete (17 R332 to R334, 19 R359): what was
captured at its issue, the batch that counts it, and how far it has come. -/
inductive EngKind where
  | mma
  | mdrain
  | mzero
  | apipe
  deriving DecidableEq, Repr

/-- How far an engine command has come: captured, and waiting at issue for room in its queue (17 R332); queued; started; paused by a
fault with the record's handle, none once the steward has serviced it (19 R365); or held for want of a port to another device
(23 R410). -/
inductive EngStage where
  | waiting
  | queued
  | started
  | paused (handle : Option Nat)
  | held
  deriving DecidableEq, Repr

/-- An accepted engine command. due: the first cycle in which it can end, or an attention command's sweep can, once it has started (17 R331,
R348, R351, 19 R364). sweep, reads, part, maxima, sums and flags are an attention command's progress: the sweep it is in, what it has read in the
sweep, the read in progress, the key words of the sweep before, the maxima and row sums it works with, and the flags raised (19 R362, R363, R365). -/
structure EngCmd where
  id : Nat
  ref : Ref
  pc : DWord
  kind : EngKind
  rmode : BitVec 2
  block : List Byte
  table : List Byte
  entries : List (List Byte)
  rowsA : List (List Byte)
  rowsB : List (List Byte)
  arr : Nat
  tile : Nat
  batch : Option Nat
  status : Nat
  stage : EngStage
  due : Nat
  sweep : Nat
  reads : List (List Byte)
  part : List Byte
  keys : List Byte
  maxima : List Nat
  sums : List Quad
  flags : Nat
  deriving DecidableEq, Repr

/-- One plot: a workgroup (01 R15 to R18). barActed: the last operation at a barrier, by its place in the order of 11 R244. retired: it has retired and its tract has not (01 R35). -/
structure Plot where
  tract : Nat
  sow : Nat
  ctx : Nat
  entry : DWord
  index : Nat
  core : Nat
  copyN : Nat
  matN : Nat
  k : List Word
  spadBase : Nat
  spadLen : Nat
  spad : Mem
  threads : Tab Thread
  barp : List Nat
  batch : Tab Nat
  tiles : Tab Quad
  tsw : List Word
  barEdges : Tab BarEdges
  barActed : Tab Nat
  relTags : Tab SyncSrc
  groups : List RowGroup
  engq : List EngCmd
  frozen : Bool
  retired : Bool
  deriving DecidableEq, Repr

/-! ## Memory requests -/

/-- Where a load writes its value. -/
inductive Dst where
  | none
  | reg (x : Nat)
  | ix
  deriving DecidableEq, Repr

/-- What a memory request does (13 Table 13.1). aop numbers Table 3.11; sync is a cache operation (21 R383), fence a FENCE that waits
for accesses of its mask (11 R236). -/
inductive ReqOp where
  | load (sz : Sz)
  | store
  | atom (aop : Nat) (operand : Quad)
  | lr
  | sc (ok : Bool)
  | sync
  | bcarr (n : Nat)
  | bcexp (n : Nat)
  | bcinit (c : Nat)
  | fence (m : Classes)
  deriving DecidableEq, Repr

/-- The way of a request that leaves the device (23 R406, R407, R410, R417): the Igmel link; a fabric port, with the relay device
of class S; or held at its source. -/
inductive Via where
  | igmel
  | port (p : Nat) (relay : Option Nat)
  | held
  deriving DecidableEq, Repr

/-- How far a memory request has come: performed with its value; issued, to be performed at its place of 09 Table 9.4; at the bank of
a scratchpad offset (13 R264); at a gleaner of this device (09 R212); at the HBM-side unit (09 R185); or on its way to another
device. -/
inductive ReqStage where
  | performed (value : Quad)
  | place
  | bank (tag off : Nat)
  | gleaner
  | hbm
  | remote (dev : Nat) (via : Via)
  deriving DecidableEq, Repr

/-- A leaf translation (09 R179): context, virtual page base and size, physical frame, attributes. -/
structure TbEntry where
  ctx : Nat
  vbase : Nat
  size : Nat
  frame : Nat
  tid : Nat
  vpage : Nat
  w : Bool
  x : Bool
  view : Bool
  farat : Bool
  home : Nat
  own : Nat
  priv : Bool
  keyv : Nat
  deriving DecidableEq, Repr

/-- The entries a view access uses, read once (15 R320): view, base, index tensor and interleave map. -/
structure ViewEnts where
  v : Nat
  b : Nat
  g : Nat
  m : Nat
  deriving DecidableEq, Repr

/-- What a gleaner works with and has done for a view access (09 R212, R214): the entries and the shadow offset; the bytes that have been read or written, by
their place in the access, with their sources; and the draw at which each base sector was read that no write has reached since (10 R218). -/
structure Gleaned where
  ents : ViewEnts
  off : Nat
  got : Tab Byte
  tags : Tab (List SyncSrc)
  readAt : Tab Nat
  deriving DecidableEq, Repr

/-- An outstanding memory request of a thread (11 R223, 13 R254 to R256). instr numbers the instruction that made it (09 R204); cls, stream and
sectors are its classes, its ordered stream and the sectors it touches (11 R226 to R229); view holds the translated bytes of a view
access in shadow order, and for another access the one translation. blind: the base sectors of a view access are not known here, since its index
elements are still to be read or its gleaner is another device's (log 63); whole: it is part of an instruction that writes a whole line (23 R436). -/
structure Req where
  ref : Ref
  instr : Nat
  core : Nat
  ctx : Nat
  pc : DWord
  op : ReqOp
  va : Nat
  pa : Nat
  bytes : Nat
  data : Quad
  dst : Dst
  words : Nat
  rc : RC
  scope : Scope
  acq : Bool
  rel : Bool
  src : Option SyncSrc
  rmode : BitVec 2
  word : Word
  stage : ReqStage
  flags : Word
  cls : Classes
  stream : Option Nat
  sectors : List Nat
  view : List (Nat × TbEntry)
  blind : Bool
  whole : Bool
  glean : Gleaned
  deriving DecidableEq, Repr

/-- A word that a WAITW sleeps on: its thread, its sector at its home, and whether a write to the sector has been performed (13 R283). -/
structure WordWatch where
  ref : Ref
  sector : Nat
  hit : Bool
  deriving DecidableEq, Repr

/-- An LR reservation (09 R198): the thread, of this device or of a peer, the table that holds it (13 R273), address, width and the cycle
of the LR. -/
structure Reservation where
  peer : Option Nat
  ref : Ref
  table : Nat
  pa : Nat
  bytes : Nat
  made : Nat
  deriving DecidableEq, Repr

/-! ## Cores -/

/-- What the threads of one furrow share (01 R22). -/
structure Key where
  ctx : Nat
  entry : DWord
  role : Role
  pc : DWord
  deriving DecidableEq, Repr

/-- A filed thread with the cycle it was filed in (01 R24). -/
structure Filed where
  ref : Ref
  at' : Nat
  deriving DecidableEq, Repr

/-- A furrow in use (01 R22), and the cycle since which it has been eligible (01 R24). -/
structure Furrow where
  key : Key
  threads : List Filed
  since : Option Nat
  deriving DecidableEq, Repr

/-- A drill (01 R23): its threads in ascending home lane, the cycle it was formed in, the cycle from which it may issue again (03 R53,
09 R200), whether a debug single step formed it (21 R398), and for the drill of a row group the word it executes (07 R149). -/
structure Drill where
  lanes : List Ref
  formed : Nat
  ready : Nat
  single : Bool
  group : Option GroupWord
  deriving DecidableEq, Repr

/-- A line an L1, an instruction cache or a view read buffer holds: its 128 bytes (09 R186, R187), and the synchronisation sources of
those that have one, by offset (11 R232). -/
structure L1Line where
  ctx : Nat
  addr : Nat
  bytes : List Byte
  tags : Tab SyncSrc
  deriving DecidableEq, Repr

/-- State of a minting slot (13 R287). accepting: a LAND that matches has arrived and waits for a load to the bound register (R291, R295). -/
inductive SlotState where
  | free
  | live
  | accepting
  | parked
  deriving DecidableEq, Repr

/-- A minting slot (13 Table 13.7). -/
structure Slot where
  state : SlotState
  gen : BitVec 3
  check : Word
  owner : Ref
  reg : Nat
  wide : Bool
  expiry : Nat
  value : DWord
  src : Option SyncSrc
  deriving DecidableEq, Repr

/-- A thread to be filed at the end of a cycle, with its place in the order of 01 R41. -/
structure FileReq where
  rank : Nat
  ref : Ref
  at' : Nat
  deriving DecidableEq, Repr

/-- A page in a pin area (09 R183): the physical address of its frame, and its size. -/
structure PinPage where
  frame : Nat
  size : Nat
  deriving DecidableEq, Repr

/-- One core (01 R11). pin holds the bytes of the pin area by their offset in it, pinPages the pages there by their first offset (09
R183); vbufAt is the draw at which the view read buffer was last emptied, or a gleaner's read was last returned to the core (log 49). -/
structure Core where
  furrows : Tab Furrow
  spill : List Filed
  drills : Tab Drill
  filing : List FileReq
  sel : Word
  rr : Nat
  formed : Option Nat
  tb : List TbEntry
  l1 : List L1Line
  icache : List L1Line
  vbuf : List L1Line
  vbufAt : Nat
  slots : Tab Slot
  pin : Mem
  pinPages : Tab PinPage
  deriving DecidableEq, Repr

/-! ## Contexts -/

/-- A fault record (21 Table 21.7), with the thread, command or queue work it is about. -/
structure FaultRec where
  mask : DWord
  addr : DWord
  pc : DWord
  tid : Nat
  plot : Nat
  tract : Nat
  core : Nat
  acc : Nat
  src : Nat
  code : Nat
  ref : Option Ref
  deriving DecidableEq, Repr

/-- A page of a context's lazy list (22 R400): page address, frame, and the attribute bits of its leaf. -/
structure LazyPage where
  va : Nat
  frame : Nat
  attr : BitVec 64
  deriving DecidableEq, Repr

/-- A range of addresses: base and length. -/
structure Window where
  base : Nat
  len : Nat
  deriving DecidableEq, Repr

/-- The context descriptor (21 Table 21.1) and what the device holds for a context beside it. lpwTick is the time from which
the current millisecond of a pinned window runs (09 R193). -/
structure Ctx where
  ctxid : Nat
  root : Nat
  ttbase : DWord
  ttlen : Nat
  pbud : Nat
  shbase : DWord
  shgib : Nat
  tvec : DWord
  frqh : DWord
  swpb : DWord
  swplen : Nat
  bks : Bool
  haz : Bool
  still : Bool
  lpwb : List Word
  lpwc : List Word
  lpwHit : List Bool
  lpwTick : List Nat
  cmps : Tab Comparator
  peerWin : Tab Window
  lazy : List LazyPage
  svcHeld : Bool
  heldRecs : List FaultRec
  recs : Tab FaultRec
  deriving DecidableEq, Repr

/-! ## Work queues, sowings and tracts -/

/-- How far the front end has come with a packet (15 R301, R303): its slots read; their headers cleared; taken, RIX
written; launched, held until its tracts are placed. -/
inductive PktStage where
  | read
  | cleared
  | taken
  | launched
  deriving DecidableEq, Repr

/-- A packet taken from a work queue: slot number, kind, bytes, its place in the order in which headers were read (01 R30), whether a
synchronisation edge joins its header's release to the reading of it (11 R249), the entry that a quantising copy names where it has been read, and how
far the front end has come with it. -/
structure Packet where
  n : Nat
  kind : Nat
  bytes : List Byte
  order : Nat
  edge : Bool
  entry : Option (List Byte)
  stage : PktStage
  deriving DecidableEq, Repr

/-- A registered work queue (15 R299, R301, R303). waitRec is the handle of a fault its own work waits on (R440); held: it waits for a
port to another device (23 R410);
open' holds the identifiers of its launches and copies that have not completed, and used the cores of its sowings that have (01 R37). -/
structure Queue where
  ctx : Nat
  va : Nat
  prio : Nat
  quant : Nat
  log2 : Nat
  packet : Option Packet
  open' : List Nat
  used : List Nat
  waitRec : Option Nat
  frozen : Bool
  held : Bool
  deriving DecidableEq, Repr

/-- An update of a queue token by a token signal or a completion: the value it left, and its producer's cores (01 R37). -/
structure TokUpd where
  value : Nat
  cores : List Nat
  deriving DecidableEq, Repr

/-- A queue token a sowing waits for (01 R36): the cores of the producer of the update that was read last (R37), and for another writer's the scope of its release
(11 R250). -/
structure Token where
  va : Nat
  thr : Nat
  ok : Bool
  upd : Option (List Nat)
  acq : Option Scope
  deriving DecidableEq, Repr

/-- A sowing (01 R20, R21, 15 R304). tokAt is when its tokens were last read (01 R36). groups gives for each common its (tract, plot index) members; barc the
arrivals at each common; held: its own work waits for a port to another device (23 R410); edge says that a synchronisation edge joins its packet's header to its first instructions (11 R249). -/
structure Sowing where
  q : Nat
  ctx : Nat
  entry : DWord
  tracts : Nat
  plots : Nat
  size : Nat
  ra : Nat
  copyN : Nat
  matN : Nat
  spadKB : Nat
  rmode : BitVec 2
  seed : Word
  k : List Word
  groups : Tab (List (Nat × Nat))
  toks : List Token
  tokAt : Option Nat
  doneVa : Nat
  statusVa : Nat
  prio : Nat
  quant : Nat
  order : Nat
  next : Nat
  retired : Nat
  coresUsed : List Nat
  barc : Tab (List Ref)
  waitRec : Option Nat
  held : Bool
  doneAdded : Bool
  aborted : Bool
  edge : Bool
  deriving DecidableEq, Repr

/-- A tract that has been placed (01 R19, R31 to R33, 02 R42, 21 R388, R391); leaving between the start of its swap-out and step 4 of R391; order: the number of its last placement, swap-in or swap-out. Its plots are those with its number. -/
structure Tract where
  sow : Nat
  index : Nat
  cores : List Nat
  resident : Bool
  leaving : Bool
  placedAt : Nat
  quantumOver : Bool
  sleepSince : Option Nat
  sleepCand : Bool
  yielded : Bool
  budget : Option Nat
  overBudget : Bool
  frozen : Bool
  still : Bool
  order : Nat
  image : Nat
  imageLen : Nat
  sel : Word
  deriving DecidableEq, Repr

/-! ## Copies -/

/-- How far a copy command has come (15 R313, R317): waiting at issue for room in its front end; recorded at a swap-out, and after swap-in waiting for room there (R319);
to be started or gone on with; held for want of a port to another device (23 R410); or all its bytes written. -/
inductive CopyStage where
  | waiting
  | recorded
  | queued
  | held
  | moved
  deriving DecidableEq, Repr

/-- One write a copy still has to make: into scratchpad or to a virtual address, and whether it is the release of a
conditional copy's version word (15 R309). -/
structure CopyWrite where
  spad : Bool
  addr : Nat
  bytes : List Byte
  rel : Bool
  deriving DecidableEq, Repr

/-- A copy command of a core's front end or of the queue copy engine (15 R306, R317, R441). needEntry: the
entry it names is still to be read (R320, R440). todo holds the writes
still to come once the source has been read; paused is the handle of the record it waits on, 0 for a freeze (21
R394); arrive is its arrival under way; norec says that its completion record was given up (15 R440). -/
structure CopyCmd where
  ref : Option Ref
  core : Option Nat
  q : Option Nat
  ctx : Nat
  pc : DWord
  bytes : List Byte
  rmode : BitVec 2
  entry : List Byte
  needEntry : Bool
  stage : CopyStage
  todo : Option (List CopyWrite)
  paused : Option Nat
  code : Nat
  detail : Nat
  flags : Nat
  arrive : Option Nat
  norec : Bool
  deriving DecidableEq, Repr

/-- A QPOST that has not completed (15 R318): the queue header's address, the claimed slot, the packet bytes, the
handle of the record it waits on, and whether it is held for want of a port (23 R410). -/
structure QPost where
  ref : Ref
  core : Nat
  ctx : Nat
  pc : DWord
  va : Nat
  slot : Option Nat
  bytes : List Byte
  paused : Option Nat
  held : Bool
  deriving DecidableEq, Repr

/-- An arrival on its way to a byte-count barrier named by a handle (09 R217, 15 R311, R312); held while the plot
is swapped out (13 R261). peer is the device that sent it, with its transaction tag. -/
structure Arrival where
  handle : DWord
  n : Nat
  cmd : Option Nat
  src : Option SyncSrc
  held : Bool
  peer : Option (Nat × Nat)
  deriving DecidableEq, Repr

/-- A LAND in flight, or its answer (13 R290, R291), with the device it goes to, its class, ordered stream and way
there (11 R227, R228, 23 R406). peer is
the device that sent it, with its transaction tag. -/
structure Land where
  ref : Option Ref
  dev : Nat
  rc : RC
  cls : Classes
  stream : Option Nat
  via : Via
  name : DWord
  value : DWord
  wide : Bool
  pc : DWord
  src : Option SyncSrc
  answered : Option Bool
  peer : Option (Nat × Nat)
  deriving DecidableEq, Repr

/-! ## Caches and directories -/

/-- A line in L2 (09 R188): slice and dirty sectors; the table's key is line × 4 + die. -/
structure L2Line where
  slice : Nat
  dirty : BitVec 4
  deriving DecidableEq, Repr

/-- A line in the LLC (09 R189 to R191): its physical line in its set, compressed sectors, dirty and pinned marks, its place in the
order of use, and the windows that pin it, each a context and a number (09 R193); pinned: a page with HOME = 10 pins it (R184). -/
structure LlcLine where
  phys : Nat
  sectors : Nat
  dirty : Bool
  pinned : Bool
  used : Nat
  win : List (Nat × Nat)
  deriving DecidableEq, Repr

/-- A line directory entry (09 R197); dirty: the remote holder that has the only dirty copy (23 R415, log 42). -/
structure DirEntry where
  dies : BitVec 4
  remotes : List Nat
  broadcast : Bool
  dirty : Option Nat
  deriving DecidableEq, Repr

/-- A region directory entry (09 R195): its key gives first line, home L2 slice and die; lines, current slice, accesses by core in the
window, its start, last access, the cycle since which the slice is its own, order of making, and the slice it is to move to (R196). -/
structure Region where
  lines : Nat
  slice : Nat
  counts : Tab Nat
  start : Nat
  last : Nat
  since : Nat
  made : Nat
  pending : Option Nat
  deriving DecidableEq, Repr

/-! ## Fabric, host, steward -/

/-- A key rotation of one port direction in progress (23 R412). -/
inductive Rotation where
  | idle
  | delivered
  | switched
  deriving DecidableEq, Repr

/-- A flit that has been sent and is not acknowledged, as the data link layer stores it (23 R411): its ciphertext under the generation of its first sending, and
the bytes of the relayed request that it carries (R406, R407). -/
structure SentFlit where
  flit : Flit
  relayed : Nat
  deriving DecidableEq, Repr

/-- A fabric port (23 R404 to R412): in service, or held down after training to fewer lanes; transmit generation, transmit and
receive key slots, the rotation in progress and its new key, consecutive discards and flits accepted; the flits it stores for a replay, oldest first, and those
that it has put on the link. -/
structure Port where
  up : Bool
  down : Bool
  txGen : Bool
  tx0 : Option (BitVec 256)
  tx1 : Option (BitVec 256)
  rx0 : Option (BitVec 256)
  rx1 : Option (BitVec 256)
  rot : Rotation
  txNew : Option (BitVec 256)
  discards : Nat
  accepted : Nat
  stored : List SentFlit
  link : List Flit
  deriving DecidableEq, Repr

/-- The answer to a request of another device (23 R407, R413; 13 R276, R291): a value with the sources of the writes that it returns (11 R232); fault is that of a
view access (09 R212). -/
inductive FabReply where
  | value (bytes : List Byte) (srcs : List WireSrc)
  | done
  | noContext
  | fault (code : Nat)
  | badFrame
  | refused
  | overflow
  | relayRefused
  deriving DecidableEq, Repr

/-- An answer on its way to the device that sent the request, with its transaction tag. -/
structure FabAnswer where
  dev : Nat
  tag : Nat
  reply : FabReply
  deriving DecidableEq, Repr

/-- A request seen at a port (23 R409): source device, transaction tag, time. -/
structure SeenTag where
  src : Nat
  tag : Nat
  at' : Nat
  deriving DecidableEq, Repr

/-- The fabric side of the device (23 R404 to R410): the ports; the steward's reachability table, by port; destinations declared
unreachable, with since when E of a destination is empty; destinations whose class-O requests are held for a remap; tags seen;
requests in the relay engines by base die of arrival and number; requests forwarded, each with the port it left by; answers sent; frozen peers and their held
requests; and view accesses of peers that wait for a port to a third device (09 R215). -/
structure Fabric where
  ports : Tab Port
  reach : Tab (List Nat)
  unreachable : List Nat
  emptySince : Tab Nat
  remap : List Nat
  seenTags : List SeenTag
  relays : Tab FabReq
  forwarded : List (Nat × FabReq)
  answers : List FabAnswer
  frozen : List Nat
  held : List FabReq
  waiting : List FabReq
  deriving DecidableEq, Repr

/-- A memory-key slot (23 R435). -/
inductive KeyState where
  | empty
  | live
  | retiring
  deriving DecidableEq, Repr

/-- Registers copied at the lock stage, and what else the configuration record fixes (23 R427, R428). -/
structure Locked where
  portEn : BitVec 24
  portCap : Nat
  igmCap : Nat
  hpw : List Window
  device : Nat
  hostDev : Nat
  relay : Bool
  rset : BitVec 1024
  pcap : Nat
  deriving DecidableEq, Repr

/-- A fuse slot for the digest of a public key (23 R426). -/
structure FuseSlot where
  digest : BitVec 512
  revoked : Bool
  deriving DecidableEq, Repr

/-- The firmware image with its two public keys and signatures, the configuration record, the fuses with four key slots for each algorithm, and the boot ROM
version as the boot reads them (23 R426, R427). -/
structure Flash where
  image : List Byte
  edKey : List Byte
  mlKey : List Byte
  edSig : List Byte
  mlSig : List Byte
  edSlots : List FuseSlot
  mlSlots : List FuseSlot
  record : Nat
  fwSvn : Nat
  minSvn : Nat
  recMinSvn : Nat
  romVer : Word
  deriving DecidableEq, Repr

/-- A mailbox message (23 Table 23.4) as its 512 bits. -/
abbrev Msg := BitVec 512

/-- The mailbox block (23 Table 23.3). -/
structure Mbox where
  epoch : Word
  state : Word
  h2ddb : Word
  h2dacc : Word
  h2dcmp : Word
  d2hseq : Word
  d2hacc : Word
  d2hcmp : Word
  h2d : List Msg
  d2h : List Msg
  deriving DecidableEq, Repr

/-- What the steward keeps (23 R421, R422, R430, R437, R438): the message in execution, the messages that wait for room in the D2H ring,
each with the SEQ of the request it answers, the error log, the self-test record, the count of corrected errors, the core clock. -/
structure Steward where
  current : Option Msg
  posts : List (Option Word × Msg)
  log : List (Nat × Nat)
  result : BitVec 8
  stage : BitVec 8
  unitk : BitVec 8
  unit : BitVec 16
  detail : BitVec 64
  fwsvn : Word
  romver : Word
  corrected : Nat
  clockMHz : Nat
  deriving DecidableEq, Repr

/-- Who writes to a scratchpad (17 R343): a thread, an engine command by its number, issuing thread and PC, or a peer. -/
inductive Writer where
  | thread (r : Ref)
  | command (id : Nat) (ref : Option Ref) (pc : DWord)
  | peer
  deriving DecidableEq, Repr

/-- What the debugger receives (21 R396, R397, 17 R343). -/
inductive DbgMsg where
  | stopped (ref : Ref) (tag : Option Nat)
  | state (ref : Ref) (image : BitVec 2048) (regs : List Word)
  | hazard (issuer : Ref) (pc : DWord) (operand group : Nat) (writer : Writer)
  deriving DecidableEq, Repr

/-- The instruction being executed (01 R28): core, slot, word, lanes in ascending home lane, and whether a
completed rendezvous issued it (07 R149). -/
structure Cur where
  core : Nat
  slot : Nat
  word : Word
  lanes : List Ref
  group : Bool
  deriving DecidableEq, Repr

/-- Why the machine stops with a fault. -/
inductive Fault where
  /-- Raised by step only, when the head of the model's own agenda is an encoded instruction and not a step of
  the device: no hardware situation, so stopping is safe. -/
  | agendaNotAStep
  deriving DecidableEq, Repr

/-- Why the machine has no meaning for an instruction. -/
inductive Refusal where
  /-- Raised by an arm of exec for an instruction not modelled yet; safe, since nothing follows from it. -/
  | notModelled (mnemonic : String)
  deriving DecidableEq, Repr

/-- A DISCARD in progress (10 R219): the lines of its range, and the draw that decides of each row whether it is unsown at its begin or at its end. -/
structure Discard where
  first : Nat
  lines : Nat
  draw : Nat
  deriving DecidableEq, Repr

/-- The whole machine. cur, issueQ, agenda, freeCtr and nextId are the model's own bookkeeping: the instruction
in execution, the drills picked for this cycle, the inputs and choices still to come, the next free value and
the next identifier. roomFor is the waiting tract for which the distributor swapped a tract out, a sowing and for a swapped tract
its number (01 R32). tokUpds holds the last update that the device made to each token, by its place (01 R37). hostIrqs counts the interrupt messages to the host (23 R416); hostReads and hostWrites are what the host
read of the device and what the device wrote to the host and to other devices, bytes that a write leaves alone without a value. keyPairs holds the two keys of each memory-key version (23 R433). -/
structure State where
  mem : Mem
  sown : List Nat
  unsownReads : Nat
  lineKey : Tab Nat
  poison : List Nat
  keySlots : List KeyState
  keyPairs : List (Option (BitVec 256 × BitVec 256))
  curv : Nat
  l2 : Tab L2Line
  llc : Tab LlcLine
  lineDir : Tab DirEntry
  regionDir : Tab Region
  reservations : List Reservation
  relTags : Tab SyncSrc
  watches : List WordWatch
  cycle : Nat
  time : Nat
  cores : Tab Core
  plots : Tab Plot
  tracts : Tab Tract
  sowings : Tab Sowing
  queues : Tab Queue
  ctxs : Tab Ctx
  reqs : Tab Req
  copies : Tab CopyCmd
  qposts : Tab QPost
  arrivals : Tab Arrival
  lands : Tab Land
  fabric : Fabric
  hostFrozen : Bool
  hostIrqs : Nat
  hostReads : List (List Byte)
  hostWrites : List (Nat × List (Option Byte))
  apertures : Tab Window
  mbox : Mbox
  discard : Option Discard
  steward : Steward
  locked : Locked
  flash : Flash
  debug : List DbgMsg
  tagNext : Nat
  roomFor : Option (Nat × Option Nat)
  tokUpds : Tab TokUpd
  cur : Cur
  issueQ : List (Nat × Nat)
  agenda : List Instr
  freeCtr : Nat
  nextId : Nat
  deriving DecidableEq, Repr

/-! ## Reset -/

/-- A core after device reset: no thread, no drill, selector 1 (log 5), the search at slot 0 (01 R28). -/
def Core.reset : Core :=
  { furrows := [], spill := [], drills := [], filing := [], sel := 1, rr := 0, formed := none, tb := [], l1 := [], icache := [],
    vbuf := [], vbufAt := 0, slots := [], pin := [], pinPages := [] }

/-- A minting slot that was never used (13 R287, 16 R328): free, generation 0. -/
def Slot.reset : Slot :=
  { state := .free, gen := 0, check := 0, owner := ⟨0, 0⟩, reg := 0, wide := false, expiry := 0, value := 0, src := none }

/-- A port that is down, without keys (log 5). -/
def Port.reset : Port :=
  { up := false, down := false, txGen := false, tx0 := none, tx1 := none, rx0 := none, rx1 := none, rot := .idle, txNew := none,
    discards := 0, accepted := 0, stored := [], link := [] }

/-- The fabric after reset (log 5). -/
def Fabric.reset : Fabric :=
  { ports := [], reach := [], unreachable := [], emptySince := [], remap := [], seenTags := [], relays := [], forwarded := [],
    answers := [], frozen := [], held := [], waiting := [] }

/-- The mailbox block after power-on: every field 0 (23 Table 23.3, R423). -/
def Mbox.reset : Mbox :=
  { epoch := 0, state := 0, h2ddb := 0, h2dacc := 0, h2dcmp := 0, d2hseq := 0, d2hacc := 0, d2hcmp := 0,
    h2d := List.replicate 16 0, d2h := List.replicate 16 0 }

/-- The steward after reset; the core clock stands at 1,600 MHz (01 Table 1.1). -/
def Steward.reset : Steward :=
  { current := none, posts := [], log := [], result := 0, stage := 0, unitk := 0, unit := 0, detail := 0, fwsvn := 0,
    romver := 0, corrected := 0, clockMHz := 1600 }

/-- The lock registers before the lock stage (log 5). -/
def Locked.reset : Locked :=
  { portEn := 0, portCap := 0, igmCap := 0, hpw := [], device := 0, hostDev := 0, relay := false, rset := 0, pcap := 0 }

/-- Flash and fuses as shipped: empty (log 5). -/
def Flash.reset : Flash :=
  { image := [], edKey := [], mlKey := [], edSig := [], mlSig := [], edSlots := [], mlSlots := [], record := 0, fwSvn := 0, minSvn := 0, recMinSvn := 0, romVer := 0 }

/-- The machine after power-on: mailbox STATE 0 (booting), EPOCH 0, every DRAM row unsown (09 R202), the cycle
counter 0 (03 R43), nothing registered, nothing placed. Values the spec does not give are those of log 5. -/
def State.reset : State :=
  { mem := [], sown := [], unsownReads := 0, lineKey := [], poison := [],
    keySlots := [.live, .empty, .empty, .empty, .empty, .empty, .empty, .empty],
    keyPairs := [none, none, none, none, none, none, none, none], curv := 0, l2 := [], llc := [],
    lineDir := [], regionDir := [], reservations := [], relTags := [], watches := [], cycle := 0, time := 0, cores := [], plots := [],
    tracts := [], sowings := [], queues := [], ctxs := [], reqs := [], copies := [], qposts := [], arrivals := [],
    lands := [], fabric := Fabric.reset, hostFrozen := false, hostIrqs := 0, hostReads := [], hostWrites := [],
    apertures := [], mbox := Mbox.reset, discard := none, steward := Steward.reset, locked := Locked.reset, flash := Flash.reset,
    debug := [], tagNext := 0, roomFor := none, tokUpds := [], cur := { core := 0, slot := 0, word := 0, lanes := [], group := false }, issueQ := [],
    agenda := [], freeCtr := 0, nextId := 1 }

end Sys2Proof.Machine
end

