-- ==== Sys2Proof/Machine/Ops.lean ====
section
/-! DEFINITION. The named operations over tables, memory bytes, threads, plots and cores: reading and writing
them, filing a thread (01 R22, R41), leaving a drill (01 R23), taking a trap (21 R373 to R375), returning from
one (21 R376), exiting (07 R167). -/

namespace Sys2Proof.Machine

/-! ## Tables -/

/-- The record at a key. -/
def tget {α : Type} : Tab α → Nat → Option α
  | [], _ => none
  | (k, v) :: t, x => if k = x then some v else tget t x

/-- Put a record at a key, keeping the keys rising. -/
def tput {α : Type} : Tab α → Nat → α → Tab α
  | [], x, a => [(x, a)]
  | (k, v) :: t, x, a =>
    if k = x then (x, a) :: t
    else if x < k then (x, a) :: (k, v) :: t
    else (k, v) :: tput t x a

/-- Remove the record at a key. -/
def tdel {α : Type} : Tab α → Nat → Tab α
  | [], _ => []
  | (k, v) :: t, x => if k = x then tdel t x else (k, v) :: tdel t x

/-- Change the record at a key, if there is one. -/
def tmod {α : Type} : Tab α → Nat → (α → α) → Tab α
  | [], _, _ => []
  | (k, v) :: t, x, f => if k = x then (k, f v) :: t else (k, v) :: tmod t x f

/-- Keys strictly rising. -/
def tsorted {α : Type} : Tab α → Bool
  | [] => true
  | [_] => true
  | (a, _) :: (b, v) :: t => decide (a < b) && tsorted ((b, v) :: t)

/-- The lowest number from n up, within a bound, that is no key of the table. -/
def tfree {α : Type} (t : Tab α) : Nat → Nat → Option Nat
  | _, 0 => none
  | n, k + 1 => if (tget t n).isNone then some n else tfree t (n + 1) k

/-! ## Bytes -/

/-- The byte at an address; an unlisted byte reads 0 (09 R203). -/
def mget : Mem → Nat → Byte
  | [], _ => 0
  | (k, v) :: t, a => if k = a then v else mget t a

/-- Write one byte, keeping addresses rising and no byte 0 listed. -/
def mput : Mem → Nat → Byte → Mem
  | [], a, b => if b = 0 then [] else [(a, b)]
  | (k, v) :: t, a, b =>
    if k = a then (if b = 0 then t else (a, b) :: t)
    else if a < k then (if b = 0 then (k, v) :: t else (a, b) :: (k, v) :: t)
    else (k, v) :: mput t a b

/-- n bytes from an address up. -/
def mreads (m : Mem) (a : Nat) : Nat → List Byte
  | 0 => []
  | n + 1 => mget m a :: mreads m (a + 1) n

/-- Write bytes from an address up, in ascending byte order (09 R204). -/
def mwrites (m : Mem) (a : Nat) : List Byte → Mem
  | [] => m
  | b :: t => mwrites (mput m a b) (a + 1) t

/-- The canonical form of memory: addresses strictly rising, no byte 0 listed. -/
def Memory.wf : Mem → Bool
  | [] => true
  | [(_, b)] => b != 0
  | (a, b) :: (a', b') :: t => b != 0 && decide (a < a') && Memory.wf ((a', b') :: t)

/-- Little-endian value of bytes (00 R2). -/
def leNat : List Byte → Nat
  | [] => 0
  | b :: t => b.toNat + 256 * leNat t

/-- The low n bytes of a value, lowest address first (00 R2). -/
def natLe : Nat → Nat → List Byte
  | 0, _ => []
  | n + 1, v => BitVec.ofNat 8 v :: natLe n (v / 256)

/-- Bits hi down to lo of a value. -/
def bits (v hi lo : Nat) : Nat := v / 2 ^ lo % 2 ^ (hi - lo + 1)

/-- One bit of a value. -/
def bit (v n : Nat) : Bool := v / 2 ^ n % 2 == 1

/-- A two's complement number of n bits read as signed. -/
def sgn (n v : Nat) : Int := if v % 2 ^ n < 2 ^ (n - 1) then (v % 2 ^ n : Nat) else ((v % 2 ^ n : Nat) : Int) - 2 ^ n

/-- A signed value as two's complement of n bits. -/
def unsgn (n : Nat) (v : Int) : Nat := (v % (2 ^ n : Nat)).toNat

/-! ## Threads, plots, cores -/

/-- A thread, if it exists. -/
def State.thread? (s : State) (r : Ref) : Option Thread :=
  match tget s.plots r.tag with
  | none => none
  | some p => tget p.threads r.tid

/-- Change a plot. -/
def State.modPlot (s : State) (tag : Nat) (f : Plot → Plot) : State := { s with plots := tmod s.plots tag f }

/-- Change a thread of a plot. -/
def Plot.modThread (p : Plot) (tid : Nat) (f : Thread → Thread) : Plot := { p with threads := tmod p.threads tid f }

/-- Change a thread. -/
def State.modThread (s : State) (r : Ref) (f : Thread → Thread) : State := s.modPlot r.tag fun p => p.modThread r.tid f

/-- Replace a thread. -/
def State.setThread (s : State) (r : Ref) (t : Thread) : State := s.modThread r fun _ => t

/-- A core's record; a core nothing has touched is as after reset. -/
def State.core (s : State) (c : Nat) : Core := (tget s.cores c).getD Core.reset

/-- Replace a core's record. -/
def State.setCore (s : State) (c : Nat) (k : Core) : State := { s with cores := tput s.cores c k }

/-- Change a core's record. -/
def State.modCore (s : State) (c : Nat) (f : Core → Core) : State := s.setCore c (f (s.core c))

/-- Change a context's record. -/
def State.modCtx (s : State) (c : Nat) (f : Ctx → Ctx) : State := { s with ctxs := tmod s.ctxs c f }

/-- Change a tract's record. -/
def State.modTract (s : State) (n : Nat) (f : Tract → Tract) : State := { s with tracts := tmod s.tracts n f }

/-- Change a sowing's record. -/
def State.modSow (s : State) (n : Nat) (f : Sowing → Sowing) : State := { s with sowings := tmod s.sowings n f }

/-- Change a queue's record. -/
def State.modQueue (s : State) (n : Nat) (f : Queue → Queue) : State := { s with queues := tmod s.queues n f }

/-- Home lane of a thread (01 R13). -/
def Ref.lane (r : Ref) : Nat := r.tid % 64

/-- Role of a tid in its plot (01 R16). -/
def Plot.role (p : Plot) (tid : Nat) : Role :=
  if tid < p.copyN then .copy else if tid < p.copyN + p.matN then .matrix else .vector

/-- Bit 8 of TSTAT: the thread runs in its supervisor handler (03 Table 3.2). -/
def Thread.sup (t : Thread) : Bool := t.tstat.getLsbD 8

/-- TSTAT with SUP set or cleared. -/
def Thread.withSup (t : Thread) (b : Bool) : Thread :=
  { t with tstat := if b then t.tstat ||| 0x100 else t.tstat &&& 0xFFFFFEFF }

/-- OR status bits into TSTAT (05 R108). -/
def Thread.orStat (t : Thread) (m : Word) : Thread := { t with tstat := t.tstat ||| m }

/-- TSTAT.SCOPEX (03 Table 3.2). -/
def scopexBit : Word := 0x20

/-- TSTAT.LANDX (03 Table 3.2). -/
def landxBit : Word := 0x40

/-- A thread has not exited (01 R26). -/
def Thread.live (t : Thread) : Bool := t.place != .exited

/-- The context of a thread's plot. -/
def State.ctxIdOf (s : State) (r : Ref) : Nat :=
  match tget s.plots r.tag with
  | some p => p.ctx
  | none => 0

/-- TVEC of a thread's context (21 Table 21.1). -/
def State.tvecOf (s : State) (r : Ref) : DWord :=
  match tget s.ctxs (s.ctxIdOf r) with
  | some c => c.tvec
  | none => 0

/-- The core a thread's plot is on. -/
def State.coreOf (s : State) (r : Ref) : Nat :=
  match tget s.plots r.tag with
  | some p => p.core
  | none => 0

/-- The next free value's number, and the state that has used it (log 6). -/
def State.draw (s : State) : Nat × State := (s.freeCtr, { s with freeCtr := s.freeCtr + 1 })

/-- A new identifier. -/
def State.fresh (s : State) : Nat × State := (s.nextId, { s with nextId := s.nextId + 1 })

/-! ## Filing -/

/-- Insert into the filing list by rank; equal ranks keep their order (02 R41). -/
def fileInsert : List FileReq → FileReq → List FileReq
  | [], q => [q]
  | x :: t, q => if x.rank ≤ q.rank then x :: fileInsert t q else q :: x :: t

/-- Rank of a thread that a drill files: by slot number, then home lane (02 R41). Threads of two drills that used one slot in one cycle are filed by home lane
together (DESIGN CHOICE, log 55). -/
def rankDrill (slot : Nat) (r : Ref) : Nat := slot * 64 + r.lane

/-- Rank of the threads of placements and swap-ins: after every drill's (02 R41). -/
def rankPlace : Nat := 256 * 64

/-- Rank of wakes, resumes and ends of sleep: by plot tag, then tid (02 R41). -/
def rankWake (r : Ref) : Nat := 256 * 64 + 1 + r.tag * 4096 + r.tid

/-- Take a thread out of the drill that carries it; a drill without threads frees its slot (01 R23). -/
def State.leaveDrill (s : State) (r : Ref) : State :=
  match s.thread? r with
  | some t =>
    match t.place with
    | .drill slot =>
      s.modCore (s.coreOf r) fun k =>
        match tget k.drills slot with
        | none => k
        | some d =>
          let l := d.lanes.filter (fun x => x != r)
          { k with drills := if l.isEmpty then tdel k.drills slot else tput k.drills slot { d with lanes := l } }
    | _ => s
  | none => s

/-- A thread at which a step or a still stop waits stops when it would be filed (21 R398, R399). -/
def Thread.stopsWhenFiled (t : Thread) : Bool := t.stepping || t.stopReq

/-- The tract of a thread is resident and not on its way out (21 R391 step 1): its filed threads stand in furrows. -/
def State.placed (s : State) (r : Ref) : Bool :=
  match tget s.plots r.tag with
  | none => false
  | some p => match tget s.tracts p.tract with
    | some t => t.resident && !t.leaving
    | none => true

/-- Put a thread into the headland, out of its drill (01 R14, R23). -/
def State.toHeadland (s : State) (r : Ref) (why : Reason) : State :=
  (s.leaveDrill r).modThread r fun t => { t with place := .headland why }

/-- A stop of a thread in a context with STILL = 1 stops every thread of its tract (21 R399): a filed thread and a thread in
a drill at its next instruction boundary, a thread in the headland when it would leave it. -/
def State.stillTract (s : State) (tract : Nat) : State :=
  let s1 := s.modTract tract fun t => { t with still := true }
  { s1 with plots := s1.plots.map fun (n, p) =>
      (n, if p.tract = tract then
            { p with threads := p.threads.map fun (i, t) =>
                (i, match t.place with
                    | .headland .stopped => t
                    | .exited => t
                    | _ => { t with stopReq := true }) }
          else p) }

/-- Stop a thread for the debugger (21 R395, R397, R399): the headland with reason stopped, a report to the debugger, and
in still mode its whole tract. -/
def State.stopThread (s : State) (r : Ref) (tag : Option Nat) : State :=
  let s1 := (s.toHeadland r .stopped).modThread r fun t =>
    { t with stopReq := false, stepping := false, noMatch := true, bkptStop := tag }
  let s2 := { s1 with debug := s1.debug ++ [.stopped r tag] }
  match tget s2.plots r.tag with
  | none => s2
  | some p =>
    match tget s2.ctxs p.ctx with
    | some c => if c.still then s2.stillTract p.tract else s2
    | none => s2

/-- File a thread at a pc (01 R22): it takes its place in the order of 02 R41 and enters a furrow at the end of
the cycle; a thread of a tract that leaves or is swapped out is filed at swap-in (21 R392). A thread under a single step or a still stop stops instead, and in still mode its tract with it (21 R398, R399). -/
def State.fileThread (s : State) (r : Ref) (pc : DWord) (rank : Nat) : State :=
  let s1 := s.leaveDrill r
  match s1.thread? r with
  | none => s1
  | some t =>
    if t.stopsWhenFiled then
      (s1.setThread r { t with pc := pc }).stopThread r none
    else if !s1.placed r then s1.setThread r { t with pc := pc, place := .filed }
    else
      (s1.setThread r { t with pc := pc, place := .filed }).modCore (s.coreOf r) fun k =>
        { k with filing := fileInsert k.filing { rank := rank, ref := r, at' := s.cycle } }

/-- The key of a thread (01 R22). -/
def Plot.keyOf (p : Plot) (tid : Nat) (pc : DWord) : Key :=
  { ctx := p.ctx, entry := p.entry, role := p.role tid, pc := pc }

/-- The furrow with a key. -/
def furrowOf : Tab Furrow → Key → Option Nat
  | [], _ => none
  | (n, f) :: t, k => if f.key = k then some n else furrowOf t k

/-- Enter one filed thread into a furrow (01 R22): the furrow with its key, else the lowest-numbered empty furrow
of the 128, else the spill furrow. -/
def Core.enter (k : Core) (key : Key) (f : Filed) : Core :=
  match furrowOf k.furrows key with
  | some n => { k with furrows := tmod k.furrows n fun w => { w with threads := w.threads ++ [f] } }
  | none =>
    match tfree k.furrows 0 128 with
    | some n => { k with furrows := tput k.furrows n { key := key, threads := [f], since := none } }
    | none => { k with spill := k.spill ++ [f] }

/-- Number of distinct home lanes among filed threads. -/
def homeLanes (l : List Filed) : Nat := ((l.map fun f => f.ref.lane).eraseDups).length

/-- A furrow's threads cover 48 home lanes (01 R24). -/
def Furrow.covered (f : Furrow) : Bool := decide (48 ≤ homeLanes f.threads)

/-- A furrow's oldest thread has been filed for 64 cycles (01 R24). -/
def Furrow.aged (f : Furrow) (now : Nat) : Bool := f.threads.any fun x => decide (x.at' + 64 ≤ now)

/-- A furrow is eligible (01 R24). -/
def Furrow.eligible (f : Furrow) (now : Nat) : Bool := f.covered || f.aged now

/-- Note since when a furrow has been eligible by the lanes it covers; FURROW_AGE_ELIGIBLE notes it by age (01 R24). The filings of a cycle enter when the next
one begins, and count as covering from that one on (DESIGN CHOICE, log 54). -/
def Furrow.refresh (f : Furrow) (now : Nat) : Furrow :=
  if !f.eligible now then { f with since := none }
  else if f.since.isNone ∧ f.covered then { f with since := some now }
  else f

/-- Enter the threads filed in the cycle into their furrows, in the order of 02 R41. -/
def State.flushFiling (s : State) (c : Nat) : State :=
  let k := s.core c
  let enter := fun (k : Core) (q : FileReq) =>
    match tget s.plots q.ref.tag, s.thread? q.ref with
    | some p, some t => if t.place = .filed then k.enter (p.keyOf q.ref.tid t.pc) { ref := q.ref, at' := q.at' } else k
    | _, _ => k
  let k' := k.filing.foldl enter k
  s.setCore c { k' with filing := [], furrows := k'.furrows.map fun (n, f) => (n, f.refresh s.cycle) }

/-- Remove a thread from furrows, spill furrow and filing list. -/
def State.unfile (s : State) (r : Ref) : State :=
  s.modCore (s.coreOf r) fun k =>
    { k with
      filing := k.filing.filter (fun q => q.ref != r)
      spill := k.spill.filter (fun f => f.ref != r)
      furrows := (k.furrows.map fun (n, f) => (n, { f with threads := f.threads.filter (fun x => x.ref != r) })).filter
        (fun (_, f) => !f.threads.isEmpty) }

/-! ## Traps -/

/-- Trap codes (21 Table 21.4). -/
def trapIllegal : Nat := 1
def trapRange : Nat := 2
def trapAlign : Nat := 3
def trapRole : Nat := 4
def trapBkpt : Nat := 5
def trapTrap : Nat := 6

/-- Trap entry in a thread, one step (21 R373): EPC, EWB, EIX, ECODE, EINFO and EADDR are written, SUP is set and
the PC becomes TVEC. -/
def Thread.enterTrap (t : Thread) (word : Word) (tvec : DWord) (code imm : Nat) (eaddr : DWord) : Thread :=
  { t.withSup true with
    epc := t.pc
    ewb := BitVec.ofNat 32 t.wb
    eix := t.ix
    ecode := BitVec.ofNat 32 (imm * 256 + code)
    einfo := word
    eaddr := eaddr
    pc := tvec }

/-- Return from a trap in a thread, one step (21 R376): WB, ix and the PC are restored and SUP is cleared. -/
def Thread.returnTrap (t : Thread) : Thread :=
  { t.withSup false with wb := t.ewb.toNat, ix := t.eix, pc := t.epc }

/-- A fault record about a thread (21 Table 21.7). -/
def State.recOf (s : State) (r : Ref) (src acc code : Nat) (addr pc mask : DWord) : FaultRec :=
  match tget s.plots r.tag with
  | none => { mask := mask, addr := addr, pc := pc, tid := r.tid, plot := 0, tract := 0, core := 0, acc := acc, src := src,
              code := code, ref := some r }
  | some p =>
    { mask := mask, addr := addr, pc := pc, tid := r.tid, plot := p.index,
      tract := match tget s.tracts p.tract with | some t => t.index | none => 0
      core := p.core, acc := acc, src := src, code := code, ref := some r }

/-- Hand a fault record to the context's fault-record queue (21 R389): it joins the records the steward holds in
order; FAULT_RECORD_FLUSH writes them while there is room. -/
def State.addRec (s : State) (ctx : Nat) (f : FaultRec) : State :=
  s.modCtx ctx fun c => { c with heldRecs := c.heldRecs ++ [f] }

/-- An engine command is paused with a record. -/
def EngCmd.recorded (c : EngCmd) : Bool := match c.stage with | .paused (some _) => true | _ => false

/-- A plot of a tract with this tag. -/
def State.tagIn (s : State) (tract tag : Nat) : Bool := (tget s.plots tag).any fun p => p.tract == tract

/-- A tract has a fault record that is not serviced (21 R388): of a thread that is parked, or of a command that is paused (log 33). -/
def State.unserviced (s : State) (tract : Nat) : Bool :=
  (s.plots.any fun (_, p) => p.tract == tract && ((p.threads.any fun (_, t) => t.pflt) || p.engq.any EngCmd.recorded)) ||
    (s.copies.any fun (_, c) => (c.paused.any fun h => h != 0) && c.ref.any fun r => s.tagIn tract r.tag) ||
    s.qposts.any fun (_, q) => (q.paused.any fun h => h != 0) && s.tagIn tract q.ref.tag

/-- The parking budget of the thread's tract starts when one of its threads parks with no record of the tract
unserviced (21 R388): called before the record is marked. -/
def State.startBudget (s : State) (r : Ref) : State :=
  match tget s.plots r.tag with
  | none => s
  | some p => if s.unserviced p.tract then s else s.modTract p.tract fun t => { t with budget := some s.time }

/-- Park a thread with a record (01 R38, 21 R386). -/
def State.parkThread (s : State) (r : Ref) (f : FaultRec) (pc : DWord) : State :=
  let s1 := s.startBudget r
  let s2 := (s1.toHeadland r .parked).modThread r fun t => { t with pc := pc, pflt := true }
  s2.addRec (s.ctxIdOf r) f

/-- A thread takes a trap (21 R373): entered in that thread only, which leaves its drill and is filed at TVEC. With SUP = 1
it takes a double trap instead (21 R375): parked, with its state as it stood, and a record of SRC 5, CODE 0x21. -/
def State.takeTrap (s : State) (r : Ref) (word : Word) (code imm : Nat) (eaddr : DWord) : State :=
  match s.thread? r with
  | none => s
  | some t =>
    if t.sup then s.parkThread r (s.recOf r 5 15 0x21 0 t.pc 0) t.pc
    else
      let t' := t.enterTrap word (s.tvecOf r) code imm eaddr
      let rank := match t.place with | .drill slot => rankDrill slot r | _ => rankWake r
      (s.modThread r fun x => { t' with place := x.place }).fileThread r t'.pc rank

/-! ## Exit -/

/-- Free a minting slot: its generation advances (13 R287). -/
def Slot.freed (x : Slot) : Slot := { x with state := .free, gen := x.gen + 1, value := 0, src := none }

/-- Free every slot a thread owns (13 R297). -/
def State.freeSlots (s : State) (r : Ref) : State :=
  { s with cores := s.cores.map fun (c, k) =>
      (c, { k with slots := k.slots.map fun (n, x) => (n, if x.state ≠ .free ∧ x.owner = r then x.freed else x) }) }

/-- A thread's WAITW no longer watches its word. -/
def State.unwatch (s : State) (r : Ref) : State := { s with watches := s.watches.filter fun w => w.ref != r }

/-- Make a thread exited (07 R167, 13 R297): it leaves its drill or furrow, its landing names are freed. -/
def State.exitThread (s : State) (r : Ref) : State :=
  (((s.leaveDrill r).unfile r |>.freeSlots r).unwatch r).modThread r fun t => { t with place := .exited, pflt := false }

/-- Kill a thread (21 R387): as exit; a thread already exited stays so. -/
def State.killThread (s : State) (r : Ref) : State :=
  match s.thread? r with
  | some t => if t.live then s.exitThread r else s
  | none => s

end Sys2Proof.Machine
end

