-- ==== Sys2Proof/Machine/Operands.lean ====
section
/-! DEFINITION. Register and predicate operands: reading and writing every register name at every width
(03 R43 to R49) and the register-range check (03 R44, R45). -/

namespace Sys2Proof.Machine

/-- What an operand reads beside the thread: its plot constants, its tid and the core's cycle counter at issue. -/
structure Env where
  k : List Word
  tid : Nat
  cycle : Nat
  deriving DecidableEq, Repr

/-- RA of a thread: its number of registers (01 R12). -/
abbrev Thread.ra (t : Thread) : Nat := t.regs.length

/-- The lowest physical register of a windowed or indirect operand (03 R43). -/
def Thread.phys (t : Thread) : Reg → Option Nat
  | .w n => some (t.wb + n.val)
  | .wix => some (t.wb + t.ix.toNat)
  | .k _ | .ix | .tid | .lane | .zero | .clk => none

/-- Alignment of an indirect operand of c registers (03 R45): pairs 2, quads and blocks 4. -/
def indirectAlign : Nat → Nat
  | 1 => 1
  | 2 => 2
  | _ => 4

/-- Operand of c registers passes the register-range check (03 R44, R45). -/
def Thread.inRange (t : Thread) (r : Reg) (c : Nat) : Bool :=
  match r with
  | .w n => decide (t.wb + n.val + c ≤ t.ra)
  | .wix => decide (t.wb + t.ix.toNat + c ≤ t.ra) && (t.wb + t.ix.toNat) % indirectAlign c == 0
  | .k _ | .ix | .tid | .lane | .zero | .clk => true

/-- Every operand passes the register-range check. -/
def Thread.inRanges (t : Thread) (l : List (Reg × Nat)) : Bool := l.all fun (r, c) => t.inRange r c

/-- The i-th 32-bit word of an operand (03 R43, R45): plot constants, ix, tid, lane, zero and clk read as
Table 3.1 gives. -/
def Thread.word (t : Thread) (e : Env) (r : Reg) (i : Nat) : Word :=
  match r with
  | .w n => t.regs.getD (t.wb + n.val + i) 0
  | .wix => t.regs.getD (t.wb + t.ix.toNat + i) 0
  | .k n => e.k.getD (n.val + i) 0
  | .ix => t.ix
  | .tid => BitVec.ofNat 32 e.tid
  | .lane => BitVec.ofNat 32 (e.tid % 64)
  | .zero => 0
  | .clk => BitVec.ofNat 32 e.cycle

/-- A 32-bit source. -/
def Thread.rd32 (t : Thread) (e : Env) (r : Reg) : Word := t.word e r 0

/-- A 64-bit source: the lower register holds the low word (03 R45). -/
def Thread.rd64 (t : Thread) (e : Env) (r : Reg) : DWord := t.word e r 1 ++ t.word e r 0

/-- A 128-bit source. -/
def Thread.rd128 (t : Thread) (e : Env) (r : Reg) : Quad := t.word e r 3 ++ t.word e r 2 ++ t.word e r 1 ++ t.word e r 0

/-- Write a physical register. -/
def Thread.setReg (t : Thread) (x : Nat) (v : Word) : Thread := { t with regs := t.regs.set x v }

/-- Write consecutive physical registers. -/
def Thread.setRegs (t : Thread) (x : Nat) : List Word → Thread
  | [] => t
  | v :: l => (t.setReg x v).setRegs (x + 1) l

/-- A 32-bit destination (03 R43): a write to zero is discarded; k, tid, lane and clk are no destinations. -/
def Thread.wr32 (t : Thread) (r : Reg) (v : Word) : Thread :=
  match r with
  | .w n => t.setReg (t.wb + n.val) v
  | .wix => t.setReg (t.wb + t.ix.toNat) v
  | .ix => { t with ix := v }
  | .k _ | .tid | .lane | .zero | .clk => t

/-- The words of a 64-bit value, low word first. -/
def words64 (v : DWord) : List Word := [v.extractLsb' 0 32, v.extractLsb' 32 32]

/-- The words of a 128-bit value, low word first. -/
def words128 (v : Quad) : List Word :=
  [v.extractLsb' 0 32, v.extractLsb' 32 32, v.extractLsb' 64 32, v.extractLsb' 96 32]

/-- A destination of several registers (03 R45). -/
def Thread.wrWords (t : Thread) (r : Reg) (l : List Word) : Thread :=
  match t.phys r with
  | some x => t.setRegs x l
  | none => t

/-- A 64-bit destination. -/
def Thread.wr64 (t : Thread) (r : Reg) (v : DWord) : Thread := t.wrWords r (words64 v)

/-- A 128-bit destination. -/
def Thread.wr128 (t : Thread) (r : Reg) (v : Quad) : Thread := t.wrWords r (words128 v)

/-- The place a load or atomic will write (13 R255). -/
def Thread.dstOf (t : Thread) (r : Reg) : Dst :=
  match r with
  | .ix => .ix
  | .w _ | .wix => match t.phys r with | some x => .reg x | none => .none
  | .k _ | .tid | .lane | .zero | .clk => .none

/-- Write words to the place of a load or atomic. -/
def Thread.wrDst (t : Thread) (d : Dst) (l : List Word) : Thread :=
  match d with
  | .none => t
  | .ix => { t with ix := l.headD 0 }
  | .reg x => t.setRegs x l

/-- A predicate (03 R49): p0 reads true. -/
def Thread.pred (t : Thread) (p : Nat) : Bool := p == 0 || t.preds.getLsbD p

/-- Write a predicate (03 R49): a write to p0 is discarded. -/
def Thread.setPred (t : Thread) (p : Nat) (b : Bool) : Thread :=
  if p = 0 then t
  else { t with preds := if b then t.preds ||| (1#128 <<< p) else t.preds &&& ~~~(1#128 <<< p) }

/-- Write predicates from one upwards. -/
def Thread.setPreds (t : Thread) (p : Nat) : List Bool → Thread
  | [] => t
  | b :: l => (t.setPred p b).setPreds (p + 1) l

/-- The TR guard (03 R49): 0 always, 1 to 7 the predicate. -/
def Thread.guard (t : Thread) (g : Fin 8) : Bool := t.pred g.val

/-- Sign extension to 64 bits of a displacement. -/
def sext64 {n : Nat} (v : BitVec n) : DWord := v.signExtend 64

end Sys2Proof.Machine
end

