-- ==== Sys2Proof/Machine/Flags.lean ====
section
/-! DEFINITION. Number formats, rounding and status flags (05 R98 to R120): the value of a code of a format,
RoundToFormat, the exact operations, the correctly rounded functions, the anchored exact accumulator. -/

namespace Sys2Proof.Machine

/-! ## Flags (03 Table 3.2) -/

def flagNV : Nat := 1
def flagDZ : Nat := 2
def flagOF : Nat := 4
def flagUF : Nat := 8
def flagNX : Nat := 16

/-- Both sets of flags. -/
def orFlags (a b : Nat) : Nat := a ||| b

/-! ## Exact values -/

/-- An exact real (as sign and a fraction), an infinity or a NaN (05 R106); sig marks a signalling NaN. -/
inductive XReal where
  | nan (sig : Bool)
  | inf (neg : Bool)
  | fin (neg : Bool) (num den : Nat)
  deriving DecidableEq, Repr

/-- An exact integer. -/
def XReal.ofInt (v : Int) : XReal := .fin (decide (v < 0)) v.natAbs 1

/-- Is a NaN. -/
def XReal.isNaN : XReal → Bool
  | .nan _ => true
  | _ => false

/-- NV for a signalling NaN (05 R107). -/
def XReal.sigFlag : XReal → Nat
  | .nan true => flagNV
  | _ => 0

/-- Sign of a value; a NaN counts as positive. -/
def XReal.sign : XReal → Bool
  | .nan _ => false
  | .inf n => n
  | .fin n _ _ => n

/-- Is a zero. -/
def XReal.isZero : XReal → Bool
  | .fin _ 0 _ => true
  | _ => false

/-- Change of sign; a NaN stays. -/
def XReal.neg : XReal → XReal
  | .nan g => .nan g
  | .inf n => .inf (!n)
  | .fin n a b => .fin (!n) a b

/-- Rounding modes (03 R51): 0 RNE, 1 RZ, 2 RU, 3 RD. -/
abbrev Mode := BitVec 2

/-- Exact sum; an exact zero sum of opposite signs is +0, and -0 in RD (05 R109). -/
def XReal.add (m : Mode) (a b : XReal) : XReal × Nat :=
  match a, b with
  | .nan _, _ | _, .nan _ => (.nan false, orFlags a.sigFlag b.sigFlag)
  | .inf x, .inf y => if x = y then (.inf x, 0) else (.nan false, flagNV)
  | .inf x, .fin _ _ _ => (.inf x, 0)
  | .fin _ _ _, .inf y => (.inf y, 0)
  | .fin x p q, .fin y r t =>
    if x = y then (.fin x (p * t + r * q) (q * t), 0)
    else if p * t = r * q then (.fin (decide (m = 3)) 0 1, 0)
    else if r * q < p * t then (.fin x (p * t - r * q) (q * t), 0)
    else (.fin y (r * q - p * t) (q * t), 0)

/-- Exact product (05 R106, R109). -/
def XReal.mul (a b : XReal) : XReal × Nat :=
  match a, b with
  | .nan _, _ | _, .nan _ => (.nan false, orFlags a.sigFlag b.sigFlag)
  | .inf x, .inf y => (.inf (x != y), 0)
  | .inf x, .fin y p _ => if p = 0 then (.nan false, flagNV) else (.inf (x != y), 0)
  | .fin x p _, .inf y => if p = 0 then (.nan false, flagNV) else (.inf (x != y), 0)
  | .fin x p q, .fin y r t => (.fin (x != y) (p * r) (q * t), 0)

/-- a × b + d, unrounded; 0 × Inf + d is NaN with NV whatever d is (05 R109). -/
def XReal.fma (m : Mode) (a b d : XReal) : XReal × Nat :=
  let (p, f) := a.mul b
  let (x, g) := p.add m d
  (x, orFlags f g)

/-- Division as the FDIV row of Table 5.6 gives. -/
def XReal.div (a b : XReal) : XReal × Nat :=
  match a, b with
  | .nan _, _ | _, .nan _ => (.nan false, orFlags a.sigFlag b.sigFlag)
  | .inf _, .inf _ => (.nan false, flagNV)
  | .inf x, .fin y _ _ => (.inf (x != y), 0)
  | .fin x _ _, .inf y => (.fin (x != y) 0 1, 0)
  | .fin x p q, .fin y r t =>
    if r = 0 then (if p = 0 then (.nan false, flagNV) else (.inf (x != y), flagDZ))
    else (.fin (x != y) (p * t) (q * r), 0)

/-- a < b for values that are not NaN; +0 = -0. -/
def XReal.lt (a b : XReal) : Bool :=
  match a, b with
  | .nan _, _ | _, .nan _ => false
  | .inf x, .inf y => x && !y
  | .inf x, .fin _ _ _ => x
  | .fin _ _ _, .inf y => !y
  | .fin x p q, .fin y r t =>
    if p = 0 ∧ r = 0 then false
    else match x, y with
      | true, false => true
      | false, true => false
      | false, false => decide (p * t < r * q)
      | true, true => decide (r * q < p * t)

/-- a = b for values that are not NaN; +0 = -0. -/
def XReal.eqv (a b : XReal) : Bool := !a.isNaN && !b.isNaN && !a.lt b && !b.lt a

/-! ## Formats (05 Tables 5.1 to 5.3) -/

/-- A floating format: exponent and fraction bits, bias, sign bit, how it codes infinity and NaN, its largest
finite code, its canonical NaN code. -/
structure Fmt where
  ebits : Nat
  fbits : Nat
  bias : Nat
  signed : Bool
  infinity : Bool
  ieeeNaN : Bool
  e4NaN : Bool
  maxCode : Nat
  nanCode : Nat
  deriving DecidableEq, Repr

def fmtF32 : Fmt := ⟨8, 23, 127, true, true, true, false, 0x7F7FFFFF, 0x7FC00000⟩
def fmtF16 : Fmt := ⟨5, 10, 15, true, true, true, false, 0x7BFF, 0x7E00⟩
def fmtBF16 : Fmt := ⟨8, 7, 127, true, true, true, false, 0x7F7F, 0x7FC0⟩
def fmtE4M3 : Fmt := ⟨4, 3, 7, true, false, false, true, 0x7E, 0x7F⟩
def fmtE5M2 : Fmt := ⟨5, 2, 15, true, true, true, false, 0x7B, 0x7E⟩
def fmtE2M3 : Fmt := ⟨2, 3, 1, true, false, false, false, 0x1F, 0⟩
def fmtE3M2 : Fmt := ⟨3, 2, 3, true, false, false, false, 0x1F, 0⟩
def fmtE2M1 : Fmt := ⟨2, 1, 1, true, false, false, false, 0x7, 0⟩
def fmtE3M5 : Fmt := ⟨3, 5, 3, false, false, false, false, 0xFF, 0⟩

/-- Bits of a code without its sign. -/
def Fmt.mag (f : Fmt) : Nat := f.ebits + f.fbits

/-- Bits of a code. -/
def Fmt.width (f : Fmt) : Nat := f.mag + (if f.signed then 1 else 0)

/-- The value (F or 2^f + F) × 2^(max(E,1) - bias - fbits) as a fraction. -/
def scaled (m : Nat) (up down : Nat) : Nat × Nat := if down ≤ up then (m * 2 ^ (up - down), 1) else (m, 2 ^ (down - up))

/-- The value of a code (05 R99). -/
def Fmt.value (f : Fmt) (c : Nat) : XReal :=
  let s := f.signed && bit c f.mag
  let fr := c % 2 ^ f.fbits
  let ex := c / 2 ^ f.fbits % 2 ^ f.ebits
  let top := 2 ^ f.ebits - 1
  if f.ieeeNaN ∧ ex = top then
    (if fr = 0 then .inf s else .nan (fr < 2 ^ (f.fbits - 1)))
  else if f.e4NaN ∧ ex = top ∧ fr = 2 ^ f.fbits - 1 then .nan false
  else if ex = 0 then
    let (n, d) := scaled fr 1 (f.bias + f.fbits)
    .fin s n d
  else
    let (n, d) := scaled (2 ^ f.fbits + fr) ex (f.bias + f.fbits)
    .fin s n d

/-- floor(log2 (n / d)) for n, d > 0. -/
def ilog2 (n d : Nat) : Int :=
  let e : Int := (Nat.log2 n : Int) - (Nat.log2 d : Int)
  let ge := if 0 ≤ e then decide (d * 2 ^ e.toNat ≤ n) else decide (d ≤ n * 2 ^ (-e).toNat)
  if ge then e else e - 1

/-- Rnd of a non-negative fraction n / d with the sign beside it (05 R106). -/
def rndMag (m : Mode) (neg : Bool) (n d : Nat) : Nat :=
  let q := n / d
  let r := n % d
  if r = 0 then q
  else if m = 0 then (if 2 * r < d then q else if d < 2 * r then q + 1 else if q % 2 = 0 then q else q + 1)
  else if m = 1 then q
  else if m = 2 then (if neg then q else q + 1)
  else (if neg then q + 1 else q)

/-- n / d divided by 2^e as a fraction. -/
def shiftFrac (n d : Nat) (e : Int) : Nat × Nat := if 0 ≤ e then (n, d * 2 ^ e.toNat) else (n * 2 ^ (-e).toNat, d)

/-- The sign bit of a code. -/
def Fmt.signBit (f : Fmt) (s : Bool) : Nat := if s && f.signed then 2 ^ f.mag else 0

/-- Code of an infinity. -/
def Fmt.infCode (f : Fmt) (s : Bool) : Nat := f.signBit s + (2 ^ f.ebits - 1) * 2 ^ f.fbits

/-- NaNOf(f) (05 R107): the canonical NaN, or +0 with NV where the format has none. -/
def Fmt.nanOf (f : Fmt) : Nat × Nat := if f.ieeeNaN || f.e4NaN then (f.nanCode, 0) else (0, flagNV)

/-- RoundToFormat to a floating format (05 R106): the code and the flags raised. -/
def Fmt.round (f : Fmt) (m : Mode) (x : XReal) : Nat × Nat :=
  match x with
  | .nan _ => f.nanOf
  | .inf s => if f.infinity then (f.infCode s, 0) else (f.signBit s + f.maxCode, flagOF ||| flagNX)
  | .fin s n d =>
    if n = 0 then (f.signBit s, 0)
    else
      let emin : Int := 1 - (f.bias : Int)
      let e0 := ilog2 n d
      let e := if e0 < emin then emin else e0
      let (a, b) := shiftFrac n d (e - f.fbits)
      let k := rndMag m s a b
      let exact := decide (k * b = a)
      -- the code of k × 2^(e - fbits): exponent field e + bias when k is normal, one more when k = 2^(fbits + 1)
      let code := if k < 2 ^ f.fbits then k else (e + f.bias - 1).toNat * 2 ^ f.fbits + k
      if f.maxCode < code then
        let r :=
          if !f.infinity then f.signBit s + f.maxCode
          else if m = 0 then f.infCode s
          else if m = 1 then f.signBit s + f.maxCode
          else if m = 2 then (if s then f.signBit s + f.maxCode else f.infCode s)
          else (if s then f.infCode s else f.signBit s + f.maxCode)
        (r, flagOF ||| flagNX)
      else
        let nx := if exact then 0 else flagNX
        let uf := if !exact && decide (code < 2 ^ f.fbits) then flagUF else 0
        (f.signBit s + code, nx ||| uf)

/-- RoundInt (05 R106): to a two's complement or unsigned integer of n bits. -/
def roundInt (n : Nat) (signed : Bool) (m : Mode) (x : XReal) : Nat × Nat :=
  let hi : Int := if signed then 2 ^ (n - 1) - 1 else 2 ^ n - 1
  let lo : Int := if signed then -(2 ^ (n - 1)) else 0
  match x with
  | .nan _ => (0, flagNV)
  | .inf s => (unsgn n (if s then lo else hi), flagNV)
  | .fin s a b =>
    let k := rndMag m s a b
    let y : Int := if s then -(k : Int) else k
    if y < lo then (unsgn n lo, flagNV)
    else if hi < y then (unsgn n hi, flagNV)
    else (unsgn n y, if k * b = a then 0 else flagNX)

/-- The floating format of a conversion element code (03 R65). -/
def ceFmt : CE → Fmt
  | .f32 => fmtF32
  | .f16 => fmtF16
  | .bf16 => fmtBF16
  | .e4m3 => fmtE4M3
  | .e5m2 => fmtE5M2
  | .e2m3 => fmtE2M3
  | .e3m2 => fmtE3M2
  | .e2m1 => fmtE2M1

/-- The element format of a packed register type (05 Table 5.4). -/
def ftyFmt : FTy → Fmt
  | .f32 => fmtF32
  | .h2 => fmtF16
  | .b2 => fmtBF16
  | .e4 => fmtE4M3

/-- Element bits of a format code (05 Table 5.1). -/
def fmtBits : Nat → Nat
  | 0 => 32
  | 1 | 2 => 16
  | 3 | 4 | 8 | 9 | 12 => 8
  | 5 | 6 => 6
  | _ => 4

/-- Scaled formats: BQ4, MXFP8, MXFP4. -/
def fmtScaled (c : Nat) : Bool := c == 11 || c == 12 || c == 13

/-- The floating format of a format code's elements, where it has one. -/
def fmtFloat : Nat → Option Fmt
  | 0 => some fmtF32
  | 1 => some fmtF16
  | 2 => some fmtBF16
  | 3 | 12 => some fmtE4M3
  | 4 => some fmtE5M2
  | 5 => some fmtE2M3
  | 6 => some fmtE3M2
  | 7 | 11 | 13 => some fmtE2M1
  | _ => none

/-- The value of an element code, scales apart (05 R99, R101). -/
def elemValue (c v : Nat) : XReal :=
  match fmtFloat c with
  | some f => f.value v
  | none =>
    if c = 8 then .ofInt (sgn 8 v)
    else if c = 9 then .ofInt (v % 256 : Nat)
    else .ofInt (sgn 4 v)

/-- The value of an E8M0 scale (05 R103). -/
def e8m0 (s : Nat) : XReal :=
  if s % 256 = 255 then .nan false else let (n, d) := scaled 1 (s % 256) 127; .fin false n d

/-! ## Packed elements -/

/-- Element e of a packed register (05 Table 5.4). -/
def elem (ty : FTy) (v : Word) (e : Nat) : Nat :=
  let w := (ftyFmt ty).width
  v.toNat / 2 ^ (w * e) % 2 ^ w

/-- Apply a function to each element and pack the results; flags are ORed (05 R105). -/
def packElems (ty : FTy) (f : Nat → Nat × Nat) : Word × Nat :=
  let w := (ftyFmt ty).width
  let r := (List.range ty.elems).foldl (fun (acc : Nat × Nat) e =>
    let (v, g) := f e
    (acc.1 + v % 2 ^ w * 2 ^ (w * e), acc.2 ||| g)) (0, 0)
  (BitVec.ofNat 32 r.1, r.2)

/-- minimumNumber and maximumNumber on codes of a format (07 R135): mx selects the maximum. -/
def minMaxNum (f : Fmt) (mx : Bool) (a b : Nat) : Nat × Nat :=
  let x := f.value a
  let y := f.value b
  let fl := orFlags x.sigFlag y.sigFlag
  if x.isNaN && y.isNaN then (f.nanCode, fl)
  else if x.isNaN then (b, fl)
  else if y.isNaN then (a, fl)
  else
    let less := if x.isZero && y.isZero then (x.sign && !y.sign) else x.lt y
    let more := if x.isZero && y.isZero then (!x.sign && y.sign) else y.lt x
    (if mx then (if more then a else b) else (if less then a else b), fl)

/-! ## Correctly rounded functions (05 R116, Table 5.6) -/

/-- Fractional bits of the fixed-point series (log 9). -/
def fxBits : Nat := 1024

/-- 1 in fixed point. -/
def fxOne : Nat := 2 ^ 1024

/-- Sum of x^(2k+1) / ((2k+1) q^(2k+1)): the inverse hyperbolic (or with alternating signs, circular) tangent of
a fixed-point argument z = x. -/
def atanhSeries (z2 : Nat) : Nat → Nat → Nat → Nat
  | 0, _, _ => 0
  | n + 1, k, t => t / (2 * k + 1) + atanhSeries z2 n (k + 1) (t * z2 / fxOne)

/-- The same with alternating signs. -/
def atanSeries (z2 : Nat) : Nat → Nat → Nat → Int
  | 0, _, _ => 0
  | n + 1, k, t => (if k % 2 = 0 then ((t / (2 * k + 1) : Nat) : Int) else -((t / (2 * k + 1) : Nat) : Int)) + atanSeries z2 n (k + 1) (t * z2 / fxOne)

/-- Inverse hyperbolic tangent of a fixed-point z of at most 1/3. -/
def fxAtanh (z : Nat) : Nat := atanhSeries (z * z / fxOne) 340 0 z

/-- Inverse tangent of 1/q. -/
def fxAtanInv (q : Nat) : Int := atanSeries (fxOne / (q * q)) 240 0 (fxOne / q)

/-- ln 2 = 2 atanh(1/3). -/
def fxLn2 : Nat := 2 * fxAtanh (fxOne / 3)

/-- pi by Machin's formula. -/
def fxPi : Nat := (16 * fxAtanInv 5 - 4 * fxAtanInv 239).toNat

/-- Sum of t x^k / k!. -/
def expSeries (x : Nat) : Nat → Nat → Nat → Nat
  | 0, _, _ => 0
  | n + 1, k, t => t + expSeries x n (k + 1) (t * x / fxOne / (k + 1))

/-- e^x of a fixed-point x below 1. -/
def fxExp (x : Nat) : Nat := expSeries x 200 0 fxOne

/-- Alternating sum of t x^(2k) / ((2k+j)!). -/
def sinSeries (x2 : Nat) : Nat → Nat → Nat → Int
  | 0, _, _ => 0
  | n + 1, k, t => (t : Int) - sinSeries x2 n (k + 2) (t * x2 / fxOne / ((k + 1) * (k + 2)))

/-- sin of a fixed-point angle of at most pi / 2. -/
def fxSin (x : Nat) : Nat := (sinSeries (x * x / fxOne) 110 1 x).toNat

/-- cos of a fixed-point angle of at most pi / 2. -/
def fxCos (x : Nat) : Nat := (sinSeries (x * x / fxOne) 110 0 fxOne).toNat

/-- A fixed-point number as a value that is no dyadic tie: the middle of its last place. -/
def fxReal (neg : Bool) (v : Nat) : XReal := .fin neg (2 * v + 1) (2 * fxOne)

/-- 2^k times a fraction. -/
def mulPow (n d : Nat) (k : Int) : Nat × Nat := if 0 ≤ k then (n * 2 ^ k.toNat, d) else (n, d * 2 ^ (-k).toNat)

/-- e^(-y) for y = n / d ≥ 0 up to about 250, times 2^0, as fixed point: 2^(-k) e^(-(r)) with y = k ln2 + r. -/
def fxExpNeg (n d : Nat) : Nat :=
  let y := n * fxOne / d
  let k := y / fxLn2
  let r := y % fxLn2
  -- e^(-r) = 1 / e^r
  fxOne * fxOne / fxExp r / 2 ^ k

/-- Square root of n / d: exact where the root of (n / d) is a fraction with a power of two below it. -/
def sqrtReal (n d : Nat) : XReal :=
  let v := n * 2 ^ 1200
  let q := v / d
  let r := Nat.sqrt q
  if q * d = v ∧ r * r = q then .fin false r (2 ^ 600) else .fin false (2 * r + 1) (2 ^ 601)

/-- √x (Table 5.6). -/
def fnSqrt (x : XReal) : XReal × Nat :=
  match x with
  | .nan g => (.nan false, if g then flagNV else 0)
  | .inf true => (.nan false, flagNV)
  | .inf false => (.inf false, 0)
  | .fin s n d => if n = 0 then (x, 0) else if s then (.nan false, flagNV) else (sqrtReal n d, 0)

/-- 1 / √x (Table 5.6). -/
def fnRsq (x : XReal) : XReal × Nat :=
  match x with
  | .nan g => (.nan false, if g then flagNV else 0)
  | .inf true => (.nan false, flagNV)
  | .inf false => (.fin false 0 1, 0)
  | .fin s n d => if n = 0 then (.inf s, flagDZ) else if s then (.nan false, flagNV) else (sqrtReal d n, 0)

/-- 1 / x (Table 5.6). -/
def fnRcp (x : XReal) : XReal × Nat := XReal.div (.fin false 1 1) x

/-- 2^x (Table 5.6). Beyond ±300 the result overflows or underflows as at the bound. -/
def fnExp2 (x : XReal) : XReal × Nat :=
  match x with
  | .nan g => (.nan false, if g then flagNV else 0)
  | .inf true => (.fin false 0 1, 0)
  | .inf false => (.inf false, 0)
  | .fin s n d =>
    if 300 * d < n then
      let (a, b) := mulPow 1 1 (if s then -300 else 300)
      (.fin false a b, 0)
    else
      let k := n / d
      let r := n % d
      if r = 0 then
        let (a, b) := mulPow 1 1 (if s then -(k : Int) else k)
        (.fin false a b, 0)
      else
        -- s: 2^-(k + r/d) = 2^-(k+1) 2^(1 - r/d)
        let fr := if s then d - r else r
        let e : Int := if s then -(k : Int) - 1 else k
        let v := fxExp (fr * fxOne / d * fxLn2 / fxOne)
        let (a, b) := mulPow (2 * v + 1) (2 * fxOne) e
        (.fin false a b, 0)

/-- log2 x (Table 5.6). -/
def fnLog2 (x : XReal) : XReal × Nat :=
  match x with
  | .nan g => (.nan false, if g then flagNV else 0)
  | .inf true => (.nan false, flagNV)
  | .inf false => (.inf false, 0)
  | .fin s n d =>
    if n = 0 then (.inf true, flagDZ)
    else if s then (.nan false, flagNV)
    else
      let e := ilog2 n d
      let (a, b) := shiftFrac n d e
      if a = b then (.ofInt e, 0)
      else
        -- a / b in (1, 2): log2 = 2 atanh((a - b) / (a + b)) / ln 2
        let l := 2 * fxAtanh ((a - b) * fxOne / (a + b)) * fxOne / fxLn2
        let v : Int := e * (fxOne : Int) + l
        (if v < 0 then fxReal true ((-v).toNat - 1) else fxReal false v.toNat, 0)

/-- sin of pi times a fraction n / d in [0, 1 / 2] that is no half. -/
def sinPiFrac (n d : Nat) : Nat := fxSin (n * fxOne / d * fxPi / fxOne)

/-- sin(pi x) (Table 5.6). -/
def fnSinPi (x : XReal) : XReal × Nat :=
  match x with
  | .nan g => (.nan false, if g then flagNV else 0)
  | .inf _ => (.nan false, flagNV)
  | .fin s n d =>
    if n = 0 then (x, 0)
    else if n % d = 0 then (.fin s 0 1, 0)
    else
      let r := n % (2 * d)
      let flip := decide (d < r)
      let u := if flip then r - d else r
      let v := if d < 2 * u then d - u else u
      let neg := s != flip
      if 2 * v = d then (.fin neg 1 1, 0) else (fxReal neg (sinPiFrac v d), 0)

/-- cos(pi x) (Table 5.6). -/
def fnCosPi (x : XReal) : XReal × Nat :=
  match x with
  | .nan g => (.nan false, if g then flagNV else 0)
  | .inf _ => (.nan false, flagNV)
  | .fin _ n d =>
    let r := n % (2 * d)
    let u := if d < r then 2 * d - r else r
    if 2 * u = d then (.fin false 0 1, 0)
    else
      let neg := decide (d < 2 * u)
      let v := if neg then d - u else u
      if v = 0 then (.fin neg 1 1, 0)
      else (fxReal neg (fxCos (v * fxOne / d * fxPi / fxOne)), 0)

/-- tanh x (Table 5.6). Beyond 150 in magnitude the result rounds as at the bound. -/
def fnTanh (x : XReal) : XReal × Nat :=
  match x with
  | .nan g => (.nan false, if g then flagNV else 0)
  | .inf s => (.fin s 1 1, 0)
  | .fin s n d =>
    if n = 0 then (x, 0)
    else if 150 * d < n then (.fin s (2 ^ 300 - 1) (2 ^ 300), 0)
    else
      -- (1 - e^(-2y)) / (1 + e^(-2y)); for small y by the series of sinh and cosh through e^y - e^(-y)
      if n * 2 ^ 20 < d then
        let y := n * fxOne / d
        let y3 := y * y / fxOne * y / fxOne
        let y5 := y3 * y / fxOne * y / fxOne
        let y7 := y5 * y / fxOne * y / fxOne
        -- y - y^3/3 + 2 y^5/15 - 17 y^7/315
        (fxReal s (y - y3 / 3 + 2 * y5 / 15 - 17 * y7 / 315), 0)
      else
        let e := fxExpNeg (2 * n) d
        (fxReal s ((fxOne - e) * fxOne / (fxOne + e)), 0)

/-- 1 / (1 + e^(-x)) (Table 5.6). Beyond 250 in magnitude the result rounds as at the bound. -/
def fnSigm (x : XReal) : XReal × Nat :=
  match x with
  | .nan g => (.nan false, if g then flagNV else 0)
  | .inf true => (.fin false 0 1, 0)
  | .inf false => (.fin false 1 1, 0)
  | .fin s n d =>
    if n = 0 then (.fin false 1 2, 0)
    else if 250 * d < n then (if s then .fin false 1 (2 ^ 300) else .fin false (2 ^ 300 - 1) (2 ^ 300), 0)
    else
      let e := fxExpNeg n d
      -- x < 0: e^x / (1 + e^x); x > 0: 1 / (1 + e^(-x))
      (fxReal false (if s then e * fxOne / (fxOne + e) else fxOne * fxOne / (fxOne + e)), 0)

/-- x × 2^k exactly (07 R138); beyond ±1000 the result overflows or underflows as at the bound. -/
def ldexpReal (x : XReal) (k : Int) : XReal :=
  match x with
  | .fin s n d =>
    if n = 0 then x
    else
      let j : Int := if k < -1000 then -1000 else if 1000 < k then 1000 else k
      let (a, b) := mulPow n d j
      .fin s a b
  | .nan g => .nan g
  | .inf s => .inf s

/-! ## The anchored exact accumulator (05 R111 to R114) -/

/-- The zero state of a tile cell: N = 0, Z = 1 (17 R329). -/
def axaZero : Quad := BitVec.ofNat 128 (2 ^ 124)

/-- A state from its parts, Z recomputed (05 Table 5.5). -/
def axaMake (nan oowp oown : Bool) (n : Nat) : Quad :=
  let m := n % 2 ^ 124
  let z := m == 0 && !nan && !oowp && !oown
  BitVec.ofNat 128 (m + z.toNat * 2 ^ 124 + oown.toNat * 2 ^ 125 + oowp.toNat * 2 ^ 126 + nan.toNat * 2 ^ 127)

/-- N of a state as its 124 bits. -/
def axaN (q : Quad) : Nat := q.toNat % 2 ^ 124

/-- AxaAdmit (05 R112). -/
def axaAdmit (acc : Quad) (p : XReal) (xa : Int) : Quad :=
  let nan := acc.getLsbD 127
  let oowp := acc.getLsbD 126
  let oown := acc.getLsbD 125
  match p with
  | .nan _ => axaMake true oowp oown (axaN acc)
  | .inf s => if s then axaMake nan oowp true (axaN acc) else axaMake nan true oown (axaN acc)
  | .fin s n d =>
    let (a, b) := shiftFrac n d (xa - 4)
    if b ≤ a then (if s then axaMake nan oowp true (axaN acc) else axaMake nan true oown (axaN acc))
    else
      let (c, e) := shiftFrac n d (xa - 96)
      let q := rndMag 0 s c e
      axaMake nan oowp oown (unsgn 124 ((axaN acc : Int) + (if s then -(q : Int) else q)))

/-- The product to admit, with the special cases of 05 R112; it raises no flag. -/
def axaProduct (a b : XReal) : XReal := (a.mul b).1

/-- AxaCombine (05 R113). -/
def axaCombine (a b : Quad) : Quad :=
  axaMake (a.getLsbD 127 || b.getLsbD 127) (a.getLsbD 126 || b.getLsbD 126) (a.getLsbD 125 || b.getLsbD 125) (axaN a + axaN b)

/-- XNEG (07 R146). -/
def axaNeg (a : Quad) : Quad := axaMake (a.getLsbD 127) (a.getLsbD 125) (a.getLsbD 126) (unsgn 124 (-(axaN a : Int)))

/-- The value of N at an anchor. -/
def axaReal (n : Nat) (xa : Int) : XReal :=
  let v := sgn 124 n
  let (a, b) := shiftFrac v.natAbs 1 (96 - xa)
  .fin (decide (v < 0)) a b

/-- AxaConvert (05 R114): the code in a format and the flags. -/
def axaConvert (acc : Quad) (xa : Int) (f : Fmt) (m : Mode) : Nat × Nat :=
  if acc.getLsbD 127 then f.nanOf
  else if acc.getLsbD 126 && acc.getLsbD 125 then (f.nanOf.1, orFlags flagNV f.nanOf.2)
  else if acc.getLsbD 126 then f.round m (.inf false)
  else if acc.getLsbD 125 then f.round m (.inf true)
  else if axaN acc = 0 then (f.signBit (decide (m = 3)), 0)
  else f.round m (axaReal (axaN acc) xa)

/-! ## Reduction and scan trees (05 R117) -/

/-- One level of the reduction tree: each i a multiple of 2s takes op of itself and i + s. -/
def reduceLevel {α : Type} (op : α → α → α) : List α → List α
  | a :: b :: t => op a b :: reduceLevel op t
  | [a] => [a]
  | [] => []

/-- The reduction of 64 values by the fixed tree: pairing neighbours six times (05 R117). -/
def reduceTree {α : Type} (op : α → α → α) (v : List α) : List α :=
  reduceLevel op (reduceLevel op (reduceLevel op (reduceLevel op (reduceLevel op (reduceLevel op v)))))

/-- One level of the inclusive scan at distance d. -/
def scanLevel {α : Type} (op : α → α → α) (v : List α) (d : Nat) : List α :=
  v.take d ++ List.zipWith op v (v.drop d)

/-- The inclusive scan (05 R117). -/
def scanTree {α : Type} (op : α → α → α) (v : List α) : List α :=
  [1, 2, 4, 8, 16, 32].foldl (scanLevel op) v

end Sys2Proof.Machine
end

