-- ==== Sys2Proof/Machine/Memory.lean ====
section
/-! DEFINITION. Memory: homes of lines (09 R180, R181), page tables and what a walk finds (R172 to R179), L1 and the view read buffer (R186, R187), reading and writing physical bytes
(R202 to R204), scratchpad addresses (R174), and the synchronisation sources of 11 R232. -/

namespace Sys2Proof.Machine

/-! ## Fault codes (21 Table 21.8) and access kinds (21 Table 21.7) -/

def fcNotPresent : Nat := 1
def fcBadPte : Nat := 2
def fcPermission : Nat := 3
def fcNonCanonical : Nat := 4
def fcBadFrame : Nat := 5
def fcSpadRange : Nat := 6
def fcViewReadOnly : Nat := 7
def fcViewRange : Nat := 8
def fcViewAtomic : Nat := 9
def fcFarContext : Nat := 10
def fcTensorId : Nat := 11
def fcBadEntry : Nat := 12
def fcShadowRange : Nat := 13
def fcShadowBusy : Nat := 14
def fcBadRing : Nat := 15

/-- A freeze (21 R394): the access is a violation and not performed. -/
def fcFreeze : Nat := 0x22

def accLoad : Nat := 0
def accStore : Nat := 1
def accAtomic : Nat := 2
def accLR : Nat := 3
def accSC : Nat := 4
def accFetch : Nat := 5
def accTensor : Nat := 6
def accRing : Nat := 7
def accStack : Nat := 8
def accEngRead : Nat := 9
def accEngWrite : Nat := 10
def accLand : Nat := 11
def accNone : Nat := 15

/-! ## Homes (09 R180, R181) -/

/-- Local address bits of a physical address (09 R173). -/
def localOf (pa : Nat) : Nat := pa % 2 ^ 42

/-- Device of a physical address (09 R173). -/
def devOf (pa : Nat) : Nat := pa / 2 ^ 42 % 1024

/-- Line number y within the device (09 R180). -/
def lineOf (pa : Nat) : Nat := pa / 128 % 2 ^ 32

/-- The 9-bit c of HomeOf for a line number. -/
def homeC (y : Nat) : Nat := (bits y 8 0) ^^^ (bits y 17 9) ^^^ (bits y 26 18) ^^^ (bits y 31 27)

/-- Where a physical line lives (09 R180): device, base die, LLC slice of the device (64 to a base die), HBM4 stack, pseudo-channel of the
stack, and home L2 slice on each compute die. -/
structure Home where
  dev : Nat
  die : Nat
  llc : Nat
  stack : Nat
  channel : Nat
  l2 : Nat
  deriving DecidableEq, Repr

/-- HomeOf for the line y of a device (09 R180). -/
def homeAt (dev y : Nat) : Home :=
  let c := homeC y
  { dev := dev, die := c / 128, llc := c / 2, stack := c / 64, channel := c % 64, l2 := c % 256 }

/-- HomeOf (09 R180). -/
def homeOf (pa : Nat) : Home := homeAt (devOf pa) (lineOf pa)

/-- The DRAM row of a line: its c and y[31:12] (09 R202). -/
def rowOf (y : Nat) : Nat := y / 4096 * 512 + homeC y

/-- The lines of the row of a line: one for each y[11:9] (09 R202). -/
def rowLines (y : Nat) : List Nat :=
  (List.range 8).map fun j =>
    let hi := y / 4096 * 4096 + j * 512
    hi + (homeC y ^^^ homeC hi)

/-- The first line of a row. -/
def rowFirst (r : Nat) : Nat := r / 512 * 4096 + (homeC (r / 512 * 4096) ^^^ r % 512)

/-- Near slice of a core for a line (09 R181). -/
def nearSlice (core y : Nat) : Nat := 8 * (core % 32) + homeC y % 8

/-- Die of a core (01 R10). -/
def dieOf (core : Nat) : Nat := core / 32

/-! ## Agents and edges (11 R221, R232) -/

/-- The device's own number (23 R428). -/
def State.device (s : State) : Nat := s.locked.device

/-- The agent of a thread or of an engine command it issued (11 R220). -/
def State.agentOf (s : State) (r : Ref) : Agent :=
  match tget s.plots r.tag with
  | some p => { dev := s.device, tract := some p.tract, plot := some r.tag }
  | none => { dev := s.device, tract := none, plot := none }

/-- The front end, the steward, the queue copy engine (11 R220). -/
def State.deviceAgent (s : State) : Agent := { dev := s.device, tract := none, plot := none }

/-- The instance of a scope that contains agent a also contains agent b (11 Table 11.1). -/
def inInstance (a : Agent) (sc : Scope) (b : Agent) : Bool :=
  match sc with
  | .plot => a.plot.isSome && a.dev == b.dev && a.plot == b.plot
  | .tract => a.tract.isSome && a.dev == b.dev && a.tract == b.tract
  | .dev => a.dev == b.dev
  | .sys => true

/-- The inclusion test of 11 R232. -/
def included (src : SyncSrc) (tgt : SyncSrc) : Bool :=
  inInstance src.agent src.scope tgt.agent && inInstance tgt.agent tgt.scope src.agent

/-- Order of the sources of several bytes: distinct ones. -/
def srcsOf (l : List (Option SyncSrc)) : List SyncSrc := (l.filterMap id).eraseDups

/-! ## Physical bytes -/

/-- Bytes at a local address; an unsown row reads 0 (09 R203). -/
def State.readLocal (s : State) (a n : Nat) : List Byte := mreads s.mem a n

/-- The steward's count of reads of unsown rows (09 R203). -/
def State.countUnsown (s : State) (a : Nat) : State :=
  if s.sown.contains (rowOf (lineOf a)) then s else { s with unsownReads := s.unsownReads + 1 }

/-- Insert into a rising list of numbers. -/
def insertNat : List Nat → Nat → List Nat
  | [], x => [x]
  | y :: t, x => if x = y then y :: t else if x < y then x :: y :: t else y :: insertNat t x

/-- The key version a write encrypts under (23 R434): KEYV of the page when its slot is live, else CURV. -/
def State.keyFor (s : State) (keyv : Option Nat) : Nat :=
  match keyv with
  | some v => if s.keySlots.getD v .empty = .live then v else s.curv
  | none => s.curv

/-- Record the key version of a written line; a row that is unsown is sown whole (09 R203, 23 R433). -/
def State.sowRow (s : State) (y : Nat) (keyv : Option Nat) : State :=
  let k := s.keyFor keyv
  if s.sown.contains (rowOf y) then { s with lineKey := tput s.lineKey y k }
  else { s with sown := insertNat s.sown (rowOf y), lineKey := (rowLines y).foldl (fun t l => tput t l k) s.lineKey }

/-- Reservations that a write to bytes a .. a+n-1 takes away (09 R198): those of every agent but the thread of this device that writes;
an engine command, a peer and the host are none. -/
def State.dropReservations (s : State) (by' : Option Ref) (a n : Nat) : State :=
  { s with reservations := s.reservations.filter fun v =>
      (v.peer.isNone && decide (some v.ref = by')) || decide (a + n ≤ v.pa / 32 * 32) || decide (v.pa / 32 * 32 + 32 ≤ a) }

/-- A write to bytes a .. a+n-1 is performed: the WAITWs on their sectors look again (13 R283). -/
def State.hitWatches (s : State) (a n : Nat) : State :=
  { s with watches := s.watches.map fun w =>
      if w.sector * 32 < a + n ∧ a < w.sector * 32 + 32 then { w with hit := true } else w }

/-- Set or clear the synchronisation source of written bytes (11 R232). -/
def tagBytes (t : Tab SyncSrc) (a n : Nat) (src : Option SyncSrc) : Tab SyncSrc :=
  (List.range n).foldl (fun t i => match src with | some x => tput t (a + i) x | none => tdel t (a + i)) t

/-- Write bytes at a local address (09 R197, R203): the row is sown, reservations of other agents on the sectors are
lost, the bytes take the source of the write, and a write of a whole line clears its poison (23 R436). -/
def State.writeLocal (s : State) (by' : Option Ref) (a : Nat) (l : List Byte) (keyv : Option Nat) (src : Option SyncSrc) : State :=
  let n := l.length
  if n = 0 then s
  else
    let y0 := lineOf a
    let y1 := lineOf (a + n - 1)
    let s1 := (s.sowRow y0 keyv)
    let s2 := if y0 = y1 then s1 else s1.sowRow y1 keyv
    let s3 := (s2.dropReservations by' a n).hitWatches a n
    { s3 with
      mem := mwrites s3.mem a l
      relTags := tagBytes s3.relTags a n src
      poison := if a % 128 = 0 ∧ n = 128 then s3.poison.filter (fun y => y != y0) else s3.poison }

/-! ## L1 and the view read buffer (09 R186, R187) -/

/-- Invalidate every L1 line of a core. -/
def State.dropL1 (s : State) (c : Nat) : State := s.modCore c fun k => { k with l1 := [] }

/-- Invalidate the view read buffer of a core. -/
def State.dropVbuf (s : State) (c : Nat) : State := s.modCore c fun k => { k with vbuf := [], vbufAt := s.freeCtr }

/-- Invalidate every view read buffer of the device. -/
def State.dropAllVbuf (s : State) : State := { s with cores := s.cores.map fun (c, k) => (c, { k with vbuf := [], vbufAt := s.freeCtr }) }

/-- What an acquire of a scope invalidates (09 R186, R187). -/
def State.acquireCaches (s : State) (c : Nat) (sc : Scope) : State :=
  let s1 := s.dropVbuf c
  if sc = .plot then s1 else s1.dropL1 c

/-- Drop one line of a core's L1. -/
def State.dropL1Line (s : State) (c pa : Nat) : State :=
  s.modCore c fun k => { k with l1 := k.l1.filter fun x => x.addr != pa / 128 * 128 }

/-- Update the bytes an L1 line holds when a store of the core writes through (09 R186). -/
def State.updateL1 (s : State) (c pa : Nat) (l : List Byte) (src : Option SyncSrc) : State :=
  s.modCore c fun k =>
    { k with l1 := k.l1.map fun x =>
        if x.addr = pa / 128 * 128 then
          { x with
            bytes := x.bytes.take (pa % 128) ++ l ++ x.bytes.drop (pa % 128 + l.length)
            tags := tagBytes x.tags (pa % 128) l.length src }
        else x }

/-- Lines of an L1 (01 Table 1.2): 512 KiB. -/
def l1Lines : Nat := 4096

/-- Lines of an instruction cache (01 Table 1.2): 256 KiB. -/
def icacheLines : Nat := 2048

/-- The line of an address that a cache holds. -/
def l1Find : List L1Line → Nat → Option L1Line
  | [], _ => none
  | x :: t, a => if x.addr = a then some x else l1Find t a

/-- Bytes of a held line from an offset, and their sources. -/
def L1Line.part (x : L1Line) (off n : Nat) : List Byte := (x.bytes.drop off).take n
def L1Line.partTags (x : L1Line) (off n : Nat) : List SyncSrc := srcsOf ((List.range n).map fun i => tget x.tags (off + i))

/-- The sources of a line's bytes, by offset. -/
def lineTags (t : Tab SyncSrc) (a : Nat) : Tab SyncSrc :=
  (List.range 128).filterMap fun i => (tget t (a + i)).map fun x => (i, x)

/-- A line as memory holds it now. -/
def State.lineNow (s : State) (ctx pa : Nat) : L1Line :=
  let line := pa / 128 * 128
  { ctx := ctx, addr := line, bytes := s.readLocal (localOf line) 128, tags := lineTags s.relTags (localOf line) }

/-! ## Page tables (09 R175 to R178) -/

/-- Bits of a PTE (09 Table 9.3). -/
def pteV (p : Nat) : Bool := bit p 0
def pteW (p : Nat) : Bool := bit p 1
def pteX (p : Nat) : Bool := bit p 2
def pteLeaf (p : Nat) : Bool := bit p 3
def pteC (p : Nat) : Bool := bit p 4
def pteHome (p : Nat) : Nat := bits p 6 5
def pteFarat (p : Nat) : Bool := bit p 7
def pteView (p : Nat) : Bool := bit p 8
def ptePriv (p : Nat) : Bool := bit p 9
def pteShd (p : Nat) : Bool := bit p 10
def pteFrame (p : Nat) : Nat := bits p 51 12
def pteOwn (p : Nat) : Nat := bits p 58 52
def pteKeyv (p : Nat) : Nat := bits p 61 59

/-- PTE with PRIV, OWN, SHD replaced (09 R178). -/
def pteMark (p : Nat) (priv shd : Bool) (own : Nat) : Nat :=
  p % 2 ^ 9 + priv.toNat * 2 ^ 9 + shd.toNat * 2 ^ 10 + bits p 51 11 * 2 ^ 11 + own % 128 * 2 ^ 52 + p / 2 ^ 59 * 2 ^ 59

/-- Index of a virtual address at a level (09 Table 9.2). -/
def vaIndex (va lvl : Nat) : Nat := if lvl = 3 then bits va 51 39 else bits va (12 + 9 * lvl + 8) (12 + 9 * lvl)

/-- Page size of a leaf at a level (09 Table 9.2). -/
def leafSize (lvl : Nat) : Nat := 2 ^ (12 + 9 * lvl)

/-- The 64-bit word at a physical address on this device; a table elsewhere reads as not present (log 8). -/
def State.pteAt (s : State) (pa : Nat) : Nat :=
  if devOf pa = s.device ∧ localOf pa < 2 ^ 39 then leNat (s.readLocal (localOf pa) 8) else 0

/-- Checks of an entry at a level (09 R176, R177); none where it is sound. -/
def pteBad (p lvl : Nat) : Bool :=
  if !pteLeaf p then
    -- non-leaf: only V and NEXT, and not at level 0
    lvl == 0 || p / 2 ^ 52 != 0 || bits p 11 1 != 0
  else
    lvl == 3 || bits p 63 62 != 0 || bit p 11 ||
    (pteFarat p && pteHome p != 3) ||
    (pteShd p && pteHome p != 0) ||
    (pteView p && (pteX p || pteHome p != 0)) ||
    (pteC p && (lvl != 0 || pteView p)) ||
    (!pteView p && lvl == 2 && bits p 29 12 != 0) ||
    (!pteView p && lvl == 1 && bits p 20 12 != 0)

/-- A 64 KiB run is sound (09 R175, R177): 16 entries alike, frames rising by one page, the first a multiple of 16. -/
def State.runOk (s : State) (base : Nat) : Bool :=
  let p0 := s.pteAt base
  pteFrame p0 % 16 == 0 &&
  (List.range 16).all fun i => s.pteAt (base + 8 * i) == p0 + i * 4096

/-- The entries that a walk reads, each with how many (09 R175): one at each level, and the sixteen of a 64 KiB run. -/
def State.walkReads (s : State) (va : Nat) : Nat → Nat → List Nat
  | lvl, table =>
    let a := table + 8 * vaIndex va lvl
    let p := s.pteAt a
    if !pteV p || pteBad p lvl then [a]
    else if pteLeaf p then
      a :: (if pteC p then (List.range 16).map fun i => a - 8 * (vaIndex va lvl % 16) + 8 * i else [])
    else match lvl with
      | 0 => [a]
      | l + 1 => a :: s.walkReads va l (pteFrame p * 4096)

/-- Count the reads of unsown rows among the entries a walk reads (09 R203). -/
def State.countWalk (s : State) (l : List Nat) : State := l.foldl (fun s a => if devOf a = s.device then s.countUnsown (localOf a) else s) s

/-- What a walk finds. -/
inductive Walk where
  | bad (code : Nat)
  | leaf (pte lvl pteAddr : Nat)
  deriving DecidableEq, Repr

/-- The four-level walk (09 R175, R177). -/
def State.walkFrom (s : State) (va : Nat) : Nat → Nat → Walk
  | lvl, table =>
    let a := table + 8 * vaIndex va lvl
    let p := s.pteAt a
    if !pteV p then .bad fcNotPresent
    else if pteBad p lvl then .bad fcBadPte
    else if pteLeaf p then
      (if pteC p ∧ !s.runOk (a - 8 * (vaIndex va lvl % 16)) then .bad fcBadPte else .leaf p lvl a)
    else match lvl with
      | 0 => .bad fcBadPte
      | l + 1 => s.walkFrom va l (pteFrame p * 4096)

/-- The walk of a virtual address in a context; a context that is not registered here is a far context (09 R212). -/
def State.walk (s : State) (ctx va : Nat) : Walk :=
  match tget s.ctxs ctx with
  | none => .bad fcFarContext
  | some c => if 2 ^ 52 ≤ va then .bad fcNonCanonical else s.walkFrom va 3 c.root

/-- The entries that hold one leaf: all 16 of a 64 KiB run (log 8). -/
def leafEntries (p va lvl a : Nat) : List Nat :=
  if pteC p then (List.range 16).map fun i => a - 8 * (vaIndex va lvl % 16) + 8 * i else [a]

/-- The translation a leaf gives (09 R179). -/
def tbOf (ctx va p lvl : Nat) : TbEntry :=
  let size := if pteC p then 65536 else leafSize lvl
  let vbase := va / size * size
  -- the frame of the first page of the run or leaf
  let frame := if pteC p then pteFrame p * 4096 - (va / 4096 % 16) * 4096 else pteFrame p * 4096
  { ctx := ctx, vbase := vbase, size := size, frame := frame, tid := bits (pteFrame p) 39 28, vpage := bits (pteFrame p) 27 0,
    w := pteW p, x := pteX p, view := pteView p, farat := pteFarat p, home := pteHome p, own := pteOwn p, priv := ptePriv p,
    keyv := pteKeyv p }

/-- Put a translation into a core's buffer of 4,096 entries, oldest out (09 R179, log 8). -/
def State.fillTb (s : State) (core : Nat) (e : TbEntry) : State :=
  if 128 ≤ core then s else s.modCore core fun k => { k with tb := (e :: k.tb).take 4096 }

/-- Invalidate a page's translation in a core's buffer. -/
def State.dropTb (s : State) (core ctx va : Nat) : State :=
  s.modCore core fun k => { k with tb := k.tb.filter fun e => !(e.ctx == ctx && decide (e.vbase ≤ va) && decide (va < e.vbase + e.size)) }

/-- A buffered translation. -/
def tbFind : List TbEntry → Nat → Nat → Option TbEntry
  | [], _, _ => none
  | e :: t, ctx, va => if e.ctx = ctx ∧ e.vbase ≤ va ∧ va < e.vbase + e.size then some e else tbFind t ctx va

/-- Accesses that need W (09 R176). -/
def accWrites (acc : Nat) : Bool := acc == accStore || acc == accAtomic || acc == accSC || acc == accEngWrite

/-- Physical address of a virtual address under a translation. -/
def TbEntry.pa (e : TbEntry) (va : Nat) : Nat := e.frame + (va - e.vbase)

/-- A physical address is reached over the Igmel link (23 R417). -/
def State.isHost (s : State) (pa : Nat) : Bool := devOf pa == s.locked.hostDev && devOf pa != s.device

/-- The frame bound of an access (09 R173), which does not hold for the host (23 R417). -/
def State.frameIn (s : State) (pa n : Nat) : Bool := s.isHost pa || decide (localOf pa + n ≤ 2 ^ 39)

/-- A line of this device is poisoned (23 R436). -/
def State.poisonAt (s : State) (pa : Nat) : Bool := devOf pa == s.device && !s.isHost pa && s.poison.contains (lineOf pa)

/-- Frame check of an access (09 R173), poison of this device's lines (23 R436). -/
def State.frameOk (s : State) (pa n : Nat) : Bool := s.frameIn pa n && !s.poisonAt pa

/-- The offset in a pin area at which a physical address stands, where its page is there (09 R183). -/
def pinPlace : Tab PinPage → Nat → Option Nat
  | [], _ => none
  | (off, x) :: t, pa => if x.frame ≤ pa ∧ pa < x.frame + x.size then some (off + (pa - x.frame)) else pinPlace t pa

/-- Where the bytes of an access are (09 Table 9.4): the pin area of core OWN with the offset, or device memory with the local address;
a HOME 01 page that no pin change installed is in its frame (log 50). -/
def State.placeOf (s : State) (e : TbEntry) (pa : Nat) : Option Nat × Nat :=
  match (if e.home = 1 then pinPlace (s.core e.own).pinPages pa else none) with
  | some off => (some e.own, off)
  | none => (none, localOf pa)

/-- The number under which the sources and reservations of a byte are kept: device memory, then the pin areas. -/
def placeKey : Option Nat × Nat → Nat
  | (none, a) => a
  | (some c, a) => 2 ^ 42 + c * 2 ^ 20 + a

/-- An access leaves this device: its frame is on another device or the host, and no core here holds the page. -/
def State.away (s : State) (e : TbEntry) (pa : Nat) : Bool := devOf pa != s.device && (s.placeOf e pa).1.isNone

/-! ## Scratchpad (09 R174) -/

/-- Where a scratchpad address lies: the plot's tag and the byte offset, or the scratchpad-range fault. -/
def State.spadAt (s : State) (tag : Nat) (addr : Nat) (n : Nat) : Except Nat (Nat × Nat) :=
  match tget s.plots tag with
  | none => .error fcSpadRange
  | some p =>
    let cl := bit addr 31
    let idx := bits addr 25 23
    let off := bits addr 22 0
    if bits addr 30 26 ≠ 0 then .error fcSpadRange
    else if !cl then (if idx ≠ 0 ∨ p.spadLen < off + n then .error fcSpadRange else .ok (tag, off))
    else
      match s.plots.find? (fun (_, q) => q.tract == p.tract && q.index == idx) with
      | none => .error fcSpadRange
      | some (t, q) => if q.spadLen < off + n then .error fcSpadRange else .ok (t, off)

/-- Bytes of a plot's scratchpad. -/
def State.spadRead (s : State) (tag off n : Nat) : List Byte :=
  match tget s.plots tag with
  | some p => mreads p.spad off n
  | none => List.replicate n 0

/-- Write bytes of a plot's scratchpad, with their synchronisation source. -/
def State.spadPut (s : State) (tag off : Nat) (l : List Byte) (src : Option SyncSrc) : State :=
  s.modPlot tag fun p => { p with spad := mwrites p.spad off l, relTags := tagBytes p.relTags off l.length src }

/-- Sources of the scratchpad bytes read. -/
def State.spadTags (s : State) (tag off n : Nat) : List SyncSrc :=
  match tget s.plots tag with
  | some p => srcsOf ((List.range n).map fun i => tget p.relTags (off + i))
  | none => []

/-- Sources of the memory bytes read. -/
def State.memTags (s : State) (a n : Nat) : List SyncSrc := srcsOf ((List.range n).map fun i => tget s.relTags (a + i))

/-! ## Synchronisation of a thread (11 R232, R237) -/

/-- The class of a request; one that joins the stream of its own device counts for every class (11 R229). -/
def classesOf (rc : RC) (own : Bool) : Classes :=
  if own then ⟨true, true, true⟩ else
  match rc with
  | .o => ⟨true, false, false⟩
  | .a => ⟨false, true, false⟩
  | .s => ⟨false, false, true⟩

/-- A request joins the ordered stream of its own device whatever its class: its home device is this device and its home
base die is the core's die (11 R228). -/
def State.ownStream (s : State) (core pa : Nat) : Bool := devOf pa == s.device && (homeOf pa).die == dieOf core

/-- The source of a write (11 R232): itself when it is a release, else the latest FENCE whose mask has its class. -/
def State.srcOf (s : State) (r : Ref) (t : Thread) (rel : Bool) (sc : Scope) (c : Classes) : Option SyncSrc :=
  let mk := fun (x : Scope) => ({ agent := s.agentOf r, scope := x } : SyncSrc)
  if rel then some (mk sc)
  else if c.o && c.a && c.s then t.fenceL.map mk
  else if c.o then t.fenceO.map mk
  else if c.a then t.fenceA.map mk
  else t.fenceS.map mk

/-- An acquire of a thread observes sources: one that fails the inclusion test sets SCOPEX (11 R237). -/
def State.observe (s : State) (r : Ref) (sc : Scope) (l : List SyncSrc) : State :=
  let tgt : SyncSrc := { agent := s.agentOf r, scope := sc }
  if l.all fun x => included x tgt then s else s.modThread r fun t => t.orStat scopexBit

/-- A relaxed read of writes with a source is kept for the next FENCE of its class (11 R232). -/
def State.remember (s : State) (r : Ref) (c : Classes) (l : List SyncSrc) : State :=
  if l.isEmpty then s
  else s.modThread r fun t => { t with seen := (t.seen ++ l.map fun x => SeenSrc.mk x c.o c.a c.s).eraseDups }

/-- What a read of a thread does with the sources it meets. -/
def State.readSync (s : State) (r : Ref) (acq : Bool) (sc : Scope) (c : Classes) (l : List SyncSrc) : State :=
  if acq then s.observe r sc l else s.remember r c l

/-- A kept read has a class of a mask. -/
def SeenSrc.inMask (x : SeenSrc) (m : Classes) : Bool := (x.clsO && m.o) || (x.clsA && m.a) || (x.clsS && m.s)

/-- A FENCE stands in its thread's program: it is the source of later writes of its classes (11 R232). -/
def Thread.fenceMark (t : Thread) (sc : Scope) (m : Classes) : Thread :=
  { t with
    fenceO := if m.o then some sc else t.fenceO
    fenceA := if m.a then some sc else t.fenceA
    fenceS := if m.s then some sc else t.fenceS
    fenceL := some sc }

/-- A FENCE completes (11 R232, R236, R237): it is the target of the kept reads of its classes, and invalidates as an acquire of its scope does. -/
def State.fenceDone (s : State) (r : Ref) (sc : Scope) (m : Classes) : State :=
  match s.thread? r with
  | none => s
  | some t =>
    let l := (t.seen.filter fun x => x.inMask m).map fun x => x.src
    ((s.observe r sc l).modThread r fun t => { t with seen := t.seen.filter fun x => !x.inMask m }).acquireCaches (s.coreOf r) sc

end Sys2Proof.Machine
end

