-- ==== Sys2Proof/Machine/Caches.lean ====
section
/-! DEFINITION. What the caches behind L1 hold: the LLC with its physical lines and pinned lines (09 R184, R189 to R193), the line
directories (R197), L2 and the region directories (R188, R195, R196). Values stand in memory; these are the tags, the dirty marks and
the directories. -/

namespace Sys2Proof.Machine

/-! ## The LLC (09 R189 to R191) -/

/-- Physical lines of a set of the LLC, and sets of a slice of 12 MiB (01 Table 1.1; log 15). -/
def llcWays : Nat := 16
def llcSets : Nat := 3072

/-- The set of a line, with its slice (09 R180; log 15). -/
def llcSet (y : Nat) : Nat := (y / 512 * 2 + homeC y % 2) % llcSets * 256 + (homeAt 0 y).llc

/-- The lines of one physical line of a set. -/
def llcAt (llc : Tab LlcLine) (set phys : Nat) : Tab LlcLine := llc.filter fun (k, e) => e.phys == phys && llcSet k == set

/-- Sectors that lines use. -/
def llcSectors (l : Tab LlcLine) : Nat := l.foldl (fun n x => n + x.2.sectors) 0

/-- A line that its slice does not evict: a HOME = 10 page or a window pins it (09 R184, R193). -/
def LlcLine.held (x : LlcLine) : Bool := x.pinned || !x.win.isEmpty

/-- The line used least recently, pinned ones and line y aside. -/
def llcVictim (y : Nat) : Tab LlcLine → Option (Nat × Nat)
  | [] => none
  | (k, e) :: t =>
    let v := llcVictim y t
    if k = y ∨ e.held then v
    else match v with
      | some (k', u) => if e.used < u then some (k, e.used) else some (k', u)
      | none => some (k, e.used)

/-- Evict other lines of a physical line, least recently used first, until line y and what stays use at most 8 sectors and four tags
(09 R190). A dirty line goes to HBM, where its bytes already stand. -/
def llcFit (set phys y : Nat) : Nat → Tab LlcLine → Tab LlcLine
  | 0, llc => llc
  | n + 1, llc =>
    let here := llcAt llc set phys
    if llcSectors here ≤ 8 ∧ here.length ≤ 4 then llc
    else match llcVictim y here with
      | some (v, _) => llcFit set phys y n (tdel llc v)
      | none => llc

/-- A physical line has room for a line of n sectors. -/
def llcRoom (llc : Tab LlcLine) (set n phys : Nat) : Bool :=
  let here := llcAt llc set phys
  decide (llcSectors here + n ≤ 8) && decide (here.length < 4)

/-- A physical line can make room for a line of n sectors: its pinned lines leave it. -/
def llcCanMake (llc : Tab LlcLine) (set n phys : Nat) : Bool :=
  let pins := (llcAt llc set phys).filter fun (_, e) => e.held
  decide (llcSectors pins + n ≤ 8) && decide (pins.length < 4)

/-- When a physical line was last used. -/
def llcLast (llc : Tab LlcLine) (set phys : Nat) : Nat := (llcAt llc set phys).foldl (fun n x => max n x.2.used) 0

/-- The physical line of a list that was used least recently. -/
def llcOldest (llc : Tab LlcLine) (set : Nat) : List Nat → Option Nat
  | [] => none
  | p :: t => match llcOldest llc set t with
    | some q => if llcLast llc set p ≤ llcLast llc set q then some p else some q
    | none => some p

/-- The physical line that a fill goes to: one of its set with room, else the one used least recently (09 R191). None where pinned
lines leave no room in the set. -/
def llcPlace (llc : Tab LlcLine) (set n : Nat) : Option Nat :=
  match (List.range llcWays).find? (llcRoom llc set n) with
  | some p => some p
  | none => llcOldest llc set ((List.range llcWays).filter (llcCanMake llc set n))

/-- The windows of a context that pin an address (09 R193). -/
def Ctx.pins (c : Ctx) (va : Nat) : List Nat :=
  (List.range 16).filter fun n =>
    let base := (c.lpwb.getD n 0).toNat * 2 ^ 20
    let w := (c.lpwc.getD n 0).toNat
    decide (bits w 31 24 ≠ 0) && decide (base ≤ va) && decide (va < base + bits w 19 0 * 2 ^ 20)

/-- The windows of an access: those of its context, on a HOME 00 page. -/
def State.windowsOf (s : State) (e : TbEntry) (va : Nat) : List Nat :=
  match tget s.ctxs e.ctx with
  | some c => if e.home = 0 then c.pins va else []
  | none => []

/-- An access hits a line that windows pin: each of them counts the hit, whoever makes the access (09 R193). -/
def State.countHits (s : State) (y : Nat) : State :=
  match tget s.llc y with
  | some x => x.win.foldl (fun s w => s.modCtx w.1 fun c => { c with lpwHit := c.lpwHit.set w.2 true }) s
  | none => s

/-- A slice has room for one more pinned line: 6 MiB (09 R184). -/
def State.pinRoom (s : State) (y : Nat) : Bool :=
  decide ((s.llc.filter fun (k, x) => x.held && (homeAt 0 k).llc == (homeAt 0 y).llc).length < 49152)

/-- The LLC after a hit on a line, in n sectors when it is written. -/
def llcHit (llc : Tab LlcLine) (y : Nat) (x : LlcLine) (write : Bool) (use n : Nat) : Tab LlcLine :=
  let x' := { x with dirty := x.dirty || write, used := use, sectors := if write && !x.held then n else x.sectors }
  llcFit (llcSet y) x.phys y 4 (tput llc y x')

/-- The LLC after a line has been filled, in a set where it finds a place. -/
def llcFill (llc : Tab LlcLine) (y : Nat) (x : LlcLine) : Tab LlcLine :=
  match llcPlace llc (llcSet y) x.sectors with
  | none => llc
  | some p => llcFit (llcSet y) p y 4 (tput llc y { x with phys := p })

/-- A line that the slice holds is not pinned yet and an access of a HOME = 10 page reaches it: it can be pinned from here on, where the bound and its set have
room (09 R184). -/
def State.canPin (s : State) (e : TbEntry) (y : Nat) (x : LlcLine) : Bool :=
  e.home == 2 && !x.pinned && (x.held || s.pinRoom y) && (llcPlace (tdel s.llc y) (llcSet y) 4).isSome

/-- The LLC after an access to a line: a hit, or a fill, which the armed windows of the access pin (09 R184, R189 to R193). -/
def State.llcAfter (s : State) (e : TbEntry) (va y : Nat) (write : Bool) (use n : Nat) : Tab LlcLine :=
  match tget s.llc y with
  | some x =>
    if s.canPin e y x then llcFill (tdel s.llc y) y { x with pinned := true, sectors := 4, dirty := x.dirty || write, used := use }
    else llcHit s.llc y x write use n
  | none =>
    let room := s.pinRoom y
    let pin := e.home == 2 && room
    let wins := if room then (s.windowsOf e va).map fun w => (e.ctx, w) else []
    llcFill s.llc y { phys := 0, sectors := if pin || !wins.isEmpty then 4 else n, dirty := write, pinned := pin, used := use, win := wins }

/-- An access reaches the home LLC slice of its line: a hit on a pinned line is noted (R193); the sectors that a line needs are free (log 15). -/
def State.touchLlc (s : State) (e : TbEntry) (va y : Nat) (write : Bool) : State :=
  let (k, s1) := (s.countHits y).draw
  { s1 with llc := s1.llcAfter e va y write k (Config.sectors k % 4 + 1) }

/-- Dirty sectors of a line come back to its home LLC slice: a write that may grow it there (09 R190); a line that the slice no longer holds goes on to HBM,
where its bytes already stand (log 15). -/
def State.writeBack (s : State) (y : Nat) : State :=
  match tget s.llc y with
  | some x => let (k, s1) := s.draw; { s1 with llc := llcHit s1.llc y x true k (Config.sectors k % 4 + 1) }
  | none => s

/-! ## L2 and the line directory (09 R188, R197) -/

/-- The line directory entry without a die or a holder is none. -/
def State.putDir (s : State) (y : Nat) (d : DirEntry) : State :=
  { s with lineDir := if d.dies = 0 ∧ d.remotes = [] ∧ !d.broadcast ∧ d.dirty = none then tdel s.lineDir y else tput s.lineDir y d }

/-- A die's L2 no longer holds a line: its bit leaves the line directory (09 R197). -/
def State.leaveDir (s : State) (y die : Nat) : State :=
  match tget s.lineDir y with
  | some d => s.putDir y { d with dies := d.dies &&& ~~~(1#4 <<< die) }
  | none => s

/-- A remote holder has the only dirty copy of a line (23 R415). -/
def State.farDirty (s : State) (y : Nat) : Bool := match tget s.lineDir y with | some d => d.dirty.isSome | none => false

/-- Dirty copies of a line come back to their home LLC slice, from the L2s and from a remote holder (09 R197). -/
def State.recall (s : State) (y : Nat) : State :=
  if s.farDirty y || s.l2.any fun (k, x) => k / 4 == y && x.dirty != 0 then
    ({ s with
      l2 := s.l2.map fun (k, (x : L2Line)) => if k / 4 = y then (k, { x with dirty := 0 }) else (k, x)
      lineDir := tmod s.lineDir y fun d => { d with dirty := none } } : State).writeBack y
  else s

/-- Every copy of a line outside its home LLC slice is invalidated, a dirty one written back first (09 R197). -/
def State.dropCopies (s : State) (y : Nat) : State :=
  let s1 := s.recall y
  { s1 with l2 := s1.l2.filter fun (k, _) => k / 4 != y, lineDir := tdel s1.lineDir y }

/-- The L2 of a die holds a line: what was filled and not invalidated may have been evicted meanwhile, a dirty line going home (log 7). -/
def State.l2Holds (s : State) (y die : Nat) : State × Bool :=
  match tget s.l2 (y * 4 + die) with
  | none => (s, false)
  | some x =>
    let (k, s1) := s.draw
    if Config.lineKept k then (s1, true)
    else
      let s2 := if x.dirty = 0 then s1 else s1.writeBack y
      ({ s2 with l2 := tdel s2.l2 (y * 4 + die) }, false)

/-- An access is performed at an L2 slice of a die (09 Table 9.4, R188, R197): it hits there or goes by the LLC; a write leaves the one copy, dirty in its
sectors; a read recalls dirty copies and adds one. -/
def State.touchL2 (s : State) (e : TbEntry) (va y die slice : Nat) (write : Bool) (mask : BitVec 4) : State :=
  let key := y * 4 + die
  let (s1, hit) := s.l2Holds y die
  let s2 := if hit then s1 else s1.touchLlc e va y false
  let old := (tget s2.l2 key).getD { slice := slice, dirty := 0 }
  let me : BitVec 4 := if die = (homeAt 0 y).die then 0 else 1#4 <<< die
  if write then
    let s3 := { s2 with l2 := tdel s2.l2 key }.dropCopies y
    { s3 with l2 := tput s3.l2 key { slice := slice, dirty := old.dirty ||| mask } }.putDir y { dies := me, remotes := [], broadcast := false, dirty := none }
  else
    let s3 := { s2 with l2 := tdel s2.l2 key }.recall y
    let d := (tget s3.lineDir y).getD { dies := 0, remotes := [], broadcast := false, dirty := none }
    { s3 with l2 := tput s3.l2 key { old with slice := slice } }.putDir y { d with dies := d.dies ||| me }

/-- Sectors of a line that bytes a .. a+n-1 touch. -/
def sectorMask (a n : Nat) : BitVec 4 :=
  (List.range 4).foldl (fun m i => if i * 32 < a % 128 + n ∧ a % 128 < i * 32 + 32 then m ||| (1#4 <<< i) else m) 0

/-! ## Region directories (09 R195, R196) -/

/-- The key of an entry of the directory of a home L2 slice on a die, by the region's first line. -/
def regionKey (die y first : Nat) : Nat := (first * 256 + (homeAt 0 y).l2) * 4 + die

/-- First line, home L2 slice and die of a key. -/
def keyFirst (k : Nat) : Nat := k / 1024
def keySlice (k : Nat) : Nat := k / 4 % 256
def keyDie (k : Nat) : Nat := k % 4

/-- The entry covering a line on a die, with its key: regions of 512 lines down to 1. -/
def State.regionOf (s : State) (die y : Nat) : Option (Nat × Region) :=
  let hit := fun (g : Nat) =>
    let k := regionKey die y (y / g * g)
    match tget s.regionDir k with
    | some e => if e.lines = g then some (k, e) else none
    | none => none
  [512, 256, 128, 64, 32, 16, 8, 4, 2, 1].findSome? hit

/-- The current slice of a shared line on a die (09 R188, R195). -/
def State.currentSlice (s : State) (die y : Nat) : Nat :=
  match s.regionOf die y with
  | some (_, e) => e.slice
  | none => (homeAt 0 y).l2

/-- A line belongs to a region entry. -/
def inRegion (k : Nat) (e : Region) (y : Nat) : Bool :=
  decide (keyFirst k ≤ y) && decide (y < keyFirst k + e.lines) && (homeAt 0 y).l2 == keySlice k

/-- The lines of a region on its die stand at a slice (09 R196). -/
def State.moveRegion (s : State) (k : Nat) (e : Region) (slice : Nat) : State :=
  { s with l2 := s.l2.map fun (q, (x : L2Line)) =>
      if inRegion k e (q / 4) ∧ q % 4 = keyDie k ∧ x.slice = e.slice then (q, { x with slice := slice }) else (q, x) }

/-- The oldest entry of a list of entries. -/
def oldestRegion : Tab Region → Option (Nat × Region)
  | [] => none
  | (k, e) :: t => match oldestRegion t with
    | none => some (k, e)
    | some (k', e') => if e.made ≤ e'.made then some (k, e) else some (k', e')

/-- Room for a new entry in the directory that holds key k (09 Table 9.7): with its 4,096 entries in use, the oldest one's region goes back to its
home slice, and its entry is freed. -/
def State.regionRoom (s : State) (k : Nat) : State :=
  let mine := s.regionDir.filter fun (q, _) => q % 1024 == k % 1024
  if mine.length < 4096 then s
  else match oldestRegion mine with
    | some (q, e) => let s1 := s.moveRegion q e (keySlice q); { s1 with regionDir := tdel s1.regionDir q }
    | none => s

/-- No entry of the directory of a line on a die overlaps the region of g lines around it. -/
def State.regionFree (s : State) (die y g : Nat) : Bool :=
  let f := y / g * g
  s.regionDir.all fun (q, (e : Region)) => q % 1024 != regionKey die y f % 1024 || decide (keyFirst q + e.lines ≤ f) || decide (f + g ≤ keyFirst q)

/-- The lines of a new entry: 64 KiB, or the largest half of a half of it that overlaps no other entry (log 64). -/
def State.regionSize (s : State) (die y : Nat) : Nat := ([512, 256, 128, 64, 32, 16, 8, 4, 2].find? (s.regionFree die y)).getD 1

/-- Count a core's access in the region's window; a new entry starts at the home slice (09 R195). -/
def State.countRegion (s : State) (core die y : Nat) : State :=
  match s.regionOf die y with
  | some (k, e) =>
    let e' := { e with counts := tput e.counts core ((tget e.counts core).getD 0 + 1), last := s.cycle }
    { s with regionDir := tput s.regionDir k e' }
  | none =>
    let (id, s1) := (s.regionRoom (regionKey die y y)).draw
    let g := s1.regionSize die y
    let e : Region :=
      { lines := g, slice := (homeAt 0 y).l2, counts := [(core, 1)], start := s.cycle, last := s.cycle, since := s.cycle, made := id, pending := none }
    { s1 with regionDir := tput s1.regionDir (regionKey die y (y / g * g)) e }

/-! ## An access reaches its place (09 Table 9.4) -/

/-- A page is still the private one of the core that a translation names: the directory has not made it shared since (09 R194). -/
def State.stillOwn (s : State) (e : TbEntry) (va : Nat) : Bool :=
  e.priv && match s.walk e.ctx va with
    | .leaf p _ _ => ptePriv p && pteOwn p == e.own
    | .bad _ => true

/-- Touch the tags of the caches on the path of an access (09 Table 9.4, R197): sync says that it is an atomic, LR or SC, which on a shared page is
performed on the home die. Agents of no core go to the home LLC slice. -/
def State.touchCaches (s : State) (core : Nat) (e : TbEntry) (va pa n : Nat) (write sync : Bool) : State :=
  let y := lineOf pa
  if e.farat then
    if write then let s1 := s.dropCopies y; { s1 with llc := s1.llc.filter fun (k, x) => k != y || x.held } else s.recall y
  else if e.home ≠ 0 ∨ 128 ≤ core then (if write then s.dropCopies y else s.recall y).touchLlc e va y write
  else
    let priv := s.stillOwn e va
    let die := if priv then dieOf e.own % 4 else if sync then (homeOf pa).die else dieOf core % 4
    let slice := if priv then nearSlice e.own y else s.currentSlice die y
    let s1 := s.touchL2 e va y die slice write (if write then sectorMask pa n else 0)
    if priv then s1 else s1.countRegion core die y

/-- The pinned-window hits of contexts as they stand in another table. -/
def hitsOf (l m : Tab Ctx) : Tab Ctx := l.map fun (k, (c : Ctx)) => (k, { c with lpwHit := ((tget m k).map Ctx.lpwHit).getD c.lpwHit })

/-- An access is performed: the caches, the directories and the hits of the pinned windows are all that it changes. -/
def State.touch (s : State) (core : Nat) (e : TbEntry) (va pa n : Nat) (write sync : Bool) : State :=
  let t := s.touchCaches core e va pa n write sync
  { s with l2 := t.l2, llc := t.llc, lineDir := t.lineDir, regionDir := t.regionDir, ctxs := hitsOf s.ctxs t.ctxs, freeCtr := t.freeCtr }

/-- The place of an access without a PTE: HOME 00, PRIV 0, encrypted under CURV (23 R418, R434); it belongs to no context and has
no pinned window. -/
def physEntry : TbEntry :=
  { ctx := 65536, vbase := 0, size := 4096, frame := 0, tid := 0, vpage := 0, w := true, x := false, view := false, farat := false,
    home := 0, own := 0, priv := false, keyv := 8 }

/-- The same on this device. -/
def State.physAt (s : State) : TbEntry := { physEntry with frame := s.device * 2 ^ 42 }

end Sys2Proof.Machine
end

