-- ==== Sys2Proof/Machine/Translate.lean ====
section
/-! DEFINITION. Translation of virtual addresses (09 R172 to R179): the walkers' and the directories' own writes of page-table entries,
private pages and their becoming shared (R178, R194), and the translation buffers. -/

namespace Sys2Proof.Machine

/-! ## Writes of page-table entries -/

/-- Write a PTE in place, as the 64-bit atomic of the walker or the directory (09 R178): performed at its home as any write is (R197). -/
def State.writePte (s : State) (pa v : Nat) : State :=
  (s.touch 128 s.physAt 0 pa 8 true true).writeLocal none (localOf pa) (natLe 8 v) none none

/-- Mark every entry of a leaf. -/
def State.markLeaf (s : State) (p va lvl a : Nat) (priv shd : Bool) (own : Nat) : State :=
  (leafEntries p va lvl a).foldl (fun s e => s.writePte e (pteMark (s.pteAt e) priv shd own)) s

/-- The lines of a page leave the near slices of its owner for their home L2 slices (09 R194); a VIEW page has none. -/
def State.linesHome (s : State) (e : TbEntry) : State :=
  if e.view then s
  else
    let first := lineOf e.frame
    { s with l2 := s.l2.map fun (k, (x : L2Line)) =>
        if first ≤ k / 4 ∧ k / 4 < first + e.size / 128 then (k, { x with slice := (homeAt 0 (k / 4)).l2 }) else (k, x) }

/-- The directory makes a private page shared (09 R194): its lines move to their home slices, PRIV := 0 and SHD := 1
with OWN naming the former owner, and the owner's translation is invalidated. -/
def State.makeShared (s : State) (ctx va p lvl a : Nat) : State :=
  (((s.linesHome (tbOf ctx va p lvl)).markLeaf p va lvl a false true (pteOwn p))).dropTb (pteOwn p) ctx va

/-! ## Walks -/

/-- The walk of a virtual address, with the unsown rows it reads counted (09 R203). -/
def State.walkCounted (s : State) (ctx va : Nat) : State × Walk :=
  let w := s.walk ctx va
  match tget s.ctxs ctx with
  | some c => if va < 2 ^ 52 then (s.countWalk (s.walkReads va 3 c.root), w) else (s, w)
  | none => (s, w)

/-- The request writes or may write. -/
def ReqOp.writes : ReqOp → Bool
  | .store => true
  | .atom _ _ => true
  | .sc _ => true
  | _ => false

/-- A core has a store to a page that was issued before the request of a number and is not yet performed at its place (09 R194). -/
def State.ownerBusy (s : State) (own : Nat) (e : TbEntry) (before : Nat) : Bool :=
  s.reqs.any fun (i, (x : Req)) =>
    decide (i < before) && x.core == own && x.op.writes && x.stage == .place &&
      x.view.any fun (a, t) => t.home == 0 && decide (e.frame ≤ t.frame + (a - t.vbase)) && decide (t.frame + (a - t.vbase) < e.frame + e.size)

/-- A walk for a core: claims an unclaimed page, has another core's private page made shared, and fills the core's
buffer (09 R178, R194). While the owner's stores to the page are still to be performed, the directory holds the miss: the page stays as it is, and the
request waits at its place (log 64). Core 128 stands for agents of no core, which claim nothing and miss on no page. -/
def State.walkFor (s0 : State) (core ctx va : Nat) : State × Except Nat TbEntry :=
  match s0.walkCounted ctx va with
  | (s, .bad c) => (s, .error c)
  | (s, .leaf p lvl a) =>
    if 128 ≤ core ∨ pteHome p ≠ 0 ∨ (ptePriv p ∧ pteOwn p = core) ∨ (!ptePriv p ∧ pteShd p) then
      let e := tbOf ctx va p lvl
      (s.fillTb core e, .ok e)
    else if ptePriv p then
      let e := tbOf ctx va (pteMark p false true (pteOwn p)) lvl
      if s.ownerBusy (pteOwn p) e s.nextId then (s, .ok e) else ((s.makeShared ctx va p lvl a).fillTb core e, .ok e)
    else
      let s1 := s.markLeaf p va lvl a true false core
      let e := tbOf ctx va (pteMark p true false core) lvl
      (s1.fillTb core e, .ok e)

/-! ## The buffer, then a walk -/

/-- Translate for an access (09 R172, R177): the buffer, else a walk; then the permission. -/
def State.xlate (s : State) (core ctx va acc : Nat) : State × Except Nat TbEntry :=
  if 2 ^ 52 ≤ va then (s, .error fcNonCanonical)
  else
    let (s1, r) : State × Except Nat TbEntry := match (if core < 128 then tbFind (s.core core).tb ctx va else none) with
      | some e => (s, .ok e)
      | none => s.walkFor core ctx va
    match r with
    | .error c => (s1, .error c)
    | .ok e =>
      if accWrites acc ∧ !e.w then (s1, .error fcPermission)
      else if acc = accFetch ∧ (!e.x ∨ e.view) then (s1, .error fcPermission)
      else (s1, .ok e)

end Sys2Proof.Machine
end

