-- ==== Sys2Proof/Machine/Access.lean ====
section
/-! DEFINITION. Performing accesses: at a physical address through its home (09 Table 9.4, R197), at a virtual
address, through a shadow page (09 R206 to R216), and reading tensor-table entries (15 R320). -/

namespace Sys2Proof.Machine

/-! ## At a physical address -/

/-- Bytes at a place of Table 9.4: the pin area of a core, or the memory of this device. -/
def State.placeBytes (s : State) (own : Option Nat) (a n : Nat) : List Byte :=
  match own with
  | some c => mreads (s.core c).pin a n
  | none => s.readLocal a n

/-- Read bytes at the place of Table 9.4. -/
def State.rdPlace (s : State) (core : Nat) (e : TbEntry) (va pa n : Nat) (sync : Bool) : State × List Byte :=
  match s.placeOf e pa with
  | (some c, a) => (s, s.placeBytes (some c) a n)
  | (none, a) => ((s.touch core e va pa n false sync).countUnsown a, s.placeBytes none a n)

/-- Read bytes as a load does. -/
def State.rdPhys (s : State) (core : Nat) (e : TbEntry) (va pa n : Nat) : State × List Byte := s.rdPlace core e va pa n false

/-- Write bytes at the place of Table 9.4 (09 R197, R203). -/
def State.wrPhys (s : State) (core : Nat) (by' : Option Ref) (e : TbEntry) (va pa : Nat) (l : List Byte) (src : Option SyncSrc) (sync : Bool := false) : State :=
  match s.placeOf e pa with
  | (some c, a) =>
    let key := placeKey (some c, a)
    (({ s with relTags := tagBytes s.relTags key l.length src }.dropReservations by' key l.length).hitWatches key l.length).modCore c fun k =>
      { k with pin := mwrites k.pin a l }
  | (none, a) => (s.touch core e va pa l.length true sync).writeLocal by' a l (some e.keyv) src

/-- The sources of bytes at their place (11 R232). -/
def State.placeTags (s : State) (e : TbEntry) (pa n : Nat) : List SyncSrc :=
  if s.away e pa then [] else s.memTags (placeKey (s.placeOf e pa)) n

/-! ## Other devices and the host -/

/-- A destination has been declared unreachable (23 R410). -/
def State.cut (s : State) (dev : Nat) : Bool := s.fabric.unreachable.contains dev

/-- E(dst): the ports in service behind which the reachability table shows the destination, ascending (23 R405). -/
def State.eligiblePorts (s : State) (dst : Nat) : List Nat :=
  (s.fabric.ports.filter fun (p, x) => x.up && ((tget s.fabric.reach p).getD []).contains dst).map Prod.fst

/-- The model's own code of an access that stays at its source for want of a port (log 40): no fault, it is made later. -/
def fcNoPort : Nat := 0x23

/-- A request for another device finds no port in service to it and stays at its source (23 R410). -/
def State.noPort (s : State) (e : TbEntry) (pa : Nat) : Bool :=
  s.away e pa && !s.isHost pa && !s.cut (devOf pa) && (s.eligiblePorts (devOf pa)).isEmpty

/-- A device write to a host address inside a host-protected window is a violation (23 R419). -/
def State.hostProtected (s : State) (pa n : Nat) : Bool :=
  s.isHost pa && s.locked.hpw.any fun w => decide (w.base < localOf pa + n) && decide (localOf pa < w.base + w.len)

/-! ## Ports (23 R405, R406) -/

/-- The index of class O in a list of n ports (R406). -/
def oIndex (dst n : Nat) : Nat := (dst ^^^ dst / 16) % n

/-- The port of every class-O request to a destination (R406). -/
def State.oPort (s : State) (dst : Nat) : Option Nat := (s.eligiblePorts dst)[oIndex dst (s.eligiblePorts dst).length]?

/-- The port of a way. -/
def Via.port? : Via → Option Nat
  | .port p _ => some p
  | _ => none

/-- The port a request was sent on. -/
def Req.port? (q : Req) : Option Nat := match q.stage with | .remote _ v => v.port? | _ => none

/-- The bytes a request puts on a port: 4 at least (23 Table 23.1). -/
def Req.wire (q : Req) : Nat := max 4 q.bytes

/-- The bytes a LAND puts on a port: its name and its value. -/
def landWire : Nat := 16

/-- Bytes of relayed requests outstanding on a port (23 R407, log 44). -/
def State.relayBytes (s : State) (p : Nat) : Nat := ((tget s.fabric.ports p).map fun x => x.stored.foldl (fun n f => n + f.relayed) 0).getD 0

/-- Bytes outstanding on a port. -/
def State.outBytes (s : State) (p : Nat) : Nat :=
  s.relayBytes p +
    s.lands.foldl (fun n (_, l) => if l.via.port? = some p then n + landWire else n)
      (s.reqs.foldl (fun n (_, q) => if q.port? = some p then n + q.wire else n) 0)

/-- The port with the fewest bytes outstanding; a tie goes to the lowest number (R406). -/
def leastPort (bytes : Nat → Nat) : List Nat → Option Nat
  | [] => none
  | p :: t => match leastPort bytes t with
    | some q => if bytes q < bytes p then some q else some p
    | none => some p

/-- The port of a class-A request (R406). -/
def State.aPort (s : State) (dst : Nat) : Option Nat := leastPort s.outBytes (s.eligiblePorts dst)

/-- The slot of a generation. -/
def Port.tx (x : Port) (g : Bool) : Option (BitVec 256) := if g then x.tx1 else x.tx0
def Port.rx (x : Port) (g : Bool) : Option (BitVec 256) := if g then x.rx1 else x.rx0

/-- A flit goes out on a port, under its transmit generation and that slot's key, and is stored until it is acknowledged (23 R411): one for a request or an
answer (log 13); relayed: the bytes of a relayed request. -/
def State.sendFlit (s : State) (p relayed : Nat) : State :=
  match tget s.fabric.ports p with
  | none => s
  | some x => match x.tx x.txGen with
    | none => s
    | some key =>
      let (k, s1) := s.draw
      let f : Flit := { gen := x.txGen, body := Config.sealFlit key k }
      { s1 with fabric := { s1.fabric with
          ports := tput s1.fabric.ports p { x with stored := x.stored ++ [{ flit := f, relayed := relayed }], link := x.link ++ [f] } } }

/-- A request of a class, or an answer, to another device that the model makes in one step goes out on its port (R406). -/
def State.usePort (s : State) (dst : Nat) (rc : RC) : State :=
  match (if rc = .o then s.oPort dst else s.aPort dst) with
  | some p => s.sendFlit p 0
  | none => s

/-- Free bytes for what another device or the host holds (log 18). -/
def State.freeBytes (s : State) (n : Nat) : State × List Byte :=
  ({ s with freeCtr := s.freeCtr + n }, (List.range n).map fun i => Config.freeByte (s.freeCtr + i))

/-- The agent and scope of a source that another device reports. -/
def WireSrc.sync (x : WireSrc) : SyncSrc := { agent := { dev := x.dev, tract := x.tract, plot := x.plot }, scope := x.scope }

/-- The sources of what another device holds (11 R232, log 18); the host reports none. -/
def State.freeTags (s : State) (pa : Nat) : State × List SyncSrc :=
  if s.isHost pa then (s, []) else let (k, s1) := s.draw; (s1, (Config.freeSrcs k).map WireSrc.sync)

/-- A request of a class goes to another device, and the fault that it answers, free (log 18): no context there (23 R413), or a poisoned line (R436). The host
answers none. -/
def State.farAnswer (s : State) (pa : Nat) (rc : RC := .a) : State × Option Nat :=
  if s.isHost pa then (s, none)
  else
    let (k, s1) := (s.usePort (devOf pa) rc).draw
    (s1, (Config.farFault k).map fun c => if c = fcBadFrame then fcBadFrame else fcFarContext)

/-- Answer a request of another device, directly and in class A (23 R407). -/
def State.answerPeer (s : State) (dev tag : Nat) (r : FabReply) : State :=
  let s1 := s.usePort dev .a
  { s1 with fabric := { s1.fabric with answers := s1.fabric.answers ++ [{ dev := dev, tag := tag, reply := r }] } }

/-! ## Plain virtual accesses of agents -/

/-- What forbids an access at a physical address under a translation (21 Table 21.8): a frame that no device holds, poison, which a write of the whole line does
not meet (23 R436), a destination that cannot be reached, a host-protected window. -/
def State.barredBut (s : State) (e : TbEntry) (pa n : Nat) (write whole : Bool) : Option Nat :=
  if !s.frameIn pa n then some fcBadFrame
  else if (s.placeOf e pa).1.isSome then none
  else if s.poisonAt pa && !whole then some fcBadFrame
  else if s.away e pa && s.cut (devOf pa) then some fcFarContext
  else if write && s.hostProtected pa n then some fcFreeze
  else none

/-- The bytes of a write are a whole line. -/
def wholeLine (pa n : Nat) : Bool := pa % 128 == 0 && n == 128

/-- The same for one access by itself. -/
def State.barred (s : State) (e : TbEntry) (pa n : Nat) (write : Bool) : Option Nat := s.barredBut e pa n write (write && wholeLine pa n)

/-- Read n bytes at a virtual address within one line, on an ordinary page; the read of an atomic is barred where its write would be (23 R419). -/
def State.pread (s : State) (core ctx va n acc : Nat) (rc : RC := .a) : State × Except Nat (List Byte) :=
  match s.xlate core ctx va acc with
  | (s1, .error c) => (s1, .error c)
  | (s1, .ok e) =>
    if e.view then (s1, .error fcPermission)
    else match s1.barred e (e.pa va) n (accWrites acc) with
      | some c => (s1, .error c)
      | none =>
        if s1.noPort e (e.pa va) then (s1, .error fcNoPort)
        else if s1.away e (e.pa va) then
          match s1.farAnswer (e.pa va) rc with
          | (s2, some c) => (s2, .error c)
          | (s2, none) => let (s3, l) := s2.freeBytes n; (s3, .ok l)
        else let (s2, l) := s1.rdPhys core e va (e.pa va) n; (s2, .ok l)

/-- What a write leaves at n addresses from lo up, none where it writes nothing; of two writes of one byte the later stands. -/
def writtenAt (lo n : Nat) (l : List (Nat × Byte)) : List (Option Byte) :=
  (List.range n).map fun i => (l.reverse.find? fun x => x.1 == lo + i).map Prod.snd

/-- A write of bytes of one line, by their addresses, leaves the device: to another device in whole words of 4 bytes (23 Table 23.1), of which it writes its own
bytes (log 62). -/
def State.sendBytes (s : State) (l : List (Nat × Byte)) : State :=
  match (l.map Prod.fst).min?, (l.map Prod.fst).max? with
  | some lo, some hi =>
    let a := if s.isHost lo then lo else lo / 4 * 4
    let b := if s.isHost lo then hi + 1 else (hi / 4 + 1) * 4
    { s with hostWrites := s.hostWrites ++ [(a, writtenAt a (b - a) l)] }
  | _, _ => s

/-- A write of bytes in a row that leaves the device. -/
def State.sendWrite (s : State) (pa : Nat) (l : List Byte) : State := s.sendBytes (l.zipIdx.map fun x => (pa + x.2, x.1))

/-- Write bytes at a virtual address within one line, on an ordinary page. A write to the host or to another device
leaves the device. -/
def State.pwrite (s : State) (core ctx : Nat) (by' : Option Ref) (va : Nat) (l : List Byte) (acc : Nat) (src : Option SyncSrc) (rc : RC := .a) : State × Except Nat Unit :=
  match s.xlate core ctx va acc with
  | (s1, .error c) => (s1, .error c)
  | (s1, .ok e) =>
    if e.view then (s1, .error fcPermission)
    else match s1.barred e (e.pa va) l.length true with
      | some c => (s1, .error c)
      | none =>
        if s1.noPort e (e.pa va) then (s1, .error fcNoPort)
        else if s1.away e (e.pa va) then
          match s1.farAnswer (e.pa va) rc with
          | (s2, some c) => (s2, .error c)
          | (s2, none) => (s2.sendWrite (e.pa va) l, .ok ())
        else (s1.wrPhys core by' e va (e.pa va) l src, .ok ())

/-! ## Tensor-table entries (09 R206, 15 R320, R321) -/

/-- A tensor-table entry of the context as its 512 bits; none at or beyond the table's length. -/
def State.ttEntry (s : State) (core ctx id acc : Nat) : State × Except Nat (Option Nat) :=
  match tget s.ctxs ctx with
  | none => (s, .error fcFarContext)
  | some c =>
    if c.ttlen ≤ id then (s, .ok none)
    else match s.pread core ctx ((c.ttbase.toNat + 64 * id) % 2 ^ 64) 64 acc with
      | (s1, .error e) => (s1, .error e)
      | (s1, .ok l) => (s1, .ok (some (leNat l)))

/-- KIND of an entry (09 R206). -/
def entKind (e : Nat) : Nat := bits e 63 62
/-- RANK or URANK. -/
def entRank (e : Nat) : Nat := bits e 61 59
/-- FMT of a base entry. -/
def entFmt (e : Nat) : Nat := bits e 58 55
/-- BASE of a base entry. -/
def entBase (e : Nat) : Nat := bits e 51 0
/-- DIMj of a base entry. -/
def entDim (e j : Nat) : Nat := bits e (64 * j + 159) (64 * j + 128)
/-- STRIDEj of a base entry, signed. -/
def entStride (e j : Nat) : Int := sgn 32 (bits e (64 * j + 191) (64 * j + 160))
/-- SCALEBASE of a base entry. -/
def entScale (e : Nat) : Nat := bits e 115 64
/-- BASEID of a view entry. -/
def viewBaseId (e : Nat) : Nat := bits e 58 47
/-- UDk, TSk, VSk, P of a view entry. -/
def viewUD (e k : Nat) : Nat := bits e (24 * k + 87) (24 * k + 64)
def viewTS (e k : Nat) : Nat := bits e (16 * k + 415) (16 * k + 400)
def viewVS (e k : Nat) : Int := sgn 32 (bits e (32 * k + 239) (32 * k + 208))
def viewP (e k : Nat) : Nat := bits e (12 + 3 * k) (10 + 3 * k)
def viewPerm (e : Nat) : Bool := bit e 45
def viewGath (e : Nat) : Bool := bit e 44
def viewIlv (e : Nat) : Bool := bit e 43
def viewGdim (e : Nat) : Nat := bits e 42 40
def viewGidx (e : Nat) : Nat := bits e 39 28

/-- Bytes of a granule of a base format and elements in it (09 R209). -/
def granule (fmt : Nat) : Nat := if fmt = 0 then 4 else if fmt = 1 ∨ fmt = 2 then 2 else if fmt = 5 ∨ fmt = 6 then 3 else 1
def perGranule (fmt : Nat) : Nat := if fmt = 5 ∨ fmt = 6 then 4 else if fmt = 7 ∨ fmt = 10 ∨ fmt = 11 ∨ fmt = 13 then 2 else 1

/-- Read the view, base, index and map entries; the bad-tensor-entry fault where one no longer fits (09 R211). -/
def State.viewEnts (s : State) (core ctx id : Nat) : State × Except Nat ViewEnts :=
  match s.ttEntry core ctx id accTensor with
  | (s, .error c) => (s, .error c)
  | (s, .ok none) => (s, .error fcBadEntry)
  | (s, .ok (some v)) =>
    if entKind v ≠ 2 then (s, .error fcBadEntry)
    else match s.ttEntry core ctx (viewBaseId v) accTensor with
      | (s, .error c) => (s, .error c)
      | (s, .ok none) => (s, .error fcBadEntry)
      | (s, .ok (some b)) =>
        if entKind b ≠ 1 then (s, .error fcBadEntry)
        else
          let (s, g) : State × Except Nat (Option Nat) := if viewGath v then s.ttEntry core ctx (viewGidx v) accTensor else (s, .ok (some 0))
          match g with
          | .error c => (s, .error c)
          | .ok none => (s, .error fcBadEntry)
          | .ok (some g) =>
            if viewGath v ∧ ¬(entKind g = 1 ∧ entRank g = 1 ∧ entFmt g = 0) then (s, .error fcBadEntry)
            else
              let (s, m) : State × Except Nat (Option Nat) := if viewIlv v then s.ttEntry core ctx (id + 1) accTensor else (s, .ok (some 0))
              match m with
              | .error c => (s, .error c)
              | .ok none => (s, .error fcBadEntry)
              | .ok (some m) =>
                if viewIlv v ∧ entKind m ≠ 3 then (s, .error fcBadEntry)
                else (s, .ok { v := v, b := b, g := g, m := m })

/-- Mixed-radix digits of v, and what is left. -/
def digits : List Nat → Nat → List Nat × Nat
  | [], v => ([], v)
  | x :: t, v => let (l, r) := digits t (v / x); (v % x :: l, r)

/-- Offset of an interleave map: bit i of the base offset is bit map[i][4:0] of b of map[i][7:5] (09 R208). -/
def ilvOffset (m : Nat) (b : List Nat) : Nat :=
  (List.range 64).foldl (fun e i =>
    let x := bits m (8 * i + 7) (8 * i)
    let k := x / 32
    if k < b.length ∧ bit (b.getD k 0) (x % 32) then e + 2 ^ i else e) 0

/-- View extents X of 09 R210. -/
def viewExtents (v : Nat) : List Nat :=
  let n := entRank v
  let ks := List.range n
  let tiled := ks.filter fun k => viewTS v k ≠ 0
  (ks.map fun k => if viewTS v k ≠ 0 then viewTS v k else viewUD v k) ++ tiled.map fun k => (viewUD v k + viewTS v k - 1) / viewTS v k

/-- Coordinates b after TILE inverse and PERMUTE (09 R210 steps 1 and 2); none past the view. -/
def viewCoords (v o' : Nat) : Option (List Nat) :=
  let n := entRank v
  let (c, rest) := digits (viewExtents v) o'
  if rest ≠ 0 then none
  else
    let ks := List.range n
    let tiled := ks.filter fun k => viewTS v k ≠ 0
    let u := ks.map fun k =>
      c.getD k 0 + (if viewTS v k ≠ 0 then viewTS v k * c.getD (n + (tiled.idxOf k)) 0 else 0)
    if ks.any fun k => decide (viewUD v k ≤ u.getD k 0) then none
    else if viewPerm v then some (ks.foldl (fun b k => b.set (viewP v k) (u.getD k 0)) (List.replicate n 0))
    else some u

/-- The granule of a shadow offset, and the address of the index element it selects, with its coordinates (09 R210); none for a view that gathers nothing; view
range past the view or the index tensor. -/
def viewIndex (ve : ViewEnts) (o : Nat) : Except Nat (Option Nat) :=
  if !viewGath ve.v then .ok none
  else match viewCoords ve.v (o / granule (entFmt ve.b)) with
    | none => .error fcViewRange
    | some b0 =>
      let i := b0.getD (viewGdim ve.v) 0
      if entDim ve.g 0 ≤ i then .error fcViewRange
      else .ok (some (((entBase ve.g : Int) + 4 * (i : Int) * entStride ve.g 0) % (2 ^ 64 : Nat)).toNat)

/-- Drop one line of a core's L1 for the byte at an address of the context. -/
def State.dropL1Va (s : State) (core ctx va : Nat) : State :=
  match s.walk ctx va with
  | .leaf p lvl _ => s.dropL1Line core ((tbOf ctx va p lvl).pa va)
  | .bad _ => s

/-- ViewToBase (09 R210): the base address of a shadow offset, or the fault. The gleaner reads index elements as relaxed 32-bit loads (R212),
and the core's L1 and view read buffer keep no older copy of what it read (11 R225, R239). -/
def State.viewToBase (s : State) (core ctx : Nat) (ve : ViewEnts) (o : Nat) : State × Except Nat Nat :=
  let g := granule (entFmt ve.b)
  let j := o % g
  match viewCoords ve.v (o / g) with
  | none => (s, .error fcViewRange)
  | some b0 =>
    let (s, b) : State × Except Nat (List Nat) :=
      match viewIndex ve o with
      | .error c => (s, .error c)
      | .ok none => (s, .ok b0)
      | .ok (some a) =>
        match s.pread 128 ctx a 4 accLoad with
        | (s, .error c) => (s, .error c)
        | (s, .ok l) => ((if core < 128 then (s.dropL1Va core ctx a).dropVbuf core else s), .ok (b0.set (viewGdim ve.v) (leNat l)))
    match b with
    | .error c => (s, .error c)
    | .ok b =>
      let ext := fun k => if k = 0 then entDim ve.b 0 / perGranule (entFmt ve.b) else entDim ve.b k
      if (List.range (entRank ve.v)).any fun k => decide (ext k ≤ b.getD k 0) then (s, .error fcViewRange)
      else
        let e : Int := if viewIlv ve.v then (ilvOffset ve.m b : Nat)
          else (List.range (entRank ve.v)).foldl (fun e k => e + (b.getD k 0 : Int) * viewVS ve.v k) 0
        (s, .ok (((entBase ve.b : Int) + e * g + j) % (2 ^ 64 : Nat)).toNat)

/-- A broadcast view (09 R211): STRIDE with a VSk of 0 below URANK. -/
def viewBroadcast (v : Nat) : Bool := !viewIlv v && (List.range (entRank v)).any fun k => viewVS v k == 0

/-- The base address of one shadow byte, translated for the access (09 R211, R212). -/
def State.viewByte (s : State) (core ctx : Nat) (ve : ViewEnts) (acc o : Nat) : State × Except Nat (Nat × TbEntry) :=
  match s.viewToBase core ctx ve o with
  | (s, .error c) => (s, .error c)
  | (s, .ok a) =>
    match s.xlate 128 ctx a acc with
    | (s, .error c) => (s, .error c)
    | (s, .ok e) =>
      if e.view then (s, .error fcPermission)
      else match s.barred e (e.pa a) 1 (accWrites acc) with
        | some c => (s, .error c)
        | none => (s, .ok (a, e))

/-- Of two faults the first in the order of 21 Table 21.8 (21 R386). -/
def firstFault {α β γ : Type} (f : α → β → γ) : Except Nat α → Except Nat β → Except Nat γ
  | .error c, .error d => .error (min c d)
  | .error c, .ok _ => .error c
  | .ok _, .error d => .error d
  | .ok x, .ok y => .ok (f x y)

/-- Base addresses of n shadow bytes from offset o, each translated for the access; of several faults the first of Table 21.8. A view whose base,
index tensor or table lies on a VIEW page takes the permission fault there (DESIGN CHOICE, log 51). -/
def State.viewBytes (s : State) (core ctx : Nat) (ve : ViewEnts) (acc : Nat) : Nat → Nat → State × Except Nat (List (Nat × TbEntry))
  | _, 0 => (s, .ok [])
  | o, n + 1 =>
    let (s1, x) := s.viewByte core ctx ve acc o
    let (s2, l) := s1.viewBytes core ctx ve acc (o + 1) n
    (s2, firstFault List.cons x l)

/-- What a view access may meet beside the faults of its bytes: a store or atomic through a broadcast view (09 R211), an atomic, LR or SC that is not legal
through this view (R216, R198). -/
def viewBars (ve : ViewEnts) (write atomicOk : Bool) : Except Nat Unit :=
  if write ∧ viewBroadcast ve.v then .error fcViewReadOnly else if atomicOk then .ok () else .error fcViewAtomic

/-- Shadow offset of an address of a VIEW page (09 R210). -/
def TbEntry.shadow (e : TbEntry) (va : Nat) : Nat := e.vpage * e.size + (va - e.vbase)

/-- The base sectors that the bytes of a view access stand in, in the order of first use (09 R212). -/
def viewSectors (l : List (Nat × TbEntry)) : List Nat := (l.map fun (a, e) => e.pa a / 32).eraseDups

/-- The bytes of a list that stand in a base sector. -/
def inSector {α : Type} (q : Nat) (l : List ((Nat × TbEntry) × α)) : List ((Nat × TbEntry) × α) := l.filter fun x => x.1.2.pa x.1.1 / 32 == q

/-- The base sectors of a view access are read, each by PerformAt (09 R212). -/
def State.readSectors (s : State) (l : List (Nat × TbEntry)) : State :=
  (viewSectors l).foldl (fun s q =>
    match l.find? fun (a, e) => e.pa a / 32 == q with
    | some (a, e) => if s.away e (e.pa a) then s else (s.rdPhys 128 e a (e.pa a) 1).1
    | none => s) s

/-- The bytes at their places; another device's are free (log 18). -/
def State.viewTake (s : State) : List (Nat × TbEntry) → State × List Byte
  | [] => (s, [])
  | (a, e) :: t =>
    let (s1, x) := if s.away e (e.pa a) then s.freeBytes 1 else let (own, i) := s.placeOf e (e.pa a); (s, s.placeBytes own i 1)
    let (s2, l) := s1.viewTake t
    (s2, x ++ l)

/-- Read the base bytes of a view access, in shadow order (09 R212). -/
def State.viewRead (s : State) (l : List (Nat × TbEntry)) : State × List Byte := (s.readSectors l).viewTake l

/-- Write the bytes of one base sector in ascending byte order (09 R212, R214); to another device they leave as one write. -/
def State.writeSector (s : State) (by' : Option Ref) (src : Option SyncSrc) (l : List ((Nat × TbEntry) × Byte)) : State :=
  match l with
  | [] => s
  | ((a, e), _) :: _ =>
    if s.away e (e.pa a) then s.sendBytes (l.map fun x => (x.1.2.pa x.1.1, x.2))
    else l.foldl (fun s x => s.wrPhys 128 by' x.1.2 x.1.1 (x.1.2.pa x.1.1) [x.2] src) s

/-- Write the base bytes of a view access, sector by sector in the order of first use (09 R212). -/
def State.viewWrite (s : State) (by' : Option Ref) (src : Option SyncSrc) (bs : List (Nat × TbEntry)) (l : List Byte) : State :=
  (viewSectors bs).foldl (fun s q => s.writeSector by' src (inSector q (bs.zip l))) s

/-- The fault with which another device answers the sub-requests of a view access that go there (23 R413, log 18). -/
def State.viewAnswer (s : State) (l : List (Nat × TbEntry)) (rc : RC := .a) : State × Option Nat :=
  match l.find? fun (a, e) => s.away e (e.pa a) with
  | none => (s, none)
  | some (a, e) => s.farAnswer (e.pa a) rc

/-- A core's L1 lines of the base bytes of a view access leave it, so that its later loads see what the access saw or wrote (11 R225). -/
def State.dropViewLines (s : State) (core : Nat) (l : List (Nat × TbEntry)) : State :=
  if 128 ≤ core then s else l.foldl (fun s (a, e) => s.dropL1Line core (e.pa a)) s

/-- The tensor's home: the translated BASE of a view's base tensor (09 R212); none where it does not translate. -/
def State.viewHome (s : State) (ctx : Nat) (ve : ViewEnts) : Option Nat :=
  match (s.xlate 128 ctx (entBase ve.b) accLoad).2 with
  | .ok e => if e.view then none else some (e.pa (entBase ve.b))
  | .error _ => none

/-- The home of an access at an address (11 R228): of its line, or of a view's tensor. -/
def State.homePa (s : State) (core ctx va : Nat) : Option Nat :=
  match (s.xlate core ctx va accLoad).2 with
  | .ok e => if e.view then match (s.viewEnts core ctx e.tid).2 with | .ok ve => s.viewHome ctx ve | .error _ => none else some (e.pa va)
  | .error _ => none

/-- The classes of an access at an address (11 R229). -/
def State.classesAt (s : State) (core ctx va : Nat) (rc : RC) : Classes :=
  classesOf rc (match s.homePa core ctx va with | some pa => s.ownStream core pa | none => false)

/-- What this device last sent to the byte at an address elsewhere. -/
def State.lastSent (s : State) (pa : Nat) : Option Byte :=
  s.hostWrites.reverse.findSome? fun (a, l) => if a ≤ pa then l.getD (pa - a) none else none

/-! ## Reads and writes of engines: any page, any length -/

/-- Bytes up to the next line boundary. -/
def chunk (va n : Nat) : Nat := min n (128 - va % 128)

/-- Read the bytes of one line at an address, a view's by the gleaner. A core's own caches keep no older copy of what was read (11 R225, R245). -/
def State.anyRead (s : State) (core ctx va n acc : Nat) (rc : RC := .a) : State × Except Nat (List Byte) :=
  match s.xlate core ctx va acc with
  | (s, .error c) => (s, .error c)
  | (s, .ok e) =>
    if e.view then
      match s.viewEnts core ctx e.tid with
      | (s, .error c) => (s, .error c)
      | (s, .ok ve) =>
        match s.viewBytes core ctx ve acc (e.shadow va) n with
        | (s, .error c) => (s, .error c)
        | (s, .ok l) =>
          if l.any fun (a, e) => s.noPort e (e.pa a) then (s, .error fcNoPort)
          else match s.viewAnswer l rc with
            | (s, some c) => (s, .error c)
            | (s, none) =>
              let (s, b) := (s.dropViewLines core l).viewRead l
              (if core < 128 then s.dropVbuf core else s, .ok b)
    else
      let (s, r) := s.pread core ctx va n acc rc
      (if core < 128 then (s.dropL1Line core (e.pa va)).dropVbuf core else s, r)

/-- Write the bytes of one line at an address, a view's by the gleaner. A write at a core's own caches leaves no older copy there: the L1 lines of the
base bytes, and for a view the read buffer (09 R187, 11 R225). -/
def State.anyWrite (s : State) (core ctx : Nat) (by' : Option Ref) (va : Nat) (l : List Byte) (acc : Nat) (src : Option SyncSrc) (rc : RC := .a) : State × Except Nat Unit :=
  match s.xlate core ctx va acc with
  | (s, .error c) => (s, .error c)
  | (s, .ok e) =>
    if e.view then
      match s.viewEnts core ctx e.tid with
      | (s, .error c) => (s, .error c)
      | (s, .ok ve) =>
        let (s, r) := s.viewBytes core ctx ve acc (e.shadow va) l.length
        match firstFault (fun _ bs => bs) (viewBars ve true true) r with
        | .error c => (s, .error c)
        | .ok bs =>
          if bs.any fun (a, e) => s.noPort e (e.pa a) then (s, .error fcNoPort)
          else match s.viewAnswer bs rc with
            | (s, some c) => (s, .error c)
            | (s, none) =>
              let s1 := (s.viewWrite by' src bs l).dropViewLines core bs
              (if core < 128 then s1.dropVbuf core else s1, .ok ())
    else
      let (s, r) := s.pwrite core ctx by' va l acc src rc
      (if core < 128 then (s.dropL1Line core (e.pa va)).dropVbuf core else s, r)

/-- Read bytes in a class, line by line, views included; the first fault with its address. -/
def State.rangeRead (s : State) (rc : RC) (core ctx acc : Nat) : Nat → Nat → Nat → State × Except (Nat × Nat) (List Byte)
  | 0, _, _ => (s, .ok [])
  | fuel + 1, va, n =>
    if n = 0 then (s, .ok [])
    else
      let k := chunk va n
      match s.anyRead core ctx va k acc rc with
      | (s, .error c) => (s, .error (c, va))
      | (s, .ok l) =>
        match s.rangeRead rc core ctx acc fuel (va + k) (n - k) with
        | (s, .error f) => (s, .error f)
        | (s, .ok l') => (s, .ok (l ++ l'))

/-- Write bytes in a class, line by line, views included. -/
def State.rangeWrite (s : State) (rc : RC) (core ctx : Nat) (by' : Option Ref) (acc : Nat) (src : Option SyncSrc) : Nat → Nat → List Byte → State × Except (Nat × Nat) Unit
  | 0, _, _ => (s, .ok ())
  | fuel + 1, va, l =>
    if l.isEmpty then (s, .ok ())
    else
      let k := chunk va l.length
      match s.anyWrite core ctx by' va (l.take k) acc src rc with
      | (s, .error c) => (s, .error (c, va))
      | (s, .ok _) => s.rangeWrite rc core ctx by' acc src fuel (va + k) (l.drop k)

/-- The same for an engine, whose requests travel in class A (11 R240). -/
def State.engRead (s : State) (core ctx acc fuel va n : Nat) : State × Except (Nat × Nat) (List Byte) := s.rangeRead .a core ctx acc fuel va n
def State.engWrite (s : State) (core ctx : Nat) (by' : Option Ref) (acc : Nat) (src : Option SyncSrc) (fuel va : Nat) (l : List Byte) :
    State × Except (Nat × Nat) Unit := s.rangeWrite .a core ctx by' acc src fuel va l

end Sys2Proof.Machine
end

