-- ==== Sys2Proof/Machine/Lanes.lean ====
section
/-! DEFINITION. Executing a word instruction over the lanes of the drill that issues it: what becomes of each lane
(03 R62, 01 R23), the fault records (21 R386, R389), drill splits and regrouping (01 R23, 07 R165). -/

namespace Sys2Proof.Machine

/-! ## Fault-record queue (21 R389) -/

/-- A mailbox message (23 Table 23.4); the SEQ is given when it is posted. -/
def mkMsg (op status payload : Nat) : Msg := BitVec.ofNat 512 (op % 2 ^ 16 * 2 ^ 32 + status % 2 ^ 16 * 2 ^ 48 + payload * 2 ^ 64)

/-- Event codes in the payload of OP 0x8100 (log 17). -/
def evQueueHeld : Nat := 1
def evFreeze : Nat := 2
def evRotation : Nat := 3
def evError : Nat := 4

/-- The steward hands an event to the D2H ring (23 R422, Table 23.5). -/
def State.event (s : State) (code detail : Nat) : State :=
  { s with steward := { s.steward with posts := s.steward.posts ++ [(none, mkMsg 0x8100 0 (code % 2 ^ 32 + detail * 2 ^ 32))] } }

/-- The 32 bytes of a fault record (21 Table 21.7). -/
def recBytes (f : FaultRec) : List Byte :=
  natLe 32 (f.code % 256 + f.src % 16 * 2 ^ 8 + f.acc % 16 * 2 ^ 12 + f.core % 128 * 2 ^ 18 + f.tract % 2 ^ 24 * 2 ^ 25 +
    f.plot % 8 * 2 ^ 49 + f.tid % 4096 * 2 ^ 52 + f.pc.toNat * 2 ^ 64 + f.addr.toNat * 2 ^ 128 + f.mask.toNat * 2 ^ 192)

/-- Where the next record goes: its number and address, none where there is no room, or no port to the header's device (23 R410); an error where the header or
the slot cannot be used. -/
def State.recSlot (s : State) (ctx : Nat) : State × Except Unit (Option (Nat × Nat)) :=
  match tget s.ctxs ctx with
  | none => (s, .error ())
  | some c =>
    match s.pread 128 ctx c.frqh.toNat 64 accEngRead with
    | (s, .error c) => (s, if c = fcNoPort then .ok none else .error ())
    | (s, .ok l) =>
      let h := leNat l
      let wix := bits h 63 0
      let rix := bits h 127 64
      let ring := bits h 191 128
      let lg := bits h 195 192
      if lg < 4 then (s, .error ())
      else if (wix + 2 ^ 64 - rix) % 2 ^ 64 < 2 ^ lg then (s, .ok (some (wix, ring + 32 * (wix % 2 ^ lg))))
      else (s, .ok none)

/-- Write the first record the steward holds, if the queue has room and is usable. True when it was written. -/
def State.flushOne (s : State) (ctx : Nat) : State × Bool :=
  match tget s.ctxs ctx with
  | none => (s, false)
  | some c =>
    match c.heldRecs with
    | [] => (s, false)
    | f :: rest =>
      match s.recSlot ctx with
      | (s, .error _) => (s, false)
      | (s, .ok none) => (s, false)
      | (s, .ok (some (n, a))) =>
        match s.pwrite 128 ctx none a (recBytes f) accEngWrite none with
        | (s, .error _) => (s, false)
        | (s, .ok _) =>
          match s.pwrite 128 ctx none c.frqh.toNat (natLe 8 (n + 1)) accEngWrite (some { agent := s.deviceAgent, scope := .sys }) with
          | (s, .error _) => (s, false)
          | (s, .ok _) => (s.modCtx ctx fun c => { c with heldRecs := rest, recs := tput c.recs n f }, true)

/-- Write the records held, in order, while there is room. -/
def State.flushRecs (s : State) (ctx : Nat) : Nat → State
  | 0 => s
  | n + 1 => let (s1, ok) := s.flushOne ctx; if ok then s1.flushRecs ctx n else s1

/-- Records the steward holds for a context. -/
def State.heldCount (s : State) (ctx : Nat) : Nat :=
  match tget s.ctxs ctx with
  | some c => c.heldRecs.length
  | none => 0

/-- After records were handed in: write what has room; a header that cannot be used posts a fault-queue-held event. -/
def State.deliverRecs (s : State) (ctx : Nat) : State :=
  let s1 := s.flushRecs ctx (s.heldCount ctx)
  if s1.heldCount ctx = 0 then s1
  else match s1.recSlot ctx with
    | (s2, .error _) => s2.event evQueueHeld ctx
    | (s2, .ok _) => s2

/-! ## What becomes of a lane -/

/-- What an instruction does with the thread that executed it. -/
inductive Out where
  /-- Goes on at PC + 4 in the drill. -/
  | next
  /-- A taken BRA or CALL: goes on at a target; a drill with both outcomes splits (01 R23). -/
  | goto (pc : DWord)
  /-- RET, CALLI, JMPI: the drill goes on with the threads at the pc of the lowest lane (07 R165). -/
  | regroup (pc : DWord)
  /-- The thread is filed at a pc (BRF, REFORM, YIELD, PAUSE of 0, ERET). -/
  | file (pc : DWord)
  /-- A synchronous trap (21 R373). -/
  | trap (code imm : Nat) (eaddr : DWord)
  /-- A translation or access fault parks the thread (01 R38, 21 R386). -/
  | park (code acc : Nat) (addr : DWord)
  /-- The thread sleeps (13 R258). -/
  | sleep (k : Sleep)
  /-- The thread waits for its row (01 R26). -/
  | rendezvous
  /-- The thread exits (07 R167). -/
  | exit
  /-- The thread stops for the debugger at a BKPT (21 R379, R397). -/
  | stop (tag : Nat)
  /-- The instruction has already placed the thread. -/
  | left
  deriving DecidableEq, Repr

/-- The lane neither parked nor trapped (21 R386). -/
def Out.completed : Out → Bool
  | .trap _ _ _ => false
  | .park _ _ _ => false
  | _ => true

/-- The completion mask of one execution (21 R386). -/
def maskOf (outs : List (Ref × Out)) : DWord :=
  outs.foldl (fun m x => if x.2.completed then m ||| (1#64 <<< x.1.lane) else m) 0

/-- A thread's PC + 4. -/
def Thread.pc4 (t : Thread) : DWord := t.pc + 4

/-- Move a thread to a pc within its drill. -/
def State.setPc (s : State) (r : Ref) (pc : DWord) : State := s.modThread r fun t => { t with pc := pc }

/-! ## Freezing a plot (21 R394, 23 R419) -/

/-- A plot whose thread commits a violation is frozen (21 R394): every thread of its tract is stopped as in still mode,
the offending thread at the offending instruction, and a record goes to the steward's log and to the context's queue. -/
def State.freezePlot (s : State) (r : Ref) (acc va : Nat) : State :=
  match s.thread? r, tget s.plots r.tag with
  | some t, some p =>
    let f := s.recOf r 6 acc 0x22 (BitVec.ofNat 64 va) t.pc 0
    let s1 := (s.stillTract p.tract).modTract p.tract fun x => { x with frozen := true }
    let s2 := (s1.toHeadland r .stopped).modThread r fun t => { t with stopReq := false, noMatch := true }
    let s3 := s2.modPlot r.tag fun q => { q with frozen := true }
    (({ s3 with steward := { s3.steward with log := s3.steward.log ++ [(0x22, va)] } }.event evFreeze r.tag).addRec p.ctx { f with ref := none })
  | _, _ => s

/-- What becomes of one lane. -/
def State.settleLane (s : State) (word : Word) (mask : DWord) (slot : Nat) (x : Ref × Out) : State :=
  let r := x.1
  match x.2 with
  | .next => s.modThread r fun t => { t with pc := t.pc4 }
  | .goto pc => s.setPc r pc
  | .regroup pc => s.setPc r pc
  | .file pc => s.fileThread r pc (rankDrill slot r)
  | .trap code imm ea => s.takeTrap r word code imm ea
  | .park code acc addr =>
    match s.thread? r with
    | none => s
    | some t => if code = fcFreeze then s.freezePlot r acc addr.toNat else s.parkThread r (s.recOf r 0 acc code addr t.pc mask) t.pc
  | .sleep k => s.toHeadland r (.sleep k)
  | .rendezvous => s.toHeadland r .rendezvous
  | .exit => s.exitThread r
  | .stop tag => s.stopThread r (some tag)
  | .left => s

/-- Move threads into a new drill at a free slot (01 R23). -/
def State.newDrill (s : State) (core slot : Nat) (rs : List Ref) (single : Bool) (group : Option GroupWord) : State :=
  let s1 := rs.foldl (fun s r => (s.leaveDrill r).modThread r fun t => { t with place := .drill slot }) s
  s1.modCore core fun k => { k with drills := tput k.drills slot { lanes := rs, formed := s.cycle, ready := s.cycle, single := single, group := group } }

/-- File threads at their own pcs, in ascending lane order. -/
def State.fileAll (s : State) (slot : Nat) (rs : List Ref) : State :=
  rs.foldl (fun s r => match s.thread? r with | some t => s.fileThread r t.pc (rankDrill slot r) | none => s) s

/-- A BRA or CALL whose threads disagree (01 R23): the taken part takes the lowest free slot and the rest keeps the slot (log 10);
with no slot free the part with fewer threads is filed, the taken part on a tie. -/
def State.split (s : State) (core slot : Nat) (taken rest : List Ref) : State :=
  if taken.isEmpty ∨ rest.isEmpty then s
  else match tfree (s.core core).drills 0 256 with
    | some n => s.newDrill core n taken false none
    | none => if taken.length ≤ rest.length then s.fileAll slot taken else s.fileAll slot rest

/-- Threads that stay in the drill after RET, CALLI or JMPI: those at the pc of the lowest lane; the others are filed (07 R165). Where the lowest lane itself
leaves at the instruction, the lowest of those that stay decides (DESIGN CHOICE, log 52). -/
def State.regroup (s : State) (slot : Nat) (stay : List Ref) : State :=
  match stay with
  | [] => s
  | r0 :: _ =>
    let pc0 := (s.thread? r0).map Thread.pc
    s.fileAll slot (stay.filter fun r => (s.thread? r).map Thread.pc != pc0)

/-- The lane stays in the drill. -/
def Out.stays : Out → Bool
  | .next => true
  | .goto _ => true
  | .regroup _ => true
  | _ => false

/-- The lane took a branch. -/
def Out.isGoto : Out → Bool
  | .goto _ => true
  | _ => false

/-- The lane went through RET, CALLI or JMPI. -/
def Out.isRegroup : Out → Bool
  | .regroup _ => true
  | _ => false

/-- The lane parked. -/
def Out.isPark : Out → Bool
  | .park _ _ _ => true
  | _ => false

/-- The lane left a record: it parked, or its trap may have been a double trap. -/
def Out.mayRecord : Out → Bool
  | .park _ _ _ => true
  | .trap _ _ _ => true
  | .left => true
  | _ => false

/-- The contexts of lanes that may have left records. -/
def State.recCtxs (s : State) (outs : List (Ref × Out)) : List Nat :=
  ((outs.filter fun x => x.2.mayRecord).map fun x => s.ctxIdOf x.1).eraseDups

/-- What becomes of the lanes of one execution, in ascending lane order, then of the drill (01 R23), then the fault records
are delivered in ascending lane order (21 R386). -/
def State.settle (s : State) (outs : List (Ref × Out)) : State :=
  let c := s.cur
  let s1 := outs.foldl (fun s x => s.settleLane c.word (maskOf outs) c.slot x) s
  let stay := outs.filter fun x => x.2.stays
  let s2 :=
    if stay.any fun x => x.2.isRegroup then s1.regroup c.slot (stay.map Prod.fst)
    else s1.split c.core c.slot ((stay.filter fun x => x.2.isGoto).map Prod.fst) ((stay.filter fun x => !x.2.isGoto).map Prod.fst)
  (s2.recCtxs outs).foldl State.deliverRecs s2

/-! ## Running the lanes -/

/-- One lane's part of an instruction. -/
abbrev LaneFn := State → Ref → Plot → Thread → State × Out

/-- Run one lane; a lane whose thread is gone does nothing. -/
def runLane (f : LaneFn) (acc : State × List (Ref × Out)) (r : Ref) : State × List (Ref × Out) :=
  match tget acc.1.plots r.tag, acc.1.thread? r with
  | some p, some t => let (s, o) := f acc.1 r p t; (s, acc.2 ++ [(r, o)])
  | _, _ => acc

/-- The lane's own access stays at its source for want of a port (23 R410). -/
def Out.waits : Out → Bool
  | .park code _ _ => code == fcNoPort
  | _ => false

/-- What the lanes of one execution leave: where an access that the instruction itself waits for finds no port, the drill stays at the instruction (23 R410, log
40), with no lane noted as having executed. -/
def State.settleOr (s s0 : State) (outs : List (Ref × Out)) : State :=
  if outs.any fun x => x.2.waits then { s0 with cur := { s0.cur with lanes := [] } } else s.settle outs

/-- Run every lane of the drill in ascending lane order (09 R204), then settle. -/
def runLanes (f : LaneFn) (s : State) : State :=
  let (s1, outs) := s.cur.lanes.foldl (runLane f) (s, [])
  s1.settleOr s outs

/-- What operands read for a lane. -/
def State.env (s : State) (r : Ref) (p : Plot) : Env := { k := p.k, tid := r.tid, cycle := s.cycle }

/-- An instruction that only changes its own thread: guard, register ranges, effect (03 R62 checks 4 and 5, 07 R121). -/
def pureLane (guard : Thread → Bool) (ops : List (Reg × Nat)) (eff : Env → Thread → Thread) : LaneFn := fun s r p t =>
  if !guard t then (s, .next)
  else if !t.inRanges ops then (s, .trap trapRange 0 0)
  else (s.setThread r (eff (s.env r p) t), .next)

/-- A register instruction over the drill. -/
def runPure (guard : Thread → Bool) (ops : List (Reg × Nat)) (eff : Env → Thread → Thread) (s : State) : State :=
  runLanes (pureLane guard ops eff) s

/-- A TR instruction's guard. -/
def gTR (g : Fin 8) : Thread → Bool := fun t => t.guard g

/-- A Y instruction's guard (03 R61). -/
def gY (g : Fin 128) : Thread → Bool := fun t => t.pred g.val

/-- No guard. -/
def gAll : Thread → Bool := fun _ => true

/-- A privileged sub-op outside the supervisor handler is an illegal instruction (03 R62 check 2). -/
def supLane (f : LaneFn) : LaneFn := fun s r p t => if t.sup then f s r p t else (s, .trap trapIllegal 0 0)

/-- An ENG sub-op that the thread's role does not permit takes the role trap, guard or no guard (01 R17, 03 R62 check 3). -/
def roleLane (ok : Role → Bool) (f : LaneFn) : LaneFn := fun s r p t =>
  if ok (p.role r.tid) then f s r p t else (s, .trap trapRole 0 0)

end Sys2Proof.Machine
end

