-- ==== Sys2Proof/Machine/Integer.lean ====
section
/-! DEFINITION. Integer, logic, shift, 64-bit, compare and predicate instructions, majors 0x00 to 0x0D (07 R124 to R132),
and the integer immediates of major 0x26 (07 R156). -/

namespace Sys2Proof.Machine

/-- What a meaning answers. -/
abbrev Result := Host.Outcome State Fault Refusal

/-- D := f A B on 32-bit registers. -/
def tr32 (d a b : Reg) (g : Fin 8) (f : Word → Word → Word) (s : State) : Result :=
  .next (runPure (gTR g) [(d, 1), (a, 1), (b, 1)] (fun e t => t.wr32 d (f (t.rd32 e a) (t.rd32 e b))) s)

/-- D := f A B D, D read and written. -/
def tr32d (d a b : Reg) (g : Fin 8) (f : Word → Word → Word → Word) (s : State) : Result :=
  .next (runPure (gTR g) [(d, 1), (a, 1), (b, 1)] (fun e t => t.wr32 d (f (t.rd32 e a) (t.rd32 e b) (t.rd32 e d))) s)

/-- D := f A. -/
def tr32u (d a : Reg) (g : Fin 8) (f : Word → Word) (s : State) : Result :=
  .next (runPure (gTR g) [(d, 1), (a, 1)] (fun e t => t.wr32 d (f (t.rd32 e a))) s)

/-- D := f A B on pairs. -/
def tr64 (d a b : Reg) (g : Fin 8) (f : DWord → DWord → DWord) (s : State) : Result :=
  .next (runPure (gTR g) [(d, 2), (a, 2), (b, 2)] (fun e t => t.wr64 d (f (t.rd64 e a) (t.rd64 e b))) s)

/-- D := f A B, A and D pairs, B a 32-bit register. -/
def tr64w (d a b : Reg) (g : Fin 8) (f : DWord → Word → DWord) (s : State) : Result :=
  .next (runPure (gTR g) [(d, 2), (a, 2), (b, 1)] (fun e t => t.wr64 d (f (t.rd64 e a) (t.rd32 e b))) s)

/-- p := c A B. -/
def trCmp (p : Fin 128) (a b : Reg) (g : Fin 8) (c : Word → Word → Bool) (s : State) : Result :=
  .next (runPure (gTR g) [(a, 1), (b, 1)] (fun e t => t.setPred p.val (c (t.rd32 e a) (t.rd32 e b))) s)

/-- p := c q r on predicates. -/
def trPred (p q r : Fin 128) (g : Fin 8) (c : Bool → Bool → Bool) (s : State) : Result :=
  .next (runPure (gTR g) [] (fun _ t => t.setPred p.val (c (t.pred q.val) (t.pred r.val))) s)

/-- D := f D IMM. -/
def immOp (d : Reg) (f : Word → Word) (s : State) : Result :=
  .next (runPure gAll [(d, 1)] (fun e t => t.wr32 d (f (t.rd32 e d))) s)

/-! ## Values -/

/-- Bits [63:32] of the signed product (07 Table 7.1). -/
def mulHigh (a b : Word) : Word := ((a.signExtend 64 * b.signExtend 64) >>> 32).setWidth 32

/-- Bits [63:32] of the unsigned product. -/
def mulHighU (a b : Word) : Word := ((a.setWidth 64 * b.setWidth 64) >>> 32).setWidth 32

/-- Signed quotient towards zero, with the cases of 07 Table 7.2. -/
def divSigned (a b : Word) : Word := if b = 0 then 0xFFFFFFFF else BitVec.ofInt 32 (a.toInt.tdiv b.toInt)

/-- Signed remainder with the sign of A (07 R125, Table 7.2). -/
def remSigned (a b : Word) : Word := if b = 0 then a else BitVec.ofInt 32 (a.toInt.tmod b.toInt)

/-- Unsigned quotient (07 Table 7.2). -/
def divUnsigned (a b : Word) : Word := if b = 0 then 0xFFFFFFFF else a / b

/-- Unsigned remainder (07 Table 7.2). -/
def remUnsigned (a b : Word) : Word := if b = 0 then a else a % b

/-- Rotation left by k below 32 (07 Table 7.3). -/
def rotLeft (a : Word) (k : Nat) : Word := (a <<< k) ||| (a >>> (32 - k))

/-- Number of 1 bits among the low n. -/
def onesBelow (a : Word) : Nat → Nat
  | 0 => 0
  | n + 1 => onesBelow a n + (a.getLsbD n).toNat

/-- Number of 1 bits. -/
def popCount (a : Word) : Nat := onesBelow a 32

/-- Zero bits from bit n - 1 down to the highest 1 bit. -/
def leadingZeros (a : Word) : Nat → Nat
  | 0 => 0
  | n + 1 => if a.getLsbD n then 0 else leadingZeros a n + 1

/-- Bit reversal (07 Table 7.3). -/
def bitReverse (a : Word) : Word := (List.range 32).foldl (fun v i => if a.getLsbD (31 - i) then v ||| (1#32 <<< i) else v) 0

/-- The low len bits set, len up to 32. -/
def lowMask (len : Nat) : Word := BitVec.ofNat 32 (2 ^ len - 1)

/-- Start and length of a bit field (07 R127). -/
def fieldStart (b : Word) : Nat := b.toNat % 32
def fieldLen (b : Word) : Nat := b.toNat / 256 % 32 + 1

/-- BFE (07 R127). -/
def bitExtract (a b : Word) : Word := (a >>> fieldStart b) &&& lowMask (fieldLen b)

/-- BFI (07 R127): bits of the field above bit 31 do not exist. -/
def bitInsert (a b d : Word) : Word :=
  let m := lowMask (fieldLen b) <<< fieldStart b
  (d &&& ~~~m) ||| ((a <<< fieldStart b) &&& m)

/-- A 32-predicate group as a word, bit i the predicate n + i (07 R132). -/
def predWord (t : Thread) (n : Nat) : Word := (List.range 32).foldl (fun v i => if t.pred (n + i) then v ||| (1#32 <<< i) else v) 0

/-! ## The instructions -/

/-- IADD (R124). -/
def execIadd (d : Reg) (a : Reg) (b : Reg) (g : Fin 8) (s : State) : Result :=
  tr32 d a b g (fun x y => x + y) s

/-- ISUB (R124). -/
def execIsub (d : Reg) (a : Reg) (b : Reg) (g : Fin 8) (s : State) : Result :=
  tr32 d a b g (fun x y => x - y) s

/-- IMUL (R124). -/
def execImul (d : Reg) (a : Reg) (b : Reg) (g : Fin 8) (s : State) : Result :=
  tr32 d a b g (fun x y => x * y) s

/-- IMULH (R124). -/
def execImulh (d : Reg) (a : Reg) (b : Reg) (g : Fin 8) (s : State) : Result :=
  tr32 d a b g (mulHigh) s

/-- IMULHU (R124). -/
def execImulhu (d : Reg) (a : Reg) (b : Reg) (g : Fin 8) (s : State) : Result :=
  tr32 d a b g (mulHighU) s

/-- IMAD (R124). -/
def execImad (d : Reg) (a : Reg) (b : Reg) (g : Fin 8) (s : State) : Result :=
  tr32d d a b g (fun x y z => x * y + z) s

/-- DIVS (R125). -/
def execDivs (d : Reg) (a : Reg) (b : Reg) (g : Fin 8) (s : State) : Result :=
  tr32 d a b g (divSigned) s

/-- DIVU (R125). -/
def execDivu (d : Reg) (a : Reg) (b : Reg) (g : Fin 8) (s : State) : Result :=
  tr32 d a b g (divUnsigned) s

/-- REMS (R125). -/
def execRems (d : Reg) (a : Reg) (b : Reg) (g : Fin 8) (s : State) : Result :=
  tr32 d a b g (remSigned) s

/-- REMU (R125). -/
def execRemu (d : Reg) (a : Reg) (b : Reg) (g : Fin 8) (s : State) : Result :=
  tr32 d a b g (remUnsigned) s

/-- IMIN (R124). -/
def execImin (d : Reg) (a : Reg) (b : Reg) (g : Fin 8) (s : State) : Result :=
  tr32 d a b g (fun x y => if x.slt y then x else y) s

/-- IMAX (R124). -/
def execImax (d : Reg) (a : Reg) (b : Reg) (g : Fin 8) (s : State) : Result :=
  tr32 d a b g (fun x y => if y.slt x then x else y) s

/-- IMINU (R124). -/
def execIminu (d : Reg) (a : Reg) (b : Reg) (g : Fin 8) (s : State) : Result :=
  tr32 d a b g (fun x y => if x < y then x else y) s

/-- IMAXU (R124). -/
def execImaxu (d : Reg) (a : Reg) (b : Reg) (g : Fin 8) (s : State) : Result :=
  tr32 d a b g (fun x y => if y < x then x else y) s

/-- IABS (R124). -/
def execIabs (d : Reg) (a : Reg) (g : Fin 8) (s : State) : Result :=
  tr32u d a g (fun x => if x.slt 0 then -x else x) s

/-- INEG (R124). -/
def execIneg (d : Reg) (a : Reg) (g : Fin 8) (s : State) : Result :=
  tr32u d a g (fun x => 0 - x) s

/-- AND (R126). -/
def execAndb (d : Reg) (a : Reg) (b : Reg) (g : Fin 8) (s : State) : Result :=
  tr32 d a b g (fun x y => x &&& y) s

/-- OR (R126). -/
def execOrb (d : Reg) (a : Reg) (b : Reg) (g : Fin 8) (s : State) : Result :=
  tr32 d a b g (fun x y => x ||| y) s

/-- XOR (R126). -/
def execXorb (d : Reg) (a : Reg) (b : Reg) (g : Fin 8) (s : State) : Result :=
  tr32 d a b g (fun x y => x ^^^ y) s

/-- ANDN (R126). -/
def execAndn (d : Reg) (a : Reg) (b : Reg) (g : Fin 8) (s : State) : Result :=
  tr32 d a b g (fun x y => x &&& ~~~y) s

/-- SHL (R126). -/
def execShl (d : Reg) (a : Reg) (b : Reg) (g : Fin 8) (s : State) : Result :=
  tr32 d a b g (fun x y => x <<< (y.toNat % 32)) s

/-- SHR (R126). -/
def execShr (d : Reg) (a : Reg) (b : Reg) (g : Fin 8) (s : State) : Result :=
  tr32 d a b g (fun x y => x >>> (y.toNat % 32)) s

/-- SAR (R126). -/
def execSar (d : Reg) (a : Reg) (b : Reg) (g : Fin 8) (s : State) : Result :=
  tr32 d a b g (fun x y => x.sshiftRight (y.toNat % 32)) s

/-- ROTL (R126). -/
def execRotl (d : Reg) (a : Reg) (b : Reg) (g : Fin 8) (s : State) : Result :=
  tr32 d a b g (fun x y => rotLeft x (y.toNat % 32)) s

/-- POPC (R126). -/
def execPopc (d : Reg) (a : Reg) (g : Fin 8) (s : State) : Result :=
  tr32u d a g (fun x => BitVec.ofNat 32 (popCount x)) s

/-- CLZ (R126). -/
def execClz (d : Reg) (a : Reg) (g : Fin 8) (s : State) : Result :=
  tr32u d a g (fun x => BitVec.ofNat 32 (leadingZeros x 32)) s

/-- BREV (R126). -/
def execBrev (d : Reg) (a : Reg) (g : Fin 8) (s : State) : Result :=
  tr32u d a g (bitReverse) s

/-- BFE (R127). -/
def execBfe (d : Reg) (a : Reg) (b : Reg) (g : Fin 8) (s : State) : Result :=
  tr32 d a b g (bitExtract) s

/-- BFI (R127). -/
def execBfi (d : Reg) (a : Reg) (b : Reg) (g : Fin 8) (s : State) : Result :=
  tr32d d a b g (bitInsert) s

/-- LEA (R128). -/
def execLea (d : Reg) (a : Reg) (b : Reg) (g : Fin 8) (s : State) : Result :=
  tr64w d a b g (fun x y => x + y.signExtend 64) s

/-- SEL (R128). -/
def execSel (d : Reg) (a : Reg) (b : Reg) (g : Fin 8) (s : State) : Result :=
  .next (runPure gAll [(d, 1), (a, 1), (b, 1)] (fun e t => t.wr32 d (if t.guard g then t.rd32 e a else t.rd32 e b)) s)

/-- MOV (R126). -/
def execMov (d : Reg) (a : Reg) (g : Fin 8) (s : State) : Result :=
  tr32u d a g (fun x => x) s

/-- IADD64 (R129). -/
def execIadd64 (d : Reg) (a : Reg) (b : Reg) (g : Fin 8) (s : State) : Result :=
  tr64 d a b g (fun x y => x + y) s

/-- ISUB64 (R129). -/
def execIsub64 (d : Reg) (a : Reg) (b : Reg) (g : Fin 8) (s : State) : Result :=
  tr64 d a b g (fun x y => x - y) s

/-- IMUL64 (R129). -/
def execImul64 (d : Reg) (a : Reg) (b : Reg) (g : Fin 8) (s : State) : Result :=
  tr64 d a b g (fun x y => x * y) s

/-- MOV64 (R129). -/
def execMov64 (d : Reg) (a : Reg) (g : Fin 8) (s : State) : Result :=
  .next (runPure (gTR g) [(d, 2), (a, 2)] (fun e t => t.wr64 d (t.rd64 e a)) s)

/-- SHL64 (R129). -/
def execShl64 (d : Reg) (a : Reg) (b : Reg) (g : Fin 8) (s : State) : Result :=
  tr64w d a b g (fun x y => x <<< (y.toNat % 64)) s

/-- SHR64 (R129). -/
def execShr64 (d : Reg) (a : Reg) (b : Reg) (g : Fin 8) (s : State) : Result :=
  tr64w d a b g (fun x y => x >>> (y.toNat % 64)) s

/-- SAR64 (R129). -/
def execSar64 (d : Reg) (a : Reg) (b : Reg) (g : Fin 8) (s : State) : Result :=
  tr64w d a b g (fun x y => x.sshiftRight (y.toNat % 64)) s

/-- IMAD64 (R129). -/
def execImad64 (d : Reg) (a : Reg) (b : Reg) (g : Fin 8) (s : State) : Result :=
  .next (runPure (gTR g) [(d, 2), (a, 2), (b, 2)] (fun e t => t.wr64 d (t.rd64 e a * t.rd64 e b + t.rd64 e d)) s)

/-- ICMP.EQ (R130). -/
def execIcmpEq (p : Fin 128) (a : Reg) (b : Reg) (g : Fin 8) (s : State) : Result :=
  trCmp p a b g (fun x y => x == y) s

/-- ICMP.NE (R130). -/
def execIcmpNe (p : Fin 128) (a : Reg) (b : Reg) (g : Fin 8) (s : State) : Result :=
  trCmp p a b g (fun x y => x != y) s

/-- ICMP.LT (R130). -/
def execIcmpLt (p : Fin 128) (a : Reg) (b : Reg) (g : Fin 8) (s : State) : Result :=
  trCmp p a b g (fun x y => x.slt y) s

/-- ICMP.LE (R130). -/
def execIcmpLe (p : Fin 128) (a : Reg) (b : Reg) (g : Fin 8) (s : State) : Result :=
  trCmp p a b g (fun x y => x.sle y) s

/-- ICMP.LTU (R130). -/
def execIcmpLtu (p : Fin 128) (a : Reg) (b : Reg) (g : Fin 8) (s : State) : Result :=
  trCmp p a b g (fun x y => x.ult y) s

/-- ICMP.LEU (R130). -/
def execIcmpLeu (p : Fin 128) (a : Reg) (b : Reg) (g : Fin 8) (s : State) : Result :=
  trCmp p a b g (fun x y => x.ule y) s

/-- ITST (R130). -/
def execItst (p : Fin 128) (a : Reg) (b : Reg) (g : Fin 8) (s : State) : Result :=
  trCmp p a b g (fun x y => (x &&& y) != 0) s

/-- ITSTN (R130). -/
def execItstn (p : Fin 128) (a : Reg) (b : Reg) (g : Fin 8) (s : State) : Result :=
  trCmp p a b g (fun x y => (x &&& y) == 0) s

/-- PAND (R131). -/
def execPand (p : Fin 128) (q : Fin 128) (r : Fin 128) (g : Fin 8) (s : State) : Result :=
  trPred p q r g (fun x y => x && y) s

/-- POR (R131). -/
def execPor (p : Fin 128) (q : Fin 128) (r : Fin 128) (g : Fin 8) (s : State) : Result :=
  trPred p q r g (fun x y => x || y) s

/-- PXOR (R131). -/
def execPxor (p : Fin 128) (q : Fin 128) (r : Fin 128) (g : Fin 8) (s : State) : Result :=
  trPred p q r g (fun x y => x != y) s

/-- PANDN (R131). -/
def execPandn (p : Fin 128) (q : Fin 128) (r : Fin 128) (g : Fin 8) (s : State) : Result :=
  trPred p q r g (fun x y => x && !y) s

/-- PMOV (R131). -/
def execPmov (p : Fin 128) (q : Fin 128) (g : Fin 8) (s : State) : Result :=
  .next (runPure (gTR g) [] (fun _ t => t.setPred p.val (t.pred q.val)) s)

/-- PTOR (R132). -/
def execPtor (d : Reg) (q : Fin 128) (g : Fin 8) (s : State) : Result :=
  .next (runPure (gTR g) [(d, 1)] (fun _ t => t.wr32 d (predWord t q.val)) s)

/-- RTOP (R132). -/
def execRtop (p : Fin 128) (a : Reg) (g : Fin 8) (s : State) : Result :=
  .next (runPure (gTR g) [(a, 1)] (fun e t => t.setPreds p.val ((List.range 32).map fun i => (t.rd32 e a).getLsbD i)) s)

/-- PCNT (R132). -/
def execPcnt (d : Reg) (q : Fin 128) (g : Fin 8) (s : State) : Result :=
  .next (runPure (gTR g) [(d, 1)] (fun _ t => t.wr32 d (BitVec.ofNat 32 (popCount (predWord t q.val)))) s)

/-- MOVI (R67). -/
def execMovi (d : Reg) (imm : BitVec 16) (s : State) : Result :=
  immOp d (fun _ => imm.signExtend 32) s

/-- MOVHI (R67). -/
def execMovhi (d : Reg) (imm : BitVec 16) (s : State) : Result :=
  immOp d (fun x => (imm.setWidth 32 <<< 16) ||| (x &&& 0xFFFF)) s

/-- ADDI (R67). -/
def execAddi (d : Reg) (imm : BitVec 16) (s : State) : Result :=
  immOp d (fun x => x + imm.signExtend 32) s

/-- ANDI (R67). -/
def execAndi (d : Reg) (imm : BitVec 16) (s : State) : Result :=
  immOp d (fun x => x &&& imm.setWidth 32) s

/-- ORI (R67). -/
def execOri (d : Reg) (imm : BitVec 16) (s : State) : Result :=
  immOp d (fun x => x ||| imm.setWidth 32) s

/-- XORI (R67). -/
def execXori (d : Reg) (imm : BitVec 16) (s : State) : Result :=
  immOp d (fun x => x ^^^ imm.setWidth 32) s

/-- SHLI (R67). -/
def execShli (d : Reg) (n : Fin 32) (s : State) : Result :=
  immOp d (fun x => x <<< n.val) s

/-- SHRI (R67). -/
def execShri (d : Reg) (n : Fin 32) (s : State) : Result :=
  immOp d (fun x => x >>> n.val) s

end Sys2Proof.Machine
end

