-- ==== Sys2Proof/Machine/Float.lean ====
section
/-! DEFINITION. Float, function, conversion, sign, class and accumulator instructions, majors 0x0E to 0x1E
(07 R133 to R148), and the floating immediates and WINB, IXSET, IXADD of majors 0x27 and 0x28 (07 R157, R158). -/

namespace Sys2Proof.Machine

/-- Write D and OR the flags into TSTAT (05 R108). -/
def Thread.wrFlags (t : Thread) (d : Reg) (r : Word × Nat) : Thread := (t.wr32 d r.1).orStat (BitVec.ofNat 32 r.2)

/-- Round an exact result once; flags of the operation and of the rounding (05 R106, R109). -/
def roundOp (f : Fmt) (m : Mode) (x : XReal × Nat) : Nat × Nat :=
  let (c, g) := f.round m x.1
  (c, x.2 ||| g)

/-- An element-wise operation of two sources (07 R133, R134). -/
def fpBin (ty : FTy) (op : Mode → XReal → XReal → XReal × Nat) (m : Mode) (a b : Word) : Word × Nat :=
  packElems ty fun e => roundOp (ftyFmt ty) m (op m ((ftyFmt ty).value (elem ty a e)) ((ftyFmt ty).value (elem ty b e)))

/-- FFMA element-wise (07 R134). -/
def fpFma (ty : FTy) (m : Mode) (a b d : Word) : Word × Nat :=
  packElems ty fun e =>
    roundOp (ftyFmt ty) m
      (XReal.fma m ((ftyFmt ty).value (elem ty a e)) ((ftyFmt ty).value (elem ty b e)) ((ftyFmt ty).value (elem ty d e)))

/-- FMIN and FMAX element-wise (07 R135). -/
def fpMinMax (ty : FTy) (mx : Bool) (a b : Word) : Word × Nat :=
  packElems ty fun e => minMaxNum (ftyFmt ty) mx (elem ty a e) (elem ty b e)

/-- A compare of elements: truth and flags (07 R136). -/
def fpCmp (f : Fmt) (k : Nat) (a b : Nat) : Bool × Nat :=
  let x := f.value a
  let y := f.value b
  let un := x.isNaN || y.isNaN
  let sg := orFlags x.sigFlag y.sigFlag
  match k with
  | 0 => (x.eqv y, sg)
  | 1 => (!un && x.lt y, if un then flagNV else 0)
  | 2 => (!un && !y.lt x, if un then flagNV else 0)
  | _ => (un, sg)

/-- A compare over the elements: one predicate per element from p[D] up (07 R133, R136). -/
def fpCompare (ty : FTy) (k : Nat) (p : Fin 128) (a b : Reg) (g : Fin 8) (s : State) : Result :=
  .next (runPure (gTR g) [(a, 1), (b, 1)] (fun e t =>
    let rs := (List.range ty.elems).map fun i => fpCmp (ftyFmt ty) k (elem ty (t.rd32 e a) i) (elem ty (t.rd32 e b) i)
    (t.setPreds p.val (rs.map Prod.fst)).orStat (BitVec.ofNat 32 (rs.foldl (fun f x => f ||| x.2) 0))) s)

/-- D := f A B with flags. -/
def fp32 (d a b : Reg) (g : Fin 8) (f : Mode → Word → Word → Word × Nat) (s : State) : Result :=
  .next (runPure (gTR g) [(d, 1), (a, 1), (b, 1)] (fun e t => t.wrFlags d (f t.rmode (t.rd32 e a) (t.rd32 e b))) s)

/-- D := f A with flags. -/
def fp32u (d a : Reg) (g : Fin 8) (f : Mode → Word → Word × Nat) (s : State) : Result :=
  .next (runPure (gTR g) [(d, 1), (a, 1)] (fun e t => t.wrFlags d (f t.rmode (t.rd32 e a))) s)

/-- The F32 value of a register. -/
def f32 (v : Word) : XReal := fmtF32.value v.toNat

/-- A code and flags as a register result. -/
def asWord (r : Nat × Nat) : Word × Nat := (BitVec.ofNat 32 r.1, r.2)

/-- A correctly rounded function of one F32 operand (07 R137, 05 R116). -/
def fnOp (f : XReal → XReal × Nat) (m : Mode) (a : Word) : Word × Nat := asWord (roundOp fmtF32 m (f (f32 a)))

/-- FDIV (07 R137). -/
def fdivOp (m : Mode) (a b : Word) : Word × Nat := asWord (roundOp fmtF32 m ((f32 a).div (f32 b)))

/-- FLDEXP (07 R138). -/
def fldexpOp (m : Mode) (a b : Word) : Word × Nat :=
  match f32 a with
  | .nan g => (BitVec.ofNat 32 fmtF32.nanCode, if g then flagNV else 0)
  | .inf _ => (a, 0)
  | .fin s n d => if n = 0 then (a, 0) else asWord (fmtF32.round m (ldexpReal (.fin s n d) b.toInt))

/-- FRINT (07 R139). -/
def frintOp (m : Mode) (a : Word) : Word × Nat :=
  match f32 a with
  | .nan g => (BitVec.ofNat 32 fmtF32.nanCode, if g then flagNV else 0)
  | .inf _ => (a, 0)
  | .fin s n d =>
    let k := rndMag m s n d
    (BitVec.ofNat 32 (fmtF32.round m (.fin s k 1)).1, if k * d = n then 0 else flagNX)

/-- The value of a conversion source in the low bits of a register (07 R140). -/
def ceValue (ce : CE) (v : Word) : XReal := (ceFmt ce).value (v.toNat % 2 ^ (ceFmt ce).width)

/-- CVTFI (07 R140). -/
def cvtfiOp (ce : CE) (uns : Bool) (m : Mode) (a : Word) : Word × Nat := asWord (roundInt 32 (!uns) m (ceValue ce a))

/-- CVTIF (07 R140). -/
def cvtifOp (ce : CE) (uns : Bool) (m : Mode) (a : Word) : Word × Nat :=
  asWord ((ceFmt ce).round m (.ofInt (if uns then (a.toNat : Int) else a.toInt)))

/-- One conversion between floating formats; a signalling NaN raises NV (05 R107). -/
def cvtOne (src dst : Fmt) (m : Mode) (c : Nat) : Nat × Nat :=
  let x := src.value c
  let (r, f) := dst.round m x
  (r, f ||| x.sigFlag)

/-- CVTFF (07 R140). -/
def cvtffOp (src dst : CE) (m : Mode) (a : Word) : Word × Nat :=
  asWord (cvtOne (ceFmt src) (ceFmt dst) m (a.toNat % 2 ^ (ceFmt src).width))

/-- CVTPK (07 R141): two or four F32 words packed into one register. -/
def cvtpkOp (ce : CE) (m : Mode) (w : List Word) : Word × Nat :=
  let f := ceFmt ce
  let r := w.foldr (fun x (acc : Nat × Nat) => let (c, g) := cvtOne fmtF32 f m x.toNat; (c + acc.1 * 2 ^ f.width, g ||| acc.2)) (0, 0)
  (BitVec.ofNat 32 r.1, r.2)

/-- Registers a CVTPK source covers (03 Table 3.20). -/
def packRegs (ce : CE) : Nat :=
  match ce with
  | .f16 | .bf16 => 2
  | .f32 | .e4m3 | .e5m2 | .e2m3 | .e3m2 | .e2m1 => 4

/-- FCLASS (07 R143, Table 7.8). -/
def fclassOp (a : Word) : Word :=
  let s := a.getLsbD 31
  let ex := a.toNat / 2 ^ 23 % 256
  let fr := a.toNat % 2 ^ 23
  if ex = 255 then
    (if fr = 0 then (if s then 0x001 else 0x080) else if a.getLsbD 22 then 0x200 else 0x100)
  else if ex = 0 then
    (if fr = 0 then (if s then 0x008 else 0x010) else if s then 0x004 else 0x020)
  else if s then 0x002 else 0x040

/-- XA read as signed (03 R52). -/
def Thread.anchor (t : Thread) : Int := t.xa.toInt

/-- Two admissions of 16-bit halves (07 R145). -/
def xdotOp (f : Fmt) (xa : Int) (acc : Quad) (a b : Word) : Quad :=
  let p := fun (i : Nat) => axaProduct (f.value (a.toNat / 2 ^ (16 * i) % 2 ^ 16)) (f.value (b.toNat / 2 ^ (16 * i) % 2 ^ 16))
  axaAdmit (axaAdmit acc (p 0) xa) (p 1) xa

/-- XCMP (07 R148): bit for bit, Z apart. -/
def xcmpOp (a b : Quad) : Bool := a ||| (1#128 <<< 124) == b ||| (1#128 <<< 124)

/-- FP16 widened to F32 exactly, infinities and NaNs with their fraction in D[22:13] (03 Table 3.13, 07 R157). -/
def widenHf (imm : BitVec 16) : Word :=
  match fmtF16.value imm.toNat with
  | .fin s n d => BitVec.ofNat 32 (fmtF32.round 0 (.fin s n d)).1
  | _ =>
    (if imm.getLsbD 15 then (0x80000000 : Word) else 0) ||| 0x7F800000 ||| BitVec.ofNat 32 (imm.toNat % 2 ^ 10 * 2 ^ 13)

/-- BF16 widened to F32: the bits moved up, NaN bits kept (07 R157). -/
def widenBf (imm : BitVec 16) : Word := imm.setWidth 32 <<< 16

/-! ## The instructions -/

/-- FADD (R134). -/
def execFadd (ty : FTy) (d : Reg) (a : Reg) (b : Reg) (g : Fin 8) (s : State) : Result :=
  .next (runPure (gTR g) [(d, 1), (a, 1), (b, 1)] (fun e t => t.wrFlags d (fpBin ty XReal.add t.rmode (t.rd32 e a) (t.rd32 e b))) s)

/-- FSUB (R134). -/
def execFsub (ty : FTy) (d : Reg) (a : Reg) (b : Reg) (g : Fin 8) (s : State) : Result :=
  .next (runPure (gTR g) [(d, 1), (a, 1), (b, 1)] (fun e t => t.wrFlags d (fpBin ty (fun m x y => XReal.add m x y.neg) t.rmode (t.rd32 e a) (t.rd32 e b))) s)

/-- FMUL (R134). -/
def execFmul (ty : FTy) (d : Reg) (a : Reg) (b : Reg) (g : Fin 8) (s : State) : Result :=
  .next (runPure (gTR g) [(d, 1), (a, 1), (b, 1)] (fun e t => t.wrFlags d (fpBin ty (fun _ x y => x.mul y) t.rmode (t.rd32 e a) (t.rd32 e b))) s)

/-- FFMA (R134). -/
def execFfma (ty : FTy) (d : Reg) (a : Reg) (b : Reg) (g : Fin 8) (s : State) : Result :=
  .next (runPure (gTR g) [(d, 1), (a, 1), (b, 1)] (fun e t => t.wrFlags d (fpFma ty t.rmode (t.rd32 e a) (t.rd32 e b) (t.rd32 e d))) s)

/-- FMIN (R135). -/
def execFmin (ty : FTy) (d : Reg) (a : Reg) (b : Reg) (g : Fin 8) (s : State) : Result :=
  .next (runPure (gTR g) [(d, 1), (a, 1), (b, 1)] (fun e t => t.wrFlags d (fpMinMax ty false (t.rd32 e a) (t.rd32 e b))) s)

/-- FMAX (R135). -/
def execFmax (ty : FTy) (d : Reg) (a : Reg) (b : Reg) (g : Fin 8) (s : State) : Result :=
  .next (runPure (gTR g) [(d, 1), (a, 1), (b, 1)] (fun e t => t.wrFlags d (fpMinMax ty true (t.rd32 e a) (t.rd32 e b))) s)

/-- FCMPEQ (R136). -/
def execFcmpeq (ty : FTy) (p : Fin 128) (a : Reg) (b : Reg) (g : Fin 8) (s : State) : Result :=
  fpCompare ty 0 p a b g s

/-- FCMPLT (R136). -/
def execFcmplt (ty : FTy) (p : Fin 128) (a : Reg) (b : Reg) (g : Fin 8) (s : State) : Result :=
  fpCompare ty 1 p a b g s

/-- FCMPLE (R136). -/
def execFcmple (ty : FTy) (p : Fin 128) (a : Reg) (b : Reg) (g : Fin 8) (s : State) : Result :=
  fpCompare ty 2 p a b g s

/-- FCMPUN (R136). -/
def execFcmpun (ty : FTy) (p : Fin 128) (a : Reg) (b : Reg) (g : Fin 8) (s : State) : Result :=
  fpCompare ty 3 p a b g s

/-- FDIV (R137). -/
def execFdiv (d : Reg) (a : Reg) (b : Reg) (g : Fin 8) (s : State) : Result :=
  fp32 d a b g fdivOp s

/-- FSQRT (R137). -/
def execFsqrt (d : Reg) (a : Reg) (g : Fin 8) (s : State) : Result :=
  fp32u d a g (fnOp fnSqrt) s

/-- FRSQ (R137). -/
def execFrsq (d : Reg) (a : Reg) (g : Fin 8) (s : State) : Result :=
  fp32u d a g (fnOp fnRsq) s

/-- FRCP (R137). -/
def execFrcp (d : Reg) (a : Reg) (g : Fin 8) (s : State) : Result :=
  fp32u d a g (fnOp fnRcp) s

/-- FEXP2 (R137). -/
def execFexp2 (d : Reg) (a : Reg) (g : Fin 8) (s : State) : Result :=
  fp32u d a g (fnOp fnExp2) s

/-- FLOG2 (R137). -/
def execFlog2 (d : Reg) (a : Reg) (g : Fin 8) (s : State) : Result :=
  fp32u d a g (fnOp fnLog2) s

/-- FSINPI (R137). -/
def execFsinpi (d : Reg) (a : Reg) (g : Fin 8) (s : State) : Result :=
  fp32u d a g (fnOp fnSinPi) s

/-- FCOSPI (R137). -/
def execFcospi (d : Reg) (a : Reg) (g : Fin 8) (s : State) : Result :=
  fp32u d a g (fnOp fnCosPi) s

/-- FTANH (R137). -/
def execFtanh (d : Reg) (a : Reg) (g : Fin 8) (s : State) : Result :=
  fp32u d a g (fnOp fnTanh) s

/-- FSIGM (R137). -/
def execFsigm (d : Reg) (a : Reg) (g : Fin 8) (s : State) : Result :=
  fp32u d a g (fnOp fnSigm) s

/-- FLDEXP (R138). -/
def execFldexp (d : Reg) (a : Reg) (b : Reg) (g : Fin 8) (s : State) : Result :=
  fp32 d a b g fldexpOp s

/-- FRINT (R139). -/
def execFrint (d : Reg) (a : Reg) (g : Fin 8) (s : State) : Result :=
  fp32u d a g frintOp s

/-- CVTFI (R140). -/
def execCvtfi (d : Reg) (a : Reg) (ce : CE) (uns : Bool) (g : Fin 8) (s : State) : Result :=
  fp32u d a g (cvtfiOp ce uns) s

/-- CVTIF (R140). -/
def execCvtif (d : Reg) (a : Reg) (ce : CE) (uns : Bool) (g : Fin 8) (s : State) : Result :=
  fp32u d a g (cvtifOp ce uns) s

/-- CVTFF (R140). -/
def execCvtff (d : Reg) (a : Reg) (src : CE) (dst : CE) (g : Fin 8) (s : State) : Result :=
  fp32u d a g (cvtffOp src dst) s

/-- CVTPK (R141). -/
def execCvtpk (d : Reg) (a : Reg) (ce : CE) (g : Fin 8) (s : State) : Result :=
  .next (runPure (gTR g) [(d, 1), (a, packRegs ce)] (fun e t => t.wrFlags d (cvtpkOp ce t.rmode ((List.range (packRegs ce)).map (t.word e a)))) s)

/-- FABS (R142). -/
def execFabs (d : Reg) (a : Reg) (g : Fin 8) (s : State) : Result :=
  tr32u d a g (fun x => x &&& 0x7FFFFFFF) s

/-- FNEG (R142). -/
def execFneg (d : Reg) (a : Reg) (g : Fin 8) (s : State) : Result :=
  tr32u d a g (fun x => x ^^^ 0x80000000) s

/-- FCPYS (R142). -/
def execFcpys (d : Reg) (a : Reg) (b : Reg) (g : Fin 8) (s : State) : Result :=
  tr32 d a b g (fun x y => (x &&& 0x7FFFFFFF) ||| (y &&& 0x80000000)) s

/-- FCLASS (R143). -/
def execFclass (d : Reg) (a : Reg) (g : Fin 8) (s : State) : Result :=
  tr32u d a g fclassOp s

/-- XACC (R145). -/
def execXacc (d : Reg) (a : Reg) (b : Reg) (g : Fin 8) (s : State) : Result :=
  .next (runPure (gTR g) [(d, 4), (a, 1), (b, 1)] (fun e t => t.wr128 d (axaAdmit (t.rd128 e d) (axaProduct (f32 (t.rd32 e a)) (f32 (t.rd32 e b))) t.anchor)) s)

/-- XADD (R146). -/
def execXadd (d : Reg) (a : Reg) (g : Fin 8) (s : State) : Result :=
  .next (runPure (gTR g) [(d, 4), (a, 4)] (fun e t => t.wr128 d (axaCombine (t.rd128 e d) (t.rd128 e a))) s)

/-- XCVT (R147). -/
def execXcvt (d : Reg) (a : Reg) (ce : CE) (g : Fin 8) (s : State) : Result :=
  .next (runPure (gTR g) [(d, 1), (a, 4)] (fun e t => t.wrFlags d (asWord (axaConvert (t.rd128 e a) t.anchor (ceFmt ce) t.rmode))) s)

/-- XNEG (R146). -/
def execXneg (d : Reg) (a : Reg) (g : Fin 8) (s : State) : Result :=
  .next (runPure (gTR g) [(d, 4), (a, 4)] (fun e t => t.wr128 d (axaNeg (t.rd128 e a))) s)

/-- XANC (R144). -/
def execXanc (a : Reg) (g : Fin 8) (s : State) : Result :=
  .next (runPure (gTR g) [(a, 1)] (fun e t => { t with xa := (t.rd32 e a).setWidth 12 }) s)

/-- XDOTH (R145). -/
def execXdoth (d : Reg) (a : Reg) (b : Reg) (g : Fin 8) (s : State) : Result :=
  .next (runPure (gTR g) [(d, 4), (a, 1), (b, 1)] (fun e t => t.wr128 d (xdotOp fmtF16 t.anchor (t.rd128 e d) (t.rd32 e a) (t.rd32 e b))) s)

/-- XDOTB (R145). -/
def execXdotb (d : Reg) (a : Reg) (b : Reg) (g : Fin 8) (s : State) : Result :=
  .next (runPure (gTR g) [(d, 4), (a, 1), (b, 1)] (fun e t => t.wr128 d (xdotOp fmtBF16 t.anchor (t.rd128 e d) (t.rd32 e a) (t.rd32 e b))) s)

/-- XCMP (R148). -/
def execXcmp (p : Fin 128) (a : Reg) (b : Reg) (g : Fin 8) (s : State) : Result :=
  .next (runPure (gTR g) [(a, 4), (b, 4)] (fun e t => t.setPred p.val (xcmpOp (t.rd128 e a) (t.rd128 e b))) s)

/-- FMOVI.F32.BF (R157). -/
def execFmoviF32Bf (d : Reg) (imm : BitVec 16) (s : State) : Result :=
  immOp d (fun _ => widenBf imm) s

/-- FMOVI.F32.HF (R157). -/
def execFmoviF32Hf (d : Reg) (imm : BitVec 16) (s : State) : Result :=
  immOp d (fun _ => widenHf imm) s

/-- FMOVI.E4 (R67). -/
def execFmoviE4 (d : Reg) (imm : BitVec 16) (s : State) : Result :=
  immOp d (fun _ => imm ++ imm) s

/-- FMOVI.E5 (R67). -/
def execFmoviE5 (d : Reg) (imm : BitVec 16) (s : State) : Result :=
  immOp d (fun _ => imm ++ imm) s

/-- FMOVI.B2 (R67). -/
def execFmoviB2 (d : Reg) (imm : BitVec 16) (s : State) : Result :=
  immOp d (fun _ => imm ++ imm) s

/-- FMOVI.H2 (R67). -/
def execFmoviH2 (d : Reg) (imm : BitVec 16) (s : State) : Result :=
  immOp d (fun _ => imm ++ imm) s

/-- FADDI.F32 (R67). -/
def execFaddiF32 (d : Reg) (imm : BitVec 16) (s : State) : Result :=
  .next (runPure gAll [(d, 1)] (fun e t => t.wrFlags d (fpBin .f32 XReal.add t.rmode (t.rd32 e d) (widenBf imm))) s)

/-- FMULI.F32 (R67). -/
def execFmuliF32 (d : Reg) (imm : BitVec 16) (s : State) : Result :=
  .next (runPure gAll [(d, 1)] (fun e t => t.wrFlags d (fpBin .f32 (fun _ x y => x.mul y) t.rmode (t.rd32 e d) (widenBf imm))) s)

/-- WINB (R158). -/
def execWinb (imm : BitVec 16) (s : State) : Result :=
  .next (runLanes (fun s r _ t => if imm.toNat % 4 = 0 ∧ imm.toNat + 4 ≤ t.ra then (s.setThread r { t with wb := imm.toNat }, .next) else (s, .trap trapRange 0 0)) s)

/-- IXSET (R158). -/
def execIxset (imm : BitVec 16) (s : State) : Result :=
  .next (runPure gAll [] (fun _ t => { t with ix := imm.signExtend 32 }) s)

/-- IXADD (R158). -/
def execIxadd (imm : BitVec 16) (s : State) : Result :=
  .next (runPure gAll [] (fun _ t => { t with ix := t.ix + imm.signExtend 32 }) s)

end Sys2Proof.Machine
end

