-- ==== Sys2Proof/Machine/Elements.lean ====
section
/-! DEFINITION. Rows of elements as engines read them: unpacking and packing (05 R101), scaled values (R102, R103), and
the quantisation of a tile (R118 to R120). -/

namespace Sys2Proof.Machine

/-- The codes of n elements of w bits in ascending order, from bytes (05 R101). -/
def unpackCodes (w n : Nat) (l : List Byte) : List Nat := let v := leNat l; (List.range n).map fun i => v / 2 ^ (w * i) % 2 ^ w

/-- The bytes of element codes of w bits. -/
def packCodes (w : Nat) (l : List Nat) : List Byte := natLe ((l.length * w + 7) / 8) (l.foldr (fun c v => c % 2 ^ w + 2 ^ w * v) 0)

/-- Bytes of an element of a format that a converting copy takes (15 R307), 0 for the others. -/
def convSize (f : Nat) : Nat := if f = 0 then 4 else if f = 1 ∨ f = 2 then 2 else if f = 3 ∨ f = 4 then 1 else 0

/-- Convert a row from one format to another, with the flags of all conversions (15 R307). -/
def convertRow (sf df : Nat) (m : Mode) (l : List Byte) : List Byte × Nat :=
  match fmtFloat sf, fmtFloat df with
  | some a, some b =>
    let r := (unpackCodes (fmtBits sf) (l.length / convSize sf) l).map (cvtOne a b m)
    (packCodes (fmtBits df) (r.map Prod.fst), r.foldl (fun g x => g ||| x.2) 0)
  | _, _ => (l, 0)

/-! ## Scaled operands -/

/-- The scale of element k of row r of a format, from the bytes of its scale areas; blk is the index of the row's first
block, band the band scale's code (05 R102, R103). -/
def scaleOf (fmt : Nat) (blocks : List Byte) (blk : Nat) (band : Nat) (k : Nat) : XReal :=
  if fmt = 11 then (fmtE3M5.value (blocks.getD (blk + k / 8) 0).toNat).mul (fmtBF16.value band) |>.1
  else e8m0 (blocks.getD (blk + k / 32) 0).toNat

/-- A BF16 band scale that is NaN or infinite makes every element of its band NaN (05 R102). -/
def bandBad (band : Nat) : Bool := match fmtBF16.value band with | .nan _ => true | .inf _ => true | .fin _ _ _ => false

/-- The exact values of a row of n elements (05 R99 to R103). -/
def rowValues (fmt n : Nat) (row blocks : List Byte) (blk band : Nat) : List XReal :=
  let cs := unpackCodes (fmtBits fmt) n row
  if fmt = 11 ∧ bandBad band then cs.map fun _ => .nan false
  else if fmtScaled fmt then (List.range n).map fun k => ((elemValue fmt (cs.getD k 0)).mul (scaleOf fmt blocks blk band k)).1
  else cs.map (elemValue fmt)

/-! ## Quantisation -/

/-- Magnitude of a finite value as a fraction. -/
def magOf : XReal → Nat × Nat
  | .fin _ n d => (n, d)
  | _ => (0, 1)

/-- The larger of two fractions. -/
def maxFrac (x y : Nat × Nat) : Nat × Nat := if x.1 * y.2 < y.1 * x.2 then y else x

/-- The largest magnitude of a list. -/
def maxMag (l : List XReal) : Nat × Nat := l.foldl (fun m x => maxFrac m (magOf x)) (0, 1)

/-- NaN or infinite. -/
def XReal.nonFinite : XReal → Bool
  | .fin _ _ _ => false
  | _ => true

/-- Split a list into pieces of n, the last perhaps shorter. -/
def piecesAux {α : Type} (n : Nat) : Nat → List α → List (List α)
  | 0, _ => []
  | k + 1, l => if l.isEmpty then [] else l.take n :: piecesAux n k (l.drop n)

def pieces {α : Type} (n : Nat) (l : List α) : List (List α) := piecesAux n l.length l

/-- A quantised tile: codes of each row, block scales of each row, band scales, flags, and whether an input was not finite. -/
structure Quantised where
  rows : List (List Nat)
  blocks : List (List Nat)
  bands : List Nat
  flags : Nat
  nonFinite : Bool
  deriving DecidableEq, Repr

/-- Step 3 of R118: the smallest E3M5 code s with s × band ≥ blockmax / 6. -/
def blockScale (blockmax band : Nat × Nat) : Nat :=
  ((List.range 256).find? fun c =>
    let s := magOf (fmtE3M5.value c)
    decide (blockmax.1 * s.2 * band.2 ≤ 6 * (s.1 * band.1 * blockmax.2))).getD 255

/-- Step 4 of R118 for one element; a zero of any sign is +0, and no step raises UF. -/
def quantElem (s band : Nat × Nat) (x : XReal) : Nat × Nat :=
  if s.1 * band.1 = 0 then (0, 0)
  else
    let m := magOf x
    let (c, f) := fmtE2M1.round 0 (.fin x.sign (m.1 * s.2 * band.2) (m.2 * s.1 * band.1))
    (if c % 8 = 0 then 0 else c, f &&& (flagNX ||| flagOF))

/-- Quantise one band to BQ4 (R118, R120). -/
def quantBand (rows : List (List XReal)) : Quantised :=
  if rows.any fun r => r.any XReal.nonFinite then
    { rows := rows.map fun r => r.map fun _ => 0, blocks := rows.map fun r => (pieces 8 r).map fun _ => 0, bands := [0x7FC0], flags := 0,
      nonFinite := true }
  else
    let bm := maxMag rows.flatten
    let code := (fmtBF16.round 2 (.fin false bm.1 (bm.2 * 189))).1
    let band := magOf (fmtBF16.value code)
    let q := rows.map fun r => (pieces 8 r).map fun b =>
      let s := blockScale (maxMag b) band
      (s, b.map (quantElem (magOf (fmtE3M5.value s)) band))
    { rows := q.map fun r => (r.map fun b => b.2.map Prod.fst).flatten
      blocks := q.map fun r => r.map Prod.fst
      bands := [code]
      flags := (q.map fun r => (r.map fun b => b.2.map Prod.snd).flatten).flatten.foldl (fun g x => g ||| x) 0
      nonFinite := false }

/-- Join tiles one below the other. -/
def Quantised.join (a b : Quantised) : Quantised :=
  { rows := a.rows ++ b.rows, blocks := a.blocks ++ b.blocks, bands := a.bands ++ b.bands, flags := a.flags ||| b.flags,
    nonFinite := a.nonFinite || b.nonFinite }

/-- An empty tile. -/
def Quantised.empty : Quantised := { rows := [], blocks := [], bands := [], flags := 0, nonFinite := false }

/-- Quantise one block to an MX format with element format f and emax of its elements (R119, R120): the scale code, the
codes, the flags. A block that is not finite raises no flag, a signalling NaN in it neither (DESIGN CHOICE, log 56). -/
def quantBlock (f : Fmt) (emax : Int) (b : List XReal) : Nat × List Nat × Nat × Bool :=
  if b.any XReal.nonFinite then (255, b.map fun _ => 0, 0, true)
  else
    let m := maxMag b
    let s : Int := if m.1 = 0 then 0 else max 0 (min 254 (ilog2 m.1 m.2 - emax + 127))
    let r := b.map fun x =>
      let y := magOf x
      let z := shiftFrac y.1 y.2 (s - 127)
      f.round 0 (.fin x.sign z.1 z.2)
    (s.toNat, r.map Prod.fst, r.foldl (fun g x => g ||| x.2) 0, false)

/-- Quantise one row to an MX format. -/
def quantMxRow (f : Fmt) (emax : Int) (row : List XReal) : Quantised :=
  let q := (pieces 32 row).map (quantBlock f emax)
  { rows := [(q.map fun x => x.2.1).flatten], blocks := [q.map fun x => x.1], bands := [], flags := q.foldl (fun g x => g ||| x.2.2.1) 0,
    nonFinite := q.any fun x => x.2.2.2 }

/-- Quantise a tile whose first row begins a band: to BQ4 by bands of 64 rows, to an MX format by blocks of 32 elements. -/
def quantise (fmt : Nat) (rows : List (List XReal)) : Quantised :=
  let parts := if fmt = 11 then (pieces 64 rows).map quantBand
    else if fmt = 12 then rows.map (quantMxRow fmtE4M3 8)
    else rows.map (quantMxRow fmtE2M1 2)
  parts.foldl Quantised.join Quantised.empty

end Sys2Proof.Machine
end

