-- ==== Sys2Proof/Machine/Operand2D.lean ====
section
/-! DEFINITION. Tiles in scratchpad: the bank-rotation layout (09 R201), operand descriptors (17 R335), scale areas
(05 R102, R103; 17 R337), and the hazard checker that watches operands of accepted commands (17 R343). -/

namespace Sys2Proof.Machine

/-- An operand descriptor (17 Table 17.2). -/
structure Desc where
  base : Nat
  pitch : Nat
  rot : Nat
  srck : Bool
  ltw : Nat
  tpitch : Nat
  scl : Nat
  deriving DecidableEq, Repr

/-- A descriptor from its 128 bits. -/
def descOf (v : Nat) : Desc :=
  { base := bits v 31 0, pitch := bits v 47 32, rot := bits v 50 48, srck := bit v 51, ltw := bits v 55 52,
    tpitch := bits v 95 64, scl := bits v 127 96 }

/-- A tile without a tile width: drains and copies (17 R348, 15 R307). -/
def plainDesc (base pitch rot : Nat) : Desc := { base := base, pitch := pitch, rot := rot, srck := false, ltw := 40, tpitch := 0, scl := 0 }

/-- Bytes of the 16-byte chunk c of a row of rb bytes, and its address (09 R201, 17 R335): an exact sum (00 R6), which past 2^32 is no scratchpad address. -/
def Desc.chunk (d : Desc) (rb r c : Nat) : Nat × Nat :=
  let x := 16 * c % 2 ^ d.ltw
  (d.base + 16 * c / 2 ^ d.ltw * d.tpitch + r * d.pitch + (x / 16 ^^^ r % 2 ^ d.rot) * 16, min 16 (rb - 16 * c))

/-- The chunks of a row in ascending byte order. -/
def Desc.row (d : Desc) (rb r : Nat) : List (Nat × Nat) := (List.range ((rb + 15) / 16)).map (d.chunk rb r)

/-- The layout conditions of a scratchpad operand (17 R335). -/
def Desc.layoutOk (d : Desc) (rb : Nat) : Bool :=
  decide (d.rot ≤ 4) && decide (4 ≤ d.ltw) && decide (d.ltw ≤ 12) && decide (16 * 2 ^ d.rot ≤ 2 ^ d.ltw) &&
  d.pitch % (16 * 2 ^ d.rot) == 0 && decide (min rb (2 ^ d.ltw) ≤ d.pitch)

/-- The scale areas of an operand of a format with n rows of k elements from row r0: address and length (05 R102, R103). -/
def scaleAreas (fmt k rows scl r0 n : Nat) : List (Nat × Nat) :=
  if fmt = 11 then
    [(scl + r0 * k / 8, n * k / 8), (scl + (rows * k / 8 + 63) / 64 * 64 + r0 / 64 * 2, ((r0 + n + 63) / 64 - r0 / 64) * 2)]
  else if fmt = 12 ∨ fmt = 13 then [(scl + r0 * k / 32, n * k / 32)]
  else []

/-- Where an area of an operand lies: an address of more than 32 bits lies in no allocation (09 R174, 00 R6). -/
def State.areaAt (s : State) (tag a n : Nat) : Except Nat (Nat × Nat) := if 2 ^ 32 ≤ a then .error fcSpadRange else s.spadAt tag a n

/-- Read areas of scratchpad; the first that lies outside its allocation is a scratchpad-range fault. -/
def State.spadAreas (s : State) (tag : Nat) : List (Nat × Nat) → Except Nat (List Byte)
  | [] => .ok []
  | (a, n) :: t =>
    match s.areaAt tag a n with
    | .error _ => .error a
    | .ok (x, off) =>
      match s.spadAreas tag t with
      | .error e => .error e
      | .ok l => .ok (s.spadRead x off n ++ l)

/-- Areas that lie in their allocations. -/
def State.areasOk (s : State) (tag : Nat) (l : List (Nat × Nat)) : Bool := l.all fun (a, n) => (s.areaAt tag a n).toOption.isSome

/-- Rows of a scratchpad operand are within their allocations. -/
def State.rowsOk (s : State) (tag : Nat) (d : Desc) (rb rows : Nat) : Bool := (List.range rows).all fun r => s.areasOk tag (d.row rb r)

/-- The bytes of row r of a scratchpad operand that passed its checks. -/
def State.rowBytes (s : State) (tag : Nat) (d : Desc) (rb r : Nat) : List Byte := (s.spadAreas tag (d.row rb r)).toOption.getD []

/-! ## The hazard checker (17 R343) -/

/-- What a command's operand covers: its descriptor, format, bytes of a row, rows, depth. -/
structure Watched where
  operand : Nat
  desc : Desc
  fmt : Nat
  rb : Nat
  rows : Nat
  k : Nat
  deriving DecidableEq, Repr

/-- Bytes of one row of k elements of a format. -/
def rowLength (fmt k : Nat) : Nat := k * fmtBits fmt / 8

/-- Format of a captured entry. -/
def capturedFmt (l : List (List Byte)) (i : Nat) : Nat := entFmt (leNat (l.getD i []))

/-- The scratchpad operands of an accepted command whose operand-release arrival is still to come. -/
def EngCmd.watched (c : EngCmd) : List Watched :=
  let b := leNat c.block
  match c.kind with
  | .mma =>
    let k := bits b 51 32
    let fa := capturedFmt c.entries 0
    let fb := capturedFmt c.entries 1
    [⟨0, descOf (bits b 255 128), fa, rowLength fa k, bits b 23 16 + 1, k⟩,
     ⟨1, descOf (bits b 383 256), fb, rowLength fb k, bits b 31 24 + 1, k⟩].filter fun w => !w.desc.srck
  | .apipe =>
    let d := if bit b 19 then 128 else 64
    let f := capturedFmt c.entries 0
    if c.rowsA.isEmpty || !bit b 11 then [⟨0, descOf (bits b 383 256), f, rowLength f d, bits b 30 24 + 1, d⟩] else []
  | .mdrain => []
  | .mzero => []

/-- The areas of group g of an operand: 8 rows and their scales (17 R341). -/
def Watched.group (w : Watched) (g : Nat) : List (Nat × Nat) :=
  let n := min 8 (w.rows - 8 * g)
  ((List.range n).map fun i => w.desc.row w.rb (8 * g + i)).flatten ++ scaleAreas w.fmt w.k w.rows w.desc.scl (8 * g) n

/-- A write of n bytes at an offset of a plot reaches an area as seen from the issuing plot. -/
def State.reaches (s : State) (issuer tag off n : Nat) (x : Nat × Nat) : Bool :=
  match s.areaAt issuer x.1 x.2 with
  | .ok (t, o) => t == tag && decide (o < off + n) && decide (off < o + x.2)
  | .error _ => false

/-- The groups of a command that a write reaches: operand and group. -/
def State.hazardsOf (s : State) (c : EngCmd) (tag off n : Nat) : List (Nat × Nat) :=
  (c.watched.map fun w =>
    ((List.range ((w.rows + 7) / 8)).filter fun g => (w.group g).any (s.reaches c.ref.tag tag off n)).map fun g => (w.operand, g)).flatten

/-- Set HAZ in the status word of the tile a command names (17 R352). -/
def Plot.setHaz (p : Plot) (tile : Nat) : Plot := { p with tsw := p.tsw.set tile (p.tsw.getD tile 0 ||| 0x100) }

/-- Report one command's hazards: HAZ in its tile's status word and a record for each group (17 R343). -/
def State.reportHazards (s : State) (who : Writer) (tag off n : Nat) (c : EngCmd) : State :=
  let l := s.hazardsOf c tag off n
  if l.isEmpty then s
  else
    let s1 := s.modPlot c.ref.tag fun p => p.setHaz c.tile
    { s1 with debug := s1.debug ++ l.map fun (o, g) => DbgMsg.hazard c.ref c.pc o g who }

/-- The hazard checker is enabled in a context (21 Table 21.1, HAZ). -/
def State.hazOn (s : State) (ctx : Nat) : Bool := match tget s.ctxs ctx with | some c => c.haz | none => false

/-- The commands a write may disturb. -/
def State.hazTargets (s : State) : List EngCmd :=
  (s.plots.map fun (_, p) => if s.hazOn p.ctx then p.engq.filter fun c => c.status == 0 && c.stage != .waiting else []).flatten

/-- The hazard checker's look at a write to scratchpad: it changes neither data nor timing. -/
def State.hazards (s : State) (who : Writer) (tag off n : Nat) : State :=
  s.hazTargets.foldl (fun s c => s.reportHazards who tag off n c) s

/-- Write bytes of a plot's scratchpad, under the hazard checker. -/
def State.spadWrite (s : State) (who : Writer) (tag off : Nat) (l : List Byte) (src : Option SyncSrc) : State :=
  (s.hazards who tag off l.length).spadPut tag off l src

end Sys2Proof.Machine
end

