-- ==== Sys2Proof/Machine/Order.lean ====
section
/-! DEFINITION. The order among the accesses of one thread (11 R226 to R231, R235, R236, R247): what keeps a request at its source, and what
keeps it from being performed. Requests carry rising identifiers in issue order. -/

namespace Sys2Proof.Machine

/-- What decides the place of an access or operation among those of its thread: its classes, its ordered stream, the sectors it touches, and
whether it is a full release. blind: its base sectors are not known, so that it counts for every sector of global memory (log 63). -/
structure OrderKey where
  ref : Ref
  cls : Classes
  stream : Option Nat
  sectors : List Nat
  rel : Bool
  blind : Bool
  deriving DecidableEq, Repr

/-- The key of a request. A gleaner of this device reads the index elements first, and knows the base sectors then (log 63). -/
def Req.key (q : Req) : OrderKey :=
  { ref := q.ref, cls := q.cls, stream := q.stream, sectors := q.sectors, rel := q.rel, blind := q.blind && q.stage != .gleaner }

/-- Every class: a request that joins the stream of its own device (11 R229). -/
def allClasses : Classes := { o := true, a := true, s := true }

/-- Two masks have a class in common. -/
def Classes.meets (x y : Classes) : Bool := (x.o && y.o) || (x.a && y.a) || (x.s && y.s)

/-- An access has been performed at its place. -/
def ReqStage.done : ReqStage → Bool
  | .performed _ => true
  | _ => false

/-- The request is a FENCE that waits. -/
def ReqOp.isFence : ReqOp → Bool
  | .fence _ => true
  | _ => false

/-- The ordered stream of a request (11 R228): that of its home device when it is class O or joins the stream of its own device. -/
def streamOf (rc : RC) (own : Bool) (dev : Nat) : Option Nat := if own || rc == .o then some dev else none

/-- The sector of a global byte and of a scratchpad byte, as numbers of their own. -/
def sectorOf (pa : Nat) : Nat := pa / 32
def spadSector (tag off : Nat) : Nat := 2 ^ 50 + tag * 2 ^ 20 + off / 32

/-- Sectors of global memory among a list. -/
def anyGlobal (l : List Nat) : Bool := l.any fun x => decide (x < 2 ^ 50)

/-- Sectors in common, one whose sectors are not known having every one of global memory. -/
def OrderKey.meets (k : OrderKey) (x : Req) : Bool :=
  x.sectors.any k.sectors.contains || (x.blind && (k.blind || anyGlobal k.sectors)) || (k.blind && anyGlobal x.sectors)

/-- An earlier request x that has not completed keeps a later one at its source (11 R235): a common sector (R226), an acquire not yet performed, a
FENCE whose mask has its class (R236), and before a full release every access outside its stream. -/
def OrderKey.heldBy (k : OrderKey) (x : Req) : Bool :=
  k.meets x || (x.acq && !x.stage.done) || (x.op.isFence && x.cls.meets k.cls) ||
    (k.rel && (x.stream.isNone || x.stream != k.stream))

/-- The request with an identifier may be issued from its source. -/
def State.mayIssue (s : State) (id : Nat) (k : OrderKey) : Bool :=
  !(s.reqs.any fun (i, x) => decide (i < id) && x.ref == k.ref && k.heldBy x) &&
    !(k.rel && s.lands.any fun (i, l) => decide (i < id) && l.ref == some k.ref && (l.stream.isNone || l.stream != k.stream))

/-- An earlier request of the ordered stream is not yet performed (11 R228). -/
def State.streamWaits (s : State) (id : Nat) (k : OrderKey) : Bool :=
  k.stream.isSome &&
    ((s.reqs.any fun (i, x) => decide (i < id) && x.ref == k.ref && x.stream == k.stream && !x.stage.done) ||
      s.lands.any fun (i, l) => decide (i < id) && l.ref == some k.ref && l.stream == k.stream && l.answered.isNone)

/-- A lower lane of the same instruction is not yet performed (09 R204). -/
def State.lanesWait (s : State) (id instr : Nat) : Bool := s.reqs.any fun (i, x) => decide (i < id) && x.instr == instr && !x.stage.done

/-- The miss of a request on another core's private page, for which its core has no translation yet, is held until the stores of that core that were issued before it have been performed (09 R194). -/
def State.missHeld (s : State) (id : Nat) (q : Req) : Bool :=
  match q.stage, q.view with
  | .place, [(_, e)] =>
    e.home == 0 && !e.priv && (tbFind (s.core q.core).tb q.ctx q.va).isNone &&
      match s.walk q.ctx q.va with
      | .leaf p _ _ => ptePriv p && pteOwn p != q.core && s.ownerBusy (pteOwn p) e id
      | .bad _ => false
  | _, _ => false

/-- A request may be performed: it has been issued, and it is its turn in its stream and in its instruction; no miss holds it. -/
def State.mayPerform (s : State) (id : Nat) (q : Req) : Bool :=
  s.mayIssue id q.key && !s.streamWaits id q.key && !s.lanesWait id q.instr && !s.missHeld id q

/-- A FENCE's earlier accesses of its mask have completed (11 R236). -/
def State.fenceReady (s : State) (id : Nat) (r : Ref) (m : Classes) : Bool :=
  !(s.reqs.any fun (i, x) => decide (i < id) && x.ref == r && x.cls.meets m) &&
    !(s.lands.any fun (i, l) => decide (i < id) && l.ref == some r && l.cls.meets m)

/-- A thread has an acquire that is not performed, or a FENCE that waits (12 R253). -/
def State.acquirePending (s : State) (r : Ref) : Bool := s.reqs.any fun (_, x) => x.ref == r && ((x.acq && !x.stage.done) || x.op.isFence)

/-- A thread has an access or a LAND that has not completed. -/
def State.incomplete (s : State) (r : Ref) : Bool := (s.reqs.any fun (_, x) => x.ref == r) || s.lands.any fun (_, l) => l.ref == some r

/-- A thread has an access that is not performed, or a LAND on its way. -/
def State.unperformed (s : State) (r : Ref) : Bool :=
  (s.reqs.any fun (_, x) => x.ref == r && !x.stage.done) || s.lands.any fun (_, l) => l.ref == some r && l.answered.isNone

end Sys2Proof.Machine
end

