-- ==== Sys2Proof/Machine/Route.lean ====
section
/-! DEFINITION. The way of a request that leaves the device: eligible ports and the port of each routing class (23 R405 to R407),
remaps of the class-O streams (R408), requests sent again (R409) and held (R410), the host's link (R417). -/

namespace Sys2Proof.Machine

/-! ## Ways (23 R406, R407, R410) -/

/-- The destination of a request that leaves the device. -/
def Req.dst? (q : Req) : Option Nat := match q.stage with | .remote d _ => some d | _ => none

/-- A request is held at its source. -/
def Req.isHeld (q : Req) : Bool := match q.stage with | .remote _ .held => true | _ => false

/-- The way of a class-A request (R406). -/
def State.viaA (s : State) (dst : Nat) : Via :=
  match s.aPort dst with
  | some p => .port p none
  | none => .held

/-- Relay devices for a destination: the relay set without source and destination (R407). -/
def State.relaySet (s : State) (dst : Nat) : List Nat :=
  (List.range 1024).filter fun d => s.locked.rset.getLsbD d && d != s.device && d != dst

/-- The way of a class-S request: through a drawn relay device as class A, or as class A where no device remains (R407, log 6). -/
def State.viaS (s : State) (dst : Nat) : State × Via :=
  let (k, s1) := s.draw
  let l := s1.relaySet dst
  match l[Config.freeNat k % l.length]? with
  | none => (s1, s1.viaA dst)
  | some r => match s1.aPort r with
    | some p => (s1, .port p (some r))
    | none => (s1, .held)

/-- The way of a request that would be sent now (R406, R417): held while E(dst) is empty (R410). -/
def State.wayNow (s : State) (dst : Nat) (rc : RC) : State × Via :=
  if dst = s.locked.hostDev then (s, .igmel)
  else if (s.eligiblePorts dst).isEmpty then (s, .held)
  else match rc with
    | .o => (s, match s.oPort dst with | some p => .port p none | none => .held)
    | .a => (s, s.viaA dst)
    | .s => s.viaS dst

/-- A request goes out on its port. -/
def State.sendOn (s : State) (v : Via) : State := match v.port? with | some p => s.sendFlit p 0 | none => s

/-- A request is sent now. -/
def State.routeNow (s : State) (dst : Nat) (rc : RC) : State × Via := let (s1, v) := s.wayNow dst rc; (s1.sendOn v, v)

/-- An earlier class-O request of a thread to a destination is held at its source. -/
def State.heldO (s : State) (id : Nat) (r : Ref) (dst : Nat) : Bool :=
  (s.reqs.any fun (i, q) => decide (i < id) && q.ref == r && q.rc == .o && q.isHeld && q.dst? == some dst) ||
    s.lands.any fun (i, l) => decide (i < id) && l.ref == some r && l.rc == .o && l.dev == dst && l.via == .held && l.answered.isNone

/-- A request must stay at its source: by the order of its thread (11 R235), behind a remap, or behind held requests of its stream (R408, R410). -/
def State.stays (s : State) (id dst : Nat) (rc : RC) (k : OrderKey) : Bool :=
  !s.mayIssue id k || (rc == .o && dst != s.locked.hostDev && (s.fabric.remap.contains dst || s.heldO id k.ref dst))

/-- The way of a request (R406, R408, R410). -/
def State.route (s : State) (id dst : Nat) (rc : RC) (k : OrderKey) : State × Via :=
  if s.stays id dst rc k then (s, .held) else s.routeNow dst rc

/-! ## When E(dst) changes (23 R408 to R410) -/

/-- Put a request, or a LAND, on a way. -/
def State.setVia (s : State) (id dst : Nat) (v : Via) : State := { s with reqs := tmod s.reqs id fun q => { q with stage := .remote dst v } }
def State.setLandVia (s : State) (id : Nat) (v : Via) : State := { s with lands := tmod s.lands id fun l => { l with via := v } }

/-- Class-O requests to a destination that have been sent and are not complete. -/
def State.sentO (s : State) (dst : Nat) : Bool :=
  (s.reqs.any fun (_, q) => q.rc == .o && q.dst? == some dst && q.port?.isSome) ||
    s.lands.any fun (_, l) => l.rc == .o && l.dev == dst && l.via.port?.isSome && l.answered.isNone

/-- The key of a LAND: it waits for acquires and for FENCEs of its class, and stands in its stream (11 R247). -/
def Land.key (l : Land) (r : Ref) : OrderKey := { ref := r, cls := l.cls, stream := l.stream, sectors := [], rel := false, blind := false }

/-- Send the held requests of a list that may go, in issue order. -/
def State.sendReqs (s : State) : List (Nat × Req) → State
  | [] => s
  | (id, q) :: t =>
    match q.stage with
    | .remote d .held => if s.stays id d q.rc q.key then s.sendReqs t else let (s1, v) := s.routeNow d q.rc; (s1.setVia id d v).sendReqs t
    | _ => s.sendReqs t

/-- Send the held LANDs of a list that may go, in issue order. -/
def State.sendLands (s : State) : List (Nat × Land) → State
  | [] => s
  | (id, l) :: t =>
    match l.ref, l.via with
    | some r, .held =>
      if l.dev = s.device ∨ l.answered.isSome ∨ s.stays id l.dev l.rc (l.key r) then s.sendLands t
      else let (s1, v) := s.routeNow l.dev l.rc; (s1.setLandVia id v).sendLands t
    | _, _ => s.sendLands t

/-- Send what is held and may go. -/
def State.sendHeld (s : State) : State := let s1 := s.sendReqs s.reqs; s1.sendLands s1.lands

/-- Send the requests of a list again whose port is out of service (R409). -/
def State.resend (s : State) : List (Nat × Req) → State
  | [] => s
  | (id, q) :: t =>
    match q.stage with
    | .remote d (.port p _) =>
      if ((tget s.fabric.ports p).map Port.up).getD false then s.resend t
      else let (s1, v) := s.routeNow d q.rc; (s1.setVia id d v).resend t
    | _ => s.resend t

/-- The same for LANDs. -/
def State.resendLands (s : State) : List (Nat × Land) → State
  | [] => s
  | (id, l) :: t =>
    match l.via, l.answered with
    | .port p _, none =>
      if ((tget s.fabric.ports p).map Port.up).getD false then s.resendLands t
      else let (s1, v) := s.routeNow l.dev l.rc; (s1.setLandVia id v).resendLands t
    | _, _ => s.resendLands t

/-- Some class-O request sent to a destination went by another port than the one a new request would take (R408). -/
def State.portMoves (s : State) (dst : Nat) : Bool :=
  (s.reqs.any fun (_, q) => q.rc == .o && q.dst? == some dst && q.port?.isSome && q.port? != s.oPort dst) ||
    s.lands.any fun (_, l) => l.rc == .o && l.dev == dst && l.via.port?.isSome && l.answered.isNone && l.via.port? != s.oPort dst

/-- Note what a change of the ports means for one destination: since when E is empty, that it is reachable again, a remap. -/
def State.noteDst (s0 s : State) (dst : Nat) : State :=
  let f := s.fabric
  if (s.eligiblePorts dst).isEmpty then
    { s with fabric := { f with
        remap := f.remap.filter fun d => d != dst
        emptySince := if (s0.eligiblePorts dst).isEmpty then f.emptySince else tput f.emptySince dst s.time } }
  else
    { s with fabric := { f with
        emptySince := tdel f.emptySince dst
        unreachable := f.unreachable.filter fun d => d != dst
        remap := if s.portMoves dst then insertNat f.remap dst else f.remap } }

/-- Destinations that a change can concern. -/
def State.destinations (s : State) : List Nat :=
  (s.reqs.filterMap (fun x => x.2.dst?) ++ s.lands.map (fun x => x.2.dev) ++ (s.fabric.reach.map Prod.snd).flatten ++ s.fabric.unreachable ++
    s.fabric.emptySince.map Prod.fst).eraseDups

/-- Engine and front-end work that was held for want of a port tries again (R410). -/
def State.retryHeld (s : State) : State :=
  { s with
    copies := s.copies.map fun (i, (c : CopyCmd)) => (i, if c.stage = .held then { c with stage := .queued } else c)
    qposts := s.qposts.map fun (i, (q : QPost)) => (i, { q with held := false })
    queues := s.queues.map fun (i, (q : Queue)) => (i, { q with held := false })
    sowings := s.sowings.map fun (i, (w : Sowing)) => (i, { w with held := false })
    plots := s.plots.map fun (k, (p : Plot)) =>
      (k, { p with engq := p.engq.map fun (c : EngCmd) => if c.stage = .held then { c with stage := .paused none } else c }) }

/-- Change the ports or the reachability table, with all that follows (R408 to R410). -/
def State.changePorts (s : State) (f : Fabric → Fabric) : State :=
  let s1 : State := { s with fabric := f s.fabric }
  let s2 := (s.destinations ++ s1.destinations).eraseDups.foldl (fun x d => s.noteDst x d) s1
  let s3 := s2.resend s2.reqs
  (s3.resendLands s3.lands).sendHeld.retryHeld

end Sys2Proof.Machine
end

