-- ==== Sys2Proof/Machine/Global.lean ====
section
/-! DEFINITION. Global and scratchpad loads, stores, atomics, LR and SC (13 R262 to R273), majors 0x2C to 0x33: the checks of
each lane, the access at its place of 09 Table 9.4, and the outstanding request that the counters hold (13 R254 to R256). -/

namespace Sys2Proof.Machine

/-! ## Sizes, values, atomic operations -/

/-- Bytes of an access size (03 Table 3.5). -/
def szBytes : Sz → Nat
  | .u8 => 1
  | .s8 => 1
  | .u16 => 2
  | .s16 => 2
  | .w32 => 4
  | .w64 => 8
  | .w128 => 16

/-- Registers of an access size. -/
def szRegs : Sz → Nat
  | .w64 => 2
  | .w128 => 4
  | _ => 1

/-- The registers a loaded value fills (R262): extended to 32 bits, or its words. -/
def loadWords (sz : Sz) (v : Quad) : List Word :=
  match sz with
  | .u8 => [(v.setWidth 8).setWidth 32]
  | .s8 => [(v.setWidth 8).signExtend 32]
  | .u16 => [(v.setWidth 16).setWidth 32]
  | .s16 => [(v.setWidth 16).signExtend 32]
  | .w32 => [v.setWidth 32]
  | .w64 => words64 (v.setWidth 64)
  | .w128 => words128 v

/-- The new value of an atomic of n bytes, none where nothing is written, and the flags it raises (R266 to R268,
Table 13.3). aop numbers Table 3.11; a CAS operand holds the expected value below the new one. -/
def atomNew (aop n old v : Nat) (m : Mode) : Option Nat × Nat :=
  let w := 2 ^ (8 * n)
  let x := v % w
  match aop with
  | 0 => (some ((old + x) % w), 0)
  | 1 => (some (old &&& x), 0)
  | 2 => (some (old ||| x), 0)
  | 3 => (some (old ^^^ x), 0)
  | 4 => (some (if sgn (8 * n) old ≤ sgn (8 * n) x then old else x), 0)
  | 5 => (some (if sgn (8 * n) old ≤ sgn (8 * n) x then x else old), 0)
  | 6 => (some (min old x), 0)
  | 7 => (some (max old x), 0)
  | 8 => (some x, 0)
  | 9 => (if old = x then some (v / w % w) else none, 0)
  | 10 =>
    let (c, g) := fmtF32.round m (XReal.add m (fmtF32.value old) (fmtF32.value x)).1
    (some c, (XReal.add m (fmtF32.value old) (fmtF32.value x)).2 ||| g)
  | 11 => (some (axaCombine (BitVec.ofNat 128 old) (BitVec.ofNat 128 x)).toNat, 0)
  | 12 => (some (if x ≤ old then 0 else (old + 1) % w), 0)
  | _ => (some (if old = 0 ∨ x < old then x else old - 1), 0)

/-- The operations that are legal through a view (09 R216), by number. -/
def aopThroughView (aop : Nat) : Bool := decide (aop ≤ 7) || aop == 10

/-! ## What one lane asks for -/

/-- An access of one lane. whole: a store of an instruction whose lanes write the whole line together (23 R436). -/
structure Access where
  op : ReqOp
  va : Nat
  bytes : Nat
  data : Quad
  dst : Dst
  words : Nat
  rc : RC
  scope : Scope
  acq : Bool
  rel : Bool
  acc : Nat
  whole : Bool
  deriving DecidableEq, Repr

/-- The request carries the value of its register to be stored. -/
def ReqOp.stores : ReqOp → Bool
  | .store => true
  | .sc _ => true
  | _ => false

/-- The access writes or may write. -/
def Access.writes (a : Access) : Bool := a.op.writes

/-- The request counts in LD (13 Table 13.1). -/
def ReqOp.countsLd : ReqOp → Bool
  | .load _ => true
  | .atom _ _ => true
  | .lr => true
  | .sc _ => true
  | _ => false

/-- The request counts in ST (13 Table 13.1). -/
def ReqOp.countsSt : ReqOp → Bool
  | .store => true
  | .sync => true
  | .bcarr _ => true
  | .bcexp _ => true
  | .bcinit _ => true
  | _ => false

/-- The access reads: a load, LR, SC or atomic (11 R224). -/
def ReqOp.reads : ReqOp → Bool := ReqOp.countsLd

/-- The number of the instruction in execution: its cycle, core and slot, and whether a completed rendezvous issued it. -/
def State.instrNo (s : State) : Nat := ((s.cycle * 128 + s.cur.core) * 256 + s.cur.slot) * 2 + s.cur.group.toNat

/-- The cycle of a numbered instruction. -/
def instrCycle (n : Nat) : Nat := n / (2 * 256 * 128)

/-- Where a new request stands in the order of its thread, and how far it has come. -/
structure Spot where
  cls : Classes
  stream : Option Nat
  sectors : List Nat
  stage : ReqStage
  view : List (Nat × TbEntry)
  blind : Bool
  glean : Gleaned
  deriving DecidableEq, Repr

/-- Nothing gleaned yet of the bytes from a shadow offset. -/
def Gleaned.start (ve : ViewEnts) (off : Nat) : Gleaned := { ents := ve, off := off, got := [], tags := [], readAt := [] }

/-- The spot of an access that is no view access. -/
def Spot.plain (cls : Classes) (stream : Option Nat) (sectors : List Nat) (stage : ReqStage) (view : List (Nat × TbEntry)) : Spot :=
  { cls := cls, stream := stream, sectors := sectors, stage := stage, view := view, blind := false, glean := Gleaned.start ⟨0, 0, 0, 0⟩ 0 }

/-- A new outstanding request of a thread: its counter rises (13 R256). -/
def State.addReq (s : State) (r : Ref) (t : Thread) (a : Access) (pa : Nat) (src : Option SyncSrc) (x : Spot) : State :=
  let (id, s1) := s.fresh
  let q : Req :=
    { ref := r, instr := s.instrNo, core := s.coreOf r, ctx := s.ctxIdOf r, pc := t.pc, op := a.op, va := a.va, pa := pa, bytes := a.bytes,
      data := a.data, dst := a.dst, words := a.words, rc := a.rc, scope := a.scope, acq := a.acq, rel := a.rel, src := src, rmode := t.rmode,
      word := s.cur.word, stage := x.stage, flags := 0, cls := x.cls, stream := x.stream, sectors := x.sectors, view := x.view,
      blind := x.blind, whole := a.whole, glean := x.glean }
  let s2 := { s1 with reqs := tput s1.reqs id q }
  s2.modThread r fun t => { t with ld := t.ld + a.op.countsLd.toNat, st := t.st + a.op.countsSt.toNat }

/-! ## At the place of Table 9.4 -/

/-- Pages whose lines L1 may hold (09 R186). -/
def TbEntry.inL1 (e : TbEntry) : Bool := (e.home == 0 || e.home == 2) && !e.farat

/-- What a read takes: its bytes and their synchronisation sources. -/
structure Taken where
  bytes : List Byte
  tags : List SyncSrc
  deriving DecidableEq, Repr

/-- A load on an ordinary page (09 R186): an L1 hit, unless the load is an acquire or the line has been evicted
meanwhile (log 7), else the bytes at their place, with the line allocated. A read past L1 leaves no older line in the view read buffer (11 R225). -/
def State.loadAt (s : State) (core : Nat) (e : TbEntry) (va pa n : Nat) (acq : Bool) : State × Taken :=
  let hit := if e.inL1 && !acq then l1Find (s.core core).l1 (pa / 128 * 128) else none
  let (k, s) := if hit.isSome then s.draw else (0, s)
  match (if Config.lineKept k then hit else none) with
  | some x => (s, { bytes := x.part (pa % 128) n, tags := x.partTags (pa % 128) n })
  | none =>
    let tags := s.placeTags e pa n
    let (s1, l) := s.rdPhys core e va pa n
    let s2 := s1.dropVbuf core
    (if e.inL1 then (s2.dropL1Line core pa).modCore core fun k => { k with l1 := (s2.lineNow e.ctx pa :: k.l1).take l1Lines } else s2,
      { bytes := l, tags := tags })

/-- Read bytes past L1, as LR, SC and atomics do: no older copy stays in the core (11 R225). -/
def State.readPast (s : State) (core : Nat) (e : TbEntry) (va pa n : Nat) : State × Taken :=
  let tags := s.placeTags e pa n
  let (s1, l) := s.rdPlace core e va pa n true
  ((s1.dropL1Line core pa).dropVbuf core, { bytes := l, tags := tags })

/-- A store on an ordinary page (09 R186, R197): at its place, with the line that L1 holds updated. -/
def State.storeAt (s : State) (core : Nat) (r : Ref) (e : TbEntry) (va pa : Nat) (l : List Byte) (src : Option SyncSrc) (sync : Bool) : State :=
  ((s.wrPhys core (some r) e va pa l src sync).updateL1 core pa l src).dropVbuf core

/-- A reservation of a thread of this device. -/
def State.reservationOf (s : State) (r : Ref) : Option Reservation := s.reservations.find? fun v => v.peer.isNone && v.ref == r

/-- Lose the reservation of a thread of this device, or of a peer. -/
def State.losePeer (s : State) (peer : Option Nat) (r : Ref) : State :=
  { s with reservations := s.reservations.filter fun v => !(v.peer == peer && v.ref == r) }

/-- Lose a thread's reservation. -/
def State.loseReservation (s : State) (r : Ref) : State := s.losePeer none r

/-- The reservation table of an access (09 R198, 13 R273), each of 1,024 entries: of the home LLC slice; of the HBM-side unit of the stack for a
far-atomic page; of the core whose pin area holds the bytes. -/
def State.reservationTable (s : State) (e : TbEntry) (pa : Nat) : Nat :=
  match (s.placeOf e pa).1 with
  | some c => 1024 + c
  | none => if e.farat then 512 + (homeOf pa).stack else (homeOf pa).llc

/-- Make a reservation (09 R198, 13 R271): an earlier one is lost, and the oldest of a full table is evicted. -/
def State.reserve (s : State) (peer : Option Nat) (r : Ref) (table key n : Nat) : State :=
  let s1 := s.losePeer peer r
  let here := s1.reservations.filter fun v => v.table == table
  let s2 := if here.length < 1024 then s1 else match here with | v :: _ => s1.losePeer v.peer v.ref | [] => s1
  { s2 with reservations := s2.reservations ++ [{ peer := peer, ref := r, table := table, pa := key, bytes := n, made := s.cycle }] }

/-- A reservation is for an address and width and has not timed out (13 R272). -/
def holds (v : Option Reservation) (key n now : Nat) : Bool :=
  match v with
  | some v => v.pa == key && v.bytes == n && decide (now < v.made + 4096)
  | none => false

/-- What performing an access answers: the value read, the flags, whether an SC stored, and the sources of what was read. -/
structure Performed where
  value : Quad
  flags : Nat
  stored : Bool
  tags : List SyncSrc
  deriving DecidableEq, Repr

/-- Performing a request that reads nothing and raises nothing. -/
def Performed.plain (stored : Bool) : Performed := { value := 0, flags := 0, stored := stored, tags := [] }

/-- Perform an access at an ordinary page of this device: one indivisible step at its place (09 R197, R204). An SC or atomic that writes nothing takes other
agents' reservations too (R198). -/
def State.performOrd (s : State) (core : Nat) (r : Ref) (e : TbEntry) (pa : Nat) (op : ReqOp) (va n : Nat) (data : Quad)
    (rmode : BitVec 2) (acq : Bool) (src : Option SyncSrc) : State × Performed :=
  let key := placeKey (s.placeOf e pa)
  match op with
  | .load _ =>
    let (s1, x) := s.loadAt core e va pa n acq
    (s1, { value := BitVec.ofNat 128 (leNat x.bytes), flags := 0, stored := false, tags := x.tags })
  | .lr =>
    let (s1, x) := s.readPast core e va pa n
    (s1.reserve none r (s.reservationTable e pa) key n, { value := BitVec.ofNat 128 (leNat x.bytes), flags := 0, stored := false, tags := x.tags })
  | .store => (s.storeAt core r e va pa (natLe n data.toNat) src false, Performed.plain true)
  | .sc _ =>
    let ok := holds (s.reservationOf r) key n s.cycle
    let s1 := s.loseReservation r
    let (s2, x) := s1.readPast core e va pa n
    (if ok then s2.storeAt core r e va pa (natLe n data.toNat) src true else s2.dropReservations (some r) key n, { value := 0, flags := 0, stored := ok, tags := x.tags })
  | .atom aop v =>
    let (s1, x) := s.readPast core e va pa n
    let old := leNat x.bytes
    let (new, f) := atomNew aop n old v.toNat rmode.toNat
    let s2 := match new with
      | some y => s1.storeAt core r e va pa (natLe n y) src true
      | none => s1.dropReservations (some r) key n
    (s2, { value := BitVec.ofNat 128 old, flags := f, stored := new.isSome, tags := x.tags })
  | _ => (s, Performed.plain false)

/-- The synchronisation and the cache effects of an access that has been performed (11 R232, R235; 09 R186, R187). -/
def State.afterAccess (s : State) (core : Nat) (r : Ref) (op : ReqOp) (acq : Bool) (sc : Scope) (c : Classes) (tags : List SyncSrc) : State :=
  let s1 := if op.reads then s.readSync r acq sc c tags else s
  if acq then s1.acquireCaches core sc else s1

/-- A failing or succeeding SC carries its outcome in its request. -/
def ReqOp.withOutcome (op : ReqOp) (stored : Bool) : ReqOp :=
  match op with
  | .sc _ => .sc stored
  | o => o

/-! ## One lane of a global access -/

/-- An ATOM is legal through a view (09 R216); LR and SC never are (R198). -/
def Access.okThroughView (a : Access) (ve : ViewEnts) : Bool :=
  match a.op with
  | .lr => false
  | .sc _ => false
  | .atom aop _ => aopThroughView aop && a.bytes == 4 && granule (entFmt ve.b) == 4
  | _ => true

/-- The sectors of translated view bytes (11 R226). -/
def viewSectorsOf (l : List (Nat × TbEntry)) : List Nat := (l.map fun (a, e) => sectorOf (e.pa a)).eraseDups

/-- A view access whose tensor's home is another device goes to a gleaner there (09 R212). A BASE that translates to host memory, which has no LLC slice, is served
by a gleaner of this device (DESIGN CHOICE, log 51). -/
def State.farHome (s : State) (home : Option Nat) : Option Nat :=
  match home with
  | some pa => if devOf pa = s.device ∨ s.isHost pa then none else some (devOf pa)
  | none => none

/-- The sectors of the index elements that n shadow bytes from an offset select (09 R212, 11 R226), each translated; the first fault of Table 21.8. -/
def State.indexSectors (s : State) (ctx : Nat) (ve : ViewEnts) : Nat → Nat → State × Except Nat (List Nat)
  | _, 0 => (s, .ok [])
  | o, n + 1 =>
    let (s1, x) : State × Except Nat (List Nat) := match viewIndex ve o with
      | .error c => (s, .error c)
      | .ok none => (s, .ok [])
      | .ok (some a) => match s.xlate 128 ctx a accLoad with
        | (s, .error c) => (s, .error c)
        | (s, .ok e) =>
          if e.view then (s, .error fcPermission)
          else match s.barred e (e.pa a) 4 false with
            | some c => (s, .error c)
            | none => (s, .ok [sectorOf (e.pa a), sectorOf (e.pa a + 3)])
    let (s2, l) := s1.indexSectors ctx ve (o + 1) n
    (s2, firstFault (fun x l => (x ++ l).eraseDups) x l)

/-- What an access through a view finds before it leaves: its fault, or its base bytes where the source can translate them (09 R211). A view that gathers is
translated here for its faults alone, and not while the thread's own earlier accesses stand before its index elements: its gleaner reads them in its turn
(R212; log 63). -/
def State.viewAhead (s : State) (core ctx : Nat) (ve : ViewEnts) (acc o n : Nat) (k : OrderKey) : State × Except Nat (List Nat × List (Nat × TbEntry)) :=
  let (s, ix) := s.indexSectors ctx ve o n
  match ix with
  | .error c => (s, .error c)
  | .ok ix =>
    if viewGath ve.v && (!s.mayIssue s.nextId { k with sectors := ix } || s.streamWaits s.nextId k) then (s, .ok (ix, []))
    else match s.viewBytes core ctx ve acc o n with
      | (s, .ok l) => (s, .ok (ix, if viewGath ve.v then [] else l))
      | (s, .error c) => (s, if viewGath ve.v && c == fcNoPort then .ok (ix, []) else .error c)

/-- Issue a view access (09 R211 to R216): to the gleaner of the tensor's home. The base bytes of one that gathers nothing are translated now. A store or atomic
empties the view read buffer (R187). -/
def issueView (a : Access) (e : TbEntry) : LaneFn := fun s r _ t =>
  let core := s.coreOf r
  let ctx := s.ctxIdOf r
  let park := fun (c : Nat) => Out.park c a.acc (BitVec.ofNat 64 a.va)
  match s.viewEnts core ctx e.tid with
  | (s, .error c) => (s, park c)
  | (s, .ok ve) =>
    let home := s.viewHome ctx ve
    let own := match home with | some pa => s.ownStream core pa | none => false
    let bars := viewBars ve (a.writes && a.acc != accSC) (a.okThroughView ve)
    let c := classesOf a.rc own
    let src := if a.writes then s.srcOf r t a.rel a.scope c else none
    let dev := match home with | some pa => devOf pa | none => s.device
    let spot := fun (q : List Nat) (l : List (Nat × TbEntry)) (blind : Bool) (st : ReqStage) =>
      Spot.mk c (streamOf a.rc own dev) q st l blind (Gleaned.start ve (e.shadow a.va))
    let key := fun (q : List Nat) (blind : Bool) => OrderKey.mk r c (streamOf a.rc own dev) q a.rel blind
    let clear := fun (s : State) => if a.writes then s.dropVbuf core else s
    match s.farHome home, bars with
    | some _, .error c => (s, park c)
    | some d, .ok _ =>
      if s.cut d then (s, park fcFarContext)
      else
        let (s, bytes) := s.viewBytes core ctx ve a.acc (e.shadow a.va) a.bytes
        let (l, blind) := match bytes with | .ok l => (l, viewGath ve.v) | .error _ => ([], true)
        let (s, via) := s.route s.nextId d a.rc (key (viewSectorsOf l) blind)
        ((clear s).addReq r t a (home.getD 0) src (spot (viewSectorsOf l) l blind (.remote d via)), .next)
    | none, b =>
      let (s, x) := s.viewAhead core ctx ve a.acc (e.shadow a.va) a.bytes (key [] false)
      match firstFault (fun _ x => x) b x with
      | .error c => (s, park c)
      | .ok (ix, l) => ((clear s).addReq r t a (home.getD 0) src (spot (ix ++ viewSectorsOf l) l (viewGath ve.v) .gleaner), .next)

/-- Issue an access of an ordinary page: it leaves a request, to be performed at its place, at the HBM-side unit, or on another device. -/
def issueOrdinary (a : Access) (e : TbEntry) : LaneFn := fun s r _ t =>
  let core := s.coreOf r
  let pa := e.pa a.va
  match s.barredBut e pa a.bytes a.writes a.whole with
  | some c => (s, .park c a.acc (BitVec.ofNat 64 a.va))
  | none =>
    let own := !s.away e pa && s.ownStream core pa
    let c := classesOf a.rc own
    let src := if a.writes then s.srcOf r t a.rel a.scope c else none
    let dev := devOf pa
    let sp := Spot.plain c (streamOf a.rc own dev) [sectorOf pa] (if e.farat then .hbm else .place) [(a.va, e)]
    if s.away e pa then
      let (s, via) := s.route s.nextId dev a.rc { ref := r, cls := c, stream := sp.stream, sectors := sp.sectors, rel := a.rel, blind := false }
      (s.addReq r t a pa src { sp with stage := .remote dev via }, .next)
    else (s.addReq r t a pa src sp, .next)

/-- Issue an access whose register checks have passed (R62 checks 6 and 7, R262). -/
def issueGlobal (a : Access) : LaneFn := fun s r p t =>
  if a.va % a.bytes ≠ 0 then (s, .trap trapAlign 0 (BitVec.ofNat 64 a.va))
  else match s.xlate (s.coreOf r) (s.ctxIdOf r) a.va a.acc with
    | (s, .error c) => (s, .park c a.acc (BitVec.ofNat 64 a.va))
    | (s, .ok e) => if e.view then issueView a e s r p t else issueOrdinary a e s r p t

/-- The effective address of an M-format access (R262). -/
def Thread.eaM (t : Thread) (e : Env) (a : Reg) (off : BitVec 4) (n : Nat) : Nat :=
  (t.rd64 e a + sext64 off * BitVec.ofNat 64 n).toNat

/-- Accesses of n bytes at a list of addresses write every byte of the line of an address (23 R436). -/
def coversLine (va n : Nat) (l : List Nat) : Bool :=
  decide (128 ≤ l.length * n) && (List.range 128).all fun i => l.any fun x => decide (x ≤ va / 128 * 128 + i) && decide (va / 128 * 128 + i < x + n)

/-- The addresses of the lanes of the instruction in execution. -/
def State.lanesEaM (s : State) (a : Reg) (off : BitVec 4) (n : Nat) : List Nat :=
  s.cur.lanes.filterMap fun r => match s.thread? r, tget s.plots r.tag with
    | some t, some p => some (t.eaM (s.env r p) a off n)
    | _, _ => none

/-- The value of a data operand. -/
def Thread.dataOf (t : Thread) (e : Env) (d : Reg) (regs : Nat) : Quad :=
  match regs with
  | 1 => (t.rd32 e d).setWidth 128
  | 2 => (t.rd64 e d).setWidth 128
  | _ => t.rd128 e d

/-- LD, ST, LR and SC in one lane. -/
def laneM (op : ReqOp) (acc : Nat) (d a : Reg) (off : BitVec 4) (rc : RC) (sc : Scope) (acq rel : Bool) (sz : Sz) : LaneFn := fun s r p t =>
  if !t.inRanges [(d, szRegs sz), (a, 2)] then (s, .trap trapRange 0 0)
  else
    let e := s.env r p
    issueGlobal
      { op := op, va := t.eaM e a off (szBytes sz), bytes := szBytes sz, data := if op.stores then t.dataOf e d (szRegs sz) else 0,
        dst := if op = .store then .none else t.dstOf d, words := szRegs sz, rc := rc, scope := sc, acq := acq, rel := rel, acc := acc,
        whole := op == .store && coversLine (t.eaM e a off (szBytes sz)) (szBytes sz) (s.lanesEaM a off (szBytes sz)) }
      s r p t

/-- Registers of an atomic's operand (03 Table 3.11): twice as many for CAS. -/
def atomRegs (aop n : Nat) : Nat := if aop = 9 then n / 2 else n / 4

/-- The order field of an atomic: acquire, release (03 Table 3.7). -/
def ordAcq : AOrd → Bool
  | .acq => true
  | .ar => true
  | _ => false
def ordRel : AOrd → Bool
  | .rel => true
  | .ar => true
  | _ => false

/-- ATOM in one lane (R265). -/
def laneAtom (aop n : Nat) (d a : Reg) (rc : RC) (sc : Scope) (o : AOrd) : LaneFn := fun s r p t =>
  if !t.inRanges [(d, atomRegs aop n), (a, 2)] then (s, .trap trapRange 0 0)
  else
    let e := s.env r p
    let v := t.dataOf e d (atomRegs aop n)
    issueGlobal
      { op := .atom aop v, va := (t.rd64 e a).toNat, bytes := n, data := v, dst := t.dstOf d, words := n / 4, rc := rc,
        scope := sc, acq := ordAcq o, rel := ordRel o, acc := accAtomic, whole := false }
      s r p t

/-! ## One lane of a scratchpad access -/

/-- The scope of a scratchpad access by its CL bit (11 Table 11.2). -/
def spadScope (addr : Nat) : Scope := if bit addr 31 then .tract else .plot

/-- Perform an access at a scratchpad bank (R264, R269). -/
def State.performSpad (s : State) (r : Ref) (tag off : Nat) (op : ReqOp) (n : Nat) (data : Quad) (rmode : BitVec 2) (src : Option SyncSrc) : State × Performed :=
  match op with
  | .store => (s.spadWrite (.thread r) tag off (natLe n data.toNat) src, Performed.plain true)
  | .atom aop v =>
    let old := leNat (s.spadRead tag off n)
    let tags := s.spadTags tag off n
    let (new, f) := atomNew aop n old v.toNat rmode.toNat
    let s1 := match new with
      | some x => s.spadWrite (.thread r) tag off (natLe n x) src
      | none => s
    (s1, { value := BitVec.ofNat 128 old, flags := f, stored := new.isSome, tags := tags })
  | .load _ => (s, { value := BitVec.ofNat 128 (leNat (s.spadRead tag off n)), flags := 0, stored := false, tags := s.spadTags tag off n })
  | _ => (s, Performed.plain false)

/-- Where a scratchpad request of a thread stands: it joins the stream of its own device and counts for every class (11 R228, R229). -/
def State.spadSpot (s : State) (tag off : Nat) : Spot :=
  Spot.plain allClasses (some s.device) [spadSector tag off] (.bank tag off) []

/-- Issue a scratchpad access whose register checks have passed. -/
def issueSpad (a : Access) : LaneFn := fun s r _ t =>
  if a.va % a.bytes ≠ 0 then (s, .trap trapAlign 0 (BitVec.ofNat 64 a.va))
  else match s.spadAt r.tag a.va a.bytes with
    | .error c => (s, .park c a.acc (BitVec.ofNat 64 a.va))
    | .ok (tag, off) =>
      let src := if a.writes then s.srcOf r t a.rel a.scope allClasses else none
      (s.addReq r t a a.va src (s.spadSpot tag off), .next)

/-- The effective address of an S-format access (R264). -/
def Thread.eaS (t : Thread) (e : Env) (a : Reg) (off : BitVec 9) (n : Nat) : Nat :=
  (t.rd32 e a + off.signExtend 32 * BitVec.ofNat 32 n).toNat

/-- LDS and STS in one lane. -/
def laneS (op : ReqOp) (acc : Nat) (d a : Reg) (off : BitVec 9) (sz : Sz) : LaneFn := fun s r p t =>
  if !t.inRanges [(d, szRegs sz), (a, 1)] then (s, .trap trapRange 0 0)
  else
    let e := s.env r p
    let va := t.eaS e a off (szBytes sz)
    issueSpad
      { op := op, va := va, bytes := szBytes sz, data := if op.stores then t.dataOf e d (szRegs sz) else 0,
        dst := if op = .store then .none else t.dstOf d, words := szRegs sz, rc := .o, scope := spadScope va, acq := false,
        rel := false, acc := acc, whole := false }
      s r p t

/-- ATOMS in one lane (R269). -/
def laneAtoms (aop n : Nat) (d a : Reg) (tr : Bool) (o : AOrd) : LaneFn := fun s r p t =>
  if !t.inRanges [(d, atomRegs aop n), (a, 1)] then (s, .trap trapRange 0 0)
  else
    let e := s.env r p
    let v := t.dataOf e d (atomRegs aop n)
    issueSpad
      { op := .atom aop v, va := (t.rd32 e a).toNat, bytes := n, data := v, dst := t.dstOf d, words := n / 4, rc := .o,
        scope := if tr then .tract else .plot, acq := ordAcq o, rel := ordRel o, acc := accAtomic, whole := false }
      s r p t

/-! ## The instructions -/

/-- LD (R262). -/
def execLd (d : Reg) (a : Reg) (off : BitVec 4) (rc : RC) (sc : Scope) (ord : Bool) (sz : Sz) (s : State) : Result :=
  .next (runLanes (laneM (.load sz) accLoad d a off rc sc ord false sz) s)

/-- ST (R262). -/
def execSt (d : Reg) (a : Reg) (off : BitVec 4) (rc : RC) (sc : Scope) (ord : Bool) (sz : Sz) (s : State) : Result :=
  .next (runLanes (laneM .store accStore d a off rc sc false ord sz) s)

/-- LDS (R264). -/
def execLds (d : Reg) (a : Reg) (off : BitVec 9) (sz : Sz) (s : State) : Result :=
  .next (runLanes (laneS (.load sz) accLoad d a off sz) s)

/-- STS (R264). -/
def execSts (d : Reg) (a : Reg) (off : BitVec 9) (sz : Sz) (s : State) : Result :=
  .next (runLanes (laneS .store accStore d a off sz) s)

/-- LR (R271). -/
def execLr (d : Reg) (a : Reg) (off : BitVec 4) (rc : RC) (sc : Scope) (ord : Bool) (sz : Sz) (s : State) : Result :=
  .next (runLanes (laneM .lr accLR d a off rc sc ord false sz) s)

/-- SC (R272). -/
def execSc (d : Reg) (a : Reg) (off : BitVec 4) (rc : RC) (sc : Scope) (ord : Bool) (sz : Sz) (s : State) : Result :=
  .next (runLanes (laneM (.sc false) accSC d a off rc sc false ord sz) s)

/-- Bytes of an atomic by its W bit (R265). -/
def atomBytes (w : Bool) : Nat := if w then 8 else 4

/-- ATOM_ADD (R266). -/
def execAtomAdd (w : Bool) (d : Reg) (a : Reg) (rc : RC) (sc : Scope) (ord : AOrd) (s : State) : Result :=
  .next (runLanes (laneAtom 0 (atomBytes w) d a rc sc ord) s)

/-- ATOM_AND (R266). -/
def execAtomAnd (w : Bool) (d : Reg) (a : Reg) (rc : RC) (sc : Scope) (ord : AOrd) (s : State) : Result :=
  .next (runLanes (laneAtom 1 (atomBytes w) d a rc sc ord) s)

/-- ATOM_OR (R266). -/
def execAtomOr (w : Bool) (d : Reg) (a : Reg) (rc : RC) (sc : Scope) (ord : AOrd) (s : State) : Result :=
  .next (runLanes (laneAtom 2 (atomBytes w) d a rc sc ord) s)

/-- ATOM_XOR (R266). -/
def execAtomXor (w : Bool) (d : Reg) (a : Reg) (rc : RC) (sc : Scope) (ord : AOrd) (s : State) : Result :=
  .next (runLanes (laneAtom 3 (atomBytes w) d a rc sc ord) s)

/-- ATOM_MIN (R266). -/
def execAtomMin (w : Bool) (d : Reg) (a : Reg) (rc : RC) (sc : Scope) (ord : AOrd) (s : State) : Result :=
  .next (runLanes (laneAtom 4 (atomBytes w) d a rc sc ord) s)

/-- ATOM_MAX (R266). -/
def execAtomMax (w : Bool) (d : Reg) (a : Reg) (rc : RC) (sc : Scope) (ord : AOrd) (s : State) : Result :=
  .next (runLanes (laneAtom 5 (atomBytes w) d a rc sc ord) s)

/-- ATOM_MINU (R266). -/
def execAtomMinu (w : Bool) (d : Reg) (a : Reg) (rc : RC) (sc : Scope) (ord : AOrd) (s : State) : Result :=
  .next (runLanes (laneAtom 6 (atomBytes w) d a rc sc ord) s)

/-- ATOM_MAXU (R266). -/
def execAtomMaxu (w : Bool) (d : Reg) (a : Reg) (rc : RC) (sc : Scope) (ord : AOrd) (s : State) : Result :=
  .next (runLanes (laneAtom 7 (atomBytes w) d a rc sc ord) s)

/-- ATOM_EXCH (R266). -/
def execAtomExch (w : Bool) (d : Reg) (a : Reg) (rc : RC) (sc : Scope) (ord : AOrd) (s : State) : Result :=
  .next (runLanes (laneAtom 8 (atomBytes w) d a rc sc ord) s)

/-- ATOM_CAS (R267). -/
def execAtomCas (w : Bool) (d : Reg) (a : Reg) (rc : RC) (sc : Scope) (ord : AOrd) (s : State) : Result :=
  .next (runLanes (laneAtom 9 (atomBytes w) d a rc sc ord) s)

/-- ATOM_FADD_F32 (R268). -/
def execAtomFaddF32 (d : Reg) (a : Reg) (rc : RC) (sc : Scope) (ord : AOrd) (s : State) : Result :=
  .next (runLanes (laneAtom 10 4 d a rc sc ord) s)

/-- ATOM_XADD128 (R268). -/
def execAtomXadd128 (d : Reg) (a : Reg) (rc : RC) (sc : Scope) (ord : AOrd) (s : State) : Result :=
  .next (runLanes (laneAtom 11 16 d a rc sc ord) s)

/-- ATOM_INCW (R266). -/
def execAtomIncw (w : Bool) (d : Reg) (a : Reg) (rc : RC) (sc : Scope) (ord : AOrd) (s : State) : Result :=
  .next (runLanes (laneAtom 12 (atomBytes w) d a rc sc ord) s)

/-- ATOM_DECW (R266). -/
def execAtomDecw (w : Bool) (d : Reg) (a : Reg) (rc : RC) (sc : Scope) (ord : AOrd) (s : State) : Result :=
  .next (runLanes (laneAtom 13 (atomBytes w) d a rc sc ord) s)

/-- ATOMS_ADD (R269, R266). -/
def execAtomsAdd (w : Bool) (d : Reg) (a : Reg) (tr : Bool) (ord : AOrd) (s : State) : Result :=
  .next (runLanes (laneAtoms 0 (atomBytes w) d a tr ord) s)

/-- ATOMS_AND (R269, R266). -/
def execAtomsAnd (w : Bool) (d : Reg) (a : Reg) (tr : Bool) (ord : AOrd) (s : State) : Result :=
  .next (runLanes (laneAtoms 1 (atomBytes w) d a tr ord) s)

/-- ATOMS_OR (R269, R266). -/
def execAtomsOr (w : Bool) (d : Reg) (a : Reg) (tr : Bool) (ord : AOrd) (s : State) : Result :=
  .next (runLanes (laneAtoms 2 (atomBytes w) d a tr ord) s)

/-- ATOMS_XOR (R269, R266). -/
def execAtomsXor (w : Bool) (d : Reg) (a : Reg) (tr : Bool) (ord : AOrd) (s : State) : Result :=
  .next (runLanes (laneAtoms 3 (atomBytes w) d a tr ord) s)

/-- ATOMS_MIN (R269, R266). -/
def execAtomsMin (w : Bool) (d : Reg) (a : Reg) (tr : Bool) (ord : AOrd) (s : State) : Result :=
  .next (runLanes (laneAtoms 4 (atomBytes w) d a tr ord) s)

/-- ATOMS_MAX (R269, R266). -/
def execAtomsMax (w : Bool) (d : Reg) (a : Reg) (tr : Bool) (ord : AOrd) (s : State) : Result :=
  .next (runLanes (laneAtoms 5 (atomBytes w) d a tr ord) s)

/-- ATOMS_MINU (R269, R266). -/
def execAtomsMinu (w : Bool) (d : Reg) (a : Reg) (tr : Bool) (ord : AOrd) (s : State) : Result :=
  .next (runLanes (laneAtoms 6 (atomBytes w) d a tr ord) s)

/-- ATOMS_MAXU (R269, R266). -/
def execAtomsMaxu (w : Bool) (d : Reg) (a : Reg) (tr : Bool) (ord : AOrd) (s : State) : Result :=
  .next (runLanes (laneAtoms 7 (atomBytes w) d a tr ord) s)

/-- ATOMS_EXCH (R269, R266). -/
def execAtomsExch (w : Bool) (d : Reg) (a : Reg) (tr : Bool) (ord : AOrd) (s : State) : Result :=
  .next (runLanes (laneAtoms 8 (atomBytes w) d a tr ord) s)

/-- ATOMS_CAS (R269, R267). -/
def execAtomsCas (w : Bool) (d : Reg) (a : Reg) (tr : Bool) (ord : AOrd) (s : State) : Result :=
  .next (runLanes (laneAtoms 9 (atomBytes w) d a tr ord) s)

/-- ATOMS_FADD_F32 (R269, R268). -/
def execAtomsFaddF32 (d : Reg) (a : Reg) (tr : Bool) (ord : AOrd) (s : State) : Result :=
  .next (runLanes (laneAtoms 10 4 d a tr ord) s)

/-- ATOMS_XADD128 (R269, R268). -/
def execAtomsXadd128 (d : Reg) (a : Reg) (tr : Bool) (ord : AOrd) (s : State) : Result :=
  .next (runLanes (laneAtoms 11 16 d a tr ord) s)

/-- ATOMS_INCW (R269, R266). -/
def execAtomsIncw (w : Bool) (d : Reg) (a : Reg) (tr : Bool) (ord : AOrd) (s : State) : Result :=
  .next (runLanes (laneAtoms 12 (atomBytes w) d a tr ord) s)

/-- ATOMS_DECW (R269, R266). -/
def execAtomsDecw (w : Bool) (d : Reg) (a : Reg) (tr : Bool) (ord : AOrd) (s : State) : Result :=
  .next (runLanes (laneAtoms 13 (atomBytes w) d a tr ord) s)

end Sys2Proof.Machine
end

