-- ==== Sys2Proof/Machine/Sync.lean ====
section
/-! DEFINITION. The SYNC sub-ops (13 R257 to R297, 11 R236): WAIT, FENCE, barriers of every kind, WAITW, rotation rings
and landing names, with what a sleeping thread does when its condition holds. -/

namespace Sys2Proof.Machine

/-- Time units in a microsecond: time counts picoseconds (log 14). -/
def usec : Nat := 1000000

/-! ## WAIT and FENCE -/

/-- The counters of a thread are at or below bounds (R257). -/
def Thread.countsHold (t : Thread) (ld st cp tl : Nat) : Bool :=
  decide (t.ld ≤ ld) && decide (t.st ≤ st) && decide (t.cp ≤ cp) && decide (t.tl ≤ tl)

/-- WAIT in one thread. It is an acquire at plot scope for the commands it retires (11 R245, Table 11.2). -/
def waitLane (ld st cp tl : Nat) : LaneFn := fun s r _ t =>
  if t.countsHold ld st cp tl then (s.acquireCaches (s.coreOf r) .plot, .next) else (s, .sleep (.wait ld st cp tl))

/-- A FENCE that waits for earlier accesses of its mask (11 R236): later accesses of other classes may go on. -/
def fenceAccess (sc : Scope) (m : Classes) : Access :=
  { op := .fence m, va := 0, bytes := 0, data := 0, dst := .none, words := 0, rc := .o, scope := sc, acq := false, rel := false, acc := accNone,
    whole := false }

/-- FENCE in one thread (11 R236): it completes at once where no earlier access of its mask is outstanding, and is left waiting otherwise. -/
def fenceLane (sc : Scope) (m : Classes) : LaneFn := fun s r _ t =>
  let s1 := s.modThread r fun t => t.fenceMark sc m
  (if s.fenceReady s.nextId r m then s1.fenceDone r sc m
   else s1.addReq r t (fenceAccess sc m) 0 none (Spot.plain m none [] .place []), .next)

/-- WAIT (R257). -/
def execWait (ld : Fin 64) (st : Fin 64) (cp : Fin 64) (tl : Fin 64) (s : State) : Result :=
  .next (runLanes (waitLane ld.val st.val cp.val tl.val) s)

/-- FENCE (11 R236). -/
def execFence (sc : Scope) (o : Bool) (a : Bool) (s : Bool) (st : State) : Result :=
  .next (runLanes (fenceLane sc { o := o, a := a, s := s }) st)

/-! ## Plot and common barriers -/

/-- BARP in one thread (R281): it arrives and sleeps. -/
def barpLane : LaneFn := fun s r _ _ =>
  (s.modPlot r.tag fun p => { p with barp := insertNat p.barp r.tid }, .sleep .barp)

/-- The index of a plot's tract in its sowing. -/
def State.tractIndex (s : State) (p : Plot) : Nat := match tget s.tracts p.tract with | some t => t.index | none => 0

/-- The members of a common of a plot's sowing (01 R21). -/
def State.members (s : State) (sow com : Nat) : List (Nat × Nat) :=
  match tget s.sowings sow with
  | some w => (tget w.groups com).getD []
  | none => []

/-- BARC in one thread (R282): a member arrives and sleeps; another completes at once. -/
def barcLane (a : Reg) : LaneFn := fun s r p t =>
  if !t.inRanges [(a, 1)] then (s, .trap trapRange 0 0)
  else
    let c := (t.rd32 (s.env r p) a).toNat % 256
    if (s.members p.sow c).contains (s.tractIndex p, p.index) then
      (s.modSow p.sow fun w =>
        let l := (tget w.barc c).getD []
        { w with barc := tput w.barc c (if l.contains r then l else l ++ [r]) }, .sleep (.barc c))
    else (s.acquireCaches (s.coreOf r) .dev, .next)

/-- BARP (R281). -/
def execBarp (s : State) : Result := .next (runLanes barpLane s)

/-- BARC (R282). -/
def execBarc (a : Reg) (s : State) : Result := .next (runLanes (barcLane a) s)

/-! ## Byte-count barriers -/

/-- A byte-count barrier (R274, Table 13.4). -/
structure Barrier where
  rem : Int
  init : Nat
  scope : Nat
  phase : Bool
  ovf : Bool
  deriving DecidableEq, Repr

/-- A barrier from its 128 bits. -/
def barOf (v : Nat) : Barrier :=
  { rem := sgn 32 v, init := bits v 95 64, scope := bits v 102 101, phase := bit v 103, ovf := bit v 104 }

/-- The 128 bits of a barrier, reserved bits 0 (log 23). -/
def barBits (b : Barrier) : Nat :=
  unsgn 32 b.rem + b.init % 2 ^ 32 * 2 ^ 64 + b.scope % 4 * 2 ^ 101 + b.phase.toNat * 2 ^ 103 + b.ovf.toNat * 2 ^ 104

/-- A scope by its code (03 Table 3.5). -/
def scopeOf (n : Nat) : Scope := match n % 4 with | 0 => .plot | 1 => .tract | 2 => .dev | _ => .sys

/-- The barrier at a scratchpad offset. -/
def State.barAt (s : State) (tag off : Nat) : Barrier := barOf (leNat (s.spadRead tag off 16))

/-- Write a barrier, one step at its bank. -/
def State.putBar (s : State) (who : Writer) (tag off : Nat) (b : Barrier) : State := s.spadWrite who tag off (natLe 16 (barBits b)) none

/-- BCINIT's effect on a barrier (R275). -/
def barInit (c : Nat) : Barrier := { rem := (c % 2 ^ 30 : Nat), init := c % 2 ^ 30, scope := c / 2 ^ 30 % 4, phase := false, ovf := false }

/-- An arrival of n bytes (R276): the barrier after it, whether it completed a phase, and whether it was applied. -/
def barArrive (b : Barrier) (n : Nat) : Barrier × Bool × Bool :=
  let m := b.rem - (n : Int)
  if m < -(2 ^ 31) then ({ b with ovf := true }, false, false)
  else if m ≤ 0 then ({ b with rem := (b.init : Int) + m, phase := !b.phase }, true, true)
  else ({ b with rem := m }, false, true)

/-- BCEXP's effect (R277). -/
def barExpect (b : Barrier) (n : Nat) : Barrier :=
  if b.rem + (n : Int) > 2 ^ 31 - 1 then { b with ovf := true } else { b with rem := b.rem + (n : Int) }

/-- Note an arrival for the edges of the phase it is counted in (11 R243). -/
def Plot.noteArrival (p : Plot) (off : Nat) (src : Option SyncSrc) (done : Bool) : Plot :=
  let e := (tget p.barEdges off).getD { cur := [], last := [] }
  let cur := e.cur ++ src.toList
  { p with barEdges := tput p.barEdges off (if done then { cur := [], last := cur } else { e with cur := cur }) }

/-- Apply an arrival at a barrier, one step (09 R217). True when it was applied. -/
def State.arrive (s : State) (who : Writer) (tag off n : Nat) (src : Option SyncSrc) : State × Bool :=
  let (b, done, ok) := barArrive (s.barAt tag off) n
  let s1 := s.putBar who tag off b
  (if ok then s1.modPlot tag fun p => p.noteArrival off src done else s1, ok)

/-- The barrier address of a register: bits [3:0] cleared (R274). -/
def barAddr (v : Word) : Nat := v.toNat / 16 * 16

/-- An operation on a barrier by a thread: the range checks, the address, then the effect at its bank. -/
def barLane (ops : List (Reg × Nat)) (a : Reg) (f : Nat → Nat → Word → LaneFn) : LaneFn := fun s r p t =>
  if !t.inRanges ops then (s, .trap trapRange 0 0)
  else
    let v := t.rd32 (s.env r p) a
    match s.spadAt r.tag (barAddr v) 16 with
    | .error c => (s, .park c accRing (BitVec.ofNat 64 (barAddr v)))
    | .ok (tag, off) => f tag off v s r p t

/-- The request of a barrier or cache operation, counted in ST until it is acknowledged (13 Table 13.1). -/
def syncAccess (op : ReqOp) (va : Nat) (rel : Bool) : Access :=
  { op := op, va := va, bytes := 16, data := 0, dst := .none, words := 0, rc := .o, scope := .plot, acq := false, rel := rel,
    acc := accRing, whole := false }

/-- Count a cache operation that has been done. -/
def State.countSync (s : State) (r : Ref) (t : Thread) (va : Nat) : State :=
  s.addReq r t (syncAccess .sync va false) va none (Spot.plain allClasses none [] (.performed 0) [])

/-- A barrier operation of a thread leaves for the bank. -/
def barOp (op : ReqOp) (rel : Bool) (tag off : Nat) (v : Word) : LaneFn := fun s r _ t =>
  (s.addReq r t (syncAccess op (barAddr v) rel) (barAddr v) none (s.spadSpot tag off), .next)

/-- BCINIT in one thread (R275). -/
def bcinitLane (a b : Reg) : LaneFn := barLane [(a, 1), (b, 1)] a fun tag off v s r p t =>
  barOp (.bcinit (t.rd32 (s.env r p) b).toNat) false tag off v s r p t

/-- BCEXP in one thread (R277). -/
def bcexpLane (a b : Reg) : LaneFn := barLane [(a, 1), (b, 1)] a fun tag off v s r p t =>
  barOp (.bcexp ((t.rd32 (s.env r p) b).toNat % 2 ^ 30)) false tag off v s r p t

/-- BCARR in one thread (R276, 11 R242): a full release. -/
def bcarrLane (a b : Reg) : LaneFn := barLane [(a, 1), (b, 1)] a fun tag off v s r p t =>
  barOp (.bcarr ((t.rd32 (s.env r p) b).toNat % 2 ^ 30)) true tag off v s r p t

/-- A barrier operation of a thread takes effect at the bank (R275 to R277). -/
def State.performBar (s : State) (r : Ref) (tag off : Nat) (op : ReqOp) : State :=
  match op with
  | .bcarr n => (s.arrive (.thread r) tag off n (some { agent := s.agentOf r, scope := scopeOf (s.barAt tag off).scope })).1
  | .bcexp n => s.putBar (.thread r) tag off (barExpect (s.barAt tag off) n)
  | .bcinit c => (s.putBar (.thread r) tag off (barInit c)).modPlot tag fun q => { q with barEdges := tdel q.barEdges off }
  | _ => s

/-- The place of a barrier operation of one cycle (11 R244): its kind; none of another request. -/
def ReqOp.barKind : ReqOp → Option Nat
  | .bcarr _ => some 1
  | .bcexp _ => some 2
  | .bcinit _ => some 3
  | _ => none

/-- The place of an operation in the order of 11 R244: by cycle, then kind (0 an engine's Arrive, 4 BCWAIT and BCTEST), then core, then lane. Agents of no core come
last of their kind. -/
def barPlace (cycle kind core lane : Nat) : Nat := ((cycle * 8 + kind) * 256 + core) * 64 + lane

/-- The place of a thread's operation (11 R244). -/
def Req.barRank (q : Req) : Nat := barPlace (instrCycle q.instr) (q.op.barKind.getD 4) q.core q.ref.lane

/-- An operation acts at a barrier at its place. -/
def State.barNote (s : State) (tag off place : Nat) : State :=
  s.modPlot tag fun p => { p with barActed := tput p.barActed off (max place ((tget p.barActed off).getD 0)) }

/-- An engine's Arrive can act at a barrier in this cycle: no operation that follows it in the order of 11 R244 has acted there in the cycle. Else it acts in the
next one (log 66). -/
def State.barFree (s : State) (tag off core : Nat) : Bool :=
  match tget s.plots tag with
  | some p => decide ((tget p.barActed off).getD 0 ≤ barPlace s.cycle 0 core 0)
  | none => true

/-- Insert a request by the order of barrier operations. -/
def barInsert : Tab Req → Nat × Req → Tab Req
  | [], x => [x]
  | y :: t, x => if y.2.barRank ≤ x.2.barRank then y :: barInsert t x else x :: y :: t

/-- The operations that wait at a barrier, in their order. -/
def State.barPending (s : State) (tag off : Nat) : Tab Req :=
  (s.reqs.filter fun (_, q) => q.op.barKind.isSome && q.stage == .bank tag off).foldl barInsert []

/-- Change a request. -/
def State.modReq (s : State) (id : Nat) (f : Req → Req) : State := { s with reqs := tmod s.reqs id f }

/-- One barrier operation is performed when its turn in its thread has come. -/
def State.barStep (s : State) (tag off : Nat) (x : Nat × Req) : State :=
  if s.mayPerform x.1 x.2 then
    ((s.performBar x.2.ref tag off x.2.op).barNote tag off x.2.barRank).modReq x.1 fun q => { q with stage := .performed 0 }
  else s

/-- The operations that wait at a barrier take effect in their order (11 R244). -/
def State.settleBar (s : State) (tag off : Nat) : State := (s.barPending tag off).foldl (fun s x => s.barStep tag off x) s

/-- The acquire of a phase observed (11 R243, R237; 13 R279). -/
def State.barAcquire (s : State) (r : Ref) (tag off : Nat) : State :=
  let sc := scopeOf (s.barAt tag off).scope
  let last := match tget s.plots tag with
    | some p => ((tget p.barEdges off).map BarEdges.last).getD []
    | none => []
  (s.observe r sc last).acquireCaches (s.coreOf r) sc

/-- The phase waited for: ph xor A[0] (R279). -/
def waitedPhase (v : Word) (ph : Bool) : Bool := ph != v.getLsbD 0

/-- BCWAIT and BCTEST follow the other operations of the cycle on the barrier (11 R244). -/
def State.barLook (s : State) (r : Ref) (tag off : Nat) : State := (s.settleBar tag off).barNote tag off (barPlace s.cycle 4 (s.coreOf r) r.lane)

/-- BCWAIT in one thread (R279). -/
def bcwaitLane (a : Reg) (ph : Bool) : LaneFn := barLane [(a, 1)] a fun tag off v s r _ _ =>
  let s := s.barLook r tag off
  if (s.barAt tag off).phase != waitedPhase v ph then (s.barAcquire r tag off, .next)
  else (s, .sleep (.bcwait (BitVec.ofNat 32 (barAddr v)) (waitedPhase v ph)))

/-- BCTEST in one thread (R279). -/
def bctestLane (pd : Fin 128) (a : Reg) (ph : Bool) : LaneFn := barLane [(a, 1)] a fun tag off v s r _ _ =>
  let s := s.barLook r tag off
  let ok := (s.barAt tag off).phase != waitedPhase v ph
  let s1 := if ok then s.barAcquire r tag off else s
  (s1.modThread r fun t => t.setPred pd.val ok, .next)

/-- BCINIT (R275). -/
def execBcinit (a : Reg) (b : Reg) (s : State) : Result := .next (runLanes (bcinitLane a b) s)

/-- BCEXP (R277). -/
def execBcexp (a : Reg) (b : Reg) (s : State) : Result := .next (runLanes (bcexpLane a b) s)

/-- BCARR (R276). -/
def execBcarr (a : Reg) (b : Reg) (s : State) : Result := .next (runLanes (bcarrLane a b) s)

/-- BCWAIT (R279). -/
def execBcwait (a : Reg) (ph : Bool) (s : State) : Result := .next (runLanes (bcwaitLane a ph) s)

/-- BCTEST (R279). -/
def execBctest (p : Fin 128) (a : Reg) (ph : Bool) (s : State) : Result := .next (runLanes (bctestLane p a ph) s)

/-! ## WAITW -/

/-- What a read of WAITW finds: a fault, nothing yet for want of a port to the word's device (23 R410), or the word. -/
inductive Watch where
  | fault (code : Nat)
  | held
  | word (x : Word) (tags : List SyncSrc)
  deriving DecidableEq, Repr

/-- Read the word WAITW watches, at its place (R283). -/
def State.watchWord (s : State) (core ctx va : Nat) : State × Watch :=
  match s.xlate core ctx va accLoad with
  | (s, .error c) => (s, .fault c)
  | (s, .ok e) =>
    if e.view then
      match s.viewEnts core ctx e.tid with
      | (s, .error c) => (s, if c = fcNoPort then .held else .fault c)
      | (s, .ok _) => (s, .fault fcViewAtomic)
    else
      let pa := e.pa va
      match s.barred e pa 4 false with
      | some c => (s, .fault c)
      | none =>
        if s.noPort e pa then (s, .held)
        else if s.away e pa then
          match s.farAnswer pa with
          | (s, some c) => (s, .fault c)
          | (s, none) =>
            let (s, l) := s.freeBytes 4
            let (s, tags) := s.freeTags pa
            (s, .word (BitVec.ofNat 32 (leNat l)) tags)
        else
          let tags := s.placeTags e pa 4
          let (s1, l) := s.rdPhys core e va pa 4
          (s1, .word (BitVec.ofNat 32 (leNat l)) tags)

/-- The read that completes a WAITW is an acquire at system scope (11 Table 11.4). -/
def State.watchDone (s : State) (r : Ref) (tags : List SyncSrc) : State := (s.observe r .sys tags).acquireCaches (s.coreOf r) .sys

/-- A thread watches the sector of a word at its home (R283); the word of another device is looked at by time alone. -/
def State.watch (s : State) (r : Ref) (va : Nat) : State :=
  let s1 := s.unwatch r
  match (s.xlate (s.coreOf r) (s.ctxIdOf r) va accLoad).2 with
  | .ok e =>
    if e.view || s.away e (e.pa va) then s1
    else { s1 with watches := s1.watches ++ [{ ref := r, sector := placeKey (s.placeOf e (e.pa va)) / 32, hit := false }] }
  | .error _ => s1

/-- WAITW in one thread (R283). -/
def waitwLane (a b : Reg) : LaneFn := fun s r p t =>
  if !t.inRanges [(a, 2), (b, 1)] then (s, .trap trapRange 0 0)
  else
    let e := s.env r p
    let va := t.rd64 e a
    let v := t.rd32 e b
    if va &&& 3 ≠ 0 then (s, .trap trapAlign 0 va)
    else match s.watchWord (s.coreOf r) p.ctx va.toNat with
      | (s, .fault c) => (s, .park c accLoad va)
      | (s, .held) => (s.watch r va.toNat, .sleep (.waitw va v s.time))
      | (s, .word x tags) => if x ≠ v then (s.watchDone r tags, .next) else (s.watch r va.toNat, .sleep (.waitw va v s.time))

/-- WAITW (R283). -/
def execWaitw (a : Reg) (b : Reg) (s : State) : Result := .next (runLanes (waitwLane a b) s)

/-! ## Landing names -/

/-- The landing state of a register (R288). -/
def Thread.landingOf (t : Thread) (x : Nat) : LandState := t.landing.getD x .none

/-- Set the landing state of a register. -/
def Thread.setLanding (t : Thread) (x : Nat) (l : LandState) : Thread := { t with landing := t.landing.set x l }

/-- A slot of a core; one that was never used is free (R287, 16 R328). -/
def Core.slot (k : Core) (n : Nat) : Slot := (tget k.slots n).getD Slot.reset

/-- The lowest free slot of the 4,096 (R287). -/
def freeSlot (k : Core) : Nat → Nat → Option Nat
  | _, 0 => none
  | n, m + 1 => if (k.slot n).state = .free then some n else freeSlot k (n + 1) m

/-- Replace a slot. -/
def State.putSlot (s : State) (c n : Nat) (x : Slot) : State := s.modCore c fun k => { k with slots := tput k.slots n x }

/-- The fields of a name (R286, Table 13.6). -/
def nameDev (v : Nat) : Nat := bits v 63 54
def nameDie (v : Nat) : Nat := bits v 53 52
def nameCore (v : Nat) : Nat := nameDie v * 32 + bits v 51 47
def nameSlot (v : Nat) : Nat := bits v 46 35
def nameGen (v : Nat) : Nat := bits v 34 32
def nameCheck (v : Nat) : Nat := bits v 31 0

/-- A name from its parts. -/
def mkName (dev core slot : Nat) (gen : BitVec 3) (check : Word) : DWord :=
  BitVec.ofNat 64 (dev % 1024 * 2 ^ 54 + core / 32 % 4 * 2 ^ 52 + core % 32 * 2 ^ 47 + slot % 4096 * 2 ^ 35 + gen.toNat * 2 ^ 32 + check.toNat)

/-- The live slot of a core bound to a register of a thread. -/
def boundSlot : Tab Slot → Ref → Nat → Option Nat
  | [], _, _ => none
  | (n, x) :: t, r, reg => if x.state = .live ∧ x.owner = r ∧ x.reg = reg then some n else boundSlot t r reg

/-- The tract of a thread is placed. -/
def State.residentRef (s : State) (r : Ref) : Bool :=
  match tget s.plots r.tag with
  | some p => match tget s.tracts p.tract with | some t => t.resident | none => false
  | none => false

/-- Free a slot of a core and mark its register lapsed (R293, R294): of a thread that is swapped out, at its swap-in. -/
def State.lapseSlot (s : State) (c n : Nat) : State :=
  let x := (s.core c).slot n
  (s.putSlot c n x.freed).modThread x.owner fun t => if s.residentRef x.owner then t.setLanding x.reg .lapsed else { t with lapses := t.lapses ++ [x.reg] }

/-- What lapsed while the thread was swapped out takes effect at its swap-in (R294). -/
def Thread.applyLapses (t : Thread) : Thread :=
  { t.lapses.foldl (fun u x => u.setLanding x .lapsed) t with lapses := [] }

/-- Time to live in microseconds (R289). -/
def ttlOf (c : Word) : Nat := let n := c.toNat % 2 ^ 20; if n = 0 then 1 else min n 1000000

/-- A check tag: a free value, never 0 (R289, log 6). -/
def checkTag (k : Nat) : Word := if Config.freeWord k = 0 then 1 else Config.freeWord k

/-- MINT in one thread (R289). -/
def mintLane (d a b : Reg) : LaneFn := fun s r p t =>
  let e := s.env r p
  if !t.inRanges [(d, 2), (b, 1)] then (s, .trap trapRange 0 0)
  else
    let c := t.rd32 e b
    let wide := c.getLsbD 31
    if !t.inRanges [(a, if wide then 2 else 1)] then (s, .trap trapRange 0 0)
    else match t.phys a with
      | none => (s, .trap trapIllegal 0 0)
      | some x =>
        if wide ∧ x % 2 ≠ 0 then (s, .trap trapRange 0 0)
        else
          let core := s.coreOf r
          -- the name bound before is dropped
          let s := if t.landingOf x = .pending then
              match boundSlot (s.core core).slots r x with
              | some n => s.lapseSlot core n
              | none => s
            else s
          match freeSlot (s.core core) 0 4096 with
          | none => (s.modThread r fun t => t.wr64 d 0, .next)
          | some n =>
            let (k, s) := s.draw
            let chk := checkTag k
            let gen := ((s.core core).slot n).gen
            let slot : Slot :=
              { state := .live, gen := gen, check := chk, owner := r, reg := x, wide := wide, expiry := s.time + ttlOf c * usec,
                value := 0, src := none }
            ((s.putSlot core n slot).modThread r fun t =>
              ({ t with landSrc := tdel t.landSrc x }.setLanding x .pending).wr64 d (mkName s.device core n gen chk), .next)

/-- MINT (R289). -/
def execMint (d : Reg) (a : Reg) (b : Reg) (s : State) : Result := .next (runLanes (mintLane d a b) s)

/-- LAND in one thread (R290): it leaves as a posted release under its class, counted in ST. A name of the core's own device and die stands in the stream of
that device whatever the class (11 R228). -/
def landLane (rc : RC) (sc : Scope) (w : Bool) (a b : Reg) : LaneFn := fun s r p t =>
  if !t.inRanges [(a, 2), (b, if w then 2 else 1)] then (s, .trap trapRange 0 0)
  else
    let e := s.env r p
    let name := t.rd64 e a
    let v : DWord := if w then t.rd64 e b else (t.rd32 e b).setWidth 64
    let dev := nameDev name.toNat
    let own := dev == s.device && nameDie name.toNat == dieOf (s.coreOf r)
    let l : Land :=
      { ref := some r, dev := dev, rc := rc, cls := classesOf rc own, stream := streamOf rc own dev, via := .held, name := name, value := v, wide := w,
        pc := t.pc, src := some { agent := s.agentOf r, scope := sc }, answered := none, peer := none }
    let (id, s1) := s.fresh
    let (s2, via) := if dev = s.device then (s1, .held) else s1.route id dev rc (l.key r)
    ({ s2 with lands := tput s2.lands id { l with via := via } }.modThread r fun t => { t with st := t.st + 1 }, .next)

/-- LAND (R290). -/
def execLand (rc : RC) (sc : Scope) (w : Bool) (a : Reg) (b : Reg) (s : State) : Result := .next (runLanes (landLane rc sc w a b) s)

/-- What LWAIT and LTEST do with a state that is not pending (R292): the predicate, the new state, and on a delivery the
acquire at the scope of the LAND (11 R248). -/
def State.readLanding (s : State) (r : Ref) (t : Thread) (pd x : Nat) : State :=
  let ok := t.landingOf x = .delivered
  let s1 := s.modThread r fun t => { (t.setPred pd ok).setLanding x .none with landSrc := tdel t.landSrc x }
  match (if ok then tget t.landSrc x else none) with
  | some src => (s1.observe r src.scope [src]).acquireCaches (s.coreOf r) src.scope
  | none => s1

/-- LWAIT in one thread (R292). -/
def lwaitLane (pd : Fin 128) (a : Reg) : LaneFn := fun s r _ t =>
  if !t.inRanges [(a, 1)] then (s, .trap trapRange 0 0)
  else match t.phys a with
    | none => (s, .trap trapIllegal 0 0)
    | some x => if t.landingOf x = .pending then (s, .sleep (.lwait pd x)) else (s.readLanding r t pd.val x, .next)

/-- LTEST in one thread (R292). -/
def ltestLane (pd : Fin 128) (a : Reg) : LaneFn := fun s r _ t =>
  if !t.inRanges [(a, 1)] then (s, .trap trapRange 0 0)
  else match t.phys a with
    | none => (s, .trap trapIllegal 0 0)
    | some x => if t.landingOf x = .pending then (s.modThread r fun t => t.setPred pd.val false, .next) else (s.readLanding r t pd.val x, .next)

/-- LWAIT (R292). -/
def execLwait (p : Fin 128) (a : Reg) (s : State) : Result := .next (runLanes (lwaitLane p a) s)

/-- LTEST (R292). -/
def execLtest (p : Fin 128) (a : Reg) (s : State) : Result := .next (runLanes (ltestLane p a) s)

/-- A slot is the live slot of a name (R291). -/
def slotMatches (x : Slot) (v : Nat) : Bool := x.state == .live && x.gen.toNat == nameGen v && x.check.toNat == nameCheck v

/-- LDROP in one thread (R293). -/
def ldropLane (a : Reg) : LaneFn := fun s r p t =>
  if !t.inRanges [(a, 2)] then (s, .trap trapRange 0 0)
  else
    let v := (t.rd64 (s.env r p) a).toNat
    let core := s.coreOf r
    let x := (s.core core).slot (nameSlot v)
    if nameDev v = s.device ∧ nameCore v = core ∧ slotMatches x v ∧ x.owner = r then (s.lapseSlot core (nameSlot v), .next) else (s, .next)

/-- LDROP (R293). -/
def execLdrop (a : Reg) (s : State) : Result := .next (runLanes (ldropLane a) s)

/-! ## Rotation rings -/

/-- The cursor after RNEXT at ring h with n stages (R285). -/
def Thread.nextStage (t : Thread) (h : Word) (restart : Bool) (n : Nat) : Thread :=
  if restart ∨ t.rcurRing ≠ h then { t with rcurRing := h, rcurStage := 0, rcurPhase := false }
  else if t.rcurStage + 1 = n then { t with rcurStage := 0, rcurPhase := !t.rcurPhase }
  else { t with rcurStage := t.rcurStage + 1 }

/-- The address of the stage's full barrier with the phase in bit 0 (R285). -/
def Thread.ringAddr (t : Thread) (h : Word) : Word := h + 16 + 32 * BitVec.ofNat 32 t.rcurStage + BitVec.ofNat 32 t.rcurPhase.toNat

/-- RNEXT in one thread (R285). -/
def rnextLane (d a : Reg) : LaneFn := barLane [(d, 1), (a, 1)] a fun tag off v s r _ _ =>
  let h : Word := BitVec.ofNat 32 (barAddr v)
  let n := leNat (s.spadRead tag off 16) % 16
  if n < 2 ∨ 8 < n then (s, .park fcBadRing accRing (h.setWidth 64))
  else (s.modThread r fun t => let u := t.nextStage h (v.getLsbD 0) n; u.wr32 d (u.ringAddr h), .next)

/-- RNEXT (R285). -/
def execRnext (d : Reg) (a : Reg) (s : State) : Result := .next (runLanes (rnextLane d a) s)

end Sys2Proof.Machine
end

