-- ==== Sys2Proof/Machine/Tensor.lean ====
section
/-! DEFINITION. The tensor-table and binding instructions (15 R321 to R325): TTLD, TTST with the entry checks of Table
15.10, TTINV, VBIND and VUNBIND. -/

namespace Sys2Proof.Machine

/-! ## Entry checks (15 R323, Table 15.10) -/

/-- Formats with scales: BQ4, MXFP8, MXFP4 (05 Table 5.1). -/
def fmtScaledKind (f : Nat) : Bool := f == 11 || f == 12 || f == 13

/-- What DIM0 must be a multiple of (Table 15.10). -/
def fmtDimUnit (f : Nat) : Nat :=
  if f = 11 then 8 else if f = 12 ∨ f = 13 then 32 else if f = 7 ∨ f = 10 then 2 else if f = 5 ∨ f = 6 then 4 else 1

/-- Checks of a base entry. -/
def checkBase (e : Nat) : Bool :=
  let n := entRank e
  let f := entFmt e
  let js := List.range 6
  bits e 54 52 == 0 && !bit e 116 && decide (1 ≤ n) && decide (n ≤ 6) && decide (f ≤ 13) &&
  js.all (fun j => if j < n then decide (1 ≤ entDim e j) else entDim e j == 0 && entStride e j == 0) &&
  (if fmtScaledKind f then entScale e != 0 else entScale e == 0) &&
  (fmtDimUnit f == 1 || (entStride e 0 == 1 && entDim e 0 % fmtDimUnit f == 0))

/-- Byte i of an interleave map. -/
def mapByte (m i : Nat) : Nat := bits m (8 * i + 7) (8 * i)

/-- Checks of an interleave map: dimension 6 is refused. -/
def checkMap (m : Nat) : Bool := (List.range 64).all fun i => mapByte m i / 32 != 6

/-- P is a permutation of 0 to n - 1. -/
def viewPermOk (v n : Nat) : Bool := (List.range n).all fun k => (List.range n).any fun j => viewP v j == k

/-- Checks of a view entry that it alone decides. -/
def checkViewAlone (v : Nat) : Bool :=
  let n := entRank v
  let js := List.range 6
  bits v 9 0 == 0 && bits v 511 496 == 0 &&
  js.all (fun k => if k < n then decide (1 ≤ viewUD v k) && decide (viewTS v k ≤ viewUD v k)
    else viewUD v k == 0 && viewTS v k == 0 && viewVS v k == 0 && viewP v k == 0) &&
  (!viewPerm v || viewPermOk v n) &&
  (!viewGath v || decide (viewGdim v < n)) &&
  (!viewIlv v || js.all fun k => viewVS v k == 0) &&
  (bit v 46 || js.all fun k => viewTS v k == 0)

/-- TILE is bit 46 of a view entry; a view names a base of its own rank, an index tensor and a map of its dimensions. -/
def checkViewWith (v b g m : Nat) : Bool :=
  entKind b == 1 && entRank v == entRank b &&
  (!viewGath v || (entKind g == 1 && entRank g == 1 && entFmt g == 0)) &&
  (!viewIlv v || (entKind m == 3 && (List.range 64).all fun i => decide (mapByte m i / 32 < entRank v) || mapByte m i / 32 == 7))

/-- The virtual address of a table entry. -/
def State.ttAddr (s : State) (ctx id : Nat) : Nat :=
  match tget s.ctxs ctx with | some c => (c.ttbase.toNat + 64 * id) % 2 ^ 64 | none => 0

/-- Length of a context's table. -/
def State.ttLen (s : State) (ctx : Nat) : Nat := match tget s.ctxs ctx with | some c => c.ttlen | none => 0

/-- Read another entry for a check; one beyond the table reads as invalid. -/
def State.ttRead (s : State) (core ctx id : Nat) : State × Except Nat Nat :=
  match s.ttEntry core ctx id accTensor with
  | (s, .error c) => (s, .error c)
  | (s, .ok x) => (s, .ok (x.getD 0))

/-- The checks of Table 15.10 on an entry for an ID, against the table as it stands. -/
def State.checkEntry (s : State) (core ctx id e : Nat) : State × Except Nat Bool :=
  match entKind e with
  | 0 => (s, .ok true)
  | 1 => (s, .ok (checkBase e))
  | 3 => (s, .ok (checkMap e))
  | _ =>
    if !checkViewAlone e ∨ (viewIlv e ∧ 4095 ≤ id) then (s, .ok false)
    else match s.ttRead core ctx (viewBaseId e) with
      | (s, .error c) => (s, .error c)
      | (s, .ok b) =>
        match (if viewGath e then s.ttRead core ctx (viewGidx e) else (s, .ok 0)) with
        | (s, .error c) => (s, .error c)
        | (s, .ok g) =>
          match (if viewIlv e then s.ttRead core ctx (id + 1) else (s, .ok 0)) with
          | (s, .error c) => (s, .error c)
          | (s, .ok m) => (s, .ok (checkViewWith e b g m))

/-! ## TTLD, TTST, TTINV -/

/-- The 16 words of a block operand as one number (R322). -/
def Thread.rdBlock (t : Thread) (e : Env) (r : Reg) : Nat := (List.range 16).foldr (fun i v => (t.word e r i).toNat + 2 ^ 32 * v) 0

/-- The 16 words of an entry. -/
def entryWords (e : Nat) : List Word := (List.range 16).map fun i => BitVec.ofNat 32 (e / 2 ^ (32 * i))

/-- The tensor ID in A, or none where it is no ID of the table (R321). -/
def State.tensorId (s : State) (ctx : Nat) (a : Word) : Option Nat :=
  if a.toNat < 4096 ∧ a.toNat < s.ttLen ctx then some a.toNat else none

/-- A tensor-table instruction after its register checks: the ID, the fault for a bad one (R321). The address of a fault is that
of the entry (log 24). -/
def ttLane (g : Thread → Bool) (ops : List (Reg × Nat)) (a : Reg) (f : Nat → LaneFn) : LaneFn := fun s r p t =>
  if !g t then (s, .next)
  else if !t.inRanges ops then (s, .trap trapRange 0 0)
  else
    let v := t.rd32 (s.env r p) a
    match s.tensorId p.ctx v with
    | none => (s, .park fcTensorId accTensor (BitVec.ofNat 64 (s.ttAddr p.ctx v.toNat)))
    | some id => f id s r p t

/-- Park at a tensor-table entry. -/
def State.ttPark (s : State) (ctx id code : Nat) : State × Out := (s, .park code accTensor (BitVec.ofNat 64 (s.ttAddr ctx id)))

/-- TTLD in one thread (R322). -/
def ttldLane (d a : Reg) : LaneFn := ttLane gAll [(d, 16), (a, 1)] a fun id s r p _ =>
  match s.ttRead (s.coreOf r) p.ctx id with
  | (s, .error c) => s.ttPark p.ctx id c
  | (s, .ok e) => (s.modThread r fun t => t.wrWords d (entryWords e), .next)

/-- Write an entry: one 64-byte unit; every held copy is invalidated (R320, R322). -/
def State.ttWrite (s : State) (r : Ref) (ctx id e : Nat) : State × Except Nat Unit :=
  match s.pwrite (s.coreOf r) ctx (some r) (s.ttAddr ctx id) (natLe 64 e) accEngWrite none with
  | (s, .error c) => (s, .error c)
  | (s, .ok _) => (({ s with cores := s.cores.map fun (c, k) => (c, { k with l1 := [] }) } : State).dropAllVbuf, .ok ())

/-- TTST in one thread (R322, R323). -/
def ttstLane (g : Fin 128) (a b : Reg) : LaneFn := ttLane (gY g) [(a, 1), (b, 16)] a fun id s r p t =>
  let e := t.rdBlock (s.env r p) b
  match s.checkEntry (s.coreOf r) p.ctx id e with
  | (s, .error c) => s.ttPark p.ctx id c
  | (s, .ok false) => s.ttPark p.ctx id fcBadEntry
  | (s, .ok true) =>
    match s.ttWrite r p.ctx id e with
    | (s, .error c) => s.ttPark p.ctx id c
    | (s, .ok _) => (s, .next)

/-- TTINV in one thread (R322): KIND becomes 0. -/
def ttinvLane (g : Fin 128) (a : Reg) : LaneFn := ttLane (gY g) [(a, 1)] a fun id s r p _ =>
  match s.ttRead (s.coreOf r) p.ctx id with
  | (s, .error c) => s.ttPark p.ctx id c
  | (s, .ok e) =>
    match s.ttWrite r p.ctx id (e % 2 ^ 62 + e / 2 ^ 64 * 2 ^ 64) with
    | (s, .error c) => s.ttPark p.ctx id c
    | (s, .ok _) => (s, .next)

/-- TTLD (R322). -/
def execTtld (d : Reg) (a : Reg) (s : State) : Result := .next (runLanes (ttldLane d a) s)

/-- TTST (R322). -/
def execTtst (g : Fin 128) (a : Reg) (b : Reg) (s : State) : Result := .next (runLanes (ttstLane g a b) s)

/-- TTINV (R322). -/
def execTtinv (g : Fin 128) (a : Reg) (s : State) : Result := .next (runLanes (ttinvLane g a) s)

/-! ## VBIND and VUNBIND -/

/-- The address of the level-0 entry of a virtual address: none where an entry above it is no valid non-leaf (R324). -/
def State.level0 (s : State) (va : Nat) : Nat → Nat → Option Nat
  | 0, table => some (table + 8 * vaIndex va 0)
  | l + 1, table =>
    let p := s.pteAt (table + 8 * vaIndex va (l + 1))
    if !pteV p ∨ pteLeaf p then none else s.level0 va l (pteFrame p * 4096)

/-- The entries that are read on the way to the level-0 entry, it included (09 R203). -/
def State.level0Reads (s : State) (va : Nat) : Nat → Nat → List Nat
  | 0, table => [table + 8 * vaIndex va 0]
  | l + 1, table =>
    let a := table + 8 * vaIndex va (l + 1)
    let p := s.pteAt a
    if !pteV p ∨ pteLeaf p then [a] else a :: s.level0Reads va l (pteFrame p * 4096)

/-- The unsown rows read on the way to a level-0 entry are counted (09 R203). -/
def State.countLeaf (s : State) (ctx va : Nat) : State :=
  match tget s.ctxs ctx with
  | some c => if va < 2 ^ 52 then s.countWalk (s.level0Reads va 3 c.root) else s
  | none => s

/-- The level-0 entry's address in a context; none where it would stand outside this device's memory (log 8). -/
def State.leafEntry (s : State) (ctx va : Nat) : Option Nat :=
  match tget s.ctxs ctx with
  | some c => if 2 ^ 52 ≤ va then none else (s.level0 va 3 c.root).filter fun a => decide (devOf a = s.device) && decide (localOf a < 2 ^ 39)
  | none => none

/-- Bytes of a bound range: the product of the view extents times the granule, up to 4 KiB (R324). The granule is that of bits
[58:55] of the base entry as it stands (log 25). -/
def boundLength (v b : Nat) : Nat := ((viewExtents v).foldl (fun x y => x * y) 1 * granule (entFmt b) + 4095) / 4096 * 4096

/-- The leaf of page n of a view's bound range (R324). -/
def viewLeaf (id n : Nat) : Nat := 0b100001011 + n * 2 ^ 12 + id * 2 ^ 40

/-- Invalidate a range of a context in every core's translation buffer and view read buffer (R324, R325). -/
def State.dropRange (s : State) (ctx va n : Nat) : State :=
  { s with cores := s.cores.map fun (c, k) =>
      (c, { k with vbuf := [], vbufAt := s.freeCtr, tb := k.tb.filter fun e => !(e.ctx == ctx && decide (e.vbase < va + n) && decide (va < e.vbase + e.size)) }) }

/-- VBIND's requirements on a range of n pages, the failures in the order of 21 Table 21.8 (21 R386): the fault's code and address. -/
def State.bindFault (s : State) (ctx va n : Nat) : Option (Nat × Nat) :=
  let page := fun v => va + 4096 * v
  match (List.range n).find? fun v => (s.leafEntry ctx (page v)).isNone with
  | some v => some (fcNotPresent, page v)
  | none =>
    let ok := match tget s.ctxs ctx with
      | some c => va % 4096 == 0 && decide (c.shbase.toNat ≤ va) && decide (va + 4096 * n ≤ c.shbase.toNat + c.shgib * 2 ^ 30) && decide (n ≤ 2 ^ 28)
      | none => false
    if !ok then some (fcShadowRange, va)
    else match (List.range n).find? fun v => match s.leafEntry ctx (page v) with | some a => pteV (s.pteAt a) | none => false with
      | some v => some (fcShadowBusy, page v)
      | none => none

/-- Write the leaves of a bound range. -/
def State.bindPages (s : State) (ctx id va : Nat) : List Nat → State
  | [] => s
  | v :: t =>
    match s.leafEntry ctx (va + 4096 * v) with
    | some a => (s.writePte a (viewLeaf id v)).bindPages ctx id va t
    | none => s.bindPages ctx id va t

/-- VBIND in one thread (R324). -/
def vbindLane (g : Fin 128) (a b : Reg) : LaneFn := ttLane (gY g) [(a, 1), (b, 2)] a fun id s r p t =>
  let va := (t.rd64 (s.env r p) b).toNat
  match s.ttRead (s.coreOf r) p.ctx id with
  | (s, .error c) => s.ttPark p.ctx id c
  | (s, .ok v) =>
    if entKind v ≠ 2 then s.ttPark p.ctx id fcBadEntry
    else match s.ttRead (s.coreOf r) p.ctx (viewBaseId v) with
      | (s, .error c) => s.ttPark p.ctx (viewBaseId v) c
      | (s, .ok base) =>
        let n := boundLength v base / 4096
        let s := (List.range n).foldl (fun s v => s.countLeaf p.ctx (va + 4096 * v)) s
        match s.bindFault p.ctx va n with
        | some (c, x) => (s, .park c accTensor (BitVec.ofNat 64 x))
        | none => ((s.bindPages p.ctx id va (List.range n)).dropRange p.ctx va (4096 * n), .next)

/-- The level-0 entry of a page and its value; none where there is none. -/
def State.leafAt (s : State) (ctx va : Nat) : Option (Nat × Nat) := (s.leafEntry ctx va).map fun a => (a, s.pteAt a)

/-- Remove leaves from a page on while they are valid VIEW entries of one tensor with rising VPAGE (R325); the page at which they end. -/
def State.unbindPages (s : State) (ctx id va : Nat) : Nat → Nat → State × Nat
  | 0, v => (s, v)
  | fuel + 1, v =>
    let s1 := s.countLeaf ctx (va + 4096 * v)
    match s1.leafAt ctx (va + 4096 * v) with
    | some (a, p) =>
      if pteV p ∧ pteView p ∧ bits (pteFrame p) 39 28 = id ∧ bits (pteFrame p) 27 0 = v then
        (s1.writePte a 0).unbindPages ctx id va fuel (v + 1)
      else (s1, v)
    | none => (s1, v)

/-- VUNBIND in one thread (R325). -/
def vunbindLane (g : Fin 128) (b : Reg) : LaneFn := fun s r p t =>
  if !gY g t then (s, .next)
  else if !t.inRanges [(b, 2)] then (s, .trap trapRange 0 0)
  else
    let va := (t.rd64 (s.env r p) b).toNat
    match s.leafAt p.ctx va with
    | some (_, e) =>
      if pteV e ∧ pteView e ∧ bits (pteFrame e) 27 0 = 0 then
        let (s1, n) := s.unbindPages p.ctx (bits (pteFrame e) 39 28) va (2 ^ 28) 0
        (s1.dropRange p.ctx (va / 4096 * 4096) (4096 * n), .next)
      else (s.countLeaf p.ctx va, .park fcShadowRange accTensor (BitVec.ofNat 64 va))
    | none => (s.countLeaf p.ctx va, .park fcShadowRange accTensor (BitVec.ofNat 64 va))

/-- VBIND (R324). -/
def execVbind (g : Fin 128) (a : Reg) (b : Reg) (s : State) : Result := .next (runLanes (vbindLane g a b) s)

/-- VUNBIND (R325). -/
def execVunbind (g : Fin 128) (b : Reg) (s : State) : Result := .next (runLanes (vunbindLane g b) s)

end Sys2Proof.Machine
end

