-- ==== Sys2Proof/Machine/Copy.lean ====
section
/-! DEFINITION. The copy engine (15 R306 to R319, R441): CPOST and QPOST, the checks and the move of every kind of copy,
arrivals at barriers by handle (13 R276, 09 R217, 15 R311, R312), completion records (R314), and the pause of a command
that meets a fault (R313, R440). -/

namespace Sys2Proof.Machine

/-! ## Fields of a command (15 Table 15.4) -/

/-- The 512 bits of a command or packet slot. -/
def CopyCmd.raw (c : CopyCmd) : Nat := leNat c.bytes

def ccKind (v : Nat) : Nat := bits v 7 0
def ccRm (v : Nat) : Nat := bits v 9 8
def ccSsp (v : Nat) : Bool := bit v 12
def ccDsp (v : Nat) : Bool := bit v 13
def ccScope (v : Nat) : Nat := bits v 15 14
def ccBk (v : Nat) : Nat := bits v 17 16
def ccSrot (v : Nat) : Nat := bits v 20 18
def ccDrot (v : Nat) : Nat := bits v 23 21
def ccSfmt (v : Nat) : Nat := bits v 27 24
def ccDfmt (v : Nat) : Nat := bits v 31 28
def ccDev (v : Nat) : Nat := bits v 47 38
def ccSrc (v : Nat) : Nat := bits v 127 64
def ccDst (v : Nat) : Nat := bits v 191 128
def ccRowBytes (v : Nat) : Nat := bits v 223 192
def ccRows (v : Nat) : Nat := bits v 255 224
def ccSpitch (v : Nat) : Nat := bits v 287 256
def ccDpitch (v : Nat) : Nat := bits v 319 288
def ccBar (v : Nat) : Nat := bits v 383 320
def ccAux (v : Nat) : Nat := bits v 447 384
def ccStatus (v : Nat) : Nat := bits v 511 448

/-- Status codes (15 Table 15.7). -/
def csMismatch : Nat := 0x01
def csNonFinite : Nat := 0x02
def csOverflow : Nat := 0x03
def csRefused : Nat := 0x04
def csBadKind : Nat := 0x10
def csReserved : Nat := 0x11
def csShape : Nat := 0x12
def csMembership : Nat := 0x13
def csGeometry : Nat := 0x14
def csSpad : Nat := 0x15
def csFormat : Nat := 0x16
def csStaging : Nat := 0x17
def csPeer : Nat := 0x18
def csAborted : Nat := 0x20

/-- The lowest of two codes where 0 means none (15 R314). -/
def lowerCode (a b : Nat) : Nat := if a = 0 then b else if b = 0 then a else min a b

/-! ## Checks (15 R307 to R310, R315) -/

/-- A failed check: its code and the lowest bit of a field at fault. -/
abbrev Failed := Nat × Nat

/-- A check as a list. -/
def failIf (b : Bool) (code : Nat) (fieldLow : List Nat) : List Failed := if b then fieldLow.map fun x => (code, x) else []

/-- The record of the failed checks (15 R315): the lowest code, and the byte offset of the field at fault whose lowest
bit stands lowest. -/
def firstFailed (l : List Failed) : Option (Nat × Nat) :=
  match l with
  | [] => none
  | x :: t =>
    let c := t.foldl (fun m y => min m y.1) x.1
    let b := (l.filter fun y => y.1 == c).foldl (fun m y => min m y.2) 1024
    some (c, b / 8)

/-- Length of a destination row (15 R307). -/
def ccDstRow (v : Nat) : Nat :=
  if ccKind v = 2 ∧ ccSfmt v ≠ ccDfmt v then ccRowBytes v / convSize (ccSfmt v) * convSize (ccDfmt v) else ccRowBytes v

/-- Checks of one operand's bank rotation and pitch (09 R201, 15 Table 15.7). -/
def sideChecks (spad : Bool) (rot pitch rotLow pitchLow : Nat) : List Failed :=
  failIf (decide (4 < rot)) csGeometry [rotLow] ++ failIf (!spad && rot != 0) csGeometry [rotLow] ++
  failIf (spad && decide (rot ≤ 4) && pitch % (16 * 2 ^ rot) != 0) csGeometry [rotLow, pitchLow]

/-- Checks of a quantising copy's entry (15 R308): e is none where the ID lies beyond the table. -/
def quantChecks (v : Nat) (e : Option Nat) : List Failed :=
  failIf (decide (2 < ccSfmt v)) csFormat [24] ++
  match e with
  | none => failIf true csFormat [384]
  | some e =>
    let ok := entKind e == 1 && fmtScaled (entFmt e) && entRank e == 2 && entStride e 0 == 1 && entStride e 1 == (entDim e 0 : Int)
    let row0 := ccAux v / 2 ^ 32
    failIf (!ok) csFormat [384] ++
    failIf (ok && decide (ccSfmt v ≤ 2) && ccRowBytes v != entDim e 0 * convSize (ccSfmt v)) csFormat [24, 192, 384] ++
    failIf (ok && decide (entDim e 1 < row0 + ccRows v)) csFormat [224, 384, 416] ++
    failIf (ok && entFmt e == 11 && row0 % 64 != 0) csFormat [384, 416] ++
    failIf (ok && entFmt e == 11 && ccRows v % 64 != 0 && row0 + ccRows v != entDim e 1) csFormat [224, 384, 416]

/-- Every check of a copy command behind the codes 0x10 to 0x17 (15 R306 to R310, R315). queue: it came from a work queue. BK = 11, and DEV not 0 on a copy that is
no peer copy, give the code of a reserved field (DESIGN CHOICE, log 56). A check of some bits of AUX names the
first byte of that field, 48 (DEDUCED, log 30). -/
def copyChecks (v : Nat) (queue : Bool) (e : Option Nat) : List Failed :=
  let k := ccKind v
  if k < 2 ∨ 5 < k then [(csBadKind, 0)]
  else
    let q := k == 3
    let conv := k == 2 && ccSfmt v != ccDfmt v
    let convOk := decide (ccSfmt v ≤ 4) && decide (ccDfmt v ≤ 4)
    failIf (bits v 11 10 != 0) csReserved [10] ++ failIf (bits v 37 32 != 0) csReserved [32] ++
    failIf (ccBk v == 3) csReserved [16] ++ failIf (k != 5 && ccDev v != 0) csReserved [38] ++
    failIf (q && ccDsp v) csReserved [13] ++ failIf (q && ccDrot v != 0) csReserved [21] ++ failIf (q && ccDfmt v != 0) csReserved [28] ++
    failIf (q && ccDst v != 0) csReserved [128] ++ failIf (q && ccDpitch v != 0) csReserved [288] ++
    failIf (q && bits (ccAux v) 31 12 != 0) csReserved [384] ++
    failIf (k == 4 && bit (ccAux v) 63) csReserved [384] ++
    failIf (ccRowBytes v == 0 || decide (2 ^ 30 < ccRowBytes v)) csGeometry [192] ++
    failIf (ccRows v == 0 || decide (2 ^ 20 < ccRows v)) csGeometry [224] ++
    sideChecks (ccSsp v) (ccSrot v) (ccSpitch v) 18 256 ++
    (if q then [] else sideChecks (ccDsp v) (ccDrot v) (ccDpitch v) 21 288) ++
    failIf (!q && (!conv || convOk) && decide (1 < ccRows v) && decide (ccDpitch v < ccDstRow v)) csGeometry
      (if conv then [24, 28, 192, 288] else [192, 288]) ++
    failIf (k == 4 && ccDst v % 8 != 0) csGeometry [128] ++ failIf (ccStatus v % 8 != 0) csGeometry [448] ++
    failIf (queue && ccSsp v) csSpad [12] ++ failIf (queue && ccDsp v) csSpad [13] ++ failIf (queue && ccBk v == 1) csSpad [16] ++
    failIf ((k == 4 || k == 5) && ccDsp v) csSpad [13] ++
    failIf (!q && decide (13 < ccSfmt v)) csFormat [24] ++ failIf (!q && decide (13 < ccDfmt v)) csFormat [28] ++
    failIf (conv && !convOk) csFormat [24, 28] ++
    failIf (conv && convOk && ccRowBytes v % convSize (ccSfmt v) != 0) csFormat [24, 192] ++
    failIf ((k == 4 || k == 5) && ccSfmt v != ccDfmt v) csFormat [24, 28] ++
    (if q then quantChecks v e else []) ++
    failIf ((k == 3 || k == 4) && decide (2 ^ 21 < ccRowBytes v * ccRows v)) csStaging [192, 224]

/-! ## Faults of copy work (15 R313, R440) -/

/-- The agent of a copy command. -/
def State.copyAgent (s : State) (c : CopyCmd) : Agent := match c.ref with | some r => s.agentOf r | none => s.deviceAgent

/-- The core whose translation buffer a command uses: the queue copy engine belongs to none. -/
def CopyCmd.tbCore (c : CopyCmd) : Nat := c.core.getD 128

/-- Change a copy command. -/
def State.modCopy (s : State) (id : Nat) (f : CopyCmd → CopyCmd) : State := { s with copies := tmod s.copies id f }

/-- A record about a command of a thread with a handle in MASK (21 Table 21.7). -/
def State.cmdRec (s : State) (r : Ref) (src acc code addr : Nat) (pc : DWord) (handle : Nat) : FaultRec :=
  { s.recOf r src acc code (BitVec.ofNat 64 addr) pc (BitVec.ofNat 64 handle) with ref := none }

/-- A record about queue work (15 R440): PC, TID, PLOT, TRACT and CORE 0. -/
def queueRec (acc code addr handle : Nat) : FaultRec :=
  { mask := BitVec.ofNat 64 handle, addr := BitVec.ofNat 64 addr, pc := 0, tid := 0, plot := 0, tract := 0, core := 0, acc := acc,
    src := 1, code := code, ref := none }

/-- Hand in a record and write what has room. -/
def State.report (s : State) (ctx : Nat) (f : FaultRec) : State := (s.addRec ctx f).deliverRecs ctx

/-- A violation is logged (23 R432). -/
def State.logFreeze (s : State) (addr : Nat) : State := { s with steward := { s.steward with log := s.steward.log ++ [(0x22, addr)] } }

/-- Freeze the plot of a thread whose command commits a violation (21 R394). -/
def State.freezeCmd (s : State) (r : Ref) (ctx acc : Nat) (pc : DWord) (addr : Nat) : State :=
  let s1 := s.logFreeze addr
  match tget s1.plots r.tag with
  | none => s1
  | some p =>
    let s2 := ((s1.stillTract p.tract).modTract p.tract fun x => { x with frozen := true }).modPlot r.tag fun q => { q with frozen := true }
    (s2.event evFreeze r.tag).report ctx (s.cmdRec r 6 acc fcFreeze addr pc 0)

/-- Freeze what a copy's violation freezes (21 R394): its plot, or its queue. -/
def State.freezeMaster (s : State) (c : CopyCmd) (acc addr : Nat) : State :=
  match c.ref, c.q with
  | some r, _ => s.freezeCmd r c.ctx acc c.pc addr
  | none, some q => ((s.logFreeze addr).modQueue q fun x => { x with frozen := true }).event evFreeze q
  | none, none => s.logFreeze addr

/-- A faulting access pauses the command and sends a record (15 R313, R440); a violation freezes its master. -/
def State.pauseCopy (s : State) (id : Nat) (acc code addr : Nat) : State :=
  match tget s.copies id with
  | none => s
  | some c =>
    if code = fcNoPort then s.modCopy id fun c => { c with stage := .held }
    else if code = fcFreeze then (s.freezeMaster c acc addr).modCopy id fun c => { c with paused := some 0 }
    else
      let (h, s1) := s.fresh
      let f := match c.ref with
        | some r => s1.cmdRec r 1 acc code addr c.pc h
        | none => queueRec acc code addr h
      (s1.modCopy id fun c => { c with paused := some h }).report c.ctx f

/-! ## Reading the source -/

/-- Address of byte 0 of row r of a global operand (15 R307). -/
def rowVa (base pitch r : Nat) : Nat := (base + r * pitch) % 2 ^ 64

/-- Read row r of the source; the fault with its address (15 R307). -/
def State.copyRow (s : State) (c : CopyCmd) (r : Nat) : State × Except (Nat × Nat) (List Byte) :=
  let v := c.raw
  let rb := ccRowBytes v
  if ccSsp v then
    let d := plainDesc (ccSrc v % 2 ^ 32) (ccSpitch v) (ccSrot v)
    let tag := match c.ref with | some x => x.tag | none => 0
    match s.spadAreas tag (d.row rb r) with
    | .error a => (s, .error (fcSpadRange, a))
    | .ok l => (s, .ok l)
  else s.engRead c.tbCore c.ctx accEngRead (rb / 128 + 2) (rowVa (ccSrc v) (ccSpitch v) r) rb

/-- Read rows of the source from one on. -/
def State.copyRows (s : State) (c : CopyCmd) : List Nat → State × Except (Nat × Nat) (List (List Byte))
  | [] => (s, .ok [])
  | r :: t =>
    match s.copyRow c r with
    | (s, .error f) => (s, .error f)
    | (s, .ok x) =>
      match s.copyRows c t with
      | (s, .error f) => (s, .error f)
      | (s, .ok l) => (s, .ok (x :: l))

/-! ## What is written -/

/-- The writes of row r to the destination (15 R307): a scratchpad row by its chunks. -/
def dstWrites (v r : Nat) (l : List Byte) : List CopyWrite :=
  if ccDsp v then
    let d := plainDesc (ccDst v % 2 ^ 32) (ccDpitch v) (ccDrot v)
    (List.range ((l.length + 15) / 16)).map fun c => let (a, n) := d.chunk l.length r c; ⟨true, a, (l.drop (16 * c)).take n, false⟩
  else [⟨false, rowVa (ccDst v) (ccDpitch v) r, l, false⟩]

/-- The writes of a plain or converting copy, and its flags (15 R307). -/
def plainWrites (v : Nat) (m : Mode) (rows : List (List Byte)) : List CopyWrite × Nat :=
  let conv := ccKind v == 2 && ccSfmt v != ccDfmt v
  let out := rows.map fun l => if conv then convertRow (ccSfmt v) (ccDfmt v) m l else (l, 0)
  ((out.zipIdx.map fun (x, r) => dstWrites v r x.1).flatten, out.foldl (fun g x => g ||| x.2) 0)

/-- The writes of a quantising copy into its tensor's element and scale areas (15 R308; 05 R102, R103), its flags, and whether
an input was not finite. -/
def quantWrites (v e : Nat) (rows : List (List Byte)) : List CopyWrite × Nat × Bool :=
  let f := entFmt e
  let n := entDim e 0
  let row0 := ccAux v / 2 ^ 32
  let per := if f = 11 then 8 else 32
  let q := quantise f (rows.map fun l => rowValues (ccSfmt v) n l [] 0 0)
  let els := q.rows.zipIdx.map fun (x, r) => CopyWrite.mk false ((entBase e + (row0 + r) * n * fmtBits f / 8) % 2 ^ 64) (packCodes (fmtBits f) x) false
  let scs := q.blocks.zipIdx.map fun (x, r) => CopyWrite.mk false ((entScale e + (row0 + r) * n / per) % 2 ^ 64) (x.map (BitVec.ofNat 8)) false
  let bands := entScale e + 64 * ((entDim e 1 * n / 8 + 63) / 64)
  let bs := q.bands.zipIdx.map fun (x, j) => CopyWrite.mk false ((bands + 2 * (row0 / 64 + j)) % 2 ^ 64) (natLe 2 x) false
  (els ++ scs ++ bs, q.flags, q.nonFinite)

/-- Bytes a command writes, whether or not it wrote them (15 R312). -/
def arriveBytes (v e : Nat) : Nat :=
  match ccKind v with
  | 3 =>
    let n := ccRows v * entDim e 0
    n * fmtBits (entFmt e) / 8 + (if entFmt e = 11 then n / 8 + 2 * ((ccRows v + 63) / 64) else n / 32)
  | 4 => ccRowBytes v * ccRows v + 8
  | _ => ccDstRow v * ccRows v

/-- The read of an atomic of an engine or of the front end on n bytes at a virtual address, which no view allows (09 R216). -/
def State.atomicRead (s : State) (core ctx va n : Nat) : State × Except Nat (List Byte) :=
  match s.xlate core ctx va accAtomic with
  | (s, .error c) => (s, .error c)
  | (s, .ok e) =>
    if e.view then
      match s.viewEnts core ctx e.tid with
      | (s, .error c) => (s, .error c)
      | (s, .ok ve) =>
        let (s, r) := s.viewBytes core ctx ve accAtomic (e.shadow va) n
        (s, firstFault (fun _ _ => []) (viewBars ve true false) r)
    else s.pread core ctx va n accAtomic

/-- An atomic of an engine that writes nothing takes the reservations on its sector all the same (09 R198). -/
def State.takeSector (s : State) (core ctx va n : Nat) : State :=
  match (s.xlate core ctx va accAtomic).2 with
  | .ok e => if s.away e (e.pa va) then s else s.dropReservations none (placeKey (s.placeOf e (e.pa va))) n
  | .error _ => s

/-- Compare and swap of a 64-bit word at a virtual address by an engine: whether it was as expected (15 R309). -/
def State.casWord (s : State) (core ctx : Nat) (va expect new : Nat) : State × Except Nat Bool :=
  match s.atomicRead core ctx va 8 with
  | (s, .error c) => (s, .error c)
  | (s, .ok l) =>
    if leNat l ≠ expect then (s.takeSector core ctx va 8, .ok false)
    else match s.anyWrite core ctx none va (natLe 8 new) accAtomic none with
      | (s, .error c) => (s, .error c)
      | (s, .ok _) => (s, .ok true)

/-! ## The move -/

/-- The fault that another device answers a peer copy's write with: a free choice of none and the codes of a translation or access fault there
(15 R310, R313; log 18). An address that is not canonical faults in any case. -/
def peerFault (k va : Nat) : Option Nat :=
  if 2 ^ 52 ≤ va then some fcNonCanonical
  else match Config.freeNat k % 5 with
    | 1 => some fcNotPresent
    | 2 => some fcBadPte
    | 3 => some fcPermission
    | 4 => some fcBadFrame
    | _ => none

/-- Bytes to another device's address, in writes within one line and of whole words of 4 bytes (23 Table 23.1, log 62). -/
def State.sendPieces (s : State) (base : Nat) : Nat → Nat → List Byte → State
  | 0, _, _ => s
  | fuel + 1, a, l =>
    if l.isEmpty then s
    else
      let k := chunk a l.length
      let lo := a / 4 * 4
      let x := writtenAt lo ((a + k + 3) / 4 * 4 - lo) ((l.take k).zipIdx.map fun y => (a + y.2, y.1))
      ({ s with hostWrites := s.hostWrites ++ [(base + lo, x)] } : State).sendPieces base fuel (a + k) (l.drop k)

/-- A peer copy's write to another device, in class A (15 R310): held for want of a port, cut off, or answered there. -/
def State.peerWrite (s : State) (c : CopyCmd) (w : CopyWrite) : State × Except (Nat × Nat) Unit :=
  let d := ccDev c.raw
  if s.cut d then (s, .error (fcFarContext, w.addr))
  else if d ≠ s.locked.hostDev ∧ (s.eligiblePorts d).isEmpty then (s, .error (fcNoPort, w.addr))
  else
    let (k, s1) := (s.usePort d .a).draw
    match peerFault k w.addr with
    | some f => (s1, .error (f, w.addr))
    | none => (s1.sendPieces (d * 2 ^ 64) (w.bytes.length / 128 + 2) w.addr w.bytes, .ok ())

/-- Who a command writes as. -/
def CopyCmd.writer (c : CopyCmd) (id : Nat) : Writer := .command id c.ref c.pc

/-- One write of a command. -/
def State.copyWrite (s : State) (id : Nat) (c : CopyCmd) (w : CopyWrite) : State × Except (Nat × Nat) Unit :=
  let src : Option SyncSrc := if w.rel then some { agent := s.copyAgent c, scope := scopeOf (ccScope c.raw) } else none
  if w.spad then
    let tag := match c.ref with | some x => x.tag | none => 0
    match s.areaAt tag w.addr w.bytes.length with
    | .error e => (s, .error (e, w.addr))
    | .ok (t, off) => (s.spadWrite (c.writer id) t off w.bytes src, .ok ())
  else if ccKind c.raw = 5 ∧ ccDev c.raw ≠ s.device then s.peerWrite c w
  else s.engWrite c.tbCore c.ctx none accEngWrite src (w.bytes.length / 128 + 2) w.addr w.bytes

/-- Make the writes in order; at a fault those still to come, the first cut to what it has not written. -/
def State.copyWrites (s : State) (id : Nat) (c : CopyCmd) : List CopyWrite → State × List CopyWrite × Option (Nat × Nat)
  | [] => (s, [], none)
  | w :: t =>
    match s.copyWrite id c w with
    | (s, .ok _) => s.copyWrites id c t
    | (s, .error (code, a)) =>
      let n := if w.spad then 0 else (a + 2 ^ 64 - w.addr) % 2 ^ 64
      (s, { w with addr := (w.addr + n) % 2 ^ 64, bytes := w.bytes.drop n } :: t, some (code, a))

/-- A barrier handle (15 Table 15.5). -/
def mkHandle (dev tag off : Nat) : DWord := BitVec.ofNat 64 (dev % 1024 * 2 ^ 54 + tag % 2 ^ 20 * 2 ^ 32 + off % 2 ^ 23)

/-- Send the command's arrival (15 R312): a barrier of its own allocation by tag and offset, or the handle. -/
def State.copyArrive (s : State) (id : Nat) (c : CopyCmd) : State × Option (Nat × Nat) :=
  let v := c.raw
  let n := arriveBytes v (leNat c.entry)
  let send := fun (s : State) (h : DWord) =>
    let (a, s1) := s.fresh
    let x : Arrival := { handle := h, n := n, cmd := some id, src := some { agent := s.copyAgent c, scope := .sys }, held := false, peer := none }
    ({ s1 with arrivals := tput s1.arrivals a x }.modCopy id fun c => { c with stage := .moved, arrive := some a }, none)
  match ccBk v with
  | 0 => (s.modCopy id fun c => { c with stage := .moved }, none)
  | 1 =>
    let addr := ccBar v % 2 ^ 32 / 16 * 16
    let tag := match c.ref with | some x => x.tag | none => 0
    match s.spadAt tag addr 16 with
    | .error e => (s, some (e, addr))
    | .ok (t, off) => send s (mkHandle s.device t off)
  | _ => send s (BitVec.ofNat 64 (ccBar v))

/-- Make the writes that are left, then the arrival (15 R312, R313). -/
def State.copyGoOn (s : State) (id : Nat) (l : List CopyWrite) : State :=
  match tget s.copies id with
  | none => s
  | some c =>
    match s.copyWrites id c l with
    | (s, rest, some (code, a)) => (s.modCopy id fun c => { c with todo := some rest }).pauseCopy id accEngWrite code a
    | (s, _, none) =>
      let s1 := s.modCopy id fun c => { c with todo := some [] }
      match tget s1.copies id with
      | none => s1
      | some c =>
        match s1.copyArrive id c with
        | (s2, some (code, a)) => s2.pauseCopy id accRing code a
        | (s2, none) => s2

/-- End a command that was rejected (15 R315): nothing is read, written or signalled. -/
def State.rejectCopy (s : State) (id code detail : Nat) : State :=
  s.modCopy id fun c => { c with stage := .moved, todo := some [], code := code, detail := detail }

/-- A peer copy's device does not hold the context or cannot be reached (15 R310); for another device what it holds is a free choice (log 18). -/
def State.peerRefused (s : State) (c : CopyCmd) : State × Bool :=
  let d := ccDev c.raw
  if d = s.device then (s, false)
  else if s.cut d then (s, true)
  else let (k, s1) := s.draw; (s1, Config.freeNat k % 2 == 1)

/-- Read the source whole (15 R309, R313: each byte the value of one write between issue and completion). -/
def State.copyStage (s : State) (id : Nat) (c : CopyCmd) : State :=
  let v := c.raw
  match s.copyRows c (List.range (ccRows v)) with
  | (s, .error (code, a)) => s.pauseCopy id accEngRead code a
  | (s, .ok rows) =>
    match ccKind v with
    | 3 =>
      let (ws, fl, nf) := quantWrites v (leNat c.entry) rows
      (s.modCopy id fun c => { c with todo := some ws, flags := fl, code := if nf then csNonFinite else 0 }).copyGoOn id ws
    | 4 =>
      let ver := (ccDst v + 2 ^ 64 - 8) % 2 ^ 64
      match s.casWord c.tbCore c.ctx ver (ccAux v) (ccAux v + 2 ^ 63) with
      | (s, .error code) => s.pauseCopy id accAtomic code ver
      | (s, .ok false) => (s.modCopy id fun c => { c with todo := some [], code := csMismatch }).copyGoOn id []
      | (s, .ok true) =>
        let ws := (plainWrites v 0 rows).1 ++ [⟨false, ver, natLe 8 (ccAux v + 1), true⟩]
        (s.modCopy id fun c => { c with todo := some ws }).copyGoOn id ws
    | _ =>
      let (ws, fl) := plainWrites v c.rmode rows
      (s.modCopy id fun c => { c with todo := some ws, flags := fl }).copyGoOn id ws

/-- The entry a quantising copy names, read at issue; empty for other kinds and for an ID beyond the table (15 R320). -/
def State.copyEntry (s : State) (core ctx : Nat) (v : Nat) : State × Except Nat (List Byte) :=
  if ccKind v ≠ 3 then (s, .ok [])
  else match s.ttEntry core ctx (ccAux v % 4096) accTensor with
    | (s, .error c) => (s, .error c)
    | (s, .ok none) => (s, .ok [])
    | (s, .ok (some e)) => (s, .ok (natLe 64 e))

/-- Start a command: its checks first (15 R315), then the move. -/
def State.copyBegin (s : State) (id : Nat) (c : CopyCmd) : State :=
  let v := c.raw
  match firstFailed (copyChecks v c.ref.isNone (if c.entry.isEmpty then none else some (leNat c.entry))) with
  | some (code, detail) => s.rejectCopy id code detail
  | none =>
    if ccKind v = 5 then
      let (s1, bad) := s.peerRefused c
      if bad then s1.rejectCopy id csPeer 4 else s1.copyStage id c
    else s.copyStage id c

/-- Run a command: a paused one goes on; a queue's copy first reads the entry it names (15 R320, R440). -/
def State.copyRun (s : State) (id : Nat) : State :=
  match tget s.copies id with
  | none => s
  | some c =>
    match c.todo with
    | some l => s.copyGoOn id l
    | none =>
      if c.needEntry then
        match s.copyEntry c.tbCore c.ctx c.raw with
        | (s, .error code) => s.pauseCopy id accTensor code (s.ttAddr c.ctx (ccAux c.raw % 4096))
        | (s, .ok e) =>
          let c' := { c with entry := e, needEntry := false }
          (s.modCopy id fun _ => c').copyBegin id c'
      else s.copyBegin id c

/-- The plot a command works for is placed; a queue's copy belongs to no plot. -/
def State.copyResident (s : State) (c : CopyCmd) : Bool :=
  match c.ref with
  | none => true
  | some r => match tget s.plots r.tag with
    | some p => match tget s.tracts p.tract with | some t => t.resident | none => false
    | none => false

/-- A command can start or go on: queued, not paused, its plot placed, and no earlier command of its core or queue still to
start (15 R317, R441). -/
def State.copyReady (s : State) (id : Nat) (c : CopyCmd) : Bool :=
  c.stage == .queued && c.paused.isNone && s.copyResident c &&
  (c.todo.isSome || s.copies.all fun (k, d) =>
    !(decide (k < id) && d.core == c.core && d.q == c.q && d.stage == .queued && d.todo.isNone && d.paused.isNone && s.copyResident d))

/-- Run a command of some kinds. -/
def State.copyEvent (s : State) (id : Nat) (kinds : Nat → Bool) : State :=
  match tget s.copies id with
  | none => s
  | some c => if kinds (ccKind c.raw) && s.copyReady id c then s.copyRun id else s

/-! ## Arrivals (13 R276, R261; 15 R311, R312) -/

/-- Fields of a handle. -/
def handleDev (v : Nat) : Nat := bits v 63 54
def handleTag (v : Nat) : Nat := bits v 51 32
def handleOff (v : Nat) : Nat := bits v 22 0 / 16 * 16

/-- The arrival is over: its command goes on with what became of it (15 R314). -/
def State.arrivalDone (s : State) (a : Nat) (x : Arrival) (code : Nat) : State :=
  let s1 := { s with arrivals := tdel s.arrivals a }
  let s2 := match x.peer with
    | some (d, tag) => s1.answerPeer d tag (if code = 0 then .done else if code = csOverflow then .overflow else .refused)
    | none => s1
  match x.cmd with
  | some id => s2.modCopy id fun c => { c with arrive := none, code := lowerCode c.code code }
  | none => s2

/-- Who an arrival writes as: the command that made it, or a peer. -/
def State.arrivalWriter (s : State) (x : Arrival) : Writer :=
  match x.cmd with
  | some id => match tget s.copies id with
    | some c => c.writer id
    | none => .command id none 0
  | none => .peer

/-- The core of an arrival, 128 for an agent of none (11 R244). -/
def State.arrivalCore (s : State) (x : Arrival) : Nat :=
  match x.cmd with
  | some id => match tget s.copies id with
    | some c => c.core.getD 128
    | none => 128
  | none => 128

/-- Apply an arrival at the barrier of a handle: none where the handle is refused (15 R311). -/
def State.arriveAtHandle (s : State) (who : Writer) (h : DWord) (n : Nat) (src : Option SyncSrc) : State × Option Bool :=
  let v := h.toNat
  match tget s.plots (handleTag v) with
  | none => (s, none)
  | some p =>
    if p.retired ∨ p.spadLen < handleOff v + 16 then (s, none)
    else
      let sc := scopeOf (s.barAt (handleTag v) (handleOff v)).scope
      let (s1, ok) := s.arrive who (handleTag v) (handleOff v) n (src.map fun x => { x with scope := sc })
      (s1, some ok)

/-- The plot of a handle is placed, or does not exist. -/
def State.handleHere (s : State) (h : DWord) : Bool :=
  match tget s.plots (handleTag h.toNat) with
  | none => true
  | some p => match tget s.tracts p.tract with | some t => t.resident | none => true

/-- Deliver an arrival (13 R276): at another device with a free outcome (log 18); held while the plot is swapped out, its command going
on (13 R261); else applied or refused. -/
def State.deliverArrival (s : State) (a : Nat) : State :=
  match tget s.arrivals a with
  | none => s
  | some x =>
    if handleDev x.handle.toNat ≠ s.device then
      let (k, s1) := s.draw
      let code := if s.cut (handleDev x.handle.toNat) then csRefused else match Config.freeNat k % 3 with | 0 => 0 | 1 => csOverflow | _ => csRefused
      s1.arrivalDone a x code
    else if !s.handleHere x.handle then
      let s1 := s.arrivalDone a x 0
      { s1 with arrivals := tput s1.arrivals a { x with held := true, cmd := none, peer := none } }
    else
      let h := x.handle.toNat
      let s := if (tget s.plots (handleTag h)).isSome then s.barNote (handleTag h) (handleOff h) (barPlace s.cycle 0 (s.arrivalCore x) 0) else s
      match s.arriveAtHandle (s.arrivalWriter x) x.handle x.n x.src with
      | (s1, none) => s1.arrivalDone a x csRefused
      | (s1, some true) => s1.arrivalDone a x 0
      | (s1, some false) => s1.arrivalDone a x csOverflow

/-- An arrival that BARRIER_ARRIVE can deliver: one for this device that is not held, or held for a plot that is placed again, at its place in the order of the
cycle (11 R244); one for another device
once a port leads there, behind its data (09 R217, 23 R410), or it is cut off. -/
def State.arrivalReady (s : State) (x : Arrival) : Bool :=
  let d := handleDev x.handle.toNat
  if d = s.device then
    (!x.held || s.handleHere x.handle) && s.barFree (handleTag x.handle.toNat) (handleOff x.handle.toNat) (s.arrivalCore x)
  else s.cut d || d == s.locked.hostDev || !(s.eligiblePorts d).isEmpty

/-! ## Completion (15 R314) -/

/-- The eight bytes of a completion record (15 Table 15.6). -/
def completionRecord (code flags detail : Nat) : List Byte := natLe 8 (code % 2 ^ 16 + flags % 32 * 2 ^ 16 + detail % 2 ^ 32 * 2 ^ 32)

/-- A STATUS that receives a record. -/
def statusUsed (a : Nat) : Bool := a != 0 && a % 8 == 0

/-- A command waits for room in a front end: at issue (15 R317), or reissued after a swap-in (R319). -/
def CopyCmd.waitsRoom (c : CopyCmd) : Bool := c.stage == .waiting || c.stage == .recorded

/-- The front end of a core has room for one more command: it holds 256 (15 R317). -/
def State.frontRoom (s : State) (core : Nat) : Bool :=
  decide ((s.copies.filter fun (_, c) => c.core == some core && !c.waitsRoom).length < 256)

/-- The first command of a core that waits for room. -/
def State.frontWaits (s : State) (core : Nat) : Option Nat :=
  (s.copies.find? fun (_, c) => c.core == some core && c.waitsRoom).map Prod.fst

/-- Commands that wait enter a core's front end, in issue order, while it has room (15 R317). -/
def State.frontAdmit (core : Nat) : Nat → State → State
  | 0, s => s
  | n + 1, s =>
    match s.frontWaits core with
    | none => s
    | some id => if s.frontRoom core then State.frontAdmit core n (s.modCopy id fun c => { c with stage := .queued }) else s

/-- The commands of the core of a command that wait enter its front end. -/
def State.frontOf (s : State) (c : CopyCmd) : State := match c.core with | some k => State.frontAdmit k 256 s | none => s

/-- Take a completed command off: CP falls (15 R317), or its packet has completed. -/
def State.copyGone (s : State) (id : Nat) (c : CopyCmd) : State :=
  let s1 := ({ s with copies := tdel s.copies id } : State).frontOf c
  let s2 := match c.ref with | some r => s1.modThread r fun t => { t with cp := t.cp - 1 } | none => s1
  match c.q with
  | some q => s2.modQueue q fun x => { x with open' := x.open'.filter (fun y => y != id) }
  | none => s2

/-- Everything a command wrote and its arrival have been performed. -/
def CopyCmd.finished (c : CopyCmd) : Bool := c.stage == .moved && c.arrive.isNone && c.paused.isNone

/-- The access of the completion record's store: the front end's own for a queue packet (15 R440; log 47), the engine's for a command of a thread. -/
def CopyCmd.recAcc (c : CopyCmd) : Nat := if c.ref.isNone then accStore else accEngWrite

/-- Store the completion record of a command, where it has one (15 R314). -/
def State.storeRecord (s : State) (c : CopyCmd) : State × Except (Nat × Nat) Unit :=
  let a := ccStatus c.raw
  if c.norec ∨ !statusUsed a then (s, .ok ())
  else
    let src : SyncSrc := { agent := s.copyAgent c, scope := scopeOf (ccScope c.raw) }
    s.engWrite c.tbCore c.ctx none c.recAcc (some src) 2 a (completionRecord c.code c.flags c.detail)

/-- A command can complete: its record is not held for want of a port. -/
def State.recordReady (s : State) (c : CopyCmd) : Bool :=
  c.finished && match (s.storeRecord c).2 with | .error (code, _) => code != fcNoPort | .ok _ => true

/-- Write the completion record and take the command off; a fault on the record pauses it (15 R314, R440). -/
def State.copyComplete (s : State) (id : Nat) : State :=
  match tget s.copies id with
  | none => s
  | some c =>
    if !s.recordReady c then s
    else match s.storeRecord c with
      | (s1, .ok _) => s1.copyGone id c
      | (s1, .error (code, x)) => s1.pauseCopy id c.recAcc code x

/-- The steward resumes a paused command (15 R313, R440). -/
def State.copyResume (s : State) (id : Nat) : State := s.modCopy id fun c => { c with paused := none }

/-- The steward aborts a paused command (15 R313, R440): status aborted, without an arrival; one whose record cannot be stored completes without it. -/
def State.copyAbort (s : State) (id : Nat) : State :=
  s.modCopy id fun c =>
    if c.stage = .moved then { c with paused := none, norec := true }
    else { c with paused := none, stage := .moved, todo := some [], code := csAborted }

/-! ## CPOST (15 R316, R317) -/

/-- A copy command as it is accepted. -/
def newCopy (r : Option Ref) (core q : Option Nat) (ctx : Nat) (pc : DWord) (bytes : List Byte) (rmode : BitVec 2) (entry : List Byte) : CopyCmd :=
  { ref := r, core := core, q := q, ctx := ctx, pc := pc, bytes := bytes, rmode := rmode, entry := entry, needEntry := q.isSome, stage := .queued, todo := none,
    paused := none, code := 0, detail := 0, flags := 0, arrive := none, norec := false }

/-- Note a copy command. -/
def State.putCopy (s : State) (c : CopyCmd) : Nat × State := let (id, s1) := s.fresh; (id, { s1 with copies := tput s1.copies id c })

/-- A block of n bytes, aligned to n, at a scratchpad address. -/
def State.readBlock (s : State) (tag addr n : Nat) : Except Nat (List Byte) :=
  match s.spadAt tag addr n with
  | .error c => .error c
  | .ok (t, off) => .ok (s.spadRead t off n)

/-- A command block is read at issue (15 R317, 17 R344): alignment trap, range fault, then what is done with its bytes. -/
def blockLane (a : Reg) (n : Nat) (f : List Byte → LaneFn) : LaneFn := fun s r p t =>
  if !t.inRanges [(a, 1)] then (s, .trap trapRange 0 0)
  else
    let v := (t.rd32 (s.env r p) a).toNat
    if v % n ≠ 0 then (s, .trap trapAlign 0 (BitVec.ofNat 64 v))
    else match s.readBlock r.tag v n with
      | .error c => (s, .park c accLoad (BitVec.ofNat 64 v))
      | .ok l => f l s r p t

/-- CPOST in one thread (15 R317): the command is captured, and waits at issue where the front end is full. -/
def cpostLane (g : Fin 128) (a : Reg) : LaneFn := roleLane (fun x => x == .copy) fun s r p t =>
  if !gY g t then (s, .next)
  else blockLane a 64 (fun l s r p t =>
    let core := s.coreOf r
    match s.copyEntry core p.ctx (leNat l) with
    | (s, .error c) => s.ttPark p.ctx (ccAux (leNat l) % 4096) c
    | (s, .ok e) =>
      let c := { newCopy (some r) (some core) none p.ctx t.pc l t.rmode e with stage := .waiting }
      (State.frontAdmit core 256 ((s.putCopy c).2.modThread r fun t => { t with cp := t.cp + 1 }), .next)) s r p t

/-- CPOST (15 R317). -/
def execCpost (g : Fin 128) (a : Reg) (s : State) : Result := .next (runLanes (cpostLane g a) s)

/-! ## QPOST (15 R318, R300) -/

/-- Change a QPOST. -/
def State.modQpost (s : State) (id : Nat) (f : QPost → QPost) : State := { s with qposts := tmod s.qposts id f }

/-- A faulting access pauses a QPOST (log 27); a violation freezes its plot (23 R419, R432). -/
def State.pauseQpost (s : State) (id : Nat) (q : QPost) (acc code addr : Nat) : State :=
  if code = fcNoPort then s.modQpost id fun q => { q with held := true }
  else if code = fcFreeze then (s.freezeCmd q.ref q.ctx acc q.pc addr).modQpost id fun q => { q with paused := some 0 }
  else
    let (h, s1) := s.fresh
    (s1.modQpost id fun q => { q with paused := some h }).report q.ctx (s1.cmdRec q.ref 1 acc code addr q.pc h)

/-- Slots of a packet (15 R302). -/
def QPost.slots (q : QPost) : Nat := q.bytes.length / 64

/-- Claim slots: the atomic add to WIX (15 R300). -/
def State.qpostClaim (s : State) (id : Nat) : State :=
  match tget s.qposts id with
  | none => s
  | some q =>
    if q.slot.isSome ∨ q.paused.isSome ∨ q.held then s
    else match s.atomicRead q.core q.ctx q.va 8 with
      | (s, .error c) => s.pauseQpost id q accAtomic c q.va
      | (s, .ok l) =>
        match s.anyWrite q.core q.ctx none q.va (natLe 8 (leNat l + q.slots)) accAtomic none with
        | (s, .error c) => s.pauseQpost id q accAtomic c q.va
        | (s, .ok _) => s.modQpost id fun x => { x with slot := some (leNat l) }

/-- Room for a packet's slots (15 R300): header h, ring of 2^g slots, first slot n, k slots. -/
def ringRoom (h g n k : Nat) : Bool := decide (n + k ≤ 2 ^ g + bits h 127 64)

/-- Address of a slot. -/
def slotVa (h g n : Nat) : Nat := (bits h 191 128 + 64 * (n % 2 ^ g)) % 2 ^ 64

/-- LOG2SIZE of a queue as a producer takes it (15 R299): that of the registration, where the queue is registered on this device; else the header's. -/
def State.ringLog2 (s : State) (ctx va h : Nat) : Nat :=
  match s.queues.find? fun (_, x) => x.ctx == ctx && x.va == va with
  | some (_, x) => x.log2
  | none => bits h 195 192

/-- The queue's header as its producer reads it, and its LOG2SIZE. -/
def State.qpostHeader (s : State) (q : QPost) : State × Except Nat (Nat × Nat) :=
  match s.anyRead q.core q.ctx q.va 64 accEngRead with
  | (s, .error c) => (s, .error c)
  | (s, .ok l) => (s, .ok (leNat l, s.ringLog2 q.ctx q.va (leNat l)))

/-- The scope of the header store's release (15 R318). -/
def State.qpostScope (s : State) (q : QPost) : Scope :=
  match s.homePa q.core q.ctx q.va with
  | some pa => if devOf pa = s.device then .dev else .sys
  | none => .sys

/-- Bytes 0 to 7 of a claimed slot, with its SEQ (15 R300). -/
def qpostHead (b : List Byte) (n : Nat) : List Byte := b.take 6 ++ natLe 2 n

/-- Write the slots, then the header as a release; QPOST completes (15 R318). -/
def State.qpostPublish (s : State) (id : Nat) (q : QPost) (h g n : Nat) : State :=
  let a0 := slotVa h g n
  let src : SyncSrc := { agent := s.agentOf q.ref, scope := s.qpostScope q }
  match s.engWrite q.core q.ctx none accEngWrite none 3 (a0 + 8) ((q.bytes.take 64).drop 8) with
  | (s, .error (c, a)) => s.pauseQpost id q accEngWrite c a
  | (s, .ok _) =>
    match s.engWrite q.core q.ctx none accEngWrite none 3 (slotVa h g (n + 1)) (q.bytes.drop 64) with
    | (s, .error (c, a)) => s.pauseQpost id q accEngWrite c a
    | (s, .ok _) =>
      match s.engWrite q.core q.ctx none accEngWrite (some src) 3 a0 (qpostHead q.bytes n) with
      | (s, .error (c, a)) => s.pauseQpost id q accEngWrite c a
      | (s, .ok _) => { s with qposts := tdel s.qposts id }.modThread q.ref fun t => { t with cp := t.cp - 1 }

/-- Go on with a QPOST: claim, then publish once there is room. -/
def State.qpostRun (s : State) (id : Nat) : State :=
  match tget s.qposts id with
  | none => s
  | some q =>
    if q.paused.isSome ∨ q.held then s
    else match q.slot with
      | none => s.qpostClaim id
      | some n =>
        match s.qpostHeader q with
        | (s, .error c) => s.pauseQpost id q accEngRead c q.va
        | (s, .ok (h, g)) => if ringRoom h g n q.slots then s.qpostPublish id q h g n else s

/-- QPOST in one thread (15 R318): slots from KIND, the bytes at issue, then the claim. -/
def qpostLane (g : Fin 128) (a b : Reg) : LaneFn := roleLane (fun x => x == .copy) fun s r p t =>
  if !gY g t then (s, .next)
  else if !t.inRanges [(a, 2), (b, 1)] then (s, .trap trapRange 0 0)
  else if (t.rd64 (s.env r p) a).toNat % 64 ≠ 0 then (s, .trap trapAlign 0 (t.rd64 (s.env r p) a))
  else blockLane b 64 (fun l s r p t =>
    let e := s.env r p
    let va := (t.rd64 e a).toNat
    let n := if ccKind (leNat l) = 1 then 128 else 64
    match s.readBlock r.tag (t.rd32 e b).toNat n with
      | .error c => (s, .park c accLoad ((t.rd32 e b).setWidth 64))
      | .ok bytes =>
        let (id, s1) := s.fresh
        let q : QPost := { ref := r, core := s.coreOf r, ctx := p.ctx, pc := t.pc, va := va, slot := none, bytes := bytes, paused := none, held := false }
        (({ s1 with qposts := tput s1.qposts id q }.modThread r fun t => { t with cp := t.cp + 1 }).qpostClaim id, .next)) s r p t

/-- QPOST (15 R318). -/
def execQpost (g : Fin 128) (a : Reg) (b : Reg) (s : State) : Result := .next (runLanes (qpostLane g a b) s)

/-! ## Steps of the copy engines -/

/-- COPY (15 R307): a plain or converting copy starts or goes on; a command of a kind that is none ends with bad kind. -/
def execCopy (id : Nat) (s : State) : Result := .next (s.copyEvent id fun k => k != 3 && k != 4 && k != 5)

/-- QUANTISING_COPY (15 R308). -/
def execQuantisingCopy (id : Nat) (s : State) : Result := .next (s.copyEvent id fun k => k == 3)

/-- CONDITIONAL_COPY (15 R309). -/
def execConditionalCopy (id : Nat) (s : State) : Result := .next (s.copyEvent id fun k => k == 4)

/-- PEER_COPY (15 R310). -/
def execPeerCopy (id : Nat) (s : State) : Result := .next (s.copyEvent id fun k => k == 5)

/-- COPY_COMPLETE (15 R314). -/
def execCopyComplete (id : Nat) (s : State) : Result := .next (s.copyComplete id)

/-- QPOST_RING_ROOM (15 R318). -/
def execQpostRingRoom (id : Nat) (s : State) : Result := .next (s.qpostRun id)

/-- BARRIER_ARRIVE (13 R276, 15 R312). -/
def execBarrierArrive (id : Nat) (s : State) : Result :=
  .next (match tget s.arrivals id with
    | some x => if s.arrivalReady x then s.deliverArrival id else s
    | none => s)

end Sys2Proof.Machine
end

