-- ==== Sys2Proof/Machine/Matrix.lean ====
section
/-! DEFINITION. The matrix engine (17 R329 to R356, 18 R356): MMA, MMAC, MWAITB, MDRAIN, MZERO and MSTAT, the checks of their blocks,
the order of commands at tiles and operand streams, and what they do in their turn. -/

namespace Sys2Proof.Machine

/-! ## Tiles -/

/-- Key of cell (i, j) of a tile, tiles numbered array × 2 + tile (R330). -/
def cellKey (tile i j : Nat) : Nat := tile * 16384 + i * 128 + j

/-- A cell of a tile; one not listed holds the zero state (R329). -/
def Plot.cell (p : Plot) (tile i j : Nat) : Quad := (tget p.tiles (cellKey tile i j)).getD axaZero

/-- Write a cell. -/
def Plot.putCell (p : Plot) (tile i j : Nat) (v : Quad) : Plot :=
  { p with tiles := if v = axaZero then tdel p.tiles (cellKey tile i j) else tput p.tiles (cellKey tile i j) v }

/-- Set every cell of a tile to the zero state (R351). -/
def Plot.zeroTile (p : Plot) (tile : Nat) : Plot := { p with tiles := p.tiles.filter fun (k, _) => k / 16384 != tile }

/-- OR flags into a tile's status word (R352). -/
def Plot.orTsw (p : Plot) (tile : Nat) (v : Word) : Plot := { p with tsw := p.tsw.set tile (p.tsw.getD tile 0 ||| v) }

/-- Record a status code: the first non-zero one since the last MSTAT (R352). -/
def Plot.codeTsw (p : Plot) (tile code : Nat) : Plot :=
  if code ≠ 0 ∧ bits (p.tsw.getD tile 0).toNat 23 16 = 0 then p.orTsw tile (BitVec.ofNat 32 (code * 2 ^ 16)) else p

/-! ## Status codes (R353) -/

def mcReserved : Nat := 1
def mcGeometry : Nat := 2
def mcFormat : Nat := 3
def mcRange : Nat := 4
def mcRegister : Nat := 5
def mcLayout : Nat := 6
def mcOverflow : Nat := 7

/-- The first check of an ordered list that fails. -/
def firstStatus : List (Bool × Nat) → Nat
  | [] => 0
  | (ok, code) :: t => if ok then firstStatus t else code

/-! ## Acceptance, order and completion (R332 to R334, R345, 18 R356, 19 R364) -/

/-- The score tile of an APIPE (19 Table 19.1): the other array's tile STILE. -/
def apScoreTile (b : Nat) : Nat := (if bit b 13 then 0 else 2) + (bit b 14).toNat

/-- Tiles a command names. -/
def EngCmd.tiles (c : EngCmd) : List Nat := match c.kind with | .apipe => [c.tile, apScoreTile (leNat c.block)] | _ => [c.tile]

/-- Arrays whose operand stream a command uses: drains and MZERO use none (18 R356). -/
def EngCmd.streams (c : EngCmd) : List Nat := match c.kind with | .mma => [c.arr] | .apipe => [0, 1] | _ => []

/-- Two lists share an element. -/
def meets (a b : List Nat) : Bool := a.any b.contains

/-- An earlier command holds a later one: they share a tile, unless the earlier one is a drain that has read every row, or a stream (R333). -/
def EngCmd.holds (now : Nat) (d c : EngCmd) : Bool :=
  (meets d.tiles c.tiles && !(d.kind == .mdrain && d.stage == .started && decide (d.due ≤ now))) || meets d.streams c.streams

/-- The first command of a queue that satisfies a test and that no earlier one holds. -/
def engNext (now : Nat) (ok : EngCmd → Bool) : List EngCmd → List EngCmd → Option EngCmd
  | _, [] => none
  | before, c :: t => if ok c && !(before.any fun d => d.holds now c) then some c else engNext now ok (before ++ [c]) t

/-- The plot that owns a core's arrays (R329). -/
def State.ownerOf (s : State) (core : Nat) : Option (Nat × Plot) :=
  s.plots.find? fun (_, p) =>
    p.core == core && decide (0 < p.matN) && (match tget s.tracts p.tract with | some t => t.resident | none => false)

/-- The next command of a core that satisfies a test. -/
def State.engPick (s : State) (core : Nat) (ok : EngCmd → Bool) : Option (Nat × EngCmd) :=
  match s.ownerOf core with
  | none => none
  | some (tag, p) => (engNext s.cycle ok [] p.engq).map fun c => (tag, c)

/-- Change a command. -/
def State.modEng (s : State) (tag id : Nat) (f : EngCmd → EngCmd) : State :=
  s.modPlot tag fun p => { p with engq := p.engq.map fun c => if c.id = id then f c else c }

/-! ## Acceptance (R332, R334, R345) -/

/-- A command has been accepted: one that waits at issue has not. -/
def EngCmd.accepted (c : EngCmd) : Bool := c.stage != .waiting

/-- Arrays at whose queues a command is accepted (R332, 19 R359). -/
def EngCmd.queues (c : EngCmd) : List Nat := match c.kind with | .apipe => [0, 1] | _ => [c.arr]

/-- Commands in the queue of an array: those accepted there and not complete. -/
def Plot.queuedAt (p : Plot) (arr : Nat) : Nat := (p.engq.filter fun c => c.accepted && c.queues.contains arr).length

/-- The queues of a command have room: 32 entries each (R332). -/
def Plot.hasRoom (p : Plot) (c : EngCmd) : Bool := c.queues.all fun a => decide (p.queuedAt a < 32)

/-- Who a command writes as (R343). -/
def EngCmd.writer (c : EngCmd) : Writer := .command c.id (some c.ref) c.pc

/-- The 16 bytes of the result record of an attention command (19 Table 19.3). -/
def apRecord (nempty stop flags code : Nat) : List Byte :=
  natLe 16 (code % 256 + flags % 32 * 2 ^ 8 + stop % 2 ^ 16 * 2 ^ 16 + nempty % 2 ^ 16 * 2 ^ 32)

/-- The address of the result record (19 Table 19.1). -/
def apRes (b : Nat) : Nat := bits b 447 416

/-- Write the result record, where RES can take one (19 R367). -/
def State.apWriteRecord (s : State) (c : EngCmd) (l : List Byte) : State :=
  let a := apRes (leNat c.block)
  if a % 16 ≠ 0 then s
  else match s.spadAt c.ref.tag a 16 with
    | .error _ => s
    | .ok (t, off) => s.spadWrite c.writer t off l none

/-- Take a completed command off (R334, R345): TL and its batch count fall, and a status code is recorded (R352). -/
def State.engRemove (s : State) (tag : Nat) (c : EngCmd) (status : Nat) : State :=
  (s.modPlot tag fun p =>
    { p.codeTsw c.tile status with
      engq := p.engq.filter fun d => d.id != c.id
      batch := match c.batch with | some t => tput p.batch t ((tget p.batch t).getD 0 - 1) | none => p.batch }).modThread c.ref fun t =>
    { t with tl := t.tl - 1 }

/-- The first command that waits at issue has been accepted. -/
def enterFirst : List EngCmd → List EngCmd
  | [] => []
  | c :: t => if c.accepted then c :: enterFirst t else { c with stage := .queued } :: t

/-- The first command of a plot that waits is accepted (R332, R334): TL rises, and one that its checks reject completes at once, an attention command
with its record. -/
def State.engEnter (s : State) (c : EngCmd) : State :=
  let c' := { c with stage := .queued }
  let s1 := (s.modPlot c.ref.tag fun p => { p with engq := enterFirst p.engq }).modThread c.ref fun t => { t with tl := t.tl + 1 }
  if c.status = 0 then s1
  else (if c.kind = .apipe then s1.apWriteRecord c' (apRecord 0 0 0 c.status) else s1).engRemove c.ref.tag c' c.status

/-- The commands of a plot that wait at issue are accepted, in issue order, while there is room (R332). -/
def State.engAdmit (tag : Nat) : Nat → State → State
  | 0, s => s
  | n + 1, s =>
    match tget s.plots tag with
    | none => s
    | some p => match p.engq.find? fun c => c.stage == .waiting with
      | none => s
      | some c => if p.hasRoom c then State.engAdmit tag n (s.engEnter c) else s

/-- Every command of a plot that can be accepted is. -/
def State.engAdmitAll (s : State) (tag : Nat) : State :=
  match tget s.plots tag with
  | some p => State.engAdmit tag p.engq.length s
  | none => s

/-- Complete a command; those that wait for room go on. -/
def State.engComplete (s : State) (tag : Nat) (c : EngCmd) (status : Nat) : State := (s.engRemove tag c status).engAdmitAll tag

/-- Issue a command (R332, R344): it has been captured, and waits at issue until its queue has room. -/
def State.engIssue (s : State) (c : EngCmd) : State :=
  let (id, s1) := s.fresh
  (s1.modPlot c.ref.tag fun p => { p with engq := p.engq ++ [{ c with id := id }] }).engAdmitAll c.ref.tag

/-- An arrival of an engine at a barrier in the issuing plot's named allocation, a release at the barrier's scope (11 R241): 0 or
barrier overflow. -/
def State.engArrive (s : State) (c : EngCmd) (bar n : Nat) : State × Nat :=
  match s.spadAt c.ref.tag (bar / 16 * 16) 16 with
  | .error _ => (s, mcOverflow)
  | .ok (t, off) =>
    let src : SyncSrc := { agent := s.agentOf c.ref, scope := scopeOf (s.barAt t off).scope }
    let (s1, ok) := (s.barNote t off (barPlace s.cycle 0 (s.coreOf c.ref) 0)).arrive c.writer t off n (some src)
    (s1, if ok then 0 else mcOverflow)

/-- An arrival of an engine command at a barrier can be made in this cycle: nothing that comes behind it in the cycle has been done there yet (11 R244, log 66). -/
def State.engBarFree (s : State) (c : EngCmd) (arm : Bool) (bar : Nat) : Bool :=
  match s.spadAt c.ref.tag (bar / 16 * 16) 16 with
  | .error _ => true
  | .ok (t, off) => !arm || s.barFree t off (s.coreOf c.ref)

/-- Number of threads of a plot. -/
def Plot.size (p : Plot) : Nat := p.threads.length

/-- Registers of each thread of a plot. -/
def Plot.ra (p : Plot) : Nat := match p.threads with | (_, t) :: _ => t.ra | [] => 0

/-- An engine command as it is captured at issue. -/
def newEng (r : Ref) (pc : DWord) (kind : EngKind) (rmode : BitVec 2) (block : List Byte) (arr tile status : Nat) : EngCmd :=
  { id := 0, ref := r, pc := pc, kind := kind, rmode := rmode, block := block, table := [], entries := [], rowsA := [], rowsB := [],
    arr := arr, tile := tile, batch := none, status := status, stage := .waiting, due := 0,
    sweep := 0, reads := [], part := [], keys := [], maxima := [], sums := [], flags := 0 }

/-- Read the entries that a command names (15 R320): empty for an ID beyond the table; the fault with the ID. -/
def State.engEntries (s : State) (core ctx : Nat) : List Nat → State × Except (Nat × Nat) (List (List Byte))
  | [] => (s, .ok [])
  | id :: t =>
    match s.ttEntry core ctx id accTensor with
    | (s, .error c) => (s, .error (c, id))
    | (s, .ok x) =>
      match s.engEntries core ctx t with
      | (s, .error f) => (s, .error f)
      | (s, .ok l) => (s, .ok ((match x with | some e => natLe 64 e | none => []) :: l))

/-! ## MMA (R335 to R344) -/

def mbOp (b : Nat) : Nat := bits b 7 0
def mbOvw (b : Nat) : Bool := bit b 8
def mbTile (b : Nat) : Nat := (bit b 10).toNat * 2 + (bit b 9).toNat
def mbArm (b : Nat) : Bool := bit b 11
def mbM (b : Nat) : Nat := bits b 23 16 + 1
def mbN (b : Nat) : Nat := bits b 31 24 + 1
def mbK (b : Nat) : Nat := bits b 51 32
def mbXa (b : Nat) : Int := sgn 12 (bits b 63 52)
def mbTidA (b : Nat) : Nat := bits b 75 64
def mbTidB (b : Nat) : Nat := bits b 87 76
def mbBar (b : Nat) : Nat := bits b 127 96
def mbDescA (b : Nat) : Nat := bits b 255 128
def mbDescB (b : Nat) : Nat := bits b 383 256

/-- An entry is KIND 01 with a format of 05 Table 5.1. -/
def entOk (e : List Byte) : Bool := entKind (leNat e) == 1 && decide (entFmt (leNat e) ≤ 13)

/-- HROW and RBASE of a register operand (R335). -/
def Desc.hrow (d : Desc) : Nat := bits d.base 14 9
def Desc.rbase (d : Desc) : Nat := bits d.base 8 0

/-- Fields that must be 0 with SRCK = 1 (R336), and the reserved bits of a descriptor. -/
def descReserved (v : Nat) : Bool :=
  let d := descOf v
  bits v 63 56 == 0 && (!d.srck || (d.pitch == 0 && d.rot == 0 && d.ltw == 0 && d.tpitch == 0 && d.scl == 0 && bits d.base 31 15 == 0))

/-- One operand's checks of format, layout, registers and range (Table 17.4). -/
structure OperandOk where
  fmt : Bool
  layout : Bool
  regs : Bool
  range : Bool
  deriving DecidableEq, Repr

/-- The checks of an operand of a format with rows of k elements. -/
def State.operandOk (s : State) (tag : Nat) (p : Plot) (v fmt rows k : Nat) : OperandOk :=
  let d := descOf v
  let rb := rowLength fmt k
  { fmt := if d.srck then !fmtScaled fmt && decide (rows ≤ 64) else (d.scl != 0) == fmtScaled fmt
    layout := d.srck || d.layoutOk rb
    regs := !d.srck || (decide (d.hrow < p.size / 64) && decide (d.rbase + (rb + 3) / 4 ≤ p.ra))
    range := d.srck || (s.rowsOk tag d rb rows && s.areasOk tag (scaleAreas fmt k rows d.scl 0 rows)) }

/-- The 16 bytes of a barrier lie in their named allocation. -/
def State.barOk (s : State) (tag : Nat) (arm : Bool) (bar : Nat) : Bool := !arm || (s.spadAt tag (bar / 16 * 16) 16).toOption.isSome

/-- MX formats take K in multiples of 32 (Table 17.4). -/
def fmtMx (f : Nat) : Bool := f == 12 || f == 13

/-- The checks of an MMA block in the order of Table 17.4. M and N above 128 count as geometry (log 28). -/
def State.mmaStatus (s : State) (tag : Nat) (p : Plot) (b : Nat) (ea eb : List Byte) : Nat :=
  let fa := entFmt (leNat ea)
  let fb := entFmt (leNat eb)
  let a := s.operandOk tag p (mbDescA b) fa (mbM b) (mbK b)
  let c := s.operandOk tag p (mbDescB b) fb (mbN b) (mbK b)
  firstStatus
    [(bits b 511 384 == 0 && bits b 95 88 == 0 && bits b 15 12 == 0 && descReserved (mbDescA b) && descReserved (mbDescB b) &&
        (mbOp b == 1 || mbOp b == 2) && (mbArm b || mbBar b == 0), mcReserved),
     (decide (8 ≤ mbK b) && mbK b % 8 == 0 && (!(fmtMx fa || fmtMx fb) || mbK b % 32 == 0) && decide (mbM b ≤ 128) && decide (mbN b ≤ 128), mcGeometry),
     (entOk ea && entOk eb, mcFormat), (a.fmt && c.fmt, mcFormat), (a.layout && c.layout, mcLayout), (a.regs && c.regs, mcRegister),
     (a.range && c.range && s.barOk tag (mbArm b) (mbBar b), mcRange)]

/-- The bytes of the registers of a row operand (R336): an exited thread supplies zeros. -/
def Plot.regRow (p : Plot) (tid rbase rb : Nat) : List Byte :=
  match tget p.threads tid with
  | some t =>
    if t.live then (((t.regs.drop rbase).take ((rb + 3) / 4)).map fun w => natLe 4 w.toNat).flatten.take rb else List.replicate rb 0
  | none => List.replicate rb 0

/-- Capture a register operand (R336). -/
def Plot.captureRows (p : Plot) (v fmt rows k : Nat) : List (List Byte) :=
  let d := descOf v
  if d.srck then (List.range rows).map fun l => p.regRow (d.hrow * 64 + l) d.rbase (rowLength fmt k) else []

/-- MMA in one thread (R344). -/
def mmaLane (g : Fin 128) (a : Reg) : LaneFn := roleLane (fun x => x == .matrix) fun s r p t =>
  if !gY g t then (s, .next)
  else blockLane a 64 (fun l s r p t =>
    let b := leNat l
    match s.engEntries (s.coreOf r) p.ctx [mbTidA b, mbTidB b] with
    | (s, .error (c, id)) => s.ttPark p.ctx id c
    | (s, .ok es) =>
      let ea := es.getD 0 []
      let eb := es.getD 1 []
      let st := s.mmaStatus r.tag p b ea eb
      let c := newEng r t.pc .mma t.rmode l ((bit b 10).toNat) (mbTile b) st
      let c' := if st = 0 then
          { c with entries := es, rowsA := p.captureRows (mbDescA b) (entFmt (leNat ea)) (mbM b) (mbK b)
                   rowsB := p.captureRows (mbDescB b) (entFmt (leNat eb)) (mbN b) (mbK b) }
        else c
      (s.engIssue c', .next)) s r p t

/-- MMA (R344). -/
def execMma (g : Fin 128) (a : Reg) (s : State) : Result := .next (runLanes (mmaLane g a) s)

/-- The rows of a scratchpad operand and, after them, its scale areas one by one (R341). -/
def State.operandRows (s : State) (tag : Nat) (v fmt rows k : Nat) : List (List Byte) :=
  let d := descOf v
  (List.range rows).map (s.rowBytes tag d (rowLength fmt k)) ++
    (scaleAreas fmt k rows d.scl 0 rows).map fun x => (s.spadAreas tag [x]).toOption.getD []

/-- The values Val(X, r, k) of row r (R337). -/
def operandValues (l : List (List Byte)) (fmt rows k r : Nat) : List XReal :=
  let bands := l.getD (rows + 1) []
  let band := leNat ((bands.drop (2 * (r / 64))).take 2)
  rowValues fmt k (l.getD r []) (l.getD rows []) (r * k / (if fmt = 11 then 8 else 32)) band

/-- Scratchpad bytes read for an operand: its share of OPB (R341). -/
def operandBytes (v fmt rows k : Nat) : Nat :=
  if (descOf v).srck then 0
  else rows * rowLength fmt k +
    (if fmt = 11 then rows * k / 8 + 2 * ((rows + 63) / 64) else if fmtMx fmt then rows * k / 32 else 0)

/-! The fields of a drain block (Table 17.5). -/

def dbTile (b : Nat) : Nat := bits b 1 0
def dbClr (b : Nat) : Bool := bit b 2
def dbReg (b : Nat) : Bool := bit b 3
def dbDf (b : Nat) : Nat := bits b 5 4
def dbRow0 (b : Nat) : Nat := bits b 14 8
def dbRows (b : Nat) : Nat := bits b 22 16 + 1
def dbCol0 (b : Nat) : Nat := bits b 30 24
def dbCols (b : Nat) : Nat := bits b 38 32 + 1
def dbXa (b : Nat) : Int := sgn 12 (bits b 51 40)
def dbRot (b : Nat) : Nat := bits b 54 52
def dbDst (b : Nat) : Nat := bits b 95 64
def dbPitch (b : Nat) : Nat := bits b 111 96
def dbBar (b : Nat) : Nat := bits b 159 128
def dbArm (b : Nat) : Bool := bit b 160

/-- Tile of a drain block, array × 2 + tile: ARRAY is bit 1 and TILE bit 0. -/
def dbSize (b : Nat) : Nat := match dbDf b with | 0 => 4 | 3 => 16 | _ => 2

/-- Register words of a drained row (Table 17.6). -/
def dbWords (b : Nat) : Nat := match dbDf b with | 0 => dbCols b | 3 => 4 * dbCols b | _ => (dbCols b + 1) / 2

/-- HROW and RBASE of a drain to registers. -/
def dbHrow (b : Nat) : Nat := bits b 78 73
def dbRbase (b : Nat) : Nat := bits b 72 64

/-- Admit the products of one row pair into a cell (R340, 05 R112). -/
def admitRow (neg : Bool) (xa : Int) (acc : Quad) (x y : List XReal) : Quad :=
  (List.zip x y).foldl (fun acc (a, b) => let p := axaProduct a b; axaAdmit acc (if neg then p.neg else p) xa) acc

/-- The effect of an MMA on its tile (R340). -/
def Plot.mmaEffect (p : Plot) (c : EngCmd) : Plot :=
  let b := leNat c.block
  let fa := capturedFmt c.entries 0
  let fb := capturedFmt c.entries 1
  let av := (List.range (mbM b)).map (operandValues c.rowsA fa (mbM b) (mbK b))
  let bv := (List.range (mbN b)).map (operandValues c.rowsB fb (mbN b) (mbK b))
  av.zipIdx.foldl (fun p (x, i) =>
    bv.zipIdx.foldl (fun p (y, j) =>
      p.putCell c.tile i j (admitRow (mbOp b == 2) (mbXa b) (if mbOvw b then axaZero else p.cell c.tile i j) x y)) p) p

/-- Cycles that K elements of a format stream (R331, Table 17.1): FP32 takes four a column, 16-bit formats one, 8-bit and 6-bit ones a half,
4-bit ones a quarter. -/
def streamCycles (fmt k : Nat) : Nat :=
  match fmt with
  | 0 => 4 * k
  | 1 => k
  | 2 => k
  | 7 => k / 4
  | 10 => k / 4
  | 11 => k / 4
  | 13 => k / 4
  | _ => k / 2

/-- MMA_STREAM_START (18 R356, R341): the oldest MMA that its tile and its stream allow reads its operands, and streams as long as the
slower of its two formats does (R331). -/
def State.mmaStart (s : State) (core arr : Nat) : State :=
  match s.engPick core (fun c => c.kind == .mma && c.arr == arr && c.stage == .queued) with
  | none => s
  | some (tag, c) =>
    let b := leNat c.block
    let fa := capturedFmt c.entries 0
    let fb := capturedFmt c.entries 1
    s.modEng tag c.id fun c =>
      { c with
        stage := .started
        due := s.cycle + max (streamCycles fa (mbK b)) (streamCycles fb (mbK b))
        rowsA := if (descOf (mbDescA b)).srck then c.rowsA else s.operandRows tag (mbDescA b) fa (mbM b) (mbK b)
        rowsB := if (descOf (mbDescB b)).srck then c.rowsB else s.operandRows tag (mbDescB b) fb (mbN b) (mbK b) }


/-- The arrival that ends a command can be made. -/
def State.endFree (s : State) (c : EngCmd) : Bool :=
  let b := leNat c.block
  match c.kind with
  | .mma => s.engBarFree c (mbArm b) (mbBar b)
  | .mdrain => s.engBarFree c (dbArm b) (dbBar b)
  | _ => true

/-- The command of a kind that an array is executing and that can end. -/
def State.engStarted (s : State) (core arr : Nat) (k : EngKind) : Option (Nat × EngCmd) :=
  match s.ownerOf core with
  | none => none
  | some (tag, p) =>
    (p.engq.find? fun c => c.kind == k && c.arr == arr && c.stage == .started && decide (c.due ≤ s.cycle) && s.endFree c).map fun c => (tag, c)

/-- A plot without a command: nothing watches its operands any more (R343). -/
def Plot.withoutEng (p : Plot) (c : EngCmd) : Plot := { p with engq := p.engq.filter fun d => d.id != c.id }

/-- MMA_STREAM_END (R340, R341): the products are admitted, the operand-release arrival is made, with which the hazard window has ended (R343), and the command
completes. -/
def State.mmaEnd (s : State) (core arr : Nat) : State :=
  match s.engStarted core arr .mma with
  | none => s
  | some (tag, c) =>
    let b := leNat c.block
    let s1 := s.modPlot tag fun p => (p.mmaEffect c).withoutEng c
    let n := operandBytes (mbDescA b) (capturedFmt c.entries 0) (mbM b) (mbK b) + operandBytes (mbDescB b) (capturedFmt c.entries 1) (mbN b) (mbK b)
    let (s2, st) := if mbArm b then s1.engArrive c (mbBar b) n else (s1, 0)
    s2.engComplete tag c st

/-! ## Commit batches (R345, R346) -/

/-- The commands of a thread's open batch that have not completed. -/
def Plot.openBatch (p : Plot) (tid : Nat) : List EngCmd := p.engq.filter fun c => c.ref.tid == tid && c.batch.isNone

/-- Close a thread's open batch under a tag. -/
def Plot.closeBatch (p : Plot) (tid tag : Nat) : Plot :=
  { p with
    batch := tput p.batch tag ((tget p.batch tag).getD 0 + (p.openBatch tid).length)
    engq := p.engq.map fun c => if c.ref.tid = tid ∧ c.batch.isNone then { c with batch := some tag } else c }

/-- MMAC in one thread (R345). -/
def mmacLane (g : Fin 128) (tag : Nat) : LaneFn := roleLane (fun x => x == .matrix) fun s r _ t =>
  if !gY g t then (s, .next) else (s.modPlot r.tag fun p => p.closeBatch r.tid tag, .next)

/-- count(tag) of a plot. -/
def Plot.count (p : Plot) (tag : Nat) : Nat := (tget p.batch tag).getD 0

/-- MWAITB in one thread (R346): an acquire at plot scope when it goes on. -/
def mwaitbLane (tag : Nat) : LaneFn := roleLane (fun x => x == .matrix) fun s r p _ =>
  if p.count tag = 0 then (s.acquireCaches (s.coreOf r) .plot, .next) else (s, .sleep (.mwaitb tag))

/-! ## MDRAIN (R347 to R349) -/

/-- The checks of a drain block in the order of Table 17.6. -/
def State.drainStatus (s : State) (tag : Nat) (p : Plot) (b : Nat) : Nat :=
  let d := plainDesc (dbDst b) (dbPitch b) (dbRot b)
  let len := dbCols b * dbSize b
  firstStatus
    [(bits b 7 6 == 0 && !bit b 15 && !bit b 23 && !bit b 31 && !bit b 39 && bits b 63 55 == 0 && bits b 127 112 == 0 && bits b 255 161 == 0 &&
        (!dbReg b || bits b 95 79 == 0) && (dbArm b || dbBar b == 0), mcReserved),
     (decide (dbRow0 b + dbRows b ≤ 128) && decide (dbCol0 b + dbCols b ≤ 128) && (!dbReg b || decide (dbRows b ≤ 64)), mcGeometry),
     (if dbReg b then dbPitch b == 0 && dbRot b == 0
      else dbDst b % 16 == 0 && decide (dbRot b ≤ 4) && dbPitch b % (16 * 2 ^ dbRot b) == 0 && decide (len ≤ dbPitch b), mcLayout),
     (!dbReg b || (decide (dbHrow b < p.size / 64) && (dbDf b != 3 || dbRbase b % 4 == 0) && (!(dbDf b == 1 || dbDf b == 2) || dbRbase b % 2 == 0) &&
        decide (dbRbase b + dbWords b ≤ p.ra)), mcRegister),
     ((dbReg b || s.rowsOk tag d len (dbRows b)) && s.barOk tag (dbArm b) (dbBar b), mcRange)]

/-- MDRAIN in one thread (R347). -/
def mdrainLane (g : Fin 128) (a : Reg) : LaneFn := roleLane (fun x => x == .matrix) fun s r p t =>
  if !gY g t then (s, .next)
  else blockLane a 32 (fun l s r p t =>
    let b := leNat l
    (s.engIssue (newEng r t.pc .mdrain t.rmode l ((bit b 1).toNat) (dbTile b) (s.drainStatus r.tag p b)), .next)) s r p t

/-- The element a drain makes of a cell, with its flags (R348). -/
def drainElem (b : Nat) (m : BitVec 2) (v : Quad) : Nat × Nat :=
  match dbDf b with
  | 0 => axaConvert v (dbXa b) fmtF32 m
  | 1 => axaConvert v (dbXa b) fmtF16 m
  | 2 => axaConvert v (dbXa b) fmtBF16 m
  | _ => (v.toNat, 0)

/-- One drained row: its elements, and the flags. -/
def Plot.drainRow (p : Plot) (c : EngCmd) (r : Nat) : List Nat × Nat :=
  let b := leNat c.block
  let x := (List.range (dbCols b)).map fun j => drainElem b c.rmode (p.cell c.tile (dbRow0 b + r) (dbCol0 b + j))
  (x.map Prod.fst, x.foldl (fun g y => g ||| y.2) 0)

/-- Clear the drained cells (CLR). -/
def Plot.clearCells (p : Plot) (c : EngCmd) : Plot :=
  let b := leNat c.block
  (List.range (dbRows b)).foldl (fun p r => (List.range (dbCols b)).foldl (fun p j => p.putCell c.tile (dbRow0 b + r) (dbCol0 b + j) axaZero) p) p

/-- Write one row's chunks to scratchpad. -/
def State.drainChunks (s : State) (c : EngCmd) (bytes : List Byte) : List (Nat × Nat) → State
  | [] => s
  | (a, n) :: t =>
    match s.areaAt c.ref.tag a n with
    | .error _ => s.drainChunks c (bytes.drop n) t
    | .ok (x, off) => (s.spadWrite c.writer x off (bytes.take n) none).drainChunks c (bytes.drop n) t

/-- The words of a row drained to registers (R349). -/
def drainWords (b : Nat) (l : List Nat) : List Word :=
  let bytes := (l.map (natLe (dbSize b))).flatten
  (List.range (dbWords b)).map fun i => BitVec.ofNat 32 (leNat ((bytes.drop (4 * i)).take 4))

/-- Write drained rows from row r on: to scratchpad, or to the threads of a home row that have not exited (R348, R349). -/
def State.drainRows (s : State) (c : EngCmd) : List (Nat × List Nat) → State
  | [] => s
  | (r, l) :: t =>
    let b := leNat c.block
    if dbReg b then
      (s.modThread ⟨c.ref.tag, dbHrow b * 64 + r⟩ fun t => if t.live then t.setRegs (dbRbase b) (drainWords b l) else t).drainRows c t
    else
      let bytes := (l.map (natLe (dbSize b))).flatten
      (s.drainChunks c bytes ((plainDesc (dbDst b) (dbPitch b) (dbRot b)).row bytes.length r)).drainRows c t

/-- MDRAIN_RUN (R348): a drain in its turn reads and converts its rows, one in each of 128 cycles, and writes the destination. -/
def State.drainRun (s : State) (core arr : Nat) : State :=
  match s.engPick core (fun c => c.kind == .mdrain && c.arr == arr && c.stage == .queued) with
  | none => s
  | some (tag, c) =>
    match tget s.plots tag with
    | none => s
    | some p =>
      let b := leNat c.block
      let rows := (List.range (dbRows b)).map fun r => (r, p.drainRow c r)
      let fl := rows.foldl (fun g x => g ||| x.2.2) 0
      let s1 := s.modPlot tag fun p => (if dbClr b then p.clearCells c else p).orTsw c.tile (BitVec.ofNat 32 fl)
      (s1.modEng tag c.id fun c => { c with stage := .started, due := s.cycle + 128 }).drainRows c (rows.map fun x => (x.1, x.2.1))

/-- MDRAIN_COMPLETE (R348): every write performed, it arrives and completes. -/
def State.drainDone (s : State) (core arr : Nat) : State :=
  match s.engStarted core arr .mdrain with
  | none => s
  | some (tag, c) =>
    let b := leNat c.block
    let (s1, st) := if dbArm b then s.engArrive c (dbBar b) (dbRows b * dbCols b * dbSize b) else (s, 0)
    s1.engComplete tag c st

/-! ## MZERO and MSTAT (R351, R352) -/

/-- MZERO in one thread (R351): never rejected. -/
def mzeroLane (g : Fin 128) (arr tile : Bool) : LaneFn := roleLane (fun x => x == .matrix) fun s r _ t =>
  if !gY g t then (s, .next)
  else (s.engIssue (newEng r t.pc .mzero t.rmode [] arr.toNat (arr.toNat * 2 + tile.toNat) 0), .next)

/-- MZERO_TURN (R351): an MZERO whose turn began in an earlier cycle completes; else the next one in its turn sets its tile to zero. -/
def State.zeroTurn (s : State) (core arr : Nat) : State :=
  match s.engStarted core arr .mzero with
  | some (tag, c) => s.engComplete tag c 0
  | none =>
    match s.engPick core (fun c => c.kind == .mzero && c.arr == arr && c.stage == .queued) with
    | none => s
    | some (tag, c) => (s.modPlot tag fun p => p.zeroTile c.tile).modEng tag c.id fun c => { c with stage := .started, due := s.cycle + 1 }

/-- A tile's status word with QD, the commands naming the tile not yet complete (Table 17.7). -/
def Plot.tileStatus (p : Plot) (tile : Nat) : Word :=
  p.tsw.getD tile 0 ||| BitVec.ofNat 32 (min 255 (p.engq.filter fun c => c.accepted && c.tiles.contains tile).length * 2 ^ 24)

/-- MSTAT in one thread (R352). -/
def mstatLane (d : Reg) (tile : Nat) : LaneFn := roleLane (fun x => x == .matrix) fun s r p t =>
  if !t.inRanges [(d, 1)] then (s, .trap trapRange 0 0)
  else ((s.modThread r fun t => t.wr32 d (p.tileStatus tile)).modPlot r.tag fun p => { p with tsw := p.tsw.set tile 0 }, .next)

/-! ## The instructions and steps -/

/-- MMAC (R345). -/
def execMmac (g : Fin 128) (tag : Fin 64) (s : State) : Result := .next (runLanes (mmacLane g tag.val) s)

/-- MWAITB (R346). -/
def execMwaitb (tag : Fin 64) (s : State) : Result := .next (runLanes (mwaitbLane tag.val) s)

/-- MDRAIN (R347). -/
def execMdrain (g : Fin 128) (a : Reg) (s : State) : Result := .next (runLanes (mdrainLane g a) s)

/-- MZERO (R351). -/
def execMzero (g : Fin 128) (arr : Bool) (tile : Bool) (s : State) : Result := .next (runLanes (mzeroLane g arr tile) s)

/-- MSTAT (R352). -/
def execMstat (d : Reg) (arr : Bool) (tile : Bool) (s : State) : Result := .next (runLanes (mstatLane d (arr.toNat * 2 + tile.toNat)) s)

/-- MMA_STREAM_START (18 R356). -/
def execMmaStreamStart (core : Nat) (arr : Nat) (s : State) : Result := .next (s.mmaStart core arr)

/-- MMA_STREAM_END (R341). -/
def execMmaStreamEnd (core : Nat) (arr : Nat) (s : State) : Result := .next (s.mmaEnd core arr)

/-- MDRAIN_RUN (R348). -/
def execMdrainRun (core : Nat) (arr : Nat) (s : State) : Result := .next (s.drainRun core arr)

/-- MDRAIN_COMPLETE (R348). -/
def execMdrainComplete (core : Nat) (arr : Nat) (s : State) : Result := .next (s.drainDone core arr)

/-- MZERO_TURN (R351). -/
def execMzeroTurn (core : Nat) (arr : Nat) (s : State) : Result := .next (s.zeroTurn core arr)

end Sys2Proof.Machine
end

