-- ==== Sys2Proof/Machine/Attention.lean ====
section
/-! DEFINITION. The attention pipe (19 R357 to R369): APIPE, its checks, the reading of Q, K, V and position words, the two sweeps,
and the result record. -/

namespace Sys2Proof.Machine

/-! ## The command block (Table 19.1) -/

def apS1 (b : Nat) : Bool := bit b 8
def apS2 (b : Nat) : Bool := bit b 9
def apOvw (b : Nat) : Bool := bit b 10
def apArm (b : Nat) : Bool := bit b 11
/-- The O tile: tile OTILE of array VARR. -/
def apOTile (b : Nat) : Nat := (bit b 13).toNat * 2 + (bit b 12).toNat
def apNterm (b : Nat) : Nat := bits b 18 16
def apD (b : Nat) : Nat := if bit b 19 then 128 else 64
def apNq (b : Nat) : Nat := bits b 30 24 + 1
def apQblk (b : Nat) : Nat := bits b 47 32
def apNkb (b : Nat) : Nat := bits b 60 48
def apTidQ (b : Nat) : Nat := bits b 75 64
def apTidK (b : Nat) : Nat := bits b 87 76
def apTidV (b : Nat) : Nat := bits b 99 88
def apXas (b : Nat) : Int := sgn 12 (bits b 111 100)
def apXav (b : Nat) : Int := sgn 12 (bits b 123 112)
def apC (b : Nat) : Nat := bits b 159 128
def apBar (b : Nat) : Nat := bits b 191 160
def apTab (b : Nat) : Nat := bits b 223 192
def apMaddr (b : Nat) : Nat := bits b 255 224
def apDescQ (b : Nat) : Nat := bits b 383 256
def apLaddr (b : Nat) : Nat := bits b 415 384
def apPosQ (b : Nat) : Nat := bits b 511 448
def apPosK (b : Nat) : Nat := bits b 575 512
def apFm (b t : Nat) : Nat := bits b (96 * t + 607) (96 * t + 576)
def apLo (b t : Nat) : Int := sgn 32 (bits b (96 * t + 639) (96 * t + 608))
def apHi (b t : Nat) : Int := sgn 32 (bits b (96 * t + 671) (96 * t + 640))

/-- Attention status codes (Table 19.4). -/
def acTableOrder : Nat := 8
def acKeyRange : Nat := 9
def acAborted : Nat := 10

/-! ## Checks (R360) -/

/-- n bytes at a scratchpad address lie in their named allocation. -/
def State.areaOk (s : State) (tag a n : Nat) : Bool := (s.spadAt tag a n).toOption.isSome

/-- An entry names K or V of head dimension d. -/
def kvOk (e : List Byte) (d : Nat) : Bool := entRank (leNat e) == 2 && entDim (leNat e) 0 == d

/-- KIND 01 and a format APIPE takes. -/
def apEntOk (e : List Byte) : Bool := entKind (leNat e) == 1 && decide (entFmt (leNat e) ≤ 4)

/-- The checks of an APIPE block and table in the order of Table 19.2. -/
def State.apipeStatus (s : State) (tag : Nat) (b : Nat) (es : List (List Byte)) : Nat :=
  let d := descOf (apDescQ b)
  let rb := rowLength (entFmt (leNat (es.getD 0 []))) (apD b)
  firstStatus
    [(bits b 1023 960 == 0 && bits b 127 124 == 0 && bits b 63 61 == 0 && !bit b 31 && bits b 23 20 == 0 && !bit b 15 && bits (apDescQ b) 63 56 == 0 &&
        bits b 7 0 == 0x10 && decide (apNterm b ≤ 4) && (apS1 b || apS2 b) && (apArm b || apBar b == 0), mcReserved),
     (decide (1 ≤ apNkb b) && decide (apNkb b ≤ 4096) && apPosQ b % 4 == 0 && apPosK b % 4 == 0 && apTab b % 2 == 0 && apMaddr b % 4 == 0 &&
        apRes b % 16 == 0 && (!apS2 b || apLaddr b % 16 == 0) && decide (128 * apQblk b + apNq b ≤ 2 ^ 32), mcGeometry),
     ((List.range 3).all (fun i => apEntOk (es.getD i [])) && kvOk (es.getD 1 []) (apD b) && kvOk (es.getD 2 []) (apD b) && !d.srck && d.scl == 0,
        mcFormat),
     (d.layoutOk rb, mcLayout),
     (s.rowsOk tag d rb (apNq b) && s.areaOk tag (apTab b) (2 * apNkb b) && s.areaOk tag (apMaddr b) 512 &&
        (!apS2 b || s.areaOk tag (apLaddr b) 2048) && s.areaOk tag (apRes b) 16 && s.barOk tag (apArm b) (apBar b), mcRange)]

/-! ## Issue (R359) -/

/-- APIPE in one thread (R359): its block, table and entries are read at issue. -/
def apipeLane (g : Fin 128) (a : Reg) : LaneFn := roleLane (fun x => x == .matrix) fun s r p t =>
  if !gY g t then (s, .next)
  else blockLane a 128 (fun l s r p t =>
    let b := leNat l
    match s.engEntries (s.coreOf r) p.ctx [apTidQ b, apTidK b, apTidV b] with
    | (s, .error (c, id)) => s.ttPark p.ctx id c
    | (s, .ok es) =>
      let st := s.apipeStatus r.tag b es
      let tab := (s.readBlock r.tag (apTab b) (2 * apNkb b)).toOption.getD []
      let c := { newEng r t.pc .apipe t.rmode l ((bit b 13).toNat) (apOTile b) st with entries := es, table := tab }
      (s.engIssue c, .next)) s r p t

/-- APIPE (R359). -/
def execApipe (g : Fin 128) (a : Reg) (s : State) : Result := .next (runLanes (apipeLane g a) s)

/-! ## Stop point and tokens (R361) -/

/-- The entries of the block-index table. -/
def apEntries : List Byte → List Nat
  | x :: y :: t => (x.toNat + 256 * y.toNat) :: apEntries t
  | _ => []

/-- Number of keys: the smaller of DIM1(K) and DIM1(V). -/
def EngCmd.keyLimit (c : EngCmd) : Nat := min (entDim (leNat (c.entries.getD 1 [])) 1) (entDim (leNat (c.entries.getD 2 [])) 1)

/-- The entries before the stop point, and the stop code. -/
def apStop (lim : Nat) : Option Nat → List Nat → List Nat × Nat
  | _, [] => ([], 0)
  | prev, x :: t =>
    let order := match prev with | some y => decide (x ≤ y) | none => false
    if order then ([], acTableOrder)
    else if lim ≤ 128 * x then ([], acKeyRange)
    else let (l, c) := apStop lim (some x) t; (x :: l, c)

/-- The entries a command processes, and its stop code. -/
def EngCmd.apBlocks (c : EngCmd) : List Nat × Nat := apStop c.keyLimit none (apEntries c.table)

/-- The key tokens of the entries processed that lie below DIM1(K) and DIM1(V). -/
def EngCmd.tokens (c : EngCmd) : List Nat :=
  ((c.apBlocks.1.map fun x => (List.range 128).map fun i => 128 * x + i).flatten).filter fun k => decide (k < c.keyLimit)

/-! ## The mask program (R358) -/

/-- Trailing zeros. -/
def trailing : Nat → Nat → Nat
  | 0, _ => 0
  | n + 1, v => if v % 2 = 1 then 0 else trailing n (v / 2) + 1

/-- field(w, FM). -/
def maskField (w fm : Nat) : Nat := if fm = 0 then 0 else (w &&& fm) / 2 ^ trailing 32 fm

/-- The terms hold for a query word and a key word. -/
def unmasked (b pq pk : Nat) : Bool :=
  (List.range (apNterm b)).all fun t =>
    let d : Int := (maskField pq (apFm b t) : Int) - (maskField pk (apFm b t) : Int)
    decide (apLo b t ≤ d) && decide (d ≤ apHi b t)

/-! ## Reading K, V and position words (R363, R365) -/

/-- Address of element (d, κ) of a rank-2 base entry (09 R206). -/
def elemVa (e d k : Nat) : Nat :=
  (((entBase e : Int) + ((d : Int) * entStride e 0 + (k : Int) * entStride e 1) * (convSize (entFmt e) : Int)) % (2 ^ 64 : Nat)).toNat

/-- Word i of a run of words. -/
def wordAt (l : List Byte) (i : Nat) : Nat := leNat ((l.drop (4 * i)).take 4)

/-- The entry of an operand: 0 Q, 1 K, 2 V. -/
def EngCmd.entry (c : EngCmd) (i : Nat) : Nat := leNat (c.entries.getD i [])

/-- What the sweep has read, in this order: query position words, key position words, K elements, V elements. -/
def EngCmd.posQ (c : EngCmd) : List Byte := c.reads.getD 0 []
def EngCmd.posK (c : EngCmd) : List Byte := c.reads.getD 1 []

/-- Query rows that use a key. -/
def apUsed (b : Nat) (pq : List Byte) (pk : Nat) : Bool := (List.range (apNq b)).any fun i => unmasked b (wordAt pq i) pk

/-- The key tokens that some query row uses, each with its position word. -/
def EngCmd.usedTokens (c : EngCmd) : List (Nat × Nat) :=
  (c.tokens.zipIdx.map fun (k, j) => (wordAt c.posK j, k)).filter fun x => apUsed (leNat c.block) c.posQ x.1

/-- Addresses of the elements of the used tokens in an operand. -/
def EngCmd.elemVas (c : EngCmd) (i : Nat) : List Nat :=
  c.usedTokens.flatMap fun (_, k) => (List.range (apD (leNat c.block))).map fun d => elemVa (c.entry i) d k

/-- What the sweep reads next, after what it has read: the length of one read, and the addresses (R363): the query words once, then in each sweep the
key words, the K elements and for sweep 2 the V elements of the tokens in use. None where the sweep has read everything. -/
def EngCmd.nextReads (c : EngCmd) : Option (Nat × List Nat) :=
  let b := leNat c.block
  let words := fun (l : List Nat) => if apNterm b = 0 then [] else l
  match c.reads.length with
  | 0 => some (4, words ((List.range (apNq b)).map fun i => apPosQ b + 4 * (128 * apQblk b + i)))
  | 1 => some (4, words (c.tokens.map fun k => apPosK b + 4 * k))
  | 2 => some (convSize (entFmt (c.entry 1)), c.elemVas 1)
  | 3 => if c.sweep = 2 then some (convSize (entFmt (c.entry 2)), c.elemVas 2) else none
  | _ => none

/-- Read n bytes at each address in turn: what was read, and the fault with its address. -/
def State.apRead (s : State) (core ctx n : Nat) : List Nat → State × List Byte × Option (Nat × Nat)
  | [] => (s, [], none)
  | a :: t =>
    match s.engRead core ctx accEngRead 2 (a % 2 ^ 64) n with
    | (s, .error f) => (s, [], some f)
    | (s, .ok x) => let (s1, l, f) := s.apRead core ctx n t; (s1, x ++ l, f)

/-- Pause a command with a record (R365), or hold it for want of a port. -/
def State.apPause (s : State) (tag : Nat) (c : EngCmd) (code addr : Nat) : State :=
  if code = fcNoPort then s.modEng tag c.id fun c => { c with stage := .held }
  else match tget s.plots tag with
    | none => s
    | some p =>
      let (h, s1) := s.fresh
      (s1.modEng tag c.id fun c => { c with stage := .paused (some h) }).report p.ctx (s1.cmdRec c.ref 2 accEngRead code addr c.pc h)

/-- Cycles that a sweep streams (R364): each key block D / d cycles in the score array, and in sweep 2 128 / d more in the value array. -/
def EngCmd.sweepCycles (c : EngCmd) : Nat :=
  let d := apD (leNat c.block)
  let score := max (streamCycles (entFmt (c.entry 0)) d) (streamCycles (entFmt (c.entry 1)) d)
  let value := max (streamCycles 2 128) (streamCycles (entFmt (c.entry 2)) 128)
  c.apBlocks.1.length * (score + if c.sweep = 2 then value else 0)

/-- Go on with the reads of a sweep from where they stand; a fault pauses the command there, and behind the last read the sweep streams (R364, R365). -/
def State.apGoOn (core tag ctx : Nat) : Nat → State → EngCmd → State
  | 0, s, _ => s
  | n + 1, s, c =>
    match c.nextReads with
    | none => s.modEng tag c.id fun _ => { c with stage := .started, due := s.cycle + c.sweepCycles }
    | some (k, l) =>
      let (s1, x, f) := s.apRead core ctx k (l.drop (c.part.length / k))
      match f with
      | some (code, a) =>
        let c' := { c with part := c.part ++ x }
        (s1.modEng tag c.id fun _ => c').apPause tag c' code a
      | none => State.apGoOn core tag ctx n s1 { c with reads := c.reads ++ [c.part ++ x], part := [] }

/-- Go on with a command of a plot. -/
def State.apContinue (s : State) (core tag : Nat) (c : EngCmd) : State :=
  match tget s.plots tag with
  | none => s
  | some p => State.apGoOn core tag p.ctx 5 s c

/-! ## Scores (R362) -/

/-- Score(i, κ): its F32 code and flags. -/
def apScore (b : Nat) (m : BitVec 2) (q k : List XReal) : Nat × Nat :=
  let acc := admitRow false (apXas b) axaZero q k
  let (v, f) := axaConvert acc (apXas b) fmtF32 m
  let (w, g) := roundOp fmtF32 m ((fmtF32.value v).mul (fmtF32.value (apC b)))
  (w, f ||| g)

/-- The keys of row i: token index and score. -/
abbrev Scores := List (Nat × Nat)

/-- maximumNumber over the scores; −Inf if there is none. -/
def apMax : Scores → Nat × Nat
  | [] => (0xFF800000, 0)
  | x :: t => t.foldl (fun m y => let (c, f) := minMaxNum fmtF32 true m.1 y.2; (c, m.2 ||| f)) (x.2, 0)

/-- p of a score under a maximum: the BF16 code and flags. -/
def apWeight (m : BitVec 2) (s mx : Nat) : Nat × Nat :=
  let (x, f) := roundOp fmtF32 m (XReal.add m (fmtF32.value s) (fmtF32.value mx).neg)
  let (e, g) := roundOp fmtF32 m (fnExp2 (fmtF32.value x))
  let (p, h) := roundOp fmtBF16 0 (fmtF32.value e, 0)
  (p, f ||| g ||| h)

/-- A command's operands as values: query rows, and for each used token its K and V rows. -/
structure ApValues where
  q : List (List XReal)
  k : List (List XReal)
  v : List (List XReal)

/-- The values of the used tokens in an operand, read as part n of the sweep. -/
def EngCmd.tokenValues (c : EngCmd) (i n : Nat) : List (List XReal) :=
  let d := apD (leNat c.block)
  let len := d * convSize (entFmt (c.entry i))
  (List.range c.usedTokens.length).map fun j => rowValues (entFmt (c.entry i)) d (((c.reads.getD n []).drop (j * len)).take len) [] 0 0

/-- The values of what was read. -/
def EngCmd.apValues (c : EngCmd) : ApValues :=
  { q := c.rowsA.map fun l => rowValues (entFmt (c.entry 0)) (apD (leNat c.block)) l [] 0 0
    k := c.tokenValues 1 2
    v := c.tokenValues 2 3 }

/-- The used tokens that are unmasked for row i, by their index. -/
def EngCmd.rowKeys (c : EngCmd) (i : Nat) : List Nat :=
  (c.usedTokens.zipIdx.filter fun (x, _) => unmasked (leNat c.block) (wordAt c.posQ i) x.1).map Prod.snd

/-- Rows without an unmasked key (Table 19.3). -/
def EngCmd.emptyRows (c : EngCmd) : Nat := ((List.range (apNq (leNat c.block))).filter fun i => (c.rowKeys i).isEmpty).length

/-- The unmasked keys of row i with their scores, and the flags. -/
def EngCmd.rowScores (c : EngCmd) (v : ApValues) (i : Nat) : Scores × Nat :=
  let l := (c.rowKeys i).map fun j => (j, apScore (leNat c.block) c.rmode (v.q.getD i []) (v.k.getD j []))
  (l.map fun x => (x.1, x.2.1), l.foldl (fun g x => g ||| x.2.2) 0)

/-! ## The two sweeps (R362) -/

/-- Bytes of scratchpad at an address that passed its check. -/
def State.apBytes (s : State) (tag a n : Nat) : List Byte := (s.readBlock tag a n).toOption.getD []

/-- Write at an address that passed its check. -/
def State.apPut (s : State) (c : EngCmd) (a : Nat) (l : List Byte) : State :=
  match s.spadAt c.ref.tag a l.length with
  | .error _ => s
  | .ok (t, off) => s.spadWrite c.writer t off l none

/-- Write one word or quad of each row from an area on. -/
def State.apPutAll (s : State) (c : EngCmd) (a n : Nat) (l : List Nat) : State :=
  l.zipIdx.foldl (fun s (x, i) => s.apPut c (a + n * i) (natLe n x)) s

/-- Sweep 1 (R362): the maximum of each row, written at MADDR, with the flags raised. -/
def State.apSweep1 (s : State) (tag : Nat) (c : EngCmd) : State × EngCmd :=
  let b := leNat c.block
  let v := c.apValues
  let l := (List.range (apNq b)).map fun i => let (sc, f) := c.rowScores v i; let (m, g) := apMax sc; (m, f ||| g)
  let c' := { c with maxima := l.map Prod.fst, flags := l.foldl (fun g x => g ||| x.2) c.flags }
  ((s.modEng tag c.id fun _ => c').apPutAll c' (apMaddr b) 4 c'.maxima, c')

/-- Sweep 2 begins (R362): with S1 = 0 the maxima are read, and with OVW = 0 the row sums. The query words stay. -/
def State.apBegin2 (s : State) (tag : Nat) (c : EngCmd) : EngCmd :=
  let b := leNat c.block
  let rows := List.range (apNq b)
  { c with
    sweep := 2
    reads := c.reads.take 1
    part := []
    keys := c.posK
    maxima := if apS1 b then c.maxima else rows.map fun i => leNat (s.apBytes tag (apMaddr b + 4 * i) 4)
    sums := rows.map fun i => if apOvw b then axaZero else BitVec.ofNat 128 (leNat (s.apBytes tag (apLaddr b + 16 * i) 16)) }

/-- Sweep 2 of one row: the row sum, the O cells and the flags, from the row's state before it. -/
def EngCmd.rowSum (c : EngCmd) (v : ApValues) (sc : Scores) (mx : Nat) (l0 : Quad) (o0 : List Quad) : Quad × List Quad × Nat :=
  let b := leNat c.block
  sc.foldl (fun (acc : Quad × List Quad × Nat) (j, s) =>
    let (p, f) := apWeight c.rmode s mx
    let pv := fmtBF16.value p
    let o := List.zipWith (fun x y => axaAdmit x (axaProduct pv y) (apXav b)) acc.2.1 (v.v.getD j [])
    (axaAdmit acc.1 pv 5, o, acc.2.2 ||| f)) (l0, o0, 0)

/-- Row i of sweep 2 over the O tile: the plot with its O cells, the row sum, the flags. -/
def EngCmd.sweepRow (c : EngCmd) (v : ApValues) (p : Plot) (i : Nat) : Plot × Quad × Nat :=
  let b := leNat c.block
  let (sc, f) := c.rowScores v i
  let o0 := (List.range (apD b)).map fun d => if apOvw b then axaZero else p.cell c.tile i d
  let (l, o, h) := c.rowSum v sc (c.maxima.getD i 0) (c.sums.getD i axaZero) o0
  (o.zipIdx.foldl (fun p (x, d) => p.putCell c.tile i d x) p, l, f ||| h)

/-- Sweep 2 (R362): the O cells, the row sums written at LADDR, the flags. -/
def State.apSweep2 (s : State) (tag : Nat) (c : EngCmd) : State × EngCmd :=
  match tget s.plots tag with
  | none => (s, c)
  | some p =>
    let b := leNat c.block
    let v := c.apValues
    let (q, l, fl) := (List.range (apNq b)).foldl (fun (acc : Plot × List Nat × Nat) i =>
      let (p, x, f) := c.sweepRow v acc.1 i
      (p, acc.2.1 ++ [x.toNat], acc.2.2 ||| f)) (p, [], c.flags)
    let c' := { c with flags := fl }
    (((s.modPlot tag fun _ => q).modEng tag c.id fun _ => c').apPutAll c' (apLaddr b) 16 l, c')

/-! ## Steps of a command -/

/-- Read Q once and release it (R363): the arrival's outcome is kept with the command. The first sweep begins. -/
def State.apReadQ (s : State) (tag : Nat) (c : EngCmd) : State × EngCmd :=
  let b := leNat c.block
  let rb := rowLength (entFmt (c.entry 0)) (apD b)
  let rows := (List.range (apNq b)).map (s.rowBytes tag (descOf (apDescQ b)) rb)
  let s0 := s.modEng tag c.id fun c => { c with rowsA := rows }
  let (s1, st) := if apArm b then s0.engArrive c (apBar b) (apNq b * rb) else (s0, 0)
  let c1 := { c with rowsA := rows, status := st, stage := .started, sweep := 1 }
  let c2 := if apS1 b then c1 else s1.apBegin2 tag c1
  (s1.modEng tag c.id fun _ => c2, c2)

/-- The command of a core that a resume lets go on. -/
def State.apResumed (s : State) (core : Nat) : Option (Nat × EngCmd) :=
  match s.ownerOf core with
  | none => none
  | some (tag, p) => (p.engq.find? fun c => c.kind == .apipe && c.stage == .paused none).map fun c => (tag, c)

/-- The command of a core whose sweep has streamed to its end. -/
def State.apStreamed (s : State) (core : Nat) : Option (Nat × EngCmd) :=
  match s.ownerOf core with
  | none => none
  | some (tag, p) => (p.engq.find? fun c => c.kind == .apipe && c.stage == .started && decide (c.due ≤ s.cycle)).map fun c => (tag, c)

/-- Sweep 2 is still to come. -/
def EngCmd.moreSweeps (c : EngCmd) : Bool := c.sweep == 1 && apS2 (leNat c.block)

/-- A command can begin: it has not begun, and the arrival that it makes then is possible. -/
def State.apMayStart (s : State) (c : EngCmd) : Bool :=
  c.kind == .apipe && c.stage == .queued && s.engBarFree c (apArm (leNat c.block)) (apBar (leNat c.block))

/-- APIPE_START (R363 to R365): a resumed command goes on where it paused; one whose sweep 1 has ended begins sweep 2; else the oldest that its tiles and
streams allow begins. -/
def State.apStart (s : State) (core : Nat) : State :=
  match s.apResumed core with
  | some (tag, c) => s.apContinue core tag c
  | none =>
    match s.apStreamed core with
    | some (tag, c) => if c.moreSweeps then let (s1, c1) := s.apSweep1 tag c; s1.apContinue core tag (s1.apBegin2 tag c1) else s
    | none =>
      match s.engPick core s.apMayStart with
      | none => s
      | some (tag, c) => let (s1, c1) := s.apReadQ tag c; s1.apContinue core tag c1

/-- Complete an APIPE: the score tile at the zero state, the record, the status (R362, R366 to R368). -/
def State.apFinish (s : State) (tag : Nat) (c : EngCmd) (nempty flags code : Nat) : State :=
  let b := leNat c.block
  let s1 := s.modPlot tag fun p => (p.zeroTile (apScoreTile b)).orTsw c.tile (BitVec.ofNat 32 (flags % 32))
  (s1.apWriteRecord c (apRecord nempty c.apBlocks.1.length flags code)).engComplete tag c code

/-- APIPE_COMPLETE (R362, R366): the last sweep has streamed to its end. -/
def State.apDone (s : State) (core : Nat) : State :=
  match s.apStreamed core with
  | none => s
  | some (tag, c) =>
    if c.moreSweeps then s
    else
      let (s1, c1) := if c.sweep = 1 then s.apSweep1 tag c else s.apSweep2 tag c
      s1.apFinish tag c1 c1.emptyRows c1.flags (if c.apBlocks.2 ≠ 0 then c.apBlocks.2 else c.status)

/-! ## Aborts (R365) -/

/-- Some AXA state: a free value (log 6). -/
def freeCell (k : Nat) : Quad :=
  let x := Config.freeNat k
  axaMake (bit x 0) (bit x 1) (bit x 2) (x / 8 % 2 ^ 124)

/-- The O cells of an aborted command hold some AXA state. -/
def State.apFreeCells (s : State) (tag : Nat) (c : EngCmd) : State :=
  let b := leNat c.block
  let k := s.freeCtr
  ({ s with freeCtr := k + apNq b * apD b } : State).modPlot tag fun p =>
    (List.range (apNq b)).foldl (fun p i => (List.range (apD b)).foldl (fun p d => p.putCell c.tile i d (freeCell (k + i * apD b + d))) p) p

/-- The key words that an aborted command has read: those of its sweep, or of the sweep before, or as many as have been read. -/
def EngCmd.keyWords (c : EngCmd) : List Byte :=
  match c.reads.length with
  | 0 => []
  | 1 => if c.keys.isEmpty then c.part else c.keys
  | _ => c.posK

/-- Rows with an unmasked key among some key words. -/
def EngCmd.metRows (c : EngCmd) (l : List Byte) : Nat :=
  ((List.range (apNq (leNat c.block))).filter fun i =>
    (List.range (l.length / 4)).any fun j => unmasked (leNat c.block) (wordAt c.posQ i) (wordAt l j)).length

/-- NEMPTY of an aborted command (Table 19.3): what the position words give; where some could not be read, a free value among those that the others leave (log 6). -/
def EngCmd.abortEmpty (c : EngCmd) (w : Nat) : Nat :=
  let b := leNat c.block
  if c.tokens.isEmpty then apNq b
  else if apNterm b = 0 then 0
  else
    let n := apNq b - c.metRows c.keyWords
    if c.keyWords.length = 4 * c.tokens.length then n else w % (n + 1)

/-- An aborted command with the words and the K elements that it has read. -/
def EngCmd.abortView (c : EngCmd) : EngCmd :=
  { c with reads := [c.posQ, c.keyWords, if c.reads.length = 2 then c.part else c.reads.getD 2 []] }

/-- The keys of row i are known, and their K elements have been read. -/
def EngCmd.rowKnown (c : EngCmd) (i : Nat) : Bool :=
  let b := leNat c.block
  c.tokens.isEmpty || ((apNterm b == 0 || c.posK.length == 4 * c.tokens.length) &&
    (c.rowKeys i).all fun j => decide ((j + 1) * (apD b * convSize (entFmt (c.entry 1))) ≤ (c.reads.getD 2 []).length))

/-- The maximum that an aborted command would have written for row i, where what it has read gives it. -/
def EngCmd.newMax (c : EngCmd) (i : Nat) : Option Nat := if c.rowKnown i then some (apMax (c.rowScores c.apValues i).1).1 else none

/-- The row sum it would have written over an old one. -/
def EngCmd.newSum (c : EngCmd) (i : Nat) (old : Quad) : Option Nat :=
  if c.rowKnown i then
    let mx := if c.sweep = 2 then c.maxima.getD i 0 else (c.newMax i).getD 0
    some (c.rowSum c.apValues (c.rowScores c.apValues i).1 mx (if apOvw (leNat c.block) then axaZero else old) []).1.toNat
  else none

/-- Each byte of a slot of n bytes holds its old or its new value (R365), a free choice; a new value that depends on what could not be read is free (log 29). -/
def State.apEither (s : State) (c : EngCmd) (a n : Nat) (new : Option Nat) : State :=
  let (k, s1) := s.draw
  let (s2, x) := match new with | some v => (s1, natLe n v) | none => s1.freeBytes n
  let old := s2.apBytes c.ref.tag a n
  s2.apPut c a ((old.zip x).zipIdx.map fun y => if bit (Config.freeNat k) y.2 then y.1.2 else y.1.1)

/-- An abort of a paused APIPE (R365): its O cells hold free values, and the slots of the maxima and row sums that a sweep was still to write hold, byte by byte,
their old or new values; the flags raised so far stand in its record, with others that are free. -/
def State.apAbort (s : State) (tag : Nat) (c : EngCmd) : State :=
  let b := leNat c.block
  let (k, s1) := s.draw
  let w := (Config.freeWord k).toNat
  let v := c.abortView
  let rows := List.range (apNq b)
  let s2 := if apS2 b then s1.apFreeCells tag c else s1
  let s3 := if c.sweep = 1 then rows.foldl (fun s i => s.apEither c (apMaddr b + 4 * i) 4 (v.newMax i)) s2 else s2
  let s4 := if apS2 b then
      rows.foldl (fun s i =>
        let a := apLaddr b + 16 * i
        s.apEither c a 16 (v.newSum i (if c.sweep = 2 then c.sums.getD i axaZero else BitVec.ofNat 128 (leNat (s.apBytes c.ref.tag a 16))))) s3
    else s3
  s4.apFinish tag c (c.abortEmpty (w / 32)) (c.flags ||| w % 32) acAborted

/-- APIPE_START (R364). -/
def execApipeStart (core : Nat) (s : State) : Result := .next (s.apStart core)

/-- APIPE_COMPLETE (R367). -/
def execApipeComplete (core : Nat) (s : State) : Result := .next (s.apDone core)

end Sys2Proof.Machine
end

