-- ==== Sys2Proof/Machine/System.lean ====
section
/-! DEFINITION. The SYS sub-ops (21 R372 to R385): traps and the return from one, system registers, FPARK, the pinned
windows, breakpoints, cache and translation invalidation, the selector and the cycle counter. -/

namespace Sys2Proof.Machine

/-! ## System registers (21 Table 21.2) -/

/-- A number that SRD may read in a mode. -/
def srdLegal (n : Nat) (sup : Bool) : Bool :=
  decide (n ≤ 0x07) || (decide (0x10 ≤ n) && decide (n ≤ 0x2F)) || (sup && (n == 0x08 || (decide (0x30 ≤ n) && decide (n ≤ 0x3B))))

/-- A number that SWR may write in a mode. -/
def swrLegal (n : Nat) (sup : Bool) : Bool :=
  decide (n ≤ 0x04) || (decide (0x10 ≤ n) && decide (n ≤ 0x2F)) ||
  (sup && (n == 0x06 || (decide (0x30 ≤ n) && decide (n ≤ 0x3C))))

/-- Low and high word of a 64-bit register. -/
def lowWord (v : DWord) : Word := v.setWidth 32
def highWord (v : DWord) : Word := v.extractLsb' 32 32

/-- Replace the low or the high word of a 64-bit register. -/
def withLow (v : DWord) (w : Word) : DWord := highWord v ++ w
def withHigh (v : DWord) (w : Word) : DWord := w ++ lowWord v

/-- The value of a system register (Table 21.2). -/
def State.sysRead (s : State) (r : Ref) (p : Plot) (t : Thread) (n : Nat) : Word :=
  match n with
  | 0x00 => t.tstat
  | 0x01 => t.rmode.setWidth 32
  | 0x02 => t.xa.signExtend 32
  | 0x03 => lowWord t.tlsb
  | 0x04 => highWord t.tlsb
  | 0x05 => BitVec.ofNat 32 (r.tag % 2 ^ 20)
  | 0x06 => t.spd
  | 0x07 => BitVec.ofNat 32 (s.device % 1024 * 2 ^ 16 + p.core % 128)
  | 0x08 => (s.core p.core).sel
  | 0x30 => lowWord t.epc
  | 0x31 => highWord t.epc
  | 0x32 => t.ecode
  | 0x33 => t.einfo
  | 0x34 => lowWord t.eaddr
  | 0x35 => highWord t.eaddr
  | 0x36 => t.ewb
  | 0x37 => t.eix
  | _ =>
    if 0x38 ≤ n then t.scr.getD (n - 0x38) 0
    else match tget s.ctxs p.ctx with
      | some c => if n < 0x20 then c.lpwb.getD (n - 0x10) 0 else c.lpwc.getD (n - 0x20) 0
      | none => 0

/-- A thread's system register written (Table 21.2): TSTAT keeps SUP and its reserved bits read 0. -/
def Thread.sysWrite (t : Thread) (n : Nat) (v : Word) : Thread :=
  match n with
  | 0x00 => { t with tstat := (t.tstat &&& 0x100) ||| (v &&& 0x7F) }
  | 0x01 => { t with rmode := v.setWidth 2 }
  | 0x02 => { t with xa := v.setWidth 12 }
  | 0x03 => { t with tlsb := withLow t.tlsb v }
  | 0x04 => { t with tlsb := withHigh t.tlsb v }
  | 0x06 => { t with spd := v }
  | 0x30 => { t with epc := withLow t.epc (v &&& 0xFFFFFFFC) }
  | 0x31 => { t with epc := withHigh t.epc v }
  | 0x32 => { t with ecode := v &&& 0x7FFF }
  | 0x33 => { t with einfo := v }
  | 0x34 => { t with eaddr := withLow t.eaddr v }
  | 0x35 => { t with eaddr := withHigh t.eaddr v }
  | 0x36 => { t with ewb := v }
  | 0x37 => { t with eix := v }
  | _ => if 0x38 ≤ n then { t with scr := t.scr.set (n - 0x38) v } else t

/-- An EWB value that WB may take (03 R46, 21 Table 21.2). -/
def Thread.wbOk (t : Thread) (v : Word) : Bool := v.toNat % 4 == 0 && decide (v.toNat + 4 ≤ t.ra)

/-- SRD in one thread (R381). -/
def srdLane (d : Reg) (n : Nat) : LaneFn := fun s r p t =>
  if !srdLegal n t.sup then (s, .trap trapIllegal 0 0)
  else if !t.inRanges [(d, 1)] then (s, .trap trapRange 0 0)
  else (s.setThread r (t.wr32 d (s.sysRead r p t n)), .next)

/-- SWR in one thread (R381). A write of LPWBn while the window is armed leaves what its old BASE pinned as it is: the spec does not say that such lines
become ordinary before FADE reaches 0 or the window is written off (DESIGN CHOICE, log 65). -/
def swrLane (a : Reg) (n : Nat) : LaneFn := fun s r p t =>
  if !swrLegal n t.sup then (s, .trap trapIllegal 0 0)
  else if !t.inRanges [(a, 1)] then (s, .trap trapRange 0 0)
  else
    let v := t.rd32 (s.env r p) a
    if n = 0x36 ∧ !t.wbOk v then (s, .trap trapRange 0 0)
    else if 0x10 ≤ n ∧ n < 0x20 then (s.modCtx p.ctx fun c => { c with lpwb := c.lpwb.set (n - 0x10) v }, .next)
    else (s.setThread r (t.sysWrite n v), .next)

/-- SRD (R381). -/
def execSrd (d : Reg) (n : Fin 128) (s : State) : Result := .next (runLanes (srdLane d n.val) s)

/-- SWR of a register without a row of its own (R381). -/
def execSwr (a : Reg) (n : Fin 128) (s : State) : Result := .next (runLanes (swrLane a n.val) s)

/-- FPARK written in one thread (R378): one step records the handler's fault, restores what ERET restores and parks. -/
def fparkLane (a : Reg) : LaneFn := supLane fun s r p t =>
  if !t.inRanges [(a, 1)] then (s, .trap trapRange 0 0)
  else
    let v := t.rd32 (s.env r p) a
    let f := s.recOf r 4 accNone (v.toNat % 256) t.eaddr t.epc 0
    ((s.setThread r t.returnTrap).parkThread r f t.epc, .left)

/-- SWR of FPARK (R378). -/
def execSwrFpark (a : Reg) (s : State) : Result := .next (runLanes (fparkLane a) s)

/-! ## Pinned windows (09 R193) -/

/-- A window is armed. -/
def armed (w : Word) : Bool := bits w.toNat 31 24 != 0 && bits w.toNat 19 0 != 0

/-- The lines of a window become ordinary ones, unless another pins them (09 R193). -/
def State.releaseWin (s : State) (ctx n : Nat) : State :=
  { s with llc := s.llc.map fun (y, (e : LlcLine)) => (y, { e with win := e.win.filter fun w => w != (ctx, n) }) }

/-- Write LPWCn (09 Table 9.6): bits [23:20] read 0, and the window's millisecond begins (R193). A write that does not arm the window releases it at once: SIZE = 0
by R193, FADE = 0 with a SIZE that is kept as the model's choice; one that arms it anew, be SIZE smaller, leaves what it pins (DESIGN CHOICE, log 65). -/
def State.writeLpwc (s : State) (ctx n : Nat) (v : Word) : State :=
  let s1 := s.modCtx ctx fun c =>
    { c with lpwc := c.lpwc.set n (v &&& 0xFF0FFFFF), lpwHit := c.lpwHit.set n false, lpwTick := c.lpwTick.set n s.time }
  if armed v then s1 else s1.releaseWin ctx n

/-- LPWCn written in one thread. -/
def lpwcLane (a : Reg) (n : Nat) : LaneFn := fun s r p t =>
  if !t.inRanges [(a, 1)] then (s, .trap trapRange 0 0)
  else (s.writeLpwc p.ctx n (t.rd32 (s.env r p) a), .next)

/-- SWR of LPWCn (09 R193). -/
def execSwrLpwc (a : Reg) (n : Fin 16) (s : State) : Result := .next (runLanes (lpwcLane a n.val) s)

/-! ## Traps, breakpoints, the return from a trap -/

/-- TRAP in one thread (R379). -/
def trapLane (i : Nat) : LaneFn := fun s _ _ _ => (s, .trap trapTrap i 0)

/-- BKPT in one thread (R379): it stops with BKS = 1 and traps otherwise. -/
def bkptLane (i : Nat) : LaneFn := fun s _ p _ =>
  match tget s.ctxs p.ctx with
  | some c => (s, if c.bks then .stop i else .trap trapBkpt i 0)
  | none => (s, .trap trapBkpt i 0)

/-- ERET in one thread (R376). -/
def eretLane : LaneFn := supLane fun s r _ t => (s.setThread r t.returnTrap, .file t.epc)

/-- TRAP (R379). -/
def execTrap (i : Fin 128) (s : State) : Result := .next (runLanes (trapLane i.val) s)

/-- BKPT (R379). -/
def execBkpt (i : Fin 128) (s : State) : Result := .next (runLanes (bkptLane i.val) s)

/-- ERET (R376). -/
def execEret (s : State) : Result := .next (runLanes eretLane s)

/-! ## Caches and translations -/

/-- The physical address CINV and CWB act on: none where translation fails or the page is a VIEW page (R383). -/
def State.cacheTarget (s : State) (core ctx va : Nat) : State × Option Nat :=
  match s.xlate core ctx va accLoad with
  | (s, .error _) => (s, none)
  | (s, .ok e) => (s, if e.view then none else some (e.pa va))

/-- Write the line's dirty sectors back to the home LLC and invalidate it in the die's L2 (R383). -/
def State.invL2 (s : State) (core pa : Nat) : State :=
  let y := lineOf pa
  let key := y * 4 + dieOf core % 4
  match tget s.l2 key with
  | none => s
  | some x =>
    let s1 := if x.dirty = 0 then s else s.writeBack y
    ({ s1 with l2 := tdel s1.l2 key } : State).leaveDir y (dieOf core % 4)

/-- Write every dirty copy of a line back to HBM; every copy stays (R383). -/
def State.cleanLine (s : State) (pa : Nat) : State :=
  let s1 := s.recall (lineOf pa)
  { s1 with llc := tmod s1.llc (lineOf pa) fun e => { e with dirty := false } }

/-- CINV and CWB in one thread: counted in ST until done. -/
def cacheLane (a : Reg) (f : State → Nat → Nat → State) : LaneFn := fun s r p t =>
  if !t.inRanges [(a, 2)] then (s, .trap trapRange 0 0)
  else
    let va := (t.rd64 (s.env r p) a).toNat
    match s.cacheTarget (s.coreOf r) p.ctx va with
    | (s, none) => (s, .next)
    | (s, some pa) => ((f s (s.coreOf r) pa).countSync r t va, .next)

/-- CINV (R383). The L2 tags of the model hold this device's own lines (log 42). -/
def execCinv (a : Reg) (l1 : Bool) (l2 : Bool) (s : State) : Result :=
  .next (runLanes (cacheLane a fun s core pa =>
    let s1 := if l1 then s.dropL1Line core pa else s
    if l2 && devOf pa == s.device then s1.invL2 core pa else s1) s)

/-- CWB (R383). -/
def execCwb (a : Reg) (s : State) : Result := .next (runLanes (cacheLane a fun s _ pa => if devOf pa = s.device then s.cleanLine pa else s) s)

/-- Invalidate translations of a context on the device: of the page that holds an address, or all (R384); and every view read
buffer. -/
def State.invTranslations (s : State) (ctx va : Nat) (all : Bool) : State :=
  ({ s with cores := s.cores.map fun (c, k) =>
      (c, { k with tb := k.tb.filter fun e =>
        !(e.ctx == ctx && (all || (decide (e.vbase ≤ va) && decide (va < e.vbase + e.size)))) }) } : State).dropAllVbuf

/-- TLBINV in one thread (R384). -/
def tlbinvLane (a : Reg) (all : Bool) : LaneFn := supLane fun s r p t =>
  if !t.inRanges [(a, 2)] then (s, .trap trapRange 0 0)
  else (s.invTranslations p.ctx (t.rd64 (s.env r p) a).toNat all, .next)

/-- TLBINV (R384). -/
def execTlbinv (a : Reg) (all : Bool) (s : State) : Result := .next (runLanes (tlbinvLane a all) s)

/-- A selector value: 0 reads as 1 (01 R25, 21 R385). -/
def seedOf (v : Word) : Word := if v = 0 then 1 else v

/-- SEEDSET in one thread (R385). -/
def seedsetLane (a : Reg) : LaneFn := supLane fun s r p t =>
  if !t.inRanges [(a, 1)] then (s, .trap trapRange 0 0)
  else (s.modCore (s.coreOf r) fun k => { k with sel := seedOf (t.rd32 (s.env r p) a) }, .next)

/-- SEEDSET (R385). -/
def execSeedset (a : Reg) (s : State) : Result := .next (runLanes (seedsetLane a) s)

/-- CLKRD (R382). -/
def execClkrd (d : Reg) (s : State) : Result :=
  .next (runPure gAll [(d, 2)] (fun e t => t.wr64 d (BitVec.ofNat 64 e.cycle)) s)

end Sys2Proof.Machine
end

