-- ==== Sys2Proof/Machine/Completion.lean ====
section
/-! DEFINITION. How accesses come to their end: loads that return and stores acknowledged (13 R255, 11 R223), walks and the
directories (09 R178, R194 to R197), pinned windows (R193), the gleaner (R212 to R216, 10 R218) and the HBM-side unit
(R185), reservations (R198), and landing names (13 R291 to R297). -/

namespace Sys2Proof.Machine

/-! ## Requests -/

/-- The words a request writes to its destination (13 R262, R265, R271, R272): an SC's status, with 0 above it for a pair. -/
def reqWords (op : ReqOp) (n : Nat) (v : Quad) : List Word :=
  match op with
  | .load sz => loadWords sz v
  | .sc ok => (if ok then 0 else 1) :: List.replicate (n - 1) 0
  | _ => (words128 v).take n

/-- A register of a thread that an outstanding load or atomic will write (13 R255). -/
def State.outstanding (s : State) (r : Ref) (x n : Nat) : Bool :=
  s.reqs.any fun (_, q) => q.ref == r && (match q.dst with | .reg y => decide (y < x + n) && decide (x < y + q.words) | _ => false)

/-- Deliver a value to a bound register: the register, its landing state, and what an LWAIT that reads it synchronises with. -/
def Thread.deliver (t : Thread) (x : Nat) (wide : Bool) (v : DWord) (src : Option SyncSrc) : Thread :=
  let u := (if wide then t.setRegs x (words64 v) else t.setReg x (v.setWidth 32)).setLanding x .delivered
  { u with landSrc := match src with | some y => tput u.landSrc x y | none => tdel u.landSrc x }

/-- A LAND that its slot has accepted is delivered when no load to the bound register is outstanding (13 R291). -/
def State.deliverSlot (s : State) (c n : Nat) : State :=
  let x := (s.core c).slot n
  if x.state = .accepting ∧ !s.outstanding x.owner x.reg (if x.wide then 2 else 1) then
    (s.modThread x.owner fun t => t.deliver x.reg x.wide x.value x.src).putSlot c n x.freed
  else s

/-- The accepting slots of a thread, each with its core: its names may be of a core that it was swapped out of (13 R287). -/
def State.acceptingSlots (s : State) (r : Ref) : List (Nat × Nat) :=
  (s.cores.map fun (c, k) => (k.slots.filter fun (_, x) => x.state == .accepting && x.owner == r).map fun x => (c, x.1)).flatten

/-- The deliveries that waited for a thread's loads. -/
def State.deliverWaiting (s : State) (r : Ref) : State := (s.acceptingSlots r).foldl (fun s x => s.deliverSlot x.1 x.2) s

/-- Take a request off; what waited for it may go. -/
def State.retire (s : State) (id : Nat) (r : Ref) : State := (({ s with reqs := tdel s.reqs id } : State).deliverWaiting r).sendHeld

/-- Write a request's value and take it off: LD falls (13 R255, R256). An exited thread takes neither value nor flags (07 R167). -/
def State.finishLoad (s : State) (id : Nat) (q : Req) (op : ReqOp) (v : Quad) (flags : Word) : State :=
  (s.modThread q.ref fun t =>
    if t.live then { (t.wrDst q.dst (reqWords op q.words v)).orStat flags with ld := t.ld - 1 } else { t with ld := t.ld - 1 }).retire id q.ref

/-- Take a store or barrier operation off: ST falls. -/
def State.finishStore (s : State) (id : Nat) (q : Req) : State := (s.modThread q.ref fun t => { t with st := t.st - 1 }).retire id q.ref

/-- A request whose miss the directory held is about to be performed: the other core's private page is made shared now (09 R194). -/
def State.settleMiss (s : State) (q : Req) (e : TbEntry) : State :=
  if q.stage = .place ∧ e.home = 0 ∧ !e.priv ∧ (tbFind (s.core q.core).tb q.ctx q.va).isNone then
    match s.walk q.ctx q.va with
    | .leaf p lvl a => if ptePriv p && pteOwn p != q.core then (s.makeShared q.ctx q.va p lvl a).fillTb q.core e else s
    | .bad _ => s
  else s

/-- A store of an instruction that writes a whole line clears the line's poison when it is the last of them (23 R436). -/
def State.clearPoison (s : State) (q : Req) : State :=
  if q.whole && !(s.reqs.any fun (_, x) => x.instr == q.instr && x.whole && lineOf x.pa == lineOf q.pa && decide (q.ref.lane < x.ref.lane) && !x.stage.done) then
    { s with poison := s.poison.filter fun y => y != lineOf q.pa }
  else s

/-- Perform an issued request at its place on this device, with what a read means for the thread (11 R223). -/
def State.performAt (s : State) (q : Req) : State × Performed :=
  match q.stage, q.view with
  | .bank tag off, _ =>
    let (s1, x) := s.performSpad q.ref tag off q.op q.bytes q.data q.rmode q.src
    (s1.afterAccess q.core q.ref q.op q.acq q.scope q.cls x.tags, x)
  | _, (_, e) :: _ =>
    let (s1, x) := (s.settleMiss q e).performOrd q.core q.ref e q.pa q.op q.va q.bytes q.data q.rmode q.acq q.src
    ((s1.clearPoison q).afterAccess q.core q.ref q.op q.acq q.scope q.cls x.tags, x)
  | _, [] => (s, Performed.plain false)

/-- The bytes of a value that another device returned: of the 4 bytes that a smaller read asks for (23 Table 23.1). -/
def wireValue (pa n : Nat) (v : Quad) : Quad := if n < 4 then v >>> (8 * (pa % 4)) else v

/-- A value that another device returns for a request, with the sources of the writes it returns (13 R266 to R268, R272; 11 R232): an SC's status, an atomic's
flags. -/
def State.remoteReturn (s : State) (id : Nat) (q : Req) (v : Quad) (srcs : List WireSrc) : State :=
  let w := if q.dst?.any (fun d => d != s.locked.hostDev) then wireValue q.pa q.bytes v else v
  let op := match q.op with | .sc _ => ReqOp.sc (v == 0) | o => o
  let fl := match q.op with | .atom aop x => (atomNew aop q.bytes (v.toNat % 2 ^ (8 * q.bytes)) x.toNat q.rmode.toNat).2 | _ => 0
  (s.afterAccess q.core q.ref q.op q.acq q.scope q.cls (srcs.map WireSrc.sync)).finishLoad id q op w (BitVec.ofNat 32 fl)

/-- Kind of access of a request (21 Table 21.7). -/
def ReqOp.acc : ReqOp → Nat
  | .load _ => accLoad
  | .store => accStore
  | .atom _ _ => accAtomic
  | .lr => accLR
  | .sc _ => accSC
  | _ => accNone

/-- An outstanding request ends without being performed (23 R410, R413): its counter falls and its thread parks at the instruction that made it. -/
def State.cutReq (s : State) (id : Nat) (q : Req) (code : Nat) : State :=
  let s1 := (s.modThread q.ref fun t => { t with ld := t.ld - q.op.countsLd.toNat, st := t.st - q.op.countsSt.toNat }).retire id q.ref
  match s1.thread? q.ref with
  | none => s1
  | some t =>
    if t.live then
      ((s1.unfile q.ref).parkThread q.ref (s1.recOf q.ref 0 q.op.acc code (BitVec.ofNat 64 q.va) q.pc 0) q.pc).deliverRecs q.ctx
    else s1

/-- A request that is on its way to another device can be answered: it has been sent, and its turn has come. -/
def State.answerable (s : State) (id dev : Nat) (via : Via) (q : Req) : Bool := !s.cut dev && via != .held && s.mayPerform id q

/-- An LR or SC that is performed on another device gives up the thread's reservation here (09 R198, 13 R272). -/
def State.dropsReservation (s : State) (q : Req) : State :=
  match q.op with
  | .lr => s.loseReservation q.ref
  | .sc _ => s.loseReservation q.ref
  | _ => s

/-- A relay refuses a request of class S, which is sent again as class A (23 R428). -/
def State.sendAsA (s : State) (id dev : Nat) (via : Via) : State :=
  match via with
  | .port _ (some _) => (s.setVia id dev (s.viaA dev)).sendOn (s.viaA dev)
  | _ => s

/-- LOAD_RETURN (13 R255): a load, LR, SC or atomic writes its destination and lowers LD. One issued to this device is performed at its place first, when its
turn has come. value is what another device or a relay answered. -/
def State.loadReturn (s : State) (id : Nat) (value : WireValue) : State :=
  match tget s.reqs id with
  | none => s
  | some q =>
    if !q.op.countsLd then s
    else match q.stage with
      | .performed v => s.finishLoad id q q.op v q.flags
      | .remote dev via =>
        if !s.answerable id dev via q then s
        else match value with
          | .fault c => s.cutReq id q c
          | .relayRefused => s.sendAsA id dev via
          | .value v srcs => (s.dropsReservation q).remoteReturn id q v srcs
      | .gleaner => s
      | .hbm => s
      | _ =>
        if s.mayPerform id q then let (s1, x) := s.performAt q; s1.finishLoad id q (q.op.withOutcome x.stored) x.value (BitVec.ofNat 32 x.flags)
        else s

/-- STORE_ACK (11 R223): a store is acknowledged and ST falls. One issued to this device is performed at its place first, when its turn has come; a barrier
operation with the others that wait at the barrier (11 R244); a store to another device is performed there, unless it answers a fault; a FENCE that
waited completes (11 R236). -/
def State.storeAck (s : State) (id : Nat) (answer : WireAck) : State :=
  match tget s.reqs id with
  | none => s
  | some q =>
    match q.op, q.stage with
    | .fence m, _ => if s.fenceReady id q.ref m then (s.fenceDone q.ref q.scope m).retire id q.ref else s
    | op, .performed _ => if op.countsSt then s.finishStore id q else s
    | .store, .remote dev via =>
      if !s.answerable id dev via q then s
      else match answer with
        | .fault c => s.cutReq id q c
        | .relayRefused => s.sendAsA id dev via
        | .done => (s.sendWrite q.pa (natLe q.bytes q.data.toNat)).finishStore id q
    | .store, .gleaner => s
    | .store, .hbm => s
    | .store, _ => if s.mayPerform id q then (s.performAt q).1.finishStore id q else s
    | op, .bank tag off =>
      if op.barKind.isSome && s.mayPerform id q then (s.settleBar tag off).finishStore id q else s
    | _, _ => s

/-! ## The gleaner and the HBM-side unit -/

/-- The line of the view read buffer that holds a shadow address (09 R187). -/
def vbufFind : List L1Line → Nat → Nat → Option L1Line
  | [], _, _ => none
  | x :: t, ctx, a => if x.ctx = ctx ∧ x.addr = a / 128 * 128 then some x else vbufFind t ctx a

/-- A line of a view as the base bytes now are, with their sources. -/
def State.viewLineOf (s : State) (ctx a : Nat) (bytes : List Byte) (l : List (Nat × TbEntry)) : L1Line :=
  { ctx := ctx, addr := a / 128 * 128, bytes := bytes
    tags := (l.zipIdx.filterMap fun ((b, e), i) => ((s.placeTags e (e.pa b) 1).head?).map fun x => (i, x)) }

/-- Put a line into a core's view read buffer of 64 lines. -/
def State.fillVbuf (s : State) (core : Nat) (x : L1Line) : State := s.modCore core fun k => { k with vbuf := (x :: k.vbuf).take 64 }

/-- The whole line of a view, where every byte of it can be read. -/
def State.viewLine (s : State) (core ctx va : Nat) : State × Option L1Line :=
  match s.xlate core ctx va accLoad with
  | (s, .error _) => (s, none)
  | (s, .ok e) =>
    match s.viewEnts core ctx e.tid with
    | (s, .error _) => (s, none)
    | (s, .ok ve) =>
      match s.viewBytes core ctx ve accLoad (e.shadow (va / 128 * 128)) 128 with
      | (s, .error _) => (s, none)
      | (s, .ok l) =>
        let x := s.viewLineOf ctx va [] l
        let (s, b) := s.viewRead l
        (s, some { x with bytes := b })

/-- A performed request: its value, and what reading it means for the thread. -/
def State.performedView (s : State) (id : Nat) (q : Req) (v : Nat) (flags : Nat) (tags : List SyncSrc) : State :=
  (s.modReq id fun q => { q with stage := .performed (BitVec.ofNat 128 v), flags := BitVec.ofNat 32 flags }).afterAccess q.core q.ref q.op q.acq
    q.scope q.cls tags

/-- A byte of a view access that is to be read or written: its place in the access, its address and its translation. -/
abbrev GleanByte := Nat × (Nat × TbEntry)

/-- The base sector of a byte. -/
def gleanSector (x : GleanByte) : Nat := x.2.2.pa x.2.1 / 32

/-- The granule of the access that a byte belongs to. -/
def Req.granuleOf (q : Req) (x : GleanByte) : Nat := (q.glean.off + x.1) / granule (entFmt q.glean.ents.b)

/-- The bytes that the gleaner has still to read or write. -/
def Req.bytesLeft (q : Req) : List GleanByte := (q.view.zipIdx.map fun (x, i) => (i, x)).filter fun x => (tget q.glean.got x.1).isNone

/-- What the gleaner's next sub-request takes (09 R212): the bytes of the first base sector left, and of the elements that reach into it, each of which is read or
written at once (R214). -/
def Req.nextPart (q : Req) : List GleanByte :=
  match q.bytesLeft with
  | [] => []
  | x0 :: _ =>
    let here := (q.bytesLeft.filter fun x => gleanSector x == gleanSector x0).map q.granuleOf
    q.bytesLeft.filter fun x => here.contains (q.granuleOf x)

/-- A request with bytes and their sources gleaned. -/
def Req.take (q : Req) (part : List GleanByte) (l : List Byte) (tags : List (List SyncSrc)) : Req :=
  { q with glean := { q.glean with
      got := (part.zip l).foldl (fun t x => tput t x.1.1 x.2) q.glean.got
      tags := (part.zip tags).foldl (fun t x => tput t x.1.1 x.2) q.glean.tags } }

/-- The sources of bytes at their places; of bytes of another device those that it reports. -/
def State.partTags (s : State) (part : List GleanByte) : State × List (List SyncSrc) :=
  match part.find? fun x => s.away x.2.2 (x.2.2.pa x.2.1) with
  | none => (s, part.map fun x => s.placeTags x.2.2 (x.2.2.pa x.2.1) 1)
  | some y =>
    let (s1, far) := s.freeTags (y.2.2.pa y.2.1)
    (s1, part.map fun x => if s.away x.2.2 (x.2.2.pa x.2.1) then far else s.placeTags x.2.2 (x.2.2.pa x.2.1) 1)

/-- The same base byte among those that a request has gleaned: its value and sources. -/
def Req.gleanedAt (x : Req) (pa : Nat) : Option (Byte × List SyncSrc) :=
  x.view.zipIdx.findSome? fun ((a, e), i) =>
    if e.pa a = pa then (tget x.glean.got i).map fun b => (b, (tget x.glean.tags i).getD []) else none

/-- An outstanding read of the same sector with which a gleaner's read can combine (10 R218): at the same slice; no write to the sector has been accepted
there since, nor has the reading core seen anything later than it (11 R225); and it read the same bytes. -/
def State.combinesWith (s : State) (id : Nat) (q : Req) (part : List GleanByte) (i : Nat) (x : Req) : Option (Nat × List (Byte × List SyncSrc)) :=
  match part with
  | [] => none
  | y :: _ =>
    let sec := gleanSector y
    match tget x.glean.readAt sec with
    | none => none
    | some k =>
      let l := part.filterMap fun z => x.gleanedAt (z.2.2.pa z.2.1)
      let accepted := s.reqs.any fun (j, w) =>
        decide (j < id) && w.op.writes && w.stage == .gleaner && (w.blind || w.sectors.contains sec) && (homeOf w.pa).llc == (homeOf q.pa).llc
      if i ≠ id ∧ !q.acq ∧ !accepted ∧ (homeOf x.pa).llc = (homeOf q.pa).llc ∧ part.all (fun z => gleanSector z == sec) ∧
          (s.core q.core).vbufAt ≤ k ∧ l.length = part.length then some (k, l) else none

/-- What the gleaner's read of a part gives, with its draw: the data and place of an outstanding read where the two combine (10 R218, log 49), else the bytes as
they are. -/
def State.readPart (s : State) (id : Nat) (q : Req) (part : List GleanByte) : State × Nat × List Byte × List (List SyncSrc) :=
  let (k, s) := s.draw
  match (if Config.combines k then s.reqs.findSome? fun (i, x) => s.combinesWith id q part i x else none) with
  | some (k', l) => (s, k', l.map Prod.fst, l.map Prod.snd)
  | none =>
    let (s1, tags) := s.partTags part
    let (s2, l) := s1.viewRead (part.map Prod.snd)
    (s2, k, l, tags)

/-- The fault with which another device answers a sub-request (23 R413, log 18). -/
def State.partAnswer (s : State) (part : List GleanByte) : State × Option Nat :=
  s.viewAnswer (part.map Prod.snd)

/-- A gleaner's read has been returned to a core: what the core reads next is no older (11 R225). -/
def State.sawRead (s : State) (core k : Nat) : State := s.modCore core fun c => { c with vbufAt := max c.vbufAt k }

/-- A write of base sectors at a gleaner ends the combining of reads there (10 R218). -/
def State.endCombining (s : State) (part : List GleanByte) : State :=
  let secs := part.map gleanSector
  { s with reqs := s.reqs.map fun (i, (x : Req)) => (i, { x with glean := { x.glean with readAt := x.glean.readAt.filter fun y => !secs.contains y.1 } }) }

/-- The bytes that a request has gleaned, in shadow order, and their sources. -/
def Req.gleaned (q : Req) : List Byte := q.view.zipIdx.map fun x => (tget q.glean.got x.2).getD 0
def Req.gleanTags (q : Req) : List SyncSrc := ((q.glean.tags.map Prod.snd).flatten).eraseDups

/-- A view load has read every byte: it is performed, and the line is kept in the view read buffer (09 R187). -/
def State.gleanEnd (s : State) (id : Nat) (q : Req) : State :=
  let (s1, line) := s.viewLine q.core q.ctx q.va
  let s2 := match line with | some x => s1.fillVbuf q.core x | none => s1
  s2.performedView id q (leNat q.gleaned) 0 q.gleanTags

/-- The next part of a view load (09 R187, R212): from the view read buffer when the line is there, no acquire asks past it, and it has not been evicted (log 7);
else the next base sector. The core's L1 keeps no older copy of what it saw (11 R225). -/
def State.gleanLoad (s : State) (id : Nat) (q : Req) : State :=
  let hit := if q.acq || !q.glean.got.isEmpty then none else vbufFind (s.core q.core).vbuf q.ctx q.va
  let (k, s) := if hit.isSome then s.draw else (0, s)
  match (if Config.lineKept k then hit else none) with
  | some x => (s.dropViewLines q.core q.view).performedView id q (leNat (x.part (q.va % 128) q.bytes)) 0 (x.partTags (q.va % 128) q.bytes)
  | none =>
    let part := q.nextPart
    let (s1, k, l, tags) := s.readPart id q part
    let q1 := q.take part l tags
    let q2 := { q1 with glean := { q1.glean with readAt := (part.map gleanSector).foldl (fun t x => tput t x k) q1.glean.readAt } }
    let s2 := ((s1.dropViewLines q.core (part.map Prod.snd)).sawRead q.core k).modReq id fun _ => q2
    if q2.bytesLeft.isEmpty then s2.gleanEnd id q2 else s2

/-- The next part of a view store: its bytes of the next base sector are written (09 R212, R214). -/
def State.gleanStore (s : State) (id : Nat) (q : Req) : State :=
  let part := q.nextPart
  let l := part.map fun x => (natLe q.bytes q.data.toNat).getD x.1 0
  let s1 := ((s.viewWrite (some q.ref) q.src (part.map Prod.snd) l).dropViewLines q.core (part.map Prod.snd)).dropVbuf q.core
  let q1 := q.take part l []
  let s2 := (s1.endCombining part).modReq id fun _ => q1
  if q1.bytesLeft.isEmpty then s2.performedView id q1 0 0 [] else s2

/-- A gleaner's sub-requests of class A find a port to each device they go to (09 R215, 23 R406, R410). -/
def State.viewPorts (s : State) (l : List (Nat × TbEntry)) : Bool := l.all fun (a, e) => !s.noPort e (e.pa a)

/-- The gleaner reads the index elements of an access in its turn, and knows its base bytes then (09 R212; log 63): a fault of them parks the thread late, as one
that another device answers does. -/
def State.gleanIndex (s : State) (id : Nat) (q : Req) : State :=
  match s.viewBytes q.core q.ctx q.glean.ents q.op.acc q.glean.off q.bytes with
  | (s, .error c) => if c = fcNoPort then s else s.cutReq id q c
  | (s, .ok l) => s.modReq id fun q => { q with view := l, sectors := viewSectorsOf l, blind := false }

/-- A request stands at a gleaner and its turn has come. -/
def State.gleanReady (s : State) (id : Nat) (q : Req) : Bool := q.stage == .gleaner && s.mayPerform id q

/-- GLEAN (09 R212): the gleaner goes on with a view load or store, in its turn: the index elements, then one base sector after the other. -/
def State.glean (s : State) (id : Nat) : State :=
  match tget s.reqs id with
  | none => s
  | some q =>
    if !s.gleanReady id q then s
    else match q.op with
      | .load _ =>
        if q.blind then s.gleanIndex id q
        else if !s.viewPorts (q.nextPart.map Prod.snd) then s
        else match s.partAnswer q.nextPart with
          | (s, some c) => s.cutReq id q c
          | (s, none) => s.gleanLoad id q
      | .store =>
        if q.blind then s.gleanIndex id q
        else if !s.viewPorts (q.nextPart.map Prod.snd) then s
        else match s.partAnswer q.nextPart with
          | (s, some c) => s.cutReq id q c
          | (s, none) => s.gleanStore id q
      | _ => s

/-- The combining unit applies an atomic to a base element (09 R216). -/
def State.combine (s : State) (id : Nat) (q : Req) (aop : Nat) (v : Quad) : State :=
  let part := q.nextPart
  let (s, tags) := s.partTags part
  let (s1, l) := s.viewRead q.view
  let (new, f) := atomNew aop q.bytes (leNat l) v.toNat q.rmode.toNat
  let s2 := match new with | some x => s1.viewWrite (some q.ref) q.src q.view (natLe q.bytes x) | none => s1
  (((s2.dropViewLines q.core q.view).dropVbuf q.core).endCombining part).performedView id q (leNat l) f tags.flatten.eraseDups

/-- VIEW_ATOMIC (09 R216): the combining unit goes on with an atomic, in its turn: the index element, then the base element. -/
def State.viewAtomic (s : State) (id : Nat) : State :=
  match tget s.reqs id with
  | none => s
  | some q =>
    if !s.gleanReady id q then s
    else match q.op with
      | .atom aop v =>
        if q.blind then s.gleanIndex id q
        else if !s.viewPorts q.view then s
        else match s.partAnswer q.nextPart with
          | (s, some c) => s.cutReq id q c
          | (s, none) => s.combine id q aop v
      | _ => s

/-- FARAT_ATOMIC (09 R185): the HBM-side unit performs an access on a far-atomic page, in its turn. -/
def State.faratAtomic (s : State) (id : Nat) : State :=
  match tget s.reqs id with
  | none => s
  | some q =>
    if q.stage ≠ .hbm ∨ !s.mayPerform id q then s
    else
      let (s1, x) := s.performAt q
      s1.modReq id fun q => { q with op := q.op.withOutcome x.stored, stage := .performed x.value, flags := BitVec.ofNat 32 x.flags }

/-! ## Walks and directories -/

/-- PAGE_WALK (09 R178): a walker completes a walk for a core, which may claim the page, and fills its buffer; a core walks for a page that its buffer
does not hold (R179). -/
def State.pageWalk (s : State) (core ctx va : Nat) : State :=
  if core < 128 && (tbFind (s.core core).tb ctx va).isNone then (s.walkFor core ctx va).1 else s

/-- DIRECTORY_MAKE_SHARED (09 R194): a core misses on a page that is another core's own, whose stores to it have been performed. -/
def State.directoryShare (s : State) (core ctx va : Nat) : State :=
  match s.walk ctx va with
  | .leaf p lvl a =>
    if pteHome p = 0 ∧ ptePriv p ∧ pteOwn p ≠ core ∧ !s.ownerBusy (pteOwn p) (tbOf ctx va p lvl) s.nextId then s.makeShared ctx va p lvl a else s
  | .bad _ => s

/-- The busiest core of a window. -/
def busiest : Tab Nat → Option (Nat × Nat)
  | [] => none
  | (c, n) :: t => match busiest t with | some (d, m) => if m ≤ n then some (c, n) else some (d, m) | none => some (c, n)

/-- A slice of a die is one of a core's near slices (09 R181). -/
def isNear (core die slice : Nat) : Bool := dieOf core == die && slice / 8 == core % 32

/-- A new window (09 R195). -/
def Region.newWindow (e : Region) (now : Nat) : Region := { e with counts := [], start := now }

/-- The key of the second half of a region. -/
def upperKey (k lines : Nat) : Nat := k + lines / 2 * 1024

/-- Split a region into halves that keep its slice, with room made for the new entry (09 Table 9.7). -/
def State.splitRegion (s : State) (k : Nat) (e : Region) : State :=
  let (id, s1) := (s.regionRoom k).draw
  if (tget s1.regionDir k).isNone then s1
  else
    let x := { (e.newWindow s.cycle) with lines := e.lines / 2 }
    { s1 with regionDir := tput (tput s1.regionDir k x) (upperKey k e.lines) { x with made := id } }

/-- Two cores with different near slices each made at least a quarter of the accesses. -/
def twoShares (counts : Tab Nat) (total : Nat) : Bool :=
  counts.any fun (c, n) => decide (total ≤ 4 * n) && counts.any fun (d, m) => c != d && decide (total ≤ 4 * m)

/-- The decision at the end of a window (09 Table 9.7): a migration is noted, a split is made. Only a core of the die has near slices on it. -/
def State.regionDecide (s : State) (k : Nat) (e : Region) : State :=
  let total := e.counts.foldl (fun n x => n + x.2) 0
  let w := e.newWindow s.cycle
  if total < 64 then { s with regionDir := tput s.regionDir k w }
  else match busiest e.counts with
    | some (c, n) =>
      if 3 * total ≤ 4 * n ∧ dieOf c = keyDie k ∧ !isNear c (keyDie k) e.slice then
        { s with regionDir := tput s.regionDir k { w with pending := some (8 * (c % 32) + keySlice k % 8) } }
      else if twoShares e.counts total ∧ 1 < e.lines then s.splitRegion k e
      else { s with regionDir := tput s.regionDir k w }
    | none => { s with regionDir := tput s.regionDir k w }

/-- REGION_WINDOW_END (09 R195): after 4,096 cycles the window of the region that covers a line on a die is judged. -/
def State.regionWindowEnd (s : State) (die line : Nat) : State :=
  match s.regionOf die line with
  | some (k, e) => if e.start + 4096 ≤ s.cycle then s.regionDecide k e else s
  | none => s

/-- REGION_MIGRATE (09 R196): the region's lines move to its new slice. -/
def State.regionMigrate (s : State) (die line : Nat) : State :=
  match s.regionOf die line with
  | none => s
  | some (k, e) =>
    match e.pending with
    | none => s
    | some x => let s1 := s.moveRegion k e x; { s1 with regionDir := tput s1.regionDir k { e with slice := x, pending := none, since := s.cycle } }

/-- The sibling half of a region, with its key. -/
def State.sibling (s : State) (k : Nat) (e : Region) : Option (Nat × Region) :=
  let first := keyFirst k
  let f := if first / e.lines % 2 = 0 then first + e.lines else first - e.lines
  let k' := f * 1024 + k % 1024
  (tget s.regionDir k').map fun x => (k', x)

/-- The sibling with which a region can merge: both have had one slice, and no access, for 10,000 cycles (09 R195). -/
def State.mergeWith (s : State) (k : Nat) (e : Region) : Option (Nat × Region) :=
  (s.sibling k e).filter fun (_, x) =>
    decide (e.lines < 512) && x.lines == e.lines && x.slice == e.slice && e.pending.isNone && x.pending.isNone &&
      decide (max e.last e.since + 10000 ≤ s.cycle) && decide (max x.last x.since + 10000 ≤ s.cycle)

/-- REGION_MERGE (09 R195): sibling halves become one region. -/
def State.regionMerge (s : State) (die line : Nat) : State :=
  match s.regionOf die line with
  | none => s
  | some (k, e) =>
    match s.mergeWith k e with
    | none => s
    | some (k', x) =>
      let m : Region :=
        { (e.newWindow s.cycle) with
          lines := 2 * e.lines, last := max e.last x.last, since := max e.since x.since, made := min e.made x.made }
      { s with regionDir := tput (tdel s.regionDir (max k k')) (min k k') m }

/-! ## Pinned windows (09 R193) -/

/-- The tick of one window: without a hit FADE falls, and at 0 the window is released. -/
def fadeTick (w : Word) (hit : Bool) : Word :=
  if armed w && !hit then
    let f := bits w.toNat 31 24 - 1
    if f = 0 then 0 else BitVec.ofNat 32 (f * 2 ^ 24 + bits w.toNat 19 0)
  else w

/-- Time units in a millisecond. -/
def msec : Nat := 1000 * usec

/-- A millisecond of a window is over. -/
def Ctx.tickDue (c : Ctx) (n now : Nat) : Bool := decide (n < 16) && decide (c.lpwTick.getD n 0 + msec ≤ now)

/-- LPW_FADE_TICK (09 R193): once in each millisecond of the window. -/
def State.lpwTick (s : State) (ctx n : Nat) : State :=
  match tget s.ctxs ctx with
  | none => s
  | some c =>
    if !c.tickDue n s.time then s
    else
      let w := fadeTick (c.lpwc.getD n 0) (c.lpwHit.getD n false)
      let s1 := s.modCtx ctx fun c =>
        { c with lpwc := c.lpwc.set n w, lpwHit := c.lpwHit.set n false, lpwTick := c.lpwTick.set n (c.lpwTick.getD n 0 + msec) }
      if armed w then s1 else s1.releaseWin ctx n

/-! ## Reservations (09 R198) -/

/-- RESERVATION_EXPIRY: 4,096 core cycles after the LR. -/
def State.reservationExpiry (s : State) (r : Ref) : State :=
  match s.reservationOf r with
  | some v => if v.made + 4096 ≤ s.cycle then s.loseReservation r else s
  | none => s

/-! ## Landing names (13 R291 to R297) -/

/-- Answer a LAND: its sender's order may go on. -/
def State.answerLand (s : State) (id : Nat) (ok : Bool) : State :=
  ({ s with lands := tmod s.lands id fun l => { l with answered := some ok } } : State).sendHeld

/-- A live slot that has stood past its EXPIRY for a microsecond has lapsed (R294). -/
def Slot.mustLapse (x : Slot) (now : Nat) : Bool := x.state == .live && decide (x.expiry + usec ≤ now)

/-- A LAND at its slot (R291): accepted, to be delivered when no load to the bound register is outstanding; parked while the owner is swapped
out; or refused. -/
def State.landAtSlot (s : State) (id : Nat) (l : Land) : State :=
  let v := l.name.toNat
  let c := nameCore v
  let n := nameSlot v
  let x := (s.core c).slot n
  if x.mustLapse s.time then (s.lapseSlot c n).answerLand id false
  else if !(slotMatches x v && x.wide == l.wide) then s.answerLand id false
  else
    let y := { x with state := if s.residentRef x.owner then .accepting else .parked, value := l.value, src := l.src }
    ((s.putSlot c n y).deliverSlot c n).answerLand id true

/-- A LAND of a thread has left its source and its turn in its stream has come (11 R228, R235, R247); one of a peer has arrived. -/
def State.landTurn (s : State) (id : Nat) (l : Land) : Bool :=
  match l.ref with
  | some r => s.mayIssue id (l.key r) && !s.streamWaits id (l.key r)
  | none => true

/-- LAND_ARRIVE (R291). A name of another device is answered there (log 18), once the LAND has been sent (23 R406, R410), unless a relay refuses it (R428); one of the host's number or of a
device that is cut off meets no core and is refused. -/
def State.landArrive (s : State) (id : Nat) : State :=
  match tget s.lands id with
  | none => s
  | some l =>
    if l.answered.isSome || !s.landTurn id l then s
    else if l.dev = s.device then s.landAtSlot id l
    else if s.cut l.dev || l.dev == s.locked.hostDev then s.answerLand id false
    else if l.via = .held then s
    else
      let (k, s1) := s.draw
      match l.via with
      | .port _ (some _) => if Config.freeNat k % 3 = 2 then (s1.setLandVia id (s1.viaA l.dev)).sendOn (s1.viaA l.dev) else s1.answerLand id (Config.freeNat k % 3 == 0)
      | _ => s1.answerLand id (Config.freeNat k % 2 == 0)

/-- LAND_ANSWER (R291): ST falls; a refusal sets LANDX and leaves a record with the name, and parks nothing. The
answer to another device goes there. -/
def State.landAnswer (s : State) (id : Nat) : State :=
  match tget s.lands id with
  | none => s
  | some l =>
    match l.answered with
    | none => s
    | some ok =>
      let s1 := { s with lands := tdel s.lands id }
      match l.ref with
      | none => match l.peer with
        | some (d, tag) => s1.answerPeer d tag (if ok then .done else .refused)
        | none => s1
      | some r =>
        let s2 := s1.modThread r fun t => { (if ok then t else t.orStat landxBit) with st := t.st - 1 }
        if ok then s2
        else s2.report (s2.ctxIdOf r) { s2.recOf r 3 accLand 0x20 l.name l.pc 0 with ref := none }

/-- SLOT_LAPSE (R294): a live slot past its expiry becomes free and its register's state lapsed, of a swapped-out owner too. -/
def State.slotLapse (s : State) (core n : Nat) : State :=
  let x := (s.core core).slot n
  if x.state = .live ∧ x.expiry ≤ s.time then s.lapseSlot core n else s

/-! ## The steps -/

/-- LOAD_RETURN (13 R255). -/
def execLoadReturn (id : Nat) (value : WireValue) (s : State) : Result := .next (s.loadReturn id value)

/-- STORE_ACK (11 R223). -/
def execStoreAck (ack : Ack) (s : State) : Result := .next (s.storeAck ack.id ack.answer)

/-- PAGE_WALK (09 R178). -/
def execPageWalk (core : Nat) (ctx : Nat) (va : Nat) (s : State) : Result := .next (s.pageWalk core ctx va)

/-- DIRECTORY_MAKE_SHARED (09 R194). -/
def execDirectoryMakeShared (core : Nat) (ctx : Nat) (va : Nat) (s : State) : Result := .next (s.directoryShare core ctx va)

/-- REGION_WINDOW_END (09 R195). -/
def execRegionWindowEnd (line : DieLine) (s : State) : Result := .next (s.regionWindowEnd line.die line.line)

/-- REGION_MIGRATE (09 R196). -/
def execRegionMigrate (line : DieLine) (s : State) : Result := .next (s.regionMigrate line.die line.line)

/-- REGION_MERGE (09 R195). -/
def execRegionMerge (line : DieLine) (s : State) : Result := .next (s.regionMerge line.die line.line)

/-- LPW_FADE_TICK (09 R193). -/
def execLpwFadeTick (ctx : Nat) (n : Nat) (s : State) : Result := .next (s.lpwTick ctx n)

/-- GLEAN (09 R212). -/
def execGlean (id : Nat) (s : State) : Result := .next (s.glean id)

/-- VIEW_ATOMIC (09 R216). -/
def execViewAtomic (id : Nat) (s : State) : Result := .next (s.viewAtomic id)

/-- FARAT_ATOMIC (09 R185). -/
def execFaratAtomic (id : Nat) (s : State) : Result := .next (s.faratAtomic id)

/-- RESERVATION_EXPIRY (09 R198). -/
def execReservationExpiry (tag : Nat) (tid : Nat) (s : State) : Result := .next (s.reservationExpiry ⟨tag, tid⟩)

/-- LAND_ARRIVE (13 R291). -/
def execLandArrive (id : Nat) (s : State) : Result := .next (s.landArrive id)

/-- LAND_ANSWER (13 R291). -/
def execLandAnswer (id : Nat) (s : State) : Result := .next (s.landAnswer id)

/-- SLOT_LAPSE (13 R294). -/
def execSlotLapse (core : Nat) (slot : Nat) (s : State) : Result := .next (s.slotLapse core slot)

end Sys2Proof.Machine
end

