-- ==== Sys2Proof/Machine/Control.lean ====
section
/-! DEFINITION. Branches and calls (07 R159 to R163), the return stack with its spill area (R161, R162), and the CTL
sub-ops (R164 to R170). -/

namespace Sys2Proof.Machine

/-! ## The return stack -/

/-- Address of a spill slot: TLSB with bits [2:0] ignored plus 8 times the slot number (R161). -/
def Thread.spillAt (t : Thread) (n : Word) : Nat := ((t.tlsb &&& 0xFFFFFFFFFFFFFFF8) + 8 * n.setWidth 64).toNat

/-- The n bytes at a virtual address with their translations: on a VIEW page its base bytes. -/
def State.bytesAt (s : State) (core ctx va n : Nat) : List (Nat × TbEntry) :=
  match (s.xlate core ctx va accLoad).2 with
  | .error _ => []
  | .ok e =>
    if !e.view then (List.range n).map fun i => (va + i, e)
    else match (s.viewEnts core ctx e.tid).2 with
      | .error _ => []
      | .ok ve => match (s.viewBytes 128 ctx ve accLoad (e.shadow va) n).2 with
        | .ok l => l
        | .error _ => []

/-- The same for a thread. -/
def State.slotBytes (s : State) (r : Ref) (va n : Nat) : List (Nat × TbEntry) := s.bytesAt (s.coreOf r) (s.ctxIdOf r) va n

/-- Sources of the n bytes at a virtual address (11 R232), those of this device. -/
def State.vaTags (s : State) (core ctx va n : Nat) : List SyncSrc := (s.bytesAt core ctx va n).flatMap fun (a, e) => s.placeTags e (e.pa a) 1

/-- A byte as the spill area gives it: on another device what this device last stored there (R162). -/
def State.spilled (s : State) (x : Byte) (p : Nat × TbEntry) : Byte := if s.away p.2 (p.2.pa p.1) then (s.lastSent (p.2.pa p.1)).getD x else x

/-- A class-O access of a thread to another device stays at its source behind a remap, or behind held requests of its stream (23 R408, R410). -/
def State.spillHeld (s : State) (r : Ref) (va : Nat) : Bool :=
  match s.homePa (s.coreOf r) (s.ctxIdOf r) va with
  | some pa => devOf pa != s.device && !s.isHost pa && (s.fabric.remap.contains (devOf pa) || s.heldO s.nextId r (devOf pa))
  | none => false

/-- Load64 of the spill area (R162): the entry is what the thread last stored there. -/
def State.load64 (s : State) (r : Ref) (va : Nat) : State × Except (Nat × Nat) (List Byte) :=
  if s.spillHeld r va then (s, .error (fcNoPort, va))
  else
    let (s1, l) := s.rangeRead .o (s.coreOf r) (s.ctxIdOf r) accLoad 2 va 8
    (s1, l.map fun x => let b := s1.slotBytes r va 8; if b.length = 8 then (x.zip b).map fun y => s1.spilled y.1 y.2 else x)

/-- Store64 of the spill area (R162). -/
def State.store64 (s : State) (r : Ref) (va : Nat) (v : DWord) (src : Option SyncSrc) : State × Except (Nat × Nat) Unit :=
  if s.spillHeld r va then (s, .error (fcNoPort, va))
  else s.rangeWrite .o (s.coreOf r) (s.ctxIdOf r) (some r) accStore src 2 va (natLe 8 v.toNat)

/-- Push (R161): with 8 resident entries the oldest goes to the spill area first. The first entry of rstack is the newest. The
fault of the store parks the thread with everything unchanged (R162). -/
def State.push (s : State) (r : Ref) (t : Thread) (v : DWord) : State × Except (Nat × Nat) Thread :=
  if t.rstack.length < 8 then (s, .ok { t with rstack := v :: t.rstack })
  else
    let c := s.classesAt (s.coreOf r) (s.ctxIdOf r) (t.spillAt t.spd) .o
    match s.store64 r (t.spillAt t.spd) (t.rstack.getD 7 0) (s.srcOf r t false .plot c) with
    | (s, .error f) => (s, .error f)
    | (s, .ok _) => (s, .ok { t with rstack := v :: t.rstack.take 7, spd := t.spd + 1 })

/-- Pop (R161): the newest resident entry, else the last spilled one; none where the stack is empty. -/
def State.pop (s : State) (r : Ref) (t : Thread) : State × Except (Nat × Nat) (Option DWord × Thread) :=
  match t.rstack with
  | v :: l => (s, .ok (some v, { t with rstack := l }))
  | [] =>
    if t.spd = 0 then (s, .ok (none, t))
    else
      let va := t.spillAt (t.spd - 1)
      match s.load64 r va with
      | (s, .error f) => (s, .error f)
      | (s, .ok l) =>
        let s := s.readSync r false .plot (s.classesAt (s.coreOf r) (s.ctxIdOf r) va .o) (s.vaTags (s.coreOf r) (s.ctxIdOf r) va 8)
        (s, .ok (some (BitVec.ofNat 64 (leNat l)), { t with spd := t.spd - 1 }))

/-- Put a thread back with its stack; what a relaxed read left behind stays. -/
def State.setStack (s : State) (r : Ref) (t : Thread) : State := s.modThread r fun x => { x with rstack := t.rstack, spd := t.spd }

/-! ## Branches -/

/-- The B-format condition (03 R59). -/
def Thread.taken (t : Thread) (p : Fin 128) (n : Bool) : Bool := t.pred p.val != n

/-- The target of a branch (03 R59). -/
def Thread.target (t : Thread) (off : BitVec 18) : DWord := t.pc + 4 * sext64 off

/-- BRA in one thread (R159). -/
def braLane (p : Fin 128) (n : Bool) (off : BitVec 18) : LaneFn := fun s _ _ t =>
  (s, if t.taken p n then .goto (t.target off) else .next)

/-- BRF in one thread (R160). -/
def brfLane (p : Fin 128) (n : Bool) (off : BitVec 18) : LaneFn := fun s _ _ t =>
  (s, .file (if t.taken p n then t.target off else t.pc4))

/-- CALL in one thread (R163). -/
def callLane (p : Fin 128) (n : Bool) (off : BitVec 18) : LaneFn := fun s r _ t =>
  if t.taken p n then
    match s.push r t t.pc4 with
    | (s, .error (c, a)) => (s, .park c accStack (BitVec.ofNat 64 a))
    | (s, .ok u) => (s.setStack r u, .goto (t.target off))
  else (s, .next)

/-- BRA (R159). -/
def execBra (p : Fin 128) (n : Bool) (off : BitVec 18) (s : State) : Result := .next (runLanes (braLane p n off) s)

/-- BRF (R160). -/
def execBrf (p : Fin 128) (n : Bool) (off : BitVec 18) (s : State) : Result := .next (runLanes (brfLane p n off) s)

/-- CALL (R163). -/
def execCall (p : Fin 128) (n : Bool) (off : BitVec 18) (s : State) : Result := .next (runLanes (callLane p n off) s)

/-! ## CTL -/

/-- RET in one thread (R164): an empty stack exits. 03 R62 check 6 names CALLI and JMPI alone: a popped value that is no multiple of 4 becomes the PC and is
fetched at (DESIGN CHOICE, log 52). -/
def retLane (g : Fin 128) : LaneFn := fun s r _ t =>
  if !gY g t then (s, .regroup t.pc4)
  else match s.pop r t with
    | (s, .error (c, a)) => (s, .park c accStack (BitVec.ofNat 64 a))
    | (s, .ok (none, _)) => (s, .exit)
    | (s, .ok (some v, u)) => (s.setStack r u, .regroup v)

/-- CALLI in one thread (R164): the target's alignment is checked before the stack is touched. -/
def calliLane (g : Fin 128) (a : Reg) : LaneFn := fun s r p t =>
  if !gY g t then (s, .regroup t.pc4)
  else if !t.inRanges [(a, 2)] then (s, .trap trapRange 0 0)
  else
    let v := t.rd64 (s.env r p) a
    if v &&& 3 ≠ 0 then (s, .trap trapAlign 0 v)
    else match s.push r t t.pc4 with
      | (s, .error (c, a)) => (s, .park c accStack (BitVec.ofNat 64 a))
      | (s, .ok u) => (s.setStack r u, .regroup v)

/-- JMPI in one thread (R164). -/
def jmpiLane (g : Fin 128) (a : Reg) : LaneFn := fun s r p t =>
  if !gY g t then (s, .regroup t.pc4)
  else if !t.inRanges [(a, 2)] then (s, .trap trapRange 0 0)
  else
    let v := t.rd64 (s.env r p) a
    if v &&& 3 ≠ 0 then (s, .trap trapAlign 0 v) else (s, .regroup v)

/-- YIELD in one thread (R168): filed at PC + 4, and its tract counts as resident for its full quantum. -/
def yieldLane (g : Fin 128) : LaneFn := fun s _ p t =>
  if gY g t then (s.modTract p.tract fun x => { x with yielded := true }, .file t.pc4) else (s, .next)

/-- PAUSE in one thread (R169). -/
def pauseLane (g : Fin 128) (a : Reg) : LaneFn := fun s r p t =>
  if !gY g t then (s, .next)
  else if !t.inRanges [(a, 1)] then (s, .trap trapRange 0 0)
  else
    let n := (t.rd32 (s.env r p) a).toNat
    (s, if n = 0 then .file t.pc4 else .sleep (.pause (s.cycle + n)))

/-- NOP (R164). -/
def execNop (g : Fin 128) (s : State) : Result := .next (runPure (gY g) [] (fun _ t => t) s)

/-- RET (R164). -/
def execRet (g : Fin 128) (s : State) : Result := .next (runLanes (retLane g) s)

/-- CALLI (R164). -/
def execCalli (g : Fin 128) (a : Reg) (s : State) : Result := .next (runLanes (calliLane g a) s)

/-- JMPI (R164). -/
def execJmpi (g : Fin 128) (a : Reg) (s : State) : Result := .next (runLanes (jmpiLane g a) s)

/-- REFORM (R166). -/
def execReform (g : Fin 128) (s : State) : Result := .next (runLanes (fun s _ _ t => (s, if gY g t then .file t.pc4 else .next)) s)

/-- EXIT (R167). -/
def execExit (g : Fin 128) (s : State) : Result := .next (runLanes (fun s _ _ t => (s, if gY g t then .exit else .next)) s)

/-- YIELD (R168). -/
def execYield (g : Fin 128) (s : State) : Result := .next (runLanes (yieldLane g) s)

/-- PAUSE (R169). -/
def execPause (g : Fin 128) (a : Reg) (s : State) : Result := .next (runLanes (pauseLane g a) s)

/-- SETRM (R170). -/
def execSetrm (g : Fin 128) (m : Fin 4) (s : State) : Result :=
  .next (runPure (gY g) [] (fun _ t => { t with rmode := BitVec.ofNat 2 m.val }) s)

end Sys2Proof.Machine
end

