-- ==== Sys2Proof/Machine/Rows.lean ====
section
/-! DEFINITION. The cross-lane instructions of majors 0x1F to 0x21 (01 R26, 07 R149 to R155): the wait for the
home row, and the one execution over the threads a completed rendezvous gathered. -/

namespace Sys2Proof.Machine

/-- The 64 lanes of a row as an execution finds them: the thread of each present lane (R149 step 2). -/
abbrev RowView := List (Option (Env × Thread))

/-- The present thread of a lane among the threads of the group: its guard holds and its registers are in range. -/
def rowLaneOf (s : State) (guard : Thread → Bool) (ops : List (Reg × Nat)) (lane : Nat) : List Ref → Option (Env × Thread)
  | [] => none
  | r :: rest =>
    match tget s.plots r.tag, s.thread? r with
    | some p, some t =>
      if r.lane = lane ∧ guard t ∧ t.inRanges ops then some (s.env r p, t) else rowLaneOf s guard ops lane rest
    | _, _ => rowLaneOf s guard ops lane rest

/-- The row of the group in execution (R149 steps 1 and 2). -/
def rowView (s : State) (guard : Thread → Bool) (ops : List (Reg × Nat)) : RowView :=
  (List.range 64).map fun j => rowLaneOf s guard ops j s.cur.lanes

/-- A row instruction (R149): a thread that reaches it waits in the headland, or in its handler takes the illegal-instruction
trap (21 R375); the group of a completed rendezvous
executes it once, and only present threads write. eff gives the lane number, what operands read, and the thread. -/
def runRow (guard : Thread → Bool) (ops : List (Reg × Nat)) (eff : RowView → Nat → Env → Thread → Thread) (s : State) : State :=
  if s.cur.group then
    let v := rowView s guard ops
    runLanes (fun s r p t =>
      if !guard t then (s, .next)
      else if !t.inRanges ops then (s, .trap trapRange 0 0)
      else (s.setThread r (eff v r.lane (s.env r p) t), .next)) s
  else runLanes (fun s _ _ t => (s, if t.sup then .trap trapIllegal 0 0 else .rendezvous)) s

/-- A of a source lane, 0 where it is absent (R150). -/
def rowSource (v : RowView) (a : Reg) (lane : Nat) : Word :=
  match v.getD lane none with
  | some (e, t) => t.rd32 e a
  | none => 0

/-- A shuffle: the source lane of a lane (R150). -/
def rowShuffle (d a : Reg) (ops : List (Reg × Nat)) (g : Fin 8) (src : Nat → Env → Thread → Nat) (s : State) : Result :=
  .next (runRow (gTR g) ops (fun v i e t => t.wr32 d (rowSource v a (src i e t))) s)

/-- The mask of a predicate over the present lanes (R151). -/
def rowBallot (v : RowView) (q : Nat) : Nat :=
  (List.range 64).foldl (fun m j => match v.getD j none with | some (_, t) => if t.pred q then m + 2 ^ j else m | none => m) 0

/-- Registers of a row type (03 R66). -/
def rtRegs : RT → Nat
  | .i32 => 1
  | .u32 => 1
  | .f32 => 1
  | .i64 => 2
  | .u64 => 2

/-- The value of an operand of a row type. -/
def Thread.rowValue (t : Thread) (e : Env) (rt : RT) (a : Reg) : Nat :=
  match rt with
  | .i64 => (t.rd64 e a).toNat
  | .u64 => (t.rd64 e a).toNat
  | _ => (t.rd32 e a).toNat

/-- Write a value of a row type. -/
def Thread.wrRow (t : Thread) (rt : RT) (d : Reg) (v : Nat) : Thread :=
  match rt with
  | .i64 => t.wr64 d (BitVec.ofNat 64 v)
  | .u64 => t.wr64 d (BitVec.ofNat 64 v)
  | _ => t.wr32 d (BitVec.ofNat 32 v)

/-- A node of the tree on values with the flags gathered below it. -/
abbrev RowNode := Nat × Nat → Nat × Nat → Nat × Nat

/-- A node without flags. -/
def intNode (f : Nat → Nat → Nat) : RowNode := fun x y => (f x.1 y.1, x.2 ||| y.2)

/-- Width of a row type in bits. -/
def rtWidth (rt : RT) : Nat := 32 * rtRegs rt

/-- The sum node (05 R117, 07 Table 7.9): integers wrap. -/
def addNode (rt : RT) : RowNode := intNode fun x y => (x + y) % 2 ^ rtWidth rt

/-- The F32 sum node, rounded RNE whatever RMODE is (07 Table 7.9). -/
def addfNode : RowNode := fun x y =>
  let (c, g) := roundOp fmtF32 0 (XReal.add 0 (fmtF32.value x.1) (fmtF32.value y.1))
  (c, x.2 ||| y.2 ||| g)

/-- The minimum or maximum node (07 Table 7.9). -/
def minMaxNode (rt : RT) (mx : Bool) : RowNode :=
  match rt with
  | .f32 => fun x y => let (c, g) := minMaxNum fmtF32 mx x.1 y.1; (c, x.2 ||| y.2 ||| g)
  | .u32 => intNode fun x y => if mx then max x y else min x y
  | .u64 => intNode fun x y => if mx then max x y else min x y
  | .i32 => intNode fun x y => if decide (sgn 32 x ≤ sgn 32 y) == mx then y else x
  | .i64 => intNode fun x y => if decide (sgn 64 x ≤ sgn 64 y) == mx then y else x

/-- The identity of a minimum or maximum (07 Table 7.9). -/
def minMaxIdentity (rt : RT) (mx : Bool) : Nat :=
  match rt with
  | .f32 => 0x7FC00000
  | .u32 => if mx then 0 else 2 ^ 32 - 1
  | .u64 => if mx then 0 else 2 ^ 64 - 1
  | .i32 => if mx then 2 ^ 31 else 2 ^ 31 - 1
  | .i64 => if mx then 2 ^ 63 else 2 ^ 63 - 1

/-- The identity of ADDF: −0. -/
def addfIdentity : Nat := 2 ^ 31

/-- The 64 values of a row, absent lanes at the identity (R149 step 3). -/
def rowInputs (v : RowView) (rt : RT) (a : Reg) (ident : Nat) : List (Nat × Nat) :=
  v.map fun x => match x with | some (e, t) => (t.rowValue e rt a, 0) | none => (ident, 0)

/-- A reduction over the row (R152): every present thread gets the root and its flags. -/
def rowReduce (d a : Reg) (rt : RT) (g : Fin 8) (node : RowNode) (ident : Nat) (s : State) : Result :=
  .next (runRow (gTR g) [(d, rtRegs rt), (a, rtRegs rt)] (fun v _ _ t =>
    let x := (reduceTree node (rowInputs v rt a ident)).headD (ident, 0)
    (t.wrRow rt d x.1).orStat (BitVec.ofNat 32 x.2)) s)

/-- A scan over the row (R153): a present lane gets its element, in an exclusive scan that of the lane before it, and
every present thread gets the flags of every node. -/
def rowScan (d a : Reg) (rt : RT) (ex : Bool) (g : Fin 8) (node : RowNode) (ident : Nat) (s : State) : Result :=
  .next (runRow (gTR g) [(d, rtRegs rt), (a, rtRegs rt)] (fun v i _ t =>
    let xs := scanTree node (rowInputs v rt a ident)
    let x := if ex then (if i = 0 then ident else (xs.getD (i - 1) (ident, 0)).1) else (xs.getD i (ident, 0)).1
    (t.wrRow rt d x).orStat (BitVec.ofNat 32 (xs.foldl (fun f y => f ||| y.2) 0))) s)

/-! ## The instructions -/

/-- RSHF (R150). -/
def execRshf (d : Reg) (a : Reg) (b : Reg) (g : Fin 8) (s : State) : Result :=
  rowShuffle d a [(d, 1), (a, 1), (b, 1)] g (fun _ e t => (t.rd32 e b).toNat % 64) s

/-- RSHFX (R150). -/
def execRshfx (d : Reg) (a : Reg) (b : Reg) (g : Fin 8) (s : State) : Result :=
  rowShuffle d a [(d, 1), (a, 1), (b, 1)] g (fun i e t => i ^^^ (t.rd32 e b).toNat % 64) s

/-- RBCAST (R150). -/
def execRbcast (d : Reg) (a : Reg) (n : Fin 64) (g : Fin 8) (s : State) : Result :=
  rowShuffle d a [(d, 1), (a, 1)] g (fun _ _ _ => n.val) s

/-- RBALLOT (R151). -/
def execRballot (d : Reg) (q : Fin 128) (g : Fin 8) (s : State) : Result :=
  .next (runRow (gTR g) [(d, 2)] (fun v _ _ t => t.wr64 d (BitVec.ofNat 64 (rowBallot v q.val))) s)

/-- RRED.ADDI (R152). -/
def execRredAddi (d : Reg) (a : Reg) (rt : RT) (g : Fin 8) (s : State) : Result :=
  rowReduce d a rt g (addNode rt) 0 s

/-- RRED.ADDF (R152). -/
def execRredAddf (d : Reg) (a : Reg) (g : Fin 8) (s : State) : Result :=
  rowReduce d a .f32 g addfNode addfIdentity s

/-- RRED.MIN (R152). -/
def execRredMin (d : Reg) (a : Reg) (rt : RT) (g : Fin 8) (s : State) : Result :=
  rowReduce d a rt g (minMaxNode rt false) (minMaxIdentity rt false) s

/-- RRED.MAX (R152). -/
def execRredMax (d : Reg) (a : Reg) (rt : RT) (g : Fin 8) (s : State) : Result :=
  rowReduce d a rt g (minMaxNode rt true) (minMaxIdentity rt true) s

/-- RSCANI (R153). -/
def execRscani (d : Reg) (a : Reg) (rt : RT) (ex : Bool) (g : Fin 8) (s : State) : Result :=
  rowScan d a rt ex g (addNode rt) 0 s

/-- RSCANF (R153). -/
def execRscanf (d : Reg) (a : Reg) (ex : Bool) (g : Fin 8) (s : State) : Result :=
  rowScan d a .f32 ex g addfNode addfIdentity s

/-- RANY (R154). -/
def execRany (p : Fin 128) (q : Fin 128) (g : Fin 8) (s : State) : Result :=
  .next (runRow (gTR g) [] (fun v _ _ t => t.setPred p.val (v.any fun x => match x with | some (_, u) => u.pred q.val | none => false)) s)

/-- RALL (R154). -/
def execRall (p : Fin 128) (q : Fin 128) (g : Fin 8) (s : State) : Result :=
  .next (runRow (gTR g) [] (fun v _ _ t => t.setPred p.val (v.all fun x => match x with | some (_, u) => u.pred q.val | none => true)) s)

end Sys2Proof.Machine
end

