-- ==== Sys2Proof/Machine/Issue.lean ====
section
/-! DEFINITION. When an instruction of a drill has to wait before it issues: registers that outstanding loads will write (13 R255),
full counters (R256), the order of what it does at issue among the accesses of its thread (11 R230, R235); and when a command waits at
issue for room in a queue (15 R317, 17 R332). -/

namespace Sys2Proof.Machine

/-- The register operands of an instruction, with the number of registers each may name. -/
def operandsOf : Instr → List (Reg × Nat)
  | .iadd d a b _ => [(d, 1), (a, 1), (b, 1)]
  | .isub d a b _ => [(d, 1), (a, 1), (b, 1)]
  | .imul d a b _ => [(d, 1), (a, 1), (b, 1)]
  | .imulh d a b _ => [(d, 1), (a, 1), (b, 1)]
  | .imulhu d a b _ => [(d, 1), (a, 1), (b, 1)]
  | .imad d a b _ => [(d, 1), (a, 1), (b, 1)]
  | .divs d a b _ => [(d, 1), (a, 1), (b, 1)]
  | .divu d a b _ => [(d, 1), (a, 1), (b, 1)]
  | .rems d a b _ => [(d, 1), (a, 1), (b, 1)]
  | .remu d a b _ => [(d, 1), (a, 1), (b, 1)]
  | .imin d a b _ => [(d, 1), (a, 1), (b, 1)]
  | .imax d a b _ => [(d, 1), (a, 1), (b, 1)]
  | .iminu d a b _ => [(d, 1), (a, 1), (b, 1)]
  | .imaxu d a b _ => [(d, 1), (a, 1), (b, 1)]
  | .iabs d a _ => [(d, 1), (a, 1)]
  | .ineg d a _ => [(d, 1), (a, 1)]
  | .andb d a b _ => [(d, 1), (a, 1), (b, 1)]
  | .orb d a b _ => [(d, 1), (a, 1), (b, 1)]
  | .xorb d a b _ => [(d, 1), (a, 1), (b, 1)]
  | .andn d a b _ => [(d, 1), (a, 1), (b, 1)]
  | .shl d a b _ => [(d, 1), (a, 1), (b, 1)]
  | .shr d a b _ => [(d, 1), (a, 1), (b, 1)]
  | .sar d a b _ => [(d, 1), (a, 1), (b, 1)]
  | .rotl d a b _ => [(d, 1), (a, 1), (b, 1)]
  | .popc d a _ => [(d, 1), (a, 1)]
  | .clz d a _ => [(d, 1), (a, 1)]
  | .brev d a _ => [(d, 1), (a, 1)]
  | .bfe d a b _ => [(d, 1), (a, 1), (b, 1)]
  | .bfi d a b _ => [(d, 1), (a, 1), (b, 1)]
  | .lea d a b _ => [(d, 2), (a, 2), (b, 1)]
  | .sel d a b _ => [(d, 1), (a, 1), (b, 1)]
  | .mov d a _ => [(d, 1), (a, 1)]
  | .iadd64 d a b _ => [(d, 2), (a, 2), (b, 2)]
  | .isub64 d a b _ => [(d, 2), (a, 2), (b, 2)]
  | .imul64 d a b _ => [(d, 2), (a, 2), (b, 2)]
  | .mov64 d a _ => [(d, 2), (a, 2)]
  | .shl64 d a b _ => [(d, 2), (a, 2), (b, 1)]
  | .shr64 d a b _ => [(d, 2), (a, 2), (b, 1)]
  | .sar64 d a b _ => [(d, 2), (a, 2), (b, 1)]
  | .imad64 d a b _ => [(d, 2), (a, 2), (b, 2)]
  | .icmpEq _ a b _ => [(a, 1), (b, 1)]
  | .icmpNe _ a b _ => [(a, 1), (b, 1)]
  | .icmpLt _ a b _ => [(a, 1), (b, 1)]
  | .icmpLe _ a b _ => [(a, 1), (b, 1)]
  | .icmpLtu _ a b _ => [(a, 1), (b, 1)]
  | .icmpLeu _ a b _ => [(a, 1), (b, 1)]
  | .itst _ a b _ => [(a, 1), (b, 1)]
  | .itstn _ a b _ => [(a, 1), (b, 1)]
  | .ptor d _ _ => [(d, 1)]
  | .rtop _ a _ => [(a, 1)]
  | .pcnt d _ _ => [(d, 1)]
  | .fadd _ d a b _ => [(d, 1), (a, 1), (b, 1)]
  | .fsub _ d a b _ => [(d, 1), (a, 1), (b, 1)]
  | .fmul _ d a b _ => [(d, 1), (a, 1), (b, 1)]
  | .ffma _ d a b _ => [(d, 1), (a, 1), (b, 1)]
  | .fmin _ d a b _ => [(d, 1), (a, 1), (b, 1)]
  | .fmax _ d a b _ => [(d, 1), (a, 1), (b, 1)]
  | .fcmpeq _ _ a b _ => [(a, 1), (b, 1)]
  | .fcmplt _ _ a b _ => [(a, 1), (b, 1)]
  | .fcmple _ _ a b _ => [(a, 1), (b, 1)]
  | .fcmpun _ _ a b _ => [(a, 1), (b, 1)]
  | .fdiv d a b _ => [(d, 1), (a, 1), (b, 1)]
  | .fsqrt d a _ => [(d, 1), (a, 1)]
  | .frsq d a _ => [(d, 1), (a, 1)]
  | .frcp d a _ => [(d, 1), (a, 1)]
  | .fexp2 d a _ => [(d, 1), (a, 1)]
  | .flog2 d a _ => [(d, 1), (a, 1)]
  | .fsinpi d a _ => [(d, 1), (a, 1)]
  | .fcospi d a _ => [(d, 1), (a, 1)]
  | .ftanh d a _ => [(d, 1), (a, 1)]
  | .fsigm d a _ => [(d, 1), (a, 1)]
  | .fldexp d a b _ => [(d, 1), (a, 1), (b, 1)]
  | .frint d a _ => [(d, 1), (a, 1)]
  | .cvtfi d a _ _ _ => [(d, 1), (a, 1)]
  | .cvtif d a _ _ _ => [(d, 1), (a, 1)]
  | .cvtff d a _ _ _ => [(d, 1), (a, 1)]
  | .cvtpk d a _ _ => [(d, 1), (a, 4)]
  | .fabs d a _ => [(d, 1), (a, 1)]
  | .fneg d a _ => [(d, 1), (a, 1)]
  | .fcpys d a b _ => [(d, 1), (a, 1), (b, 1)]
  | .fclass d a _ => [(d, 1), (a, 1)]
  | .xacc d a b _ => [(d, 4), (a, 1), (b, 1)]
  | .xadd d a _ => [(d, 4), (a, 4)]
  | .xcvt d a _ _ => [(d, 1), (a, 4)]
  | .xneg d a _ => [(d, 4), (a, 4)]
  | .xanc a _ => [(a, 1)]
  | .xdoth d a b _ => [(d, 4), (a, 1), (b, 1)]
  | .xdotb d a b _ => [(d, 4), (a, 1), (b, 1)]
  | .xcmp _ a b _ => [(a, 4), (b, 4)]
  | .rshf d a b _ => [(d, 1), (a, 1), (b, 1)]
  | .rshfx d a b _ => [(d, 1), (a, 1), (b, 1)]
  | .rbcast d a _ _ => [(d, 1), (a, 1)]
  | .rballot d _ _ => [(d, 2)]
  | .rredAddi d a rt _ => [(d, rtRegs rt), (a, rtRegs rt)]
  | .rredAddf d a _ => [(d, 1), (a, 1)]
  | .rredMin d a rt _ => [(d, rtRegs rt), (a, rtRegs rt)]
  | .rredMax d a rt _ => [(d, rtRegs rt), (a, rtRegs rt)]
  | .rscani d a rt _ _ => [(d, rtRegs rt), (a, rtRegs rt)]
  | .rscanf d a _ _ => [(d, 1), (a, 1)]
  | .movi d _ => [(d, 1)]
  | .movhi d _ => [(d, 1)]
  | .addi d _ => [(d, 1)]
  | .andi d _ => [(d, 1)]
  | .ori d _ => [(d, 1)]
  | .xori d _ => [(d, 1)]
  | .shli d _ => [(d, 1)]
  | .shri d _ => [(d, 1)]
  | .fmoviF32Bf d _ => [(d, 1)]
  | .fmoviF32Hf d _ => [(d, 1)]
  | .fmoviE4 d _ => [(d, 1)]
  | .fmoviE5 d _ => [(d, 1)]
  | .fmoviB2 d _ => [(d, 1)]
  | .fmoviH2 d _ => [(d, 1)]
  | .faddiF32 d _ => [(d, 1)]
  | .fmuliF32 d _ => [(d, 1)]
  | .ld d a _ _ _ _ sz => [(d, szRegs sz), (a, 2)]
  | .st d a _ _ _ _ sz => [(d, szRegs sz), (a, 2)]
  | .lds d a _ sz => [(d, szRegs sz), (a, 1)]
  | .sts d a _ sz => [(d, szRegs sz), (a, 1)]
  | .atomAdd w d a _ _ _ => [(d, if w then 2 else 1), (a, 2)]
  | .atomAnd w d a _ _ _ => [(d, if w then 2 else 1), (a, 2)]
  | .atomOr w d a _ _ _ => [(d, if w then 2 else 1), (a, 2)]
  | .atomXor w d a _ _ _ => [(d, if w then 2 else 1), (a, 2)]
  | .atomMin w d a _ _ _ => [(d, if w then 2 else 1), (a, 2)]
  | .atomMax w d a _ _ _ => [(d, if w then 2 else 1), (a, 2)]
  | .atomMinu w d a _ _ _ => [(d, if w then 2 else 1), (a, 2)]
  | .atomMaxu w d a _ _ _ => [(d, if w then 2 else 1), (a, 2)]
  | .atomExch w d a _ _ _ => [(d, if w then 2 else 1), (a, 2)]
  | .atomCas w d a _ _ _ => [(d, if w then 4 else 2), (a, 2)]
  | .atomFaddF32 d a _ _ _ => [(d, 1), (a, 2)]
  | .atomXadd128 d a _ _ _ => [(d, 4), (a, 2)]
  | .atomIncw w d a _ _ _ => [(d, if w then 2 else 1), (a, 2)]
  | .atomDecw w d a _ _ _ => [(d, if w then 2 else 1), (a, 2)]
  | .atomsAdd w d a _ _ => [(d, if w then 2 else 1), (a, 1)]
  | .atomsAnd w d a _ _ => [(d, if w then 2 else 1), (a, 1)]
  | .atomsOr w d a _ _ => [(d, if w then 2 else 1), (a, 1)]
  | .atomsXor w d a _ _ => [(d, if w then 2 else 1), (a, 1)]
  | .atomsMin w d a _ _ => [(d, if w then 2 else 1), (a, 1)]
  | .atomsMax w d a _ _ => [(d, if w then 2 else 1), (a, 1)]
  | .atomsMinu w d a _ _ => [(d, if w then 2 else 1), (a, 1)]
  | .atomsMaxu w d a _ _ => [(d, if w then 2 else 1), (a, 1)]
  | .atomsExch w d a _ _ => [(d, if w then 2 else 1), (a, 1)]
  | .atomsCas w d a _ _ => [(d, if w then 4 else 2), (a, 1)]
  | .atomsFaddF32 d a _ _ => [(d, 1), (a, 1)]
  | .atomsXadd128 d a _ _ => [(d, 4), (a, 1)]
  | .atomsIncw w d a _ _ => [(d, if w then 2 else 1), (a, 1)]
  | .atomsDecw w d a _ _ => [(d, if w then 2 else 1), (a, 1)]
  | .lr d a _ _ _ _ sz => [(d, szRegs sz), (a, 2)]
  | .sc d a _ _ _ _ sz => [(d, szRegs sz), (a, 2)]
  | .calli _ a => [(a, 2)]
  | .jmpi _ a => [(a, 2)]
  | .pause _ a => [(a, 1)]
  | .barc a => [(a, 1)]
  | .bcinit a b => [(a, 1), (b, 1)]
  | .bcexp a b => [(a, 1), (b, 1)]
  | .bcarr a b => [(a, 1), (b, 1)]
  | .bcwait a _ => [(a, 1)]
  | .bctest _ a _ => [(a, 1)]
  | .waitw a b => [(a, 2), (b, 1)]
  | .mint d a b => [(d, 2), (a, 2), (b, 1)]
  | .land _ _ _ a b => [(a, 2), (b, 2)]
  | .lwait _ a => [(a, 1)]
  | .ltest _ a => [(a, 1)]
  | .ldrop a => [(a, 2)]
  | .rnext d a => [(d, 1), (a, 1)]
  | .mma _ a => [(a, 1)]
  | .mdrain _ a => [(a, 1)]
  | .mstat d _ _ => [(d, 1)]
  | .apipe _ a => [(a, 1)]
  | .cpost _ a => [(a, 1)]
  | .qpost _ a b => [(a, 2), (b, 1)]
  | .ttld d a => [(d, 16), (a, 1)]
  | .ttst _ a b => [(a, 1), (b, 16)]
  | .ttinv _ a => [(a, 1)]
  | .vbind _ a b => [(a, 1), (b, 2)]
  | .vunbind _ b => [(b, 2)]
  | .srd d _ => [(d, 1)]
  | .swr a _ => [(a, 1)]
  | .swrFpark a => [(a, 1)]
  | .swrLpwc a _ => [(a, 1)]
  | .cinv a _ _ => [(a, 2)]
  | .cwb a => [(a, 2)]
  | .tlbinv a _ => [(a, 2)]
  | .seedset a => [(a, 1)]
  | .clkrd d => [(d, 2)]
  | _ => []

/-- The four counters of a thread (13 R256). -/
inductive Counter where
  | ld
  | st
  | cp
  | tl
  deriving DecidableEq, Repr

/-- The counter that holds an instruction while it is outstanding (13 Table 13.1). -/
def counterOf : Instr → Option Counter
  | .ld _ _ _ _ _ _ _ => some .ld
  | .st _ _ _ _ _ _ _ => some .st
  | .lds _ _ _ _ => some .ld
  | .sts _ _ _ _ => some .st
  | .atomAdd _ _ _ _ _ _ => some .ld
  | .atomAnd _ _ _ _ _ _ => some .ld
  | .atomOr _ _ _ _ _ _ => some .ld
  | .atomXor _ _ _ _ _ _ => some .ld
  | .atomMin _ _ _ _ _ _ => some .ld
  | .atomMax _ _ _ _ _ _ => some .ld
  | .atomMinu _ _ _ _ _ _ => some .ld
  | .atomMaxu _ _ _ _ _ _ => some .ld
  | .atomExch _ _ _ _ _ _ => some .ld
  | .atomCas _ _ _ _ _ _ => some .ld
  | .atomFaddF32 _ _ _ _ _ => some .ld
  | .atomXadd128 _ _ _ _ _ => some .ld
  | .atomIncw _ _ _ _ _ _ => some .ld
  | .atomDecw _ _ _ _ _ _ => some .ld
  | .atomsAdd _ _ _ _ _ => some .ld
  | .atomsAnd _ _ _ _ _ => some .ld
  | .atomsOr _ _ _ _ _ => some .ld
  | .atomsXor _ _ _ _ _ => some .ld
  | .atomsMin _ _ _ _ _ => some .ld
  | .atomsMax _ _ _ _ _ => some .ld
  | .atomsMinu _ _ _ _ _ => some .ld
  | .atomsMaxu _ _ _ _ _ => some .ld
  | .atomsExch _ _ _ _ _ => some .ld
  | .atomsCas _ _ _ _ _ => some .ld
  | .atomsFaddF32 _ _ _ _ => some .ld
  | .atomsXadd128 _ _ _ _ => some .ld
  | .atomsIncw _ _ _ _ _ => some .ld
  | .atomsDecw _ _ _ _ _ => some .ld
  | .lr _ _ _ _ _ _ _ => some .ld
  | .sc _ _ _ _ _ _ _ => some .ld
  | .bcinit _ _ => some .st
  | .bcexp _ _ => some .st
  | .bcarr _ _ => some .st
  | .land _ _ _ _ _ => some .st
  | .mma _ _ => some .tl
  | .mdrain _ _ => some .tl
  | .mzero _ _ _ => some .tl
  | .apipe _ _ => some .tl
  | .cpost _ _ => some .cp
  | .qpost _ _ _ => some .cp
  | .cinv _ _ _ => some .st
  | .cwb _ => some .st
  | _ => none

/-- The guard of an instruction that a counter holds only where it is true (13 R256). -/
def guardOf : Instr → Option (Fin 128)
  | .cpost g _ => some g
  | .qpost g _ _ => some g
  | .mma g _ => some g
  | .mdrain g _ => some g
  | .mzero g _ _ => some g
  | .apipe g _ => some g
  | _ => none

/-- The instruction executes in a thread: its guard, where it has one, is true. -/
def Thread.runs (t : Thread) (i : Instr) : Bool := match guardOf i with | some g => gY g t | none => true

/-- Engine commands and barriers that are full releases and leave no request (11 Table 11.4). -/
def fullRelease : Instr → Bool
  | .barp => true
  | .barc _ => true
  | .mma _ _ => true
  | .mdrain _ _ => true
  | .mzero _ _ _ => true
  | .apipe _ _ => true
  | .cpost _ _ => true
  | .qpost _ _ _ => true
  | _ => false

/-- The instruction reads or writes ix without naming it (07 R158; 21 Table 21.2, R376). -/
def namesIx : Instr → Bool
  | .srd _ _ => true
  | .swr _ _ => true
  | .swrFpark _ => true
  | .eret => true
  | .ixset _ => true
  | .ixadd _ => true
  | _ => false

/-- An outstanding load of the thread will write ix (13 R255). -/
def State.ixBusy (s : State) (r : Ref) : Bool := s.reqs.any fun (_, q) => q.ref == r && q.dst == .ix

/-- An operand names a register that an outstanding load will write (13 R255). -/
def State.operandBusy (s : State) (r : Ref) (t : Thread) (x : Reg × Nat) : Bool :=
  ((x.1 == .ix || x.1 == .wix) && s.ixBusy r) ||
    match t.phys x.1 with
    | some n => s.outstanding r n x.2
    | none => false

/-- A counter stands at 63 (13 R256). -/
def Thread.full (t : Thread) : Counter → Bool
  | .ld => decide (63 ≤ t.ld)
  | .st => decide (63 ≤ t.st)
  | .cp => decide (63 ≤ t.cp)
  | .tl => decide (63 ≤ t.tl)

/-! ## Accesses made at issue -/

/-- The key of an access that an instruction makes as it issues. -/
def issueKey (r : Ref) (cls : Classes) (stream : Option Nat) (sectors : List Nat) (rel : Bool) : OrderKey :=
  { ref := r, cls := cls, stream := stream, sectors := sectors, rel := rel, blind := false }

/-- An access that an instruction makes as it issues may be made: it may leave its source, and it is its turn in its stream (11 R228, R235). -/
def State.mayActNow (s : State) (k : OrderKey) : Bool := s.mayIssue s.nextId k && !s.streamWaits s.nextId k

/-- The 16 bytes that a BCWAIT, BCTEST or RNEXT reads at a bank, in the stream of its own device (11 R228). -/
def State.barKey (s : State) (r : Ref) (addr : Nat) : OrderKey :=
  match s.spadAt r.tag addr 16 with
  | .ok (tag, off) => issueKey r allClasses (some s.device) [spadSector tag off] false
  | .error _ => issueKey r allClasses none [] false

/-- The sectors of n bytes at an address of a thread: on a VIEW page those of its base bytes (11 R226). -/
def State.vaSectors (s : State) (r : Ref) (va n : Nat) : List Nat := ((s.slotBytes r va n).map fun (a, e) => sectorOf (e.pa a)).eraseDups

/-- The n bytes of global memory that an instruction reads or writes as it issues, in a class. -/
def State.wordKey (s : State) (r : Ref) (va n : Nat) (rc : RC) : OrderKey :=
  let core := s.coreOf r
  match s.homePa core (s.ctxIdOf r) va with
  | some pa =>
    let own := s.ownStream core pa
    issueKey r (classesOf rc own) (streamOf rc own (devOf pa)) (s.vaSectors r va n) false
  | none => issueKey r (classesOf rc false) none [] false

/-- The spill slot that a call or return of a thread goes to, where it goes to one (07 R161, R162). -/
def Thread.spillVa (t : Thread) : Instr → Option Nat
  | .call p n _ => if t.taken p n && decide (8 ≤ t.rstack.length) then some (t.spillAt t.spd) else none
  | .calli g _ => if gY g t && decide (8 ≤ t.rstack.length) then some (t.spillAt t.spd) else none
  | .ret g => if gY g t && t.rstack.isEmpty && t.spd != 0 then some (t.spillAt (t.spd - 1)) else none
  | _ => none

/-- No class: what no FENCE holds. -/
def noClasses : Classes := { o := false, a := false, s := false }

/-- The place in its thread's order of what an instruction does as it issues: none where it waits for nothing there. -/
def State.issueOrder (s : State) (r : Ref) (p : Plot) (t : Thread) (i : Instr) : Option OrderKey :=
  match i with
  | .bcwait a _ => some (s.barKey r (barAddr (t.rd32 (s.env r p) a)))
  | .bctest _ a _ => some (s.barKey r (barAddr (t.rd32 (s.env r p) a)))
  | .waitw a _ => some (s.wordKey r (t.rd64 (s.env r p) a).toNat 4 .a)
  | .rnext _ a => some (s.barKey r (barAddr (t.rd32 (s.env r p) a)))
  | .lwait _ _ => some (issueKey r noClasses none [] false)
  | .ltest _ _ => some (issueKey r noClasses none [] false)
  | i => (t.spillVa i).map fun va => s.wordKey r va 8 .o

/-- The entries of the tensor table that a check of an entry for an ID reads (15 Table 15.10). -/
def entryReads (id e : Nat) : List Nat :=
  if entKind e = 2 then [viewBaseId e] ++ (if viewGath e then [viewGidx e] else []) ++ (if viewIlv e then [id + 1] else []) else []

/-- The entries of the tensor table that a tensor-table instruction reads or writes (15 R322 to R324). -/
def State.tableIds (s : State) (r : Ref) (p : Plot) (t : Thread) : Instr → List Nat
  | .ttld _ a => [(t.rd32 (s.env r p) a).toNat]
  | .ttst g a b =>
    let id := (t.rd32 (s.env r p) a).toNat
    if gY g t then id :: entryReads id (t.rdBlock (s.env r p) b) else []
  | .ttinv g a => if gY g t then [(t.rd32 (s.env r p) a).toNat] else []
  | .vbind g a _ =>
    let id := (t.rd32 (s.env r p) a).toNat
    if gY g t then match (s.ttRead (s.coreOf r) p.ctx id).2 with | .ok v => [id, viewBaseId v] | .error _ => [id] else []
  | _ => []

/-- The pages whose leaves a binding instruction reads or writes (15 R324, R325). -/
def State.leafPages (s : State) (r : Ref) (p : Plot) (t : Thread) : Instr → List Nat
  | .vbind g a b =>
    let va := (t.rd64 (s.env r p) b).toNat
    if !gY g t then []
    else match (s.ttRead (s.coreOf r) p.ctx (t.rd32 (s.env r p) a).toNat).2 with
      | .error _ => []
      | .ok v => match (s.ttRead (s.coreOf r) p.ctx (viewBaseId v)).2 with
        | .error _ => []
        | .ok x => (List.range (boundLength v x / 4096)).map fun n => va + 4096 * n
  | .vunbind g b =>
    let va := (t.rd64 (s.env r p) b).toNat
    if !gY g t then []
    else match s.leafAt p.ctx va with
      | some (_, e) => (List.range ((s.unbindPages p.ctx (bits (pteFrame e) 39 28) va (2 ^ 28) 0).2 + 1)).map fun n => va + 4096 * n
      | none => []
  | _ => []

/-- The memory that a tensor-table or binding instruction reads or writes as it issues: entries of the table, and leaves. Such accesses have no class; what orders them
is a common byte (11 R225, R226), and the acquires before them (R230). -/
def State.tableKey (s : State) (r : Ref) (p : Plot) (t : Thread) (i : Instr) : OrderKey :=
  issueKey r noClasses none
    (((s.tableIds r p t i).flatMap fun id => s.vaSectors r (s.ttAddr p.ctx id) 64) ++
      (s.leafPages r p t i).filterMap fun va => (s.leafEntry p.ctx va).map sectorOf) false

/-- Tensor-table and binding instructions. -/
def tableInstr : Instr → Bool
  | .ttld _ _ => true
  | .ttst _ _ _ => true
  | .ttinv _ _ => true
  | .vbind _ _ _ => true
  | .vunbind _ _ => true
  | _ => false

/-- A walk of a context is in progress: a directory holds the miss of a request (09 R194). -/
def State.walking (s : State) (ctx : Nat) : Bool := s.reqs.any fun (id, q) => q.ctx == ctx && s.missHeld id q

/-- What an instruction waits for beside its registers and counters: a table instruction for what touches the same bytes, a TLBINV for the walks in progress (21
R384), a read or write of TSTAT for the acquires whose SCOPEX is still to come (12 R253). -/
def State.otherWaits (s : State) (r : Ref) (p : Plot) (t : Thread) (i : Instr) : Bool :=
  match i with
  | .tlbinv _ _ => s.walking p.ctx
  | .srd _ n => n.val == 0 && s.acquirePending r
  | .swr _ n => n.val == 0 && s.acquirePending r
  | i => tableInstr i && s.incomplete r && !s.mayActNow (s.tableKey r p t i)

/-- What an instruction does as it issues has to wait for earlier accesses of its thread (11 R230, R235; 12 R253). -/
def State.orderWaits (s : State) (r : Ref) (p : Plot) (t : Thread) (i : Instr) : Bool :=
  (fullRelease i && t.runs i && s.incomplete r) || s.otherWaits r p t i ||
    match s.issueOrder r p t i with
    | some k => !s.mayActNow k
    | none => false

/-- A thread has to wait before it issues an instruction. -/
def State.mustWait (s : State) (r : Ref) (p : Plot) (t : Thread) (i : Instr) : Bool :=
  (operandsOf i).any (s.operandBusy r t) || (namesIx i && s.ixBusy r) ||
    (match counterOf i with | some c => t.runs i && t.full c | none => false) || s.orderWaits r p t i

/-! ## Commands that wait at issue -/

/-- A command of a thread has been captured and waits at issue for room (15 R317, 17 R332): the drill issues nothing more. -/
def State.awaitsRoom (s : State) (r : Ref) : Bool :=
  (match tget s.plots r.tag with
    | some p => p.engq.any fun c => c.ref == r && c.stage == .waiting
    | none => false) ||
    s.copies.any fun (_, c) => c.ref == some r && c.stage == .waiting

end Sys2Proof.Machine
end

