-- ==== Sys2Proof/Machine/Schedule.lean ====
section
/-! DEFINITION. The steps of the core's schedule: the issue cycle (01 R28), drill formation (R22 to R25), row rendezvous (R26, 07
R149), and the ends of sleep (13 R258, R281 to R283, 07 R169). -/

namespace Sys2Proof.Machine

/-! ## The issue cycle (01 R28) -/

/-- Picoseconds of a core cycle (log 14). -/
def State.cyclePs (s : State) : Nat := 1000000 / max 1 s.steward.clockMHz

/-- The device is fallow: no core issues (23 R438). -/
def State.fallow (s : State) : Bool := s.mbox.state == 2

/-- The bytes of the code line of an address: what memory holds now, free bytes of another device. -/
def State.codeLine (s : State) (core : Nat) (e : TbEntry) (va pa : Nat) : State × List Byte :=
  if s.away e pa then s.freeBytes 128 else s.rdPhys core e (va / 128 * 128) (pa / 128 * 128) 128

/-- The word at an address of a line's bytes. -/
def codeWord (l : List Byte) (pa : Nat) : Word := BitVec.ofNat 32 (leNat ((l.drop (pa % 128)).take 4))

/-- A word of a held code line is the one that memory holds now. -/
def State.refreshCode (s : State) (core pa : Nat) (l : List Byte) : State :=
  s.modCore core fun k => { k with icache := k.icache.map fun x =>
    if x.addr = pa / 128 * 128 then { x with bytes := x.bytes.take (pa % 128) ++ l ++ x.bytes.drop (pa % 128 + l.length) } else x }

/-- The word at a PC that is no multiple of 4 and whose four bytes pass the end of a line: no rule gives one, so it is a free value (log 52). -/
def strayWord (pa : Nat) : Word := Config.freeWord (2 ^ 64 + pa)

/-- The word at an address as it is fetched past every cache, from a FARAT page (09 R185). -/
def State.fetchFar (s : State) (core : Nat) (e : TbEntry) (va pa : Nat) : State × Word :=
  let (s1, l) := if s.away e pa then s.freeBytes 4 else s.rdPhys core e va pa 4
  (s1, BitVec.ofNat 32 (leNat l))

/-- The fetch of a code word through the instruction cache of a core (01 R11), which a FARAT page bypasses (09 R185): a word written since the line was filled is
fetched old or new, a free choice (11 R249; DESIGN CHOICE, log 57). -/
def State.fetchCode (s : State) (core : Nat) (e : TbEntry) (va pa : Nat) : State × Word :=
  if 124 < pa % 128 then (s, strayWord pa)
  else if e.farat then s.fetchFar core e va pa
  else match l1Find (s.core core).icache (pa / 128 * 128) with
  | some x =>
    if s.away e pa || Config.codeKept core (pa / 128) s.cycle then (s, codeWord x.bytes pa)
    else let (s1, l) := s.rdPhys core e va pa 4; (s1.refreshCode core pa l, BitVec.ofNat 32 (leNat l))
  | none =>
    let (s1, l) := s.codeLine core e va pa
    let x : L1Line := { ctx := e.ctx, addr := pa / 128 * 128, bytes := l, tags := [] }
    (s1.modCore core fun k => { k with icache := (x :: k.icache).take icacheLines }, codeWord l pa)

/-- The fetch of the word at a PC of a context on a core (03 R62 check 1). A code page of another device needs a port to it (23 R410). -/
def State.fetchAt (s : State) (core ctx va : Nat) : State × Except Nat Word :=
  match s.xlate core ctx va accFetch with
  | (s1, .error c) => (s1, .error c)
  | (s1, .ok e) => match s1.barred e (e.pa va) 4 false with
    | some c => (s1, .error c)
    | none =>
      if s1.noPort e (e.pa va) then (s1, .error fcNoPort)
      else let (s2, w) := s1.fetchCode core e va (e.pa va); (s2, .ok w)

/-- The fetch of a drill's next word: every lane is at one PC of one context. -/
def State.fetch (s : State) (r : Ref) : State × Except Nat Word :=
  match s.thread? r with
  | none => (s, .error fcNotPresent)
  | some t => s.fetchAt (s.coreOf r) (s.ctxIdOf r) t.pc.toNat

/-- The instruction of a fetched word. -/
def fetchedInstr : Except Nat Word → Option Instr
  | .ok w => (decodeWord w).toOption
  | .error _ => none

/-- The instruction a thread would issue, where there is one. -/
def State.peekInstr (s : State) (r : Ref) : Option Instr := fetchedInstr (s.fetch r).2

/-- A lane has to wait before it issues an instruction. -/
def State.laneWaits (s : State) (i : Instr) (r : Ref) : Bool :=
  match tget s.plots r.tag, s.thread? r with
  | some p, some t => s.mustWait r p t i
  | _, _ => false

/-- The word that a fetch found can be issued over some lanes: it has been fetched, and no lane has to wait. -/
def State.wordReady (s : State) (l : List Ref) (x : Except Nat Word) : Bool :=
  match x with
  | .error c => c != fcNoPort
  | .ok w => match decodeWord w with
    | .ok i => !(l.any (s.laneWaits i))
    | .error _ => true

/-- A drill may fetch: formed in an earlier cycle, past the delays of its last instruction (03 R53, 09 R200), with no command of it that waits at issue. -/
def State.drillOpen (s : State) (d : Drill) : Bool :=
  decide (d.formed < s.cycle) && decide (d.ready ≤ s.cycle) && !(d.lanes.any s.awaitsRoom)

/-- A drill is ready (01 R28). -/
def State.drillReady (s : State) (d : Drill) : Bool :=
  s.drillOpen d && match d.lanes with
    | [] => false
    | r :: _ => s.wordReady d.lanes (s.fetch r).2

/-- The words that the drills of a core may issue next are brought into its instruction cache. -/
def State.fetchAhead (s : State) (k : Core) : State :=
  k.drills.foldl (fun s (_, d) => if s.drillOpen d then match d.lanes with | r :: _ => (s.fetch r).1 | [] => s else s) s

/-- Slots of ready drills in the order of the search from a slot (01 R28). -/
def State.readySlots (s : State) (k : Core) : List Nat :=
  let l := (k.drills.filter fun (_, d) => s.drillReady d).map Prod.fst
  (l.filter fun n => decide (k.rr ≤ n)) ++ l.filter fun n => decide (n < k.rr)

/-- Insert into a list of numbers in ascending order, equal ones kept. -/
def sortNat (l : List Nat) : List Nat := l.foldl insertNat []

/-- The commands of the matrix arrays: accepted in slot order, with their registers captured before the cycle's other writes (17 R332, R336, log 2). -/
def forArray : Instr → Bool
  | .mma _ _ => true
  | .mdrain _ _ => true
  | .mzero _ _ _ => true
  | .apipe _ _ => true
  | _ => false

/-- The reads of a barrier's phase, which follow every other operation of the cycle on it (11 R244). -/
def readsPhase : Instr → Bool
  | .bcwait _ _ => true
  | .bctest _ _ _ => true
  | _ => false

/-- The drill of a slot is about to execute an instruction of some kind. -/
def State.slotIs (s : State) (f : Instr → Bool) (x : Nat × Nat) : Bool :=
  match tget (s.core x.1).drills x.2 with
  | some d => match d.lanes with
    | r :: _ => (s.peekInstr r).any f
    | [] => false
  | none => false

/-- Pick up to four ready drills of a core: the array commands first, then the others, each in slot order. -/
def State.pick (s0 : State) (c : Nat) : State :=
  let s := s0.fetchAhead (s0.core c)
  let picks := (s.readySlots (s.core c)).take 4
  match picks.getLast? with
  | none => s
  | some n =>
    let l := (sortNat picks).map fun x => (c, x)
    let order := (l.filter (s.slotIs forArray)) ++ l.filter fun x => !s.slotIs forArray x
    { s.modCore c fun k => { k with rr := (n + 1) % 256 } with issueQ := s.issueQ ++ order }

/-- The drills that read a barrier's phase issue last (11 R244). -/
def State.phaseLast (s : State) : State :=
  { s with issueQ := (s.issueQ.filter fun x => !s.slotIs readsPhase x) ++ s.issueQ.filter (s.slotIs readsPhase) }

/-- The core numbers the machine holds records of. -/
def State.coreNums (s : State) : List Nat := s.cores.map Prod.fst

/-- The slots that are still live at the end of their last microsecond lapse (13 R294). -/
def State.lapseOverdue (s : State) : State :=
  s.cores.foldl (fun s (c, k) => k.slots.foldl (fun s (n, x) => if x.mustLapse s.time then s.lapseSlot c n else s) s) s

/-- Soft errors of a cycle in register files, scratchpads, caches, tiles and tags that are corrected are only counted (23 R437); how many is free (log 6). -/
def State.correctSoft (s : State) : State :=
  let (k, s1) := s.draw
  { s1 with steward := { s1.steward with corrected := s1.steward.corrected + Config.softErrors k } }

/-- ISSUE_CYCLE (01 R28): the next cycle begins, no slot outliving its time (13 R294); the threads filed in the last one stand in their furrows; each core picks its
drills. -/
def State.issueCycle (s : State) : State :=
  let s1 := ({ s.correctSoft with cycle := s.cycle + 1, time := s.time + s.cyclePs } : State).lapseOverdue
  let s2 := s1.coreNums.foldl State.flushFiling s1
  if s2.fallow then s2 else (s2.coreNums.foldl State.pick s2).phaseLast

/-! ## Formation (01 R24, R25) -/

/-- One step of the selector (01 R24). -/
def lfsrStep (x : Word) : Word := if x.getLsbD 0 then (x >>> 1) ^^^ 0x80200003 else x >>> 1

/-- Threads taken in order, each with a home lane not yet in the drill, up to a number; and those that stay. -/
def takeLanes (ok : Filed → Bool) : Nat → List Nat → List Filed → List Ref × List Filed
  | _, _, [] => ([], [])
  | n, lanes, f :: t =>
    if decide (0 < n) && ok f && !lanes.contains f.ref.lane then
      let (x, y) := takeLanes ok (n - 1) (f.ref.lane :: lanes) t
      (f.ref :: x, y)
    else
      let (x, y) := takeLanes ok n lanes t
      (x, f :: y)

/-- Insert a thread by home lane. -/
def laneInsert : List Ref → Ref → List Ref
  | [], r => [r]
  | x :: t, r => if x.lane ≤ r.lane then x :: laneInsert t r else r :: x :: t

/-- Threads in ascending home lane. -/
def byLane (l : List Ref) : List Ref := l.foldl laneInsert []

/-- The furrow that has been eligible longest, lowest number first. -/
def longest : List (Nat × Nat) → Option (Nat × Nat)
  | [] => none
  | (n, since) :: t => match longest t with
    | some (m, y) => if since ≤ y then some (n, since) else some (m, y)
    | none => some (n, since)

/-- Which furrow formation takes: an ordinary one by number, or none for the spill furrow (01 R24). -/
def chooseFurrow (l : Word) (now : Nat) (el : List (Nat × Nat)) (spill : Bool) : Option Nat :=
  match longest el with
  | none => none
  | some (n, since) =>
    if since + 960 ≤ now then some n
    else if spill then none
    else some ((el.getD ((l >>> 16).toNat * el.length / 65536) (n, since)).1)

/-- The furrows that are eligible, ascending, with the cycle since which they are. -/
def Core.eligible (k : Core) (now : Nat) : List (Nat × Nat) :=
  k.furrows.filterMap fun (n, f) => match f.since with
    | some c => if f.eligible now then some (n, c) else none
    | none => none

/-- The key of a filed thread. -/
def State.keyOfRef (s : State) (r : Ref) : Option Key :=
  match tget s.plots r.tag, s.thread? r with
  | some p, some t => some (p.keyOf r.tid t.pc)
  | _, _ => none

/-- Form a drill from the spill furrow: the head thread, then those with its key (01 R24). -/
def State.formSpill (s : State) (c slot : Nat) : State :=
  let k := s.core c
  match k.spill with
  | [] => s
  | h :: _ =>
    let key := s.keyOfRef h.ref
    let (rs, rest) := takeLanes (fun f => s.keyOfRef f.ref == key) 64 [] k.spill
    (s.setCore c { k with spill := rest }).newDrill c slot (byLane rs) false none

/-- Form a drill from a furrow (01 R24). -/
def State.formFrom (s : State) (c slot n : Nat) : State :=
  let k := s.core c
  match tget k.furrows n with
  | none => s
  | some f =>
    let (rs, rest) := takeLanes (fun _ => true) 64 [] f.threads
    let fs := if rest.isEmpty then tdel k.furrows n else tput k.furrows n (({ f with threads := rest } : Furrow).refresh s.cycle)
    (s.setCore c { k with furrows := fs }).newDrill c slot (byLane rs) false none

/-- A core can form a drill in this cycle. -/
def State.canForm (s : State) (c : Nat) : Bool :=
  let k := s.core c
  k.formed != some s.cycle && !s.fallow && (tfree k.drills 0 256).isSome && (!(k.eligible s.cycle).isEmpty || !k.spill.isEmpty)

/-- FORM_DRILL (01 R24): L steps, and one drill is formed. Which free slot it takes the spec does not say, though the order of issue shows it (01 R28, 02 R41): the lowest
(DESIGN CHOICE, log 10). -/
def State.formDrill (s : State) (c : Nat) : State :=
  let k := s.core c
  match tfree k.drills 0 256 with
  | none => s
  | some slot =>
    if !s.canForm c then s
    else
      let l := lfsrStep k.sel
      let s1 := s.setCore c { k with sel := l, formed := some s.cycle }
      match chooseFurrow l s.cycle (k.eligible s.cycle) (!k.spill.isEmpty) with
      | some n => s1.formFrom c slot n
      | none => s1.formSpill c slot

/-- A furrow whose oldest thread has been filed for 64 cycles and that does not count as eligible yet. -/
def Furrow.comesOfAge (f : Furrow) (now : Nat) : Bool := f.since.isNone && f.aged now

/-- FURROW_AGE_ELIGIBLE (01 R24). -/
def State.furrowAge (s : State) (c n : Nat) : State :=
  match tget (s.core c).furrows n with
  | none => s
  | some f =>
    if f.comesOfAge s.cycle then s.modCore c fun k => { k with furrows := tput k.furrows n { f with since := some s.cycle } } else s

/-! ## Row rendezvous (01 R26, 07 R149) -/

/-- Threads of a home row. -/
def Plot.row (p : Plot) (row : Nat) : Tab Thread := p.threads.filter fun (i, _) => i / 64 == row

/-- The thread waits at a row instruction. -/
def Thread.atRendezvous (t : Thread) : Bool := t.place == .headland .rendezvous

/-- The rendezvous of a row is complete: every live thread of the row waits, and no group of it is still to execute. -/
def Plot.rowComplete (p : Plot) (row : Nat) : Bool :=
  let live := (p.row row).filter fun (_, t) => t.live
  !live.isEmpty && live.all (fun (_, t) => t.atRendezvous) && !(p.groups.any fun g => g.row == row)

/-- A group of one thread; its word is not yet fetched. -/
def newGroup (row : Nat) (pc : DWord) (tid : Nat) : RowGroup := { row := row, pc := pc, tids := [tid], word := .fault fcNoPort }

/-- Group threads by PC, in ascending PC order. -/
def groupInsert (row : Nat) : List RowGroup → Nat × DWord → List RowGroup
  | [], (i, pc) => [newGroup row pc i]
  | g :: t, (i, pc) =>
    if g.pc = pc then { g with tids := g.tids ++ [i] } :: t
    else if pc < g.pc then newGroup row pc i :: g :: t
    else g :: groupInsert row t (i, pc)

/-- Stop threads of a plot where they stand: they would leave the headland now (21 R398, R399). -/
def State.stopAll (s : State) (l : List Ref) : State :=
  l.foldl (fun s r => s.stopThread r none) s

/-- The tract of a plot is resident and not on its way out. -/
def State.plotPlaced (s : State) (tag : Nat) : Bool := s.placed ⟨tag, 0⟩

/-- Fetch the word of each group of a list, once (07 R149, 11 R249). -/
def State.fetchGroups (s : State) (core ctx : Nat) : List RowGroup → State × List RowGroup
  | [] => (s, [])
  | g :: t =>
    let (s1, x) := s.fetchAt core ctx g.pc.toNat
    let (s2, l) := s1.fetchGroups core ctx t
    (s2, { g with word := match x with | .ok w => .word w | .error c => .fault c } :: l)

/-- The live threads of a row, grouped. -/
def Plot.rowGroups (p : Plot) (row : Nat) : List RowGroup :=
  ((p.row row).filter fun (_, t) => t.live).foldl (fun l (i, t) => groupInsert row l (i, t.pc)) []

/-- Every group's word could be fetched, or faulted: none is held for want of a port. -/
def allFetched (l : List RowGroup) : Bool := l.all fun g => g.word != .fault fcNoPort

/-- ROW_RENDEZVOUS_COMPLETE (01 R26): the threads waiting at each PC are gathered into a group, and its word is fetched; a thread that a still stop waits for
stops instead, and the row goes on waiting for it. -/
def State.rowRendezvous (s : State) (tag row : Nat) : State :=
  match tget s.plots tag with
  | none => s
  | some p =>
    if !(p.rowComplete row && s.plotPlaced tag) then s
    else
      let live := (p.row row).filter fun (_, t) => t.live
      let stops := live.filter fun (_, t) => t.stopReq
      if !stops.isEmpty then s.stopAll (stops.map fun (i, _) => ⟨tag, i⟩)
      else
        let (s1, gs) := s.fetchGroups p.core p.ctx (p.rowGroups row)
        if allFetched gs then s1.modPlot tag fun p => { p with groups := p.groups ++ gs } else s

/-- The first group of a row that waits for a slot. -/
def Plot.firstGroup (p : Plot) (row : Nat) : Option RowGroup := p.groups.find? fun g => g.row == row

/-- Take a group off a plot. -/
def Plot.dropGroup (p : Plot) (g : RowGroup) : Plot := { p with groups := p.groups.erase g }

/-- A group can execute: no thread of it has to wait before the instruction of its word (13 R255). -/
def State.groupReady (s : State) (tag : Nat) (g : RowGroup) : Bool :=
  match g.word with
  | .word w => s.wordReady (g.tids.map fun i => ⟨tag, i⟩) (.ok w)
  | .fault _ => true

/-- ROW_GROUP_EXECUTE (01 R26): with a slot free the group becomes a drill that executes at once, with the word fetched when the rendezvous completed
(11 R249); a thread killed meanwhile is absent, as is one that a late fault of an outstanding access has parked (23 R410; DESIGN CHOICE, log 67), and one that a still
stop waits for stops. It is none of the cycle's four drills and leaves the
search where it stands, as a single step does (DESIGN CHOICE, log 54). -/
def State.rowGroup (s : State) (tag row : Nat) : State :=
  match tget s.plots tag with
  | none => s
  | some p =>
    match p.firstGroup row, tfree (s.core p.core).drills 0 256 with
    | some g, some slot =>
      if !(s.plotPlaced tag && s.groupReady tag g) then s
      else
        let s1 := s.modPlot tag fun p => p.dropGroup g
        let here := (g.tids.map fun i => (⟨tag, i⟩ : Ref)).filter fun r =>
          match s.thread? r with | some t => t.atRendezvous | none => false
        let stops := here.filter fun r => match s.thread? r with | some t => t.stopReq | none => false
        let go := here.filter fun r => !stops.contains r
        let s2 := s1.stopAll stops
        if go.isEmpty then s2
        else { s2.newDrill p.core slot (byLane go) false (some g.word) with issueQ := (p.core, slot) :: s2.issueQ }
    | _, _ => s

/-! ## Ends of sleep -/

/-- File a thread whose sleep has ended, at PC + 4 (13 R258). -/
def State.wake (s : State) (r : Ref) : State :=
  match s.thread? r with
  | none => s
  | some t => s.fileThread r t.pc4 (rankWake r)

/-- What a thread sleeps in. -/
def State.sleepOf (s : State) (r : Ref) : Option Sleep :=
  match s.thread? r with
  | some t => match t.place with | .headland (.sleep k) => some k | _ => none
  | none => none

/-- The barrier a BCWAIT sleeps on, with its place. -/
def State.sleepBar (s : State) (r : Ref) (addr : Word) : Option (Nat × Nat × Barrier) :=
  match s.spadAt r.tag addr.toNat 16 with
  | .ok (tag, off) => some (tag, off, s.barAt tag off)
  | .error _ => none

/-- The condition of a sleep that THREAD_WAKE ends holds (13 Table 13.2, 17 R346). -/
def State.wakes (s : State) (r : Ref) : Bool :=
  s.placed r &&
  match s.sleepOf r, s.thread? r, tget s.plots r.tag with
  | some (.wait ld st cp tl), some t, _ => t.countsHold ld st cp tl
  | some (.bcwait addr ph), _, _ => match s.sleepBar r addr with | some (_, _, b) => b.phase != ph | none => false
  | some (.lwait _ x), some t, _ => t.landingOf x != .pending
  | some (.mwaitb n), _, some p => p.count n == 0
  | _, _, _ => false

/-- THREAD_WAKE (13 R258): the wait's acquire, its result, and the thread is filed at PC + 4. -/
def State.threadWake (s : State) (r : Ref) : State :=
  if !s.wakes r then s
  else match s.sleepOf r, s.thread? r with
    | some (.wait _ _ _ _), _ => (s.acquireCaches (s.coreOf r) .plot).wake r
    | some (.mwaitb _), _ => (s.acquireCaches (s.coreOf r) .plot).wake r
    | some (.bcwait addr _), _ => match s.sleepBar r addr with
      | some (tag, off, _) => (s.barAcquire r tag off).wake r
      | none => s
    | some (.lwait pd x), some t => (s.readLanding r t pd.val x).wake r
    | _, _ => s

/-- PAUSE_EXPIRY (07 R169). -/
def State.pauseOver (s : State) (r : Ref) : Bool :=
  s.placed r && match s.sleepOf r with | some (.pause c) => decide (c ≤ s.cycle) | _ => false

/-- The end of a PAUSE. -/
def State.pauseExpiry (s : State) (r : Ref) : State := if s.pauseOver r then s.wake r else s

/-- A WAITW sleeps until a write to the sector of its word has been performed, or 10 microseconds have passed (13 R283). -/
def State.watchDue (s : State) (r : Ref) : Bool :=
  s.placed r && match s.sleepOf r with
  | some (.waitw _ _ since) => decide (since + 10 * usec ≤ s.time) || s.watches.any fun w => w.ref == r && w.hit
  | _ => false

/-- A WAITW sleeps on. -/
def State.watchAgain (s : State) (r : Ref) (va : DWord) (v : Word) : State :=
  (s.watch r va.toNat).modThread r fun t => { t with place := .headland (.sleep (.waitw va v s.time)) }

/-- WAITW_RECHECK (13 R283): the word is read again; a fault parks the thread, a word that differs ends the sleep. -/
def State.waitwRecheck (s : State) (r : Ref) : State :=
  match s.sleepOf r, s.thread? r with
  | some (.waitw va v _), some t =>
    if !s.placed r then s
    else match s.watchWord (s.coreOf r) (s.ctxIdOf r) va.toNat with
      | (s1, .fault c) => ((s1.unwatch r).parkThread r (s1.recOf r 0 accLoad c va t.pc 0) t.pc).deliverRecs (s1.ctxIdOf r)
      | (s1, .held) => s1.watchAgain r va v
      | (s1, .word x tags) => if x ≠ v then ((s1.watchDone r tags).unwatch r).wake r else s1.watchAgain r va v
  | _, _ => s

/-- Every live thread of a plot has arrived at a list. -/
def Plot.allArrived (tag : Nat) (p : Plot) (l : List Ref) : Bool := p.threads.all fun (i, t) => !t.live || l.contains ⟨tag, i⟩

/-- The plot barrier is complete (13 R281). -/
def Plot.barpReady (p : Plot) : Bool :=
  let live := p.threads.filter fun (_, t) => t.live
  !live.isEmpty && live.all fun (i, _) => p.barp.contains i

/-- BARP_COMPLETE (13 R281): every arrived thread is filed at its PC + 4, and the next instance begins. -/
def State.barpComplete (s : State) (tag : Nat) : State :=
  match tget s.plots tag with
  | none => s
  | some p =>
    if !(p.barpReady && s.plotPlaced tag) then s
    else
      let rs := (p.barp.map fun i => (⟨tag, i⟩ : Ref)).filter fun r => s.sleepOf r == some .barp
      let s1 := (s.modPlot tag fun p => { p with barp := [] }).acquireCaches p.core .plot
      rs.foldl State.wake s1

/-- A member of a common has arrived whole: its plot is placed and every live thread has arrived, or it has retired (13 R282). -/
def State.memberArrived (s : State) (sow : Nat) (w : Sowing) (l : List Ref) (m : Nat × Nat) : Bool :=
  match s.plots.find? fun (_, p) => p.sow == sow && s.tractIndex p == m.1 && p.index == m.2 with
  | some (tag, p) => p.allArrived tag l
  | none => decide (m.1 < w.next)

/-- A common barrier is complete (13 R282). -/
def State.barcReady (s : State) (sow com : Nat) : Bool :=
  match tget s.sowings sow with
  | none => false
  | some w =>
    let l := (tget w.barc com).getD []
    !l.isEmpty && ((tget w.groups com).getD []).all (s.memberArrived sow w l)

/-- End a BARC of a thread: it is filed; where its tract is on its way out or swapped out, its sleep ends at swap-in (13 R260). -/
def State.barcWake (s : State) (com : Nat) (r : Ref) : State :=
  match s.sleepOf r with
  | some (.barc c) => if c ≠ com ∨ !s.placed r then s else (s.acquireCaches (s.coreOf r) .dev).wake r
  | _ => s

/-- The instance of a BARC that a thread sleeps in has completed: it has arrived at none. -/
def State.barcOver (s : State) (r : Ref) (com : Nat) : Bool :=
  match tget s.plots r.tag with
  | some p => match tget s.sowings p.sow with
    | some w => !((tget w.barc com).getD []).contains r
    | none => false
  | none => false

/-- BARC_COMPLETE (13 R282). -/
def State.barcComplete (s : State) (sow com : Nat) : State :=
  if !s.barcReady sow com then s
  else match tget s.sowings sow with
    | none => s
    | some w =>
      let l := (tget w.barc com).getD []
      l.foldl (fun s r => s.barcWake com r) (s.modSow sow fun w => { w with barc := tdel w.barc com })

/-! ## The steps -/

/-- ISSUE_CYCLE (01 R28). -/
def execIssueCycle (s : State) : Result := .next s.issueCycle

/-- FORM_DRILL (01 R24). -/
def execFormDrill (core : Nat) (s : State) : Result := .next (s.formDrill core)

/-- FURROW_AGE_ELIGIBLE (01 R24). -/
def execFurrowAgeEligible (core : Nat) (furrow : Nat) (s : State) : Result := .next (s.furrowAge core furrow)

/-- ROW_RENDEZVOUS_COMPLETE (01 R26). -/
def execRowRendezvousComplete (tag : Nat) (row : Nat) (s : State) : Result := .next (s.rowRendezvous tag row)

/-- ROW_GROUP_EXECUTE (07 R149). -/
def execRowGroupExecute (tag : Nat) (row : Nat) (s : State) : Result := .next (s.rowGroup tag row)

/-- THREAD_WAKE (13 R258). -/
def execThreadWake (tag : Nat) (tid : Nat) (s : State) : Result := .next (s.threadWake ⟨tag, tid⟩)

/-- PAUSE_EXPIRY (07 R169). -/
def execPauseExpiry (tag : Nat) (tid : Nat) (s : State) : Result := .next (s.pauseExpiry ⟨tag, tid⟩)

/-- WAITW_RECHECK (13 R283). -/
def execWaitwRecheck (tag : Nat) (tid : Nat) (s : State) : Result := .next (s.waitwRecheck ⟨tag, tid⟩)

/-- BARP_COMPLETE (13 R281). -/
def execBarpComplete (tag : Nat) (s : State) : Result := .next (s.barpComplete tag)

/-- BARC_COMPLETE (13 R282). -/
def execBarcComplete (sow : Nat) (com : Nat) (s : State) : Result := .next (s.barcComplete sow com)

end Sys2Proof.Machine
end

