-- ==== Sys2Proof/Machine/Banks.lean ====
section
/-! DEFINITION. How long an instruction delays its drill: the reads of its sources at the register banks of each lane (03 R53) and its
accesses at the scratchpad banks (09 R199, R200). -/

namespace Sys2Proof.Machine

/-- The sources of an instruction that is guarded: none in a thread whose guard is false (03 R49, R61; log 46). -/
def readWhen (b : Bool) (l : List (Reg × Nat)) : List (Reg × Nat) := if b then l else []

/-- The register sources of an instruction in a thread, with the number of registers each covers: a D that is also read is one (03 R53). -/
def Thread.sourcesOf (t : Thread) : Instr → List (Reg × Nat)
  | .iadd _ a b g => readWhen (gTR g t) [(a, 1), (b, 1)]
  | .isub _ a b g => readWhen (gTR g t) [(a, 1), (b, 1)]
  | .imul _ a b g => readWhen (gTR g t) [(a, 1), (b, 1)]
  | .imulh _ a b g => readWhen (gTR g t) [(a, 1), (b, 1)]
  | .imulhu _ a b g => readWhen (gTR g t) [(a, 1), (b, 1)]
  | .imad d a b g => readWhen (gTR g t) [(d, 1), (a, 1), (b, 1)]
  | .divs _ a b g => readWhen (gTR g t) [(a, 1), (b, 1)]
  | .divu _ a b g => readWhen (gTR g t) [(a, 1), (b, 1)]
  | .rems _ a b g => readWhen (gTR g t) [(a, 1), (b, 1)]
  | .remu _ a b g => readWhen (gTR g t) [(a, 1), (b, 1)]
  | .imin _ a b g => readWhen (gTR g t) [(a, 1), (b, 1)]
  | .imax _ a b g => readWhen (gTR g t) [(a, 1), (b, 1)]
  | .iminu _ a b g => readWhen (gTR g t) [(a, 1), (b, 1)]
  | .imaxu _ a b g => readWhen (gTR g t) [(a, 1), (b, 1)]
  | .iabs _ a g => readWhen (gTR g t) [(a, 1)]
  | .ineg _ a g => readWhen (gTR g t) [(a, 1)]
  | .andb _ a b g => readWhen (gTR g t) [(a, 1), (b, 1)]
  | .orb _ a b g => readWhen (gTR g t) [(a, 1), (b, 1)]
  | .xorb _ a b g => readWhen (gTR g t) [(a, 1), (b, 1)]
  | .andn _ a b g => readWhen (gTR g t) [(a, 1), (b, 1)]
  | .shl _ a b g => readWhen (gTR g t) [(a, 1), (b, 1)]
  | .shr _ a b g => readWhen (gTR g t) [(a, 1), (b, 1)]
  | .sar _ a b g => readWhen (gTR g t) [(a, 1), (b, 1)]
  | .rotl _ a b g => readWhen (gTR g t) [(a, 1), (b, 1)]
  | .popc _ a g => readWhen (gTR g t) [(a, 1)]
  | .clz _ a g => readWhen (gTR g t) [(a, 1)]
  | .brev _ a g => readWhen (gTR g t) [(a, 1)]
  | .bfe _ a b g => readWhen (gTR g t) [(a, 1), (b, 1)]
  | .bfi d a b g => readWhen (gTR g t) [(d, 1), (a, 1), (b, 1)]
  | .lea _ a b g => readWhen (gTR g t) [(a, 2), (b, 1)]
  | .sel _ a b _ => [(a, 1), (b, 1)]
  | .mov _ a g => readWhen (gTR g t) [(a, 1)]
  | .iadd64 _ a b g => readWhen (gTR g t) [(a, 2), (b, 2)]
  | .isub64 _ a b g => readWhen (gTR g t) [(a, 2), (b, 2)]
  | .imul64 _ a b g => readWhen (gTR g t) [(a, 2), (b, 2)]
  | .mov64 _ a g => readWhen (gTR g t) [(a, 2)]
  | .shl64 _ a b g => readWhen (gTR g t) [(a, 2), (b, 1)]
  | .shr64 _ a b g => readWhen (gTR g t) [(a, 2), (b, 1)]
  | .sar64 _ a b g => readWhen (gTR g t) [(a, 2), (b, 1)]
  | .imad64 d a b g => readWhen (gTR g t) [(d, 2), (a, 2), (b, 2)]
  | .icmpEq _ a b g => readWhen (gTR g t) [(a, 1), (b, 1)]
  | .icmpNe _ a b g => readWhen (gTR g t) [(a, 1), (b, 1)]
  | .icmpLt _ a b g => readWhen (gTR g t) [(a, 1), (b, 1)]
  | .icmpLe _ a b g => readWhen (gTR g t) [(a, 1), (b, 1)]
  | .icmpLtu _ a b g => readWhen (gTR g t) [(a, 1), (b, 1)]
  | .icmpLeu _ a b g => readWhen (gTR g t) [(a, 1), (b, 1)]
  | .itst _ a b g => readWhen (gTR g t) [(a, 1), (b, 1)]
  | .itstn _ a b g => readWhen (gTR g t) [(a, 1), (b, 1)]
  | .rtop _ a g => readWhen (gTR g t) [(a, 1)]
  | .fadd _ _ a b g => readWhen (gTR g t) [(a, 1), (b, 1)]
  | .fsub _ _ a b g => readWhen (gTR g t) [(a, 1), (b, 1)]
  | .fmul _ _ a b g => readWhen (gTR g t) [(a, 1), (b, 1)]
  | .ffma _ d a b g => readWhen (gTR g t) [(d, 1), (a, 1), (b, 1)]
  | .fmin _ _ a b g => readWhen (gTR g t) [(a, 1), (b, 1)]
  | .fmax _ _ a b g => readWhen (gTR g t) [(a, 1), (b, 1)]
  | .fcmpeq _ _ a b g => readWhen (gTR g t) [(a, 1), (b, 1)]
  | .fcmplt _ _ a b g => readWhen (gTR g t) [(a, 1), (b, 1)]
  | .fcmple _ _ a b g => readWhen (gTR g t) [(a, 1), (b, 1)]
  | .fcmpun _ _ a b g => readWhen (gTR g t) [(a, 1), (b, 1)]
  | .fdiv _ a b g => readWhen (gTR g t) [(a, 1), (b, 1)]
  | .fsqrt _ a g => readWhen (gTR g t) [(a, 1)]
  | .frsq _ a g => readWhen (gTR g t) [(a, 1)]
  | .frcp _ a g => readWhen (gTR g t) [(a, 1)]
  | .fexp2 _ a g => readWhen (gTR g t) [(a, 1)]
  | .flog2 _ a g => readWhen (gTR g t) [(a, 1)]
  | .fsinpi _ a g => readWhen (gTR g t) [(a, 1)]
  | .fcospi _ a g => readWhen (gTR g t) [(a, 1)]
  | .ftanh _ a g => readWhen (gTR g t) [(a, 1)]
  | .fsigm _ a g => readWhen (gTR g t) [(a, 1)]
  | .fldexp _ a b g => readWhen (gTR g t) [(a, 1), (b, 1)]
  | .frint _ a g => readWhen (gTR g t) [(a, 1)]
  | .cvtfi _ a _ _ g => readWhen (gTR g t) [(a, 1)]
  | .cvtif _ a _ _ g => readWhen (gTR g t) [(a, 1)]
  | .cvtff _ a _ _ g => readWhen (gTR g t) [(a, 1)]
  | .cvtpk _ a ce g => readWhen (gTR g t) [(a, packRegs ce)]
  | .fabs _ a g => readWhen (gTR g t) [(a, 1)]
  | .fneg _ a g => readWhen (gTR g t) [(a, 1)]
  | .fcpys _ a b g => readWhen (gTR g t) [(a, 1), (b, 1)]
  | .fclass _ a g => readWhen (gTR g t) [(a, 1)]
  | .xacc d a b g => readWhen (gTR g t) [(d, 4), (a, 1), (b, 1)]
  | .xadd d a g => readWhen (gTR g t) [(d, 4), (a, 4)]
  | .xcvt _ a _ g => readWhen (gTR g t) [(a, 4)]
  | .xneg _ a g => readWhen (gTR g t) [(a, 4)]
  | .xanc a g => readWhen (gTR g t) [(a, 1)]
  | .xdoth d a b g => readWhen (gTR g t) [(d, 4), (a, 1), (b, 1)]
  | .xdotb d a b g => readWhen (gTR g t) [(d, 4), (a, 1), (b, 1)]
  | .xcmp _ a b g => readWhen (gTR g t) [(a, 4), (b, 4)]
  | .rshf _ a b g => readWhen (gTR g t) [(a, 1), (b, 1)]
  | .rshfx _ a b g => readWhen (gTR g t) [(a, 1), (b, 1)]
  | .rbcast _ a _ g => readWhen (gTR g t) [(a, 1)]
  | .rredAddi _ a rt g => readWhen (gTR g t) [(a, rtRegs rt)]
  | .rredAddf _ a g => readWhen (gTR g t) [(a, 1)]
  | .rredMin _ a rt g => readWhen (gTR g t) [(a, rtRegs rt)]
  | .rredMax _ a rt g => readWhen (gTR g t) [(a, rtRegs rt)]
  | .rscani _ a rt _ g => readWhen (gTR g t) [(a, rtRegs rt)]
  | .rscanf _ a _ g => readWhen (gTR g t) [(a, 1)]
  | .movhi d _ => [(d, 1)]
  | .addi d _ => [(d, 1)]
  | .andi d _ => [(d, 1)]
  | .ori d _ => [(d, 1)]
  | .xori d _ => [(d, 1)]
  | .shli d _ => [(d, 1)]
  | .shri d _ => [(d, 1)]
  | .faddiF32 d _ => [(d, 1)]
  | .fmuliF32 d _ => [(d, 1)]
  | .ld _ a _ _ _ _ _ => [(a, 2)]
  | .st d a _ _ _ _ sz => [(d, szRegs sz), (a, 2)]
  | .lds _ a _ _ => [(a, 1)]
  | .sts d a _ sz => [(d, szRegs sz), (a, 1)]
  | .atomAdd w d a _ _ _ => [(d, if w then 2 else 1), (a, 2)]
  | .atomAnd w d a _ _ _ => [(d, if w then 2 else 1), (a, 2)]
  | .atomOr w d a _ _ _ => [(d, if w then 2 else 1), (a, 2)]
  | .atomXor w d a _ _ _ => [(d, if w then 2 else 1), (a, 2)]
  | .atomMin w d a _ _ _ => [(d, if w then 2 else 1), (a, 2)]
  | .atomMax w d a _ _ _ => [(d, if w then 2 else 1), (a, 2)]
  | .atomMinu w d a _ _ _ => [(d, if w then 2 else 1), (a, 2)]
  | .atomMaxu w d a _ _ _ => [(d, if w then 2 else 1), (a, 2)]
  | .atomExch w d a _ _ _ => [(d, if w then 2 else 1), (a, 2)]
  | .atomCas w d a _ _ _ => [(d, if w then 4 else 2), (a, 2)]
  | .atomFaddF32 d a _ _ _ => [(d, 1), (a, 2)]
  | .atomXadd128 d a _ _ _ => [(d, 4), (a, 2)]
  | .atomIncw w d a _ _ _ => [(d, if w then 2 else 1), (a, 2)]
  | .atomDecw w d a _ _ _ => [(d, if w then 2 else 1), (a, 2)]
  | .atomsAdd w d a _ _ => [(d, if w then 2 else 1), (a, 1)]
  | .atomsAnd w d a _ _ => [(d, if w then 2 else 1), (a, 1)]
  | .atomsOr w d a _ _ => [(d, if w then 2 else 1), (a, 1)]
  | .atomsXor w d a _ _ => [(d, if w then 2 else 1), (a, 1)]
  | .atomsMin w d a _ _ => [(d, if w then 2 else 1), (a, 1)]
  | .atomsMax w d a _ _ => [(d, if w then 2 else 1), (a, 1)]
  | .atomsMinu w d a _ _ => [(d, if w then 2 else 1), (a, 1)]
  | .atomsMaxu w d a _ _ => [(d, if w then 2 else 1), (a, 1)]
  | .atomsExch w d a _ _ => [(d, if w then 2 else 1), (a, 1)]
  | .atomsCas w d a _ _ => [(d, if w then 4 else 2), (a, 1)]
  | .atomsFaddF32 d a _ _ => [(d, 1), (a, 1)]
  | .atomsXadd128 d a _ _ => [(d, 4), (a, 1)]
  | .atomsIncw w d a _ _ => [(d, if w then 2 else 1), (a, 1)]
  | .atomsDecw w d a _ _ => [(d, if w then 2 else 1), (a, 1)]
  | .lr _ a _ _ _ _ _ => [(a, 2)]
  | .sc d a _ _ _ _ sz => [(d, szRegs sz), (a, 2)]
  | .calli g a => readWhen (gY g t) [(a, 2)]
  | .jmpi g a => readWhen (gY g t) [(a, 2)]
  | .pause g a => readWhen (gY g t) [(a, 1)]
  | .barc a => [(a, 1)]
  | .bcinit a b => [(a, 1), (b, 1)]
  | .bcexp a b => [(a, 1), (b, 1)]
  | .bcarr a b => [(a, 1), (b, 1)]
  | .bcwait a _ => [(a, 1)]
  | .bctest _ a _ => [(a, 1)]
  | .waitw a b => [(a, 2), (b, 1)]
  | .mint _ _ b => [(b, 1)]
  | .land _ _ w a b => [(a, 2), (b, if w then 2 else 1)]
  | .ldrop a => [(a, 2)]
  | .rnext _ a => [(a, 1)]
  | .mma g a => readWhen (gY g t) [(a, 1)]
  | .mdrain g a => readWhen (gY g t) [(a, 1)]
  | .apipe g a => readWhen (gY g t) [(a, 1)]
  | .cpost g a => readWhen (gY g t) [(a, 1)]
  | .qpost g a b => readWhen (gY g t) [(a, 2), (b, 1)]
  | .ttld _ a => [(a, 1)]
  | .ttst g a b => readWhen (gY g t) [(a, 1), (b, 16)]
  | .ttinv g a => readWhen (gY g t) [(a, 1)]
  | .vbind g a b => readWhen (gY g t) [(a, 1), (b, 2)]
  | .vunbind g b => readWhen (gY g t) [(b, 2)]
  | .swr a _ => [(a, 1)]
  | .swrFpark a => [(a, 1)]
  | .swrLpwc a _ => [(a, 1)]
  | .cinv a _ _ => [(a, 2)]
  | .cwb a => [(a, 2)]
  | .tlbinv a _ => [(a, 2)]
  | .seedset a => [(a, 1)]
  | _ => []

/-- The physical registers that a thread reads: the names that occupy no bank and operands outside its registers give none (03 R53).
A register that two source operands name counts for each of them (log 46). -/
def Thread.readRegs (t : Thread) (l : List (Reg × Nat)) : List Nat :=
  l.flatMap fun (r, c) => match t.phys r with
    | some x => if t.inRange r c then (List.range c).map (x + ·) else []
    | none => []

/-- The most entries of a list that lie in one of n banks. -/
def mostInBank (n : Nat) (l : List Nat) : Nat := (List.range n).foldl (fun m b => max m (l.countP fun x => x % n == b)) 0

/-- Cycles beyond the first that one lane's register banks take (03 R53). -/
def Thread.bankDelay (t : Thread) (i : Instr) : Nat := mostInBank 4 (t.readRegs (t.sourcesOf i)) - 1

/-- The scratchpad address and the bytes of an access of a thread (09 R200, 13 R264, R269). -/
def Thread.spadAccess (t : Thread) (e : Env) : Instr → Option (Nat × Nat)
  | .lds _ a off sz => some (t.eaS e a off (szBytes sz), szBytes sz)
  | .sts _ a off sz => some (t.eaS e a off (szBytes sz), szBytes sz)
  | .atomsAdd w _ a _ _ => some ((t.rd32 e a).toNat, atomBytes w)
  | .atomsAnd w _ a _ _ => some ((t.rd32 e a).toNat, atomBytes w)
  | .atomsOr w _ a _ _ => some ((t.rd32 e a).toNat, atomBytes w)
  | .atomsXor w _ a _ _ => some ((t.rd32 e a).toNat, atomBytes w)
  | .atomsMin w _ a _ _ => some ((t.rd32 e a).toNat, atomBytes w)
  | .atomsMax w _ a _ _ => some ((t.rd32 e a).toNat, atomBytes w)
  | .atomsMinu w _ a _ _ => some ((t.rd32 e a).toNat, atomBytes w)
  | .atomsMaxu w _ a _ _ => some ((t.rd32 e a).toNat, atomBytes w)
  | .atomsExch w _ a _ _ => some ((t.rd32 e a).toNat, atomBytes w)
  | .atomsCas w _ a _ _ => some ((t.rd32 e a).toNat, atomBytes w)
  | .atomsFaddF32 _ a _ _ => some ((t.rd32 e a).toNat, 4)
  | .atomsXadd128 _ a _ _ => some ((t.rd32 e a).toNat, 16)
  | .atomsIncw w _ a _ _ => some ((t.rd32 e a).toNat, atomBytes w)
  | .atomsDecw w _ a _ _ => some ((t.rd32 e a).toNat, atomBytes w)
  | _ => none

/-- The bank words of a core that a thread touches, each with its core: none where the access is not made (09 R199, R200). -/
def State.spadWords (s : State) (i : Instr) (r : Ref) : List (Nat × Nat) :=
  match tget s.plots r.tag, s.thread? r with
  | some p, some t =>
    match t.spadAccess (s.env r p) i with
    | none => []
    | some (va, n) =>
      if va % n ≠ 0 then []
      else match s.spadAt r.tag va n with
        | .error _ => []
        | .ok (tag, off) => match tget s.plots tag with
          | none => []
          | some q => (List.range ((n + 3) / 4)).map fun j => (q.core, (q.spadBase + off) / 4 + j)
  | _, _ => []

/-- Cycles beyond the first at the scratchpad banks: lanes that read one bank word share the read (09 R200). -/
def State.spadDelay (s : State) (i : Instr) (l : List Ref) : Nat :=
  let ws := (l.flatMap (s.spadWords i)).eraseDups
  (ws.foldl (fun m (c, w) => max m (ws.countP fun (d, v) => d == c && v % 64 == w % 64)) 0) - 1

/-- Cycles beyond the first that an instruction takes over the lanes of a drill: those of its register sources in the lane that takes the
longest, then those of the scratchpad banks (03 R53, 09 R200). -/
def State.extraCycles (s : State) (i : Instr) (l : List Ref) : Nat :=
  l.foldl (fun m r => max m (((s.thread? r).map fun t => t.bankDelay i).getD 0)) 0 + s.spadDelay i l

end Sys2Proof.Machine
end

