-- ==== Sys2Proof/Machine/Pins.lean ====
section
/-! DEFINITION. Accesses of the steward, of peers and of the host to physical local addresses (23 R418, R424, R434), and the pin areas of
the cores (09 R183). -/

namespace Sys2Proof.Machine

/-! ## Physical local addresses -/

/-- Bytes that HBM4 holds (09 R173). -/
def physOk (pa n : Nat) : Bool := decide (pa + n ≤ 2 ^ 39)

/-- Read n bytes at a local address, line by line. -/
def State.physRead (s : State) : Nat → Nat → Nat → State × List Byte
  | 0, _, _ => (s, [])
  | fuel + 1, pa, n =>
    if n = 0 then (s, [])
    else
      let k := chunk pa n
      let (s1, l) := s.rdPhys 128 s.physAt 0 (s.physAt.pa pa) k
      let (s2, l') := s1.physRead fuel (pa + k) (n - k)
      (s2, l ++ l')

/-- Write bytes at a local address, line by line. -/
def State.physWrite (s : State) (src : Option SyncSrc) : Nat → Nat → List Byte → State
  | 0, _, _ => s
  | fuel + 1, pa, l =>
    if l.isEmpty then s
    else
      let k := chunk pa l.length
      (s.wrPhys 128 none s.physAt 0 (s.physAt.pa pa) (l.take k) src).physWrite src fuel (pa + k) (l.drop k)

/-- Lines that n bytes can touch. -/
def lineFuel (n : Nat) : Nat := n / 128 + 2

/-! ## Pin areas -/

/-- Bytes of a memory in a range, kept sparse. -/
def memPart (m : Mem) (a n : Nat) : Mem := m.filter fun (k, _) => decide (a ≤ k) && decide (k < a + n)

/-- A memory without a range. -/
def memWithout (m : Mem) (a n : Nat) : Mem := m.filter fun (k, _) => !(decide (a ≤ k) && decide (k < a + n))

/-- A range of one memory replaced by n bytes of another. -/
def memCopy (into : Mem) (at' : Nat) (src : Mem) (a n : Nat) : Mem :=
  (memPart src a n).foldl (fun m x => mput m (at' + (x.1 - a)) x.2) (memWithout into at' n)

/-- The size of a pin area: the top 1 MiB of a core's scratchpad (09 R183). -/
def pinAreaBytes : Nat := 2 ^ 20

/-- A range of a pin area that no page holds. -/
def pinFree (t : Tab PinPage) (off n : Nat) : Bool := t.all fun (b, x) => decide (off + n ≤ b) || decide (b + x.size ≤ off)

/-- Where a page is put: the lowest free place on a multiple of its size (DESIGN CHOICE, log 50); none where the area has none. -/
def pinGap (t : Tab PinPage) (n : Nat) : Option Nat :=
  ((List.range (pinAreaBytes / n)).map (n * ·)).find? fun off => pinFree t off n

/-- The page of a pin area with a frame. -/
def pinOfFrame (t : Tab PinPage) (frame : Nat) : Option (Nat × PinPage) := t.find? fun (_, x) => x.frame == frame

/-- Bytes of a pin area are about to change hands: reservations on them are lost, WAITWs on them look again, and their sources go. -/
def State.turnPin (s : State) (own off n : Nat) : State :=
  let key := placeKey (some own, off)
  (({ s with relTags := s.relTags.filter fun (a, _) => !(decide (key ≤ a) && decide (a < key + n)) } : State).dropReservations none key n).hitWatches key n

/-- The unsown rows that a copy of a frame reads are counted (09 R203). -/
def State.countFrame (s : State) (a n : Nat) : State :=
  (List.range (n / 128)).foldl (fun s i => s.countUnsown (a + 128 * i)) s

/-- The steward reads lines of another device, each by a request of class A (23 R406). -/
def State.farLines (s : State) (dev : Nat) : Nat → State
  | 0 => s
  | n + 1 => (s.usePort dev .a).farLines dev n

/-- The frame is copied into the pin area of its core; the bytes of a frame on another device are free (log 18). A frame outside the DRAM of its
device (09 R173) is no page of the pin area: every access through its entry takes the bad-frame fault. -/
def State.pinIn (s : State) (frame own n : Nat) : Option State :=
  if !s.frameIn frame n then some s
  else match pinGap (s.core own).pinPages n with
  | none => none
  | some off =>
    let a := localOf frame
    let s1 := s.turnPin own off n
    let (s2, pin) : State × Mem :=
      if devOf frame = s.device then (s1.countFrame a n, memCopy (s1.core own).pin off s1.mem a n)
      else let (s2, l) := (s1.farLines (devOf frame) (n / 128)).freeBytes n; (s2, mwrites (s1.core own).pin off l)
    some (s2.modCore own fun k => { k with pin := pin, pinPages := tput k.pinPages off { frame := frame, size := n } })

/-- Bytes sent to another device, line by line. -/
def State.sendLines (s : State) : Nat → Nat → List Byte → State
  | 0, _, _ => s
  | fuel + 1, pa, l => if l.isEmpty then s else ((s.usePort (devOf pa) .a).sendWrite pa (l.take 128)).sendLines fuel (pa + 128) (l.drop 128)

/-- The pin area's bytes are copied back into their frame, as writes of the steward. -/
def State.pinOut (s : State) (frame own : Nat) : State :=
  match pinOfFrame (s.core own).pinPages frame with
  | none => s
  | some (off, x) =>
    let l := mreads (s.core own).pin off x.size
    let s1 := if devOf frame = s.device then s.physWrite none (lineFuel x.size) (localOf frame) l else s.sendLines (lineFuel x.size) frame l
    (s1.turnPin own off x.size).modCore own fun k => { k with pin := memWithout k.pin off x.size, pinPages := tdel k.pinPages off }

/-- The steward's access to a frame of another device is held for want of a port (23 R410), or that device is cut off. -/
def State.frameHeld (s : State) (frame : Nat) : Bool := s.noPort s.physAt frame
def State.frameCut (s : State) (frame : Nat) : Bool := devOf frame != s.device && s.cut (devOf frame)

/-- A leaf that pins its page in the scratchpad of core OWN. -/
def ptePins (p : Nat) : Bool := pteV p && pteLeaf p && !pteView p && pteHome p == 1

/-- A page's bytes by its entry. -/
def pinBytes (p : Nat) : Nat := if pteC p then 65536 else 4096

/-- The physical address of an entry's frame. -/
def pteAddr (p : Nat) : Nat := pteFrame p * 4096

end Sys2Proof.Machine
end

