-- ==== Sys2Proof/Machine/Queues.lean ====
section
/-! DEFINITION. Work queues and the front end (15 R299 to R305, R314, R440, R441), queue tokens (01 R36), placement (01 R30, R31,
R25, 14 R298), retirement and the completion of a sowing (01 R35, 15 R305), and what makes a tract a swap candidate (01 R33). -/

namespace Sys2Proof.Machine

/-! ## Accesses of the front end (15 R440) -/

/-- A queue's own access does not go through: where no port leads to another device it is held (23 R410); a fault leaves a record in its context's queue, and the
queue's work waits; a violation freezes the queue (21 Table 21.13). -/
def State.queueWait (s : State) (q acc code addr : Nat) : State :=
  match tget s.queues q with
  | none => s
  | some x =>
    if code = fcNoPort then s.modQueue q fun x => { x with held := true }
    else if code = fcFreeze then
      (({ s with steward := { s.steward with log := s.steward.log ++ [(0x22, addr)] } } : State).modQueue q fun x => { x with frozen := true }).event
        evFreeze q
    else
      let (h, s1) := s.fresh
      (s1.modQueue q fun x => { x with waitRec := some h }).report x.ctx (queueRec acc code addr h)

/-- A packet has ended: its completion record is stored, released at a scope, and it completes; where the store faults it waits for that (15 R314, R440). -/
def State.endAt (s : State) (q ctx scope status code detail : Nat) : State :=
  if !statusUsed status then s
  else
    let bytes := natLe 64 (scope * 2 ^ 14 + status * 2 ^ 448)
    let c : CopyCmd :=
      { newCopy none none (some q) ctx 0 bytes 0 [] with
        needEntry := false, stage := .moved, todo := some [], code := code, detail := detail }
    let (id, s1) := s.putCopy c
    (s1.modQueue q fun x => { x with open' := x.open' ++ [id] }).copyComplete id

/-- A packet other than a copy has ended: its record is released at system scope (15 R314). -/
def State.endPacket (s : State) (q ctx status code detail : Nat) : State := s.endAt q ctx 3 status code detail

/-- Address of a slot of a registered queue: the ring of the header, the size of the registration (15 R299, log 20). -/
def Queue.slotVa (x : Queue) (h n : Nat) : Nat := (bits h 191 128 + 64 * (n % 2 ^ x.log2)) % 2 ^ 64

/-- The bits of a queue's header. -/
def State.queueHeader (s : State) (x : Queue) : State × Except Nat Nat :=
  match s.anyRead 128 x.ctx x.va 64 accLoad with
  | (s, .error c) => (s, .error c)
  | (s, .ok l) => (s, .ok (leNat l))

/-- Slots of a packet kind (15 Table 15.2). -/
def kindSlots (kind : Nat) : Nat := if kind = 1 then 2 else 1

/-- Read slots; the first fault with its address. -/
def State.readSlots (s : State) (x : Queue) (h : Nat) : Nat → Nat → State × Except (Nat × Nat) (List Byte)
  | _, 0 => (s, .ok [])
  | n, k + 1 =>
    match s.anyRead 128 x.ctx (x.slotVa h n) 64 accLoad with
    | (s, .error c) => (s, .error (c, x.slotVa h n))
    | (s, .ok l) =>
      match s.readSlots x h (n + 1) k with
      | (s, .error f) => (s, .error f)
      | (s, .ok l') => (s, .ok (l ++ l'))

/-- Write 0 to bytes 0 to 7 of slots; the first fault with its address. -/
def State.clearSlots (s : State) (x : Queue) (h : Nat) : Nat → Nat → State × Except (Nat × Nat) Unit
  | _, 0 => (s, .ok ())
  | n, k + 1 =>
    match s.anyWrite 128 x.ctx none (x.slotVa h n) (List.replicate 8 0) accStore none with
    | (s, .error c) => (s, .error (c, x.slotVa h n))
    | (s, .ok _) => s.clearSlots x h (n + 1) k

/-- The STATUS address of a packet: bits [511:448] of its last slot (15 R302). -/
def Packet.status (p : Packet) : Nat := bits (leNat (p.bytes.drop (p.bytes.length - 64))) 511 448

/-- Change the packet a queue holds. -/
def State.setPacket (s : State) (q : Nat) (p : Option Packet) : State := s.modQueue q fun x => { x with packet := p }

/-- A copy packet is checked as it is taken (15 R301, R315), the record of a rejected one released at its SCOPE (R314); one whose entry cannot be read yet is checked when the engine has read it (R440). -/
def State.checkCopy (s : State) (q : Nat) (x : Queue) (p : Packet) : State :=
  let v := leNat p.bytes
  match s.copyEntry 128 x.ctx v with
  | (s1, .error _) => s1.setPacket q (some { p with stage := .taken })
  | (s1, .ok e) =>
    match firstFailed (copyChecks v true (if e.isEmpty then none else some (leNat e))) with
    | some (code, detail) => (s1.setPacket q none).endAt q x.ctx (ccScope v) p.status code detail
    | none => s1.setPacket q (some { p with stage := .taken, entry := some e })

/-- The packet is the front end's: a kind that no queue knows ends at once with bad kind (15 R302). -/
def State.packetTaken (s : State) (q : Nat) (x : Queue) (p : Packet) : State :=
  if 8 ≤ p.kind then (s.setPacket q none).endPacket q x.ctx p.status csBadKind 0
  else if 2 ≤ p.kind ∧ p.kind ≤ 5 then s.checkCopy q x p
  else s.setPacket q (some { p with stage := .taken })

/-- RIX := n + k, a release at system scope (15 R301). -/
def State.writeRix (s : State) (q : Nat) (x : Queue) (p : Packet) : State :=
  match s.anyWrite 128 x.ctx none (x.va + 8) (natLe 8 (p.n + kindSlots p.kind)) accStore (some { agent := s.deviceAgent, scope := .sys }) with
  | (s, .error c) => (s.setPacket q (some { p with stage := .cleared })).queueWait q accStore c (x.va + 8)
  | (s, .ok _) => s.packetTaken q x p

/-- Clear the headers of the packet's slots, then go on (15 R301). -/
def State.clearPacket (s : State) (q : Nat) (x : Queue) (h : Nat) (p : Packet) : State :=
  match s.clearSlots x h p.n (kindSlots p.kind) with
  | (s, .error (c, a)) => (s.setPacket q (some p)).queueWait q accStore c a
  | (s, .ok _) => s.writeRix q x p

/-- A release whose instance contains the front end and the distributor of this device (11 R221): at system scope, or at device scope by an agent of this
device. -/
def State.reachesFront (s : State) (x : SyncSrc) : Bool := x.scope == .sys || (x.scope == .dev && x.agent.dev == s.device)

/-- The sources of 8 bytes that the front end reads: those of this device, and of another device free ones (log 18). The host reports none; whether the header in its
memory was released is a free choice (log 35). -/
def State.frontTags (s : State) (ctx va : Nat) : State × List SyncSrc :=
  match (s.bytesAt 128 ctx va 8).find? fun (a, e) => s.away e (e.pa a) with
  | none => (s, s.vaTags 128 ctx va 8)
  | some (a, e) =>
    if s.isHost (e.pa a) then
      let (k, s1) := s.draw
      (s1, if bit (Config.freeNat k) 0 then [{ agent := { dev := s.locked.hostDev, tract := none, plot := none }, scope := .sys }] else [])
    else s.freeTags (e.pa a)

/-- A synchronisation edge joins the release of the header at an address to the front end's reading of it (11 R249): the header carries a release, at device scope of
an agent of this device, or at system scope. -/
def State.headerEdge (s : State) (ctx va : Nat) : State × Bool := let (s1, l) := s.frontTags ctx va; (s1, l.any s1.reachesFront)

/-- The front end reads the header of the next slot; a packet that is there is read whole (15 R301). -/
def State.readPacket (s : State) (q : Nat) (x : Queue) (h : Nat) : State :=
  let n := bits h 127 64
  let (s, edge) := s.headerEdge x.ctx (x.slotVa h n)
  match s.anyRead 128 x.ctx (x.slotVa h n) 8 accLoad with
  | (s, .error c) => s.queueWait q accLoad c (x.slotVa h n)
  | (s, .ok l) =>
    let kind := leNat l % 256
    if kind = 0 ∨ bits (leNat l) 63 48 ≠ n % 65536 then s
    else match s.readSlots x h n (kindSlots kind) with
      | (s, .error (c, a)) => s.queueWait q accLoad c a
      | (s, .ok b) =>
        let (order, s) := s.fresh
        s.clearPacket q x h { n := n, kind := kind, bytes := b, order := order, edge := edge, entry := none, stage := .read }

/-- The next access of the front end at a queue, with its header (15 R301). -/
def State.packetStep (s : State) (q : Nat) (x : Queue) (f : State → Nat → State) : State :=
  match s.queueHeader x with
  | (s, .error c) => s.queueWait q accLoad c x.va
  | (s, .ok h) => f s h

/-- FRONT_END_TAKE_PACKET (15 R301): also goes on after a fault on the way was serviced. A frozen host's queues, which are all queues
of the device, give no packet (21 Table 21.13). -/
def State.takePacket (s : State) (q : Nat) : State :=
  match tget s.queues q with
  | none => s
  | some x =>
    if x.waitRec.isSome ∨ x.held ∨ x.frozen ∨ s.hostFrozen then s
    else match x.packet with
      | none => s.packetStep q x fun s h => s.readPacket q x h
      | some p => match p.stage with
        | .read => s.packetStep q x fun s h => s.clearPacket q x h p
        | .cleared => s.writeRix q x p
        | .taken => s
        | .launched => s

/-- A taken packet of some kinds that the queue can act on. -/
def Queue.taken (x : Queue) (kinds : Nat → Bool) : Option Packet :=
  match x.packet with
  | some p => if p.stage == .taken && kinds p.kind && x.waitRec.isNone && !x.held then some p else none
  | none => none

/-! ## Nop, token signal, queue copy (15 R303, R314, R441) -/

/-- Checks of a nop and of a token signal: bits outside the header that must be 0, TOKEN, STATUS (15 R314, R315). -/
def smallChecks (v kind : Nat) : List Failed :=
  let low := if kind = 6 then 192 else 64
  failIf (bits v 447 low != 0) csReserved [low] ++
  failIf (kind == 6 && bits v 127 64 % 8 != 0) csGeometry [64] ++
  failIf (bits v 511 448 % 8 != 0) csGeometry [448]

/-- NOP_PACKET (15 R303): it completes at once. -/
def State.nopPacket (s : State) (q : Nat) : State :=
  match tget s.queues q with
  | none => s
  | some x => match x.taken fun k => k == 7 with
    | none => s
    | some p =>
      let (code, detail) := (firstFailed (smallChecks (leNat p.bytes) 7)).getD (0, 0)
      (s.setPacket q none).endPacket q x.ctx p.status code detail

/-- The place of a token's word, where it is on this device. -/
def State.tokPlace (s : State) (ctx va : Nat) : Option (Option Nat × Nat) :=
  match (s.xlate 128 ctx va accLoad).2 with
  | .ok e => if e.view || s.away e (e.pa va) then none else some (s.placeOf e (e.pa va))
  | .error _ => none

/-- Note an update of a token that the device makes, for every launch that waits for it, now or later: the value it leaves and the producer's cores (01 R37). A
signal of a queue none of whose sowings has completed has no producer's cores: nothing is noted, and its readers acquire at system scope, the scope of the word's own
release (DESIGN CHOICE, log 35). -/
def State.noteUpdate (s : State) (ctx va v : Nat) (cores : List Nat) : State :=
  match s.tokPlace ctx va with
  | none => s
  | some at' =>
    { s with tokUpds := if cores.isEmpty then tdel s.tokUpds (placeKey at') else tput s.tokUpds (placeKey at') { value := v, cores := cores } }

/-- Add to the 64-bit word of a token, as a release of the front end (15 R314, 11 R250): cores are those of the producing sowing. The edges of 01 R37 are
carried by the distributor; for another reader of the word the release has system scope (log 59). -/
def State.addWord (s : State) (ctx va v : Nat) (cores : List Nat) : State × Except Nat Unit :=
  match s.atomicRead 128 ctx va 8 with
  | (s, .error c) => (s, .error c)
  | (s, .ok l) =>
    match s.anyWrite 128 ctx none va (natLe 8 (leNat l + v)) accAtomic (some { agent := s.deviceAgent, scope := .sys }) with
    | (s, .error c) => (s, .error c)
    | (s, .ok _) => (s.noteUpdate ctx va ((leNat l + v) % 2 ^ 64) cores, .ok ())

/-- A token signal can act: rejected at once, or every earlier packet of its queue has completed (15 R303). -/
def Queue.signalReady (x : Queue) (p : Packet) : Bool := (firstFailed (smallChecks (leNat p.bytes) 6)).isSome || x.open'.isEmpty

/-- TOKEN_SIGNAL (15 R314). 01 R37 speaks of the producing sowing's cores, and a signal has no sowing of its own: the producer's cores are those of every sowing of its
queue that has completed since the registration (DESIGN CHOICE, log 35). -/
def State.tokenSignal (s : State) (q : Nat) : State :=
  match tget s.queues q with
  | none => s
  | some x => match x.taken fun k => k == 6 with
    | none => s
    | some p =>
      let v := leNat p.bytes
      if !x.signalReady p then s
      else match firstFailed (smallChecks v 6) with
        | some (code, detail) => (s.setPacket q none).endPacket q x.ctx p.status code detail
        | none =>
          match s.addWord x.ctx (bits v 127 64) (bits v 191 128) x.used with
          | (s, .error c) => s.queueWait q accAtomic c (bits v 127 64)
          | (s, .ok _) => (s.setPacket q none).endPacket q x.ctx p.status 0 0

/-- Copies the queue copy engine holds. -/
def State.queueCopies (s : State) : Nat := (s.copies.filter fun (_, c) => c.ref.isNone && ccKind c.raw != 0).length

/-- QUEUE_COPY_HANDOFF (15 R441): in slot order, while the engine holds fewer than 256 copies. -/
def State.copyHandoff (s : State) (q : Nat) : State :=
  match tget s.queues q with
  | none => s
  | some x => match x.taken fun k => decide (2 ≤ k) && decide (k ≤ 5) with
    | none => s
    | some p =>
      if 256 ≤ s.queueCopies then s
      else
        let c := newCopy none none (some q) x.ctx 0 p.bytes (BitVec.ofNat 2 (ccRm (leNat p.bytes))) (p.entry.getD [])
        let (id, s1) := s.putCopy { c with needEntry := p.entry.isNone }
        s1.modQueue q fun y => { y with packet := none, open' := y.open' ++ [id] }

/-! ## Launch (15 R304, R305, 01 R21) -/

/-- Fields of a launch packet (15 Table 15.3). -/
def lpTracts (v : Nat) : Nat := bits v 39 16 + 1
def lpNtok (v : Nat) : Nat := bits v 14 13
def lpPlots (v : Nat) : Nat := bits v 12 10 + 1
def lpRmode (v : Nat) : Nat := bits v 9 8
def lpRa (v : Nat) : Nat := 16 * (bits v 126 122 + 1)
def lpSize (v : Nat) : Nat := 64 * (bits v 121 116 + 1)
def lpEntry (v : Nat) : Nat := bits v 115 64
def lpSeed (v : Nat) : Nat := bits v 191 160
def lpSpadKB (v : Nat) : Nat := bits v 155 142
def lpM (v : Nat) : Nat := 64 * bits v 141 135
def lpC (v : Nat) : Nat := 64 * bits v 134 128
def lpK (v j : Nat) : Nat := bits v (32 * j + 223) (32 * j + 192)
def lpGroups (v : Nat) : Nat := bits v 575 512
def lpTok (v j : Nat) : Nat := bits v (128 * j + 639) (128 * j + 576)
def lpThr (v j : Nat) : Nat := bits v (128 * j + 703) (128 * j + 640)
def lpDone (v : Nat) : Nat := bits v 895 832
def lpStatus (v : Nat) : Nat := bits v 959 896

/-- The checks of 15 R305 but for the membership image, each with the lowest bits of its fields (R315). -/
def launchChecks (v : Nat) : List Failed :=
  failIf (bits v 47 40 != 0) csReserved [40] ++ failIf (bit v 15) csReserved [15] ++ failIf (lpNtok v == 3) csReserved [13] ++
  failIf (bit v 127) csReserved [127] ++ failIf (lpEntry v % 4 != 0) csReserved [64] ++ failIf (bits v 159 156 != 0) csReserved [156] ++
  failIf (bits v 1023 960 != 0) csReserved [960] ++
  failIf (decide (lpSize v < lpC v + lpM v)) csShape [116, 128, 135] ++
  failIf (decide (8192 < lpSize v / 64 * lpRa v)) csShape [116, 122] ++
  failIf (decide (7168 < lpSpadKB v)) csShape [142] ++
  failIf (decide (1 ≤ lpNtok v) && lpTok v 0 % 8 != 0) csGeometry [576] ++
  failIf (lpNtok v == 2 && lpTok v 1 % 8 != 0) csGeometry [704] ++
  failIf (lpDone v % 8 != 0) csGeometry [832] ++ failIf (lpStatus v % 8 != 0) csGeometry [896]

/-- What the membership image gives: it fails 01 R21, or the members of each common. -/
inductive Groups where
  | bad
  | ok (g : Tab (List (Nat × Nat)))
  deriving DecidableEq, Repr

/-- Add one record to the group table (01 Table 1.6): none where it fails R21. -/
def addMember (tracts plots : Nat) (g : Tab (List (Nat × Nat))) (w : Nat) : Option (Tab (List (Nat × Nat))) :=
  let t := bits w 63 40
  let m := bits w 39 32
  let c := w % 256
  if bits w 31 8 ≠ 0 ∨ tracts ≤ t ∨ 2 ^ plots ≤ m then none
  else
    let new := ((List.range 8).filter fun j => bit m j).map fun j => (t, j)
    let old := (tget g c).getD []
    let g' := tput g c (old ++ new.filter fun x => !old.contains x)
    if new.any fun x => decide (4 < (g'.filter fun (_, l) => l.contains x).length) then none else some g'

/-- Read the records of the image in order; the first fault with its address (01 R21, 15 R440). -/
def State.readMembers (s : State) (ctx tracts plots : Nat) : Nat → Nat → Tab (List (Nat × Nat)) → State × Except (Nat × Nat) Groups
  | _, 0, g => (s, .ok (.ok g))
  | va, n + 1, g =>
    match s.engRead 128 ctx accLoad 2 va 8 with
    | (s, .error f) => (s, .error f)
    | (s, .ok l) => match addMember tracts plots g (leNat l) with
      | none => (s, .ok .bad)
      | some g' => s.readMembers ctx tracts plots ((va + 8) % 2 ^ 64) n g'

/-- The membership image of a launch (01 R21). -/
def State.membership (s : State) (ctx v : Nat) : State × Except (Nat × Nat) Groups :=
  if lpGroups v = 0 then (s, .ok (.ok []))
  else match s.engRead 128 ctx accLoad 2 (lpGroups v) 8 with
    | (s, .error f) => (s, .error f)
    | (s, .ok l) => s.readMembers ctx (lpTracts v) (lpPlots v) ((lpGroups v + 8) % 2 ^ 64) (leNat l) []

/-- The sowing of a launch packet. It keeps the priority and the quantum that its queue has now: the spec does not say that a later registration of the queue gives
its new ones to launches already taken (DESIGN CHOICE, log 20). -/
def sowingOf (q : Nat) (x : Queue) (p : Packet) (g : Tab (List (Nat × Nat))) : Sowing :=
  let v := leNat p.bytes
  { q := q, ctx := x.ctx, entry := BitVec.ofNat 64 (lpEntry v), tracts := lpTracts v, plots := lpPlots v, size := lpSize v, ra := lpRa v,
    copyN := lpC v, matN := lpM v, spadKB := lpSpadKB v, rmode := BitVec.ofNat 2 (lpRmode v), seed := BitVec.ofNat 32 (lpSeed v),
    k := (List.range 10).map fun j => BitVec.ofNat 32 (lpK v j), groups := g,
    toks := (List.range (lpNtok v)).map fun j => { va := lpTok v j, thr := lpThr v j, ok := false, upd := none, acq := none },
    tokAt := none, doneVa := lpDone v, statusVa := lpStatus v, prio := x.prio, quant := x.quant, order := p.order, next := 0, retired := 0,
    coresUsed := [], barc := [], waitRec := none, held := false, doneAdded := false, aborted := false, edge := p.edge }

/-- Reject a launch: its record is written, no token is signalled, and the queue goes on (15 R305). -/
def State.rejectLaunch (s : State) (q : Nat) (x : Queue) (p : Packet) (code detail : Nat) : State :=
  (s.setPacket q none).endPacket q x.ctx (lpStatus (leNat p.bytes)) code detail

/-- Queue the tracts of a launch for placement (15 R303). -/
def State.acceptLaunch (s : State) (q : Nat) (x : Queue) (p : Packet) (g : Tab (List (Nat × Nat))) : State :=
  let (id, s1) := s.fresh
  ({ s1 with sowings := tput s1.sowings id (sowingOf q x p g) } : State).modQueue q fun y =>
    { y with packet := some { p with stage := .launched }, open' := y.open' ++ [id] }

/-- LAUNCH (15 R305): the checks in the order of their codes, the membership image between them. -/
def State.launch (s : State) (q : Nat) : State :=
  match tget s.queues q with
  | none => s
  | some x => match x.taken fun k => k == 1 with
    | none => s
    | some p =>
      let v := leNat p.bytes
      match firstFailed (launchChecks v) with
      | some (code, detail) =>
        if code < csMembership then s.rejectLaunch q x p code detail
        else match s.membership x.ctx v with
          | (s, .error (c, a)) => s.queueWait q accLoad c a
          | (s, .ok .bad) => s.rejectLaunch q x p csMembership 64
          | (s, .ok (.ok _)) => s.rejectLaunch q x p code detail
      | none => match s.membership x.ctx v with
        | (s, .error (c, a)) => s.queueWait q accLoad c a
        | (s, .ok .bad) => s.rejectLaunch q x p csMembership 64
        | (s, .ok (.ok g)) => s.acceptLaunch q x p g

/-! ## Queue tokens (01 R36) -/

/-- Every token of a sowing has reached its threshold. -/
def Sowing.toksOk (w : Sowing) : Bool := w.toks.all fun x => x.ok

/-- The widest scope of some releases that reach the distributor (11 R250): none where there is none. -/
def State.releaseScope (s : State) (l : List SyncSrc) : Option Scope :=
  if l.any fun x => x.scope == .sys then some .sys else if l.any s.reachesFront then some .dev else none

/-- A token with the value that was read of it and the sources of its word: the update it comes from, where the device has made it last (01 R37), else the scope of the
release it carries. -/
def State.tokRead (s : State) (ctx : Nat) (x : Token) (v : Nat) (l : List SyncSrc) : Token :=
  let u := ((s.tokPlace ctx x.va).bind fun p => tget s.tokUpds (placeKey p)).filter fun u => u.value == v
  { x with ok := decide (x.thr ≤ v), upd := u.map TokUpd.cores, acq := s.releaseScope l }

/-- Read tokens; the first fault with its address. -/
def State.readToks (s : State) (ctx : Nat) : List Token → State × Except (Nat × Nat) (List Token)
  | [] => (s, .ok [])
  | x :: t =>
    match s.anyRead 128 ctx x.va 8 accLoad with
    | (s, .error c) => (s, .error (c, x.va))
    | (s, .ok l) =>
      let (s, tags) := s.frontTags ctx x.va
      match s.readToks ctx t with
      | (s, .error f) => (s, .error f)
      | (s, .ok t') => (s, .ok (s.tokRead ctx x (leNat l) tags :: t'))

/-- A sowing waits on a fault of its own (15 R440), or for a port (23 R410). -/
def State.sowWait (s : State) (w acc code addr : Nat) : State :=
  match tget s.sowings w with
  | none => s
  | some x =>
    if code = fcNoPort then s.modSow w fun y => { y with held := true }
    else
    let (h, s1) := s.fresh
    (s1.modSow w fun y => { y with waitRec := some h }).report x.ctx (queueRec acc code addr h)

/-- TOKEN_READ (01 R36): the tokens of a launch none of whose tracts is placed yet. -/
def State.tokenRead (s : State) (w : Nat) : State :=
  match tget s.sowings w with
  | none => s
  | some x =>
    if x.toksOk ∨ x.waitRec.isSome ∨ x.held then s
    else match s.readToks x.ctx x.toks with
      | (s, .error (c, a)) => s.sowWait w accLoad c a
      | (s, .ok l) => s.modSow w fun y => { y with toks := l, tokAt := some s.time }

/-- The value of a token on this device now, for the distributor's notice of an update. -/
def State.tokNow (s : State) (ctx : Nat) (x : Token) : Bool :=
  match (s.xlate 128 ctx x.va accLoad).2 with
  | .ok e =>
    let pa := e.pa x.va
    !e.view && !s.away e pa && decide (x.thr ≤ leNat (s.placeBytes (s.placeOf e pa).1 (s.placeOf e pa).2 8))
  | .error _ => true

/-- A token reading is due: the first, after an update, or after 10 µs (01 R36). -/
def State.tokenDue (s : State) (x : Sowing) : Bool :=
  !x.toksOk && x.waitRec.isNone && !x.held &&
    match x.tokAt with
    | none => true
    | some t => decide (t + 10 * usec ≤ s.time) || x.toks.all (s.tokNow x.ctx)

/-! ## Fit (01 R15, R31, 17 R329) -/

/-- Plots that occupy a core: those of tracts that are resident. -/
def State.plotsOn (s : State) (core : Nat) : List (Nat × Plot) :=
  s.plots.filter fun (_, p) => p.core == core && match tget s.tracts p.tract with | some t => t.resident | none => false

/-- Registers per lane of a plot (01 R15). -/
def Plot.laneRegs (p : Plot) : Nat := p.size / 64 * p.ra

/-- A range of scratchpad bytes is free among allocations. -/
def spadFree (used : List (Nat × Nat)) (b n : Nat) : Bool := used.all fun (x, m) => m == 0 || decide (b + n ≤ x) || decide (x + m ≤ b)

/-- The lowest free contiguous allocation of n bytes in the core's 7,168 KiB (01 R15): which free range a plot gets is the model's (DESIGN CHOICE, log 55). -/
def spadGap (used : List (Nat × Nat)) (n : Nat) : Option Nat :=
  if n = 0 then some 0
  else ((sortNat (0 :: used.map fun (x, m) => x + m)).filter fun b => spadFree used b n && decide (b + n ≤ 7168 * 1024)).head?

/-- Allocations on a core. -/
def State.spadUsed (s : State) (core : Nat) : List (Nat × Nat) := (s.plotsOn core).map fun (_, p) => (p.spadBase, p.spadLen)

/-- A plot of a sowing fits on a core now. -/
def State.coreFits (s : State) (w : Sowing) (core : Nat) : Bool :=
  let l := s.plotsOn core
  decide ((l.foldl (fun n x => n + x.2.laneRegs) 0) + w.size / 64 * w.ra ≤ 8192) &&
  decide ((l.foldl (fun n x => n + x.2.size) 0) + w.size ≤ 16384) &&
  (w.matN == 0 || l.all fun x => x.2.matN == 0) &&
  (spadGap (s.spadUsed core) (w.spadKB * 1024)).isSome

/-- Runs of n cores in ring order: by cluster, then by starting position (01 R31). -/
def runsOf (n : Nat) : List (List Nat) :=
  (List.range 16).flatMap fun cl => (List.range 8).map fun st => (List.range n).map fun j => 8 * cl + (st + j) % 8

/-- The first run that fits a tract of a sowing. -/
def State.runFor (s : State) (w : Sowing) : Option (List Nat) := (runsOf w.plots).find? fun r => r.all (s.coreFits w)

/-! ## What waits for placement (01 R30, R33, 02 R42) -/

/-- A waiting tract: its sowing, and for a swapped tract its number. -/
structure Waiting where
  sow : Nat
  tract : Option Nat
  deriving DecidableEq, Repr

/-- The swapped tract of a sowing that was swapped out first, among those that may enter the waiting list (02 R42, 21 R388). -/
def State.firstSwapped (s : State) (w : Nat) : Option Nat :=
  let l := s.tracts.filter fun (n, t) => t.sow == w && !t.resident && !t.leaving && !(t.overBudget && s.unserviced n)
  (l.foldl (fun (acc : Option (Nat × Nat)) (n, t) =>
    match acc with
    | some (m, o) => if t.order < o then some (n, t.order) else some (m, o)
    | none => some (n, t.order)) none).map Prod.fst

/-- The tract of a sowing that waits first (02 R42). -/
def State.waitingOf (s : State) (n : Nat) (w : Sowing) : Option Waiting :=
  if w.next < w.tracts ∧ w.toksOk ∧ w.waitRec.isNone then some ⟨n, none⟩
  else (s.firstSwapped n).map fun t => ⟨n, some t⟩

/-- A waiting tract is the one for which a tract was swapped out. -/
def Waiting.hasRoom (x : Waiting) (room : Option (Nat × Option Nat)) : Bool := room == some (x.sow, x.tract)

/-- Insert a sowing by priority, highest first, then the one for which a tract was swapped out (01 R32, R34: log 48), then in the
order in which headers were read (01 R30). -/
def headInsert (room : Option (Nat × Option Nat)) : List (Sowing × Waiting) → Sowing × Waiting → List (Sowing × Waiting)
  | [], x => [x]
  | y :: t, x =>
    if x.1.prio > y.1.prio ∨ (x.1.prio = y.1.prio ∧
        (x.2.hasRoom room = true ∨ (y.2.hasRoom room = false ∧ x.1.order < y.1.order))) then x :: y :: t
    else y :: headInsert room t x

/-- The first waiting tract of each queue, in the distributor's order: those behind it in its queue wait (01 R31). -/
def State.heads (s : State) : List (Sowing × Waiting) :=
  let all := s.sowings.foldl (fun l (n, w) => match s.waitingOf n w with | some x => headInsert s.roomFor l (w, x) | none => l) []
  all.foldl (fun l x => if l.any fun y => y.1.q == x.1.q then l else l ++ [x]) []

/-- Bytes of the fixed part of a tract's image (21 R391, R393). -/
def fixedImage (plots size ra spadKB matN : Nat) : Nat :=
  let up := fun n => (n + 63) / 64 * 64
  256 + plots * (512 + up (size * (256 + 4 * ra + ra / 4)) + up (spadKB * 1024) + if matN = 0 then 0 else 1048576)

/-- Ranges of a context's swap pool that images hold, but for one tract's. -/
def State.poolUsed (s : State) (ctx but : Nat) : List (Nat × Nat) :=
  (s.tracts.filter fun (n, t) => n != but && t.imageLen != 0 &&
    (match tget s.sowings t.sow with | some w => w.ctx == ctx | none => false)).map fun (_, t) => (t.image, t.imageLen)

/-- Where an image of n bytes finds room in its context's swap pool (21 R391, log 11). -/
def State.poolRoom (s : State) (ctx but n : Nat) : Option Nat :=
  match tget s.ctxs ctx with
  | none => none
  | some c =>
    let used := s.poolUsed ctx but
    let base := c.swpb.toNat
    ((sortNat (base :: used.map fun (x, m) => (x + m + 63) / 64 * 64)).filter fun b =>
      decide (base ≤ b) && spadFree used b n && decide (b + n ≤ base + c.swplen)).head?

/-- A tract can be swapped out: resident, not leaving, and the swap pool has room for its fixed part (21 R391). -/
def State.canLeave (s : State) (n : Nat) (t : Tract) : Bool :=
  t.resident && !t.leaving &&
    match tget s.sowings t.sow with
    | some w => (s.poolRoom w.ctx n (fixedImage w.plots w.size w.ra w.spadKB w.matN)).isSome
    | none => false

/-- Priority of a tract. -/
def State.prioOf (s : State) (t : Tract) : Nat := match tget s.sowings t.sow with | some w => w.prio | none => 0

/-- Removing a tract brings a waiting one closer to fitting (01 R32): it holds a core on which a plot of the waiting tract does not fit. -/
def State.brings (s : State) (w : Sowing) (t : Tract) : Bool := t.cores.any fun c => !s.coreFits w c

/-- The best of a list under an order. -/
def bestOf (lt : Nat × Tract → Nat × Tract → Bool) : List (Nat × Tract) → Option (Nat × Tract)
  | [] => none
  | x :: l => match bestOf lt l with
    | some y => if lt y x then some y else some x
    | none => some x

/-- The order of the first pass: lowest priority, frozen tracts last of theirs, then the most recently placed (01 R32, 21 R394). -/
def State.pass1Lt (s : State) (x y : Nat × Tract) : Bool :=
  decide (s.prioOf x.2 < s.prioOf y.2) ||
    (s.prioOf x.2 == s.prioOf y.2 && ((!x.2.frozen && y.2.frozen) || (x.2.frozen == y.2.frozen && decide (y.2.order < x.2.order))))

/-- A candidate of 01 R33: a still tract is none under its quantum (21 R399). -/
def Tract.candidate (t : Tract) : Bool := ((t.quantumOver && !t.still) || t.sleepCand) && !t.frozen

/-- The victim for a waiting tract that does not fit (01 R32). -/
def State.victimFor (s : State) (w : Sowing) : Option Nat :=
  let l := s.tracts.filter fun (n, t) => s.canLeave n t && s.brings w t
  match bestOf s.pass1Lt (l.filter fun (_, t) => decide (s.prioOf t < w.prio)) with
  | some (n, _) => some n
  | none =>
    (bestOf (fun x y => decide (x.2.order < y.2.order))
      (l.filter fun (_, t) => t.candidate && decide (s.prioOf t ≤ w.prio))).map Prod.fst

/-- Some tract is on its way out. -/
def State.someLeaving (s : State) : Bool := s.tracts.any fun (_, t) => t.leaving

/-- What the distributor does next. -/
inductive Choice where
  | nothing
  | place (w : Waiting) (run : List Nat)
  | swap (victim : Nat) (room : Waiting)
  deriving DecidableEq, Repr

/-- The distributor's next choice (01 R30 to R32): the first head that fits is placed; one that does not fit has a victim swapped out,
and while one leaves nothing behind it is placed. -/
def State.choose (s : State) : List (Sowing × Waiting) → Choice
  | [] => .nothing
  | (w, x) :: t => match s.runFor w with
    | some r => .place x r
    | none =>
      if s.someLeaving then .nothing
      else match s.victimFor w with
        | some v => .swap v x
        | none => s.choose t

/-- The distributor's next choice. -/
def State.choice (s : State) : Choice := s.choose s.heads

/-- A waiting tract takes its place: the room made for it is used. -/
def State.roomTaken (s : State) (x : Nat × Option Nat) : State := if s.roomFor = some x then { s with roomFor := none } else s

/-- A tract of the same or a higher priority waits that does not fit (01 R33). -/
def State.pressed (s : State) (prio : Nat) : Bool := s.heads.any fun (w, _) => decide (prio ≤ w.prio) && (s.runFor w).isNone

/-! ## Placement (01 R31, R25, R18, R40; 14 R298; 17 R329) -/

/-- A thread as a launch makes it (01 Table 1.3; system registers: log 5). -/
def Thread.launched (ra : Nat) (rmode : BitVec 2) (entry : DWord) : Thread :=
  { pc := entry, regs := List.replicate ra 0, landing := List.replicate ra .none, landSrc := [], wb := 0, ix := 0, preds := 1, tstat := 0,
    rmode := rmode, xa := 0, rstack := [], spd := 0, tlsb := 0, ld := 0, st := 0, cp := 0, tl := 0, rcurRing := 0, rcurStage := 0,
    rcurPhase := false, epc := 0, ecode := 0, einfo := 0, eaddr := 0, ewb := 0, eix := 0, scr := [0, 0, 0, 0], place := .filed,
    pflt := false, stopReq := false, bkptStop := none, noMatch := false, stepping := false, fenceO := none, fenceA := none, fenceS := none,
    fenceL := none, seen := [], lapses := [], written := none }

/-- A plot as placement makes it: constants k10 and k11 filled (01 Table 1.5), scratchpad 0, tiles in the zero state. -/
def Plot.launched (w : Sowing) (sow tract index core tractIx spadBase : Nat) : Plot :=
  { tract := tract, sow := sow, ctx := w.ctx, entry := w.entry, index := index, core := core, copyN := w.copyN, matN := w.matN,
    k := w.k ++ [BitVec.ofNat 32 tractIx, BitVec.ofNat 32 ((w.plots - 1) * 256 + index)], spadBase := spadBase, spadLen := w.spadKB * 1024,
    spad := [], threads := (List.range w.size).map fun i => (i, Thread.launched w.ra w.rmode w.entry), barp := [], batch := [], tiles := [],
    tsw := [0, 0, 0, 0], barEdges := [], barActed := [], relTags := [], groups := [], engq := [], frozen := false, retired := false }

/-- A tag that no unretired plot has: the first from a free place on (15 R311, log 6). -/
def State.newTag (s : State) : Nat × State :=
  let (k, s1) := s.draw
  let start := Config.freeNat k % 2 ^ 20
  let n := s.plots.length + 1
  let tags := (List.range n).map fun i => (start + i) % 2 ^ 20
  (((tags.find? fun t => (tget s.plots t).isNone).getD start), s1)

/-- A core that holds no resident tract. -/
def State.coreEmpty (s : State) (core : Nat) : Bool := s.tracts.all fun (_, t) => !(t.resident && t.cores.contains core)

/-- The narrowest scope that encloses some cores of this device (01 R37). -/
def coresScope (l : List Nat) : Scope :=
  match l with
  | [] => .plot
  | c :: _ => if l.all fun x => x == c then .plot else if l.all fun x => x / 8 == c / 8 then .tract else .dev

/-- The scope at which the placement of a tract on some cores acquires a token: by the cores of the update that satisfied the wait (01 R37), else that of the release
that was read, a write of plot or tract scope giving none (11 R250). -/
def Token.scope (x : Token) (run : List Nat) : Option Scope := match x.upd with | some l => some (coresScope (l ++ run)) | none => x.acq

/-- What the placement of a tract acquires on a core: at system scope for the launch packet, on a core that the sowing has not used yet (11 R249), and its
tokens at their scopes. -/
def Sowing.acquires (w : Sowing) (run : List Nat) (core : Nat) : List Scope :=
  (if w.edge && !w.coresUsed.contains core then [.sys] else []) ++ w.toks.filterMap fun x => x.scope run

/-- A core drops its instruction cache: code is fetched as of the acquire of its launch (11 R249). -/
def State.dropCode (s : State) (c : Nat) : State := s.modCore c fun k => { k with icache := [] }

/-- Load the selectors of the cores that hold no tract (01 R25), with what a placement acquires on each core. -/
def State.loadSelectors (s : State) (cores : List Nat) (l : Word) (acq : Nat → List Scope) : State :=
  cores.foldl (fun s c =>
    let s1 := (if s.coreEmpty c then s.modCore c fun k => { k with sel := seedOf l } else s).dropCode c
    (acq c).foldl (fun s sc => s.acquireCaches c sc) s1) s

/-- File the threads of a plot that are filed, in ascending tid (02 R40, 21 R392). -/
def State.filePlot (s : State) (tag : Nat) : State :=
  match tget s.plots tag with
  | none => s
  | some p => p.threads.foldl (fun s (i, t) => if t.place = .filed then s.fileThread ⟨tag, i⟩ t.pc rankPlace else s) s

/-- Make the plots of a tract, in ascending index. -/
def State.makePlots (s : State) (w : Sowing) (sow tract tractIx : Nat) : List (Nat × Nat) → State × List Nat
  | [] => (s, [])
  | (j, c) :: t =>
    let base := (spadGap (s.spadUsed c) (w.spadKB * 1024)).getD 0
    let (tag, s1) := s.newTag
    let (s2, l) := { s1 with plots := tput s1.plots tag (Plot.launched w sow tract j c tractIx base) }.makePlots w sow tract tractIx t
    (s2, tag :: l)

/-- Place the next tract of a sowing on a run of cores; with the last one its launch no longer holds its queue (15 R303). -/
def State.placeFresh (s : State) (n : Nat) (w : Sowing) (run : List Nat) : State :=
  let (id, s1) := s.fresh
  let s2 := s1.loadSelectors run w.seed (w.acquires run)
  let t : Tract :=
    { sow := n, index := w.next, cores := run, resident := true, leaving := false, placedAt := s.time, quantumOver := false,
      sleepSince := none, sleepCand := false, yielded := false, budget := none, overBudget := false, frozen := false, still := false,
      order := id, image := 0, imageLen := 0, sel := 0 }
  let s3 := { s2 with tracts := tput s2.tracts id t }
  let (s4, tags) := s3.makePlots w n id w.next ((List.range w.plots).zip run)
  let s5 := s4.modSow n fun w => { w with next := w.next + 1, coresUsed := (w.coresUsed ++ run).eraseDups }
  let s6 := if w.next + 1 = w.tracts then s5.setPacket w.q none else s5
  tags.foldl State.filePlot s6

/-- PLACE_TRACT (01 R31): the distributor places the tract it has chosen, where that has not been placed before. -/
def State.placeTract (s : State) : State :=
  match s.choice with
  | .place ⟨n, none⟩ run => match tget s.sowings n with
    | some w => (s.placeFresh n w run).roomTaken (n, none)
    | none => s
  | _ => s

/-! ## Candidates (01 R33) -/

/-- A tract has been resident for its quantum, or counts so after a YIELD (07 R168). -/
def State.quantumPast (s : State) (t : Tract) : Bool :=
  t.yielded || match tget s.sowings t.sow with | some w => decide (t.placedAt + w.quant * 100 * usec ≤ s.time) | none => false

/-- A tract becomes a candidate by its quantum: not a still one (21 R399) nor a frozen one (R394). -/
def State.quantumReady (s : State) (t : Tract) : Bool :=
  t.resident && !t.quantumOver && !t.still && !t.frozen && s.quantumPast t && s.pressed (s.prioOf t)

/-- QUANTUM_EXPIRY (01 R33). -/
def State.quantumExpiry (s : State) (n : Nat) : State :=
  match tget s.tracts n with
  | some t => if s.quantumReady t then s.modTract n fun t => { t with quantumOver := true } else s
  | none => s

/-- The thread is in the headland with reason sleep. -/
def Thread.asleep (t : Thread) : Bool := match t.place with | .headland (.sleep _) => true | _ => false

/-- Every live thread of a tract sleeps. -/
def State.allAsleep (s : State) (n : Nat) : Bool :=
  s.plots.all fun (_, p) => p.tract != n || p.threads.all fun (_, t) => !t.live || t.asleep

/-- What SLEEP_CANDIDATE_TIMER finds to do for a tract: note the start, or forget it, or make the tract a candidate. -/
def State.sleepTimer (s : State) (n : Nat) (t : Tract) : Option Tract :=
  if !t.resident then none
  else if !s.allAsleep n then (if t.sleepSince.isSome then some { t with sleepSince := none, sleepCand := false } else none)
  else match t.sleepSince with
    | none => some { t with sleepSince := some s.time }
    | some x =>
      if !t.sleepCand ∧ !t.frozen ∧ x + 10 * usec ≤ s.time ∧ s.pressed (s.prioOf t) then some { t with sleepCand := true } else none

/-- SLEEP_CANDIDATE_TIMER (01 R33). -/
def State.sleepCandidate (s : State) (n : Nat) : State :=
  match tget s.tracts n with
  | some t => match s.sleepTimer n t with
    | some t' => s.modTract n fun _ => t'
    | none => s
  | none => s

/-! ## Retirement (01 R35) -/

/-- Stores, atomics and LANDs of a plot, with its copies and engine commands, have completed. -/
def State.plotQuiet (s : State) (tag : Nat) (p : Plot) : Bool :=
  p.engq.isEmpty &&
  (s.reqs.all fun (_, q) => q.ref.tag != tag || match q.op with | .load _ => true | .lr => true | .fence _ => true | _ => false) &&
  (s.lands.all fun (_, l) => match l.ref with | some r => r.tag != tag | none => true) &&
  (s.copies.all fun (_, c) => match c.ref with | some r => r.tag != tag | none => true) &&
  (s.qposts.all fun (_, q) => q.ref.tag != tag)

/-- A plot can retire: all its threads have exited and its work is done. -/
def State.retireReady (s : State) (tag : Nat) (p : Plot) : Bool :=
  !p.retired && (p.threads.all fun (_, t) => !t.live) && s.plotQuiet tag p

/-- Free the slots of a core that threads of some plots hold (13 R297). -/
def Core.freeTags (k : Core) (tags : List Nat) : Core :=
  { k with slots := k.slots.map fun (i, x) => (i, if x.state ≠ .free ∧ tags.contains x.owner.tag then x.freed else x) }

/-- Free what a retired tract holds: its plots with their tags, its slots, its requests and its room (01 R35, 13 R297). -/
def State.retireTract (s : State) (n : Nat) : State :=
  let tags := (s.plots.filter fun (_, p) => p.tract == n).map Prod.fst
  let sow := match tget s.tracts n with | some t => t.sow | none => 0
  let s1 : State := { s with
    plots := s.plots.filter fun (_, p) => p.tract != n
    tracts := tdel s.tracts n
    reqs := s.reqs.filter fun (_, q) => !tags.contains q.ref.tag
    reservations := s.reservations.filter fun v => !tags.contains v.ref.tag
    cores := s.cores.map fun (c, k) => (c, k.freeTags tags) }
  s1.modSow sow fun w => { w with retired := w.retired + 1 }

/-- PLOT_RETIRE (01 R35): with the last plot its tract retires, and its resources are freed together. -/
def State.plotRetire (s : State) (tag : Nat) : State :=
  match tget s.plots tag with
  | none => s
  | some p =>
    if !s.retireReady tag p then s
    else
      let s1 := s.modPlot tag fun p => { p with retired := true }
      if s1.plots.all fun (_, q) => q.tract != p.tract || q.retired then s1.retireTract p.tract else s1

/-- A sowing can complete (01 R35). -/
def Sowing.ends (w : Sowing) : Bool := w.retired == w.tracts && w.waitRec.isNone && !w.held

/-- Take a sowing off its queue, which remembers the cores it used: those of every sowing that has completed since the registration count as the producer's of a later
token signal of the queue (01 R37; DESIGN CHOICE, log 35). -/
def State.dropSowing (s : State) (n : Nat) (w : Sowing) : State :=
  ({ s with sowings := tdel s.sowings n } : State).modQueue w.q fun x =>
    { x with open' := x.open'.filter (fun y => y != n), used := (x.used ++ w.coresUsed).eraseDups }

/-- SOWING_COMPLETE (15 R305, 11 R250): 1 is added to DONE, then the completion record is written. -/
def State.sowingComplete (s : State) (n : Nat) : State :=
  match tget s.sowings n with
  | none => s
  | some w =>
    if !w.ends then s
    else
      let finish := fun (s : State) => (s.dropSowing n w).endPacket w.q w.ctx w.statusVa (if w.aborted then csAborted else 0) 0
      if w.doneVa = 0 ∨ w.doneAdded then finish s
      else match s.addWord w.ctx w.doneVa 1 w.coresUsed with
        | (s, .error c) => s.sowWait n accAtomic c w.doneVa
        | (s, .ok _) => finish s

/-! ## The steps -/

/-- FRONT_END_TAKE_PACKET (15 R301). -/
def execFrontEndTakePacket (q : Nat) (s : State) : Result := .next (s.takePacket q)

/-- LAUNCH (15 R305). -/
def execLaunch (q : Nat) (s : State) : Result := .next (s.launch q)

/-- NOP_PACKET (15 R303). -/
def execNopPacket (q : Nat) (s : State) : Result := .next (s.nopPacket q)

/-- TOKEN_SIGNAL (15 R314). -/
def execTokenSignal (q : Nat) (s : State) : Result := .next (s.tokenSignal q)

/-- QUEUE_COPY_HANDOFF (15 R441). -/
def execQueueCopyHandoff (q : Nat) (s : State) : Result := .next (s.copyHandoff q)

/-- TOKEN_READ (01 R36). -/
def execTokenRead (sow : Nat) (s : State) : Result := .next (s.tokenRead sow)

/-- PLACE_TRACT (01 R31). -/
def execPlaceTract (s : State) : Result := .next s.placeTract

/-- QUANTUM_EXPIRY (01 R33). -/
def execQuantumExpiry (tract : Nat) (s : State) : Result := .next (s.quantumExpiry tract)

/-- SLEEP_CANDIDATE_TIMER (01 R33). -/
def execSleepCandidateTimer (tract : Nat) (s : State) : Result := .next (s.sleepCandidate tract)

/-- PLOT_RETIRE (01 R35). -/
def execPlotRetire (tag : Nat) (s : State) : Result := .next (s.plotRetire tag)

/-- SOWING_COMPLETE (15 R305). -/
def execSowingComplete (sow : Nat) (s : State) : Result := .next (s.sowingComplete sow)

end Sys2Proof.Machine
end

