-- ==== Sys2Proof/Machine/Swap.lean ====
section
/-! DEFINITION. Swap-out, swap-in and the context image (21 R388, R391 to R393; 11 R251, 13 R260, R261, 15 R319, 17 R355, 19 R365).
What the image holds is read from it at swap-in; the rest of a swapped tract's plots stays in the state (log 11). -/

namespace Sys2Proof.Machine

/-! ## The context image (21 R393) -/

/-- Round up to a multiple of 64. -/
def up64 (n : Nat) : Nat := (n + 63) / 64 * 64

/-- Bytes filled up with zeros to a length. -/
def padTo (l : List Byte) (n : Nat) : List Byte := l ++ List.replicate (n - l.length) 0

/-- A landing state's two bits (13 R288). -/
def landBits : LandState → Nat
  | .none => 0
  | .pending => 1
  | .delivered => 2
  | .lapsed => 3

/-- SLEEPK and SLEEPV of a sleep (21 Table 21.12). -/
def sleepBits (now : Nat) : Sleep → Nat × Nat
  | .wait _ _ _ _ => (0, 0)
  | .barp => (1, 0)
  | .barc _ => (2, 0)
  | .bcwait _ _ => (3, 0)
  | .waitw _ _ _ => (4, 0)
  | .lwait _ _ => (5, 0)
  | .pause c => (6, c - now)
  | .mwaitb _ => (7, 0)

/-- STATE, REASON, SLEEPK and SLEEPV of a place (21 Table 21.12). -/
def placeBits (now : Nat) : Place → Nat × Nat × Nat × Nat
  | .filed => (0, 0, 0, 0)
  | .drill _ => (0, 0, 0, 0)
  | .headland (.sleep k) => (1, 0, (sleepBits now k).1, (sleepBits now k).2)
  | .headland .rendezvous => (1, 1, 0, 0)
  | .headland .parked => (1, 2, 0, 0)
  | .headland .stopped => (1, 3, 0, 0)
  | .exited => (2, 0, 0, 0)

/-- Place the fields of a record: value, lowest bit. -/
def layOut (l : List (Nat × Nat)) : Nat := l.foldl (fun n x => n + x.1 * 2 ^ x.2) 0

/-- A thread record as its 2,048 bits (21 Table 21.12). -/
def threadBits (now : Nat) (t : Thread) : Nat :=
  let (st, why, k, v) := placeBits now t.place
  layOut ([(t.pc.toNat, 0), (t.tstat.toNat, 64), (t.wb % 2 ^ 16, 96), (t.xa.toNat, 112), (t.rmode.toNat, 124), (st, 126), (t.ix.toNat, 128),
    (why, 160), (k, 163), (t.rstack.length % 16, 168), (t.spd.toNat, 192), (v % 2 ^ 32, 224), (t.preds.toNat, 256),
    (t.rcurRing.toNat, 896), (t.rcurStage % 8, 928), (t.rcurPhase.toNat, 931), (t.epc.toNat, 960), (t.ecode.toNat, 1024),
    (t.einfo.toNat, 1056), (t.eaddr.toNat, 1088), (t.eix.toNat, 1152), (t.ewb.toNat % 2 ^ 16, 1184), (t.tlsb.toNat, 1344),
    (t.pflt.toNat, 1440)] ++
    (t.rstack.reverse.zipIdx.map fun (x, i) => (x.toNat, 384 + 64 * i)) ++
    (t.scr.zipIdx.map fun (x, i) => (x.toNat, 1216 + 32 * i)))

/-- A thread's part of the threads section. -/
def threadImage (now : Nat) (t : Thread) : List Byte :=
  natLe 256 (threadBits now t) ++ (t.regs.flatMap fun w => natLe 4 w.toNat) ++
    natLe (t.ra / 4) (layOut (t.landing.zipIdx.map fun (x, i) => (landBits x, 2 * i)))

/-- Code of an engine command's kind in its record. -/
def engCode : EngKind → Nat
  | .mma => 0
  | .mdrain => 1
  | .mzero => 2
  | .apipe => 3

/-- A recorded engine command (21 R393). -/
def engImage (c : EngCmd) : List Byte :=
  let payload := match c.kind with
    | .mma => c.block ++ c.rowsA.flatten ++ c.rowsB.flatten
    | .mdrain => c.block
    | .mzero => []
    | .apipe => c.block ++ c.table
  natLe 32 (layOut [(c.ref.tid % 2 ^ 16, 0), (engCode c.kind, 16), (c.rmode.toNat, 24), (c.batch.getD 255 % 256, 32),
    (if c.kind = .mzero then c.tile else 0, 40), (payload.length, 64)]) ++ padTo payload ((payload.length + 31) / 32 * 32)

/-- A recorded copy command (21 R393). -/
def copyImage (c : CopyCmd) : List Byte :=
  padTo (padTo c.bytes 64 ++ natLe 2 (match c.ref with | some r => r.tid | none => 0) ++ natLe 1 c.rmode.toNat) 128

/-- The tile section: four tiles, cells in row-major order (21 R393). -/
def Plot.tileImage (p : Plot) : List Byte :=
  if p.matN = 0 then []
  else (List.range 4).flatMap fun t => (List.range 16384).flatMap fun i => natLe 16 (p.cell t (i / 128) (i % 128)).toNat

/-- Copy commands of a plot, in issue order. -/
def State.plotCopies (s : State) (tag : Nat) : List CopyCmd :=
  (s.copies.filter fun (_, c) => match c.ref with | some r => r.tag == tag | none => false).map Prod.snd

/-- The cycle from which the counts of a tract's PAUSEs run: those of a swapped-out tract stand still (07 R169). -/
def State.imageNow (s : State) (n : Nat) : Nat := match tget s.tracts n with | some t => if t.resident then s.cycle else 0 | none => s.cycle

/-- The sections of a plot block: threads, scratchpad, tiles, engine commands, copy commands. -/
def State.plotSections (s : State) (tag : Nat) (p : Plot) : List (List Byte) :=
  [p.threads.flatMap fun (_, t) => threadImage (s.imageNow p.tract) t, mreads p.spad 0 p.spadLen, p.tileImage, p.engq.flatMap engImage,
    (s.plotCopies tag).flatMap copyImage]

/-- Offsets of sections from a place on, 0 for an empty one, and the end. -/
def sectionOffsets : Nat → List Nat → List Nat × Nat
  | at', [] => ([], at')
  | at', n :: t =>
    let (l, e) := sectionOffsets (at' + up64 n) t
    ((if n = 0 then 0 else at') :: l, e)

/-- A plot header as its 4,096 bits (21 Table 21.11). -/
def State.plotHeader (s : State) (tag : Nat) (p : Plot) (offs : List Nat) (stop : Nat) : Nat :=
  layOut ((p.k.zipIdx.map fun (x, i) => (x.toNat, 32 * i)) ++
    [(tag % 2 ^ 20, 384), (p.spadLen / 1024, 448), (p.engq.length, 480), ((s.plotCopies tag).length, 672)] ++
    ((List.range 4).map fun i => ((p.tileStatus i).toNat, 544 + 32 * i)) ++
    (offs.zipIdx.map fun (x, i) => (x, 1024 + 64 * i)) ++ [(stop, 1024 + 64 * 6)] ++
    (p.batch.map fun (t, n) => (n % 2 ^ 32, 2048 + 32 * t)))

/-- A plot block at an offset, with its end. OTHR, OSPAD, OTILE, OCMD, OCP, ORE: nothing is recorded for reissue (11 R251, log 11). -/
def State.plotBlock (s : State) (tag : Nat) (p : Plot) (off : Nat) : List Byte × Nat :=
  let secs := s.plotSections tag p
  let (offs, e) := sectionOffsets (off + 512) (secs.map List.length)
  (natLe 512 (s.plotHeader tag p (offs ++ [0]) e) ++ secs.flatMap fun l => padTo l (up64 l.length), e)

/-- Plots of a tract in ascending index. -/
def State.plotsOf (s : State) (n : Nat) : List (Nat × Plot) :=
  let l := s.plots.filter fun (_, p) => p.tract == n
  (List.range 8).flatMap fun j => l.filter fun (_, p) => p.index == j

/-- Plot blocks one after another, with the offset of each. -/
def State.plotBlocks (s : State) : Nat → List (Nat × Plot) → List Byte × List Nat
  | _, [] => ([], [])
  | off, (tag, p) :: t =>
    let (b, e) := s.plotBlock tag p off
    let (bs, os) := s.plotBlocks e t
    (b ++ bs, off :: os)

/-- Records of a tract that are not serviced. -/
def State.pendingRecs (s : State) (n : Nat) : Nat :=
  (s.plotsOf n).foldl (fun k (_, p) => k + (p.threads.filter fun (_, t) => t.pflt).length) 0

/-- The tract header as its 2,048 bits (21 Table 21.10). -/
def State.tractHeader (s : State) (n : Nat) (t : Tract) (w : Sowing) (offs : List Nat) : Nat :=
  let ctx := tget s.ctxs w.ctx
  layOut ([(1, 0), (w.plots - 1, 16), (w.ra / 16 - 1, 19), (w.size / 64 - 1, 24), (t.sel.toNat, 32), (t.index, 88), (s.pendingRecs n, 128)] ++
    (offs.zipIdx.map fun (x, i) => (x, 512 + 64 * i)) ++
    (((ctx.map Ctx.lpwb).getD []).zipIdx.map fun (x, i) => (x.toNat, 1024 + 32 * i)) ++
    (((ctx.map Ctx.lpwc).getD []).zipIdx.map fun (x, i) => (x.toNat, 1536 + 32 * i)))

/-- The image of a tract. -/
def State.tractImage (s : State) (n : Nat) (t : Tract) (w : Sowing) : List Byte :=
  let (b, offs) := s.plotBlocks 256 (s.plotsOf n)
  natLe 256 (s.tractHeader n t w offs) ++ b

/-- A stretch of the swap pool lies in another device's memory and no port leads there: an access of it stays at its source (23 R410, log 40). -/
def State.poolHeld (s : State) (ctx a n : Nat) : Bool :=
  match (s.engRead 128 ctx accEngWrite (n / 64 + 2) a n).2 with
  | .error (c, _) => c == fcNoPort
  | .ok _ => false

/-- Write a tract's image where it stands in the pool. What follows where the write faults the spec does not say: the tract is swapped out all the same, and its swap-in
reads what then stands in the pool (DESIGN CHOICE, log 11). -/
def State.writeImage (s : State) (n : Nat) : State :=
  match tget s.tracts n with
  | none => s
  | some t => match tget s.sowings t.sow with
    | none => s
    | some w =>
      let l := s.tractImage n t w
      (s.engWrite 128 w.ctx none accEngWrite none (l.length / 64 + 2) t.image l).1

/-! ## Swap-out (21 R391) -/

/-- A command that waits at issue is not accepted any more (17 R355): its thread stands at the instruction again, to issue it anew. -/
def State.unissue (s : State) (r : Ref) (pc : DWord) : State := s.modThread r fun t => { t with pc := pc }

/-- The commands of a plot that wait at issue are given up. -/
def State.dropWaiting (s : State) (tag : Nat) : State :=
  let eng : List EngCmd := match tget s.plots tag with | some p => p.engq.filter fun c => c.stage == .waiting | none => []
  let cps := s.copies.filter fun (_, c) => c.stage == .waiting && c.ref.any fun r => r.tag == tag
  let s1 := eng.foldl (fun s (c : EngCmd) => s.unissue c.ref c.pc) (s.modPlot tag fun p => { p with engq := p.engq.filter EngCmd.accepted })
  cps.foldl (fun s (id, c) => match c.ref with
    | some r => ({ s with copies := tdel s.copies id } : State).modThread r fun t => { t with pc := c.pc, cp := t.cp - 1 }
    | none => s) s1

/-- A tract begins to leave: room for the fixed part is reserved, and its threads stand in no furrow and no drill (R391 step 1). A row group of a completed rendezvous that
has not executed is given up, and the image has no field for it: after swap-in the row gathers anew, the threads of its groups that have executed included (07 R155; DESIGN
CHOICE, log 67). -/
def State.beginLeave (s : State) (n : Nat) : State :=
  match tget s.tracts n with
  | none => s
  | some t => match tget s.sowings t.sow with
    | none => s
    | some w =>
      let len := fixedImage w.plots w.size w.ra w.spadKB w.matN
      match s.poolRoom w.ctx n len with
      | none => s
      | some a =>
        let s1 := s.modTract n fun t => { t with leaving := true, image := a, imageLen := len }
        let out := fun (s : State) (r : Ref) =>
          match s.thread? r with
          | none => s
          | some t => match t.place with
            | .drill _ => (s.leaveDrill r).modThread r fun t => { t with place := .filed }
            | .filed => s.unfile r
            | _ => s
        let s2 := (s1.plotsOf n).foldl (fun s (tag, p) => p.threads.foldl (fun s (i, _) => out s ⟨tag, i⟩) s) s1
        let s3 := (s2.plotsOf n).foldl (fun s (tag, _) => s.dropWaiting tag) s2
        { s3 with plots := s3.plots.map fun (k, p) => (k, if p.tract = n then { p with groups := [] } else p) }

/-- A copy command that has begun nothing: it is recorded (15 R319). -/
def CopyCmd.recordable (c : CopyCmd) : Bool := (c.stage == .queued || c.stage == .held || c.stage == .recorded) && c.todo.isNone && c.arrive.isNone && c.paused.isNone

/-- The outstanding work of a plot is finished or can be recorded (R391 step 2). -/
def State.plotSettled (s : State) (tag : Nat) (p : Plot) : Bool :=
  (s.reqs.all fun (_, q) => q.ref.tag != tag) &&
  (s.lands.all fun (_, l) => match l.ref with | some r => r.tag != tag | none => true) &&
  (s.qposts.all fun (_, q) => q.ref.tag != tag) && (s.plotCopies tag).all CopyCmd.recordable &&
  p.engq.all fun c => c.stage == .queued

/-- Length of a tract's image as it would be written now. -/
def State.imageSize (s : State) (n : Nat) (t : Tract) (w : Sowing) : Nat := (s.tractImage n t w).length

/-- A leaving tract can be swapped out: its work is settled and its image has room. -/
def State.leaveReady (s : State) (n : Nat) (t : Tract) : Bool :=
  t.leaving && ((s.plotsOf n).all fun (tag, p) => s.plotSettled tag p) &&
    match tget s.sowings t.sow with
    | some w => match s.poolRoom w.ctx n (s.imageSize n t w) with
      | some a => !s.poolHeld w.ctx a (s.imageSize n t w)
      | none => false
    | none => false

/-- The recorded copy commands of some plots belong to no core while their tract is swapped out (15 R319). -/
def State.recordCopies (s : State) (tags : List Nat) : State :=
  { s with copies := s.copies.map fun (i, (c : CopyCmd)) =>
      (i, if c.ref.any fun r => tags.contains r.tag then { c with core := none, stage := .recorded } else c) }

/-- A thread as its image keeps it: a PAUSE by the cycles still to wait (21 Table 21.12). -/
def Thread.atRest (now : Nat) (t : Thread) : Thread :=
  match t.place with
  | .headland (.sleep (.pause c)) => { t with place := .headland (.sleep (.pause (c - now))) }
  | _ => t

/-- Change every thread of a tract. -/
def State.modTractThreads (s : State) (n : Nat) (f : Thread → Thread) : State :=
  { s with plots := s.plots.map fun (k, p) =>
      (k, if p.tract = n then { p with threads := p.threads.map fun (i, t) => (i, f t) } else p) }

/-- The core of plot 0 of a tract. -/
def Tract.core0 (t : Tract) : Nat := match t.cores with | c :: _ => c | [] => 0

/-- Steps 3 to 5 of R391: the image is written, and the tract's cores are free. -/
def State.finishLeave (s : State) (n : Nat) : State :=
  match tget s.tracts n with
  | none => s
  | some t => match tget s.sowings t.sow with
    | none => s
    | some w =>
      if !s.leaveReady n t then s
      else
        let len := s.imageSize n t w
        match s.poolRoom w.ctx n len with
        | none => s
        | some a =>
          let (order, s1) := s.fresh
          let tags := (s1.plotsOf n).map Prod.fst
          let s2 := s1.modTract n fun x =>
            { x with image := a, imageLen := len, sel := (s.core t.core0).sel, order := order, quantumOver := false, sleepCand := false,
                     sleepSince := none, yielded := false }
          let s3 := s2.writeImage n
          let s4 := ((s3.modTractThreads n (Thread.atRest s3.cycle)).modTract n fun x => { x with resident := false, leaving := false, cores := [] }).recordCopies
            tags
          { s4 with reservations := s4.reservations.filter fun v => !(v.peer.isNone && tags.contains v.ref.tag)
                    watches := s4.watches.filter fun w => !tags.contains w.ref.tag }

/-- SWAP_OUT (R391): a tract that the distributor has chosen begins to leave; one that leaves is gone once its work is settled. -/
def State.swapOut (s : State) (n : Nat) : State :=
  match tget s.tracts n with
  | none => s
  | some t =>
    if t.leaving then s.finishLeave n
    else match s.choice with
      | .swap v x => if v = n then ({ s.beginLeave n with roomFor := some (x.sow, x.tract) } : State).finishLeave n else s
      | _ => s

/-- The context of a tract. -/
def State.tractCtx (s : State) (t : Tract) : Option Ctx :=
  match tget s.sowings t.sow with
  | some w => tget s.ctxs w.ctx
  | none => none

/-- The parking budget of a resident tract has run out with a record unserviced (R388). -/
def State.budgetOver (s : State) (n : Nat) (t : Tract) : Bool :=
  t.resident && !t.leaving && !t.frozen && s.unserviced n && s.canLeave n t &&
    match t.budget, s.tractCtx t with
    | some x, some c => decide (x + c.pbud * usec ≤ s.time)
    | _, _ => false

/-- PARKING_BUDGET_EXPIRY (R388): the tract is swapped out, whatever else waits. -/
def State.budgetExpiry (s : State) (n : Nat) : State :=
  match tget s.tracts n with
  | none => s
  | some t =>
    if s.budgetOver n t then ((s.modTract n fun t => { t with overBudget := true, budget := none }).beginLeave n).finishLeave n else s

/-! ## Reading the image back (21 R392 step 1, R393; 14 R298) -/

/-- A landing state from its two bits. -/
def landOf (n : Nat) : LandState := match n % 4 with | 0 => .none | 1 => .pending | 2 => .delivered | _ => .lapsed

/-- A WB of a record that the thread can take (03 R46), else the one it has. -/
def Thread.wbOf (t : Thread) (v old : Nat) : Nat := if t.wbOk (BitVec.ofNat 32 v) then v else old

/-- The thread with the fields of a record written, but where it stands and why (21 Table 21.12): reserved bits of TSTAT read 0,
PC and EPC keep all their bits (log 52), and WB and EWB take only what 03 R46 allows. -/
def Thread.fromRecord (t : Thread) (v : Nat) : Thread :=
  let depth := min 8 (bits v 171 168)
  { t with
    pc := BitVec.ofNat 64 (bits v 63 0)
    tstat := BitVec.ofNat 32 (bits v 95 64) &&& 0x17F
    wb := t.wbOf (bits v 111 96) t.wb
    xa := BitVec.ofNat 12 (bits v 123 112)
    rmode := BitVec.ofNat 2 (bits v 125 124)
    ix := BitVec.ofNat 32 (bits v 159 128)
    spd := BitVec.ofNat 32 (bits v 223 192)
    preds := BitVec.ofNat 128 (bits v 383 256) ||| 1
    rstack := ((List.range depth).map fun i => BitVec.ofNat 64 (bits v (64 * i + 447) (64 * i + 384))).reverse
    rcurRing := BitVec.ofNat 32 (bits v 927 896)
    rcurStage := bits v 930 928
    rcurPhase := bit v 931
    epc := BitVec.ofNat 64 (bits v 1023 960)
    ecode := BitVec.ofNat 32 (bits v 1055 1024) &&& 0x7FFF
    einfo := BitVec.ofNat 32 (bits v 1087 1056)
    eaddr := BitVec.ofNat 64 (bits v 1151 1088)
    eix := BitVec.ofNat 32 (bits v 1183 1152)
    ewb := BitVec.ofNat 32 (t.wbOf (bits v 1199 1184) t.ewb.toNat)
    scr := (List.range 4).map fun i => BitVec.ofNat 32 (bits v (32 * i + 1247) (32 * i + 1216))
    tlsb := BitVec.ofNat 64 (bits v 1407 1344) }

/-- The thread with its register block written, as far as the words given reach. -/
def Thread.fromBlock (t : Thread) (l : List Word) : Thread :=
  { t with
    regs := t.regs.zipIdx.map fun (x, i) => l.getD i x
    landing := t.landing.zipIdx.map fun (x, i) =>
      match l[t.ra + i / 16]? with
      | some w => landOf (w.toNat / 2 ^ (2 * (i % 16)))
      | none => x }

/-- The sleep of a record: what the thread slept in where it is the same instruction, a PAUSE by its count; operands are read afresh (13 R260). -/
def sleepOfRecord (old : Place) (k v : Nat) : Sleep :=
  match old, k with
  | _, 6 => .pause v
  | .headland (.sleep x), _ => if (sleepBits 0 x).1 = k then x else sleepOfKind k
  | _, _ => sleepOfKind k
where
  /-- A sleep of a kind before its operands are read. -/
  sleepOfKind : Nat → Sleep
    | 0 => .wait 0 0 0 0
    | 1 => .barp
    | 2 => .barc 0
    | 3 => .bcwait 0 false
    | 4 => .waitw 0 0 0
    | 5 => .lwait 0 0
    | 6 => .pause 0
    | _ => .mwaitb 0

/-- Where a thread stands by its record (21 Table 21.12). -/
def placeOfRecord (old : Place) (v : Nat) : Place :=
  match bits v 127 126, bits v 162 160 with
  | 0, _ => .filed
  | 2, _ => .exited
  | _, 0 => .headland (.sleep (sleepOfRecord old (bits v 167 163) (bits v 255 224)))
  | _, 1 => .headland .rendezvous
  | _, 2 => .headland .parked
  | _, _ => .headland .stopped

/-- The words of bytes. -/
def wordsOf (n : Nat) (l : List Byte) : List Word := (List.range n).map fun i => BitVec.ofNat 32 (leNat ((l.drop (4 * i)).take 4))

/-- A thread from its part of the threads section. -/
def Thread.restored (t : Thread) (l : List Byte) : Thread :=
  let v := leNat (l.take 256)
  { (t.fromRecord v).fromBlock (wordsOf (t.ra + t.ra / 16) (l.drop 256)) with place := placeOfRecord t.place v, pflt := bit v 1440 }

/-- Threads from the threads section, one after another. -/
def restoreThreads : Tab Thread → List Byte → Tab Thread
  | [], _ => []
  | (i, t) :: rest, l =>
    let n := 256 + 4 * t.ra + t.ra / 4
    (i, t.restored (l.take n)) :: restoreThreads rest (l.drop n)

/-- Memory from bytes, from an address on. -/
def memOf : Nat → List Byte → Mem
  | _, [] => []
  | a, b :: t => if b = 0 then memOf (a + 1) t else (a, b) :: memOf (a + 1) t

/-- Tiles from the tile section, from a cell on. -/
def tilesOf : Nat → Nat → List Byte → Tab Quad
  | _, 0, _ => []
  | k, n + 1, l =>
    let v : Quad := BitVec.ofNat 128 (leNat (l.take 16))
    if v = axaZero then tilesOf (k + 1) n (l.drop 16) else (k, v) :: tilesOf (k + 1) n (l.drop 16)

/-- Rows of the lengths of other rows, from bytes. -/
def cutRows : List (List Byte) → List Byte → List (List Byte)
  | [], _ => []
  | x :: t, l => l.take x.length :: cutRows t (l.drop x.length)

/-- An engine command from its record: its header and the payload of its kind; its tensor entries stay (15 R320). -/
def EngCmd.restored (c : EngCmd) (tag : Nat) (l : List Byte) : EngCmd :=
  let h := leNat (l.take 32)
  let pay := l.drop 32
  let c' := { c with ref := ⟨tag, bits h 15 0⟩, rmode := BitVec.ofNat 2 (bits h 31 24), batch := if bits h 39 32 = 255 then none else some (bits h 39 32) }
  match c.kind with
  | .mma =>
    let rest := pay.drop c.block.length
    { c' with block := pay.take c.block.length, rowsA := cutRows c.rowsA rest, rowsB := cutRows c.rowsB (rest.drop c.rowsA.flatten.length) }
  | .mdrain => { c' with block := pay.take c.block.length }
  | .mzero => c'
  | .apipe => { c' with block := pay.take c.block.length, table := (pay.drop c.block.length).take c.table.length }

/-- Engine commands from the engine command section, one after another. -/
def restoreEngine (tag : Nat) : List EngCmd → List Byte → List EngCmd
  | [], _ => []
  | c :: t, l => let n := (engImage c).length; c.restored tag (l.take n) :: restoreEngine tag t (l.drop n)

/-- A copy command from its record. -/
def CopyCmd.restored (c : CopyCmd) (tag : Nat) (l : List Byte) : CopyCmd :=
  { c with bytes := l.take 64, ref := some ⟨tag, leNat ((l.drop 64).take 2)⟩, rmode := BitVec.ofNat 2 (leNat ((l.drop 66).take 1)) }

/-- Copy commands of a plot from the copy command section, in issue order. -/
def restoreCopies (tag : Nat) : Tab CopyCmd → List Byte → Tab CopyCmd
  | [], _ => []
  | (i, c) :: t, l =>
    if c.ref.any fun r => r.tag == tag then (i, c.restored tag (l.take 128)) :: restoreCopies tag t (l.drop 128)
    else (i, c) :: restoreCopies tag t l

/-- A section of an image by the offset that a plot header gives; an empty one has offset 0. -/
def sectionAt (img : List Byte) (h i : Nat) : List Byte :=
  let o := bits h (64 * i + 1087) (64 * i + 1024)
  if o = 0 then [] else img.drop o

/-- A plot from its block of an image (21 Table 21.11): constants, batch counts, tile status words without QD, threads, scratchpad, tiles, engine commands. -/
def Plot.restored (p : Plot) (tag : Nat) (img : List Byte) (h : Nat) : Plot :=
  { p with
    k := (List.range 12).map fun j => BitVec.ofNat 32 (bits h (32 * j + 31) (32 * j))
    tsw := (List.range 4).map fun i => BitVec.ofNat 32 (bits h (32 * i + 567) (32 * i + 544))
    batch := (List.range 64).filterMap fun i =>
      let n := bits h (32 * i + 2079) (32 * i + 2048)
      if n = 0 then none else some (i, n)
    threads := restoreThreads p.threads (sectionAt img h 0)
    spad := memOf 0 ((sectionAt img h 1).take p.spadLen)
    tiles := if p.matN = 0 then p.tiles else tilesOf 0 65536 (sectionAt img h 2)
    engq := restoreEngine tag p.engq (sectionAt img h 3) }

/-- Restore one plot and its copy commands. -/
def State.restorePlot (s : State) (tag : Nat) (img : List Byte) (off : Nat) : State :=
  let h := leNat ((img.drop off).take 512)
  let s1 := s.modPlot tag fun p => p.restored tag img h
  { s1 with copies := restoreCopies tag s1.copies (sectionAt img h 4) }

/-- Restore plots by the offsets of the tract header. -/
def State.restorePlots (s : State) (img : List Byte) (h : Nat) : List (Nat × Plot) → State
  | [] => s
  | (tag, p) :: t => (s.restorePlot tag img (bits h (64 * p.index + 575) (64 * p.index + 512))).restorePlots img h t

/-- The windows of a context that are not armed pin nothing (09 R193). -/
def State.releaseUnarmed (s : State) (ctx : Nat) : State :=
  match tget s.ctxs ctx with
  | some c => ((List.range 16).filter fun n => !armed (c.lpwc.getD n 0)).foldl (fun s n => s.releaseWin ctx n) s
  | none => s

/-- The tract header's fields: the selector, and the pinned-window registers of the context, as writes of them act (09 R193, log 65). -/
def State.restoreHeader (s : State) (n ctx h : Nat) : State :=
  let at' := fun (b : Nat) => (List.range 16).map fun i => BitVec.ofNat 32 (bits h (32 * i + b + 31) (32 * i + b))
  ((s.modTract n fun t => { t with sel := BitVec.ofNat 32 (bits h 63 32) }).modCtx ctx fun c =>
    { c with lpwb := at' 1024, lpwc := at' 1536, lpwHit := List.replicate 16 false, lpwTick := List.replicate 16 s.time }).releaseUnarmed ctx

/-- Restore every field of a tract's image; one that cannot be read leaves what the device keeps (log 11). -/
def State.restoreImage (s : State) (n : Nat) (t : Tract) (w : Sowing) : State :=
  match s.engRead 128 w.ctx accEngRead (t.imageLen / 64 + 2) t.image t.imageLen with
  | (s1, .error _) => s1
  | (s1, .ok img) =>
    let h := leNat (img.take 256)
    (s1.restoreHeader n w.ctx h).restorePlots img h (s1.plotsOf n)

/-! ## Swap-in (21 R392) -/

/-- A sleep as its operands read at the thread's PC now give it (13 R260); arrivals at barriers stay. -/
def State.readSleep (s : State) (r : Ref) (t : Thread) (p : Plot) : Sleep → Sleep
  | .pause c => .pause (s.cycle + c)
  | k => match k, s.peekInstr r with
    | .wait _ _ _ _, some (.wait a b c d) => .wait a.val b.val c.val d.val
    | .bcwait _ _, some (.bcwait a ph) => .bcwait (BitVec.ofNat 32 (barAddr (t.rd32 (s.env r p) a))) (waitedPhase (t.rd32 (s.env r p) a) ph)
    | .waitw _ _ since, some (.waitw a b) => .waitw (t.rd64 (s.env r p) a) (t.rd32 (s.env r p) b) since
    | .lwait _ x, some (.lwait pd a) => .lwait pd ((t.phys a).getD x)
    | .mwaitb _, some (.mwaitb n) => .mwaitb n.val
    | k, _ => k

/-- Evaluate a thread's sleep again, by its operands as they now read: one whose condition holds ends (13 R260). -/
def State.resleep (s : State) (r : Ref) : State :=
  match s.thread? r, tget s.plots r.tag with
  | some t, some p => match t.place with
    | .headland (.sleep k) =>
      let k' := s.readSleep r t p k
      let s1 := s.modThread r fun t => { t with place := .headland (.sleep k') }
      match k' with
      | .waitw _ _ _ => s1.waitwRecheck r
      | .pause _ => s1.pauseExpiry r
      | .barc com => if s1.barcOver r com then s1.barcWake com r else s1
      | .barp => s1
      | _ => s1.threadWake r
    | _ => s
  | _, _ => s

/-- Write the values parked in a core's slots for some plots to the bound registers (13 R296). -/
def State.unparkSlots (s : State) (tags : List Nat) (c : Nat) : State :=
  (s.core c).slots.foldl (fun s (n, x) =>
    if x.state = .parked ∧ tags.contains x.owner.tag then
      (s.modThread x.owner fun t => t.deliver x.reg x.wide x.value x.src).putSlot c n x.freed
    else if x.state = .live ∧ tags.contains x.owner.tag ∧ x.expiry ≤ s.time then s.lapseSlot c n
    else s) s

/-- Apply the arrivals held for some plots, in arrival order (13 R261). -/
def State.heldArrivals (s : State) (tags : List Nat) : State :=
  s.arrivals.foldl (fun s (a, x) => if x.held ∧ tags.contains (handleTag x.handle.toNat) then s.deliverArrival a else s) s

/-- Put the plots of a tract on a run of cores. -/
def State.seatPlots (s : State) (spadBytes : Nat) : List ((Nat × Plot) × Nat) → State
  | [] => s
  | ((tag, _), c) :: t =>
    let base := (spadGap (s.spadUsed c) spadBytes).getD 0
    (s.modPlot tag fun p => { p with core := c, spadBase := base }).seatPlots spadBytes t

/-- The recorded copy commands of a plot are issued again on its core, in their order, and wait there for room (15 R319). -/
def State.reissueCopies (s : State) (tag core : Nat) : State :=
  let s1 : State := { s with copies := s.copies.map fun (i, (c : CopyCmd)) =>
    (i, if c.ref.any fun r => r.tag == tag then { c with core := some core } else c) }
  State.frontAdmit core 256 s1

/-- The threads of some plots that stand filed, in ascending plot index and tid. -/
def State.filedOf (s : State) (ps : List (Nat × Plot)) : List Ref :=
  ps.flatMap fun (tag, _) => match tget s.plots tag with
    | some p => (p.threads.filter fun (_, t) => t.place == .filed).map fun (i, _) => ⟨tag, i⟩
    | none => []

/-- File threads at their own PCs, as a placement does. -/
def State.filePlaced (s : State) (l : List Ref) : State :=
  l.foldl (fun s r => match s.thread? r with | some t => s.fileThread r t.pc rankPlace | none => s) s

/-- Swap a tract in on a run of cores, in the order of R392: what the image holds; held arrivals; parked values and lapses; recorded commands;
sleeps; and the threads whose saved state is filed. -/
def State.swapTo (s : State) (n : Nat) (t : Tract) (w : Sowing) (run : List Nat) : State :=
  let sr := s.restoreImage n t w
  let ps := sr.plotsOf n
  let tags := ps.map Prod.fst
  let sel := match tget sr.tracts n with | some x => x.sel | none => t.sel
  let s1 := sr.loadSelectors run sel fun _ => [.sys]
  let s2 := s1.seatPlots (w.spadKB * 1024) (ps.zip run)
  let (order, s2a) := s2.fresh
  let s3 := s2a.modTract n fun x => { x with cores := run, resident := true, placedAt := s.time, order := order, imageLen := 0, overBudget := false }
  let s4 := s3.heldArrivals tags
  let s5 := (s4.coreNums.foldl (fun s c => s.unparkSlots tags c) s4).modTractThreads n Thread.applyLapses
  let s6 := (ps.zip run).foldl (fun s x => s.reissueCopies x.1.1 x.2) s5
  let filed := s6.filedOf ps
  let s7 := ps.foldl (fun s (tag, p) => p.threads.foldl (fun s (i, _) => s.resleep ⟨tag, i⟩) s) s6
  let s8 := s7.filePlaced filed
  s8.modSow t.sow fun w => { w with coresUsed := (w.coresUsed ++ run).eraseDups }

/-- The image of a swapped tract can be read: no port is wanting (23 R410). -/
def State.imageThere (s : State) (n : Nat) : Bool :=
  match tget s.tracts n with
  | some t => match tget s.sowings t.sow with
    | some w => !s.poolHeld w.ctx t.image t.imageLen
    | none => true
  | none => true

/-- SWAP_IN (R392): the tract the distributor has chosen. -/
def State.swapIn (s : State) (n : Nat) : State :=
  match s.choice with
  | .place ⟨sow, some m⟩ run =>
    if m ≠ n ∨ !s.imageThere n then s
    else match tget s.tracts n, tget s.sowings sow with
      | some t, some w => (s.swapTo n t w run).roomTaken (sow, some n)
      | _, _ => s
  | _ => s

/-! ## The steps -/

/-- SWAP_OUT (21 R391). -/
def execSwapOut (tract : Nat) (s : State) : Result := .next (s.swapOut tract)

/-- SWAP_IN (21 R392). -/
def execSwapIn (tract : Nat) (s : State) : Result := .next (s.swapIn tract)

/-- PARKING_BUDGET_EXPIRY (21 R388). -/
def execParkingBudgetExpiry (tract : Nat) (s : State) : Result := .next (s.budgetExpiry tract)

end Sys2Proof.Machine
end

