-- ==== Sys2Proof/Machine/FaultService.lean ====
section
/-! DEFINITION. The steward's service of fault records (22 R400 to R403, 21 R387 to R389, 15 R440): lazy pages, resume, kill and abort. -/

namespace Sys2Proof.Machine

/-! ## Resume and kill of threads (21 R387) -/

/-- The image of a swapped-out tract follows a service applied to it (21 R388). -/
def State.imageFollows (s : State) (r : Ref) : State :=
  match tget s.plots r.tag with
  | none => s
  | some p => match tget s.tracts p.tract with
    | some t => if t.resident then s else s.writeImage p.tract
    | none => s

/-- What the steward wrote before a resume is seen by the resumed thread: its core keeps no older copy (22 R402). -/
def State.resumeCaches (s : State) (r : Ref) : State := if s.residentRef r then s.acquireCaches (s.coreOf r) .sys else s

/-- Resume a parked thread: it is filed at its PC (R387); one already exited is left alone. -/
def State.resumeThread (s : State) (r : Ref) : State :=
  match s.thread? r with
  | none => s
  | some t =>
    if t.place = .headland .parked then
      (((s.modThread r fun t => { t with pflt := false }).resumeCaches r).fileThread r t.pc (rankWake r)).imageFollows r
    else s

/-- Kill the thread of a record (R387). -/
def State.killRecorded (s : State) (r : Ref) : State := (s.killThread r).imageFollows r

/-! ## Resume and abort by handle (15 R313, R440; 19 R365) -/

/-- Work that waits for a handle. -/
inductive Work where
  | copy (id : Nat)
  | qpost (id : Nat)
  | queue (q : Nat)
  | sowing (n : Nat)
  | engine (tag id : Nat)
  deriving DecidableEq, Repr

/-- The attention command of a plot that waits for a handle. -/
def Plot.waitsFor (p : Plot) (h : Nat) : Option EngCmd := p.engq.find? fun c => c.stage == .paused (some h)

/-- The work that a handle names. -/
def State.workOf (s : State) (h : Nat) : Option Work :=
  match s.copies.find? fun (_, c) => c.paused == some h with
  | some (id, _) => some (.copy id)
  | none => match s.qposts.find? fun (_, q) => q.paused == some h with
    | some (id, _) => some (.qpost id)
    | none => match s.queues.find? fun (_, q) => q.waitRec == some h with
      | some (q, _) => some (.queue q)
      | none => match s.sowings.find? fun (_, w) => w.waitRec == some h with
        | some (n, _) => some (.sowing n)
        | none => s.plots.findSome? fun (tag, p) => (p.waitsFor h).map fun c => .engine tag c.id

/-- Resume the work of a handle: it tries its faulting access again. -/
def State.resumeWork (s : State) (h : Nat) : State :=
  match s.workOf h with
  | none => s
  | some (.copy id) => s.copyResume id
  | some (.qpost id) => s.modQpost id fun q => { q with paused := none }
  | some (.queue q) => s.modQueue q fun x => { x with waitRec := none }
  | some (.sowing n) => s.modSow n fun w => { w with waitRec := none, tokAt := none }
  | some (.engine tag id) => s.modEng tag id fun c => { c with stage := .paused none }

/-- Unregister a queue (15 R440, 23 R424). -/
def State.dropQueue (s : State) (q : Nat) : State := { s with queues := tdel s.queues q }

/-- Abort what a queue waits for (15 R440): the queue itself, its launch's membership image, its token signal. -/
def State.abortQueue (s : State) (q : Nat) : State :=
  match tget s.queues q with
  | none => s
  | some x =>
    let s1 := s.modQueue q fun x => { x with waitRec := none }
    let gone := (s1.dropQueue q).event evError q
    match x.packet with
    | none => gone
    | some p => match p.stage with
      | .read => gone
      | .cleared => gone
      | .taken =>
        if p.kind = 1 then s1.rejectLaunch q x p csMembership 64
        else if p.kind = 6 then (s1.setPacket q none).endPacket q x.ctx p.status csAborted 0
        else s1
      | .launched => s1

/-- Abort what a sowing waits for (15 R440): a token read rejects the launch; a DONE add is left out and the record carries aborted. -/
def State.abortSowing (s : State) (n : Nat) : State :=
  match tget s.sowings n with
  | none => s
  | some w =>
    if w.toksOk then s.modSow n fun w => { w with waitRec := none, doneAdded := true, aborted := true }
    else ((s.dropSowing n w).setPacket w.q none).endPacket w.q w.ctx w.statusVa csAborted 0

/-- Abort the work of a handle. -/
def State.abortWork (s : State) (h : Nat) : State :=
  match s.workOf h with
  | none => s
  | some (.copy id) => s.copyAbort id
  | some (.qpost id) => match tget s.qposts id with
    | none => s
    | some q => { s with qposts := tdel s.qposts id }.modThread q.ref fun t => { t with cp := t.cp - 1 }
  | some (.queue q) => s.abortQueue q
  | some (.sowing n) => s.abortSowing n
  | some (.engine tag id) => match tget s.plots tag with
    | none => s
    | some p => match p.engq.find? fun c => c.id == id with
      | some c => s.apAbort tag c
      | none => s

/-! ## Lazy pages (22 R400, R401) -/

/-- The lazy page of a context that holds an address. -/
def Ctx.lazyPage (c : Ctx) (va : Nat) : Option LazyPage := c.lazy.find? fun p => p.va / 4096 == va / 4096

/-- The physical address of the level-0 entry of a virtual address, where the upper levels lead to one. -/
def State.leafAddr (s : State) (va : Nat) : Nat → Nat → Option Nat
  | 0, table => some (table + 8 * vaIndex va 0)
  | l + 1, table =>
    let p := s.pteAt (table + 8 * vaIndex va (l + 1))
    if pteV p && !pteBad p (l + 1) && !pteLeaf p then s.leafAddr va l (pteFrame p * 4096) else none

/-- The entries that the steward reads on the way there (09 R203). -/
def State.leafReads (s : State) (va : Nat) : Nat → Nat → List Nat
  | 0, table => [table + 8 * vaIndex va 0]
  | l + 1, table =>
    let a := table + 8 * vaIndex va (l + 1)
    let p := s.pteAt a
    a :: if pteV p && !pteBad p (l + 1) && !pteLeaf p then s.leafReads va l (pteFrame p * 4096) else []

/-- The leaf of a lazy page: V = 1, the recorded frame and attributes (22 R401). -/
def lazyPte (p : LazyPage) : Nat := p.attr.toNat / 2 ^ 52 * 2 ^ 52 + p.frame % 2 ^ 40 * 2 ^ 12 + bits p.attr.toNat 11 4 * 2 ^ 4 + 8 + bits p.attr.toNat 2 1 * 2 + 1

/-- Map a lazy page where its leaf has V = 0; a HOME 01 page is copied into its pin area (09 R183), and without room there stays as it is. The unsown rows that the
steward reads are counted (R203). -/
def State.mapLazy (s0 : State) (c : Ctx) (p : LazyPage) : State :=
  let s := s0.countWalk (s0.leafReads p.va 3 c.root)
  match s.leafAddr p.va 3 c.root with
  | none => s
  | some a =>
    let v := lazyPte p
    if pteV (s.pteAt a) then s
    else if ptePins v then match s.pinIn (pteAddr v) (pteOwn v) 4096 with | some s1 => s1.writePte a v | none => s
    else s.writePte a v

/-! ## Service (22 R401) -/

/-- A record parks a thread (21 R390). -/
def FaultRec.parks (f : FaultRec) : Bool := f.src == 0 || f.src == 4 || f.src == 5

/-- A record is about a command or queue work. -/
def FaultRec.isWork (f : FaultRec) : Bool := f.src == 1 || f.src == 2

/-- A resume: of the thread that the record parked, or of the work (R387, R401). -/
def State.resumeRec (s : State) (f : FaultRec) : State :=
  if f.parks then (match f.ref with | some r => s.resumeThread r | none => s)
  else if f.isWork then s.resumeWork f.mask.toNat
  else s

/-- The default service of the runtime: a kill for a record that parks a thread, an abort for work. -/
def State.endRec (s : State) (f : FaultRec) : State :=
  if f.parks then (match f.ref with | some r => s.killRecorded r | none => s)
  else if f.isWork then s.abortWork f.mask.toNat
  else s

/-- A record of an address of a lazy page that R401 maps, with its context and the page. -/
def State.lazyOf (s : State) (ctx : Nat) (f : FaultRec) : Option (Ctx × LazyPage) :=
  if (f.src = 0 ∨ f.isWork) ∧ f.code = fcNotPresent then
    (tget s.ctxs ctx).bind fun c => (c.lazyPage f.addr.toNat).map fun p => (c, p)
  else none

/-- A record whose only service is a kill: a double trap (21 R375), and a fault that a handler reports with code 0x10 (R378). -/
def FaultRec.killOnly (f : FaultRec) : Bool := f.src == 5 || (f.src == 4 && f.code == 0x10)

/-- Tracts without an unserviced record have no parking budget running (21 R388). -/
def State.endBudgets (s : State) : State :=
  { s with tracts := s.tracts.map fun (n, (t : Tract)) => (n, if s.unserviced n then t else { t with budget := none }) }

/-- Service one record. What is passed to the runtime is resumed where it answers so and a resume is a service of the record, else killed or aborted (log 33). -/
def State.serviceRec (s : State) (ctx : Nat) (f : FaultRec) (resume : Bool) : State :=
  match s.lazyOf ctx f with
  | some (c, p) => (s.mapLazy c p).resumeRec f
  | none =>
    if f.src = 3 ∨ f.src = 6 then { s with steward := { s.steward with log := s.steward.log ++ [(f.code, f.addr.toNat)] } }
    else if resume && !f.killOnly then s.resumeRec f
    else s.endRec f

/-- RIX of a context's record queue, where a record stands there. -/
def State.nextRec (s : State) (c : Ctx) (ctx : Nat) : State × Option Nat :=
  match s.pread 128 ctx c.frqh.toNat 64 accEngRead with
  | (s, .error _) => (s, none)
  | (s, .ok l) => if bits (leNat l) 127 64 < bits (leNat l) 63 0 then (s, some (bits (leNat l) 127 64)) else (s, none)

/-- The service of a record waits for a port to the device of a lazy page's frame, which is to be copied into a pin area (23 R410, 09 R183). -/
def State.lazyHeld (s : State) (ctx : Nat) (f : FaultRec) : Bool :=
  match s.lazyOf ctx f with
  | some (_, p) => ptePins (lazyPte p) && s.frameHeld (pteAddr (lazyPte p))
  | none => false

/-- FAULT_SERVICE (22 R401): the record at RIX, then RIX + 1. A record already serviced while service was held is passed over. resume is the
runtime's answer for a record that is passed to it. -/
def State.faultService (s : State) (ctx : Nat) (resume : Bool) : State :=
  match tget s.ctxs ctx with
  | none => s
  | some c =>
    if c.svcHeld then s
    else match s.nextRec c ctx with
      | (s, none) => s
      | (s, some n) =>
        if ((tget c.recs n).map (s.lazyHeld ctx)).getD false then s
        else
        let s1 := match tget c.recs n with | some f => s.serviceRec ctx f resume | none => s
        let s2 := (s1.pwrite 128 ctx none (c.frqh.toNat + 8) (natLe 8 (n + 1)) accEngWrite none).1
        (s2.modCtx ctx fun c => { c with recs := tdel c.recs n }).endBudgets

/-- FAULT_RECORD_FLUSH (21 R389): held records are written while there is room. -/
def State.recordFlush (s : State) (ctx : Nat) : State := s.flushRecs ctx (s.heldCount ctx)

/-! ## Held service (22 R403) -/

/-- Hold or release service. -/
def State.holdService (s : State) (ctx : Nat) (b : Bool) : State := s.modCtx ctx fun c => { c with svcHeld := b }

/-- Kill the thread of a record while service is held: the record counts as serviced. -/
def State.killHeld (s : State) (ctx n : Nat) : State :=
  match tget s.ctxs ctx with
  | none => s
  | some c =>
    match c.svcHeld, tget c.recs n with
    | true, some f => if f.parks then ((s.endRec f).modCtx ctx fun c => { c with recs := tdel c.recs n }).endBudgets else s
    | _, _ => s

/-! ## The steps -/

/-- FAULT_RECORD_FLUSH (21 R389). -/
def execFaultRecordFlush (ctx : Nat) (s : State) : Result := .next (s.recordFlush ctx)

/-- FAULT_SERVICE (22 R401). -/
def execFaultService (service : Service) (s : State) : Result := .next (s.faultService service.ctx service.resume)

/-- FAULTS_HOLD (22 R403). -/
def execFaultsHold (ctx : Nat) (s : State) : Result := .next (s.holdService ctx true)

/-- FAULTS_RELEASE (22 R403). -/
def execFaultsRelease (ctx : Nat) (s : State) : Result := .next (s.holdService ctx false)

/-- FAULTS_KILL (22 R403). -/
def execFaultsKill (ctx : Nat) (n : Nat) (s : State) : Result := .next (s.killHeld ctx n)

end Sys2Proof.Machine
end

