-- ==== Sys2Proof/Machine/Debug.lean ====
section
/-! DEFINITION. The debug service (21 R395 to R399, R371): comparators, the control bits of a context, a stopped thread's state, resume,
single step and kill. -/

namespace Sys2Proof.Machine

/-- The thread is stopped for the debugger. -/
def Thread.stopped (t : Thread) : Bool := t.place == .headland .stopped

/-- A stopped thread. -/
def State.stopped? (s : State) (r : Ref) : Option Thread :=
  match s.thread? r with
  | some t => if t.stopped then some t else none
  | none => none

/-! ## Comparators and control bits -/

/-- Set a comparator of a context (R395). -/
def State.setComparator (s : State) (ctx n : Nat) (c : Comparator) : State :=
  if 16 ≤ n then s else s.modCtx ctx fun x => { x with cmps := tput x.cmps n c }

/-- Change STILL, HAZ and BKS (R371). -/
def State.setControl (s : State) (ctx : Nat) (still haz bks : Bool) : State :=
  s.modCtx ctx fun x => { x with still := still, haz := haz, bks := bks }

/-! ## A stopped thread's state (R396) -/

/-- The register block of a thread: its registers, then the landing states, sixteen to a word (R393). -/
def Thread.block (t : Thread) : List Word :=
  t.regs ++ (List.range (t.ra / 16)).map fun i =>
    BitVec.ofNat 32 (layOut (((t.landing.drop (16 * i)).take 16).zipIdx.map fun (x, j) => (landBits x, 2 * j)))

/-- DEBUG_READ_STATE (R396). -/
def State.debugRead (s : State) (r : Ref) : State :=
  match s.stopped? r with
  | some t => { s with debug := s.debug ++ [.state r (BitVec.ofNat 2048 (threadBits s.cycle t)) t.block] }
  | none => s

/-- WB and EWB of a record are values that the thread can take (03 R46). -/
def Thread.takesWrite (t : Thread) (image : BitVec 2048) : Bool :=
  t.wbOk (BitVec.ofNat 32 (bits image.toNat 111 96)) && t.wbOk (BitVec.ofNat 32 (bits image.toNat 1199 1184))

/-- DEBUG_WRITE_STATE (R396): kept until the thread is filed; refused where WB or EWB is no value for it (03 R46, log 60). -/
def State.debugWrite (s : State) (r : Ref) (image : BitVec 2048) (regs : List Word) : State :=
  match s.stopped? r with
  | some t => if t.takesWrite image then s.setThread r { t with written := some { image := image, regs := regs } } else s
  | none => s

/-- A thread as it is filed: a debugger's write takes effect (R396). -/
def Thread.withWrite (t : Thread) : Thread :=
  match t.written with
  | some w => { (t.fromRecord w.image.toNat).fromBlock w.regs with written := none }
  | none => t

/-! ## Resume, step, kill -/

/-- Where a stopped thread goes on: at its PC, or at PC + 4 after BKPT (R397). -/
def Thread.resumePc (t : Thread) : DWord := if t.bkptStop.isSome then t.pc4 else t.pc

/-- File one stopped thread; a comparator does not match its first instruction (R395, R397). -/
def State.resumeStopped (s : State) (r : Ref) : State :=
  match s.stopped? r with
  | some t => (s.setThread r { t.withWrite with noMatch := true, bkptStop := none }).fileThread r t.withWrite.resumePc (rankWake r)
  | none => s

/-- Resume a still tract: nothing of it is to stop any more, and every stopped thread of it is filed (R399). -/
def State.resumeTract (s : State) (n : Nat) : State :=
  let s1 := (s.modTract n fun t => { t with still := false }).modTractThreads n fun t => { t with stopReq := false }
  (s1.plotsOf n).foldl (fun s (tag, p) => p.threads.foldl (fun s (i, _) => s.resumeStopped ⟨tag, i⟩) s) s1

/-- The tract of a thread. -/
def State.tractOf (s : State) (r : Ref) : Option (Nat × Tract) :=
  match tget s.plots r.tag with
  | none => none
  | some p => (tget s.tracts p.tract).map fun t => (p.tract, t)

/-- DEBUG_RESUME (R397, R399): a stopped thread, or with it a still tract; a frozen plot is the steward's to release (R394). -/
def State.debugResume (s : State) (r : Ref) : State :=
  match s.tractOf r with
  | none => s.resumeStopped r
  | some (n, t) => if t.frozen then s else if t.still then s.resumeTract n else s.resumeStopped r

/-- A thread as a single step takes it. -/
def Thread.toStep (t : Thread) : Thread :=
  { t.withWrite with pc := t.withWrite.resumePc, stepping := true, noMatch := true, stopReq := false, bkptStop := none }

/-- A single step can take its thread: its tract placed, a slot free, no command of it that waits at issue, and nothing its instruction has to wait for. A command
whose queue is full is captured and waits there, as in an ordinary drill (17 R332, log 26). -/
def State.stepReady (s : State) (r : Ref) (t : Thread) : Bool :=
  let s1 := s.setThread r t.toStep
  s.placed r && (tfree (s.core (s.coreOf r)).drills 0 256).isSome && !s.awaitsRoom r && s1.wordReady [r] (s1.fetch r).2

/-- DEBUG_SINGLE_STEP (R398): a drill of the one thread, which executes one instruction next; a debugger's write takes effect (log 60). -/
def State.singleStep (s : State) (r : Ref) : State :=
  match s.stopped? r with
  | none => s
  | some t =>
    match tfree (s.core (s.coreOf r)).drills 0 256 with
    | none => s
    | some slot =>
      if !s.stepReady r t then s
      else
        let s1 := s.setThread r t.toStep
        let s2 := s1.newDrill (s.coreOf r) slot [r] true none
        { s2 with issueQ := (s.coreOf r, slot) :: s2.issueQ }

/-! ## The steps -/

/-- DEBUG_SET_COMPARATOR (R395). -/
def execDebugSetComparator (ctx : Nat) (n : Nat) (cmp : Comparator) (s : State) : Result := .next (s.setComparator ctx n cmp)

/-- DEBUG_SET_CONTROL (R371). -/
def execDebugSetControl (ctx : Nat) (still : Bool) (haz : Bool) (bks : Bool) (s : State) : Result := .next (s.setControl ctx still haz bks)

/-- DEBUG_READ_STATE (R396). -/
def execDebugReadState (tag : Nat) (tid : Nat) (s : State) : Result := .next (s.debugRead ⟨tag, tid⟩)

/-- DEBUG_WRITE_STATE (R396). -/
def execDebugWriteState (tag : Nat) (tid : Nat) (image : BitVec 2048) (regs : List (BitVec 32)) (s : State) : Result :=
  .next (s.debugWrite ⟨tag, tid⟩ image regs)

/-- DEBUG_RESUME (R397). -/
def execDebugResume (tag : Nat) (tid : Nat) (s : State) : Result := .next (s.debugResume ⟨tag, tid⟩)

/-- DEBUG_SINGLE_STEP (R398). -/
def execDebugSingleStep (tag : Nat) (tid : Nat) (s : State) : Result := .next (s.singleStep ⟨tag, tid⟩)

/-- DEBUG_KILL (01 R14). -/
def execDebugKill (tag : Nat) (tid : Nat) (s : State) : Result := .next ((s.killThread ⟨tag, tid⟩).imageFollows ⟨tag, tid⟩).endBudgets

end Sys2Proof.Machine
end

