-- ==== Sys2Proof/Machine/Fabric.lean ====
section
/-! DEFINITION. The fabric and the host's accesses: ports and their keys (23 R404, R405, R411, R412), destinations that cannot be reached
(R408 to R410, R415), requests of other devices (R413, R414), relays (R407), accesses of the host (R417, R418), and what a
violation freezes (R432, 21 R394). -/

namespace Sys2Proof.Machine

/-- A poisoned line lies among n bytes (23 R436). -/
def State.poisoned (s : State) (pa n : Nat) : Bool :=
  n != 0 && s.poison.any fun y => decide (y * 128 < localOf pa + n) && decide (localOf pa < y * 128 + 128)

/-! ## Ports (23 R405, R409) -/

/-- A port's record; a port nothing has touched is as after reset. -/
def State.port (s : State) (p : Nat) : Port := (tget s.fabric.ports p).getD Port.reset

/-- Replace a port's record. -/
def State.setPort (s : State) (p : Nat) (x : Port) : State := { s with fabric := { s.fabric with ports := tput s.fabric.ports p x } }

/-- Put an entry into the steward's log. -/
def State.logError (s : State) (code detail : Nat) : State := { s with steward := { s.steward with log := s.steward.log ++ [(code, detail)] } }

/-- Log entries of errors that the fault codes do not name (log 17). -/
def logPort : Nat := 0x100
def logPoison : Nat := 0x101
def logSecded : Nat := 0x102

/-- The keys of a port's two directions as the stewards agree on them when the link comes up (log 13). -/
def State.firstKeys (s : State) (x : Port) : State × Port :=
  if x.tx0.isSome ∨ x.tx1.isSome then (s, x)
  else
    let (k, s1) := s.draw
    let (j, s2) := s1.draw
    (s2, { x with tx0 := some (Config.freeKey k), rx0 := some (Config.freeKey j) })

/-- PORT_LINK_UP (R405): a port whose PORTEN bit is 1 and that trained to four lanes enters service, and held requests are sent; one
that trains to fewer is held down and reported (Table 23.1). -/
def State.portLinkUp (s : State) (p lanes : Nat) : State :=
  if !s.locked.portEn.getLsbD p then s
  else if lanes < 4 then
    ((s.changePorts fun f => { f with ports := tput f.ports p { s.port p with up := false, down := true } }).logError logPort p).event evError p
  else
    let (s1, x) := s.firstKeys (s.port p)
    s1.changePorts fun f => { f with ports := tput f.ports p { x with up := true, down := false, discards := 0 } }

/-- PORT_LEAVE_SERVICE (R409): requests that are not acknowledged are sent again, by the ports that R406 gives now; what was stored for the link is of no
use any more (log 13). -/
def State.portLeave (s : State) (p : Nat) : State :=
  match tget s.fabric.ports p with
  | none => s
  | some x => if x.up then s.changePorts fun f => { f with ports := tput f.ports p { x with up := false, stored := [] } } else s

/-- REACHABILITY_TABLE_CHANGE (R405): which destinations lie behind a port. -/
def State.reachChange (s : State) (p : Nat) (dsts : List Nat) : State := s.changePorts fun f => { f with reach := tput f.reach p dsts }

/-- O_REMAP_RELEASE (R408): every class-O request already sent to the destination has completed. -/
def State.remapRelease (s : State) (dst : Nat) : State :=
  if s.fabric.remap.contains dst && !s.sentO dst then
    let s1 : State := { s with fabric := { s.fabric with remap := s.fabric.remap.filter fun d => d != dst } }
    s1.sendHeld
  else s

/-! ## Link keys (23 R411, R412) -/

/-- Write a slot. -/
def Port.setTx (x : Port) (g : Bool) (k : Option (BitVec 256)) : Port := if g then { x with tx1 := k } else { x with tx0 := k }
def Port.setRx (x : Port) (g : Bool) (k : Option (BitVec 256)) : Port := if g then { x with rx1 := k } else { x with rx0 := k }

/-- KEY_DELIVER (R412): the receiver puts the new key into the slot that the generation in force does not name, which is empty. -/
def State.keyDeliver (s : State) (p : Nat) (key : BitVec 256) : State :=
  let x := s.port p
  if x.rx0.isNone then s.setPort p (x.setRx false (some key))
  else if x.rx1.isNone then s.setPort p (x.setRx true (some key))
  else s

/-- KEY_INSTALL_ACK (R412): on the receiver's acknowledgement the sender switches generation. -/
def State.keyInstallAck (s : State) (p : Nat) : State :=
  let x := s.port p
  match x.rot with
  | .delivered => s.setPort p { (x.setTx (!x.txGen) x.txNew) with txGen := !x.txGen, txNew := none, rot := .switched }
  | .switched => s
  | .idle => s

/-- OLD_GENERATION_ACKED (R412): every flit sent under the old generation is acknowledged; the sender erases the old slot and sends a retire marker, and the
rotation is complete. -/
def State.oldGenAcked (s : State) (p : Nat) : State :=
  let x := s.port p
  match x.rot with
  | .switched =>
    (s.setPort p { (x.setTx (!x.txGen) none) with rot := .idle, stored := x.stored.filter fun f => f.flit.gen == x.txGen }).event evRotation p
  | .delivered => s
  | .idle => s

/-- RETIRE_MARKER (R412): the receiver erases the slot of the retired generation. -/
def State.retireMarker (s : State) (p : Nat) (g : Bool) : State := s.setPort p ((s.port p).setRx g none)

/-- What an accepted flit says to the data link layer (R404, R411): flits that the other end has are stored no longer; those that it asks for again go out as they
are stored, ciphertext and G of their first sending. -/
def Port.linkTold (x : Port) : Option LinkCmd → Port
  | some (.ack n) => { x with stored := x.stored.drop n }
  | some .replay => { x with link := x.link ++ x.stored.map SentFlit.flit }
  | none => x

/-- FLIT_RECEIVE (R411, R412): accepted under the slot that its G names, or discarded; after 16 consecutive discards the port leaves
service. -/
def State.flitReceive (s : State) (p : Nat) (f : Flit) : State :=
  let x := s.port p
  if !x.up then s
  else match (x.rx f.gen).bind fun k => Config.openFlit k f.body with
    | some m => s.setPort p ({ x with discards := 0, accepted := x.accepted + 1 }.linkTold (Config.linkCmd m))
    | none =>
      let s1 := s.setPort p { x with discards := x.discards + 1 }
      if x.discards + 1 < 16 then s1 else ((s1.portLeave p).logError logPort p).event evError p

/-! ## Unreachable destinations (23 R410, R415) -/

/-- A request goes to a device: on its way there, or a view access at a gleaner here that has base bytes there. -/
def State.goesTo (s : State) (q : Req) (dst : Nat) : Bool :=
  q.dst? == some dst || (q.stage == .gleaner && q.view.any fun (a, e) => s.away e (e.pa a) && devOf (e.pa a) == dst)

/-- End the outstanding requests to a destination, the oldest last, so that a thread stands at its oldest. -/
def State.cutReqs (s : State) (dst : Nat) : State :=
  (s.reqs.filter fun (_, q) => s.goesTo q dst).foldr (fun (id, q) s => s.cutReq id q fcFarContext) s

/-- E of a destination has been empty for 100 ms (R410). -/
def State.emptyLong (s : State) (dst : Nat) : Bool :=
  dst != s.device && dst != s.locked.hostDev && (s.eligiblePorts dst).isEmpty && !s.cut dst &&
    decide ((tget s.fabric.emptySince dst).getD 0 + 100000 * usec ≤ s.time)

/-- A holder is dropped from the line directories (R415). -/
def dropHolder (t : Tab DirEntry) (dst : Nat) : Tab DirEntry :=
  t.map fun (k, e) => (k, { e with remotes := e.remotes.filter fun d => d != dst, dirty := if e.dirty = some dst then none else e.dirty })

/-- A line is poisoned, which is logged with its physical address (R436). -/
def State.poisonLine (s : State) (y : Nat) : State :=
  (({ s with poison := insertNat s.poison y } : State).logError logPoison (y * 128)).event evError (y * 128)

/-- Lines of which a holder has the only dirty copy (R415). -/
def State.dirtyAt (s : State) (dst : Nat) : List Nat := (s.lineDir.filter fun (_, e) => e.dirty == some dst).map Prod.fst

/-- A holder is lost: it is dropped from the directories, and every line of which it had the only dirty copy is poisoned (R415). -/
def State.loseHolder (s : State) (dst : Nat) : State := (s.dirtyAt dst).foldl State.poisonLine { s with lineDir := dropHolder s.lineDir dst }

/-! ## Violations (23 R432, 21 R394) -/

/-- A fabric peer is frozen: its requests are held at the port. -/
def State.freezePeer (s : State) (src pa : Nat) : State :=
  ({ s with fabric := { s.fabric with frozen := insertNat s.fabric.frozen src } } : State).logError fcFreeze pa |>.event evFreeze src

/-- The host queue is frozen. -/
def State.freezeHost (s : State) (pa : Nat) : State := (({ s with hostFrozen := true } : State).logError fcFreeze pa).event evFreeze 0x10000

/-- A plot with an error in its state is frozen (23 R437): every thread of its tract is stopped as in still mode. -/
def State.freezeState (s : State) (tag : Nat) : State :=
  match tget s.plots tag with
  | none => s
  | some p =>
    let s1 := ((s.stillTract p.tract).modTract p.tract fun x => { x with frozen := true }).modPlot tag fun q => { q with frozen := true }
    ((s1.logError fcFreeze tag).event evFreeze tag).report p.ctx { s1.recOf ⟨tag, 0⟩ 6 accNone fcFreeze 0 0 0 with ref := none }

/-! ## Requests of other devices (23 R409, R413, R414) -/

/-- The context with a CTXID, its registration on this device. -/
def State.ctxOfId (s : State) (ctxid : Nat) : Option Ctx := tget s.ctxs ctxid

/-- Bytes lie inside one peer window of a context (R414). -/
def Ctx.inPeerWin (c : Ctx) (pa n : Nat) : Bool := c.peerWin.any fun (_, w) => decide (w.base ≤ pa) && decide (pa + n ≤ w.base + w.len)

/-- A remote holder of a line: four at most, a fifth makes a broadcast entry (09 R197). -/
def State.addHolder (s : State) (src y : Nat) : State :=
  let e := (tget s.lineDir y).getD { dies := 0, remotes := [], broadcast := false, dirty := none }
  let e' := if e.broadcast || e.remotes.contains src then e
    else if e.remotes.length < 4 then { e with remotes := e.remotes ++ [src] } else { e with broadcast := true }
  { s with lineDir := tput s.lineDir y e' }

/-- The agent that another device or the host is here (11 R220, R221). -/
def foreignAgent (dev : Nat) : Agent := { dev := dev, tract := none, plot := none }

/-- The synchronisation source of a peer's write (11 R222, R231, R232): a release has one. -/
def peerSrc (r : FabReq) : Option SyncSrc := if r.rel then some { agent := foreignAgent r.src, scope := r.scope } else none

/-- The reservation table of a local address (09 R198). -/
def State.peerTable (s : State) (pa : Nat) : Nat := s.reservationTable s.physAt (s.physAt.pa pa)

/-- The reservation of a peer's thread. -/
def State.peerReservation (s : State) (src : Nat) (th : Ref) : Option Reservation := s.reservations.find? fun v => v.peer == some src && v.ref == th

/-- A synchronisation source as an answer reports it. -/
def SyncSrc.wire (x : SyncSrc) : WireSrc := { dev := x.agent.dev, tract := x.agent.tract, plot := x.agent.plot, scope := x.scope }

/-- Answer a peer with a value and the sources of the writes that it returns (11 R232). -/
def State.answerValue (s : State) (r : FabReq) (l : List Byte) (tags : List SyncSrc) : State :=
  s.answerPeer r.src r.tag (.value l (tags.map SyncSrc.wire))

/-- The sources of bytes at a local address. -/
def State.physTags (s : State) (pa n : Nat) : List SyncSrc := s.placeTags s.physAt (s.physAt.pa pa) n

/-- The bytes of a masked write that it writes, each with its address. -/
def maskedBytes (pa : Nat) (l : List (Option Byte)) : List (Nat × Byte) := l.zipIdx.filterMap fun (x, i) => x.map fun b => (pa + i, b)

/-- A masked write at a local address: bytes without a value are left (log 62). -/
def State.physMasked (s : State) (src : Option SyncSrc) (pa : Nat) (l : List (Option Byte)) : State :=
  if l.all Option.isSome then s.physWrite src (lineFuel l.length) pa (l.filterMap id)
  else (maskedBytes pa l).foldl (fun s x => s.physWrite src (lineFuel 1) x.1 [x.2]) s

/-- A peer that writes a line may keep it in its LLC, the only dirty copy, under the home's directory (09 R197); whether it does is free (log 42). -/
def State.keepsDirty (s : State) (src y : Nat) : State :=
  let (k, s1) := s.draw
  if Config.freeNat k % 2 = 0 then s1
  else { s1 with lineDir := tput s1.lineDir y { dies := 0, remotes := [src], broadcast := false, dirty := some src } }

/-- LR and SC of a peer's thread (09 R198): an SC answers 0 when it has stored, 1 when not. Every SC to a sector takes the reservations of other agents on it. -/
def State.peerLr (s : State) (r : FabReq) (pa n : Nat) (th : Ref) : State :=
  let (s1, l) := s.physRead (lineFuel n) pa n
  (s1.reserve (some r.src) th (s1.peerTable pa) pa n).answerValue r l (s.physTags pa n)
def State.peerSc (s : State) (r : FabReq) (pa : Nat) (l : List Byte) (th : Ref) : State :=
  let ok := holds (s.peerReservation r.src th) pa l.length s.cycle
  let s1 := (s.losePeer (some r.src) th).dropReservations none (placeKey (s.placeOf s.physAt (s.physAt.pa pa))) l.length
  if ok then (s1.physWrite (peerSrc r) (lineFuel l.length) pa l).answerValue r (natLe 4 0) []
  else s1.answerValue r (natLe 4 1) []

/-- A poisoned line stands in the way of a peer's access, but not of a write of the whole line, which clears it (R436). -/
def State.peerBarred (s : State) (r : FabReq) (pa n : Nat) : Bool :=
  s.poisoned pa n && !(match r.kind with | .write pa l => wholeLine pa l.length && l.all Option.isSome | _ => false)

/-- An access of a peer to memory, inside its windows: read, write, atomic, LR, SC (R404, R413). An atomic that stores nothing takes the reservations on its
sector all the same (09 R198). -/
def State.peerAccess (s : State) (r : FabReq) (pa n : Nat) : State :=
  if !physOk pa n ∨ s.peerBarred r pa n then s.answerPeer r.src r.tag .badFrame
  else match r.kind with
    | .read pa n =>
      let (s1, l) := s.physRead (lineFuel n) pa n
      (s1.addHolder r.src (lineOf pa)).answerValue r l (s.physTags pa n)
    | .write pa l => ((s.physMasked (peerSrc r) pa l).keepsDirty r.src (lineOf pa)).answerPeer r.src r.tag .done
    | .lr pa n tag tid => s.peerLr r pa n ⟨tag, tid⟩
    | .sc pa l tag tid => s.peerSc r pa l ⟨tag, tid⟩
    | .atomic pa n aop v rmode =>
      let (s1, l) := s.physRead (lineFuel n) pa n
      let s2 := match (atomNew aop n (leNat l) v rmode.toNat).1 with
        | some x => s1.physWrite (peerSrc r) (lineFuel n) pa (natLe n x)
        | none => s1.dropReservations none (placeKey (s1.placeOf s1.physAt (s1.physAt.pa pa))) n
      s2.answerValue r l (s.physTags pa n)
    | _ => s

/-- A violation of a peer: it is frozen, and its request is held (R414, R432). -/
def State.peerViolates (s : State) (r : FabReq) (pa : Nat) : State :=
  let s1 := s.freezePeer r.src pa
  { s1 with fabric := { s1.fabric with held := s1.fabric.held ++ [r] } }

/-- A peer's access is checked against the windows; outside them it is a violation (R414, R432). -/
def State.peerMemory (s : State) (r : FabReq) (c : Ctx) (pa n : Nat) : State :=
  if c.inPeerWin pa n then s.peerAccess r pa n else s.peerViolates r pa

/-! ### View accesses of peers (09 R212, R216) -/

/-- Length, kind of access, and whether it writes. -/
def viewActBytes : ViewAct → Nat
  | .load n => n
  | .store l => l.length
  | .atomic _ _ _ => 4
def viewActAcc : ViewAct → Nat
  | .load _ => accLoad
  | .store _ => accStore
  | .atomic _ _ _ => accAtomic
def viewActWrites (a : ViewAct) : Bool := viewActAcc a != accLoad

/-- An atomic of a peer is legal through the view (09 R216). -/
def viewActOk (ve : ViewEnts) : ViewAct → Bool
  | .atomic aop _ _ => aopThroughView aop && granule (entFmt ve.b) == 4
  | _ => true

/-- A base byte of a view access that lies on this device, outside every window of the context (R414). -/
def State.outsideWin (s : State) (c : Ctx) (x : Nat × TbEntry) : Bool :=
  let pa := x.2.pa x.1
  devOf pa == s.device && !c.inPeerWin (localOf pa) 1

/-- The sources of the base bytes of a view access. -/
def State.viewTags (s : State) (l : List (Nat × TbEntry)) : List SyncSrc := (l.flatMap fun (a, e) => s.placeTags e (e.pa a) 1).eraseDups

/-- An atomic takes the reservations of other agents on the base sectors it reaches (09 R198). -/
def State.takeView (s : State) (l : List (Nat × TbEntry)) : State :=
  l.foldl (fun s (a, e) => if s.away e (e.pa a) then s else s.dropReservations none (placeKey (s.placeOf e (e.pa a))) 1) s

/-- The gleaner of this device performs a peer's view access. -/
def State.peerGlean (s : State) (r : FabReq) (l : List (Nat × TbEntry)) : ViewAct → State
  | .load _ => let (s1, b) := s.viewRead l; s1.answerValue r b (s.viewTags l)
  | .store d => (s.viewWrite none (peerSrc r) l d).answerPeer r.src r.tag .done
  | .atomic aop v rmode =>
    let (s1, b) := s.viewRead l
    let s2 := match (atomNew aop 4 (leNat b) v rmode.toNat).1 with
      | some x => s1.viewWrite none (peerSrc r) l (natLe 4 x)
      | none => s1.takeView l
    s2.answerValue r b (s.viewTags l)

/-- A peer's view access waits for a port to a third device, which the gleaner's sub-requests need (09 R215, 23 R410). -/
def State.peerWaits (s : State) (r : FabReq) : State := { s with fabric := { s.fabric with waiting := s.fabric.waiting ++ [r] } }

/-- A peer's view access meets a fault, which is its answer, or finds no port on its way (09 R212, 23 R410). -/
def State.peerFault (s : State) (r : FabReq) (code : Nat) : State :=
  if code = fcNoPort then s.peerWaits r else s.answerPeer r.src r.tag (.fault code)

/-- A peer's view access: by the context of the request on this device (09 R212), with the fault it meets as the answer. -/
def State.peerView (s : State) (r : FabReq) (c : Ctx) (id off : Nat) (act : ViewAct) : State :=
  match s.viewEnts 128 c.ctxid id with
  | (s, .error code) => s.peerFault r code
  | (s, .ok ve) =>
    let (s, bytes) := s.viewBytes 128 c.ctxid ve (viewActAcc act) off (viewActBytes act)
    match firstFault (fun _ l => l) (viewBars ve (viewActWrites act) (viewActOk ve act)) bytes with
    | .error code => s.peerFault r code
    | .ok l => match l.find? (s.outsideWin c) with
      | some (a, e) => s.peerViolates r (localOf (e.pa a))
      | none =>
        if l.any fun (a, e) => s.noPort e (e.pa a) then s.peerWaits r
        else match s.viewAnswer l with
          | (s, some code) => s.peerFault r code
          | (s, none) => s.peerGlean r l act

/-- Perform a request whose context is registered here (R413). -/
def State.peerPerform (s : State) (r : FabReq) (c : Ctx) : State :=
  match r.kind with
  | .read pa n => s.peerMemory r c pa n
  | .write pa l => s.peerMemory r c pa l.length
  | .atomic pa n _ _ _ => s.peerMemory r c pa n
  | .lr pa n _ _ => s.peerMemory r c pa n
  | .sc pa l _ _ => s.peerMemory r c pa l.length
  | .view id off act => s.peerView r c id off act
  | .land name value wide sc =>
    let (id, s1) := s.fresh
    let l : Land :=
      { ref := none, dev := s.device, rc := .o, cls := { o := false, a := false, s := false }, stream := none, via := .held, name := name,
        value := value, wide := wide, pc := 0, src := some { agent := foreignAgent r.src, scope := sc }, answered := none, peer := some (r.src, r.tag) }
    { s1 with lands := tput s1.lands id l }
  | .arrive h n =>
    let (id, s1) := s.fresh
    let a : Arrival :=
      { handle := h, n := n, cmd := none, src := some { agent := foreignAgent r.src, scope := .sys }, held := false,
        peer := some (r.src, r.tag) }
    { s1 with arrivals := tput s1.arrivals id a }

/-- A request to this device: its context first; "no context" is no violation (R413). -/
def State.peerRequest (s : State) (r : FabReq) : State :=
  match s.ctxOfId r.ctxid with
  | none => s.answerPeer r.src r.tag .noContext
  | some c => s.peerPerform r c

/-- View accesses of peers that waited for a port are tried again, in the order in which they came. -/
def State.retryPeers (s : State) : State :=
  s.fabric.waiting.foldl State.peerRequest { s with fabric := { s.fabric with waiting := [] } }

/-- DEST_UNREACHABLE (R410, R415): requests to it end; engine work held for want of a port tries again, and pauses. -/
def State.destUnreachable (s : State) (dst : Nat) : State :=
  if !s.emptyLong dst then s
  else
    let s1 : State := { s.loseHolder dst with fabric := { (s.loseHolder dst).fabric with unreachable := insertNat (s.loseHolder dst).fabric.unreachable dst } }
    (s1.cutReqs dst).retryHeld.retryPeers

/-- A request to relay (R407, R428): refused where RELAY is 0; the engine of a base die holds 256. -/
def State.relayTake (s : State) (r : FabReq) : State :=
  if !s.locked.relay then s.answerPeer r.src r.tag .relayRefused
  else
    let (id, s1) := s.fresh
    { s1 with fabric := { s1.fabric with relays := tput s1.fabric.relays id r } }

/-- A tag of one source device that came within 1 ms before (R409). -/
def State.seenBefore (s : State) (r : FabReq) : Bool :=
  s.fabric.seenTags.any fun x => x.src == r.src && x.tag == r.tag && decide (s.time < x.at' + 1000 * usec)

/-- Note a tag; those older than 1 ms are forgotten. -/
def State.noteTag (s : State) (r : FabReq) : State :=
  { s with fabric := { s.fabric with
      seenTags := (s.fabric.seenTags.filter fun x => decide (s.time < x.at' + 1000 * usec)) ++ [{ src := r.src, tag := r.tag, at' := s.time }] } }

/-- The relay engine of the base die of a port holds its 256 requests (R404, R407). -/
def State.relayFull (s : State) (port : Nat) : Bool := decide (256 ≤ (s.fabric.relays.filter fun (_, x) => x.port / 6 == port / 6).length)

/-- FABRIC_REQUEST_RECEIVE (R407, R409, R413, R414): a port gives no request to a full relay engine. -/
def State.fabricReceive (s : State) (r : FabReq) : State :=
  if s.fabric.frozen.contains r.src then { s with fabric := { s.fabric with held := s.fabric.held ++ [r] } }
  else if s.seenBefore r then s
  else if r.dst ≠ s.device then
    (if s.relayFull r.port then s else (s.noteTag r).relayTake r)
  else (s.noteTag r).peerRequest r

/-- The bytes that a relayed request puts on a port. -/
def fabWire : FabKind → Nat
  | .read _ n => n
  | .write _ l => l.length
  | .atomic _ n _ _ _ => n
  | .lr _ n _ _ => n
  | .sc _ l _ _ => l.length
  | .view _ _ (.load n) => n
  | .view _ _ (.store l) => l.length
  | .view _ _ (.atomic _ _ _) => 4
  | .land _ _ _ _ => landWire
  | .arrive _ _ => landWire

/-- RELAY_FORWARD (R407): the request goes unchanged to its destination as class A, by the port that R406 gives, once one leads there. -/
def State.relayForward (s : State) (id : Nat) : State :=
  match tget s.fabric.relays id with
  | none => s
  | some r => match s.aPort r.dst with
    | none => s
    | some p =>
      let s1 : State := { s with fabric := { s.fabric with relays := tdel s.fabric.relays id, forwarded := s.fabric.forwarded ++ [(p, r)] } }
      s1.sendFlit p (fabWire r.kind)

/-! ## The host (23 R416 to R418, R429) -/

/-- Bytes lie inside one aperture window (R418). -/
def State.inAperture (s : State) (pa n : Nat) : Bool := s.apertures.any fun (_, w) => decide (w.base ≤ pa) && decide (pa + n ≤ w.base + w.len)

/-- What a host read of bytes inside a window returns; where no memory or a poisoned line lies there, free bytes (log 18). -/
def State.hostRead (s : State) (pa n : Nat) : State :=
  let (s1, l) := if physOk pa n && !s.poisoned pa n then s.physRead (lineFuel n) pa n else s.freeBytes n
  { s1 with hostReads := s1.hostReads ++ [l] }

/-- The source of a release of the host (11 R220, R231). -/
def State.hostSrc (s : State) (rel : Bool) : Option SyncSrc := if rel then some { agent := foreignAgent s.locked.hostDev, scope := .sys } else none

/-- HOST_ACCESS (R418, R429): in the fallow state reads return all ones and writes are discarded. -/
def State.hostAccess (s : State) (a : HostAcc) : State :=
  match a with
  | .read pa n =>
    if s.mbox.state = 2 then { s with hostReads := s.hostReads ++ [List.replicate n 0xFF] }
    else if s.inAperture pa n then s.hostRead pa n
    else s.freezeHost pa
  | .write pa l rel =>
    if s.mbox.state = 2 then s
    else if !s.inAperture pa l.length then s.freezeHost pa
    else if physOk pa l.length then s.physWrite (s.hostSrc rel) (lineFuel l.length) pa l
    else s

/-! ## The steps -/

/-- KEY_DELIVER (23 R412). -/
def execKeyDeliver (port : Nat) (key : BitVec 256) (s : State) : Result := .next (s.keyDeliver port key)

/-- KEY_INSTALL_ACK (23 R412). -/
def execKeyInstallAck (port : Nat) (s : State) : Result := .next (s.keyInstallAck port)

/-- OLD_GENERATION_ACKED (23 R412). -/
def execOldGenerationAcked (port : Nat) (s : State) : Result := .next (s.oldGenAcked port)

/-- RETIRE_MARKER (23 R412). -/
def execRetireMarker (port : Nat) (gen : Bool) (s : State) : Result := .next (s.retireMarker port gen)

/-- FLIT_RECEIVE (23 R411). -/
def execFlitReceive (port : Nat) (flit : Flit) (s : State) : Result := .next (s.flitReceive port flit)

/-- PORT_LINK_UP (23 R405). -/
def execPortLinkUp (port : Nat) (lanes : Nat) (s : State) : Result := .next (s.portLinkUp port lanes).retryPeers

/-- PORT_LEAVE_SERVICE (23 R409). -/
def execPortLeaveService (port : Nat) (s : State) : Result := .next (s.portLeave port)

/-- O_REMAP_RELEASE (23 R408). -/
def execORemapRelease (dst : Nat) (s : State) : Result := .next (s.remapRelease dst)

/-- DEST_UNREACHABLE (23 R410). -/
def execDestUnreachable (dst : Nat) (s : State) : Result := .next (s.destUnreachable dst)

/-- FABRIC_REQUEST_RECEIVE (23 R413). -/
def execFabricRequestReceive (req : FabReq) (s : State) : Result := .next (s.fabricReceive req)

/-- RELAY_FORWARD (23 R407). -/
def execRelayForward (id : Nat) (s : State) : Result := .next (s.relayForward id)

/-- HOST_ACCESS (23 R418). -/
def execHostAccess (acc : HostAcc) (s : State) : Result := .next (s.hostAccess acc)

/-- REACHABILITY_TABLE_CHANGE (23 R405). -/
def execReachabilityTableChange (port : Nat) (dsts : List Nat) (s : State) : Result := .next (s.reachChange port dsts).retryPeers

end Sys2Proof.Machine
end

