-- ==== Sys2Proof/Machine/Mailbox.lean ====
section
/-! DEFINITION. The mailbox and the operations of the steward (23 R420 to R424, R430, R431; 24 R439): context registration (21 R371),
queue registration (15 R299), pin changes (09 R183), lazy pages (22 R400), DISCARD (09 R202), unfreezing (21 R394), windows
(23 R414, R418), keys (R412, R435). -/

namespace Sys2Proof.Machine

/-! ## Messages (23 Tables 23.3 to 23.5) -/

def msgSeq (m : Msg) : Word := m.setWidth 32
def msgOp (m : Msg) : Nat := bits m.toNat 47 32

/-- Argument j of a payload: 64-bit words from message bit 64 up (log 12). -/
def msgArg (m : Msg) (j : Nat) : Nat := bits m.toNat (64 * j + 127) (64 * j + 64)

/-- STATUS of a reply (Table 23.4). -/
def stDone : Nat := 0
def stRefused : Nat := 1
def stUnknown : Nat := 2
def stBusy : Nat := 3
def stFallow : Nat := 4

/-- A reply: OP or 0x8000, STATUS, the request's SEQ in bits [95:64], and what stands above it. -/
def replyTo (m : Msg) (status rest : Nat) : Msg := mkMsg (msgOp m ||| 0x8000) status ((msgSeq m).toNat + rest * 2 ^ 32)

/-- The message with a SEQ. -/
def withSeq (m : Msg) (q : Word) : Msg := (m >>> 32 <<< 32) ||| q.setWidth 512

/-- End the message in execution with a reply, which the steward hands in for the D2H ring. -/
def State.reply (s : State) (m : Msg) (status rest : Nat) : State :=
  { s with steward := { s.steward with current := none, posts := s.steward.posts ++ [(some (msgSeq m), replyTo m status rest)] } }

/-- What an operation answers: the state, STATUS, and the reply's bits from 96 up. -/
abbrev Answer := State × Nat × Nat

/-- Execute an operation on the message in execution, if that is of its OP, unless an access of it to another device is held (23 R410). -/
def State.mailOpOr (s : State) (op : Nat) (f : State → Msg → Option Answer) : State :=
  match s.steward.current with
  | none => s
  | some m => if msgOp m = op then (match f s m with | some (s1, st, rest) => s1.reply m st rest | none => s) else s

/-- An operation that no access holds. -/
def State.mailOp (s : State) (op : Nat) (f : State → Msg → Answer) : State := s.mailOpOr op fun s m => some (f s m)

/-- Operations of Table 23.5. -/
def knownOps : List Nat :=
  [0x01, 0x02, 0x03, 0x10, 0x11, 0x12, 0x13, 0x14, 0x15, 0x16, 0x17, 0x18, 0x19, 0x20, 0x21, 0x22, 0x30]

/-! ## The block (23 R420 to R422, 24 R439) -/

/-- H2D_DOORBELL (R421, R439): H2DDB takes effect as written. -/
def State.doorbell (s : State) (v : Word) : State := { s with mbox := { s.mbox with h2ddb := v } }

/-- Replace 32 bits of a message. -/
def putWord (m : Msg) (j : Nat) (v : Word) : Msg :=
  BitVec.ofNat 512 (m.toNat % 2 ^ (32 * j) + v.toNat * 2 ^ (32 * j) + m.toNat / 2 ^ (32 * j + 32) * 2 ^ (32 * j + 32))

/-- MAILBOX_WRITE (R420, Table 23.3): a 32-bit write at a byte offset; read-only and reserved bits are not changed. -/
def State.mailboxWrite (s : State) (off : Nat) (v : Word) : State :=
  if off % 4 ≠ 0 then s
  else if off = 8 then s.doorbell v
  else if off = 24 then { s with mbox := { s.mbox with d2hacc := v } }
  else if off = 28 then { s with mbox := { s.mbox with d2hcmp := v } }
  else if 256 ≤ off ∧ off < 1280 then
    let n := (off - 256) / 64
    { s with mbox := { s.mbox with h2d := s.mbox.h2d.set n (putWord (s.mbox.h2d.getD n 0) ((off - 256) % 64 / 4) v) } }
  else s

/-- a − b ≤ n modulo 2^32 (R420): the difference read as a two's complement number. -/
def seqLe (a b : Word) (n : Int) : Bool := decide ((a - b).toInt ≤ n)

/-- The slot of a sequence number. -/
def slotOf (q : Word) : Nat := q.toNat % 16

/-- The steward can accept the next message (R421): it has executed the last one. -/
def State.acceptReady (s : State) : Bool :=
  let b := s.mbox
  let q := b.h2dacc + 1
  (b.state == 1 || b.state == 2) && b.h2dcmp == b.h2dacc && seqLe q b.h2ddb 0 && msgSeq (b.h2d.getD (slotOf q) 0) == q

/-- MAILBOX_ACCEPT (R421, R424, R429, R439): the message is read; an OP that is none, and in the fallow state every OP but the
self-test record, is answered at once. -/
def State.accept (s : State) : State :=
  if !s.acceptReady then s
  else
    let q := s.mbox.h2dacc + 1
    let m := s.mbox.h2d.getD (slotOf q) 0
    let s1 : State := { s with mbox := { s.mbox with h2dacc := q }, steward := { s.steward with current := some m } }
    if !knownOps.contains (msgOp m) then s1.reply m stUnknown 0
    else if s.mbox.state = 2 ∧ msgOp m ≠ 1 then s1.reply m stFallow 0
    else s1

/-- There is room for a D2H message (R422). -/
def State.postRoom (s : State) : Bool := seqLe (s.mbox.d2hseq + 1) s.mbox.d2hcmp 16

/-- D2H_POST (R421, R422, R416): the next message is posted, and the host gets an interrupt message; a reply completes its request. -/
def State.d2hPost (s : State) : State :=
  match s.steward.posts with
  | [] => s
  | (answers, m) :: t =>
    if !s.postRoom then s
    else
      let q := s.mbox.d2hseq + 1
      let b := { s.mbox with d2h := s.mbox.d2h.set (slotOf q) (withSeq m q), d2hseq := q }
      let b' := match answers with | some x => { b with h2dcmp := x } | none => b
      { s with mbox := b', steward := { s.steward with posts := t }, hostIrqs := s.hostIrqs + 1 }

/-! ## Self test, attestation, certificates (23 R430, R431) -/

/-- The record of Table 23.8 from message bit 96 up. -/
def selfTestBits (w : Steward) : Nat :=
  w.stage.toNat + w.result.toNat * 2 ^ 8 + w.unitk.toNat * 2 ^ 16 + w.unit.toNat * 2 ^ 24 + w.detail.toNat * 2 ^ 64 +
    w.romver.toNat * 2 ^ 128 + w.fwsvn.toNat * 2 ^ 160

/-- SELF_TEST_RECORD. -/
def State.selfTestOp (s : State) (_m : Msg) : Answer := (s, stDone, selfTestBits s.steward)

/-- Write bytes to a buffer that a request names: refused where HBM4 does not hold it (log 17). -/
def State.toBuffer (s : State) (pa : Nat) (l : List Byte) : Answer :=
  if physOk pa l.length then (s.physWrite (some { agent := s.deviceAgent, scope := .sys }) (lineFuel l.length) pa l, stDone, 0) else (s, stRefused, 0)

/-- Bits [1919:0] of an attestation report (Table 23.9). -/
def State.reportBody (s : State) (nonce : Nat) : Nat :=
  1 + s.device % 1024 * 2 ^ 16 + s.mbox.epoch.toNat * 2 ^ 32 + nonce % 2 ^ 256 * 2 ^ 64 + (Config.sha512 Config.bootRom).toNat * 2 ^ 320 +
    (Config.sha512 s.flash.image).toNat * 2 ^ 832 + (Config.sha512 (natLe 416 s.flash.record)).toNat * 2 ^ 1344 + s.steward.fwsvn.toNat * 2 ^ 1856

/-- The 3,613 bytes of a report. -/
def State.reportBytes (s : State) (nonce : Nat) : List Byte :=
  let b := s.reportBody nonce
  natLe 240 b ++ natLe 64 (Config.signEd b).toNat ++ (Config.signMl b).take 3309 ++ List.replicate (3309 - (Config.signMl b).length) 0

/-- ATTESTATION: nonce, buffer. -/
def State.attestOp (s : State) (m : Msg) : Answer :=
  s.toBuffer (msgArg m 4) (s.reportBytes (bits m.toNat 319 64))

/-- CERTIFICATES: buffer and length. -/
def State.certOp (s : State) (m : Msg) : Answer := s.toBuffer (msgArg m 0) (Config.certChain.take (msgArg m 1))

/-- The error log as bytes: 16 for each entry, its code and its detail (log 17). -/
def logBytes (l : List (Nat × Nat)) : List Byte := l.flatMap fun x => natLe 8 x.1 ++ natLe 8 x.2

/-- ERROR_LOG_READ: buffer and length. -/
def State.errorLogOp (s : State) (m : Msg) : Answer := s.toBuffer (msgArg m 0) ((logBytes s.steward.log).take (msgArg m 1))

/-! ## Contexts (21 R371, 23 R424) -/

/-- A context from the bits of its descriptor (21 Table 21.1). -/
def ctxOf (v : Nat) : Ctx :=
  { ctxid := bits v 159 144, root := bits v 63 0, ttbase := BitVec.ofNat 64 (bits v 127 64), ttlen := bits v 140 128,
    pbud := if bits v 191 160 = 0 then 50 else bits v 191 160, shbase := BitVec.ofNat 64 (bits v 255 192), shgib := bits v 287 256,
    tvec := BitVec.ofNat 64 (bits v 383 320), frqh := BitVec.ofNat 64 (bits v 447 384), swpb := BitVec.ofNat 64 (bits v 511 448),
    swplen := bits v 575 512, bks := bit v 576, haz := bit v 577, still := bit v 578, lpwb := List.replicate 16 0, lpwc := List.replicate 16 0,
    lpwHit := List.replicate 16 false, lpwTick := List.replicate 16 0, cmps := [], peerWin := [], lazy := [], svcHeld := false, heldRecs := [],
    recs := [] }

/-- A registration of a context that is registered keeps what the device holds beside the descriptor (log 17). -/
def Ctx.renew (c new : Ctx) : Ctx :=
  { new with lpwb := c.lpwb, lpwc := c.lpwc, lpwHit := c.lpwHit, lpwTick := c.lpwTick, cmps := c.cmps, peerWin := c.peerWin, lazy := c.lazy,
             svcHeld := c.svcHeld, heldRecs := c.heldRecs, recs := c.recs }

/-- Two areas overlap; one of length 0 overlaps nothing. -/
def areasMeet (a b : Nat × Nat) : Bool := a.2 != 0 && b.2 != 0 && decide (a.1 < b.1 + b.2) && decide (b.1 < a.1 + a.2)

/-- Some two areas of a list overlap. -/
def anyMeet : List (Nat × Nat) → Bool
  | [] => false
  | a :: t => t.any (areasMeet a) || anyMeet t

/-- What refuses a descriptor before its fault-record queue header is read (R371). -/
def badDescriptor (v : Nat) : Bool :=
  bits v 1023 579 != 0 || bits v 319 288 != 0 || bits v 143 141 != 0 || bits v 15 0 != 0 || decide (4096 < bits v 140 128)

/-- The areas of a context, the ring by its header. -/
def Ctx.areas (c : Ctx) (h : Nat) : List (Nat × Nat) :=
  [(c.shbase.toNat, c.shgib * 2 ^ 30), (c.ttbase.toNat, 64 * c.ttlen), (c.swpb.toNat, c.swplen), (c.frqh.toNat, 64),
   (bits h 191 128, 32 * 2 ^ bits h 195 192)]

/-- A fault-record queue header that can be used, with no area over another. -/
def Ctx.headerOk (c : Ctx) (h : Nat) : Bool :=
  decide (4 ≤ bits h 195 192) && bits h 191 128 % 32 == 0 && !anyMeet (c.areas h)

/-- Put a context under its CTXID; its translations and those of an earlier registration leave the buffers. -/
def State.putCtx (s : State) (c : Ctx) : State := ({ s with ctxs := tput s.ctxs c.ctxid c } : State).invTranslations c.ctxid 0 true

/-- CONTEXT_REGISTER: the address of the descriptor. -/
def State.ctxRegister (s : State) (m : Msg) : Option Answer :=
  let pa := msgArg m 0
  if !physOk pa 128 then some (s, stRefused, 0)
  else
    let (s1, l) := s.physRead 3 pa 128
    let v := leNat l
    let new := ctxOf v
    if badDescriptor v then some (s1, stRefused, 0)
    else
      let c := match tget s1.ctxs new.ctxid with | some old => old.renew new | none => new
      let s2 := s1.putCtx c
      match s2.pread 128 c.ctxid c.frqh.toNat 64 accEngRead with
      | (_, .error e) => if e = fcNoPort then none else some (s1, stRefused, 0)
      | (s3, .ok h) => some (if c.headerOk (leNat h) then (s3, stDone, 0) else (s1, stRefused, 0))

/-- Some tract of a context is placed or swapped. -/
def State.ctxBusy (s : State) (c : Nat) : Bool :=
  s.tracts.any fun (_, t) => match tget s.sowings t.sow with | some w => w.ctx == c | none => false

/-- Every window of a context is released (09 R193). -/
def State.releaseWins (s : State) (ctx : Nat) : State := (List.range 16).foldl (fun s n => s.releaseWin ctx n) s

/-- CONTEXT_UNREGISTER: CTXID. Its queues go with it (log 17), and its windows are released. -/
def State.ctxUnregister (s : State) (m : Msg) : Answer :=
  let c := msgArg m 0
  if (tget s.ctxs c).isNone then (s, stRefused, 0)
  else if s.ctxBusy c then (s, stBusy, 0)
  else
    let s1 := s.releaseWins c
    (({ s1 with ctxs := tdel s1.ctxs c, queues := s1.queues.filter fun (_, q) => q.ctx != c } : State).invTranslations c 0 true, stDone, 0)

/-! ## Queues (15 R299) -/

/-- What refuses a queue header (15 R299, Table 15.1). -/
def badQueueHeader (h : Nat) : Bool :=
  bits h 511 214 != 0 || bit h 199 || decide (bits h 195 192 < 4) || decide (10000 < bits h 213 200) || bits h 191 128 % 64 != 0

/-- A queue as registration reads it; a QUANT of 0 reads as 10. -/
def queueOf (ctx va h : Nat) : Queue :=
  { ctx := ctx, va := va, prio := bits h 198 196, quant := if bits h 213 200 = 0 then 10 else bits h 213 200, log2 := bits h 195 192,
    packet := none, open' := [], used := [], waitRec := none, frozen := false, held := false }

/-- The queue of a context with a header. -/
def State.queueAt (s : State) (ctx va : Nat) : Option Nat := (s.queues.find? fun (_, q) => q.ctx == ctx && q.va == va).map Prod.fst

/-- QUEUE_REGISTER: CTXID, address of the header. A queue registered again takes the new fields; launches that it has taken keep their priority and quantum
(log 20). -/
def State.queueRegister (s : State) (m : Msg) : Option Answer :=
  let ctx := msgArg m 0
  let va := msgArg m 1
  if va % 64 ≠ 0 then some (s, stRefused, 0)
  else match s.pread 128 ctx va 64 accEngRead with
  | (s1, .error e) => if e = fcNoPort then none else some (s1, stRefused, 0)
  | (s1, .ok l) =>
    let h := leNat l
    if badQueueHeader h then some (s1, stRefused, 0)
    else match s1.queueAt ctx va with
      | some q =>
        let n := queueOf ctx va h
        some (s1.modQueue q fun x => { x with prio := n.prio, quant := n.quant, log2 := n.log2 }, stDone, 0)
      | none =>
        let (q, s2) := s1.fresh
        some ({ s2 with queues := tput s2.queues q (queueOf ctx va h) }, stDone, 0)

/-- QUEUE_UNREGISTER: CTXID, address of the header. -/
def State.queueUnregister (s : State) (m : Msg) : Answer :=
  match s.queueAt (msgArg m 0) (msgArg m 1) with
  | some q => (s.dropQueue q, stDone, 0)
  | none => (s, stRefused, 0)

/-! ## Pin changes (09 R183) -/

/-- The entries of a page: the one, or the sixteen of a 64 KiB run. -/
def pinEntries (old new va a : Nat) : List Nat :=
  if (pteV old && pteC old) || (pteV new && pteC new) then
    let base := a - 8 * (vaIndex va 0 % 16)
    (List.range 16).map fun i => base + 8 * i
  else [a]

/-- The value of entry i of a run: frames rise by one page; a change from a run to a single page leaves the other entries not present. -/
def pinValue (new : Nat) (i : Nat) (hit : Bool) : Nat := if pteV new && pteC new then new + i * 4096 else if hit then new else 0

/-- Install the new entries. -/
def State.pinWrite (s : State) (new a : Nat) (es : List Nat) : State :=
  es.zipIdx.foldl (fun s (e, i) => s.writePte e (pinValue new i (e == a))) s

/-- The page that an entry pins: its frame and its core. Entry i of a run holds the frame of its page i. -/
def pinnedPage (a p : Nat) : Option (Nat × Nat) :=
  if ptePins p then some (pteAddr p - (if pteC p then a / 8 % 16 * 4096 else 0), pteOwn p) else none

/-- The pages that some entries pin, each once. -/
def State.pinnedBy (s : State) (es : List Nat) : List (Nat × Nat) := (es.filterMap fun e => pinnedPage e (s.pteAt e)).eraseDups

/-- Every page that the entries pinned is copied back and leaves its pin area, and that of the new entry is copied into one (R183); none where there is no room. -/
def State.repin (s : State) (new a : Nat) (es : List Nat) : Option State :=
  let s1 := (s.pinnedBy es).foldl (fun s (frame, own) => s.pinOut frame own) s
  let s2 := s1.pinWrite new a es
  if ptePins new then s2.pinIn (pteAddr new) (pteOwn new) (pinBytes new) else some s2

/-- The frames of other devices that a pin change reads or writes. -/
def State.pinFrames (s : State) (new : Nat) (es : List Nat) : List Nat :=
  ((s.pinnedBy es).map Prod.fst ++ if ptePins new then [pteAddr new] else []).filter fun f => devOf f != s.device

/-- PIN_CHANGE: CTXID, virtual address, new PTE. A page for which the pin area has no room is refused, and one of a device that is cut off (log 50); one whose
device has no port waits for it (23 R410). The unsown rows among the entries that it reads are counted (09 R203). -/
def State.pinChange (s0 : State) (m : Msg) : Option Answer :=
  let va := msgArg m 1
  let new := msgArg m 2
  match tget s0.ctxs (msgArg m 0) with
  | none => some (s0, stRefused, 0)
  | some c =>
    if 2 ^ 52 ≤ va then some (s0, stRefused, 0)
    else
      let s := s0.countWalk (s0.leafReads va 3 c.root)
      match s.leafAddr va 3 c.root with
      | none => some (s, stRefused, 0)
      | some a =>
        let es := pinEntries (s.pteAt a) new va a
        if pteV new && (pteBad new 0 || !pteLeaf new || (pteC new && pteFrame new % 16 != 0)) then some (s, stRefused, 0)
        else if (s.pinFrames new es).any s.frameCut then some (s, stRefused, 0)
        else if (s.pinFrames new es).any s.frameHeld then none
        else match s.repin new a es with
          | some s1 => some (s1.invTranslations c.ctxid va false, stDone, 0)
          | none => some (s, stRefused, 0)

/-- LAZY_ADD: CTXID, virtual address, frame, attributes (22 R400). -/
def State.lazyAdd (s : State) (m : Msg) : Answer :=
  if (tget s.ctxs (msgArg m 0)).isNone then (s, stRefused, 0)
  else
    let p : LazyPage := { va := msgArg m 1, frame := msgArg m 2, attr := BitVec.ofNat 64 (msgArg m 3) }
    (s.modCtx (msgArg m 0) fun c => { c with lazy := c.lazy ++ [p] }, stDone, 0)

/-! ## DISCARD (09 R202, 10 R219) -/

/-- A table without some lines. -/
def dropLines {α : Type} (t : Tab α) (line : Nat → Nat) (out : Nat → Bool) : Tab α := t.filter fun (k, _) => !out (line k)

/-- Drop every cached copy of some lines of this device, without write-back. -/
def State.dropCached (s : State) (out : Nat → Bool) : State :=
  { s with
    l2 := dropLines s.l2 (fun k => k / 4) out
    llc := dropLines s.llc id out
    lineDir := dropLines s.lineDir id out
    cores := s.cores.map fun (c, k) =>
      let keep := fun (x : L1Line) => !(out (lineOf x.addr) && devOf x.addr == s.device)
      (c, { k with l1 := k.l1.filter keep, icache := k.icache.filter keep, vbuf := [], vbufAt := s.freeCtr }) }

/-- The rows of some lines are unsown: their bytes read 0. -/
def State.unsow (s : State) (out : Nat → Bool) : State :=
  { s with
    sown := s.sown.filter fun r => !out (rowFirst r)
    mem := s.mem.filter fun (a, _) => !out (lineOf a)
    relTags := dropLines s.relTags (fun a => if a < 2 ^ 42 then lineOf a else 2 ^ 32) out
    lineKey := dropLines s.lineKey id out
    poison := s.poison.filter fun y => !out y }

/-- A line lies in a range of lines. -/
def inLines (first n y : Nat) : Bool := decide (first ≤ y) && decide (y < first + n)

/-- The range of a DISCARD: its first line and its lines. -/
def discardRange (m : Msg) : Nat × Nat := (msgArg m 0 / 128, msgArg m 1 / 128)

/-- A row of the range is unsown at the end of the DISCARD and not at its begin: which of the two is free for each row, a row that holds nothing yet included
(10 R219, log 61). -/
def Discard.later (d : Discard) (row : Nat) : Bool := inLines d.first d.lines (rowFirst row) && Config.freeNat (d.draw + row) % 2 == 0

/-- A DISCARD begins: every cached copy goes, and the rows that are not left for its end are unsown. -/
def State.discardBegin (s : State) (first n : Nat) : State :=
  let d : Discard := { first := first, lines := n, draw := s.freeCtr }
  let s1 := s.dropCached (inLines first n)
  { s1.unsow fun y => inLines first n y && !d.later (rowOf y) with discard := some d, freeCtr := s.freeCtr + 2 ^ 29 }

/-- The rows that are left are unsown, with what was cached of them meanwhile. -/
def State.discardEnd (s : State) (d : Discard) : State :=
  { (s.dropCached fun y => d.later (rowOf y)).unsow fun y => d.later (rowOf y) with discard := none }

/-- DISCARD: address and length, multiples of 2 MiB. It is in progress between two steps (10 R219). -/
def State.discardStep (s : State) : State :=
  match s.steward.current with
  | none => s
  | some m =>
    if msgOp m ≠ 0x16 then s
    else match s.discard with
      | some d => (s.discardEnd d).reply m stDone 0
      | none =>
        if msgArg m 0 % 2 ^ 21 ≠ 0 ∨ msgArg m 1 % 2 ^ 21 ≠ 0 ∨ !physOk (msgArg m 0) (msgArg m 1) then s.reply m stRefused 0
        else s.discardBegin (discardRange m).1 (discardRange m).2

/-! ## Unfreezing (21 R394) -/

/-- The plot is no longer frozen: its tract's threads resume as from still mode, the offending one at its instruction; copies it
committed go on. -/
def State.unfreezePlot (s : State) (tag : Nat) : State :=
  match tget s.plots tag with
  | none => s
  | some p =>
    let s1 := s.modPlot tag fun q => { q with frozen := false }
    let s2 : State := { s1 with copies := s1.copies.map fun (i, (c : CopyCmd)) =>
      (i, if c.paused = some 0 ∧ c.ref.map Ref.tag = some tag then { c with paused := none } else c) }
    if s2.plots.any fun (_, q) => q.tract == p.tract && q.frozen then s2
    else (s2.modTract p.tract fun t => { t with frozen := false }).resumeTract p.tract

/-- The queue is no longer frozen: its copies go on. -/
def State.unfreezeQueue (s : State) (q : Nat) : State :=
  let s1 := s.modQueue q fun x => { x with frozen := false }
  { s1 with copies := s1.copies.map fun (i, (c : CopyCmd)) => (i, if c.paused = some 0 ∧ c.q = some q then { c with paused := none } else c) }

/-- The peer is no longer frozen: its held requests arrive in order. -/
def State.unfreezePeer (s : State) (d : Nat) : State :=
  let l := s.fabric.held.filter fun r => r.src == d
  let s1 : State := { s with fabric := { s.fabric with
    frozen := s.fabric.frozen.filter fun x => x != d
    held := s.fabric.held.filter fun r => r.src != d
    seenTags := s.fabric.seenTags.filter fun x => x.src != d } }
  l.foldl (fun s r => s.fabricReceive r) s1

/-- UNFREEZE: master kind (0 plot, 1 copy queue, 2 fabric peer, 3 host queue; log 17) and identifier. -/
def State.unfreezeOp (s : State) (m : Msg) : Answer :=
  let n := msgArg m 1
  match msgArg m 0 with
  | 0 => (s.unfreezePlot n, stDone, 0)
  | 1 => (s.unfreezeQueue n, stDone, 0)
  | 2 => (s.unfreezePeer n, stDone, 0)
  | 3 => ({ s with hostFrozen := false }, stDone, 0)
  | _ => (s, stRefused, 0)

/-! ## Windows (23 R414, R418) -/

/-- A window set, or closed by a length of 0. -/
def setWindow (t : Tab Window) (i base len : Nat) : Tab Window := if len = 0 then tdel t i else tput t i { base := base, len := len }

/-- APERTURE_SET: index 0 to 15, base, length. -/
def State.apertureOp (s : State) (m : Msg) : Answer :=
  if 16 ≤ msgArg m 0 then (s, stRefused, 0)
  else ({ s with apertures := setWindow s.apertures (msgArg m 0) (msgArg m 1) (msgArg m 2) }, stDone, 0)

/-- PEER_WINDOW_SET: CTXID, index 0 to 63, base, length. -/
def State.peerWindowOp (s : State) (m : Msg) : Answer :=
  if (tget s.ctxs (msgArg m 0)).isNone ∨ 64 ≤ msgArg m 1 then (s, stRefused, 0)
  else (s.modCtx (msgArg m 0) fun c => { c with peerWin := setWindow c.peerWin (msgArg m 1) (msgArg m 2) (msgArg m 3) }, stDone, 0)

/-! ## Keys (23 R412, R435) -/

/-- LINK_KEY_ROTATE: port and direction, 0 transmit and 1 receive (log 17): busy while a rotation of that direction is pending. -/
def State.linkKeyOp (s : State) (m : Msg) : Answer :=
  let p := msgArg m 0
  if 24 ≤ p ∨ 2 ≤ msgArg m 1 then (s, stRefused, 0)
  else
    let x := s.port p
    let (k, s1) := s.draw
    if msgArg m 1 = 0 then
      (match x.rot with
        | .idle => (s1.setPort p { x with rot := .delivered, txNew := some (Config.freeKey k) }, stDone, 0)
        | .delivered => (s, stBusy, 0)
        | .switched => (s, stBusy, 0))
    else if x.rx0.isSome ∧ x.rx1.isSome then (s, stBusy, 0)
    else (s1.keyDeliver p (Config.freeKey k), stDone, 0)

/-- The first empty key slot. -/
def emptySlot (l : List KeyState) : Option Nat := l.findIdx? fun x => x == .empty

/-- The steward generates the pair of 256-bit keys of a version (R433; log 6). -/
def State.newPair (s : State) (v : Nat) : State :=
  let (j, s1) := s.draw
  let (k, s2) := s1.draw
  { s2 with keyPairs := s2.keyPairs.set v (some (Config.freeKey j, Config.freeKey k)) }

/-- MEMORY_KEY_ROTATE (R435): a new version with a pair of keys of its own becomes CURV, the one before it retires; busy while any retires. -/
def State.memKeyOp (s : State) (_m : Msg) : Answer :=
  if s.keySlots.contains .retiring then (s, stBusy, 0)
  else match emptySlot s.keySlots with
    | none => (s, stRefused, 0)
    | some n => ({ s with keySlots := (s.keySlots.set s.curv .retiring).set n .live, curv := n }.newPair n, stDone, 0)

/-! ## Debug (23 R424; 21 R371, R395 to R398; 22 R403) -/

/-- A thread belongs to a context. -/
def State.threadIn (s : State) (ctx : Nat) (r : Ref) : Bool := (s.thread? r).isSome && s.ctxIdOf r == ctx

/-- A stopped thread's state as a buffer gives it: the 256 bytes of its record, then the words of its register block (21 R396). -/
def State.writeBuffered (s : State) (r : Ref) (pa : Nat) : Answer :=
  match s.thread? r with
  | none => (s, stRefused, 0)
  | some t =>
    let n := 256 + 4 * (t.ra + t.ra / 16)
    if !physOk pa n then (s, stRefused, 0)
    else
      let (s1, l) := s.physRead (lineFuel n) pa n
      let words := (List.range (t.ra + t.ra / 16)).map fun i => BitVec.ofNat 32 (leNat ((l.drop (256 + 4 * i)).take 4))
      (s1.debugWrite r (BitVec.ofNat 2048 (leNat (l.take 256))) words, stDone, 0)

/-- A sub-operation on a thread of the message's context; of another thread it is refused (log 16). -/
def State.debugThread (s : State) (ctx : Nat) (r : Ref) (f : State → Answer) : Option Answer :=
  some (if s.threadIn ctx r then f s else (s, stRefused, 0))

/-- A sub-operation of the debug service for a context (log 16). A single step that its thread cannot take yet waits. -/
def State.debugOp (s : State) (ctx : Nat) : DebugSub → Option Answer
  | .comparator n cmp => some (s.setComparator ctx n cmp, stDone, 0)
  | .control still haz bks => some (s.setControl ctx still haz bks, stDone, 0)
  | .read tag tid => s.debugThread ctx ⟨tag, tid⟩ fun s => (s.debugRead ⟨tag, tid⟩, stDone, 0)
  | .write tag tid pa => s.debugThread ctx ⟨tag, tid⟩ fun s => s.writeBuffered ⟨tag, tid⟩ pa
  | .resume tag tid => s.debugThread ctx ⟨tag, tid⟩ fun s => (s.debugResume ⟨tag, tid⟩, stDone, 0)
  | .step tag tid =>
    match (if s.threadIn ctx ⟨tag, tid⟩ then s.stopped? ⟨tag, tid⟩ else none) with
    | none => some (s, stRefused, 0)
    | some t => if s.stepReady ⟨tag, tid⟩ t then some (s.singleStep ⟨tag, tid⟩, stDone, 0) else none
  | .kill tag tid => s.debugThread ctx ⟨tag, tid⟩ fun s => (((s.killThread ⟨tag, tid⟩).imageFollows ⟨tag, tid⟩).endBudgets, stDone, 0)
  | .hold => some (s.holdService ctx true, stDone, 0)
  | .release => some (s.holdService ctx false, stDone, 0)
  | .killRecord n => some (s.killHeld ctx n, stDone, 0)

/-- A debug message: CTXID; sub-operation word. Its sub-operation is carried out once, and the reply says so; refused where the context is not registered or the
word asks for nothing (log 16). -/
def State.debugAnswer (s : State) (m : Msg) : Option Answer :=
  if (tget s.ctxs (msgArg m 0)).isNone then some (s, stRefused, 0)
  else match Config.debugSub m with
    | none => some (s, stRefused, 0)
    | some d => s.debugOp (msgArg m 0) d

/-- The message in execution, of OP 0x0017, is carried out (23 R424). -/
def State.debugMessage (s : State) : State := s.mailOpOr 0x17 State.debugAnswer

/-- The message in execution waits: an access of it to another device finds no port (23 R410), or a single step its thread cannot take yet. -/
def State.opHeld (s : State) (m : Msg) : Bool :=
  (msgOp m == 0x10 && (s.ctxRegister m).isNone) || (msgOp m == 0x12 && (s.queueRegister m).isNone) ||
    (msgOp m == 0x14 && (s.pinChange m).isNone) || (msgOp m == 0x17 && (s.debugAnswer m).isNone)

/-! ## The steps -/

/-- H2D_DOORBELL (23 R421). -/
def execH2dDoorbell (seq : BitVec 32) (s : State) : Result := .next (s.doorbell seq)

/-- MAILBOX_WRITE (23 R420). -/
def execMailboxWrite (off : Nat) (value : BitVec 32) (s : State) : Result := .next (s.mailboxWrite off value)

/-- MAILBOX_ACCEPT (23 R421). -/
def execMailboxAccept (s : State) : Result := .next s.accept

/-- D2H_POST (23 R422). -/
def execD2hPost (s : State) : Result := .next s.d2hPost

/-- SELF_TEST_RECORD (23 R430). -/
def execSelfTestRecord (s : State) : Result := .next (s.mailOp 0x01 State.selfTestOp)

/-- ATTESTATION (23 R431). -/
def execAttestation (s : State) : Result := .next (s.mailOp 0x02 State.attestOp)

/-- CERTIFICATES (23 R431). -/
def execCertificates (s : State) : Result := .next (s.mailOp 0x03 State.certOp)

/-- CONTEXT_REGISTER (21 R371). -/
def execContextRegister (s : State) : Result := .next (s.mailOpOr 0x10 State.ctxRegister)

/-- CONTEXT_UNREGISTER (23 R424). -/
def execContextUnregister (s : State) : Result := .next (s.mailOp 0x11 State.ctxUnregister)

/-- QUEUE_REGISTER (15 R299). -/
def execQueueRegister (s : State) : Result := .next (s.mailOpOr 0x12 State.queueRegister)

/-- QUEUE_UNREGISTER (23 R424). -/
def execQueueUnregister (s : State) : Result := .next (s.mailOp 0x13 State.queueUnregister)

/-- PIN_CHANGE (09 R183). -/
def execPinChange (s : State) : Result := .next (s.mailOpOr 0x14 State.pinChange)

/-- LAZY_ADD (22 R400). -/
def execLazyAdd (s : State) : Result := .next (s.mailOp 0x15 State.lazyAdd)

/-- DISCARD (09 R202, 10 R219). -/
def execDiscard (s : State) : Result := .next s.discardStep

/-- UNFREEZE (21 R394). -/
def execUnfreeze (s : State) : Result := .next (s.mailOp 0x18 State.unfreezeOp)

/-- APERTURE_SET (23 R418). -/
def execApertureSet (s : State) : Result := .next (s.mailOp 0x19 State.apertureOp)

/-- PEER_WINDOW_SET (23 R414). -/
def execPeerWindowSet (s : State) : Result := .next (s.mailOp 0x20 State.peerWindowOp)

/-- LINK_KEY_ROTATE (23 R412). -/
def execLinkKeyRotate (s : State) : Result := .next (s.mailOp 0x21 State.linkKeyOp)

/-- MEMORY_KEY_ROTATE (23 R435). -/
def execMemoryKeyRotate (s : State) : Result := .next (s.mailOp 0x22 State.memKeyOp)

/-- ERROR_LOG_READ (23 R424). -/
def execErrorLogRead (s : State) : Result := .next (s.mailOp 0x30 State.errorLogOp)

end Sys2Proof.Machine
end

