-- ==== Sys2Proof/Machine/Boot.lean ====
section
/-! DEFINITION. Power-on, reset and the boot stages (23 R423, R425 to R429), the fallow state (R429), memory errors and the patrol scrub
(R435 to R437), power (R438). -/

namespace Sys2Proof.Machine

/-! ## Fallow (23 R429) -/

/-- Enter the fallow state: STATE 2, the ports down. -/
def State.enterFallow (s : State) (stage result unitk unit detail : Nat) : State :=
  { s with
    mbox := { s.mbox with state := 2 }
    fabric := { s.fabric with ports := s.fabric.ports.map fun (p, x) => (p, { x with up := false }) }
    steward := { s.steward with
      stage := BitVec.ofNat 8 stage, result := BitVec.ofNat 8 result, unitk := BitVec.ofNat 8 unitk, unit := BitVec.ofNat 16 unit,
      detail := BitVec.ofNat 64 detail } }

/-! ## Boot (23 R425 to R428) -/

/-- RESULT codes (Table 23.8). -/
def resSignature : Nat := 5
def resRevoked : Nat := 7
def resRollback : Nat := 6
def resMalformed : Nat := 8
def resThermal : Nat := 9

/-- The first 8 bytes of a digest (24 Table 24.2). -/
def digestPrefix (l : List Byte) : Nat := (Config.sha512 l).toNat % 2 ^ 64

/-- A host-protected window of the configuration record. -/
def recordWindow (v j : Nat) : Window := { base := bits v (128 * j + 1279) (128 * j + 1216), len := bits v (128 * j + 1343) (128 * j + 1280) }

/-- The fields of a configuration record satisfy Table 23.6. -/
def recordOk (v : Nat) : Bool :=
  bits v 15 0 == 1 && bits v 51 42 != bits v 41 32 && bits v 63 53 == 0 && bits v 95 88 == 0 && bits v 191 144 == 0 && bits v 3327 3264 == 0 &&
  decide (1 ≤ bits v 111 96) && decide (bits v 111 96 ≤ 100) && decide (1 ≤ bits v 127 112) && decide (bits v 127 112 ≤ 256) &&
  decide (500 ≤ bits v 143 128) && decide (bits v 143 128 ≤ 3000) &&
  (List.range 16).all fun j => (recordWindow v j).base % 4096 == 0 && (recordWindow v j).len % 4096 == 0

/-- A public key is one of an algorithm's: its digest matches a fuse slot that is not revoked, of four (R426). -/
def keyTrusted (slots : List FuseSlot) (key : List Byte) : Bool :=
  (slots.take 4).any fun x => x.digest == Config.sha512 key && !x.revoked

/-- A public key's digest matches a slot that has been revoked. -/
def keyRevoked (slots : List FuseSlot) (key : List Byte) : Bool := (slots.take 4).any fun x => x.digest == Config.sha512 key && x.revoked

/-- The verdict on the image's public keys: a revoked key has its RESULT, one that no slot knows that of a signature (log 13). -/
def keyVerdict (f : Flash) : Nat :=
  if keyTrusted f.edSlots f.edKey && keyTrusted f.mlSlots f.mlKey then 0
  else if keyRevoked f.edSlots f.edKey || keyRevoked f.mlSlots f.mlKey then resRevoked
  else resSignature

/-- Both signatures of a message verify under the image's keys: one algorithm alone is never enough (R426, R427). -/
def Flash.signed (f : Flash) (msg ed ml : List Byte) : Bool := Config.edVerify f.edKey msg ed && Config.mlVerify f.mlKey msg ml

/-- The verdict on the firmware image (R426): 0 accepted. Of several failures the first of the keys, the SVN and the signatures counts (log 13). -/
def firmwareVerdict (f : Flash) : Nat :=
  if keyVerdict f ≠ 0 then keyVerdict f
  else if f.fwSvn < f.minSvn then resRollback
  else if f.signed f.image f.edSig f.mlSig then 0 else resSignature

/-- The signed part of a configuration record, and its two signatures (Table 23.6). -/
def recordBody (v : Nat) : List Byte := natLe 416 (bits v 3327 0)
def recordEd (v : Nat) : List Byte := natLe 64 (bits v 3839 3328)
def recordMl (v : Nat) : List Byte := natLe 3309 (bits v 30311 3840)

/-- The verdict on the configuration record, signed by the keys of the image (R427): 0 accepted. -/
def recordVerdict (f : Flash) : Nat :=
  if !f.signed (recordBody f.record) (recordEd f.record) (recordMl f.record) then resSignature
  else if bits f.record 31 16 < f.recMinSvn then resRollback
  else if recordOk f.record then 0 else resMalformed

/-- The lock stage (R428). -/
def lockedOf (v : Nat) : Locked :=
  { portEn := BitVec.ofNat 24 (bits v 87 64), portCap := bits v 111 96, igmCap := bits v 127 112,
    hpw := (List.range 16).map (recordWindow v), device := bits v 41 32, hostDev := bits v 51 42, relay := bit v 52,
    rset := BitVec.ofNat 1024 (bits v 1215 192), pcap := bits v 143 128 }

/-- Running (R425, R430); the steward has generated the keys of the version in force (R433). -/
def State.running (s : State) : State :=
  { s with
    locked := lockedOf s.flash.record
    mbox := { s.mbox with state := 1 }
    steward := { s.steward with stage := 3, result := 0 } }.newPair s.curv

/-- The boot stages in order; the first that fails enters the fallow state (R425). -/
def State.boot (s : State) (st : SelfTest) : State :=
  let s0 : State := { s with steward := { s.steward with romver := s.flash.romVer } }
  if !st.pass then s0.enterFallow 0 st.result.toNat st.unitk.toNat st.unit.toNat st.detail.toNat
  else if firmwareVerdict s.flash ≠ 0 then s0.enterFallow 1 (firmwareVerdict s.flash) 0 0 (digestPrefix s.flash.image)
  else
    let s1 : State := { s0 with steward := { s0.steward with fwsvn := BitVec.ofNat 32 s.flash.fwSvn } }
    if recordVerdict s.flash ≠ 0 then s1.enterFallow 2 (recordVerdict s.flash) 0 0 (digestPrefix (recordBody s.flash.record))
    else s1.running

/-- The device as power or a reset leaves it: what flash and fuses hold stays, and what left the device; the agenda and the free
values go on. -/
def State.fresh0 (s : State) (epoch : Word) : State :=
  { State.reset with
    flash := s.flash
    mbox := { Mbox.reset with epoch := epoch }
    hostReads := s.hostReads
    hostWrites := s.hostWrites
    hostIrqs := s.hostIrqs
    debug := s.debug
    agenda := s.agenda
    freeCtr := s.freeCtr
    nextId := s.nextId }

/-- POWER_ON (R425): EPOCH 0. -/
def State.powerOn (s : State) (st : SelfTest) : State := (s.fresh0 0).boot st

/-- DEVICE_RESET (R423, R425; 09 R202; 16 R328): EPOCH rises, every row is unsown. -/
def State.deviceReset (s : State) (st : SelfTest) : State := (s.fresh0 (s.mbox.epoch + 1)).boot st

/-! ## Lines as HBM4 stores them (23 R433) -/

/-- The tweak of a line: the device number and y. -/
def State.tweak (s : State) (y : Nat) : Nat := s.device * 2 ^ 32 + y

/-- The version of a sown line, and its pair of keys. -/
def State.linePair (s : State) (y : Nat) : Option (Nat × BitVec 256 × BitVec 256) :=
  (tget s.lineKey y).bind fun v => ((s.keyPairs.getD v none).map fun k => (v, k))

/-- The ciphertext of a sown line under the keys of its version; an unsown row stores nothing. -/
def State.lineCipher (s : State) (y : Nat) : Option (List Byte) :=
  (s.linePair y).map fun (_, k, j) => Config.xts k j (s.tweak y) (s.readLocal (y * 128) 128)

/-- The 64-bit integrity tag that the device stores with a sown line, over the ciphertext, the address and the version. -/
def State.lineTag (s : State) (y : Nat) : Option (BitVec 64) :=
  match s.linePair y, s.lineCipher y with
  | some (v, k, j), some c => some (Config.lineTag k j c (y * 128) v)
  | _, _ => none

/-! ## The patrol scrub (23 R435) -/

/-- Erase the slots of retiring versions that no line bears, each with its event. -/
def State.eraseRetired (s : State) : State :=
  (List.range 8).foldl (fun s v =>
    if s.keySlots.getD v .empty = .retiring ∧ !(s.lineKey.any fun (_, k) => k == v) then
      ({ s with keySlots := s.keySlots.set v .empty, keyPairs := s.keyPairs.set v none } : State).event evRotation (0x10000 + v)
    else s) s

/-- What the scrub finds at a line is free (log 6): nothing; an error that ECC corrects, which is only counted (23 R437); or an uncorrectable one or a failed tag,
which poisons the line (R436). -/
def State.eccCheck (s : State) (y : Nat) : State :=
  let (k, s1) := s.draw
  match Config.freeNat k % 3 with
  | 0 => s1
  | 1 => { s1 with steward := { s1.steward with corrected := s1.steward.corrected + 1 } }
  | _ => s1.poisonLine y

/-- PATROL_SCRUB: unsown rows are skipped (09 R203), and a poisoned line stays as it is; a line is checked and corrected, and one whose version retires is
encrypted under CURV. -/
def State.patrolScrub (s : State) (y : Nat) : State :=
  let s1 : State :=
    if !s.sown.contains (rowOf y) || s.poison.contains y then s
    else
      let s0 := s.eccCheck y
      match (if s0.poison.contains y then none else tget s0.lineKey y) with
      | some v => if s0.keySlots.getD v .empty = .retiring then { s0 with lineKey := tput s0.lineKey y s0.curv } else s0
      | none => s0
  s1.eraseRetired

/-! ## Errors (23 R436, R437) -/

/-- UNCORRECTABLE_ERROR (R437): a clean line is fetched again, a dirty one is poisoned and logged, a plot is frozen. -/
def State.uncorrectable (s : State) : ErrSite → State
  | .cleanLine y => (s.dropCached fun x => x == y).logError logSecded (y * 128)
  | .dirtyLine y => s.poisonLine y
  | .plotState tag => s.freezeState tag

/-! ## Power (23 R438) -/

/-- POWER_THROTTLE (R438): while power or temperature is in excess the clock falls by 100 MHz. -/
def State.throttle (s : State) (watts celsius : Nat) : State :=
  if s.locked.pcap < watts ∨ 95 < celsius then
    { s with steward := { s.steward with clockMHz := if 100 < s.steward.clockMHz then s.steward.clockMHz - 100 else s.steward.clockMHz } }
  else s

/-- THERMAL_TRIP (R438). -/
def State.thermalTrip (s : State) : State := s.enterFallow 4 resThermal 0 0 0

/-! ## The steps -/

/-- POWER_ON (23 R425). -/
def execPowerOn (st : SelfTest) (s : State) : Result := .next (s.powerOn st)

/-- DEVICE_RESET (23 R423). -/
def execDeviceReset (st : SelfTest) (s : State) : Result := .next (s.deviceReset st)

/-- PATROL_SCRUB (23 R435). -/
def execPatrolScrub (line : Nat) (s : State) : Result := .next (s.patrolScrub line)

/-- POWER_THROTTLE (23 R438). -/
def execPowerThrottle (watts : Nat) (celsius : Nat) (s : State) : Result := .next (s.throttle watts celsius)

/-- THERMAL_TRIP (23 R438). -/
def execThermalTrip (s : State) : Result := .next s.thermalTrip

/-- UNCORRECTABLE_ERROR (23 R437). -/
def execUncorrectableError (site : ErrSite) (s : State) : Result := .next (s.uncorrectable site)

end Sys2Proof.Machine
end

