-- ==== Sys2Proof/Machine/Dispatch.lean ====
section
/-! DEFINITION. The meaning of each instruction and step: one arm per constructor of Instr. -/

namespace Sys2Proof.Machine

def exec (i : Instr) (s : State) : Host.Outcome State Fault Refusal :=
  match i with
  | .iadd d a b g => Sys2Proof.Machine.execIadd d a b g s
  | .isub d a b g => Sys2Proof.Machine.execIsub d a b g s
  | .imul d a b g => Sys2Proof.Machine.execImul d a b g s
  | .imulh d a b g => Sys2Proof.Machine.execImulh d a b g s
  | .imulhu d a b g => Sys2Proof.Machine.execImulhu d a b g s
  | .imad d a b g => Sys2Proof.Machine.execImad d a b g s
  | .divs d a b g => Sys2Proof.Machine.execDivs d a b g s
  | .divu d a b g => Sys2Proof.Machine.execDivu d a b g s
  | .rems d a b g => Sys2Proof.Machine.execRems d a b g s
  | .remu d a b g => Sys2Proof.Machine.execRemu d a b g s
  | .imin d a b g => Sys2Proof.Machine.execImin d a b g s
  | .imax d a b g => Sys2Proof.Machine.execImax d a b g s
  | .iminu d a b g => Sys2Proof.Machine.execIminu d a b g s
  | .imaxu d a b g => Sys2Proof.Machine.execImaxu d a b g s
  | .iabs d a g => Sys2Proof.Machine.execIabs d a g s
  | .ineg d a g => Sys2Proof.Machine.execIneg d a g s
  | .andb d a b g => Sys2Proof.Machine.execAndb d a b g s
  | .orb d a b g => Sys2Proof.Machine.execOrb d a b g s
  | .xorb d a b g => Sys2Proof.Machine.execXorb d a b g s
  | .andn d a b g => Sys2Proof.Machine.execAndn d a b g s
  | .shl d a b g => Sys2Proof.Machine.execShl d a b g s
  | .shr d a b g => Sys2Proof.Machine.execShr d a b g s
  | .sar d a b g => Sys2Proof.Machine.execSar d a b g s
  | .rotl d a b g => Sys2Proof.Machine.execRotl d a b g s
  | .popc d a g => Sys2Proof.Machine.execPopc d a g s
  | .clz d a g => Sys2Proof.Machine.execClz d a g s
  | .brev d a g => Sys2Proof.Machine.execBrev d a g s
  | .bfe d a b g => Sys2Proof.Machine.execBfe d a b g s
  | .bfi d a b g => Sys2Proof.Machine.execBfi d a b g s
  | .lea d a b g => Sys2Proof.Machine.execLea d a b g s
  | .sel d a b g => Sys2Proof.Machine.execSel d a b g s
  | .mov d a g => Sys2Proof.Machine.execMov d a g s
  | .iadd64 d a b g => Sys2Proof.Machine.execIadd64 d a b g s
  | .isub64 d a b g => Sys2Proof.Machine.execIsub64 d a b g s
  | .imul64 d a b g => Sys2Proof.Machine.execImul64 d a b g s
  | .mov64 d a g => Sys2Proof.Machine.execMov64 d a g s
  | .shl64 d a b g => Sys2Proof.Machine.execShl64 d a b g s
  | .shr64 d a b g => Sys2Proof.Machine.execShr64 d a b g s
  | .sar64 d a b g => Sys2Proof.Machine.execSar64 d a b g s
  | .imad64 d a b g => Sys2Proof.Machine.execImad64 d a b g s
  | .icmpEq p a b g => Sys2Proof.Machine.execIcmpEq p a b g s
  | .icmpNe p a b g => Sys2Proof.Machine.execIcmpNe p a b g s
  | .icmpLt p a b g => Sys2Proof.Machine.execIcmpLt p a b g s
  | .icmpLe p a b g => Sys2Proof.Machine.execIcmpLe p a b g s
  | .icmpLtu p a b g => Sys2Proof.Machine.execIcmpLtu p a b g s
  | .icmpLeu p a b g => Sys2Proof.Machine.execIcmpLeu p a b g s
  | .itst p a b g => Sys2Proof.Machine.execItst p a b g s
  | .itstn p a b g => Sys2Proof.Machine.execItstn p a b g s
  | .pand p q r g => Sys2Proof.Machine.execPand p q r g s
  | .por p q r g => Sys2Proof.Machine.execPor p q r g s
  | .pxor p q r g => Sys2Proof.Machine.execPxor p q r g s
  | .pandn p q r g => Sys2Proof.Machine.execPandn p q r g s
  | .pmov p q g => Sys2Proof.Machine.execPmov p q g s
  | .ptor d q g => Sys2Proof.Machine.execPtor d q g s
  | .rtop p a g => Sys2Proof.Machine.execRtop p a g s
  | .pcnt d q g => Sys2Proof.Machine.execPcnt d q g s
  | .fadd ty d a b g => Sys2Proof.Machine.execFadd ty d a b g s
  | .fsub ty d a b g => Sys2Proof.Machine.execFsub ty d a b g s
  | .fmul ty d a b g => Sys2Proof.Machine.execFmul ty d a b g s
  | .ffma ty d a b g => Sys2Proof.Machine.execFfma ty d a b g s
  | .fmin ty d a b g => Sys2Proof.Machine.execFmin ty d a b g s
  | .fmax ty d a b g => Sys2Proof.Machine.execFmax ty d a b g s
  | .fcmpeq ty p a b g => Sys2Proof.Machine.execFcmpeq ty p a b g s
  | .fcmplt ty p a b g => Sys2Proof.Machine.execFcmplt ty p a b g s
  | .fcmple ty p a b g => Sys2Proof.Machine.execFcmple ty p a b g s
  | .fcmpun ty p a b g => Sys2Proof.Machine.execFcmpun ty p a b g s
  | .fdiv d a b g => Sys2Proof.Machine.execFdiv d a b g s
  | .fsqrt d a g => Sys2Proof.Machine.execFsqrt d a g s
  | .frsq d a g => Sys2Proof.Machine.execFrsq d a g s
  | .frcp d a g => Sys2Proof.Machine.execFrcp d a g s
  | .fexp2 d a g => Sys2Proof.Machine.execFexp2 d a g s
  | .flog2 d a g => Sys2Proof.Machine.execFlog2 d a g s
  | .fsinpi d a g => Sys2Proof.Machine.execFsinpi d a g s
  | .fcospi d a g => Sys2Proof.Machine.execFcospi d a g s
  | .ftanh d a g => Sys2Proof.Machine.execFtanh d a g s
  | .fsigm d a g => Sys2Proof.Machine.execFsigm d a g s
  | .fldexp d a b g => Sys2Proof.Machine.execFldexp d a b g s
  | .frint d a g => Sys2Proof.Machine.execFrint d a g s
  | .cvtfi d a ce uns g => Sys2Proof.Machine.execCvtfi d a ce uns g s
  | .cvtif d a ce uns g => Sys2Proof.Machine.execCvtif d a ce uns g s
  | .cvtff d a src dst g => Sys2Proof.Machine.execCvtff d a src dst g s
  | .cvtpk d a ce g => Sys2Proof.Machine.execCvtpk d a ce g s
  | .fabs d a g => Sys2Proof.Machine.execFabs d a g s
  | .fneg d a g => Sys2Proof.Machine.execFneg d a g s
  | .fcpys d a b g => Sys2Proof.Machine.execFcpys d a b g s
  | .fclass d a g => Sys2Proof.Machine.execFclass d a g s
  | .xacc d a b g => Sys2Proof.Machine.execXacc d a b g s
  | .xadd d a g => Sys2Proof.Machine.execXadd d a g s
  | .xcvt d a ce g => Sys2Proof.Machine.execXcvt d a ce g s
  | .xneg d a g => Sys2Proof.Machine.execXneg d a g s
  | .xanc a g => Sys2Proof.Machine.execXanc a g s
  | .xdoth d a b g => Sys2Proof.Machine.execXdoth d a b g s
  | .xdotb d a b g => Sys2Proof.Machine.execXdotb d a b g s
  | .xcmp p a b g => Sys2Proof.Machine.execXcmp p a b g s
  | .rshf d a b g => Sys2Proof.Machine.execRshf d a b g s
  | .rshfx d a b g => Sys2Proof.Machine.execRshfx d a b g s
  | .rbcast d a n g => Sys2Proof.Machine.execRbcast d a n g s
  | .rballot d q g => Sys2Proof.Machine.execRballot d q g s
  | .rredAddi d a rt g => Sys2Proof.Machine.execRredAddi d a rt g s
  | .rredAddf d a g => Sys2Proof.Machine.execRredAddf d a g s
  | .rredMin d a rt g => Sys2Proof.Machine.execRredMin d a rt g s
  | .rredMax d a rt g => Sys2Proof.Machine.execRredMax d a rt g s
  | .rscani d a rt ex g => Sys2Proof.Machine.execRscani d a rt ex g s
  | .rscanf d a ex g => Sys2Proof.Machine.execRscanf d a ex g s
  | .rany p q g => Sys2Proof.Machine.execRany p q g s
  | .rall p q g => Sys2Proof.Machine.execRall p q g s
  | .movi d imm => Sys2Proof.Machine.execMovi d imm s
  | .movhi d imm => Sys2Proof.Machine.execMovhi d imm s
  | .addi d imm => Sys2Proof.Machine.execAddi d imm s
  | .andi d imm => Sys2Proof.Machine.execAndi d imm s
  | .ori d imm => Sys2Proof.Machine.execOri d imm s
  | .xori d imm => Sys2Proof.Machine.execXori d imm s
  | .shli d n => Sys2Proof.Machine.execShli d n s
  | .shri d n => Sys2Proof.Machine.execShri d n s
  | .fmoviF32Bf d imm => Sys2Proof.Machine.execFmoviF32Bf d imm s
  | .fmoviF32Hf d imm => Sys2Proof.Machine.execFmoviF32Hf d imm s
  | .fmoviE4 d imm => Sys2Proof.Machine.execFmoviE4 d imm s
  | .fmoviE5 d imm => Sys2Proof.Machine.execFmoviE5 d imm s
  | .fmoviB2 d imm => Sys2Proof.Machine.execFmoviB2 d imm s
  | .fmoviH2 d imm => Sys2Proof.Machine.execFmoviH2 d imm s
  | .faddiF32 d imm => Sys2Proof.Machine.execFaddiF32 d imm s
  | .fmuliF32 d imm => Sys2Proof.Machine.execFmuliF32 d imm s
  | .winb imm => Sys2Proof.Machine.execWinb imm s
  | .ixset imm => Sys2Proof.Machine.execIxset imm s
  | .ixadd imm => Sys2Proof.Machine.execIxadd imm s
  | .ld d a off rc sc ord sz => Sys2Proof.Machine.execLd d a off rc sc ord sz s
  | .st d a off rc sc ord sz => Sys2Proof.Machine.execSt d a off rc sc ord sz s
  | .lds d a off sz => Sys2Proof.Machine.execLds d a off sz s
  | .sts d a off sz => Sys2Proof.Machine.execSts d a off sz s
  | .atomAdd w d a rc sc ord => Sys2Proof.Machine.execAtomAdd w d a rc sc ord s
  | .atomAnd w d a rc sc ord => Sys2Proof.Machine.execAtomAnd w d a rc sc ord s
  | .atomOr w d a rc sc ord => Sys2Proof.Machine.execAtomOr w d a rc sc ord s
  | .atomXor w d a rc sc ord => Sys2Proof.Machine.execAtomXor w d a rc sc ord s
  | .atomMin w d a rc sc ord => Sys2Proof.Machine.execAtomMin w d a rc sc ord s
  | .atomMax w d a rc sc ord => Sys2Proof.Machine.execAtomMax w d a rc sc ord s
  | .atomMinu w d a rc sc ord => Sys2Proof.Machine.execAtomMinu w d a rc sc ord s
  | .atomMaxu w d a rc sc ord => Sys2Proof.Machine.execAtomMaxu w d a rc sc ord s
  | .atomExch w d a rc sc ord => Sys2Proof.Machine.execAtomExch w d a rc sc ord s
  | .atomCas w d a rc sc ord => Sys2Proof.Machine.execAtomCas w d a rc sc ord s
  | .atomFaddF32 d a rc sc ord => Sys2Proof.Machine.execAtomFaddF32 d a rc sc ord s
  | .atomXadd128 d a rc sc ord => Sys2Proof.Machine.execAtomXadd128 d a rc sc ord s
  | .atomIncw w d a rc sc ord => Sys2Proof.Machine.execAtomIncw w d a rc sc ord s
  | .atomDecw w d a rc sc ord => Sys2Proof.Machine.execAtomDecw w d a rc sc ord s
  | .atomsAdd w d a tr ord => Sys2Proof.Machine.execAtomsAdd w d a tr ord s
  | .atomsAnd w d a tr ord => Sys2Proof.Machine.execAtomsAnd w d a tr ord s
  | .atomsOr w d a tr ord => Sys2Proof.Machine.execAtomsOr w d a tr ord s
  | .atomsXor w d a tr ord => Sys2Proof.Machine.execAtomsXor w d a tr ord s
  | .atomsMin w d a tr ord => Sys2Proof.Machine.execAtomsMin w d a tr ord s
  | .atomsMax w d a tr ord => Sys2Proof.Machine.execAtomsMax w d a tr ord s
  | .atomsMinu w d a tr ord => Sys2Proof.Machine.execAtomsMinu w d a tr ord s
  | .atomsMaxu w d a tr ord => Sys2Proof.Machine.execAtomsMaxu w d a tr ord s
  | .atomsExch w d a tr ord => Sys2Proof.Machine.execAtomsExch w d a tr ord s
  | .atomsCas w d a tr ord => Sys2Proof.Machine.execAtomsCas w d a tr ord s
  | .atomsFaddF32 d a tr ord => Sys2Proof.Machine.execAtomsFaddF32 d a tr ord s
  | .atomsXadd128 d a tr ord => Sys2Proof.Machine.execAtomsXadd128 d a tr ord s
  | .atomsIncw w d a tr ord => Sys2Proof.Machine.execAtomsIncw w d a tr ord s
  | .atomsDecw w d a tr ord => Sys2Proof.Machine.execAtomsDecw w d a tr ord s
  | .lr d a off rc sc ord sz => Sys2Proof.Machine.execLr d a off rc sc ord sz s
  | .sc d a off rc sc ord sz => Sys2Proof.Machine.execSc d a off rc sc ord sz s
  | .bra p n off => Sys2Proof.Machine.execBra p n off s
  | .brf p n off => Sys2Proof.Machine.execBrf p n off s
  | .call p n off => Sys2Proof.Machine.execCall p n off s
  | .nop g => Sys2Proof.Machine.execNop g s
  | .ret g => Sys2Proof.Machine.execRet g s
  | .calli g a => Sys2Proof.Machine.execCalli g a s
  | .jmpi g a => Sys2Proof.Machine.execJmpi g a s
  | .reform g => Sys2Proof.Machine.execReform g s
  | .exit g => Sys2Proof.Machine.execExit g s
  | .yield g => Sys2Proof.Machine.execYield g s
  | .pause g a => Sys2Proof.Machine.execPause g a s
  | .setrm g m => Sys2Proof.Machine.execSetrm g m s
  | .wait ld st cp tl => Sys2Proof.Machine.execWait ld st cp tl s
  | .fence sc o a x => Sys2Proof.Machine.execFence sc o a x s
  | .barp => Sys2Proof.Machine.execBarp s
  | .barc a => Sys2Proof.Machine.execBarc a s
  | .bcinit a b => Sys2Proof.Machine.execBcinit a b s
  | .bcexp a b => Sys2Proof.Machine.execBcexp a b s
  | .bcarr a b => Sys2Proof.Machine.execBcarr a b s
  | .bcwait a ph => Sys2Proof.Machine.execBcwait a ph s
  | .bctest p a ph => Sys2Proof.Machine.execBctest p a ph s
  | .waitw a b => Sys2Proof.Machine.execWaitw a b s
  | .mint d a b => Sys2Proof.Machine.execMint d a b s
  | .land rc sc w a b => Sys2Proof.Machine.execLand rc sc w a b s
  | .lwait p a => Sys2Proof.Machine.execLwait p a s
  | .ltest p a => Sys2Proof.Machine.execLtest p a s
  | .ldrop a => Sys2Proof.Machine.execLdrop a s
  | .rnext d a => Sys2Proof.Machine.execRnext d a s
  | .mma g a => Sys2Proof.Machine.execMma g a s
  | .mmac g t => Sys2Proof.Machine.execMmac g t s
  | .mwaitb t => Sys2Proof.Machine.execMwaitb t s
  | .mdrain g a => Sys2Proof.Machine.execMdrain g a s
  | .mzero g arr tile => Sys2Proof.Machine.execMzero g arr tile s
  | .mstat d arr tile => Sys2Proof.Machine.execMstat d arr tile s
  | .apipe g a => Sys2Proof.Machine.execApipe g a s
  | .cpost g a => Sys2Proof.Machine.execCpost g a s
  | .qpost g a b => Sys2Proof.Machine.execQpost g a b s
  | .ttld d a => Sys2Proof.Machine.execTtld d a s
  | .ttst g a b => Sys2Proof.Machine.execTtst g a b s
  | .ttinv g a => Sys2Proof.Machine.execTtinv g a s
  | .vbind g a b => Sys2Proof.Machine.execVbind g a b s
  | .vunbind g b => Sys2Proof.Machine.execVunbind g b s
  | .trap cause => Sys2Proof.Machine.execTrap cause s
  | .eret => Sys2Proof.Machine.execEret s
  | .srd d n => Sys2Proof.Machine.execSrd d n s
  | .swr a n => Sys2Proof.Machine.execSwr a n s
  | .swrFpark a => Sys2Proof.Machine.execSwrFpark a s
  | .swrLpwc a n => Sys2Proof.Machine.execSwrLpwc a n s
  | .bkpt cause => Sys2Proof.Machine.execBkpt cause s
  | .cinv a l1 l2 => Sys2Proof.Machine.execCinv a l1 l2 s
  | .cwb a => Sys2Proof.Machine.execCwb a s
  | .tlbinv a all => Sys2Proof.Machine.execTlbinv a all s
  | .seedset a => Sys2Proof.Machine.execSeedset a s
  | .clkrd d => Sys2Proof.Machine.execClkrd d s
  | .issueCycle => Sys2Proof.Machine.execIssueCycle s
  | .formDrill core => Sys2Proof.Machine.execFormDrill core s
  | .furrowAgeEligible core furrow => Sys2Proof.Machine.execFurrowAgeEligible core furrow s
  | .rowRendezvousComplete tag row => Sys2Proof.Machine.execRowRendezvousComplete tag row s
  | .rowGroupExecute tag row => Sys2Proof.Machine.execRowGroupExecute tag row s
  | .tokenRead sow => Sys2Proof.Machine.execTokenRead sow s
  | .placeTract => Sys2Proof.Machine.execPlaceTract s
  | .quantumExpiry tract => Sys2Proof.Machine.execQuantumExpiry tract s
  | .sleepCandidateTimer tract => Sys2Proof.Machine.execSleepCandidateTimer tract s
  | .swapOut tract => Sys2Proof.Machine.execSwapOut tract s
  | .swapIn tract => Sys2Proof.Machine.execSwapIn tract s
  | .plotRetire tag => Sys2Proof.Machine.execPlotRetire tag s
  | .sowingComplete sow => Sys2Proof.Machine.execSowingComplete sow s
  | .threadWake tag tid => Sys2Proof.Machine.execThreadWake tag tid s
  | .pauseExpiry tag tid => Sys2Proof.Machine.execPauseExpiry tag tid s
  | .waitwRecheck tag tid => Sys2Proof.Machine.execWaitwRecheck tag tid s
  | .barpComplete tag => Sys2Proof.Machine.execBarpComplete tag s
  | .barcComplete sow com => Sys2Proof.Machine.execBarcComplete sow com s
  | .loadReturn id value => Sys2Proof.Machine.execLoadReturn id value s
  | .storeAck ack => Sys2Proof.Machine.execStoreAck ack s
  | .pageWalk core ctx va => Sys2Proof.Machine.execPageWalk core ctx va s
  | .directoryMakeShared core ctx va => Sys2Proof.Machine.execDirectoryMakeShared core ctx va s
  | .regionWindowEnd line => Sys2Proof.Machine.execRegionWindowEnd line s
  | .regionMigrate line => Sys2Proof.Machine.execRegionMigrate line s
  | .regionMerge line => Sys2Proof.Machine.execRegionMerge line s
  | .lpwFadeTick ctx n => Sys2Proof.Machine.execLpwFadeTick ctx n s
  | .glean id => Sys2Proof.Machine.execGlean id s
  | .viewAtomic id => Sys2Proof.Machine.execViewAtomic id s
  | .faratAtomic id => Sys2Proof.Machine.execFaratAtomic id s
  | .reservationExpiry tag tid => Sys2Proof.Machine.execReservationExpiry tag tid s
  | .barrierArrive id => Sys2Proof.Machine.execBarrierArrive id s
  | .landArrive id => Sys2Proof.Machine.execLandArrive id s
  | .landAnswer id => Sys2Proof.Machine.execLandAnswer id s
  | .slotLapse core slot => Sys2Proof.Machine.execSlotLapse core slot s
  | .frontEndTakePacket q => Sys2Proof.Machine.execFrontEndTakePacket q s
  | .launch q => Sys2Proof.Machine.execLaunch q s
  | .nopPacket q => Sys2Proof.Machine.execNopPacket q s
  | .tokenSignal q => Sys2Proof.Machine.execTokenSignal q s
  | .queueCopyHandoff q => Sys2Proof.Machine.execQueueCopyHandoff q s
  | .qpostRingRoom id => Sys2Proof.Machine.execQpostRingRoom id s
  | .copy id => Sys2Proof.Machine.execCopy id s
  | .quantisingCopy id => Sys2Proof.Machine.execQuantisingCopy id s
  | .conditionalCopy id => Sys2Proof.Machine.execConditionalCopy id s
  | .peerCopy id => Sys2Proof.Machine.execPeerCopy id s
  | .copyComplete id => Sys2Proof.Machine.execCopyComplete id s
  | .mmaStreamStart core arr => Sys2Proof.Machine.execMmaStreamStart core arr s
  | .mmaStreamEnd core arr => Sys2Proof.Machine.execMmaStreamEnd core arr s
  | .mdrainRun core arr => Sys2Proof.Machine.execMdrainRun core arr s
  | .mdrainComplete core arr => Sys2Proof.Machine.execMdrainComplete core arr s
  | .mzeroTurn core arr => Sys2Proof.Machine.execMzeroTurn core arr s
  | .apipeStart core => Sys2Proof.Machine.execApipeStart core s
  | .apipeComplete core => Sys2Proof.Machine.execApipeComplete core s
  | .faultRecordFlush ctx => Sys2Proof.Machine.execFaultRecordFlush ctx s
  | .parkingBudgetExpiry tract => Sys2Proof.Machine.execParkingBudgetExpiry tract s
  | .faultService service => Sys2Proof.Machine.execFaultService service s
  | .debugSetComparator ctx n cmp => Sys2Proof.Machine.execDebugSetComparator ctx n cmp s
  | .debugSetControl ctx still haz bks => Sys2Proof.Machine.execDebugSetControl ctx still haz bks s
  | .debugReadState tag tid => Sys2Proof.Machine.execDebugReadState tag tid s
  | .debugWriteState tag tid image regs => Sys2Proof.Machine.execDebugWriteState tag tid image regs s
  | .debugResume tag tid => Sys2Proof.Machine.execDebugResume tag tid s
  | .debugSingleStep tag tid => Sys2Proof.Machine.execDebugSingleStep tag tid s
  | .debugKill tag tid => Sys2Proof.Machine.execDebugKill tag tid s
  | .faultsHold ctx => Sys2Proof.Machine.execFaultsHold ctx s
  | .faultsRelease ctx => Sys2Proof.Machine.execFaultsRelease ctx s
  | .faultsKill ctx n => Sys2Proof.Machine.execFaultsKill ctx n s
  | .h2dDoorbell seq => Sys2Proof.Machine.execH2dDoorbell seq s
  | .mailboxWrite off value => Sys2Proof.Machine.execMailboxWrite off value s
  | .mailboxAccept => Sys2Proof.Machine.execMailboxAccept s
  | .d2hPost => Sys2Proof.Machine.execD2hPost s
  | .selfTestRecord => Sys2Proof.Machine.execSelfTestRecord s
  | .attestation => Sys2Proof.Machine.execAttestation s
  | .certificates => Sys2Proof.Machine.execCertificates s
  | .contextRegister => Sys2Proof.Machine.execContextRegister s
  | .contextUnregister => Sys2Proof.Machine.execContextUnregister s
  | .queueRegister => Sys2Proof.Machine.execQueueRegister s
  | .queueUnregister => Sys2Proof.Machine.execQueueUnregister s
  | .pinChange => Sys2Proof.Machine.execPinChange s
  | .lazyAdd => Sys2Proof.Machine.execLazyAdd s
  | .discard => Sys2Proof.Machine.execDiscard s
  | .unfreeze => Sys2Proof.Machine.execUnfreeze s
  | .apertureSet => Sys2Proof.Machine.execApertureSet s
  | .peerWindowSet => Sys2Proof.Machine.execPeerWindowSet s
  | .linkKeyRotate => Sys2Proof.Machine.execLinkKeyRotate s
  | .memoryKeyRotate => Sys2Proof.Machine.execMemoryKeyRotate s
  | .errorLogRead => Sys2Proof.Machine.execErrorLogRead s
  | .keyDeliver port key => Sys2Proof.Machine.execKeyDeliver port key s
  | .keyInstallAck port => Sys2Proof.Machine.execKeyInstallAck port s
  | .oldGenerationAcked port => Sys2Proof.Machine.execOldGenerationAcked port s
  | .retireMarker port gen => Sys2Proof.Machine.execRetireMarker port gen s
  | .flitReceive port flit => Sys2Proof.Machine.execFlitReceive port flit s
  | .portLinkUp port lanes => Sys2Proof.Machine.execPortLinkUp port lanes s
  | .portLeaveService port => Sys2Proof.Machine.execPortLeaveService port s
  | .oRemapRelease dst => Sys2Proof.Machine.execORemapRelease dst s
  | .destUnreachable dst => Sys2Proof.Machine.execDestUnreachable dst s
  | .fabricRequestReceive req => Sys2Proof.Machine.execFabricRequestReceive req s
  | .relayForward id => Sys2Proof.Machine.execRelayForward id s
  | .hostAccess acc => Sys2Proof.Machine.execHostAccess acc s
  | .powerOn st => Sys2Proof.Machine.execPowerOn st s
  | .deviceReset st => Sys2Proof.Machine.execDeviceReset st s
  | .patrolScrub line => Sys2Proof.Machine.execPatrolScrub line s
  | .powerThrottle watts celsius => Sys2Proof.Machine.execPowerThrottle watts celsius s
  | .thermalTrip => Sys2Proof.Machine.execThermalTrip s
  | .uncorrectableError site => Sys2Proof.Machine.execUncorrectableError site s
  | .reachabilityTableChange port dsts => Sys2Proof.Machine.execReachabilityTableChange port dsts s

end Sys2Proof.Machine
end

