-- ==== Sys2Proof/Machine/Run.lean ====
section
/-! DEFINITION. What a step runs: the instruction of a drill that issues, from its stops and its fetch to its end (01 R28, 03 R62, 21 R386,
R395, R398, R399), and the step of the device that comes next when nothing from outside does (log 2). -/

namespace Sys2Proof.Machine

/-! ## Stops before an instruction (21 R395, R399) -/

/-- A comparator matches a thread at its PC (R395). -/
def cmpHits (c : Comparator) (p : Plot) (tid : Nat) (pc : DWord) : Bool :=
  c.enabled && c.addr == pc && c.plots.getLsbD p.index && (match c.tid with | some n => n == tid | none => true)

/-- A thread stops before its next instruction: a still stop waits for it, or a comparator matches, but not at the first instruction
after a resume. -/
def State.stopsHere (s : State) (r : Ref) : Bool :=
  match tget s.plots r.tag, s.thread? r with
  | some p, some t =>
    t.stopReq || (!t.noMatch && match tget s.ctxs p.ctx with
      | some c => c.cmps.any fun (_, x) => cmpHits x p r.tid t.pc
      | none => false)
  | _, _ => false

/-- Stop the lanes of a drill that stop here, and note that the others execute. -/
def State.stopLanes (s : State) (l : List Ref) : State :=
  l.foldl (fun s r => if s.stopsHere r then s.stopThread r none else s.modThread r fun t => { t with noMatch := false }) s

/-! ## One instruction of a drill -/

/-- A fetch fault parks every lane at its PC (21 R386). -/
def State.fetchFault (s : State) (code : Nat) : State := runLanes (fun s _ _ t => (s, .park code accFetch t.pc)) s

/-- A word that no instruction has: the illegal-instruction trap in every lane (03 R62 check 2). -/
def State.illegalWord (s : State) : State := runLanes (fun s _ _ _ => (s, .trap trapIllegal 0 0)) s

/-- After an instruction: the thread of a single step stops (21 R398), unless the instruction still waits for a port, a row group has executed, and the drill issues again in the next
cycle at the earliest, later by the extra cycles of the banks (03 R53, 09 R200). -/
def State.endIssue (s : State) (c slot extra : Nat) : State :=
  match tget (s.core c).drills slot with
  | none => s
  | some d =>
    let done := d.lanes.filter fun r => !s.cur.lanes.isEmpty && (d.single || d.group.isSome) && ((s.thread? r).map Thread.stepping).getD false
    let s1 := s.modCore c fun k => { k with drills := tmod k.drills slot fun d => { d with group := none, ready := s.cycle + 1 + extra } }
    s1.stopAll done

/-- A list of threads without its repeats: a drill has each thread in one lane (01 R23). -/
def distinctRefs : List Ref → List Ref
  | [] => []
  | r :: t => if t.contains r then distinctRefs t else r :: distinctRefs t

/-- What is known of an instruction before it executes: core, slot, word, lanes, and whether a completed rendezvous issued it. -/
def State.withCur (s : State) (c slot : Nat) (w : Word) (d : Drill) : State :=
  { s with cur := { core := c, slot := slot, word := w, lanes := distinctRefs d.lanes, group := d.group.isSome } }

/-- End an outcome. -/
def endOutcome (c slot extra : Nat) : Host.Outcome State Fault Refusal → Host.Outcome State Fault Refusal
  | .next s => .next (s.endIssue c slot extra)
  | .fault f => .fault f
  | .refused r => .refused r

/-- Execute a fetched word over the lanes of the drill that stands in cur. -/
def State.execWord (s : State) (w : Word) : Host.Outcome State Fault Refusal :=
  match decodeWord w with
  | .error _ => .next s.illegalWord
  | .ok i => exec i s

/-- The extra cycles of a fetched word over the lanes of a drill, before it executes (03 R53, 09 R200). -/
def State.wordDelay (s : State) (w : Word) (l : List Ref) : Nat :=
  match decodeWord w with
  | .error _ => 0
  | .ok i => s.extraCycles i l

/-- Execute a word over the lanes of a drill, or take the fault of its fetch. -/
def State.runWord (s : State) (c slot : Nat) (d : Drill) : GroupWord → Host.Outcome State Fault Refusal
  | .fault code => .next (((s.withCur c slot 0 d).fetchFault code).endIssue c slot 0)
  | .word w => endOutcome c slot (s.wordDelay w d.lanes) ((s.withCur c slot w d).execWord w)

/-- Fetch and execute the next instruction of a drill; a fetch that is held for want of a port is made again later (23 R410). -/
def State.issueWord (s : State) (c slot : Nat) (d : Drill) (r : Ref) : Host.Outcome State Fault Refusal :=
  match s.fetch r with
  | (s1, .error code) => if code = fcNoPort then .next s1 else s1.runWord c slot d (.fault code)
  | (s1, .ok w) => s1.runWord c slot d (.word w)

/-- A drill picked for this cycle may issue: it was formed in an earlier one, or a rendezvous or a single step formed it to issue now, and
the delays of its last instruction are over (03 R53, 09 R200). -/
def Drill.mayIssue (d : Drill) (now : Nat) : Bool := (decide (d.formed < now) || d.single || d.group.isSome) && decide (d.ready ≤ now)

/-- Lanes that stop leave the drill, and the others execute its next instruction. -/
def State.issueNext (s : State) (c slot : Nat) (d0 : Drill) : Host.Outcome State Fault Refusal :=
  let s1 := s.stopLanes d0.lanes
  match tget (s1.core c).drills slot with
  | none => .next s1
  | some d => match d.lanes with
    | [] => .next s1
    | r :: _ => s1.issueWord c slot d r

/-- Issue from a drill slot. A row group executes the word fetched when its rendezvous completed; its threads were tested against the comparators when
they came to the row instruction (07 R149, 21 R395). -/
def State.issueDrill (s : State) (c slot : Nat) : Host.Outcome State Fault Refusal :=
  match tget (s.core c).drills slot with
  | none => .next s
  | some d =>
    if !d.mayIssue s.cycle then .next s
    else match d.group with
      | some w => s.runWord c slot d w
      | none => s.issueNext c slot d

/-! ## The step that comes next (log 2) -/

/-- The steps that are due by themselves, each standing for the step of the opcode table with its name. -/
inductive Due where
  | issueCycle
  | formDrill (core : Nat)
  | furrowAgeEligible (core : Nat) (furrow : Nat)
  | rowRendezvousComplete (tag : Nat) (row : Nat)
  | rowGroupExecute (tag : Nat) (row : Nat)
  | tokenRead (sow : Nat)
  | placeTract
  | quantumExpiry (tract : Nat)
  | sleepCandidateTimer (tract : Nat)
  | swapOut (tract : Nat)
  | swapIn (tract : Nat)
  | plotRetire (tag : Nat)
  | sowingComplete (sow : Nat)
  | threadWake (tag : Nat) (tid : Nat)
  | pauseExpiry (tag : Nat) (tid : Nat)
  | waitwRecheck (tag : Nat) (tid : Nat)
  | barpComplete (tag : Nat)
  | barcComplete (sow : Nat) (com : Nat)
  | loadReturn (id : Nat)
  | storeAck (id : Nat)
  | regionWindowEnd (die : Nat) (line : Nat)
  | regionMigrate (die : Nat) (line : Nat)
  | regionMerge (die : Nat) (line : Nat)
  | lpwFadeTick (ctx : Nat) (n : Nat)
  | glean (id : Nat)
  | viewAtomic (id : Nat)
  | faratAtomic (id : Nat)
  | reservationExpiry (tag : Nat) (tid : Nat)
  | barrierArrive (id : Nat)
  | landArrive (id : Nat)
  | landAnswer (id : Nat)
  | slotLapse (core : Nat) (slot : Nat)
  | frontEndTakePacket (q : Nat)
  | launch (q : Nat)
  | nopPacket (q : Nat)
  | tokenSignal (q : Nat)
  | queueCopyHandoff (q : Nat)
  | qpostRingRoom (id : Nat)
  | copy (id : Nat)
  | quantisingCopy (id : Nat)
  | conditionalCopy (id : Nat)
  | peerCopy (id : Nat)
  | copyComplete (id : Nat)
  | mmaStreamStart (core : Nat) (arr : Nat)
  | mmaStreamEnd (core : Nat) (arr : Nat)
  | mdrainRun (core : Nat) (arr : Nat)
  | mdrainComplete (core : Nat) (arr : Nat)
  | mzeroTurn (core : Nat) (arr : Nat)
  | apipeStart (core : Nat)
  | apipeComplete (core : Nat)
  | faultRecordFlush (ctx : Nat)
  | parkingBudgetExpiry (tract : Nat)
  | faultService (ctx : Nat)
  | mailboxAccept
  | d2hPost
  | selfTestRecord
  | attestation
  | certificates
  | contextRegister
  | contextUnregister
  | queueRegister
  | queueUnregister
  | pinChange
  | lazyAdd
  | discard
  | unfreeze
  | apertureSet
  | peerWindowSet
  | linkKeyRotate
  | memoryKeyRotate
  | errorLogRead
  | debugMessage
  | oRemapRelease (dst : Nat)
  | destUnreachable (dst : Nat)
  | relayForward (id : Nat)
  deriving DecidableEq, Repr

/-- Run a step that is due. -/
def State.runDue (s : State) : Due → Result
  | .issueCycle => execIssueCycle s
  | .formDrill core => execFormDrill core s
  | .furrowAgeEligible core furrow => execFurrowAgeEligible core furrow s
  | .rowRendezvousComplete tag row => execRowRendezvousComplete tag row s
  | .rowGroupExecute tag row => execRowGroupExecute tag row s
  | .tokenRead sow => execTokenRead sow s
  | .placeTract => execPlaceTract s
  | .quantumExpiry tract => execQuantumExpiry tract s
  | .sleepCandidateTimer tract => execSleepCandidateTimer tract s
  | .swapOut tract => execSwapOut tract s
  | .swapIn tract => execSwapIn tract s
  | .plotRetire tag => execPlotRetire tag s
  | .sowingComplete sow => execSowingComplete sow s
  | .threadWake tag tid => execThreadWake tag tid s
  | .pauseExpiry tag tid => execPauseExpiry tag tid s
  | .waitwRecheck tag tid => execWaitwRecheck tag tid s
  | .barpComplete tag => execBarpComplete tag s
  | .barcComplete sow com => execBarcComplete sow com s
  | .loadReturn id => execLoadReturn id (.value 0 []) s
  | .storeAck id => execStoreAck ⟨id, .done⟩ s
  | .regionWindowEnd die line => execRegionWindowEnd ⟨die, line⟩ s
  | .regionMigrate die line => execRegionMigrate ⟨die, line⟩ s
  | .regionMerge die line => execRegionMerge ⟨die, line⟩ s
  | .lpwFadeTick ctx n => execLpwFadeTick ctx n s
  | .glean id => execGlean id s
  | .viewAtomic id => execViewAtomic id s
  | .faratAtomic id => execFaratAtomic id s
  | .reservationExpiry tag tid => execReservationExpiry tag tid s
  | .barrierArrive id => execBarrierArrive id s
  | .landArrive id => execLandArrive id s
  | .landAnswer id => execLandAnswer id s
  | .slotLapse core slot => execSlotLapse core slot s
  | .frontEndTakePacket q => execFrontEndTakePacket q s
  | .launch q => execLaunch q s
  | .nopPacket q => execNopPacket q s
  | .tokenSignal q => execTokenSignal q s
  | .queueCopyHandoff q => execQueueCopyHandoff q s
  | .qpostRingRoom id => execQpostRingRoom id s
  | .copy id => execCopy id s
  | .quantisingCopy id => execQuantisingCopy id s
  | .conditionalCopy id => execConditionalCopy id s
  | .peerCopy id => execPeerCopy id s
  | .copyComplete id => execCopyComplete id s
  | .mmaStreamStart core arr => execMmaStreamStart core arr s
  | .mmaStreamEnd core arr => execMmaStreamEnd core arr s
  | .mdrainRun core arr => execMdrainRun core arr s
  | .mdrainComplete core arr => execMdrainComplete core arr s
  | .mzeroTurn core arr => execMzeroTurn core arr s
  | .apipeStart core => execApipeStart core s
  | .apipeComplete core => execApipeComplete core s
  | .faultRecordFlush ctx => execFaultRecordFlush ctx s
  | .parkingBudgetExpiry tract => execParkingBudgetExpiry tract s
  | .faultService ctx => execFaultService ⟨ctx, false⟩ s
  | .mailboxAccept => execMailboxAccept s
  | .d2hPost => execD2hPost s
  | .selfTestRecord => execSelfTestRecord s
  | .attestation => execAttestation s
  | .certificates => execCertificates s
  | .contextRegister => execContextRegister s
  | .contextUnregister => execContextUnregister s
  | .queueRegister => execQueueRegister s
  | .queueUnregister => execQueueUnregister s
  | .pinChange => execPinChange s
  | .lazyAdd => execLazyAdd s
  | .discard => execDiscard s
  | .unfreeze => execUnfreeze s
  | .apertureSet => execApertureSet s
  | .peerWindowSet => execPeerWindowSet s
  | .linkKeyRotate => execLinkKeyRotate s
  | .memoryKeyRotate => execMemoryKeyRotate s
  | .errorLogRead => execErrorLogRead s
  | .debugMessage => .next s.debugMessage
  | .oRemapRelease dst => execORemapRelease dst s
  | .destUnreachable dst => execDestUnreachable dst s
  | .relayForward id => execRelayForward id s

/-- The step of an operation of the mailbox (23 Table 23.5). -/
def opEvent (op : Nat) : Option Due :=
  match op with
  | 0x01 => some .selfTestRecord
  | 0x02 => some .attestation
  | 0x03 => some .certificates
  | 0x10 => some .contextRegister
  | 0x11 => some .contextUnregister
  | 0x12 => some .queueRegister
  | 0x13 => some .queueUnregister
  | 0x14 => some .pinChange
  | 0x15 => some .lazyAdd
  | 0x16 => some .discard
  | 0x17 => some .debugMessage
  | 0x18 => some .unfreeze
  | 0x19 => some .apertureSet
  | 0x20 => some .peerWindowSet
  | 0x21 => some .linkKeyRotate
  | 0x22 => some .memoryKeyRotate
  | 0x30 => some .errorLogRead
  | _ => none

/-- A step where a condition holds. -/
def whenTrue (b : Bool) (d : Due) : Option Due := if b then some d else none

/-- The mailbox's next step. -/
def State.mailEvent (s : State) : Option Due :=
  match s.steward.current.filter fun m => !s.opHeld m with
  | some m => opEvent (msgOp m)
  | none =>
    if !s.steward.posts.isEmpty ∧ s.postRoom then some .d2hPost
    else if s.acceptReady then some .mailboxAccept
    else none

/-- The next step of a memory request of this device, when its turn has come. -/
def State.reqEvent (s : State) (id : Nat) (q : Req) : Option Due :=
  match q.op, q.stage with
  | .fence m, _ => whenTrue (s.fenceReady id q.ref m) (.storeAck id)
  | op, .performed _ => if op.countsSt then some (.storeAck id) else some (.loadReturn id)
  | .atom _ _, .gleaner => whenTrue (s.gleanReady id q) (.viewAtomic id)
  | _, .gleaner => whenTrue (s.gleanReady id q) (.glean id)
  | _, .hbm => whenTrue (s.mayPerform id q) (.faratAtomic id)
  | _, .remote _ _ => none
  | op, _ => whenTrue (s.mayPerform id q) (if op.countsLd then .loadReturn id else .storeAck id)

/-- A LAND can be answered: at its slot, or at another device, once it has been sent or that device is cut off. -/
def State.landReady (s : State) (id : Nat) (l : Land) : Bool :=
  s.landTurn id l && (l.dev == s.device || s.cut l.dev || l.dev == s.locked.hostDev || l.via != .held)

/-- The next step of a LAND. -/
def State.landEvent (s : State) (id : Nat) (l : Land) : Option Due :=
  if l.answered.isSome then some (.landAnswer id) else whenTrue (s.landReady id l) (.landArrive id)

/-- The next step of a copy. -/
def State.copyNext (s : State) (id : Nat) (c : CopyCmd) : Option Due :=
  if c.finished then whenTrue (s.recordReady c) (.copyComplete id)
  else if s.copyReady id c then
    (match ccKind c.raw with
      | 3 => some (.quantisingCopy id)
      | 4 => some (.conditionalCopy id)
      | 5 => some (.peerCopy id)
      | _ => some (.copy id))
  else none

/-- A QPOST can go on: it has no slot yet, or its ring has room. -/
def State.qpostReady (s : State) (q : QPost) : Bool :=
  q.paused.isNone && !q.held && match q.slot with
    | none => true
    | some n => match (s.qpostHeader q).2 with
      | .error _ => true
      | .ok (h, g) => ringRoom h g n q.slots

/-- A command of an array of a core can end. -/
def State.arrayEnd (s : State) (core arr : Nat) : Option Due :=
  if (s.engStarted core arr .mma).isSome then some (.mmaStreamEnd core arr)
  else if (s.engStarted core arr .mdrain).isSome then some (.mdrainComplete core arr)
  else whenTrue (s.engStarted core arr .mzero).isSome (.mzeroTurn core arr)

/-- A command of an array of a core can start. -/
def State.arrayStart (s : State) (core arr : Nat) : Option Due :=
  if (s.engPick core fun c => c.kind == .mzero && c.arr == arr && c.stage == .queued).isSome then some (.mzeroTurn core arr)
  else if (s.engPick core fun c => c.kind == .mdrain && c.arr == arr && c.stage == .queued).isSome then some (.mdrainRun core arr)
  else whenTrue (s.engPick core fun c => c.kind == .mma && c.arr == arr && c.stage == .queued).isSome (.mmaStreamStart core arr)

/-- A command of a core's attention engine can end, begin its second sweep, or go on after its fault. -/
def State.pipeEnd (s : State) (core : Nat) : Option Due :=
  if (s.apResumed core).isSome then some (.apipeStart core)
  else (s.apStreamed core).map fun x => if x.2.moreSweeps then .apipeStart core else .apipeComplete core

/-- A command of a core's attention engine can start. -/
def State.pipeStart (s : State) (core : Nat) : Option Due :=
  whenTrue (s.engPick core s.apMayStart).isSome (.apipeStart core)

/-- The next step of what the engines of a plot's core have begun. -/
def State.engEnd (s : State) (p : Plot) : Option Due :=
  ((s.arrayEnd p.core 0).orElse fun _ => s.arrayEnd p.core 1).orElse fun _ => s.pipeEnd p.core

/-- The next step of the engines of a plot's core. -/
def State.engEvent (s : State) (p : Plot) : Option Due :=
  if p.engq.isEmpty then none
  else (((s.engEnd p).orElse fun _ => s.arrayStart p.core 0).orElse fun _ => s.arrayStart p.core 1).orElse fun _ => s.pipeStart p.core

/-- The next step of the engines of a leaving tract's plot: what has begun ends, and what has not begins only where the swap pool has no
room for its record (17 R355, 21 R391). -/
def State.leavingEvent (s : State) (p : Plot) : Option Due :=
  match tget s.tracts p.tract with
  | none => none
  | some t =>
    if !t.leaving || p.engq.isEmpty then none
    else match s.engEnd p with
      | some d => some d
      | none => match tget s.sowings t.sow with
        | some w => if (s.poolRoom w.ctx p.tract (s.imageSize p.tract t w)).isSome then none else s.engEvent p
        | none => none

/-- The end of a thread's sleep. -/
def State.sleepEvent (s : State) (r : Ref) (t : Thread) : Option Due :=
  match t.place with
  | .headland (.sleep _) =>
    if s.wakes r then some (.threadWake r.tag r.tid)
    else if s.pauseOver r then some (.pauseExpiry r.tag r.tid)
    else whenTrue (s.watchDue r) (.waitwRecheck r.tag r.tid)
  | _ => none

/-- Home rows of a plot. -/
def Plot.rows (p : Plot) : List Nat := List.range ((p.size + 63) / 64)

/-- The next step of a row of a plot; a rendezvous whose words cannot be fetched yet waits (23 R410). -/
def State.rowEvent (s : State) (tag : Nat) (p : Plot) (row : Nat) : Option Due :=
  match p.firstGroup row with
  | some g => whenTrue (s.groupReady tag g && (tfree (s.core p.core).drills 0 256).isSome) (.rowGroupExecute tag row)
  | none => whenTrue (p.rowComplete row && allFetched (s.fetchGroups p.core p.ctx (p.rowGroups row)).2) (.rowRendezvousComplete tag row)

/-- The next step of a plot. -/
def State.plotEvent (s : State) (tag : Nat) (p : Plot) : Option Due :=
  if s.retireReady tag p then some (.plotRetire tag)
  else if !s.plotPlaced tag then s.leavingEvent p
  else if p.barpReady then some (.barpComplete tag)
  else
    (s.engEvent p).orElse fun _ =>
      (p.threads.findSome? fun (i, t) => s.sleepEvent ⟨tag, i⟩ t).orElse fun _ => p.rows.findSome? (s.rowEvent tag p)

/-- The front end finds something to do at a queue: a packet, or a fault. -/
def State.packetThere (s : State) (x : Queue) : Bool :=
  match (s.queueHeader x).2 with
  | .error _ => true
  | .ok h => match (s.anyRead 128 x.ctx (x.slotVa h (bits h 127 64)) 8 accLoad).2 with
    | .error _ => true
    | .ok l => leNat l % 256 != 0 && bits (leNat l) 63 48 == bits h 127 64 % 65536

/-- The next step of a queue. -/
def State.queueEvent (s : State) (q : Nat) (x : Queue) : Option Due :=
  if (x.taken fun k => k == 1).isSome then some (.launch q)
  else if (x.taken fun k => k == 7).isSome then some (.nopPacket q)
  else match x.taken fun k => k == 6 with
    | some p => whenTrue (x.signalReady p) (.tokenSignal q)
    | none =>
      if (x.taken fun k => decide (2 ≤ k) && decide (k ≤ 5)).isSome then whenTrue (decide (s.queueCopies < 256)) (.queueCopyHandoff q)
      else if x.waitRec.isSome || x.held || x.frozen || s.hostFrozen then none
      else match x.packet with
        | none => whenTrue (s.packetThere x) (.frontEndTakePacket q)
        | some p => match p.stage with
          | .read => some (.frontEndTakePacket q)
          | .cleared => some (.frontEndTakePacket q)
          | .taken => none
          | .launched => none

/-- The next step of a sowing. -/
def State.sowEvent (s : State) (n : Nat) (w : Sowing) : Option Due :=
  if w.ends then some (.sowingComplete n)
  else if s.tokenDue w then some (.tokenRead n)
  else (w.barc.find? fun (c, _) => s.barcReady n c).map fun x => .barcComplete n x.1

/-- The next step of a tract. -/
def State.tractEvent (s : State) (n : Nat) (t : Tract) : Option Due :=
  if s.leaveReady n t then some (.swapOut n)
  else if s.budgetOver n t then some (.parkingBudgetExpiry n)
  else if s.quantumReady t then some (.quantumExpiry n)
  else whenTrue (s.sleepTimer n t).isSome (.sleepCandidateTimer n)

/-- The distributor's next step. -/
def State.placeEvent (s : State) : Option Due :=
  match s.choice with
  | .nothing => none
  | .place ⟨_, none⟩ _ => some .placeTract
  | .place ⟨_, some m⟩ _ => whenTrue (s.imageThere m) (.swapIn m)
  | .swap v _ => some (.swapOut v)

/-- The steward can take the next record of a context: it is there, and RIX can be written. -/
def State.serviceReady (s : State) (ctx : Nat) (c : Ctx) : Bool :=
  !c.svcHeld && (match (s.nextRec c ctx).2 with | some n => !((tget c.recs n).map (s.lazyHeld ctx)).getD false | none => false) &&
    match (s.xlate 128 ctx (c.frqh.toNat + 8) accEngWrite).2 with
    | .ok e => !e.view
    | .error _ => false

/-- A millisecond of an armed window is over (09 R193). -/
def State.fadeDue (s : State) (c : Ctx) (n : Nat) : Bool := armed (c.lpwc.getD n 0) && c.tickDue n s.time

/-- The next step of a context. -/
def State.ctxEvent (s : State) (ctx : Nat) (c : Ctx) : Option Due :=
  let room := match (s.recSlot ctx).2 with | .ok (some _) => true | _ => false
  if !c.heldRecs.isEmpty && room then some (.faultRecordFlush ctx)
  else if s.serviceReady ctx c then some (.faultService ctx)
  else ((List.range 16).find? (s.fadeDue c)).map fun n => .lpwFadeTick ctx n

/-- A line that a region covers. -/
def regionLine (k : Nat) (e : Region) : Option Nat :=
  ((List.range e.lines).map fun i => keyFirst k + i).find? fun y => (homeAt 0 y).l2 == keySlice k

/-- The next step of a region. -/
def State.regionEvent (s : State) (k : Nat) (e : Region) : Option Due :=
  match regionLine k e with
  | none => none
  | some y =>
    if e.pending.isSome then some (.regionMigrate (keyDie k) y)
    else if e.start + 4096 ≤ s.cycle then some (.regionWindowEnd (keyDie k) y)
    else whenTrue (s.mergeWith k e).isSome (.regionMerge (keyDie k) y)

/-- A destination to be declared unreachable: of a request, of a LAND, of a peer copy that is held, or one whose last port has gone (23 R410). -/
def State.unreachableNow (s : State) : Option Nat :=
  ((s.reqs.filterMap fun (x : Nat × Req) => x.2.dst?) ++
    ((s.lands.filter fun (x : Nat × Land) => x.2.answered.isNone).map fun (x : Nat × Land) => x.2.dev) ++
    ((s.copies.filter fun (x : Nat × CopyCmd) => x.2.stage == .held && ccKind x.2.raw == 5).map
      fun (x : Nat × CopyCmd) => ccDev x.2.raw) ++
    s.fabric.emptySince.map Prod.fst).find? s.emptyLong

/-- The next step of the fabric. -/
def State.fabricEvent (s : State) : Option Due :=
  match s.fabric.remap.find? fun d => !s.sentO d with
  | some d => some (.oRemapRelease d)
  | none => match s.unreachableNow with
    | some d => some (.destUnreachable d)
    | none => (s.fabric.relays.find? fun (_, r) => (s.aPort r.dst).isSome).map fun x => .relayForward x.1

/-- The next step of a core: a slot that lapses, a furrow that comes of age, a drill to form. -/
def State.coreEvent (s : State) (c : Nat) (k : Core) : Option Due :=
  match k.slots.find? fun (_, x) => x.state == .live && decide (x.expiry ≤ s.time) with
  | some (n, _) => some (.slotLapse c n)
  | none => match k.furrows.find? fun (_, f) => f.comesOfAge s.cycle with
    | some (n, _) => some (.furrowAgeEligible c n)
    | none => whenTrue (s.canForm c) (.formDrill c)

/-- The first step among what is under way; arrivals before the operations of threads at barriers (11 R244). -/
def State.workEvent (s : State) : Option Due :=
  ((s.arrivals.find? fun (_, x) => s.arrivalReady x).map fun x => Due.barrierArrive x.1).orElse fun _ =>
  (s.reqs.findSome? fun (id, q) => s.reqEvent id q).orElse fun _ =>
  (s.lands.findSome? fun (id, l) => s.landEvent id l).orElse fun _ =>
  (s.copies.findSome? fun (id, c) => s.copyNext id c).orElse fun _ =>
  ((s.qposts.find? fun (_, q) => s.qpostReady q).map fun x => Due.qpostRingRoom x.1).orElse fun _ =>
  s.plots.findSome? fun (tag, p) => s.plotEvent tag p

/-- The first step among queues, placement and records. -/
def State.deviceEvent (s : State) : Option Due :=
  (s.queues.findSome? fun (q, x) => s.queueEvent q x).orElse fun _ =>
  (s.sowings.findSome? fun (n, w) => s.sowEvent n w).orElse fun _ =>
  (s.tracts.findSome? fun (n, t) => s.tractEvent n t).orElse fun _ =>
  s.placeEvent.orElse fun _ =>
  (s.ctxs.findSome? fun (n, c) => s.ctxEvent n c).orElse fun _ =>
  ((s.reservations.find? fun v => v.peer.isNone && decide (v.made + 4096 ≤ s.cycle)).map fun v => Due.reservationExpiry v.ref.tag v.ref.tid).orElse fun _ =>
  (s.regionDir.findSome? fun (k, e) => s.regionEvent k e).orElse fun _ =>
  s.fabricEvent

/-- The step that comes next when no input stands first: what is due now in a fixed order, else the next cycle (log 2). In the fallow
state only the mailbox works (23 R429). -/
def State.autoEvent (s : State) : Due :=
  match s.mailEvent with
  | some i => i
  | none =>
    if s.fallow then .issueCycle
    else match s.workEvent with
      | some i => i
      | none => match s.deviceEvent with
        | some i => i
        | none => (s.cores.findSome? fun (c, k) => s.coreEvent c k).getD .issueCycle

/-- Steps that come about in the fallow state (23 R429): the mailbox, the host's accesses, a reset, the passing of time. -/
def inFallow (i : Instr) : Bool :=
  match i with
  | .h2dDoorbell _ => true
  | .mailboxWrite _ _ => true
  | .mailboxAccept => true
  | .d2hPost => true
  | .selfTestRecord => true
  | .hostAccess _ => true
  | .powerOn _ => true
  | .deviceReset _ => true
  | .issueCycle => true
  | _ => false

/-! ## Placing one instruction (log 19) -/

/-- The role that may execute an instruction (01 R17). -/
def wantsRole (i : Instr) : Role :=
  match i with
  | .cpost _ _ => .copy
  | .qpost _ _ _ => .copy
  | .mma _ _ => .matrix
  | .mmac _ _ => .matrix
  | .mwaitb _ => .matrix
  | .mdrain _ _ => .matrix
  | .mzero _ _ _ => .matrix
  | .mstat _ _ _ => .matrix
  | .apipe _ _ => .matrix
  | _ => .vector

/-- Instructions of the supervisor handler (21 R376, R378, R384, R385). -/
def wantsSup (i : Instr) : Bool :=
  match i with
  | .eret => true
  | .tlbinv _ _ => true
  | .seedset _ => true
  | .swrFpark _ => true
  | .srd _ n => !srdLegal n.val false
  | .swr _ n => !swrLegal n.val false
  | _ => false

/-- The page that holds a placed instruction. -/
def placedPage (dev : Nat) : TbEntry :=
  { ctx := 1, vbase := 0x10000, size := 4096, frame := dev * 2 ^ 42 + 0x10000, tid := 0, vpage := 0, w := true, x := true, view := false,
    farat := false, home := 0, own := 0, priv := false, keyv := 0 }

/-- The thread that executes a placed instruction: 64 registers, in a drill. -/
def placedThread (sup : Bool) : Thread :=
  { (Thread.launched 64 0 0x10000).withSup sup with place := .drill 0 }

/-- The plot of that thread. -/
def placedPlot (role : Role) (t : Thread) : Plot :=
  { tract := 0, sow := 0, ctx := 1, entry := 0x10000, index := 0, core := 0, copyN := if role = .copy then 64 else 0,
    matN := if role = .matrix then 64 else 0, k := List.replicate 12 0, spadBase := 0, spadLen := 4096, spad := [], threads := [(0, t)], barp := [],
    batch := [], tiles := [], tsw := [0, 0, 0, 0], barEdges := [], barActed := [], relTags := [], groups := [], engq := [], frozen := false, retired := false }

/-- The tract of that plot. -/
def placedTract : Tract :=
  { sow := 0, index := 0, cores := [0], resident := true, leaving := false, placedAt := 0, quantumOver := false, sleepSince := none,
    sleepCand := false, yielded := false, budget := none, overBudget := false, frozen := false, still := false, order := 0, image := 0,
    imageLen := 0, sel := 1 }

/-- Its context: one that holds nothing beside the page. -/
def placedCtx : Ctx := { ctxOf 0 with ctxid := 1, pbud := 50 }

/-- The state with an instruction where the next step fetches: the device runs, one thread in the one drill of core 0 stands at it, and
the drill is picked. -/
def State.placeWord (s : State) (w : Word) : State :=
  let i := (decodeWord w).toOption
  let role := (i.map wantsRole).getD .vector
  let sup := (i.map wantsSup).getD false
  let k := s.core 0
  { s with
    mbox := { s.mbox with state := 1 }
    mem := mwrites s.mem 0x10000 (natLe 4 w.toNat)
    poison := s.poison.filter fun y => y != lineOf 0x10000
    cycle := s.cycle + 1
    cores := tput s.cores 0 { k with drills := tput k.drills 0 { lanes := [⟨0, 0⟩], formed := s.cycle, ready := s.cycle, single := false, group := none }, icache := [], tb := placedPage s.device :: k.tb }
    ctxs := tput s.ctxs 1 placedCtx
    tracts := tput s.tracts 0 placedTract
    plots := tput s.plots 0 (placedPlot role (placedThread sup))
    issueQ := [(0, 0)] }

end Sys2Proof.Machine
end

