-- ==== Sys2Proof/Machine/Step.lean ====
section
/-! DEFINITION. One step of the machine: an instruction of a drill picked for this cycle, else the next input of the agenda, else the step
of the device that is due (logs 1 to 3). -/

namespace Sys2Proof.Machine

/-- One step. -/
def step (s : State) : Host.Outcome State Fault Refusal :=
  match s.issueQ with
  | (c, slot) :: t => State.issueDrill { s with issueQ := t } c slot
  | [] => match s.agenda with
    | i :: t =>
      if !i.isEvent then .fault .agendaNotAStep
      else if s.fallow && !inFallow i then .next { s with agenda := t }
      else exec i { s with agenda := t }
    | [] => s.runDue s.autoEvent

/-- The state with an instruction stored where step fetches its next one (log 19). -/
def State.withFetchWord (s : State) (nbits w : Nat) : State := s.placeWord (BitVec.ofNat 32 (w % 2 ^ nbits))

end Sys2Proof.Machine
end

