-- ==== Sys2Proof/Safety.lean ====
section
/-! DEFINITION. What counts as a safe run, and the terms in which statements are made: which threads change and how, which bytes of
memory and scratchpad change, and what an instruction on registers computes. -/

namespace Sys2Proof.Machine

/-! ## Runs -/

/-- An outcome that is a next state. -/
def goesOn : Host.Outcome State Fault Refusal → Prop
  | .next _ => True
  | .fault _ => False
  | .refused _ => False

/-- The agenda holds steps of the device only. -/
def State.agendaOk (s : State) : Prop := ∀ i ∈ s.agenda, i.isEvent = true

/-- Every memory of the machine has its canonical form: device memory, the scratchpads of the plots, the pin areas of the cores. -/
def State.memoriesOk (s : State) : Prop :=
  Memory.wf s.mem = true ∧ (∀ x ∈ s.plots, Memory.wf x.2.spad = true) ∧ ∀ x ∈ s.cores, Memory.wf x.2.pin = true

/-! ## What changes -/

/-- From s to t only the threads in L change, each by f, which is given the thread's plot: all else is as it was. -/
structure ChangesOn (L : List Ref) (s t : State) (f : Ref → Plot → Thread → Thread) : Prop where
  frame : t = { s with plots := t.plots }
  plot : ∀ n p, tget s.plots n = some p → ∃ q, tget t.plots n = some q ∧ q = { p with threads := q.threads } ∧
    ∀ i, tget q.threads i = (tget p.threads i).map fun th => if (⟨n, i⟩ : Ref) ∈ L then f ⟨n, i⟩ p th else th
  gone : ∀ n, tget s.plots n = none → tget t.plots n = none

/-- A byte of device memory, or of the pin area of a core (09 R199). -/
def State.placeByte (s : State) (own : Option Nat) (a : Nat) : Byte :=
  match own with | none => mget s.mem a | some c => mget (s.core c).pin a

/-- Every byte of device memory and of the pin areas reads as before. -/
def MemorySame (s t : State) : Prop := ∀ own a, t.placeByte own a = s.placeByte own a

/-- Every byte of device memory and of the pin areas outside a range of one of them reads as before. -/
def MemorySameBut (s t : State) (own : Option Nat) (a n : Nat) : Prop :=
  ∀ o x, ¬(o = own ∧ a ≤ x ∧ x < a + n) → t.placeByte o x = s.placeByte o x

/-- A byte of a plot's scratchpad. -/
def State.spadByte (s : State) (tag x : Nat) : Byte := match tget s.plots tag with | some p => mget p.spad x | none => 0

/-- Every byte of every scratchpad reads as before. -/
def SpadsSame (s t : State) : Prop := ∀ tag x, t.spadByte tag x = s.spadByte tag x

/-- Every byte of every scratchpad outside a range of one of them reads as before. -/
def SpadsSameBut (s t : State) (tag a n : Nat) : Prop := ∀ g x, ¬(g = tag ∧ a ≤ x ∧ x < a + n) → t.spadByte g x = s.spadByte g x

/-- Every thread but one is as before. -/
def OthersSame (s t : State) (r : Ref) : Prop := ∀ q, q ≠ r → t.thread? q = s.thread? q

/-- Only memory with what is kept of it (caches, directories, reservations, watched words, translations, pinned windows), the requests and LANDs on
their way, the plots, what ports send and the model's counters changed: every table of work, every queue and engine command, the rest of the
fabric, the mailbox and the steward are as before. -/
def MemoryOnly (s t : State) : Prop :=
  t = { s with mem := t.mem, sown := t.sown, unsownReads := t.unsownReads, lineKey := t.lineKey, poison := t.poison, l2 := t.l2,
               llc := t.llc, lineDir := t.lineDir, regionDir := t.regionDir, reservations := t.reservations, relTags := t.relTags,
               watches := t.watches, cores := t.cores, plots := t.plots, ctxs := t.ctxs, reqs := t.reqs, lands := t.lands,
               fabric := { s.fabric with ports := t.fabric.ports }, freeCtr := t.freeCtr, nextId := t.nextId }

/-! ## Instructions on registers -/

/-- The guard of a TR instruction: always, or a predicate of p1 to p7. -/
def guardTR (g : Fin 8) (t : Thread) : Bool := g.val == 0 || t.preds.getLsbD g.val

/-- The guard of a CTL instruction. -/
def guardY (g : Fin 128) (t : Thread) : Bool := g.val == 0 || t.preds.getLsbD g.val

/-- No guard. -/
def always (_ : Thread) : Bool := true

/-- Every lane whose guard holds has the operands in range. -/
def InRange (s : State) (guard : Thread → Bool) (ops : List (Reg × Nat)) : Prop :=
  ∀ r ∈ s.cur.lanes, ∀ th, s.thread? r = some th → guard th = true → th.inRanges ops = true

/-- An instruction on registers over a drill whose operands are in range: it completes, each lane whose guard holds becomes what eff
gives, every lane goes on at PC + 4, and nothing else changes. -/
def Computes (i : Instr) (guard : Thread → Bool) (ops : List (Reg × Nat)) (eff : Env → Thread → Thread) : Prop :=
  ∀ s : State, s.cur.lanes.Nodup → InRange s guard ops →
    ∃ t, exec i s = .next t ∧ ChangesOn s.cur.lanes s t fun r p th =>
      { (if guard th then eff { k := p.k, tid := r.tid, cycle := s.cycle } th else th) with pc := th.pc + 4 }

/-- D := f A B. -/
def Op2 (i : Reg → Reg → Reg → Fin 8 → Instr) (f : Word → Word → Word) : Prop := ∀ d a b g,
  Computes (i d a b g) (guardTR g) [(d, 1), (a, 1), (b, 1)] fun e t => t.wr32 d (f (t.rd32 e a) (t.rd32 e b))

/-- D := f A B D. -/
def Op3 (i : Reg → Reg → Reg → Fin 8 → Instr) (f : Word → Word → Word → Word) : Prop := ∀ d a b g,
  Computes (i d a b g) (guardTR g) [(d, 1), (a, 1), (b, 1)] fun e t => t.wr32 d (f (t.rd32 e a) (t.rd32 e b) (t.rd32 e d))

/-- D := f A. -/
def Op1 (i : Reg → Reg → Fin 8 → Instr) (f : Word → Word) : Prop := ∀ d a g,
  Computes (i d a g) (guardTR g) [(d, 1), (a, 1)] fun e t => t.wr32 d (f (t.rd32 e a))

/-- D := f A B on pairs. -/
def Pair2 (i : Reg → Reg → Reg → Fin 8 → Instr) (f : DWord → DWord → DWord) : Prop := ∀ d a b g,
  Computes (i d a b g) (guardTR g) [(d, 2), (a, 2), (b, 2)] fun e t => t.wr64 d (f (t.rd64 e a) (t.rd64 e b))

/-- D := f A B, D and A pairs and B a register. -/
def PairWord (i : Reg → Reg → Reg → Fin 8 → Instr) (f : DWord → Word → DWord) : Prop := ∀ d a b g,
  Computes (i d a b g) (guardTR g) [(d, 2), (a, 2), (b, 1)] fun e t => t.wr64 d (f (t.rd64 e a) (t.rd32 e b))

/-- p := c A B. -/
def Compare (i : Fin 128 → Reg → Reg → Fin 8 → Instr) (c : Word → Word → Prop) [∀ x y, Decidable (c x y)] : Prop := ∀ p a b g,
  Computes (i p a b g) (guardTR g) [(a, 1), (b, 1)] fun e t => t.setPred p.val (decide (c (t.rd32 e a) (t.rd32 e b)))

/-- p := c q r. -/
def Predicates (i : Fin 128 → Fin 128 → Fin 128 → Fin 8 → Instr) (c : Bool → Bool → Bool) : Prop := ∀ p q r g,
  Computes (i p q r g) (guardTR g) [] fun _ t => t.setPred p.val (c (t.pred q.val) (t.pred r.val))

/-- D := f IMM D. -/
def Immediate (i : Reg → BitVec 16 → Instr) (f : BitVec 16 → Word → Word) : Prop := ∀ d imm,
  Computes (i d imm) always [(d, 1)] fun e t => t.wr32 d (f imm (t.rd32 e d))

/-- D := f A B in the rounding mode of the thread, with flags. -/
def Float2 (i : Reg → Reg → Reg → Fin 8 → Instr) (f : Mode → Word → Word → Word × Nat) : Prop := ∀ d a b g,
  Computes (i d a b g) (guardTR g) [(d, 1), (a, 1), (b, 1)] fun e t => t.wrFlags d (f t.rmode (t.rd32 e a) (t.rd32 e b))

/-- D := f A in the rounding mode of the thread, with flags. -/
def Float1 (i : Reg → Reg → Fin 8 → Instr) (f : Mode → Word → Word × Nat) : Prop := ∀ d a g,
  Computes (i d a g) (guardTR g) [(d, 1), (a, 1)] fun e t => t.wrFlags d (f t.rmode (t.rd32 e a))

/-! ## Row instructions -/

/-- A row instruction that a completed rendezvous issues (07 R149): as Computes, with eff given the row and the lane. -/
def RowComputes (i : Instr) (guard : Thread → Bool) (ops : List (Reg × Nat)) (eff : RowView → Nat → Env → Thread → Thread) : Prop :=
  ∀ s : State, s.cur.group = true → s.cur.lanes.Nodup → InRange s guard ops →
    ∃ t, exec i s = .next t ∧ ChangesOn s.cur.lanes s t fun r p th =>
      { (if guard th then eff (rowView s guard ops) r.lane { k := p.k, tid := r.tid, cycle := s.cycle } th else th) with pc := th.pc + 4 }

/-- The row instructions. -/
def isRow : Instr → Bool
  | .rshf .. | .rshfx .. | .rbcast .. | .rballot .. | .rredAddi .. | .rredAddf .. | .rredMin .. | .rredMax .. | .rscani .. | .rscanf ..
  | .rany .. | .rall .. => true
  | _ => false

/-- The values of an operand in the present lanes of a row. -/
def presentValues (v : RowView) (rt : RT) (a : Reg) : List Nat := v.filterMap fun x => x.map fun (e, t) => t.rowValue e rt a

/-- The values of an operand in all lanes of a row, 0 where a lane is absent. -/
def laneValues (v : RowView) (rt : RT) (a : Reg) : List Nat := v.map fun x => match x with | some (e, t) => t.rowValue e rt a | none => 0

/-! ## One lane -/

/-- A drill of one lane: its thread, which nothing is about to stop, and its plot, whose context has no record waiting. -/
structure OneLane (s : State) (r : Ref) (p : Plot) (th : Thread) : Prop where
  lanes : s.cur.lanes = [r]
  plot : tget s.plots r.tag = some p
  thread : s.thread? r = some th
  drill : th.place = .drill s.cur.slot
  goes : th.stopsWhenFiled = false
  records : ∀ c, tget s.ctxs p.ctx = some c → c.heldRecs = []

/-- What operands read for a lane of a plot. -/
def envOf (s : State) (r : Ref) (p : Plot) : Env := { k := p.k, tid := r.tid, cycle := s.cycle }

/-- The thread has become u, and every other thread, every byte of memory and of scratchpad is as before. -/
def ThreadOnly (s t : State) (r : Ref) (u : Thread) : Prop :=
  t.thread? r = some u ∧ OthersSame s t r ∧ MemorySame s t ∧ SpadsSame s t

/-- Trap entry (21 R373): what is saved and where the thread goes; it is filed there. -/
def Thread.trapped (th : Thread) (word : Word) (tvec : DWord) (code imm : Nat) (eaddr : DWord) : Thread :=
  { th with
    epc := th.pc, ewb := BitVec.ofNat 32 th.wb, eix := th.ix, ecode := BitVec.ofNat 32 (256 * imm + code), einfo := word, eaddr := eaddr,
    tstat := th.tstat ||| 0x100, pc := tvec, place := .filed }

/-- The instruction takes a trap in its one lane, and nothing else changes. -/
def TrapsWith (i : Instr) (s : State) (r : Ref) (th : Thread) (code imm : Nat) (eaddr : DWord) : Prop :=
  ∃ t, exec i s = .next t ∧ ThreadOnly s t r (th.trapped s.cur.word (s.tvecOf r) code imm eaddr)

/-- The instruction parks its one lane at its PC, with its registers as they were. -/
def ParksIn (i : Instr) (s : State) (r : Ref) (th : Thread) : Prop :=
  ∃ t, exec i s = .next t ∧ t.thread? r = some { th with place := .headland .parked, pflt := true }

/-! ## Accesses -/

/-- Where the byte at an address is under a translation (09 Table 9.4): the pin area of a core, or device memory. -/
def State.areaOf (s : State) (e : TbEntry) (va : Nat) : Option Nat := (s.placeOf e (e.pa va)).1

/-- Its offset in the pin area, or its local address. -/
def State.offsetOf (s : State) (e : TbEntry) (va : Nat) : Nat := (s.placeOf e (e.pa va)).2

/-- An access of n bytes of an agent of a core, or of none (128), goes to an ordinary page of this device under translation e, with
nothing to walk for. -/
structure ReachesAt (s : State) (core ctx va n acc : Nat) (e : TbEntry) : Prop where
  translated : s.xlate core ctx va acc = (s, .ok e)
  ordinary : e.view = false
  here : s.away e (e.pa va) = false
  frame : s.frameIn (e.pa va) n = true
  sound : s.areaOf e va = none → s.poisonAt (e.pa va) = false

/-- The same, whatever has been written to n bytes of an area from a: the page tables used do not lie there. -/
def KeepsReaching (s : State) (own : Option Nat) (a n core ctx va k acc : Nat) (e : TbEntry) : Prop :=
  ∀ m : Mem, (∀ x, ¬(own = none ∧ a ≤ x ∧ x < a + n) → mget m x = mget s.mem x) → ReachesAt { s with mem := m } core ctx va k acc e

/-- An aligned access of a thread of a plot. -/
structure Reaches (s : State) (p : Plot) (va n acc : Nat) (e : TbEntry) : Prop where
  aligned : va % n = 0
  reaches : ReachesAt s p.core p.ctx va n acc e

/-- n bytes from an address of an area, as a little-endian number (00 R2). -/
def State.placeNat (s : State) (own : Option Nat) (a : Nat) : Nat → Nat
  | 0 => 0
  | n + 1 => (s.placeByte own a).toNat + 256 * s.placeNat own (a + 1) n

/-- n bytes of a scratchpad from an offset, as a little-endian number. -/
def State.spadNat (s : State) (tag a : Nat) : Nat → Nat
  | 0 => 0
  | n + 1 => (s.spadByte tag a).toNat + 256 * s.spadNat tag (a + 1) n

/-- The thread has issued an access: it goes on with one more in the counter of its kind (13 Table 13.1, R256). -/
def Thread.issued (th : Thread) (op : ReqOp) : Thread :=
  { th with pc := th.pc + 4, ld := th.ld + op.countsLd.toNat, st := th.st + op.countsSt.toNat }

/-- What every access that has been issued leaves: its request, to be performed (11 R223), the thread as issued says, and all else as it was. -/
def Leaves (s t : State) (r : Ref) (th : Thread) (q : Req) : Prop :=
  q.ref = r ∧ ThreadOnly s t r (th.issued q.op) ∧ t = { s with plots := t.plots, reqs := tput s.reqs s.nextId q, nextId := s.nextId + 1 }

/-- A request of n bytes at an address of an ordinary page: it goes to its place of 09 Table 9.4, or to the HBM-side unit (09 R185). -/
structure ToPlace (p : Plot) (e : TbEntry) (va n : Nat) (q : Req) : Prop where
  fromCore : q.core = p.core
  toVa : q.va = va
  toPa : q.pa = e.pa va
  width : q.bytes = n
  leaf : q.view = [(va, e)]
  stands : q.stage = if e.farat then .hbm else .place
  sector : q.sectors = [e.pa va / 32]

/-- A request of n bytes to a scratchpad bank. -/
structure ToBank (p : Plot) (tag off n : Nat) (q : Req) : Prop where
  fromCore : q.core = p.core
  width : q.bytes = n
  stands : q.stage = .bank tag off
  sector : q.sectors = [spadSector tag off]

/-- No LAND that its slot accepted waits for a load of the thread (13 R291). -/
def NoDelivery (s : State) (r : Ref) : Prop := ∀ c k, (c, k) ∈ s.cores → ∀ x ∈ k.slots, x.2.state = .accepting → x.2.owner ≠ r

/-- A request of a live thread whose turn has come in the order of its thread (11 R226 to R235). -/
structure Turn (s : State) (id : Nat) (q : Req) (th : Thread) : Prop where
  req : tget s.reqs id = some q
  thread : s.thread? q.ref = some th
  live : th.live = true
  turn : s.mayPerform id q = true
  delivered : NoDelivery s q.ref

/-- A request that stands at its place on an ordinary page of this device under translation e, which no other core holds private (09 R194). -/
def AtPlace (s : State) (q : Req) (e : TbEntry) : Prop :=
  q.stage = .place ∧ q.view = [(q.va, e)] ∧ q.pa = e.pa q.va ∧ s.away e q.pa = false ∧ s.settleMiss q e = s

/-- A load, LR, SC or atomic has come to its end (13 R255, R256): its request is gone and LD one lower, its destination holds the words, its flags are
raised; a read may set SCOPEX (11 R237) and leaves what it read for the next FENCE (11 R232). -/
def Returned (s t : State) (id : Nat) (q : Req) (th : Thread) (ws : List Word) (flags : Word) : Prop :=
  tget t.reqs id = none ∧ OthersSame s t q.ref ∧
  ∃ u, t.thread? q.ref = some u ∧ u = { th.wrDst q.dst ws with ld := th.ld - 1, tstat := u.tstat, seen := u.seen } ∧
    ∀ b, b ≠ 5 → u.tstat.getLsbD b = (th.tstat ||| flags).getLsbD b

/-- A store has come to its end (11 R223): its request is gone and ST one lower. -/
def Stored (s t : State) (id : Nat) (q : Req) (th : Thread) : Prop :=
  tget t.reqs id = none ∧ OthersSame s t q.ref ∧ t.thread? q.ref = some { th with st := th.st - 1 }

/-- The address of an access of the M format (13 R262). -/
def addrM (s : State) (r : Ref) (p : Plot) (th : Thread) (a : Reg) (off : BitVec 4) (n : Nat) : Nat :=
  (th.rd64 (envOf s r p) a + off.signExtend 64 * BitVec.ofNat 64 n).toNat

/-- The address of an access of the S format (13 R264). -/
def addrS (s : State) (r : Ref) (p : Plot) (th : Thread) (a : Reg) (off : BitVec 9) (n : Nat) : Nat :=
  (th.rd32 (envOf s r p) a + off.signExtend 32 * BitVec.ofNat 32 n).toNat

/-- The value a store takes from its register: one, two or four registers, the lowest first (03 R45). -/
def storeNat (s : State) (r : Ref) (p : Plot) (th : Thread) (d : Reg) (regs : Nat) : Nat :=
  match regs with
  | 1 => (th.rd32 (envOf s r p) d).toNat
  | 2 => (th.rd64 (envOf s r p) d).toNat
  | _ => (th.rd128 (envOf s r p) d).toNat

/-- The AOP, width in bytes, register, address register, class, scope and order of a global atomic (03 Table 3.11). -/
def atomForm : Instr → Option (Nat × Nat × Reg × Reg × RC × Scope × AOrd)
  | .atomAdd w d a rc sc o => some (0, if w then 8 else 4, d, a, rc, sc, o)
  | .atomAnd w d a rc sc o => some (1, if w then 8 else 4, d, a, rc, sc, o)
  | .atomOr w d a rc sc o => some (2, if w then 8 else 4, d, a, rc, sc, o)
  | .atomXor w d a rc sc o => some (3, if w then 8 else 4, d, a, rc, sc, o)
  | .atomMin w d a rc sc o => some (4, if w then 8 else 4, d, a, rc, sc, o)
  | .atomMax w d a rc sc o => some (5, if w then 8 else 4, d, a, rc, sc, o)
  | .atomMinu w d a rc sc o => some (6, if w then 8 else 4, d, a, rc, sc, o)
  | .atomMaxu w d a rc sc o => some (7, if w then 8 else 4, d, a, rc, sc, o)
  | .atomExch w d a rc sc o => some (8, if w then 8 else 4, d, a, rc, sc, o)
  | .atomCas w d a rc sc o => some (9, if w then 8 else 4, d, a, rc, sc, o)
  | .atomFaddF32 d a rc sc o => some (10, 4, d, a, rc, sc, o)
  | .atomXadd128 d a rc sc o => some (11, 16, d, a, rc, sc, o)
  | .atomIncw w d a rc sc o => some (12, if w then 8 else 4, d, a, rc, sc, o)
  | .atomDecw w d a rc sc o => some (13, if w then 8 else 4, d, a, rc, sc, o)
  | _ => none

/-- The AOP, width in bytes, register, address register and order of a scratchpad atomic. -/
def atomsForm : Instr → Option (Nat × Nat × Reg × Reg × AOrd)
  | .atomsAdd w d a _ o => some (0, if w then 8 else 4, d, a, o)
  | .atomsAnd w d a _ o => some (1, if w then 8 else 4, d, a, o)
  | .atomsOr w d a _ o => some (2, if w then 8 else 4, d, a, o)
  | .atomsXor w d a _ o => some (3, if w then 8 else 4, d, a, o)
  | .atomsMin w d a _ o => some (4, if w then 8 else 4, d, a, o)
  | .atomsMax w d a _ o => some (5, if w then 8 else 4, d, a, o)
  | .atomsMinu w d a _ o => some (6, if w then 8 else 4, d, a, o)
  | .atomsMaxu w d a _ o => some (7, if w then 8 else 4, d, a, o)
  | .atomsExch w d a _ o => some (8, if w then 8 else 4, d, a, o)
  | .atomsCas w d a _ o => some (9, if w then 8 else 4, d, a, o)
  | .atomsFaddF32 d a _ o => some (10, 4, d, a, o)
  | .atomsXadd128 d a _ o => some (11, 16, d, a, o)
  | .atomsIncw w d a _ o => some (12, if w then 8 else 4, d, a, o)
  | .atomsDecw w d a _ o => some (13, if w then 8 else 4, d, a, o)
  | _ => none

/-- Table 13.3: what an atomic writes over the old value of n bytes, none where it writes nothing; v is the operand, a CAS's the
expected value with the new one above it. -/
def tableNew (aop n old v : Nat) (m : Mode) : Option Nat :=
  let w := 2 ^ (8 * n)
  let x := v % w
  match aop with
  | 0 => some ((old + x) % w)
  | 1 => some (old &&& x)
  | 2 => some (old ||| x)
  | 3 => some (old ^^^ x)
  | 4 => some (if sgn (8 * n) x < sgn (8 * n) old then x else old)
  | 5 => some (if sgn (8 * n) old < sgn (8 * n) x then x else old)
  | 6 => some (if x < old then x else old)
  | 7 => some (if old < x then x else old)
  | 8 => some x
  | 9 => if old = x then some (v / w % w) else none
  | 10 => some (fmtF32.round m (XReal.add m (fmtF32.value old) (fmtF32.value x)).1).1
  | 11 => some (axaCombine (BitVec.ofNat 128 old) (BitVec.ofNat 128 x)).toNat
  | 12 => some (if old ≥ x then 0 else old + 1)
  | _ => some (if old = 0 ∨ old > x then x else old - 1)

/-- The widths of an atomic (13 R265, R268): 16 bytes for XADD128, 4 for FADD_F32, 4 or 8 for the others. -/
def atomWidth (aop n : Nat) : Prop := if aop = 11 then n = 16 else if aop = 10 then n = 4 else n = 4 ∨ n = 8

/-- The flags an atomic raises (13 R268): those of FADD_F32's sum and its rounding. -/
def tableFlags (aop old v : Nat) (m : Mode) : Nat :=
  if aop = 10 then
    let x := XReal.add m (fmtF32.value old) (fmtF32.value (v % 2 ^ 32))
    x.2 ||| (fmtF32.round m x.1).2
  else 0

/-- Registers of an atomic's operand: those of its width, twice as many for CAS (13 R267). -/
def operandRegs (aop n : Nat) : Nat := if aop = 9 then n / 2 else n / 4

/-- The place of a barrier operation among those of one cycle (11 R244): BCARR, BCEXP, BCINIT. -/
def barOrder : ReqOp → Nat
  | .bcarr _ => 0
  | .bcexp _ => 1
  | .bcinit _ => 2
  | _ => 3

/-- What a barrier operation makes of the barrier (13 R275 to R277). -/
def barEffect (op : ReqOp) (o : Barrier) : Barrier :=
  match op with
  | .bcinit v => { rem := (v % 2 ^ 30 : Nat), init := v % 2 ^ 30, scope := v / 2 ^ 30 % 4, phase := false, ovf := false }
  | .bcexp n => if o.rem + (n : Int) > 2 ^ 31 - 1 then { o with ovf := true } else { o with rem := o.rem + (n : Int) }
  | .bcarr n =>
    if o.rem - (n : Int) < -2 ^ 31 then { o with ovf := true }
    else if o.rem - (n : Int) ≤ 0 then { o with rem := o.init + (o.rem - (n : Int)), phase := !o.phase }
    else { o with rem := o.rem - (n : Int) }
  | _ => o

/-- The order of two requests at a barrier (11 R244): by cycle, then kind, then core, then lane. -/
def ActsBefore (x y : Req) : Prop :=
  instrCycle x.instr < instrCycle y.instr ∨ instrCycle x.instr = instrCycle y.instr ∧
    (barOrder x.op < barOrder y.op ∨ barOrder x.op = barOrder y.op ∧
      (x.core < y.core ∨ x.core = y.core ∧ x.ref.lane ≤ y.ref.lane))

/-! ## Sleep and its end -/

/-- The thread sleeps in an instruction, at its PC. -/
def asleep (th : Thread) (k : Sleep) : Thread := { th with place := .headland (.sleep k) }

/-- The thread is filed at PC + 4; the acquire of what it waited for may set SCOPEX (11 R237). -/
def Woken (s t : State) (r : Ref) (th : Thread) : Prop :=
  (∃ u, t.thread? r = some u ∧ u = { th with pc := th.pc + 4, place := .filed, tstat := u.tstat } ∧ ∀ b, b ≠ 5 → u.tstat.getLsbD b = th.tstat.getLsbD b) ∧
  OthersSame s t r ∧ MemorySame s t ∧ SpadsSame s t

/-- The thread goes on at PC + 4; an acquire may set SCOPEX (11 R237). -/
def GoesOn (s t : State) (r : Ref) (th : Thread) : Prop :=
  (∃ u, t.thread? r = some u ∧ u = { th with pc := th.pc + 4, tstat := u.tstat } ∧ ∀ b, b ≠ 5 → u.tstat.getLsbD b = th.tstat.getLsbD b) ∧
  OthersSame s t r ∧ MemorySame s t ∧ SpadsSame s t

/-- A thread asleep in k, that nothing will stop when it wakes, of a tract that is placed. -/
structure Sleeps (s : State) (r : Ref) (th : Thread) (k : Sleep) : Prop where
  thread : s.thread? r = some th
  place : th.place = .headland (.sleep k)
  goes : th.stopsWhenFiled = false
  placed : s.placed r = true

/-- Where the bytes of a view access are, in shadow order. -/
def State.viewPlaces (s : State) (l : List (Nat × TbEntry)) : List (Option Nat × Nat) := l.map fun (a, e) => s.placeOf e (e.pa a)

/-- The bytes at places, as a little-endian number. -/
def State.placesNat (s : State) (l : List (Option Nat × Nat)) : Nat := leNat (l.map fun x => s.placeByte x.1 x.2)

/-! ## Engines -/

/-- A block of n bytes at a scratchpad address in a register, as a command is read at issue: its bytes. -/
structure BlockAt (s : State) (r : Ref) (p : Plot) (th : Thread) (a : Reg) (n : Nat) (l : List Byte) : Prop where
  range : th.inRange a 1 = true
  aligned : (th.rd32 (envOf s r p) a).toNat % n = 0
  bytes : ∃ tag x, s.spadAt r.tag (th.rd32 (envOf s r p) a).toNat n = .ok (tag, x) ∧ l = natLe n (s.spadNat tag x n)

/-- What a copy of one row makes of the bytes it reads: its elements converted, or the bytes (15 R307). -/
def copyOut (c : CopyCmd) (l : List Byte) : List Byte × Nat :=
  if ccKind c.raw = 2 ∧ ccSfmt c.raw ≠ ccDfmt c.raw then convertRow (ccSfmt c.raw) (ccDfmt c.raw) c.rmode l else (l, 0)

/-- A copy command that passes its checks starts to move its one row from global memory to global memory, each within one line. -/
structure OneRow (s : State) (id : Nat) (c : CopyCmd) (e1 e2 : TbEntry) (out : List Byte) : Prop where
  cmd : tget s.copies id = some c
  ready : s.copyReady id c = true
  starts : c.todo = none ∧ c.needEntry = false
  checks : firstFailed (copyChecks c.raw c.ref.isNone (if c.entry.isEmpty then none else some (leNat c.entry))) = none
  rows : ccRows c.raw = 1
  spaces : ccSsp c.raw = false ∧ ccDsp c.raw = false
  lines : ccSrc c.raw % 128 + ccRowBytes c.raw ≤ 128 ∧ ccDst c.raw % 128 + out.length ≤ 128
  moved : out = (copyOut c (natLe (ccRowBytes c.raw) (s.placeNat (s.areaOf e1 (ccSrc c.raw)) (s.offsetOf e1 (ccSrc c.raw)) (ccRowBytes c.raw)))).1
  barrier : ccBk c.raw = 1 → ∃ r x, c.ref = some r ∧ s.spadAt r.tag (ccBar c.raw % 2 ^ 32 / 16 * 16) 16 = .ok x
  source : ReachesAt s c.tbCore c.ctx (ccSrc c.raw) (ccRowBytes c.raw) accEngRead e1
  dest : ReachesAt s c.tbCore c.ctx (ccDst c.raw) out.length accEngWrite e2

/-- A command is accepted as it issues: no command of its plot waits, and its queues have room (17 R332). -/
def Plot.takes (p : Plot) (c : EngCmd) : Prop := (∀ d ∈ p.engq, d.accepted = true) ∧ p.hasRoom c = true

/-- A command waits at issue: the first one of its plot that waits, which may be itself, finds no room (17 R332, R344). -/
def Plot.blocks (p : Plot) (c : EngCmd) : Prop := ∃ d, (p.engq ++ [c]).find? (fun d => !d.accepted) = some d ∧ p.hasRoom d = false

/-- A command joins its plot's engine queue: the issuing thread goes on with one more in TL (17 R332). -/
def Accepted (s t : State) (r : Ref) (p : Plot) (th : Thread) (c : EngCmd) : Prop :=
  t.thread? r = some { th with pc := th.pc + 4, tl := th.tl + 1 } ∧ OthersSame s t r ∧ MemorySame s t ∧ SpadsSame s t ∧
  ∃ q, tget t.plots r.tag = some q ∧ q.engq = p.engq ++ [{ c with id := s.nextId, stage := .queued }] ∧ q.tiles = p.tiles ∧ q.tsw = p.tsw

/-- A command is rejected: it completes at once, and its status code is the tile's when that has none (17 R334, R352). -/
def Rejected (s t : State) (r : Ref) (p : Plot) (th : Thread) (tile code : Nat) : Prop :=
  t.thread? r = some { th with pc := th.pc + 4 } ∧ OthersSame s t r ∧ MemorySame s t ∧
  ∃ q, tget t.plots r.tag = some q ∧ (q.tiles = p.tiles) ∧
    (tile < p.tsw.length → bits (p.tsw.getD tile 0).toNat 23 16 = 0 → q.tsw.getD tile 0 = p.tsw.getD tile 0 ||| BitVec.ofNat 32 (code * 2 ^ 16))

/-- A command stands captured behind its plot's queue, and its thread waits with it (17 R344): neither TL nor a status has changed. -/
def Captured (s t : State) (r : Ref) (p : Plot) (th : Thread) (c : EngCmd) : Prop :=
  ThreadOnly s t r { th with pc := th.pc + 4 } ∧
  ∃ q, tget t.plots r.tag = some q ∧ q.engq = p.engq ++ [{ c with id := s.nextId, stage := .waiting }] ∧ q.tiles = p.tiles ∧ q.tsw = p.tsw

/-- An engine instruction has issued the command c: accepted or rejected where there is room, else captured (17 R332, R334, R344). -/
def Issued (s t : State) (r : Ref) (p : Plot) (th : Thread) (c : EngCmd) : Prop :=
  (p.takes c → c.status = 0 → Accepted s t r p th c) ∧ (p.takes c → c.status ≠ 0 → Rejected s t r p th c.tile c.status) ∧
  (p.blocks c → Captured s t r p th c)

/-- A command has completed: it has left the queue, its thread's TL is one lower, and all else of that thread is as before. -/
def Finished (s t : State) (tag : Nat) (c : EngCmd) : Prop :=
  (∀ q, tget t.plots tag = some q → ∀ d ∈ q.engq, d.id ≠ c.id) ∧ ∀ th, s.thread? c.ref = some th → t.thread? c.ref = some { th with tl := th.tl - 1 }

/-! ## Steward and host -/

/-- The steward executes message m, of an OP. -/
def Executing (s : State) (m : Msg) (op : Nat) : Prop := s.steward.current = some m ∧ msgOp m = op

/-- The message has ended with a STATUS and what the reply carries above its SEQ. -/
def Replied (s t : State) (m : Msg) (status rest : Nat) : Prop :=
  t.steward = { s.steward with current := none, posts := s.steward.posts ++ [(some (msgSeq m), replyTo m status rest)] }

/-- A step that answers m and does nothing else. -/
def OnlyReplies (i : Instr) (s : State) (m : Msg) (status rest : Nat) : Prop :=
  ∃ t, exec i s = .next t ∧ Replied s t m status rest ∧ t = { s with steward := t.steward }

/-- A thread has been ended (01 R14). -/
def Ended (t : State) (r : Ref) : Prop := ∃ u, t.thread? r = some u ∧ u.place = .exited ∧ u.pflt = false

end Sys2Proof.Machine
end

