-- ==== Sys2Proof/Certificates/Slice0/Obligations.lean ====
section
/-! DEFINITION. The statements about this model, taken from the numbered rules of spec/. A docstring names the rule a statement
formalises, or the log entry of a choice of the model that it rests on. -/

open Sys2Proof Sys2Proof.Machine

/-! ## Registers and predicates -/

/-- Table 3.1 and R43: what each register name reads as a 32-bit source; a pair is its lower register and the next one (R45).
R43, R45: a destination changes its registers and nothing else; zero discards the value; ix takes it.
R49: p0 reads true and a write to it is discarded; a write to another predicate changes that one only. -/
def Obligations.RegistersReadAndWritten : Prop :=
  (∀ (t : Thread) (e : Env),
  (∀ n : Fin 96, t.rd32 e (.w n) = t.regs.getD (t.wb + n.val) 0) ∧
  (∀ n : Fin 12, t.rd32 e (.k n) = e.k.getD n.val 0) ∧
  t.rd32 e .ix = t.ix ∧ t.rd32 e .wix = t.regs.getD (t.wb + t.ix.toNat) 0 ∧
  t.rd32 e .tid = BitVec.ofNat 32 e.tid ∧ t.rd32 e .lane = BitVec.ofNat 32 (e.tid % 64) ∧ t.rd32 e .zero = 0 ∧
  t.rd32 e .clk = BitVec.ofNat 32 e.cycle ∧
  (∀ n : Fin 96, (t.rd64 e (.w n)).toNat = (t.regs.getD (t.wb + n.val) 0).toNat + 2 ^ 32 * (t.regs.getD (t.wb + n.val + 1) 0).toNat) ∧
  t.rd64 e .zero = 0) ∧
  (∀ (t : Thread),
  (∀ (n : Fin 96) (v : Word), t.wb + n.val < t.ra →
    t.wr32 (.w n) v = { t with regs := (t.wr32 (.w n) v).regs } ∧ (t.wr32 (.w n) v).ra = t.ra ∧
    ∀ x, (t.wr32 (.w n) v).regs.getD x 0 = if x = t.wb + n.val then v else t.regs.getD x 0) ∧
  (∀ v : Word, t.wb + t.ix.toNat < t.ra →
    t.wr32 .wix v = { t with regs := (t.wr32 .wix v).regs } ∧
    ∀ x, (t.wr32 .wix v).regs.getD x 0 = if x = t.wb + t.ix.toNat then v else t.regs.getD x 0) ∧
  (∀ v : Word, t.wr32 .ix v = { t with ix := v }) ∧ (∀ v : Word, t.wr32 .zero v = t) ∧
  (∀ (n : Fin 96) (v : DWord), t.wb + n.val + 2 ≤ t.ra →
    t.wr64 (.w n) v = { t with regs := (t.wr64 (.w n) v).regs } ∧
    ∀ x, (t.wr64 (.w n) v).regs.getD x 0 =
      if x = t.wb + n.val then BitVec.ofNat 32 v.toNat else if x = t.wb + n.val + 1 then BitVec.ofNat 32 (v.toNat / 2 ^ 32)
      else t.regs.getD x 0) ∧
  (∀ v : DWord, t.wr64 .zero v = t) ∧
  (∀ (n : Fin 96) (v : Quad), t.wb + n.val + 4 ≤ t.ra →
    t.wr128 (.w n) v = { t with regs := (t.wr128 (.w n) v).regs } ∧
    ∀ x, (t.wr128 (.w n) v).regs.getD x 0 =
      if t.wb + n.val ≤ x ∧ x < t.wb + n.val + 4 then BitVec.ofNat 32 (v.toNat / 2 ^ (32 * (x - (t.wb + n.val)))) else t.regs.getD x 0) ∧
  ∀ v : Quad, t.wr128 .zero v = t) ∧
  (∀ (t : Thread) (p : Fin 128) (b : Bool),
  t.pred 0 = true ∧ t.setPred 0 b = t ∧ t.setPred p.val b = { t with preds := (t.setPred p.val b).preds } ∧
  ∀ q : Fin 128, (t.setPred p.val b).pred q.val = if q = p ∧ p.val ≠ 0 then b else t.pred q.val)

/-! ## Encoding -/

/-- Decoding gives back every well-formed instruction that has an encoding, with every operand; a step of the device has none.
What the decoder accepts is well formed and is no step of the device. -/
def Obligations.DecodeEncodeAgree : Prop :=
  ((∀ i : Instr, i.isEvent = false → i.wf = true → ∃ w, encode i = some w ∧ decodeWord w = .ok i) ∧
  ∀ i : Instr, i.isEvent = true → encode i = none) ∧
  (∀ (w : Word) (i : Instr), decodeWord w = .ok i → i.wf = true ∧ i.isEvent = false)

/-- Words of spec 03: its worked examples, and words written out bit by bit from Tables 3.3 to 3.18 for the other formats and grouped
majors; a word of an illegal major is none. -/
def Obligations.SpecWordsDecode : Prop :=
  decodeWord 0x00000000#32 = .ok (.iadd (.w 0) (.w 0) (.w 0) 0) ∧ decodeWord 0x442091A2#32 = .ok (.ffma .f32 (.w 4) (.w 9) (.w 13) 2) ∧
  decodeWord 0xB0314224#32 = .ok (.ld (.w 6) (.w 20) 2 .o .dev false .w32) ∧ decodeWord 0xD44FFFFA#32 = .ok (.brf 9 true (-6)) ∧
  decodeWord 0xE8282000#32 = .ok (.mma 5 (.w 2)) ∧ decodeWord 0x981AFFFE#32 = .ok (.addi (.w 3) (-2)) ∧
  decodeWord 0x28101071#32 = .ok (.icmpLt 2 (.w 1) (.w 3) 1) ∧ decodeWord 0x74201040#32 = .ok (.xacc (.w 4) (.w 1) (.w 2) 0) ∧
  decodeWord 0x7C082060#32 = .ok (.rshf (.w 1) (.w 2) (.w 3) 0) ∧ decodeWord 0xB8206FFE#32 = .ok (.lds (.w 4) (.w 6) (-1) .w128) ∧
  decodeWord 0xC0504688#32 = .ok (.atomMinu true (.w 10) (.w 4) .o .tract .rlx) ∧ decodeWord 0xDC002003#32 = .ok (.jmpi 0 (.w 2)) ∧
  decodeWord 0xE3FFC0FC#32 = .ok (.wait 63 63 0 63) ∧ decodeWord 0xE40000C0#32 = .ok (.fence .dev true false false) ∧
  decodeWord 0xE8803009#32 = .ok (.ttld (.w 16) (.w 3)) ∧ decodeWord 0xEC0000A0#32 = .ok (.trap 5) ∧
  decodeWord 0x88000000#32 = .error .unallocated

/-! ## A step -/

/-- A step issues the word at the PC of a drill that was picked: when the drill may issue, the lanes that stop have left it and its first
lane's fetch gives a word that decodes to i, the step is exec of i over the lanes of the drill; a row group executes the word fetched when its
rendezvous completed (07 R149). After it the drill loses the marks of a single step and of a row group and may issue again after the extra cycles of
the banks (03 R62, R53, 09 R200, 21 R398). The order in which the drills of one cycle issue is log 2. -/
def Obligations.StepRunsDecodedWord : Prop := ∀ (s : State) (c slot : Nat) (q : List (Nat × Nat)) (d : Drill),
  s.issueQ = (c, slot) :: q → tget (s.core c).drills slot = some d → d.mayIssue s.cycle = true →
  let ends := fun (i : Instr) (w : Word) (x : State) (d : Drill) => match exec i (x.withCur c slot w d) with
    | .next t => Host.Outcome.next (t.endIssue c slot (x.extraCycles i d.lanes))
    | .fault f => .fault f
    | .refused f => .refused f
  (∀ s1 s2 d1 r l w i, d.group = none → State.stopLanes { s with issueQ := q } d.lanes = s1 → tget (s1.core c).drills slot = some d1 →
    d1.lanes = r :: l → s1.fetch r = (s2, .ok w) → decodeWord w = .ok i → step s = ends i w s2 d1) ∧
  ∀ w i, d.group = some (.word w) → decodeWord w = .ok i → step s = ends i w { s with issueQ := q } d

/-- R70, 03 R62 check 2: a word that decodes to nothing takes the illegal-instruction trap in every lane. -/
def Obligations.IllegalWordTraps : Prop := ∀ (s : State) (w : Word) (r : Ref) (th : Thread) (p : Plot),
  (∀ i, decodeWord w ≠ .ok i) → s.cur.lanes = [r] → s.cur.word = w → tget s.plots r.tag = some p → s.thread? r = some th →
  th.sup = false → th.place = .drill s.cur.slot → th.stopsWhenFiled = false →
  (∀ c, tget s.ctxs p.ctx = some c → c.heldRecs = []) →
  ∃ t u, s.execWord w = .next t ∧ t.thread? r = some u ∧ u.pc = s.tvecOf r ∧ u.epc = th.pc ∧ u.ecode = 1 ∧ u.einfo = w ∧ u.eaddr = 0 ∧
    u.ewb = BitVec.ofNat 32 th.wb ∧ u.eix = th.ix ∧ u.sup = true ∧ u.regs = th.regs ∧ u.preds = th.preds ∧ u.place = .filed ∧
    OthersSame s t r ∧ MemorySame s t

/-- With nothing picked, the first input of the agenda runs when the boot has let it (23 R429, R425); an agenda that holds a word
instead stops the machine by name (log 1).
01 R23: a drill has each thread in one lane when it issues. -/
def Obligations.StepRunsAgenda : Prop :=
  (∀ (s : State) (i : Instr) (l : List Instr), s.issueQ = [] → s.agenda = i :: l →
  (i.isEvent = true → s.fallow = false ∨ inFallow i = true → step s = exec i { s with agenda := l }) ∧
  (i.isEvent = true → s.fallow = true → inFallow i = false → step s = .next { s with agenda := l }) ∧
  (i.isEvent = false → step s = .fault .agendaNotAStep)) ∧
  (∀ (s : State) (c slot : Nat) (w : Word) (d : Drill),
  (s.withCur c slot w d).cur.lanes.Nodup ∧ ∀ r, r ∈ (s.withCur c slot w d).cur.lanes ↔ r ∈ d.lanes)

/-- No state makes the machine refuse an instruction, and none whose agenda holds steps of the device only makes it stop. -/
def Obligations.EveryStepGoesOn : Prop :=
  (∀ (i : Instr) (s : State), goesOn (exec i s)) ∧ ∀ s : State, s.agendaOk → goesOn (step s)

/-- 09 R203: the memories keep their canonical form in every step; an unlisted byte reads 0. -/
def Obligations.MemoriesStayCanonical : Prop := ∀ s t : State, s.memoriesOk → step s = .next t → t.memoriesOk

/-- Reset: memory lists nothing, every field of 23 Table 23.3 is 0 (R423; EPOCH is 0 at power-on), no row is sown (R202), no thread, tract or
queue exists; every other register stands at the value of log 5, and the invariants hold. -/
def Obligations.ResetState : Prop :=
  State.reset.mem = [] ∧ State.reset.sown = [] ∧ State.reset.mbox.state = 0 ∧ State.reset.mbox.epoch = 0 ∧ State.reset.cycle = 0 ∧
  State.reset.mbox.h2ddb = 0 ∧ State.reset.mbox.h2dacc = 0 ∧ State.reset.mbox.h2dcmp = 0 ∧ State.reset.mbox.d2hseq = 0 ∧
  State.reset.mbox.d2hacc = 0 ∧ State.reset.mbox.d2hcmp = 0 ∧ State.reset.mbox.h2d = List.replicate 16 0 ∧ State.reset.mbox.d2h = List.replicate 16 0 ∧
  State.reset.plots = [] ∧ State.reset.tracts = [] ∧ State.reset.queues = [] ∧ State.reset.ctxs = [] ∧
  (∀ a, mget State.reset.mem a = 0) ∧ State.reset.memoriesOk ∧ State.reset.agendaOk

/-! ## Integer, logic, 64-bit and predicate instructions -/

/-- R124 and R125: the integer arithmetic of Tables 7.1 and 7.2.
R126 and R127: the logic, shift and bit-field instructions; bit i of BFE and BFI by their field.
R128 and R129: LEA, SEL (its selector is no guard) and the 64-bit instructions of Table 7.4. -/
def Obligations.IntegerInstructions : Prop :=
  (Op2 .iadd (fun a b => a + b) ∧ Op2 .isub (fun a b => a - b) ∧ Op2 .imul (fun a b => a * b) ∧
  Op2 .imulh (fun a b => BitVec.ofInt 32 (a.toInt * b.toInt / 2 ^ 32)) ∧
  Op2 .imulhu (fun a b => BitVec.ofNat 32 (a.toNat * b.toNat / 2 ^ 32)) ∧ Op3 .imad (fun a b d => a * b + d) ∧
  Op2 .divs (fun a b => if b = 0 then 0xFFFFFFFF else if a = 0x80000000 ∧ b = 0xFFFFFFFF then 0x80000000 else BitVec.ofInt 32 (a.toInt.tdiv b.toInt)) ∧
  Op2 .divu (fun a b => if b = 0 then 0xFFFFFFFF else BitVec.ofNat 32 (a.toNat / b.toNat)) ∧
  Op2 .rems (fun a b => if b = 0 then a else if a = 0x80000000 ∧ b = 0xFFFFFFFF then 0 else BitVec.ofInt 32 (a.toInt.tmod b.toInt)) ∧
  Op2 .remu (fun a b => if b = 0 then a else BitVec.ofNat 32 (a.toNat % b.toNat)) ∧
  Op2 .imin (fun a b => if a.toInt < b.toInt then a else b) ∧ Op2 .imax (fun a b => if a.toInt > b.toInt then a else b) ∧
  Op2 .iminu (fun a b => if a.toNat < b.toNat then a else b) ∧ Op2 .imaxu (fun a b => if a.toNat > b.toNat then a else b) ∧
  Op1 .iabs (fun a => if a.toInt < 0 then -a else a) ∧ Op1 .ineg (fun a => -a)) ∧
  (Op2 .andb (fun a b => a &&& b) ∧ Op2 .orb (fun a b => a ||| b) ∧ Op2 .xorb (fun a b => a ^^^ b) ∧ Op2 .andn (fun a b => a &&& ~~~b) ∧
  Op2 .shl (fun a b => a <<< (b.toNat % 32)) ∧ Op2 .shr (fun a b => a >>> (b.toNat % 32)) ∧
  Op2 .sar (fun a b => a.sshiftRight (b.toNat % 32)) ∧ Op2 .rotl (fun a b => a.rotateLeft (b.toNat % 32)) ∧
  Op1 .popc (fun a => BitVec.ofNat 32 ((List.range 32).filter fun i => a.getLsbD i).length) ∧
  Op1 .clz (fun a => if a = 0 then 32 else BitVec.ofNat 32 (31 - Nat.log2 a.toNat)) ∧
  Op1 .brev (fun a => a.reverse) ∧ Op1 .mov (fun a => a) ∧ Op2 .bfe bitExtract ∧ Op3 .bfi bitInsert ∧
  (∀ (a b : Word) (i : Nat), i < 32 →
    (bitExtract a b).getLsbD i = (decide (i < b.toNat / 256 % 32 + 1) && a.getLsbD (b.toNat % 32 + i))) ∧
  ∀ (a b d : Word) (i : Nat), i < 32 →
    (bitInsert a b d).getLsbD i =
      if b.toNat % 32 ≤ i ∧ i < b.toNat % 32 + (b.toNat / 256 % 32 + 1) then a.getLsbD (i - b.toNat % 32) else d.getLsbD i) ∧
  (PairWord .lea (fun a b => a + b.signExtend 64) ∧
  (∀ d a b g, Computes (.sel d a b g) always [(d, 1), (a, 1), (b, 1)] fun e t => t.wr32 d (if guardTR g t then t.rd32 e a else t.rd32 e b)) ∧
  Pair2 .iadd64 (fun a b => a + b) ∧ Pair2 .isub64 (fun a b => a - b) ∧ Pair2 .imul64 (fun a b => a * b) ∧
  (∀ d a g, Computes (.mov64 d a g) (guardTR g) [(d, 2), (a, 2)] fun e t => t.wr64 d (t.rd64 e a)) ∧
  PairWord .shl64 (fun a b => a <<< (b.toNat % 64)) ∧ PairWord .shr64 (fun a b => a >>> (b.toNat % 64)) ∧
  PairWord .sar64 (fun a b => a.sshiftRight (b.toNat % 64)) ∧
  ∀ d a b g, Computes (.imad64 d a b g) (guardTR g) [(d, 2), (a, 2), (b, 2)] fun e t => t.wr64 d (t.rd64 e a * t.rd64 e b + t.rd64 e d))

/-- R130, R131 and R132: compares, predicate logic, and moves of groups of 32 predicates. -/
def Obligations.ComparesAndPredicates : Prop :=
  Compare .icmpEq (fun a b => a = b) ∧ Compare .icmpNe (fun a b => a ≠ b) ∧ Compare .icmpLt (fun a b => a.toInt < b.toInt) ∧
  Compare .icmpLe (fun a b => a.toInt ≤ b.toInt) ∧ Compare .icmpLtu (fun a b => a.toNat < b.toNat) ∧
  Compare .icmpLeu (fun a b => a.toNat ≤ b.toNat) ∧ Compare .itst (fun a b => a &&& b ≠ 0) ∧ Compare .itstn (fun a b => a &&& b = 0) ∧
  Predicates .pand (fun a b => a && b) ∧ Predicates .por (fun a b => a || b) ∧ Predicates .pxor (fun a b => a ^^ b) ∧
  Predicates .pandn (fun a b => a && !b) ∧
  (∀ p q g, Computes (.pmov p q g) (guardTR g) [] fun _ t => t.setPred p.val (t.pred q.val)) ∧
  (∀ d q g, Computes (.ptor d q g) (guardTR g) [(d, 1)] fun _ t => t.wr32 d (predWord t q.val)) ∧
  (∀ p a g, Computes (.rtop p a g) (guardTR g) [(a, 1)] fun e t => t.setPreds p.val ((List.range 32).map fun i => (t.rd32 e a).getLsbD i)) ∧
  (∀ d q g, Computes (.pcnt d q g) (guardTR g) [(d, 1)] fun _ t =>
    t.wr32 d (BitVec.ofNat 32 ((List.range 32).filter fun i => t.pred (q.val + i)).length)) ∧
  (∀ (t : Thread) (n i : Nat), i < 32 → (predWord t n).getLsbD i = t.pred (n + i)) ∧
  ∀ (t : Thread) (n q : Nat) (l : List Bool), n + l.length ≤ 128 → q < 128 →
    (t.setPreds n l).pred q = if q ≠ 0 ∧ n ≤ q ∧ q < n + l.length then l.getD (q - n) false else t.pred q

/-- R67, R156, R157, R158: the immediates, the window base and the index register, NOP and SETRM (R164, R170). -/
def Obligations.ImmediatesAndIndex : Prop :=
  Immediate .movi (fun i _ => i.signExtend 32) ∧ Immediate .movhi (fun i d => i ++ d.extractLsb' 0 16) ∧
  Immediate .addi (fun i d => d + i.signExtend 32) ∧ Immediate .andi (fun i d => d &&& i.setWidth 32) ∧
  Immediate .ori (fun i d => d ||| i.setWidth 32) ∧ Immediate .xori (fun i d => d ^^^ i.setWidth 32) ∧
  (∀ d n, Computes (.shli d n) always [(d, 1)] fun e t => t.wr32 d (t.rd32 e d <<< n.val)) ∧
  (∀ d n, Computes (.shri d n) always [(d, 1)] fun e t => t.wr32 d (t.rd32 e d >>> n.val)) ∧
  Immediate .fmoviF32Bf (fun i _ => i ++ 0#16) ∧ Immediate .fmoviF32Hf (fun i _ => widenHf i) ∧
  Immediate .fmoviE4 (fun i _ => i ++ i) ∧ Immediate .fmoviE5 (fun i _ => i ++ i) ∧ Immediate .fmoviB2 (fun i _ => i ++ i) ∧
  Immediate .fmoviH2 (fun i _ => i ++ i) ∧
  (∀ imm, Computes (.ixset imm) always [] fun _ t => { t with ix := imm.signExtend 32 }) ∧
  (∀ imm, Computes (.ixadd imm) always [] fun _ t => { t with ix := t.ix + imm.signExtend 32 }) ∧
  (∀ imm (s : State), s.cur.lanes.Nodup →
    (∀ r ∈ s.cur.lanes, ∀ th, s.thread? r = some th → imm.toNat % 4 = 0 ∧ imm.toNat + 4 ≤ th.ra) →
    ∃ t, exec (.winb imm) s = .next t ∧ ChangesOn s.cur.lanes s t fun _ _ th => { th with wb := imm.toNat, pc := th.pc + 4 }) ∧
  (∀ g, Computes (.nop g) (guardY g) [] fun _ t => t) ∧
  ∀ g m, Computes (.setrm g m) (guardY g) [] fun _ t => { t with rmode := BitVec.ofNat 2 m.val }

/-! ## Floating point, conversions, the anchored exact accumulator -/

/-- R133 to R136: each element of the packed type is operated on by itself, in the thread's rounding mode, and the flags of all
elements are ORed into TSTAT; a compare writes one predicate for each element.
R136, Table in it: the four compares on the values of the elements, and the flag each raises: FCMPEQ and FCMPUN NV for a signalling NaN only, FCMPLT
and FCMPLE for every NaN. -/
def Obligations.FloatArithmeticAndCompares : Prop :=
  ((∀ ty, Float2 (.fadd ty) (fpBin ty XReal.add) ∧ Float2 (.fsub ty) (fpBin ty fun m x y => XReal.add m x y.neg) ∧
    Float2 (.fmul ty) (fpBin ty fun _ x y => x.mul y) ∧ Float2 (.fmin ty) (fun _ => fpMinMax ty false) ∧
    Float2 (.fmax ty) (fun _ => fpMinMax ty true)) ∧
  (∀ ty d a b g, Computes (.ffma ty d a b g) (guardTR g) [(d, 1), (a, 1), (b, 1)] fun e t =>
    t.wrFlags d (fpFma ty t.rmode (t.rd32 e a) (t.rd32 e b) (t.rd32 e d))) ∧
  (∀ d imm, Computes (.faddiF32 d imm) always [(d, 1)] fun e t => t.wrFlags d (fpBin .f32 XReal.add t.rmode (t.rd32 e d) (imm ++ 0#16))) ∧
  (∀ d imm, Computes (.fmuliF32 d imm) always [(d, 1)] fun e t => t.wrFlags d (fpBin .f32 (fun _ x y => x.mul y) t.rmode (t.rd32 e d) (imm ++ 0#16))) ∧
  (∀ ty (f : Nat → Nat × Nat) (i : Nat), i < ty.elems →
    elem ty (packElems ty f).1 i = (f i).1 % 2 ^ (ftyFmt ty).width ∧
    ∀ b, ((packElems ty f).2.testBit b = true ↔ ∃ j, j < ty.elems ∧ (f j).2.testBit b = true)) ∧
  ∀ (t : Thread) (d : Reg) (v : Word) (f : Nat), t.wrFlags d (v, f) = { t.wr32 d v with tstat := t.tstat ||| BitVec.ofNat 32 f }) ∧
  ((∀ ty p a b g, ∀ k : Fin 4,
    Computes (match k with | 0 => .fcmpeq ty p a b g | 1 => .fcmplt ty p a b g | 2 => .fcmple ty p a b g | 3 => .fcmpun ty p a b g)
      (guardTR g) [(a, 1), (b, 1)] fun e t =>
        let rs := (List.range ty.elems).map fun i => fpCmp (ftyFmt ty) k.val (elem ty (t.rd32 e a) i) (elem ty (t.rd32 e b) i)
        (t.setPreds p.val (rs.map Prod.fst)).orStat (BitVec.ofNat 32 (rs.foldl (fun f x => f ||| x.2) 0))) ∧
  ∀ (f : Fmt) (a b : Nat),
    (((f.value a).isNaN || (f.value b).isNaN) = true →
      let sg := if f.value a = .nan true ∨ f.value b = .nan true then flagNV else 0
      fpCmp f 0 a b = (false, sg) ∧ fpCmp f 1 a b = (false, flagNV) ∧ fpCmp f 2 a b = (false, flagNV) ∧ fpCmp f 3 a b = (true, sg)) ∧
    (((f.value a).isNaN || (f.value b).isNaN) = false →
      fpCmp f 1 a b = ((f.value a).lt (f.value b), 0) ∧ fpCmp f 2 a b = (!(f.value b).lt (f.value a), 0) ∧
      fpCmp f 0 a b = (!(f.value a).lt (f.value b) && !(f.value b).lt (f.value a), 0) ∧ fpCmp f 3 a b = (false, 0)))

/-- R137 to R139: the functions of Table 7.6 (computed with the digits of log 9). Of 05 R116: a quotient of two finite numbers is the exact one rounded once, a
NaN input gives NaN and a signalling one NV, and the special cases of Table 5.6 hold in every mode.
R140 to R143: conversions (F32 words packed from consecutive registers), signs and FCLASS. -/
def Obligations.FloatFunctionsAndConversions : Prop :=
  ((∀ (m : Mode) (a : Word) (g : Bool), f32 a = .nan g →
    (∀ f ∈ [fnSqrt, fnRsq, fnRcp, fnExp2, fnLog2, fnSinPi, fnCosPi, fnTanh, fnSigm], fnOp f m a = (0x7FC00000, if g then flagNV else 0)) ∧
    ∀ b, fdivOp m a b = (0x7FC00000, if g ∨ f32 b = .nan true then flagNV else 0) ∧ fdivOp m b a = (0x7FC00000, if g ∨ f32 b = .nan true then flagNV else 0)) ∧
  (∀ (m : Mode) (a b : Word) (x y : Bool) (p q r t : Nat), f32 a = .fin x p q → f32 b = .fin y r t →
    (r ≠ 0 → fdivOp m a b = asWord (fmtF32.round m (.fin (x != y) (p * t) (q * r)))) ∧
    (r = 0 → p ≠ 0 → fdivOp m a b = (if x = y then 0x7F800000 else 0xFF800000, flagDZ)) ∧ (r = 0 → p = 0 → fdivOp m a b = (0x7FC00000, flagNV)) ∧
    (x = true → p ≠ 0 → fnOp fnSqrt m a = (0x7FC00000, flagNV) ∧ fnOp fnRsq m a = (0x7FC00000, flagNV) ∧ fnOp fnLog2 m a = (0x7FC00000, flagNV)) ∧
    (p ≠ 0 → p % q = 0 → fnOp fnSinPi m a = (if x then 0x80000000 else 0, 0)) ∧ (2 * p % (2 * q) = q → fnOp fnCosPi m a = (0, 0))) ∧
  (∀ (m : Mode) (s : Bool),
    let zero : Word := if s then 0x80000000 else 0
    let inf : Word := if s then 0xFF800000 else 0x7F800000
    fnOp fnSqrt m zero = (zero, 0) ∧ fnOp fnRsq m zero = (inf, flagDZ) ∧ fnOp fnRcp m zero = (inf, flagDZ) ∧ fnOp fnRcp m inf = (zero, 0) ∧
    fnOp fnExp2 m zero = (0x3F800000, 0) ∧ fnOp fnLog2 m zero = (0xFF800000, flagDZ) ∧ fnOp fnSinPi m zero = (zero, 0) ∧ fnOp fnSinPi m inf = (0x7FC00000, flagNV) ∧
    fnOp fnCosPi m inf = (0x7FC00000, flagNV) ∧ fnOp fnTanh m zero = (zero, 0) ∧ fnOp fnTanh m inf = (if s then 0xBF800000 else 0x3F800000, 0) ∧
    fnOp fnSigm m zero = (0x3F000000, 0) ∧ fnOp fnSqrt m inf = (if s then (0x7FC00000, flagNV) else (inf, 0)) ∧
    fnOp fnRsq m inf = (if s then (0x7FC00000, flagNV) else (0, 0)) ∧ fnOp fnExp2 m inf = (if s then 0 else inf, 0) ∧
    fnOp fnLog2 m inf = (if s then (0x7FC00000, flagNV) else (inf, 0)) ∧ fnOp fnLog2 m 0x3F800000 = (0, 0) ∧ fnOp fnSigm m inf = (if s then 0 else 0x3F800000, 0)) ∧
  Float2 .fdiv fdivOp ∧ Float1 .fsqrt (fnOp fnSqrt) ∧ Float1 .frsq (fnOp fnRsq) ∧ Float1 .frcp (fnOp fnRcp) ∧ Float1 .fexp2 (fnOp fnExp2) ∧
  Float1 .flog2 (fnOp fnLog2) ∧ Float1 .fsinpi (fnOp fnSinPi) ∧ Float1 .fcospi (fnOp fnCosPi) ∧ Float1 .ftanh (fnOp fnTanh) ∧
  Float1 .fsigm (fnOp fnSigm) ∧ Float2 .fldexp fldexpOp ∧ Float1 .frint frintOp) ∧
  ((∀ ce u, Float1 (fun d a g => .cvtfi d a ce u g) (cvtfiOp ce u) ∧ Float1 (fun d a g => .cvtif d a ce u g) (cvtifOp ce u)) ∧
  (∀ src dst, Float1 (fun d a g => .cvtff d a src dst g) (cvtffOp src dst)) ∧
  (∀ d a ce g, Computes (.cvtpk d a ce g) (guardTR g) [(d, 1), (a, packRegs ce)] fun e t =>
    t.wrFlags d (cvtpkOp ce t.rmode ((List.range (packRegs ce)).map (t.word e a)))) ∧
  Op1 .fabs (fun a => a &&& 0x7FFFFFFF) ∧ Op1 .fneg (fun a => a ^^^ 0x80000000) ∧
  Op2 .fcpys (fun a b => (a &&& 0x7FFFFFFF) ||| (b &&& 0x80000000)) ∧ Op1 .fclass fclassOp ∧
  ∀ a : Word, fclassOp a ∈ [0x001#32, 0x002, 0x004, 0x008, 0x010, 0x020, 0x040, 0x080, 0x100, 0x200])

/-- R144 to R148: the instructions of the anchored exact accumulator, on quads and with the thread's anchor. 05 R113: a sum of two states adds N modulo 2^124,
ORs the three flags and recomputes Z. R114: a state converts to NaN, an infinity, a zero of the mode's sign, or N × 2^(XA - 96) rounded once. -/
def Obligations.AnchoredAccumulator : Prop :=
  (∀ a b : Quad, let c := axaCombine a b
    c.extractLsb' 0 124 = a.extractLsb' 0 124 + b.extractLsb' 0 124 ∧ (∀ i ∈ [125, 126, 127], c.getLsbD i = (a.getLsbD i || b.getLsbD i)) ∧
    (c.getLsbD 124 = true ↔ c.extractLsb' 0 124 = 0 ∧ ∀ i ∈ [125, 126, 127], c.getLsbD i = false)) ∧
  (∀ (a : Quad) (xa : Int) (f : Fmt) (m : Mode), let n := (a.extractLsb' 0 124).toInt
    let r := axaConvert a xa f m
    (a.getLsbD 127 = true → r = f.nanOf) ∧
    (a.getLsbD 127 = false → a.getLsbD 126 = true → a.getLsbD 125 = true → r = (f.nanOf.1, flagNV ||| f.nanOf.2)) ∧
    (a.getLsbD 127 = false → a.getLsbD 126 = true → a.getLsbD 125 = false → r = f.round m (.inf false)) ∧
    (a.getLsbD 127 = false → a.getLsbD 126 = false → a.getLsbD 125 = true → r = f.round m (.inf true)) ∧
    (a.getLsbD 127 = false → a.getLsbD 126 = false → a.getLsbD 125 = false →
      (n = 0 → r = f.round m (.fin (decide (m = 3)) 0 1)) ∧
      (n ≠ 0 → ∃ p q : Nat, 0 < q ∧ p * 2 ^ (96 - xa).toNat = n.natAbs * q * 2 ^ (xa - 96).toNat ∧ r = f.round m (.fin (decide (n < 0)) p q)))) ∧
  (∀ d a b g, Computes (.xacc d a b g) (guardTR g) [(d, 4), (a, 1), (b, 1)] fun e t =>
    t.wr128 d (axaAdmit (t.rd128 e d) (axaProduct (f32 (t.rd32 e a)) (f32 (t.rd32 e b))) t.xa.toInt)) ∧
  (∀ d a g, Computes (.xadd d a g) (guardTR g) [(d, 4), (a, 4)] fun e t => t.wr128 d (axaCombine (t.rd128 e d) (t.rd128 e a))) ∧
  (∀ d a ce g, Computes (.xcvt d a ce g) (guardTR g) [(d, 1), (a, 4)] fun e t =>
    t.wrFlags d (asWord (axaConvert (t.rd128 e a) t.xa.toInt (ceFmt ce) t.rmode))) ∧
  (∀ d a g, Computes (.xneg d a g) (guardTR g) [(d, 4), (a, 4)] fun e t => t.wr128 d (axaNeg (t.rd128 e a))) ∧
  (∀ a g, Computes (.xanc a g) (guardTR g) [(a, 1)] fun e t => { t with xa := (t.rd32 e a).setWidth 12 }) ∧
  (∀ d a b g, Computes (.xdoth d a b g) (guardTR g) [(d, 4), (a, 1), (b, 1)] fun e t =>
    t.wr128 d (xdotOp fmtF16 t.xa.toInt (t.rd128 e d) (t.rd32 e a) (t.rd32 e b))) ∧
  (∀ d a b g, Computes (.xdotb d a b g) (guardTR g) [(d, 4), (a, 1), (b, 1)] fun e t =>
    t.wr128 d (xdotOp fmtBF16 t.xa.toInt (t.rd128 e d) (t.rd32 e a) (t.rd32 e b))) ∧
  ∀ p a b g, Computes (.xcmp p a b g) (guardTR g) [(a, 4), (b, 4)] fun e t =>
    t.setPred p.val ((t.rd128 e a ^^^ t.rd128 e b) &&& ~~~(1#128 <<< 124) == 0)

/-! ## Row instructions -/

/-- R149, R150, R151, R154: shuffles read the source lane's register (0 where that lane is absent), RBALLOT and RANY and RALL read a
predicate over the present lanes.
01 R26, 07 R149: a thread that reaches a row instruction waits in the headland at it; in its handler it takes the
illegal-instruction trap (21 R375). -/
def Obligations.RowShufflesAndVotes : Prop :=
  ((∀ d a b g, RowComputes (.rshf d a b g) (guardTR g) [(d, 1), (a, 1), (b, 1)] fun v _ e t =>
    t.wr32 d (rowSource v a ((t.rd32 e b).toNat % 64))) ∧
  (∀ d a b g, RowComputes (.rshfx d a b g) (guardTR g) [(d, 1), (a, 1), (b, 1)] fun v j e t =>
    t.wr32 d (rowSource v a (j ^^^ ((t.rd32 e b).toNat % 64)))) ∧
  (∀ d a n g, RowComputes (.rbcast d a n g) (guardTR g) [(d, 1), (a, 1)] fun v _ _ t => t.wr32 d (rowSource v a n.val)) ∧
  (∀ d q g, RowComputes (.rballot d q g) (guardTR g) [(d, 2)] fun v _ _ t => t.wr64 d (BitVec.ofNat 64 (rowBallot v q.val))) ∧
  (∀ p q g, RowComputes (.rany p q g) (guardTR g) [] fun v _ _ t =>
    t.setPred p.val (v.any fun x => match x with | some (_, u) => u.pred q.val | none => false)) ∧
  (∀ p q g, RowComputes (.rall p q g) (guardTR g) [] fun v _ _ t =>
    t.setPred p.val (v.all fun x => match x with | some (_, u) => u.pred q.val | none => true)) ∧
  ∀ (v : RowView) (q j : Nat), j < 64 →
    (BitVec.ofNat 64 (rowBallot v q)).getLsbD j = match v.getD j none with | some (_, t) => t.pred q | none => false) ∧
  (∀ (i : Instr) (s : State) (r : Ref) (p : Plot) (th : Thread),
  isRow i = true → OneLane s r p th → s.cur.group = false →
  (th.sup = false → ∃ t, exec i s = .next t ∧ ThreadOnly s t r { th with place := .headland .rendezvous }) ∧
  (th.sup = true → ParksIn i s r th))

/-- R152, R153 for integers: a reduction gives every present lane the sum, least or greatest of the present lanes' values, a scan the
sum of the lanes up to and with (inclusive) or before (exclusive) its own; sums wrap.
R152, R153 for F32, by the fixed tree of 05 R117 over the 64 lanes, absent ones at the identity; sums round RNE, and the flags of
every node reach every present lane. -/
def Obligations.RowReductions : Prop :=
  ((∀ d a rt g, rt ≠ .f32 → RowComputes (.rredAddi d a rt g) (guardTR g) [(d, rtRegs rt), (a, rtRegs rt)] fun v _ _ t =>
    t.wrRow rt d ((presentValues v rt a).sum % 2 ^ rtWidth rt)) ∧
  (∀ d a rt g, rt = .u32 ∨ rt = .u64 → RowComputes (.rredMin d a rt g) (guardTR g) [(d, rtRegs rt), (a, rtRegs rt)] fun v _ _ t =>
    t.wrRow rt d ((presentValues v rt a).foldl min (2 ^ rtWidth rt - 1))) ∧
  (∀ d a rt g, rt = .u32 ∨ rt = .u64 → RowComputes (.rredMax d a rt g) (guardTR g) [(d, rtRegs rt), (a, rtRegs rt)] fun v _ _ t =>
    t.wrRow rt d ((presentValues v rt a).foldl max 0)) ∧
  (∀ d a rt g, rt = .i32 ∨ rt = .i64 → RowComputes (.rredMin d a rt g) (guardTR g) [(d, rtRegs rt), (a, rtRegs rt)] fun v _ _ t =>
    t.wrRow rt d (unsgn (rtWidth rt) (((presentValues v rt a).map (sgn (rtWidth rt))).foldl min (2 ^ (rtWidth rt - 1) - 1)))) ∧
  (∀ d a rt g, rt = .i32 ∨ rt = .i64 → RowComputes (.rredMax d a rt g) (guardTR g) [(d, rtRegs rt), (a, rtRegs rt)] fun v _ _ t =>
    t.wrRow rt d (unsgn (rtWidth rt) (((presentValues v rt a).map (sgn (rtWidth rt))).foldl max (-2 ^ (rtWidth rt - 1))))) ∧
  ∀ d a rt ex g, rt ≠ .f32 → RowComputes (.rscani d a rt ex g) (guardTR g) [(d, rtRegs rt), (a, rtRegs rt)] fun v j _ t =>
    t.wrRow rt d (((laneValues v rt a).take (if ex then j else j + 1)).sum % 2 ^ rtWidth rt)) ∧
  ((∀ d a g, RowComputes (.rredAddf d a g) (guardTR g) [(d, 1), (a, 1)] fun v _ _ t =>
    let x := (reduceTree addfNode (rowInputs v .f32 a (2 ^ 31))).headD (2 ^ 31, 0)
    t.wrFlags d (BitVec.ofNat 32 x.1, x.2)) ∧
  (∀ d a g mx, RowComputes (if mx then .rredMax d a .f32 g else .rredMin d a .f32 g) (guardTR g) [(d, 1), (a, 1)] fun v _ _ t =>
    let x := (reduceTree (minMaxNode .f32 mx) (rowInputs v .f32 a 0x7FC00000)).headD (0x7FC00000, 0)
    t.wrFlags d (BitVec.ofNat 32 x.1, x.2)) ∧
  (∀ d a ex g, RowComputes (.rscanf d a ex g) (guardTR g) [(d, 1), (a, 1)] fun v j _ t =>
    let xs := scanTree addfNode (rowInputs v .f32 a (2 ^ 31))
    t.wrFlags d (BitVec.ofNat 32 (if ex then (if j = 0 then 2 ^ 31 else (xs.getD (j - 1) (2 ^ 31, 0)).1) else (xs.getD j (2 ^ 31, 0)).1),
      xs.foldl (fun f y => f ||| y.2) 0)) ∧
  ∀ (op : Nat → Nat → Nat) (v : List Nat), v.length = 64 → (∀ x y z, op (op x y) z = op x (op y z)) →
    ∃ x l, v = x :: l ∧ reduceTree op v = [l.foldl op x])

/-! ## Control -/

/-- R159 and 01 R23: a BRA whose lanes agree keeps its drill; where they disagree and a slot is free, the taken part goes on in the
lowest free slot (that it is the taken part is log 10) and the rest stays.
R160, R166, R168: BRF files every thread at its outcome's PC; REFORM and YIELD file those whose guard holds at PC + 4. -/
def Obligations.BranchesAndFilings : Prop :=
  (∀ (pr : Fin 128) (n : Bool) (off : BitVec 18) (s : State), s.cur.lanes.Nodup →
  (∀ r ∈ s.cur.lanes, ∃ th, s.thread? r = some th) →
  let target := fun (th : Thread) => th.pc + 4 * off.signExtend 64
  ((∀ r ∈ s.cur.lanes, ∀ th, s.thread? r = some th → (th.pred pr.val != n) = true) →
    ∃ t, exec (.bra pr n off) s = .next t ∧ ChangesOn s.cur.lanes s t fun _ _ th => { th with pc := target th }) ∧
  ((∀ r ∈ s.cur.lanes, ∀ th, s.thread? r = some th → (th.pred pr.val != n) = false) →
    ∃ t, exec (.bra pr n off) s = .next t ∧ ChangesOn s.cur.lanes s t fun _ _ th => { th with pc := th.pc + 4 }) ∧
  ∀ k, tfree (s.core s.cur.core).drills 0 256 = some k →
    (∃ r ∈ s.cur.lanes, ∃ th, s.thread? r = some th ∧ (th.pred pr.val != n) = true) →
    (∃ r ∈ s.cur.lanes, ∃ th, s.thread? r = some th ∧ (th.pred pr.val != n) = false) →
    ∃ t, exec (.bra pr n off) s = .next t ∧ (∀ r ∉ s.cur.lanes, t.thread? r = s.thread? r) ∧ MemorySame s t ∧ SpadsSame s t ∧
      ∀ r ∈ s.cur.lanes, ∀ th, s.thread? r = some th →
        t.thread? r = some (if th.pred pr.val != n then { th with pc := target th, place := .drill k } else { th with pc := th.pc + 4 })) ∧
  (∀ (s : State) (r : Ref) (p : Plot) (th : Thread), OneLane s r p th →
  (∀ (pr : Fin 128) (n : Bool) (off : BitVec 18), ∃ t, exec (.brf pr n off) s = .next t ∧
    ThreadOnly s t r { th with pc := if th.pred pr.val != n then th.pc + 4 * off.signExtend 64 else th.pc + 4, place := .filed }) ∧
  (∀ g, ∃ t, exec (.reform g) s = .next t ∧
    ThreadOnly s t r (if guardY g th then { th with pc := th.pc + 4, place := .filed } else { th with pc := th.pc + 4 })) ∧
  (∀ g, ∃ t, exec (.yield g) s = .next t ∧
    ThreadOnly s t r (if guardY g th then { th with pc := th.pc + 4, place := .filed } else { th with pc := th.pc + 4 }) ∧
    (guardY g th = true → ∀ x, tget s.tracts p.tract = some x → tget t.tracts p.tract = some { x with yielded := true })))

/-- R161, R163, R164: a call pushes PC + 4 and a return pops the newest entry; an empty stack ends the thread; JMPI and CALLI go to a
target aligned to 4 and trap with code 3 on another, before the stack is touched. A stack of eight entries is spilled (R161):
here it has room.
R167, R169: EXIT ends the thread and frees its landing names; PAUSE sleeps for the cycles its register names, 0 for a filing. -/
def Obligations.CallsReturnsAndExits : Prop :=
  (∀ (s : State) (r : Ref) (p : Plot) (th : Thread), OneLane s r p th →
  (∀ (pr : Fin 128) (n : Bool) (off : BitVec 18), th.rstack.length < 8 → ∃ t, exec (.call pr n off) s = .next t ∧
    ThreadOnly s t r (if th.pred pr.val != n then { th with pc := th.pc + 4 * off.signExtend 64, rstack := (th.pc + 4) :: th.rstack }
      else { th with pc := th.pc + 4 })) ∧
  (∀ g v l, guardY g th = true → th.rstack = v :: l → ∃ t, exec (.ret g) s = .next t ∧ ThreadOnly s t r { th with pc := v, rstack := l }) ∧
  (∀ g, guardY g th = true → th.rstack = [] → th.spd = 0 → ∃ t, exec (.ret g) s = .next t ∧
    t.thread? r = some { th with place := .exited, pflt := false } ∧ OthersSame s t r ∧ MemorySame s t ∧ SpadsSame s t) ∧
  (∀ g, guardY g th = false → ∃ t, exec (.ret g) s = .next t ∧ ThreadOnly s t r { th with pc := th.pc + 4 }) ∧
  (∀ g a, guardY g th = true → th.inRange a 2 = true → (th.rd64 (envOf s r p) a).toNat % 4 = 0 →
    (∃ t, exec (.jmpi g a) s = .next t ∧ ThreadOnly s t r { th with pc := th.rd64 (envOf s r p) a }) ∧
    (th.rstack.length < 8 → ∃ t, exec (.calli g a) s = .next t ∧
      ThreadOnly s t r { th with pc := th.rd64 (envOf s r p) a, rstack := (th.pc + 4) :: th.rstack })) ∧
  ∀ g a, guardY g th = true → th.inRange a 2 = true → (th.rd64 (envOf s r p) a).toNat % 4 ≠ 0 → th.sup = false →
    TrapsWith (.jmpi g a) s r th 3 0 (th.rd64 (envOf s r p) a) ∧ TrapsWith (.calli g a) s r th 3 0 (th.rd64 (envOf s r p) a)) ∧
  (∀ (s : State) (r : Ref) (p : Plot) (th : Thread), OneLane s r p th → ∀ g, guardY g th = true →
  (∃ t, exec (.exit g) s = .next t ∧ ThreadOnly s t r { th with place := .exited, pflt := false } ∧
    ∀ c k n x, tget t.cores c = some k → tget k.slots n = some x → x.owner = r → x.state = .free) ∧
  ∀ a, th.inRange a 1 = true → ∃ t, exec (.pause g a) s = .next t ∧
    ThreadOnly s t r (if (th.rd32 (envOf s r p) a).toNat = 0 then { th with pc := th.pc + 4, place := .filed }
      else { th with place := .headland (.sleep (.pause (s.cycle + (th.rd32 (envOf s r p) a).toNat))) }))

/-! ## Traps -/

/-- 03 R44, R62 check 4, 21 R373: an operand out of the thread's registers takes the register-range trap: PC, WB and ix are saved,
ECODE is 2, EINFO the word, EADDR 0, SUP is set and the thread goes to TVEC; nothing else of it changes.
21 R375: with SUP = 1 a trap is a double trap: the thread parks at its PC and none of the saved registers is written. -/
def Obligations.TrapEntry : Prop :=
  (∀ (s : State) (r : Ref) (p : Plot) (th : Thread), OneLane s r p th → th.sup = false →
  ∀ (d a b : Reg) (g : Fin 8), guardTR g th = true →
    (th.inRange d 1 = false ∨ th.inRange a 1 = false ∨ th.inRange b 1 = false →
      TrapsWith (.iadd d a b g) s r th 2 0 0 ∧ TrapsWith (.sel d a b g) s r th 2 0 0 ∧ ∀ ty, TrapsWith (.fadd ty d a b g) s r th 2 0 0) ∧
    (th.inRange d 2 = false → TrapsWith (.clkrd d) s r th 2 0 0)) ∧
  (∀ (s : State) (r : Ref) (p : Plot) (th : Thread), OneLane s r p th → th.sup = true →
  (∀ n, ParksIn (.trap n) s r th) ∧
  ∀ (d a b : Reg) (g : Fin 8), guardTR g th = true → th.inRange d 1 = false → ParksIn (.iadd d a b g) s r th)

/-- 21 R379: TRAP takes trap 6 with its number above the code; BKPT stops the thread for the debugger when the context asks for
it, and takes trap 5 otherwise.
21 R376: ERET restores the PC, WB and ix that trap entry saved, clears SUP and files the thread at the PC; outside the handler it
is an illegal instruction, as TLBINV, SEEDSET and a write of FPARK are (R62 check 2).
21 R378: the write of FPARK in a handler parks the thread where ERET would have taken it, with a record of SRC 4 that holds bits [7:0] of the value
written, EPC, EADDR and a MASK of 0. -/
def Obligations.TrapsAndReturns : Prop :=
  (∀ (s : State) (r : Ref) (p : Plot) (th : Thread), OneLane s r p th → th.sup = false → ∀ n,
  TrapsWith (.trap n) s r th 6 n.val 0 ∧
  ((∀ c, tget s.ctxs p.ctx = some c → c.bks = false) → TrapsWith (.bkpt n) s r th 5 n.val 0) ∧
  ∀ c, tget s.ctxs p.ctx = some c → c.bks = true → c.still = false →
    ∃ t, exec (.bkpt n) s = .next t ∧
      ThreadOnly s t r { th with place := .headland .stopped, stopReq := false, stepping := false, noMatch := true, bkptStop := some n.val } ∧
      t.debug = s.debug ++ [.stopped r (some n.val)]) ∧
  (∀ (s : State) (r : Ref) (p : Plot) (th : Thread), OneLane s r p th →
  (th.sup = true → ∃ t, exec .eret s = .next t ∧
    ThreadOnly s t r { th with pc := th.epc, wb := th.ewb.toNat, ix := th.eix, tstat := th.tstat &&& 0xFFFFFEFF, place := .filed }) ∧
  (th.sup = false → TrapsWith .eret s r th 1 0 0 ∧ (∀ a all, TrapsWith (.tlbinv a all) s r th 1 0 0) ∧
    (∀ a, TrapsWith (.seedset a) s r th 1 0 0) ∧ ∀ a, TrapsWith (.swrFpark a) s r th 1 0 0)) ∧
  (∀ (s : State) (r : Ref) (p : Plot) (th : Thread), OneLane s r p th → th.sup = true →
  ∀ a, th.inRange a 1 = true → ∃ t, exec (.swrFpark a) s = .next t ∧
    t.thread? r = some { th with pc := th.epc, wb := th.ewb.toNat, ix := th.eix, tstat := th.tstat &&& 0xFFFFFEFF,
                                 place := .headland .parked, pflt := true } ∧
    ∀ c, tget s.ctxs p.ctx = some c → ∃ d f, tget t.ctxs p.ctx = some d ∧ (d.heldRecs = [f] ∨ ∃ n, tget d.recs n = some f) ∧
      f.src = 4 ∧ f.code = (th.rd32 (envOf s r p) a).toNat % 256 ∧ f.pc = th.epc ∧ f.addr = th.eaddr ∧ f.mask = 0 ∧ f.ref = some r)

/-- 21 R381, R382 and Table 21.2: SRD gives the register's value; SWR changes that register of the thread only (LPWB of the context);
CLKRD reads the cycle counter; a number the mode does not allow is an illegal instruction, which traps, or parks a thread in its handler (R375).
21 Table 21.2: a value written to a system register reads back, but for the bits the table fixes; PTAG reads the plot's tag, CORE the device and core, LSEL the
core's selector, LPWBn and LPWCn the windows of the context. -/
def Obligations.SystemRegisters : Prop :=
  (∀ (s : State) (r : Ref) (p : Plot) (th : Thread), OneLane s r p th →
  (∀ d n, srdLegal n.val th.sup = true → th.inRange d 1 = true → ∃ t, exec (.srd d n) s = .next t ∧
    ChangesOn [r] s t fun _ _ x => { x.wr32 d (s.sysRead r p th n.val) with pc := th.pc + 4 }) ∧
  (∀ a n, swrLegal n.val th.sup = true → th.inRange a 1 = true → n.val < 0x10 ∨ 0x30 ≤ n.val ∧ n.val < 0x3C → n.val ≠ 0x36 → ∃ t, exec (.swr a n) s = .next t ∧
    ChangesOn [r] s t fun _ _ x => { x.sysWrite n.val (th.rd32 (envOf s r p) a) with pc := th.pc + 4 }) ∧
  (∀ a, th.sup = true → th.inRange a 1 = true → (th.rd32 (envOf s r p) a).toNat % 4 = 0 → (th.rd32 (envOf s r p) a).toNat + 4 ≤ th.ra →
    ∃ t, exec (.swr a 0x36) s = .next t ∧ ChangesOn [r] s t fun _ _ x => { x with ewb := th.rd32 (envOf s r p) a, pc := th.pc + 4 }) ∧
  (∀ a (n : Fin 128), 0x10 ≤ n.val → n.val < 0x20 → th.inRange a 1 = true → ∃ t, exec (.swr a n) s = .next t ∧
    ThreadOnly s t r { th with pc := th.pc + 4 } ∧
    ∀ c, tget s.ctxs p.ctx = some c →
      tget t.ctxs p.ctx = some { c with lpwb := c.lpwb.set (n.val - 0x10) (th.rd32 (envOf s r p) a) }) ∧
  (∀ d, th.inRange d 2 = true → ∃ t, exec (.clkrd d) s = .next t ∧
    ChangesOn [r] s t fun _ _ x => { x.wr64 d (BitVec.ofNat 64 s.cycle) with pc := th.pc + 4 }) ∧
  (∀ a, th.sup = true → th.inRange a 1 = true → ¬((th.rd32 (envOf s r p) a).toNat % 4 = 0 ∧ (th.rd32 (envOf s r p) a).toNat + 4 ≤ th.ra) →
    ParksIn (.swr a 0x36) s r th) ∧
  (th.sup = false → (∀ d (n : Fin 128), 8 ≤ n.val ∧ n.val < 0x10 ∨ 0x30 ≤ n.val → TrapsWith (.srd d n) s r th 1 0 0) ∧
    ∀ a (n : Fin 128), 5 ≤ n.val ∧ n.val < 0x10 ∨ 0x30 ≤ n.val → TrapsWith (.swr a n) s r th 1 0 0) ∧
  (th.sup = true → (∀ d (n : Fin 128), 9 ≤ n.val ∧ n.val < 0x10 ∨ 0x3C ≤ n.val → ParksIn (.srd d n) s r th) ∧
    ∀ a (n : Fin 128), n.val = 5 ∨ 7 ≤ n.val ∧ n.val < 0x10 ∨ 0x3D ≤ n.val → ParksIn (.swr a n) s r th)) ∧
  (∀ (s : State) (r : Ref) (p : Plot) (t : Thread) (v : Word), t.scr.length = 4 →
  (∀ n ∈ [0x03, 0x04, 0x06, 0x31, 0x33, 0x34, 0x35, 0x36, 0x37, 0x38, 0x39, 0x3A, 0x3B], s.sysRead r p (t.sysWrite n v) n = v) ∧
  s.sysRead r p (t.sysWrite 0x30 v) 0x30 = v &&& 0xFFFFFFFC ∧ s.sysRead r p (t.sysWrite 0x32 v) 0x32 = v &&& 0x7FFF ∧
  s.sysRead r p (t.sysWrite 0x00 v) 0x00 = (t.tstat &&& 0x100) ||| (v &&& 0x7F) ∧ s.sysRead r p (t.sysWrite 0x01 v) 0x01 = v &&& 3 ∧
  s.sysRead r p (t.sysWrite 0x02 v) 0x02 = ((v.setWidth 12).signExtend 32) ∧
  s.sysRead r p t 0x05 = BitVec.ofNat 32 (r.tag % 2 ^ 20) ∧ s.sysRead r p t 0x07 = BitVec.ofNat 32 (s.device % 2 ^ 10 * 2 ^ 16 + p.core % 2 ^ 7) ∧
  s.sysRead r p t 0x08 = (s.core p.core).sel ∧
  ∀ c, tget s.ctxs p.ctx = some c → ∀ n, n < 16 → s.sysRead r p t (0x10 + n) = c.lpwb.getD n 0 ∧ s.sysRead r p t (0x20 + n) = c.lpwc.getD n 0)

/-- 01 R25, 09 R193, 21 R383 to R385: SEEDSET sets the core's selector (0 reads as 1); TLBINV takes the context's translations away; a
write of LPWC sets the window; CINV drops the line from the core's L1 and its die's L2; CWB leaves every copy and none dirty. That a window's millisecond begins
with the write is log 14's choice; L2 tags hold lines of this device (log 42). -/
def Obligations.CachesAndTranslations : Prop := ∀ (s : State) (r : Ref) (p : Plot) (th : Thread), OneLane s r p th → ∀ a,
  (th.sup = true → th.inRange a 1 = true → ∃ t, exec (.seedset a) s = .next t ∧ ThreadOnly s t r { th with pc := th.pc + 4 } ∧
    (t.core p.core).sel = if th.rd32 (envOf s r p) a = 0 then 1 else th.rd32 (envOf s r p) a) ∧
  (th.sup = true → th.inRange a 2 = true → ∀ all, ∃ t, exec (.tlbinv a all) s = .next t ∧ ThreadOnly s t r { th with pc := th.pc + 4 } ∧
    ∀ c k e, tget t.cores c = some k → e ∈ k.tb → e.ctx = p.ctx → all = false ∧
      ¬(e.vbase ≤ (th.rd64 (envOf s r p) a).toNat ∧ (th.rd64 (envOf s r p) a).toNat < e.vbase + e.size)) ∧
  (∀ n, th.inRange a 1 = true → ∃ t, exec (.swrLpwc a n) s = .next t ∧ ThreadOnly s t r { th with pc := th.pc + 4 } ∧
    ∀ c, tget s.ctxs p.ctx = some c → ∃ c', tget t.ctxs p.ctx = some c' ∧
      c' = { c with lpwc := c.lpwc.set n.val (th.rd32 (envOf s r p) a &&& 0xFF0FFFFF), lpwHit := c.lpwHit.set n.val false, lpwTick := c.lpwTick.set n.val s.time }) ∧
  (th.inRange a 2 = true → ∀ e, s.xlate p.core p.ctx (th.rd64 (envOf s r p) a).toNat accLoad = (s, .ok e) → e.view = false →
    (∀ l1 l2, ∃ t, exec (.cinv a l1 l2) s = .next t ∧ ThreadOnly s t r { th with pc := th.pc + 4, st := th.st + 1 } ∧
      (l1 = true → ∀ x ∈ (t.core p.core).l1, x.addr ≠ e.pa (th.rd64 (envOf s r p) a).toNat / 128 * 128) ∧
      (l2 = true → devOf (e.pa (th.rd64 (envOf s r p) a).toNat) = s.device → tget t.l2 (lineOf (e.pa (th.rd64 (envOf s r p) a).toNat) * 4 + p.core / 32 % 4) = none)) ∧
    ∃ t, exec (.cwb a) s = .next t ∧ ThreadOnly s t r { th with pc := th.pc + 4, st := th.st + 1 } ∧
      (devOf (e.pa (th.rd64 (envOf s r p) a).toNat) = s.device → (∀ x, tget t.llc (lineOf (e.pa (th.rd64 (envOf s r p) a).toNat)) = some x → x.dirty = false) ∧
        ∀ k x, k / 4 = lineOf (e.pa (th.rd64 (envOf s r p) a).toNat) → tget s.l2 k = some x → tget t.l2 k = some { x with dirty := 0 }))

/-! ## Memory accesses -/

/-- 13 R255, R262, 11 R223, 09 R186: LD leaves a request for the bytes at the address it computes, counted in LD, and changes nothing else; when its turn has
come it takes the bytes at their place (when the core's L1 holds no line of them or the load is an acquire, which reads past it), writes them to D and
lowers LD, and changes no byte of memory.
13 R262, 11 R223, 09 R197: ST leaves a request to store its register's low bytes at the address it computes, counted in ST, and changes nothing else; when its turn has
come the bytes are written there, lowest first, and no other byte, and ST is lowered. -/
def Obligations.LoadsAndStores : Prop :=
  ((∀ (s : State) (r : Ref) (p : Plot) (th : Thread), OneLane s r p th →
    ∀ (d a : Reg) (off : BitVec 4) (rc : RC) (sc : Scope) (ord : Bool) (sz : Sz) (e : TbEntry),
    let n := szBytes sz
    let va := addrM s r p th a off n
    th.inRanges [(d, szRegs sz), (a, 2)] = true → Reaches s p va n accLoad e →
    ∃ t q, exec (.ld d a off rc sc ord sz) s = .next t ∧ Leaves s t r th q ∧ ToPlace p e va n q ∧ q.op = .load sz ∧ q.dst = th.dstOf d ∧
      q.words = szRegs sz ∧ q.acq = ord ∧ q.rel = false ∧ q.scope = sc ∧ q.rc = rc) ∧
  ∀ (s : State) (id : Nat) (q : Req) (th : Thread) (e : TbEntry) (sz : Sz) (v : WireValue),
    Turn s id q th → AtPlace s q e → q.op = .load sz →
    (q.acq = true ∨ e.inL1 = false ∨ l1Find (s.core q.core).l1 (q.pa / 128 * 128) = none) →
    ∃ t, exec (.loadReturn id v) s = .next t ∧ MemoryOnly s t ∧ MemorySame s t ∧ SpadsSame s t ∧
      Returned s t id q th (loadWords sz (BitVec.ofNat 128 (s.placeNat (s.areaOf e q.va) (s.offsetOf e q.va) q.bytes))) 0) ∧
  ((∀ (s : State) (r : Ref) (p : Plot) (th : Thread), OneLane s r p th →
    ∀ (d a : Reg) (off : BitVec 4) (rc : RC) (sc : Scope) (ord : Bool) (sz : Sz) (e : TbEntry),
    let n := szBytes sz
    let va := addrM s r p th a off n
    th.inRanges [(d, szRegs sz), (a, 2)] = true → Reaches s p va n accStore e →
    ∃ t q, exec (.st d a off rc sc ord sz) s = .next t ∧ Leaves s t r th q ∧ ToPlace p e va n q ∧ q.op = .store ∧
      q.data = BitVec.ofNat 128 (storeNat s r p th d (szRegs sz)) ∧ q.acq = false ∧ q.rel = ord ∧ q.scope = sc ∧ q.rc = rc) ∧
  ∀ (s : State) (id : Nat) (q : Req) (th : Thread) (e : TbEntry) (f : WireAck), s.memoriesOk →
    Turn s id q th → AtPlace s q e → q.op = .store →
    ∃ t, exec (.storeAck ⟨id, f⟩) s = .next t ∧ MemoryOnly s t ∧ SpadsSame s t ∧ Stored s t id q th ∧
      MemorySameBut s t (s.areaOf e q.va) (s.offsetOf e q.va) q.bytes ∧
      ∀ i, i < q.bytes → t.placeByte (s.areaOf e q.va) (s.offsetOf e q.va + i) = BitVec.ofNat 8 (q.data.toNat / 256 ^ i))

/-- 13 R271, R272, 09 R198: LR and SC leave requests counted in LD. At its place LR loads and makes the thread's one reservation; SC stores when the reservation is for its address and
width and younger than 4,096 cycles, and only then, and gives 0 then and 1 otherwise, with 0 above it; it always gives the reservation up. -/
def Obligations.ReservedAccesses : Prop :=
  (∀ (s : State) (r : Ref) (p : Plot) (th : Thread), OneLane s r p th →
    ∀ (d a : Reg) (off : BitVec 4) (rc : RC) (sc : Scope) (ord : Bool) (sz : Sz) (e : TbEntry),
    let n := szBytes sz
    let va := addrM s r p th a off n
    th.inRanges [(d, szRegs sz), (a, 2)] = true →
    (Reaches s p va n accLR e → ∃ t q, exec (.lr d a off rc sc ord sz) s = .next t ∧ Leaves s t r th q ∧ ToPlace p e va n q ∧ q.op = .lr ∧
      q.dst = th.dstOf d ∧ q.words = szRegs sz ∧ q.acq = ord ∧ q.rel = false) ∧
    (Reaches s p va n accSC e → ∃ t q, exec (.sc d a off rc sc ord sz) s = .next t ∧ Leaves s t r th q ∧ ToPlace p e va n q ∧ q.op = .sc false ∧
      q.dst = th.dstOf d ∧ q.words = szRegs sz ∧ q.data = BitVec.ofNat 128 (storeNat s r p th d (szRegs sz)) ∧ q.acq = false ∧ q.rel = ord)) ∧
  ∀ (s : State) (id : Nat) (q : Req) (th : Thread) (e : TbEntry) (v : WireValue), s.memoriesOk → Turn s id q th → AtPlace s q e →
    let o := s.areaOf e q.va
    let x := s.offsetOf e q.va
    let key := placeKey (s.placeOf e q.pa)
    (q.op = .lr → ∃ t, exec (.loadReturn id v) s = .next t ∧ MemoryOnly s t ∧ MemorySame s t ∧ SpadsSame s t ∧
      Returned s t id q th ((words128 (BitVec.ofNat 128 (s.placeNat o x q.bytes))).take q.words) 0 ∧
      t.reservationOf q.ref = some { peer := none, ref := q.ref, table := s.reservationTable e q.pa, pa := key, bytes := q.bytes, made := s.cycle }) ∧
    (∀ b, q.op = .sc b →
      (∀ y, s.reservationOf q.ref = some y → y.pa = key → y.bytes = q.bytes → s.cycle < y.made + 4096 →
        ∃ t, exec (.loadReturn id v) s = .next t ∧ MemoryOnly s t ∧ SpadsSame s t ∧ t.reservationOf q.ref = none ∧
          Returned s t id q th (0 :: List.replicate (q.words - 1) 0) 0 ∧ MemorySameBut s t o x q.bytes ∧
          ∀ i, i < q.bytes → t.placeByte o (x + i) = BitVec.ofNat 8 (q.data.toNat / 256 ^ i)) ∧
      ((∀ y, s.reservationOf q.ref = some y → ¬(y.pa = key ∧ y.bytes = q.bytes ∧ s.cycle < y.made + 4096)) →
        ∃ t, exec (.loadReturn id v) s = .next t ∧ MemoryOnly s t ∧ SpadsSame s t ∧ t.reservationOf q.ref = none ∧ MemorySame s t ∧
          Returned s t id q th (1 :: List.replicate (q.words - 1) 0) 0))

/-- 13 R265 to R268: a global atomic leaves a request counted in LD. At its place it reads the old bytes and in the same step writes what Table 13.3 gives over them, or nothing where a CAS
does not find its expected value; D takes the old value and TSTAT the flags. -/
def Obligations.AtomicsReadAndWrite : Prop :=
  (∀ (s : State) (r : Ref) (p : Plot) (th : Thread), OneLane s r p th →
    ∀ (i : Instr) (aop n : Nat) (d a : Reg) (rc : RC) (sc : Scope) (o : AOrd) (e : TbEntry), atomForm i = some (aop, n, d, a, rc, sc, o) →
    let va := (th.rd64 (envOf s r p) a).toNat
    th.inRanges [(d, operandRegs aop n), (a, 2)] = true → Reaches s p va n accAtomic e →
    ∃ t q, exec i s = .next t ∧ Leaves s t r th q ∧ ToPlace p e va n q ∧ q.op = .atom aop (BitVec.ofNat 128 (storeNat s r p th d (operandRegs aop n))) ∧
      q.dst = th.dstOf d ∧ q.words = n / 4 ∧ q.acq = ordAcq o ∧ q.rel = ordRel o ∧ q.scope = sc ∧ q.rmode = th.rmode) ∧
  ∀ (s : State) (id : Nat) (q : Req) (th : Thread) (e : TbEntry) (aop : Nat) (v : Quad) (w : WireValue), s.memoriesOk →
    Turn s id q th → AtPlace s q e → q.op = .atom aop v → atomWidth aop q.bytes →
    let o := s.areaOf e q.va
    let x := s.offsetOf e q.va
    let old := s.placeNat o x q.bytes
    ∃ t, exec (.loadReturn id w) s = .next t ∧ MemoryOnly s t ∧ SpadsSame s t ∧ MemorySameBut s t o x q.bytes ∧
      t.placeNat o x q.bytes = (tableNew aop q.bytes old v.toNat q.rmode).getD old ∧
      Returned s t id q th ((words128 (BitVec.ofNat 128 old)).take q.words) (BitVec.ofNat 32 (tableFlags aop old v.toNat q.rmode))

/-- 13 R264, R255, 11 R223: LDS and STS leave requests to the scratchpad bank, by the offset the address names (09 R174); at the bank LDS takes the bytes and STS writes
its register's low bytes, and no other byte.
13 R269: the scratchpad atomics, by Table 13.3, at the bank. -/
def Obligations.ScratchpadAccesses : Prop :=
  ((∀ (s : State) (r : Ref) (p : Plot) (th : Thread), OneLane s r p th →
    ∀ (d a : Reg) (off : BitVec 9) (sz : Sz) (tag x : Nat),
    let n := szBytes sz
    let va := addrS s r p th a off n
    th.inRanges [(d, szRegs sz), (a, 1)] = true → va % n = 0 → s.spadAt r.tag va n = .ok (tag, x) →
    (∃ t q, exec (.lds d a off sz) s = .next t ∧ Leaves s t r th q ∧ ToBank p tag x n q ∧ q.op = .load sz ∧ q.dst = th.dstOf d ∧ q.words = szRegs sz) ∧
    ∃ t q, exec (.sts d a off sz) s = .next t ∧ Leaves s t r th q ∧ ToBank p tag x n q ∧ q.op = .store ∧
      q.data = BitVec.ofNat 128 (storeNat s r p th d (szRegs sz))) ∧
  ∀ (s : State) (id : Nat) (q : Req) (th : Thread) (tag x : Nat) (g : Plot) (v : WireValue) (f : WireAck), s.memoriesOk →
    Turn s id q th → q.stage = .bank tag x → tget s.plots tag = some g →
    (∀ sz, q.op = .load sz → ∃ t, exec (.loadReturn id v) s = .next t ∧ MemorySame s t ∧ SpadsSame s t ∧
      Returned s t id q th (loadWords sz (BitVec.ofNat 128 (s.spadNat tag x q.bytes))) 0) ∧
    (q.op = .store → ∃ t, exec (.storeAck ⟨id, f⟩) s = .next t ∧ MemorySame s t ∧ SpadsSameBut s t tag x q.bytes ∧ Stored s t id q th ∧
      ∀ i, i < q.bytes → t.spadByte tag (x + i) = BitVec.ofNat 8 (q.data.toNat / 256 ^ i))) ∧
  ((∀ (s : State) (r : Ref) (p : Plot) (th : Thread), OneLane s r p th →
    ∀ (i : Instr) (aop n : Nat) (d a : Reg) (o : AOrd) (tag x : Nat), atomsForm i = some (aop, n, d, a, o) →
    let va := (th.rd32 (envOf s r p) a).toNat
    th.inRanges [(d, operandRegs aop n), (a, 1)] = true → va % n = 0 → s.spadAt r.tag va n = .ok (tag, x) →
    ∃ t q, exec i s = .next t ∧ Leaves s t r th q ∧ ToBank p tag x n q ∧ q.op = .atom aop (BitVec.ofNat 128 (storeNat s r p th d (operandRegs aop n))) ∧
      q.dst = th.dstOf d ∧ q.words = n / 4 ∧ q.acq = ordAcq o ∧ q.rel = ordRel o ∧ q.rmode = th.rmode) ∧
  ∀ (s : State) (id : Nat) (q : Req) (th : Thread) (tag x : Nat) (g : Plot) (aop : Nat) (v : Quad) (w : WireValue), s.memoriesOk →
    Turn s id q th → q.stage = .bank tag x → tget s.plots tag = some g → q.op = .atom aop v → atomWidth aop q.bytes →
    let old := s.spadNat tag x q.bytes
    ∃ t, exec (.loadReturn id w) s = .next t ∧ MemorySame s t ∧ SpadsSameBut s t tag x q.bytes ∧
      t.spadNat tag x q.bytes = (tableNew aop q.bytes old v.toNat q.rmode).getD old ∧
      Returned s t id q th ((words128 (BitVec.ofNat 128 old)).take q.words) (BitVec.ofNat 32 (tableFlags aop old v.toNat q.rmode)))

/-- 03 R62 check 6, 13 R262, R264, R265, R269, R271, R272: an address that is not a multiple of the size takes the alignment trap with the address in EADDR,
before any translation; 21 R386: where translation fails, or the address lies outside the scratchpad (09 R174), the thread parks at its PC. -/
def Obligations.MisalignedAndUntranslated : Prop := ∀ (s : State) (r : Ref) (p : Plot) (th : Thread), OneLane s r p th → th.sup = false →
  (∀ (d a : Reg) (off : BitVec 4) (rc : RC) (sc : Scope) (ord : Bool) (sz : Sz), th.inRanges [(d, szRegs sz), (a, 2)] = true →
    let va := addrM s r p th a off (szBytes sz)
    (va % szBytes sz ≠ 0 →
      TrapsWith (.ld d a off rc sc ord sz) s r th 3 0 (BitVec.ofNat 64 va) ∧ TrapsWith (.st d a off rc sc ord sz) s r th 3 0 (BitVec.ofNat 64 va) ∧
      TrapsWith (.lr d a off rc sc ord sz) s r th 3 0 (BitVec.ofNat 64 va) ∧ TrapsWith (.sc d a off rc sc ord sz) s r th 3 0 (BitVec.ofNat 64 va)) ∧
    (va % szBytes sz = 0 → ∀ c, c < 0x20 →
      (s.xlate p.core p.ctx va accLoad = (s, .error c) → ParksIn (.ld d a off rc sc ord sz) s r th) ∧
      (s.xlate p.core p.ctx va accStore = (s, .error c) → ParksIn (.st d a off rc sc ord sz) s r th) ∧
      (s.xlate p.core p.ctx va accLR = (s, .error c) → ParksIn (.lr d a off rc sc ord sz) s r th) ∧
      (s.xlate p.core p.ctx va accSC = (s, .error c) → ParksIn (.sc d a off rc sc ord sz) s r th))) ∧
  (∀ (d a : Reg) (off : BitVec 9) (sz : Sz), th.inRanges [(d, szRegs sz), (a, 1)] = true →
    let va := addrS s r p th a off (szBytes sz)
    (va % szBytes sz ≠ 0 → TrapsWith (.lds d a off sz) s r th 3 0 (BitVec.ofNat 64 va) ∧ TrapsWith (.sts d a off sz) s r th 3 0 (BitVec.ofNat 64 va)) ∧
    (va % szBytes sz = 0 → (∀ x, s.spadAt r.tag va (szBytes sz) ≠ .ok x) → ParksIn (.lds d a off sz) s r th ∧ ParksIn (.sts d a off sz) s r th)) ∧
  (∀ i aop n d a rc sc o, atomForm i = some (aop, n, d, a, rc, sc, o) → th.inRanges [(d, operandRegs aop n), (a, 2)] = true →
    let va := th.rd64 (envOf s r p) a
    (va.toNat % n ≠ 0 → TrapsWith i s r th 3 0 va) ∧
    (va.toNat % n = 0 → ∀ c, c < 0x20 → s.xlate p.core p.ctx va.toNat accAtomic = (s, .error c) → ParksIn i s r th)) ∧
  ∀ i aop n d a o, atomsForm i = some (aop, n, d, a, o) → th.inRanges [(d, operandRegs aop n), (a, 1)] = true →
    let va := th.rd32 (envOf s r p) a
    (va.toNat % n ≠ 0 → TrapsWith i s r th 3 0 (va.setWidth 64)) ∧
    (va.toNat % n = 0 → (∀ x, s.spadAt r.tag va.toNat n ≠ .ok x) → ParksIn i s r th)

/-! ## Waiting, barriers, landing names -/

/-- 13 R257, R258, 11 R236: WAIT goes on when the four counters are at or below its bounds and sleeps otherwise. FENCE goes on and becomes the source
of later writes of its classes; it completes at once where no earlier access of its mask is outstanding, is left waiting otherwise, and completes when they have completed. -/
def Obligations.WaitAndFence : Prop :=
  (∀ (s : State) (r : Ref) (p : Plot) (th : Thread), OneLane s r p th →
    (∀ a b c d : Fin 64,
      (th.ld ≤ a.val ∧ th.st ≤ b.val ∧ th.cp ≤ c.val ∧ th.tl ≤ d.val →
        ∃ t, exec (.wait a b c d) s = .next t ∧ ThreadOnly s t r { th with pc := th.pc + 4 }) ∧
      (¬(th.ld ≤ a.val ∧ th.st ≤ b.val ∧ th.cp ≤ c.val ∧ th.tl ≤ d.val) →
        ∃ t, exec (.wait a b c d) s = .next t ∧ ThreadOnly s t r (asleep th (.wait a.val b.val c.val d.val)))) ∧
    ∀ sc o a x, ∃ t u, exec (.fence sc o a x) s = .next t ∧ t.thread? r = some u ∧ OthersSame s t r ∧ MemorySame s t ∧ SpadsSame s t ∧
      u = { th with pc := th.pc + 4, tstat := u.tstat, seen := u.seen, fenceO := if o then some sc else th.fenceO,
                    fenceA := if a then some sc else th.fenceA, fenceS := if x then some sc else th.fenceS, fenceL := some sc } ∧
      (∀ b, b ≠ 5 → u.tstat.getLsbD b = th.tstat.getLsbD b) ∧
      (s.fenceReady s.nextId r { o := o, a := a, s := x } = true → t.reqs = s.reqs ∧ u.seen = th.seen.filter fun y => !y.inMask { o := o, a := a, s := x }) ∧
      (s.fenceReady s.nextId r { o := o, a := a, s := x } = false → u.seen = th.seen ∧ u.tstat = th.tstat ∧
        ∃ q, tget t.reqs s.nextId = some q ∧ q.ref = r ∧ q.op = .fence { o := o, a := a, s := x } ∧ q.scope = sc)) ∧
  ∀ (s : State) (id : Nat) (q : Req) (th : Thread) (m : Classes) (f : WireAck), tget s.reqs id = some q → s.thread? q.ref = some th → q.op = .fence m →
    NoDelivery s q.ref →
    (s.fenceReady id q.ref m = false → exec (.storeAck ⟨id, f⟩) s = .next s) ∧
    (s.fenceReady id q.ref m = true → ∃ t u, exec (.storeAck ⟨id, f⟩) s = .next t ∧ tget t.reqs id = none ∧ t.thread? q.ref = some u ∧ OthersSame s t q.ref ∧
      MemorySame s t ∧ SpadsSame s t ∧ u = { th with tstat := u.tstat, seen := th.seen.filter fun y => !y.inMask m } ∧
      ∀ b, b ≠ 5 → u.tstat.getLsbD b = th.tstat.getLsbD b)

/-- 13 R281, R282: BARP and, for a member of its common, BARC arrive and sleep; BARC by another thread goes on.
13 R281, R282: when every live thread has arrived, a plot barrier and a common barrier file the threads that sleep in them at their PC + 4, and
the next instance begins with nobody arrived. -/
def Obligations.BarriersArriveAndComplete : Prop :=
  (∀ (s : State) (r : Ref) (p : Plot) (th : Thread), OneLane s r p th →
  (∃ t, exec .barp s = .next t ∧ ThreadOnly s t r (asleep th .barp) ∧ ∃ q, tget t.plots r.tag = some q ∧ ∀ i, i ∈ q.barp ↔ i = r.tid ∨ i ∈ p.barp) ∧
  ∀ a, th.inRange a 1 = true →
    let c := (th.rd32 (envOf s r p) a).toNat % 256
    ((s.members p.sow c).contains (s.tractIndex p, p.index) = true → ∃ t, exec (.barc a) s = .next t ∧ ThreadOnly s t r (asleep th (.barc c)) ∧
      ∃ w l, tget t.sowings p.sow = some w ∧ tget w.barc c = some l ∧ r ∈ l) ∧
    ((s.members p.sow c).contains (s.tractIndex p, p.index) = false → ∃ t, exec (.barc a) s = .next t ∧ ThreadOnly s t r { th with pc := th.pc + 4 })) ∧
  (∀ (s : State),
  (∀ tag p, tget s.plots tag = some p → p.barpReady = true → s.plotPlaced tag = true → p.barp.Nodup →
    ∃ t q, exec (.barpComplete tag) s = .next t ∧ tget t.plots tag = some q ∧ q.barp = [] ∧
      ∀ i ∈ p.barp, ∀ th, Sleeps s ⟨tag, i⟩ th .barp → t.thread? ⟨tag, i⟩ = some { th with pc := th.pc + 4, place := .filed }) ∧
  ∀ sow com w l, tget s.sowings sow = some w → tget w.barc com = some l → s.barcReady sow com = true → l.Nodup →
    ∃ t v, exec (.barcComplete sow com) s = .next t ∧ tget t.sowings sow = some v ∧ tget v.barc com = none ∧
      ∀ r ∈ l, ∀ th, Sleeps s r th (.barc com) → t.thread? r = some { th with pc := th.pc + 4, place := .filed })

/-- 13 R274 to R277, 09 R217, 11 R244: BCINIT, BCEXP and BCARR leave for the bank of the barrier their address names. There the operations that wait stand in the order of their cycle, then arrivals,
expectations and initialisations, then core and lane, and act in that order, each once its own turn has come; the phase flips and REM starts anew when an arrival brings REM
to 0 or below; an operation that would leave REM's range sets OVF instead. Reserved bits are written 0 (log 23).
13 R279, 11 R244: BCWAIT and BCTEST follow the operations that wait at the barrier, which act first (settleBar). BCWAIT goes on and BCTEST writes true when the phase named (PH xor bit 0 of the address) is over; otherwise BCWAIT sleeps and
BCTEST writes false. -/
def Obligations.ByteCountBarriers : Prop :=
  ((∀ (s : State) (r : Ref) (p : Plot) (th : Thread), OneLane s r p th → ∀ (a b : Reg) (tag x : Nat), th.inRanges [(a, 1), (b, 1)] = true →
    s.spadAt r.tag ((th.rd32 (envOf s r p) a).toNat / 16 * 16) 16 = .ok (tag, x) →
    let v := (th.rd32 (envOf s r p) b).toNat
    (∃ t q, exec (.bcinit a b) s = .next t ∧ Leaves s t r th q ∧ ToBank p tag x 16 q ∧ q.op = .bcinit v ∧ q.rel = false) ∧
    (∃ t q, exec (.bcexp a b) s = .next t ∧ Leaves s t r th q ∧ ToBank p tag x 16 q ∧ q.op = .bcexp (v % 2 ^ 30) ∧ q.rel = false) ∧
    ∃ t q, exec (.bcarr a b) s = .next t ∧ Leaves s t r th q ∧ ToBank p tag x 16 q ∧ q.op = .bcarr (v % 2 ^ 30) ∧ q.rel = true) ∧
  (∀ (s : State) (tag x : Nat), (s.barPending tag x).Pairwise (fun y z => y.2.core ≤ 128 → z.2.core ≤ 128 → ActsBefore y.2 z.2) ∧
    ∀ y, y ∈ s.barPending tag x ↔ y ∈ s.reqs ∧ y.2.op.barKind.isSome = true ∧ y.2.stage = .bank tag x) ∧
  (∀ (s : State) (id : Nat) (q : Req) (th : Thread) (tag x : Nat) (g : Plot) (f : WireAck), s.memoriesOk → Turn s id q th → q.stage = .bank tag x →
    tget s.plots tag = some g → s.barPending tag x = [(id, q)] → (s.barAt tag x).init < 2 ^ 30 →
    ∃ t, exec (.storeAck ⟨id, f⟩) s = .next t ∧ Stored s t id q th ∧ MemorySame s t ∧ SpadsSameBut s t tag x 16 ∧
      t.barAt tag x = barEffect q.op (s.barAt tag x)) ∧
  ∀ (s : State) (id1 id2 : Nat) (q1 q2 : Req) (th1 th2 : Thread) (tag x : Nat) (g : Plot) (f : WireAck), s.memoriesOk → tsorted s.reqs = true →
    q1.stage = .bank tag x → q2.stage = .bank tag x → tget s.plots tag = some g → s.barPending tag x = [(id1, q1), (id2, q2)] → (s.barAt tag x).init < 2 ^ 30 →
    Turn s id1 q1 th1 → Turn (s.barStep tag x (id1, q1)) id2 q2 th2 →
    (∃ t, exec (.storeAck ⟨id1, f⟩) s = .next t ∧ Stored s t id1 q1 th1 ∧ MemorySame s t ∧ SpadsSameBut s t tag x 16 ∧
      tget t.reqs id2 = some { q2 with stage := .performed 0 } ∧ t.barAt tag x = barEffect q2.op (barEffect q1.op (s.barAt tag x))) ∧
    (s.settleBar tag x).barAt tag x = barEffect q2.op (barEffect q1.op (s.barAt tag x))) ∧
  (∀ (s0 : State) (r : Ref) (p : Plot) (th : Thread), OneLane s0 r p th →
  ∀ (a : Reg) (ph : Bool) (tag x : Nat), th.inRange a 1 = true →
  let v := th.rd32 (envOf s0 r p) a
  s0.spadAt r.tag (v.toNat / 16 * 16) 16 = .ok (tag, x) →
  let s := s0.settleBar tag x
  let want := ph ^^ v.getLsbD 0
  (s0.barPending tag x = [] → s = s0) ∧
  ((s.barAt tag x).phase ≠ want → ∃ t, exec (.bcwait a ph) s0 = .next t ∧ GoesOn s t r th) ∧
  ((s.barAt tag x).phase = want → ∃ t, exec (.bcwait a ph) s0 = .next t ∧
    ThreadOnly s t r (asleep th (.bcwait (BitVec.ofNat 32 (v.toNat / 16 * 16)) want))) ∧
  ∀ pd : Fin 128, ∃ t u, exec (.bctest pd a ph) s0 = .next t ∧ t.thread? r = some u ∧ OthersSame s t r ∧ MemorySame s t ∧ SpadsSame s t ∧
    u = { (th.setPred pd.val (decide ((s.barAt tag x).phase ≠ want))) with pc := th.pc + 4, tstat := u.tstat } ∧
    ∀ b, b ≠ 5 → u.tstat.getLsbD b = th.tstat.getLsbD b)

/-- 13 R283, R285: WAITW goes on when the word differs from its register and sleeps when it is the same; an address that is not a multiple of
4 traps. RNEXT moves the thread's cursor to the next stage of a ring of 2 to 8 stages, and parks at a bad ring. -/
def Obligations.WaitwAndRings : Prop := ∀ (s : State) (r : Ref) (p : Plot) (th : Thread), OneLane s r p th →
  (∀ (a b : Reg) (e : TbEntry), th.inRanges [(a, 2), (b, 1)] = true →
    let va := th.rd64 (envOf s r p) a
    Reaches s p va.toNat 4 accLoad e →
    let x := BitVec.ofNat 32 (s.placeNat (s.areaOf e va.toNat) (s.offsetOf e va.toNat) 4)
    (x ≠ th.rd32 (envOf s r p) b → ∃ t, exec (.waitw a b) s = .next t ∧ GoesOn s t r th) ∧
    (x = th.rd32 (envOf s r p) b → ∃ t, exec (.waitw a b) s = .next t ∧
      ThreadOnly s t r (asleep th (.waitw va (th.rd32 (envOf s r p) b) s.time)) ∧
      { ref := r, sector := placeKey (s.placeOf e (e.pa va.toNat)) / 32, hit := false } ∈ t.watches)) ∧
  (∀ (a b : Reg), th.sup = false → th.inRanges [(a, 2), (b, 1)] = true → (th.rd64 (envOf s r p) a).toNat % 4 ≠ 0 →
    TrapsWith (.waitw a b) s r th 3 0 (th.rd64 (envOf s r p) a)) ∧
  ∀ (d a : Reg) (tag x : Nat), th.inRanges [(d, 1), (a, 1)] = true →
    let v := th.rd32 (envOf s r p) a
    let h : Word := BitVec.ofNat 32 (v.toNat / 16 * 16)
    s.spadAt r.tag (v.toNat / 16 * 16) 16 = .ok (tag, x) →
    let n := s.spadNat tag x 16 % 16
    (n < 2 ∨ 8 < n → ParksIn (.rnext d a) s r th) ∧
    (2 ≤ n → n ≤ 8 → ∃ t u, exec (.rnext d a) s = .next t ∧ ThreadOnly s t r { (u.wr32 d (h + 16 + 32 * BitVec.ofNat 32 u.rcurStage + (if u.rcurPhase then 1 else 0))) with pc := th.pc + 4 } ∧
      u = if v.getLsbD 0 = true ∨ th.rcurRing ≠ h then { th with rcurRing := h, rcurStage := 0, rcurPhase := false }
        else if th.rcurStage + 1 = n then { th with rcurStage := 0, rcurPhase := !th.rcurPhase }
        else { th with rcurStage := th.rcurStage + 1 })

/-- 13 R286 to R290, R293: MINT binds the lowest free slot to a register, or a pair, that has no name, for 1 to 1,000,000 microseconds, with a name that holds device, core, slot and
generation and a check tag that is not 0 (its value is free, log 6), and gives 0 where no slot is free; LAND leaves with the name and value, counted in ST; LDROP frees
the slot of a name of the thread and marks its register lapsed.
13 R292: LWAIT and LTEST on a register: pending, LWAIT sleeps and LTEST writes false; otherwise both write whether a value was delivered, and the
landing state is none. -/
def Obligations.LandingNames : Prop :=
  (∀ (s : State) (r : Ref) (p : Plot) (th : Thread), OneLane s r p th →
  (∀ (d a b : Reg) (x : Nat), let w := th.rd32 (envOf s r p) b
    let wide := w.getLsbD 31
    let us := w.toNat % 2 ^ 20
    th.inRanges [(d, 2), (b, 1)] = true → th.inRange a (if wide then 2 else 1) = true → th.phys a = some x → (wide = true → x % 2 = 0) → th.landingOf x ≠ .pending →
    (∀ n, freeSlot (s.core p.core) 0 4096 = some n → ∃ t name y, exec (.mint d a b) s = .next t ∧ OthersSame s t r ∧ MemorySame s t ∧ SpadsSame s t ∧
      t.thread? r = some { (({ th with landSrc := tdel th.landSrc x } : Thread).setLanding x .pending).wr64 d name with pc := th.pc + 4 } ∧
      (t.core p.core).slot n = y ∧ y.state = .live ∧ y.owner = r ∧ y.reg = x ∧ y.wide = wide ∧ y.check ≠ 0 ∧
      y.expiry = s.time + (if us = 0 then 1 else if 1000000 < us then 1000000 else us) * 1000000 ∧
      nameCheck name.toNat = y.check.toNat ∧ nameGen name.toNat = y.gen.toNat ∧ nameSlot name.toNat = n % 4096 ∧ nameDev name.toNat = s.device % 1024 ∧
      nameCore name.toNat = p.core % 128) ∧
    (freeSlot (s.core p.core) 0 4096 = none → ∃ t, exec (.mint d a b) s = .next t ∧ ThreadOnly s t r { th.wr64 d 0 with pc := th.pc + 4 })) ∧
  (∀ (rc : RC) (sc : Scope) (w : Bool) (a b : Reg), th.inRanges [(a, 2), (b, if w then 2 else 1)] = true →
    ∃ t l, exec (.land rc sc w a b) s = .next t ∧ ThreadOnly s t r { th with pc := th.pc + 4, st := th.st + 1 } ∧
      tget t.lands s.nextId = some l ∧ l.ref = some r ∧ l.name = th.rd64 (envOf s r p) a ∧ l.wide = w ∧ l.answered = none ∧ l.rc = rc ∧
      l.dev = nameDev (th.rd64 (envOf s r p) a).toNat ∧ l.src = some { agent := s.agentOf r, scope := sc } ∧
      l.value = if w then th.rd64 (envOf s r p) b else (th.rd32 (envOf s r p) b).setWidth 64) ∧
  ∀ (a : Reg), th.inRange a 2 = true →
    let v := (th.rd64 (envOf s r p) a).toNat
    let x := (s.core p.core).slot (nameSlot v)
    s.residentRef r = true → nameDev v = s.device → nameCore v = p.core → slotMatches x v = true → x.owner = r →
    ∃ t, exec (.ldrop a) s = .next t ∧ ThreadOnly s t r { th.setLanding x.reg .lapsed with pc := th.pc + 4 } ∧
      ((t.core p.core).slot (nameSlot v)).state = .free ∧ ((t.core p.core).slot (nameSlot v)).gen = x.gen + 1) ∧
  (∀ (s : State) (r : Ref) (p : Plot) (th : Thread), OneLane s r p th →
  ∀ (pd : Fin 128) (a : Fin 96), th.inRange (.w a) 1 = true →
  let x := th.wb + a.val
  (th.landingOf x = .pending →
    (∃ t, exec (.lwait pd (.w a)) s = .next t ∧ ThreadOnly s t r (asleep th (.lwait pd x))) ∧
    ∃ t, exec (.ltest pd (.w a)) s = .next t ∧ ThreadOnly s t r { th.setPred pd.val false with pc := th.pc + 4 }) ∧
  (th.landingOf x ≠ .pending → ∀ i ∈ [Instr.lwait pd (.w a), .ltest pd (.w a)],
    ∃ t u, exec i s = .next t ∧ t.thread? r = some u ∧ OthersSame s t r ∧ MemorySame s t ∧ SpadsSame s t ∧
      u = { ((th.setPred pd.val (decide (th.landingOf x = .delivered))).setLanding x .none) with
              pc := th.pc + 4, landSrc := tdel th.landSrc x, tstat := u.tstat } ∧
      ∀ b, b ≠ 5 → u.tstat.getLsbD b = th.tstat.getLsbD b))

/-- 13 R258 and Table 13.2, 07 R169: when the condition of a sleep holds the thread is filed at PC + 4. -/
def Obligations.SleepsEnd : Prop := ∀ (s : State) (tag tid : Nat) (th : Thread),
  (∀ a b c d, Sleeps s ⟨tag, tid⟩ th (.wait a b c d) → th.ld ≤ a → th.st ≤ b → th.cp ≤ c → th.tl ≤ d →
    ∃ t, exec (.threadWake tag tid) s = .next t ∧ Woken s t ⟨tag, tid⟩ th) ∧
  (∀ addr ph g x, Sleeps s ⟨tag, tid⟩ th (.bcwait addr ph) → s.spadAt tag addr.toNat 16 = .ok (g, x) → (s.barAt g x).phase ≠ ph →
    ∃ t, exec (.threadWake tag tid) s = .next t ∧ Woken s t ⟨tag, tid⟩ th) ∧
  (∀ n p, Sleeps s ⟨tag, tid⟩ th (.mwaitb n) → tget s.plots tag = some p → p.count n = 0 →
    ∃ t, exec (.threadWake tag tid) s = .next t ∧ Woken s t ⟨tag, tid⟩ th) ∧
  (∀ pd x, Sleeps s ⟨tag, tid⟩ th (.lwait pd x) → th.landingOf x ≠ .pending →
    ∃ t u, exec (.threadWake tag tid) s = .next t ∧ t.thread? ⟨tag, tid⟩ = some u ∧
      u = { ((th.setPred pd.val (decide (th.landingOf x = .delivered))).setLanding x .none) with
              pc := th.pc + 4, place := .filed, landSrc := tdel th.landSrc x, tstat := u.tstat }) ∧
  (∀ c, Sleeps s ⟨tag, tid⟩ th (.pause c) → c ≤ s.cycle → ∃ t, exec (.pauseExpiry tag tid) s = .next t ∧ Woken s t ⟨tag, tid⟩ th) ∧
  ∀ va v since p e, Sleeps s ⟨tag, tid⟩ th (.waitw va v since) → tget s.plots tag = some p → Reaches s p va.toNat 4 accLoad e →
    let x := BitVec.ofNat 32 (s.placeNat (s.areaOf e va.toNat) (s.offsetOf e va.toNat) 4)
    (x ≠ v → ∃ t, exec (.waitwRecheck tag tid) s = .next t ∧ Woken s t ⟨tag, tid⟩ th) ∧
    (x = v → ∃ t, exec (.waitwRecheck tag tid) s = .next t ∧ ThreadOnly s t ⟨tag, tid⟩ (asleep th (.waitw va v s.time)))

/-! ## The schedule -/

/-- 01 R28: a cycle advances the counter by one, and each core picks at most four drills, none while the device is fallow (23 R438); of a thread it changes only what a landing slot does that lapses
with its last microsecond (13 R294), and no memory where no page is left for a code fetch to claim or to make shared (09 R178, R194).
01 R23 to R25: a core that can form a drill steps its selector once and forms one drill in this cycle, at its lowest free slot (log 10), of threads with distinct
home lanes; a furrow whose oldest thread has been filed for 64 cycles is eligible. -/
def Obligations.DrillsFormAndAreIssued : Prop :=
  (∀ (s : State), tsorted s.cores = true → s.issueQ = [] →
  ∃ t, exec .issueCycle s = .next t ∧ t.cycle = s.cycle + 1 ∧ t.time = s.time + s.cyclePs ∧
    (∀ c, (t.issueQ.filter fun x => x.1 == c).length ≤ 4) ∧ (s.fallow = true → t.issueQ = [] ∧ t.mem = s.mem) ∧
    (∀ r th, s.thread? r = some th → ∃ u, t.thread? r = some u ∧ u = { th with landing := u.landing, lapses := u.lapses }) ∧
    ((∀ c k, (c, k) ∈ s.cores → ∀ x ∈ k.slots, x.2.state = .live → s.time + s.cyclePs < x.2.expiry + 1000000) → t.plots = s.plots) ∧
    ((∀ ctx va p lvl a, s.walk ctx va = .leaf p lvl a → bits p 6 5 ≠ 0 ∨ bit p 9 = false ∧ bit p 10 = true) → MemorySame s t)) ∧
  (∀ (s : State) (c : Nat),
  (s.canForm c = true → ∃ t slot d, exec (.formDrill c) s = .next t ∧ tfree (s.core c).drills 0 256 = some slot ∧
    tget (t.core c).drills slot = some d ∧ d.formed = s.cycle ∧ d.group = none ∧ d.single = false ∧ (d.lanes.map Ref.lane).Nodup ∧
    (∀ r ∈ d.lanes, ∀ th, s.thread? r = some th → t.thread? r = some { th with place := .drill slot }) ∧
    (t.core c).sel = (if (s.core c).sel.getLsbD 0 then ((s.core c).sel >>> 1) ^^^ 0x80200003 else (s.core c).sel >>> 1) ∧ (t.core c).formed = some s.cycle) ∧
  ∀ n f, tget (s.core c).furrows n = some f → f.since = none → (∃ x ∈ f.threads, x.at' + 64 ≤ s.cycle) →
    ∃ t, exec (.furrowAgeEligible c n) s = .next t ∧ tget (t.core c).furrows n = some { f with since := some s.cycle })

/-- 01 R26, 07 R149, 11 R249: a rendezvous is complete when every live thread of the home row waits; the threads at each PC make one group, in ascending PC, with its word fetched once (log 57); a group
with a slot free becomes a drill that executes that word next, beside the cycle's four drills (log 54). -/
def Obligations.RowGroupsExecute : Prop := ∀ (s : State) (tag row : Nat) (p : Plot), tget s.plots tag = some p → s.plotPlaced tag = true →
  (p.rowComplete row = true → (∀ x ∈ p.threads, x.2.stopReq = false) → allFetched (s.fetchGroups p.core p.ctx (p.rowGroups row)).2 = true →
    ∃ t q gs, exec (.rowRendezvousComplete tag row) s = .next t ∧ tget t.plots tag = some q ∧ q = { p with groups := p.groups ++ gs } ∧
      gs = (s.fetchGroups p.core p.ctx (p.rowGroups row)).2 ∧ gs.Pairwise (fun g h => g.pc < h.pc) ∧ (∀ g ∈ gs, g.row = row) ∧
      ∀ x ∈ p.threads, x.1 / 64 = row → x.2.live = true → ∃ g ∈ gs, g.pc = x.2.pc ∧ x.1 ∈ g.tids) ∧
  ∀ g slot, p.groups.find? (fun g => g.row == row) = some g → s.groupReady tag g = true → tfree (s.core p.core).drills 0 256 = some slot → g.tids ≠ [] → g.tids.Nodup →
    (∀ i ∈ g.tids, ∃ th, s.thread? ⟨tag, i⟩ = some th ∧ th.place = .headland .rendezvous ∧ th.stopReq = false) →
    ∃ t d, exec (.rowGroupExecute tag row) s = .next t ∧ t.issueQ = (p.core, slot) :: s.issueQ ∧ tget (t.core p.core).drills slot = some d ∧ d.group = some g.word ∧
      (∀ r, r ∈ d.lanes ↔ r.tag = tag ∧ r.tid ∈ g.tids) ∧
      ∀ i ∈ g.tids, ∀ th, s.thread? ⟨tag, i⟩ = some th → t.thread? ⟨tag, i⟩ = some { th with place := .drill slot }

/-! ## Accesses coming to their end -/

/-- 13 R255, R256, 11 R223, R226, R235: a load, LR, SC or atomic that has been performed writes its registers (an SC 0 or 1, with 0 above it for a pair) and its
flags and lowers LD, an exited thread taking neither value nor flags (07 R167); a store acknowledged lowers ST; an access stays where it is while an earlier one of its thread to one of its sectors has not completed, and a full release while any
earlier one outside its stream has not. -/
def Obligations.AccessesComplete : Prop := ∀ (s : State) (id : Nat) (q : Req) (th : Thread),
  tget s.reqs id = some q → s.thread? q.ref = some th →
  (∀ v, q.stage = .performed v → NoDelivery s q.ref →
    (q.op.countsLd = true → ∀ x, ∃ t, exec (.loadReturn id x) s = .next t ∧ tget t.reqs id = none ∧
      ThreadOnly s t q.ref (if th.live then { (th.wrDst q.dst (match q.op with
          | .load sz => loadWords sz v
          | .sc ok => (if ok then 0 else 1) :: List.replicate (q.words - 1) 0
          | _ => (words128 v).take q.words)).orStat q.flags with ld := th.ld - 1 } else { th with ld := th.ld - 1 })) ∧
    (q.op.countsSt = true → ∀ f, ∃ t, exec (.storeAck ⟨id, f⟩) s = .next t ∧ tget t.reqs id = none ∧ ThreadOnly s t q.ref { th with st := th.st - 1 })) ∧
  ∀ i x, (i, x) ∈ s.reqs → i < id → x.ref = q.ref → (∃ y ∈ x.sectors, y ∈ q.sectors) ∨ q.rel = true ∧ (x.stream = none ∨ x.stream ≠ q.stream) →
    (q.stage = .place → q.op.countsLd = true → ∀ v, exec (.loadReturn id v) s = .next s) ∧
    (q.stage = .place → q.op = .store → ∀ f, exec (.storeAck ⟨id, f⟩) s = .next s) ∧
    (q.stage = .gleaner → exec (.glean id) s = .next s ∧ exec (.viewAtomic id) s = .next s) ∧ (q.stage = .hbm → exec (.faratAtomic id) s = .next s)

/-- 09 R178, R179, R194: a walk for a core, which walks for a page that its buffer does not hold, claims an unclaimed page of one leaf entry: PRIV and OWN are written to the
entry; a miss of another core makes a private page shared: SHD and the former OWN are written; the rest of the entry stays. While stores of the owner to the
page are still to be performed, the page stays as it is. -/
def Obligations.WalksClaimAndShare : Prop := ∀ (s : State) (core ctx va p lvl a : Nat), s.memoriesOk → core < 128 → s.walk ctx va = .leaf p lvl a →
  bits p 6 5 = 0 → bit p 4 = false →
  (tbFind (s.core core).tb ctx va ≠ none → exec (.pageWalk core ctx va) s = .next s) ∧
  (bit p 9 = false → bit p 10 = false → tbFind (s.core core).tb ctx va = none → ∃ t, exec (.pageWalk core ctx va) s = .next t ∧
    t.pteAt a = p + 2 ^ 9 + core * 2 ^ 52 - bits p 58 52 * 2 ^ 52 ∧ MemorySameBut s t none (localOf a) 8) ∧
  (bit p 9 = true → bits p 58 52 ≠ core → bit p 10 = false →
    (s.ownerBusy (bits p 58 52) (tbOf ctx va p lvl) s.nextId = true → exec (.directoryMakeShared core ctx va) s = .next s) ∧
    (s.ownerBusy (bits p 58 52) (tbOf ctx va p lvl) s.nextId = false → ∃ t, exec (.directoryMakeShared core ctx va) s = .next t ∧
      t.pteAt a = p - 2 ^ 9 + 2 ^ 10 ∧ MemorySameBut s t none (localOf a) 8))

/-- 09 R193, R195, R196, R198: the region that covers a line on a die: a window with fewer than 64 accesses begins anew, a migration that was decided moves it and its lines, quiet
siblings merge; a window that was not hit in its millisecond fades; a reservation 4,096 cycles old is lost. -/
def Obligations.DirectoriesAndTimers : Prop := ∀ (s : State),
  (∀ die line k e, s.regionOf die line = some (k, e) →
    (e.start + 4096 ≤ s.cycle → (e.counts.map Prod.snd).sum < 64 → ∃ t, exec (.regionWindowEnd ⟨die, line⟩) s = .next t ∧
      tget t.regionDir k = some { e with counts := [], start := s.cycle } ∧ t = { s with regionDir := t.regionDir }) ∧
    (∀ x, e.pending = some x → ∃ t, exec (.regionMigrate ⟨die, line⟩) s = .next t ∧ tget t.regionDir k = some { e with slice := x, pending := none, since := s.cycle } ∧
      ∀ q l, tget s.l2 q = some l → inRegion k e (q / 4) = true → q % 4 = keyDie k → l.slice = e.slice → tget t.l2 q = some { l with slice := x }) ∧
    (∀ k' x, s.mergeWith k e = some (k', x) → ∃ t m, exec (.regionMerge ⟨die, line⟩) s = .next t ∧ tget t.regionDir (min k k') = some m ∧
      m.lines = 2 * e.lines ∧ m.slice = e.slice ∧ (k ≠ k' → tget t.regionDir (max k k') = none))) ∧
  (∀ ctx n c, tget s.ctxs ctx = some c → n < 16 → c.lpwTick.getD n 0 + 1000000000 ≤ s.time → c.lpwc.length = 16 →
    ∃ t c', exec (.lpwFadeTick ctx n) s = .next t ∧ tget t.ctxs ctx = some c' ∧
      c'.lpwc.getD n 0 = (let w := c.lpwc.getD n 0
        if bits w.toNat 31 24 ≠ 0 ∧ bits w.toNat 19 0 ≠ 0 ∧ c.lpwHit.getD n false = false then
          (if bits w.toNat 31 24 = 1 then 0 else BitVec.ofNat 32 ((bits w.toNat 31 24 - 1) * 2 ^ 24 + bits w.toNat 19 0))
        else w)) ∧
  ∀ tag tid v, s.reservationOf ⟨tag, tid⟩ = some v → v.made + 4096 ≤ s.cycle →
    ∃ t, exec (.reservationExpiry tag tid) s = .next t ∧ t.reservationOf ⟨tag, tid⟩ = none ∧ t = { s with reservations := t.reservations }

/-- 09 R185, R212, R214, R216: when its turn has come, the gleaner takes the next base sector of a view load or store, of bytes of this device (a load here past the view read buffer, as an
acquire goes), and the access is performed with its last one; an atomic is performed on its base element; a far-atomic page's atomic at the HBM-side unit. -/
def Obligations.ViewsAndFarAtomics : Prop := ∀ (s : State) (id : Nat) (q : Req) (th : Thread), s.memoriesOk → tget s.reqs id = some q → s.thread? q.ref = some th →
  s.mayPerform id q = true →
  (q.stage = .gleaner → q.blind = false → (∀ x ∈ q.view, s.away x.2 (x.2.pa x.1) = false) →
    let l := s.viewPlaces q.view
    let at' := fun (x : GleanByte) => s.placeOf x.2.2 (x.2.2.pa x.2.1)
    (∀ sz, q.op = .load sz → q.acq = true → ∃ t q', exec (.glean id) s = .next t ∧ tget t.reqs id = some q' ∧
      (∀ x ∈ q.nextPart, tget q'.glean.got x.1 = some (s.placeByte (at' x).1 (at' x).2)) ∧
      (q.glean.got = [] → (∀ x ∈ q.bytesLeft, x ∈ q.nextPart) → q'.stage = .performed (BitVec.ofNat 128 (s.placesNat l)))) ∧
    (q.op = .store → q.view.length = q.bytes → l.Nodup → ∃ t q', exec (.glean id) s = .next t ∧ tget t.reqs id = some q' ∧
      (∀ x ∈ q.nextPart, t.placeByte (at' x).1 (at' x).2 = BitVec.ofNat 8 (q.data.toNat / 256 ^ x.1)) ∧
      (∀ o y, (∀ x ∈ q.nextPart, at' x ≠ (o, y)) → t.placeByte o y = s.placeByte o y) ∧
      ((∀ x ∈ q.bytesLeft, x ∈ q.nextPart) → q'.stage = .performed 0)) ∧
    (∀ x y, x ∈ q.nextPart → y ∈ q.bytesLeft → gleanSector y = gleanSector x → q.granuleOf y = q.granuleOf x → y ∈ q.nextPart) ∧
    (∀ aop v, q.op = .atom aop v → aop ≤ 8 → q.view.length = q.bytes → l.Nodup →
      ∃ t q', exec (.viewAtomic id) s = .next t ∧ tget t.reqs id = some q' ∧ q'.stage = .performed (BitVec.ofNat 128 (s.placesNat l)) ∧
        t.placesNat l = (tableNew aop q.bytes (s.placesNat l) v.toNat q.rmode).getD 0 ∧ ∀ o x, (o, x) ∉ l → t.placeByte o x = s.placeByte o x)) ∧
  ∀ e aop v, q.stage = .hbm → q.view = [(q.va, e)] → q.op = .atom aop v → aop ≤ 8 →
    let o := (s.placeOf e q.pa).1
    let x := (s.placeOf e q.pa).2
    ∃ t q', exec (.faratAtomic id) s = .next t ∧ tget t.reqs id = some q' ∧
      q'.stage = .performed (BitVec.ofNat 128 (s.placeNat o x q.bytes)) ∧ MemorySameBut s t o x q.bytes ∧
      t.placeNat o x q.bytes = (tableNew aop q.bytes (s.placeNat o x q.bytes) v.toNat q.rmode).getD 0

/-- 13 R291, R294, 11 R228: when its turn has come, a LAND whose name matches a live slot delivers its value to the bound register and frees the slot, or is parked there while the thread is swapped out; one that matches none is
refused; its answer lowers ST, and a refusal sets LANDX; a slot past its time lapses. -/
def Obligations.LandsArrive : Prop := ∀ (s : State),
  let answeredAs := fun (t : State) (id : Nat) (l : Land) (ok : Bool) => ∃ y, tget t.lands id = some y ∧ y = { l with answered := some ok, via := y.via }
  (∀ id l, tget s.lands id = some l → l.answered = none → l.dev = s.device → s.landTurn id l = true →
    let c := nameCore l.name.toNat
    let n := nameSlot l.name.toNat
    let x := (s.core c).slot n
    (s.time < x.expiry + 1000000 → slotMatches x l.name.toNat = true → x.wide = l.wide → s.residentRef x.owner = true →
      s.outstanding x.owner x.reg (if x.wide then 2 else 1) = false → ∀ th, s.thread? x.owner = some th →
      ∃ t u, exec (.landArrive id) s = .next t ∧ answeredAs t id l true ∧ t.thread? x.owner = some u ∧
        u.landingOf x.reg = (if x.reg < th.landing.length then .delivered else .none) ∧ OthersSame s t x.owner ∧
        (x.wide = false → u.regs = th.regs.set x.reg (l.value.setWidth 32)) ∧ ((t.core c).slot n).state = .free) ∧
    (s.time < x.expiry + 1000000 → slotMatches x l.name.toNat = true → x.wide = l.wide → s.residentRef x.owner = false →
      ∃ t, exec (.landArrive id) s = .next t ∧ answeredAs t id l true ∧ t.plots = s.plots ∧
        (t.core c).slot n = { x with state := .parked, value := l.value, src := l.src }) ∧
    (slotMatches x l.name.toNat = false ∨ x.wide ≠ l.wide ∨ x.expiry + 1000000 ≤ s.time →
      ∃ t, exec (.landArrive id) s = .next t ∧ answeredAs t id l false ∧ MemorySame s t ∧ SpadsSame s t)) ∧
  (∀ id l r th, tget s.lands id = some l → l.ref = some r → s.thread? r = some th →
    (l.answered = some true → ∃ t, exec (.landAnswer id) s = .next t ∧ tget t.lands id = none ∧ ThreadOnly s t r { th with st := th.st - 1 }) ∧
    (l.answered = some false → ∃ t u, exec (.landAnswer id) s = .next t ∧ tget t.lands id = none ∧ t.thread? r = some u ∧
      u.st = th.st - 1 ∧ u.tstat = th.tstat ||| 0x40 ∧ u.regs = th.regs ∧ u.pc = th.pc)) ∧
  ∀ c n x th, (s.core c).slot n = x → x.state = .live → x.expiry ≤ s.time → s.thread? x.owner = some th →
    ∃ t, exec (.slotLapse c n) s = .next t ∧ ((t.core c).slot n).state = .free ∧
      ThreadOnly s t x.owner (if s.residentRef x.owner then th.setLanding x.reg .lapsed else { th with lapses := th.lapses ++ [x.reg] })
/-! ## Tensor tables -/

/-- 15 R321, R322, R323: TTLD copies the 64 bytes of an entry to 16 registers; TTST writes an entry that passes its checks, as one unit,
and parks at one that does not; TTINV clears its KIND.
15 R324, R325: VBIND of a view of one page writes the level-0 entry of its address as a VIEW leaf of the tensor, page 0; VUNBIND of a bound
range of one page makes it 0; each parks where its address is none it can take. -/
def Obligations.TensorTable : Prop :=
  (∀ (s : State) (r : Ref) (p : Plot) (th : Thread) (c : Ctx), OneLane s r p th → s.memoriesOk →
  tget s.ctxs p.ctx = some c → ∀ (a : Reg) (e : TbEntry),
  let id := (th.rd32 (envOf s r p) a).toNat
  let va := (c.ttbase.toNat + 64 * id) % 2 ^ 64
  let area := s.areaOf e va
  let x := s.offsetOf e va
  let old := s.placeNat area x 64
  (id < 4096 → id < c.ttlen → ReachesAt s p.core p.ctx va 64 accTensor e →
    (∀ d, th.inRanges [(d, 16), (a, 1)] = true → ∃ t, exec (.ttld d a) s = .next t ∧
      ThreadOnly s t r { (th.wrWords d ((List.range 16).map fun i => BitVec.ofNat 32 (old / 2 ^ (32 * i)))) with pc := th.pc + 4 }) ∧
    (∀ g, guardY g th = true → th.inRange a 1 = true → ReachesAt s p.core p.ctx va 64 accEngWrite e →
      ∃ t, exec (.ttinv g a) s = .next t ∧ t.thread? r = some { th with pc := th.pc + 4 } ∧ OthersSame s t r ∧ SpadsSame s t ∧
        MemorySameBut s t area x 64 ∧ t.placeNat area x 64 = old - bits old 63 62 * 2 ^ 62)) ∧
  (id < 4096 → id < c.ttlen → ∀ g b, guardY g th = true → th.inRanges [(a, 1), (b, 16)] = true →
    let v := th.rdBlock (envOf s r p) b
    (∀ s1, s.checkEntry p.core p.ctx id v = (s1, .ok true) → ReachesAt s1 p.core p.ctx va 64 accEngWrite e →
      ∃ t, exec (.ttst g a b) s = .next t ∧ t.thread? r = some { th with pc := th.pc + 4 } ∧ OthersSame s t r ∧ SpadsSame s t ∧
        MemorySameBut s1 t (s1.areaOf e va) (s1.offsetOf e va) 64 ∧ t.placeNat (s1.areaOf e va) (s1.offsetOf e va) 64 = v) ∧
    (∀ s1, s.checkEntry p.core p.ctx id v = (s1, .ok false) → ParksIn (.ttst g a b) s r th)) ∧
  (¬(id < 4096 ∧ id < c.ttlen) → ∀ g, guardY g th = true → th.inRange a 1 = true → ParksIn (.ttinv g a) s r th)) ∧
  (∀ (s : State) (r : Ref) (p : Plot) (th : Thread), OneLane s r p th → s.memoriesOk →
  ∀ (g : Fin 128) (a b : Reg), guardY g th = true → th.inRanges [(a, 1), (b, 2)] = true →
  let va := (th.rd64 (envOf s r p) b).toNat
  (∀ id v w s1 s2, s.tensorId p.ctx (th.rd32 (envOf s r p) a) = some id → s.ttRead p.core p.ctx id = (s1, .ok v) → entKind v = 2 →
    s1.ttRead p.core p.ctx (viewBaseId v) = (s2, .ok w) →
    (∀ x, boundLength v w = 4096 → s2.bindFault p.ctx va 1 = none → s2.leafEntry p.ctx va = some x →
      ∃ t, exec (.vbind g a b) s = .next t ∧ t.thread? r = some { th with pc := th.pc + 4 } ∧ OthersSame s t r ∧ SpadsSame s t ∧
        t.pteAt x = viewLeaf id 0 ∧ MemorySameBut s2 t none (localOf x) 8) ∧
    (∀ f, s2.bindFault p.ctx va (boundLength v w / 4096) = some f → ParksIn (.vbind g a b) s r th)) ∧
  (∀ x e, s.leafAt p.ctx va = some (x, e) → pteV e = true → pteView e = true → bits (pteFrame e) 27 0 = 0 →
    (∀ y f, (s.writePte x 0).leafAt p.ctx (va + 4096) = some (y, f) →
      ¬(pteV f = true ∧ pteView f = true ∧ bits (pteFrame f) 39 28 = bits (pteFrame e) 39 28 ∧ bits (pteFrame f) 27 0 = 1)) →
    ∃ t, exec (.vunbind g b) s = .next t ∧ t.thread? r = some { th with pc := th.pc + 4 } ∧ OthersSame s t r ∧ SpadsSame s t ∧
      t.pteAt x = 0 ∧ MemorySameBut s t none (localOf x) 8) ∧
  (s.leafAt p.ctx va = none → ParksIn (.vunbind g b) s r th))

/-! ## Copies and packets -/

/-- 15 R316 to R318, R300, 01 R16: CPOST reads its 64 bytes and files a copy command; QPOST claims the slots of its packet in the queue header's WIX;
each raises CP; a thread that is no copy thread takes the role trap. A command that finds the front end full is captured at issue and waits there, its thread being past it (log 26). -/
def Obligations.CopyCommandsPosted : Prop := ∀ (s : State) (r : Ref) (p : Plot) (th : Thread), OneLane s r p th →
  ∀ (g : Fin 128),
  (∀ a b, th.sup = false → p.role r.tid ≠ .copy → TrapsWith (.cpost g b) s r th 4 0 0 ∧ TrapsWith (.qpost g a b) s r th 4 0 0) ∧
  (∀ a l s1 en, p.role r.tid = .copy → guardY g th = true → BlockAt s r p th a 64 l → s.copyEntry p.core p.ctx (leNat l) = (s1, .ok en) →
    let c := newCopy (some r) (some p.core) none p.ctx th.pc l th.rmode en
    ∃ t, exec (.cpost g a) s = .next t ∧ ThreadOnly s1 t r { th with pc := th.pc + 4, cp := th.cp + 1 } ∧
      (s1.frontWaits p.core = none → s1.frontRoom p.core = true → tget t.copies s1.nextId = some c) ∧
      (256 ≤ (s1.copies.filter fun x => x.1 != s1.nextId && x.2.core == some p.core && x.2.stage != .waiting && x.2.stage != .recorded).length →
        tget t.copies s1.nextId = some { c with stage := .waiting })) ∧
  ∀ a b l l' e, s.memoriesOk → p.role r.tid = .copy → guardY g th = true → th.inRange a 2 = true → BlockAt s r p th b 64 l →
    let va := (th.rd64 (envOf s r p) a).toNat
    let n := if ccKind (leNat l) = 1 then 2 else 1
    let area := s.areaOf e va
    let x := s.offsetOf e va
    va % 64 = 0 → s.readBlock r.tag (th.rd32 (envOf s r p) b).toNat (64 * n) = .ok l' → ReachesAt s p.core p.ctx va 8 accAtomic e →
    ∃ t, exec (.qpost g a b) s = .next t ∧ t.thread? r = some { th with pc := th.pc + 4, cp := th.cp + 1 } ∧ OthersSame s t r ∧ SpadsSame s t ∧
      (∃ q, tget t.qposts s.nextId = some q ∧ q.slot = some (s.placeNat area x 8) ∧ q.bytes = l' ∧ q.va = va ∧ q.ref = r) ∧
      MemorySameBut s t area x 8 ∧ t.placeNat area x 8 = (s.placeNat area x 8 + n) % 2 ^ 64

/-- 15 R307, R310, R312: a copy, and a peer copy to this device, writes the bytes it read, or their conversion, at its destination and nowhere else; all written,
its arrival for that number of bytes is under way where it names a barrier by handle. That it reads its row whole before it writes shows only where the two overlap
(15 R313) and is log 32's choice.
15 R309: a conditional copy whose version word, the eight bytes below its destination, is not AUX writes nothing and ends with version mismatch;
otherwise the destination takes the bytes and the version word AUX + 1. -/
def Obligations.CopiesMoveBytes : Prop :=
  (∀ (s : State) (id : Nat) (c : CopyCmd) (e1 e2 : TbEntry) (out : List Byte),
  s.memoriesOk → OneRow s id c e1 e2 out →
  ∀ i, (i = .copy id ∧ ccKind c.raw = 2) ∨ (i = .peerCopy id ∧ ccKind c.raw = 5 ∧ ccDev c.raw = s.device) →
  let area := s.areaOf e2 (ccDst c.raw)
  let y := s.offsetOf e2 (ccDst c.raw)
  ∃ t d, exec i s = .next t ∧ t.plots = s.plots ∧ MemorySameBut s t area y out.length ∧ t.placeNat area y out.length = leNat out ∧
    tget t.copies id = some d ∧ d.stage = .moved ∧ d.code = c.code ∧ d.paused = c.paused ∧
    (ccBk c.raw = 0 → d.arrive = c.arrive) ∧
    (ccBk c.raw = 2 → ∃ k x, d.arrive = some k ∧ tget t.arrivals k = some x ∧ x.handle.toNat = ccBar c.raw ∧
      x.n = ccDstRow c.raw ∧ x.cmd = some id ∧ x.held = false)) ∧
  (∀ (s : State) (id : Nat) (c : CopyCmd) (e1 e2 : TbEntry) (out : List Byte),
  s.memoriesOk → OneRow s id c e1 e2 out → ccKind c.raw = 4 → 8 ≤ ccDst c.raw % 128 →
  let ver := ccDst c.raw - 8
  let area := s.areaOf e2 ver
  let y := s.offsetOf e2 ver
  s.areaOf e2 (ccDst c.raw) = area → s.offsetOf e2 (ccDst c.raw) = y + 8 →
  ReachesAt s c.tbCore c.ctx ver 8 accAtomic e2 → KeepsReaching s area y (8 + out.length) c.tbCore c.ctx ver 8 accEngWrite e2 →
  KeepsReaching s area y (8 + out.length) c.tbCore c.ctx (ccDst c.raw) out.length accEngWrite e2 →
  (s.placeNat area y 8 ≠ ccAux c.raw → ccBk c.raw = 0 → ∃ t, exec (.conditionalCopy id) s = .next t ∧ MemorySame s t ∧ t.plots = s.plots ∧
    tget t.copies id = some { c with stage := .moved, todo := some [], code := 0x01 }) ∧
  (s.placeNat area y 8 = ccAux c.raw → ∃ t d, exec (.conditionalCopy id) s = .next t ∧ MemorySameBut s t area y (8 + out.length) ∧
    t.plots = s.plots ∧ t.placeNat area y 8 = ccAux c.raw + 1 ∧ t.placeNat area (y + 8) out.length = leNat out ∧
    tget t.copies id = some d ∧ d.stage = .moved ∧ d.code = c.code))

/-- 15 R308, R313, R314, R315: a quantising copy makes the element, scale and band writes of its rows and records a non-finite input; a command that fails a check ends
with the lowest code of its failed checks, nothing read or written; a finished command writes its record to STATUS, unless that is 0, and lowers CP. -/
def Obligations.CopiesEnd : Prop := ∀ (s : State) (id : Nat) (c : CopyCmd), s.memoriesOk → tget s.copies id = some c →
  (∀ s1 rows ws fl nf s2, s.copyReady id c = true → c.todo = none → c.needEntry = false → ccKind c.raw = 3 → ccBk c.raw = 0 →
    firstFailed (copyChecks c.raw c.ref.isNone (if c.entry.isEmpty then none else some (leNat c.entry))) = none →
    s.copyRows c (List.range (ccRows c.raw)) = (s1, .ok rows) → quantWrites c.raw (leNat c.entry) rows = (ws, fl, nf) →
    let d : CopyCmd := { c with todo := some ws, flags := fl, code := if nf then 0x02 else 0 }
    (s1.modCopy id fun c => { c with todo := some ws, flags := fl, code := if nf then 0x02 else 0 }).copyWrites id d ws = (s2, [], none) →
    ∃ t, exec (.quantisingCopy id) s = .next t ∧ t.mem = s2.mem ∧ t.plots = s2.plots ∧ tget t.copies id = some { d with stage := .moved, todo := some [] }) ∧
  (∀ code detail i, s.copyReady id c = true → c.todo = none → c.needEntry = false →
    firstFailed (copyChecks c.raw c.ref.isNone (if c.entry.isEmpty then none else some (leNat c.entry))) = some (code, detail) →
    i = (match ccKind c.raw with | 3 => .quantisingCopy id | 4 => .conditionalCopy id | 5 => .peerCopy id | _ => .copy id) →
    ∃ t, exec i s = .next t ∧ t = { s with copies := t.copies } ∧
      tget t.copies id = some { c with stage := .moved, todo := some [], code := code, detail := detail } ∧
      (copyChecks c.raw c.ref.isNone (if c.entry.isEmpty then none else some (leNat c.entry))).all (fun x => decide (code ≤ x.1)) = true) ∧
  (c.finished = true → ∀ r th, c.ref = some r → s.thread? r = some th →
    (ccStatus c.raw = 0 → ∃ t, exec (.copyComplete id) s = .next t ∧ tget t.copies id = none ∧ ThreadOnly s t r { th with cp := th.cp - 1 }) ∧
    ∀ e, ccStatus c.raw ≠ 0 → ccStatus c.raw % 8 = 0 → c.norec = false → ReachesAt s c.tbCore c.ctx (ccStatus c.raw) 8 c.recAcc e →
      let area := s.areaOf e (ccStatus c.raw)
      let y := s.offsetOf e (ccStatus c.raw)
      ∃ t, exec (.copyComplete id) s = .next t ∧ tget t.copies id = none ∧ t.thread? r = some { th with cp := th.cp - 1 } ∧ OthersSame s t r ∧
        SpadsSame s t ∧ MemorySameBut s t area y 8 ∧
        t.placeNat area y 8 = c.code % 2 ^ 16 + c.flags % 32 * 2 ^ 16 + c.detail % 2 ^ 32 * 2 ^ 32) ∧
  (c.finished = true → c.ref = none → ccStatus c.raw = 0 → ∀ n x, c.q = some n → tget s.queues n = some x →
    ∃ t, exec (.copyComplete id) s = .next t ∧ tget t.copies id = none ∧ t.plots = s.plots ∧ MemorySame s t ∧
      tget t.queues n = some { x with open' := x.open'.filter fun y => y != id })

/-- 15 R318, R300 and 13 R276, 15 R311: a QPOST waits while its slots have no room; with room it writes its packet, its header last and with the slot's SEQ, and lowers CP;
an arrival by handle is applied to its barrier as an arrival of its bytes, waits while an operation that follows it in the order of 11 R244 has acted there in the cycle
(log 66), and is refused where the handle names none. -/
def Obligations.PacketsAndArrivals : Prop := ∀ (s : State), s.memoriesOk →
  (∀ id q n h g s1 th, tget s.qposts id = some q → q.paused = none → q.held = false → q.slot = some n → q.bytes.length = 64 →
    s.qpostHeader q = (s1, .ok (h, g)) → s.thread? q.ref = some th →
    (ringRoom h g n 1 = false → ∃ t, exec (.qpostRingRoom id) s = .next t ∧ tget t.qposts id = some q ∧ MemorySame s1 t ∧ t.plots = s.plots) ∧
    ∀ e, let a := slotVa h g n
      let area := s1.areaOf e a
      let y := s1.offsetOf e a
      ringRoom h g n 1 = true → a % 64 = 0 → KeepsReaching s1 area y 64 q.core q.ctx a 8 accEngWrite e →
      ReachesAt s1 q.core q.ctx (a + 8) 56 accEngWrite e → s1.areaOf e (a + 8) = area → s1.offsetOf e (a + 8) = y + 8 →
      ∃ t, exec (.qpostRingRoom id) s = .next t ∧ tget t.qposts id = none ∧ t.thread? q.ref = some { th with cp := th.cp - 1 } ∧
        OthersSame s t q.ref ∧ SpadsSame s t ∧ MemorySameBut s1 t area y 64 ∧
        t.placeNat area y 64 = leNat (q.bytes.take 6 ++ natLe 2 n ++ q.bytes.drop 8)) ∧
  ∀ id x, tget s.arrivals id = some x → x.peer = none → x.cmd = none → handleDev x.handle.toNat = s.device →
    let tag := handleTag x.handle.toNat
    let off := handleOff x.handle.toNat
    (∀ p, tget s.plots tag = some p → p.retired = false → off + 16 ≤ p.spadLen → s.handleHere x.handle = true → (s.barAt tag off).init < 2 ^ 30 → s.barFree tag off 128 = true →
      ∃ t, exec (.barrierArrive id) s = .next t ∧ tget t.arrivals id = none ∧ MemorySame s t ∧ SpadsSameBut s t tag off 16 ∧
        t.barAt tag off = (barArrive (s.barAt tag off) x.n).1) ∧
    (s.barFree tag off 128 = false → exec (.barrierArrive id) s = .next s) ∧
    (tget s.plots tag = none → ∃ t, exec (.barrierArrive id) s = .next t ∧ tget t.arrivals id = none ∧ MemorySame s t ∧ t.plots = s.plots)

/-! ## Engines -/

/-- 17 R331 to R336, R344 to R352, 19 R359, R360: the engine instructions of a matrix thread read their block, entries and registers at issue, join the queue with one more
in TL, complete at once with the code of the first check that fails, or wait captured where the queue has no room, their thread being past them (log 26); MMAC closes the thread's batch, MWAITB waits for it,
MSTAT reads and clears a tile's status; a thread that is no matrix thread takes the role trap. -/
def Obligations.EngineInstructions : Prop := ∀ (s : State) (r : Ref) (p : Plot) (th : Thread), OneLane s r p th →
  (th.sup = false → p.role r.tid ≠ .matrix → ∀ g a d (k : Fin 64) u v,
    ∀ i ∈ [Instr.mma g a, .mmac g k, .mwaitb k, .mdrain g a, .mzero g u v, .mstat d u v, .apipe g a], TrapsWith i s r th 4 0 0) ∧
  (p.role r.tid = .matrix → ∀ g, guardY g th = true →
    (∀ a l s1 es, BlockAt s r p th a 64 l → s.engEntries p.core p.ctx [mbTidA (leNat l), mbTidB (leNat l)] = (s1, .ok es) →
      let b := leNat l
      let st := s1.mmaStatus r.tag p b (es.getD 0 []) (es.getD 1 [])
      let c := newEng r th.pc .mma th.rmode l (bit b 10).toNat (mbTile b) st
      let c' := { c with entries := es, rowsA := p.captureRows (mbDescA b) (capturedFmt es 0) (mbM b) (mbK b)
                         rowsB := p.captureRows (mbDescB b) (capturedFmt es 1) (mbN b) (mbK b) }
      ∃ t, exec (.mma g a) s = .next t ∧ Issued s1 t r p th (if st = 0 then c' else c)) ∧
    (∀ a l, BlockAt s r p th a 32 l → ∃ t, exec (.mdrain g a) s = .next t ∧
      Issued s t r p th (newEng r th.pc .mdrain th.rmode l (bit (leNat l) 1).toNat (dbTile (leNat l)) (s.drainStatus r.tag p (leNat l)))) ∧
    (∀ u v : Bool, ∃ t, exec (.mzero g u v) s = .next t ∧
      Issued s t r p th (newEng r th.pc .mzero th.rmode [] u.toNat (u.toNat * 2 + v.toNat) 0)) ∧
    (∀ a l s1 es, BlockAt s r p th a 128 l → s.engEntries p.core p.ctx [apTidQ (leNat l), apTidK (leNat l), apTidV (leNat l)] = (s1, .ok es) →
      let b := leNat l
      let c := newEng r th.pc .apipe th.rmode l (bit b 13).toNat (apOTile b) (s1.apipeStatus r.tag b es)
      ∃ t, exec (.apipe g a) s = .next t ∧
        Issued s1 t r p th { c with entries := es, table := (s1.readBlock r.tag (apTab b) (2 * apNkb b)).toOption.getD [] }) ∧
    (∀ k : Fin 64, ∃ t q, exec (.mmac g k) s = .next t ∧ t.thread? r = some { th with pc := th.pc + 4 } ∧ OthersSame s t r ∧ MemorySame s t ∧ SpadsSame s t ∧
      tget t.plots r.tag = some q ∧ q.count k.val = p.count k.val + (p.engq.filter fun c => c.ref.tid == r.tid && c.batch.isNone).length ∧
      (∀ j, j ≠ k.val → q.count j = p.count j) ∧ q.engq.all (fun c => c.ref.tid != r.tid || c.batch.isSome) = true)) ∧
  (p.role r.tid = .matrix → ∀ (k : Fin 64) d (u v : Bool),
    (p.count k.val = 0 → ∃ t, exec (.mwaitb k) s = .next t ∧ ThreadOnly s t r { th with pc := th.pc + 4 }) ∧
    (p.count k.val ≠ 0 → ∃ t, exec (.mwaitb k) s = .next t ∧ ThreadOnly s t r (asleep th (.mwaitb k.val))) ∧
    (th.inRange d 1 = true → u.toNat * 2 + v.toNat < p.tsw.length →
      ∃ t q, exec (.mstat d u v) s = .next t ∧ ThreadOnly s t r { (th.wr32 d (p.tileStatus (u.toNat * 2 + v.toNat))) with pc := th.pc + 4 } ∧
        tget t.plots r.tag = some q ∧ q.tsw = p.tsw.set (u.toNat * 2 + v.toNat) 0))

/-- 18 R356, 17 R331, R340, R341, R348, R349, R351: an MMA in its turn reads its operands and streams K / d cycles; at its end every cell of its product holds the old one (or zero, OVW) with the row pair's products admitted,
and no other cell changes; a drain in its turn reads and converts its cells for its registers, over 128 cycles; MZERO zeroes its tile and completes a cycle later; a command that
completes leaves the queue and lowers TL, its barrier arrived at with the bytes it read or wrote, and the first command that waits for room is accepted. That the operands, and a
drain's cells, are read at one instant is log 22's choice; that a command waits captured, log 26's. -/
def Obligations.MatrixEngineWorks : Prop := ∀ (s : State) (core arr tag : Nat) (p : Plot) (c : EngCmd), s.memoriesOk → tget s.plots tag = some p → c ∈ p.engq →
  let b := leNat c.block
  (s.engPick core (fun c => c.kind == .mma && c.arr == arr && c.stage == .queued) = some (tag, c) →
    ∃ t q d, exec (.mmaStreamStart core arr) s = .next t ∧ MemorySame s t ∧ SpadsSame s t ∧ tget t.plots tag = some q ∧ q.tiles = p.tiles ∧ d ∈ q.engq ∧
      d = { c with stage := .started, due := s.cycle + max (streamCycles (capturedFmt c.entries 0) (mbK b)) (streamCycles (capturedFmt c.entries 1) (mbK b)), rowsA := d.rowsA, rowsB := d.rowsB } ∧
      ((descOf (mbDescA b)).srck = false → d.rowsA = s.operandRows tag (mbDescA b) (capturedFmt c.entries 0) (mbM b) (mbK b)) ∧
      ((descOf (mbDescA b)).srck = true → d.rowsA = c.rowsA)) ∧
  (s.engStarted core arr .mma = some (tag, c) → mbM b ≤ 128 → mbN b ≤ 128 → (∀ d ∈ p.engq, d.accepted = true) →
    ∃ t q, exec (.mmaStreamEnd core arr) s = .next t ∧ MemorySame s t ∧ tget t.plots tag = some q ∧ Finished s t tag c ∧
      (∀ i j, i < mbM b → j < mbN b → q.cell c.tile i j =
        admitRow (mbOp b == 2) (mbXa b) (if mbOvw b then axaZero else p.cell c.tile i j)
          (operandValues c.rowsA (capturedFmt c.entries 0) (mbM b) (mbK b) i) (operandValues c.rowsB (capturedFmt c.entries 1) (mbN b) (mbK b) j)) ∧
      (∀ k i j, i < 128 → j < 128 → ¬(k = c.tile ∧ i < mbM b ∧ j < mbN b) → q.cell k i j = p.cell k i j) ∧
      (mbArm b = false → SpadsSame s t) ∧
      ∀ g x, mbArm b = true → s.spadAt c.ref.tag (mbBar b / 16 * 16) 16 = .ok (g, x) → (s.barAt g x).init < 2 ^ 30 →
        t.barAt g x = (barArrive (s.barAt g x) (operandBytes (mbDescA b) (capturedFmt c.entries 0) (mbM b) (mbK b) +
          operandBytes (mbDescB b) (capturedFmt c.entries 1) (mbN b) (mbK b))).1) ∧
  (s.engPick core (fun c => c.kind == .mdrain && c.arr == arr && c.stage == .queued) = some (tag, c) →
    ∃ t q d, exec (.mdrainRun core arr) s = .next t ∧ MemorySame s t ∧ tget t.plots tag = some q ∧ d ∈ q.engq ∧ d = { c with stage := .started, due := s.cycle + 128 } ∧
      (dbClr b = false → q.tiles = p.tiles) ∧
      (dbReg b = true → SpadsSame s t ∧ ∀ k, k < dbRows b → ∀ th, s.thread? ⟨c.ref.tag, dbHrow b * 64 + k⟩ = some th → th.live = true →
        t.thread? ⟨c.ref.tag, dbHrow b * 64 + k⟩ = some (th.setRegs (dbRbase b) (drainWords b (p.drainRow c k).1))) ∧
      ∀ a n g x, dbReg b = false → dbRows b = 1 → (plainDesc (dbDst b) (dbPitch b) (dbRot b)).row (dbCols b * dbSize b) 0 = [(a, n)] → n = dbCols b * dbSize b →
        s.areaAt c.ref.tag a n = .ok (g, x) → SpadsSameBut s t g x n ∧ t.spadNat g x n = leNat (((p.drainRow c 0).1.map (natLe (dbSize b))).flatten)) ∧
  (s.engStarted core arr .mdrain = some (tag, c) → (∀ d ∈ p.engq, d.accepted = true) →
    ∃ t q, exec (.mdrainComplete core arr) s = .next t ∧ MemorySame s t ∧ tget t.plots tag = some q ∧ q.tiles = p.tiles ∧ Finished s t tag c ∧
      (dbArm b = false → SpadsSame s t) ∧
      ∀ g x, dbArm b = true → s.spadAt c.ref.tag (dbBar b / 16 * 16) 16 = .ok (g, x) → (s.barAt g x).init < 2 ^ 30 →
        t.barAt g x = (barArrive (s.barAt g x) (dbRows b * dbCols b * dbSize b)).1) ∧
  (s.engStarted core arr .mzero = some (tag, c) → (∀ d ∈ p.engq, d.accepted = true) →
    ∃ t q, exec (.mzeroTurn core arr) s = .next t ∧ MemorySame s t ∧ SpadsSame s t ∧ tget t.plots tag = some q ∧ q.tiles = p.tiles ∧ Finished s t tag c) ∧
  (s.engStarted core arr .mzero = some (tag, c) → ∀ l d u th, p.engq = l ++ [d] → (∀ x ∈ l, x.accepted = true) → d.accepted = false → d.status = 0 →
    d.ref.tag = tag → d.ref ≠ c.ref → d.id ≠ c.id → s.thread? c.ref = some th → s.thread? d.ref = some u →
    ({ p with engq := l.filter fun x => x.id != c.id } : Plot).hasRoom d = true →
    ∃ t q, exec (.mzeroTurn core arr) s = .next t ∧ tget t.plots tag = some q ∧ q.tiles = p.tiles ∧
      q.engq = (l.filter fun x => x.id != c.id) ++ [{ d with stage := .queued }] ∧
      t.thread? c.ref = some { th with tl := th.tl - 1 } ∧ t.thread? d.ref = some { u with tl := u.tl + 1 }) ∧
  (s.engStarted core arr .mzero = none → s.engPick core (fun c => c.kind == .mzero && c.arr == arr && c.stage == .queued) = some (tag, c) →
    ∃ t q, exec (.mzeroTurn core arr) s = .next t ∧ MemorySame s t ∧ SpadsSame s t ∧ tget t.plots tag = some q ∧
      { c with stage := .started, due := s.cycle + 1 } ∈ q.engq ∧
      ∀ k i j, i < 128 → j < 128 → q.cell k i j = if k = c.tile then axaZero else p.cell k i j)

/-- 19 R362 to R367: an APIPE in its turn reads and releases Q and begins its first sweep; the reads of a sweep go on from where they stand, and pause with a record
at a fault; behind the last one the sweep streams for the cycles of its key blocks; sweep 1 leaves each row's maximum at MADDR, sweep 2 the O cells; when the command
completes, the score tile holds zero, its result record has its stop point, its rows without a key and its status, and TL is one lower. That Q is read whole in the first step is
log 22's choice, and when within a sweep its maxima and O cells are written log 29's. -/
def Obligations.AttentionPipeWorks : Prop := ∀ (s : State) (core tag : Nat) (p : Plot) (c : EngCmd), s.memoriesOk → tget s.plots tag = some p → c ∈ p.engq →
  let b := leNat c.block
  (s.apResumed core = none → s.apStreamed core = none → s.engPick core s.apMayStart = some (tag, c) →
    ∃ t q d, exec (.apipeStart core) s = .next t ∧ tget t.plots tag = some q ∧ q.tiles = p.tiles ∧ d ∈ q.engq ∧ d.id = c.id ∧ d.block = c.block ∧
      d.entries = c.entries ∧ d.table = c.table ∧ d.sweep = (if apS1 b then 1 else 2) ∧
      d.rowsA = (List.range (apNq b)).map (s.rowBytes tag (descOf (apDescQ b)) (rowLength (capturedFmt c.entries 0) (apD b))) ∧
      ((d.stage = .started ∧ d.nextReads = none) ∨ (∃ h, d.stage = .paused (some h)) ∨ d.stage = .held) ∧
      (apArm b = false → SpadsSame s t) ∧
      ∀ g x, apArm b = true → s.spadAt c.ref.tag (apBar b / 16 * 16) 16 = .ok (g, x) → (s.barAt g x).init < 2 ^ 30 →
        t.barAt g x = (barArrive (s.barAt g x) (apNq b * rowLength (capturedFmt c.entries 0) (apD b))).1) ∧
  (s.apResumed core = some (tag, c) → ∀ k l s1 x f, c.nextReads = some (k, l) → s.apRead core p.ctx k (l.drop (c.part.length / k)) = (s1, x, f) →
    ∃ t q d, exec (.apipeStart core) s = .next t ∧ SpadsSame s t ∧ tget t.plots tag = some q ∧ q.tiles = p.tiles ∧ d ∈ q.engq ∧
      (∀ code a, f = some (code, a) → code ≠ fcNoPort → ∃ h, d = { c with part := c.part ++ x, stage := .paused (some h) }) ∧
      (f = none → ({ c with reads := c.reads ++ [c.part ++ x], part := [] } : EngCmd).nextReads = none →
        MemorySame s1 t ∧ d = { c with reads := c.reads ++ [c.part ++ x], part := [], stage := .started, due := s.cycle + d.sweepCycles })) ∧
  (s.apResumed core = none → s.apStreamed core = some (tag, c) → c.moreSweeps = true → ∀ g x, s.spadAt c.ref.tag (apMaddr b) 512 = .ok (g, x) → x + 512 ≤ 2 ^ 23 →
    ∃ t q d, exec (.apipeStart core) s = .next t ∧ tget t.plots tag = some q ∧ q.tiles = p.tiles ∧ d ∈ q.engq ∧ d.id = c.id ∧ d.sweep = 2 ∧
      SpadsSameBut s t g x (4 * apNq b) ∧
      ∀ i, i < apNq b → t.spadNat g (x + 4 * i) 4 = (apMax (c.rowScores c.apValues i).1).1 % 2 ^ 32) ∧
  (s.apStreamed core = some (tag, c) → c.moreSweeps = false → (∀ d ∈ p.engq, d.accepted = true) →
    ∃ t q, exec (.apipeComplete core) s = .next t ∧ MemorySame s t ∧ tget t.plots tag = some q ∧ Finished s t tag c ∧
      (∀ i j, i < 128 → j < 128 → q.cell (apScoreTile b) i j = axaZero) ∧
      (c.sweep = 2 → c.tile ≠ apScoreTile b → ∀ i j, i < apNq b → j < apD b → q.cell c.tile i j =
        (c.rowSum c.apValues (c.rowScores c.apValues i).1 (c.maxima.getD i 0) (c.sums.getD i axaZero)
          ((List.range (apD b)).map fun d => if apOvw b then axaZero else p.cell c.tile i d)).2.1.getD j axaZero) ∧
      ∀ g x, apRes b % 16 = 0 → s.spadAt c.ref.tag (apRes b) 16 = .ok (g, x) →
        bits (t.spadNat g x 16) 47 32 = c.emptyRows % 2 ^ 16 ∧ bits (t.spadNat g x 16) 31 16 = c.apBlocks.1.length % 2 ^ 16 ∧
        bits (t.spadNat g x 16) 7 0 = (if c.apBlocks.2 ≠ 0 then c.apBlocks.2 else c.status) % 256)

/-! ## Queues, placement, swap -/

/-- 15 R300, R301, R302, R315: the front end takes the packet in slot RIX of a queue, one slot long, when that slot's header carries its SEQ and a kind other than 0: it writes 0 to bytes 0 to 7 of
the slot and RIX + 1 to the header; a packet of a bad kind, and a copy that fails a check, ends there; a slot without a packet changes nothing but what reading it does.
15 R302 to R305, R314, R441: a nop completes; a token signal adds its value to its token once every earlier packet of its queue has completed, and waits before; a copy is handed to the queue copy engine while
that holds fewer than 256; a launch that passes its checks makes a sowing and holds its queue, one that fails a check of a code below
membership makes none. -/
def Obligations.PacketsTakenAndExecuted : Prop :=
  (∀ (s : State) (q : Nat) (x : Queue) (e f : TbEntry), s.memoriesOk →
  tget s.queues q = some x → x.waitRec = none → x.held = false → x.frozen = false → s.hostFrozen = false → x.packet = none →
  ReachesAt s 128 x.ctx x.va 64 accLoad e →
  let h := s.placeNat (s.areaOf e x.va) (s.offsetOf e x.va) 64
  let n := bits h 127 64
  let a := x.slotVa h n
  let area := s.areaOf f a
  let y := s.offsetOf f a
  let b := s.placeNat area y 64
  let rixArea := s.areaOf e (x.va + 8)
  let rix := s.offsetOf e (x.va + 8)
  let bad := 8 ≤ b % 256 ∨ (b % 256 ≤ 5 ∧ firstFailed (copyChecks b true none) ≠ none)
  ReachesAt s 128 x.ctx a 64 accLoad f →
  (b % 256 = 0 ∨ bits b 63 48 ≠ n % 65536 →
    ∃ t, exec (.frontEndTakePacket q) s = .next t ∧ tget t.queues q = some x ∧ MemorySame s t ∧ t.plots = s.plots) ∧
  (2 ≤ b % 256 → b % 256 ≠ 3 → bits b 63 48 = n % 65536 → (bad → bits b 511 448 = 0) → ReachesAt s 128 x.ctx a 8 accStore f →
    KeepsReaching s area y 8 128 x.ctx (x.va + 8) 8 accStore e →
    ∃ t p, exec (.frontEndTakePacket q) s = .next t ∧ t.plots = s.plots ∧
      tget t.queues q = some { x with packet := if bad then none else some p } ∧
      p.n = n ∧ p.kind = b % 256 ∧ p.bytes = natLe 64 b ∧ p.stage = .taken ∧ p.entry = (if b % 256 ≤ 5 then some [] else none) ∧
      t.placeNat rixArea rix 8 = (n + 1) % 2 ^ 64 ∧
      ∀ o z, ¬(o = area ∧ y ≤ z ∧ z < y + 8) → ¬(o = rixArea ∧ rix ≤ z ∧ z < rix + 8) → t.placeByte o z = s.placeByte o z)) ∧
  (∀ (s : State) (q : Nat) (x : Queue) (p : Packet), s.memoriesOk → tget s.queues q = some x →
  x.packet = some p → p.stage = .taken → x.waitRec = none → x.held = false →
  let v := leNat p.bytes
  (p.kind = 7 → firstFailed (smallChecks v 7) = none → p.status = 0 →
    ∃ t, exec (.nopPacket q) s = .next t ∧ t = { s with queues := t.queues } ∧ tget t.queues q = some { x with packet := none }) ∧
  (p.kind = 6 → firstFailed (smallChecks v 6) = none →
    (x.open' ≠ [] → exec (.tokenSignal q) s = .next s) ∧
    ∀ e, x.open' = [] → p.status = 0 → ReachesAt s 128 x.ctx (bits v 127 64) 8 accAtomic e →
      let area := s.areaOf e (bits v 127 64)
      let y := s.offsetOf e (bits v 127 64)
      ∃ t, exec (.tokenSignal q) s = .next t ∧ t.plots = s.plots ∧ tget t.queues q = some { x with packet := none } ∧ MemorySameBut s t area y 8 ∧
        t.placeNat area y 8 = (s.placeNat area y 8 + bits v 191 128) % 2 ^ 64) ∧
  (2 ≤ p.kind → p.kind ≤ 5 →
    (256 ≤ s.queueCopies → exec (.queueCopyHandoff q) s = .next s) ∧
    (s.queueCopies < 256 → ∃ t, exec (.queueCopyHandoff q) s = .next t ∧ t = { s with queues := t.queues, copies := t.copies, nextId := t.nextId } ∧
      tget t.copies s.nextId = some { newCopy none none (some q) x.ctx 0 p.bytes (BitVec.ofNat 2 (ccRm v)) (p.entry.getD []) with needEntry := p.entry.isNone } ∧
      tget t.queues q = some { x with packet := none, open' := x.open' ++ [s.nextId] })) ∧
  (p.kind = 1 →
    (firstFailed (launchChecks v) = none → lpGroups v = 0 →
      ∃ t, exec (.launch q) s = .next t ∧ t = { s with queues := t.queues, sowings := t.sowings, nextId := t.nextId } ∧
        tget t.sowings s.nextId = some (sowingOf q x p []) ∧
        tget t.queues q = some { x with packet := some { p with stage := .launched }, open' := x.open' ++ [s.nextId] }) ∧
    ∀ code detail, firstFailed (launchChecks v) = some (code, detail) → code < 0x13 → lpStatus v = 0 →
      ∃ t, exec (.launch q) s = .next t ∧ t = { s with queues := t.queues } ∧ tget t.queues q = some { x with packet := none }))

/-- 01 R18, R20, R25, R31, R36: tokens are read whole, each with the cores of the update of this device that left the value read (01 R37, log 35), else with what its word's release
is to the distributor; the tract that is chosen is placed on its run of cores, one plot on each, with every thread filed at the
entry, its registers 0 and its constants k0 to k11 filled, and the selector of a core that held no tract is loaded from the seed. -/
def Obligations.TractsPlaced : Prop := ∀ (s : State) (n : Nat) (w : Sowing), tget s.sowings n = some w →
  (∀ e : Token → TbEntry, w.toksOk = false → w.waitRec = none → w.held = false →
    (∀ k ∈ w.toks, k.va % 8 = 0 ∧ ReachesAt s 128 w.ctx k.va 8 accLoad (e k)) →
    ∃ t, exec (.tokenRead n) s = .next t ∧ MemorySame s t ∧ t.plots = s.plots ∧
      tget t.sowings n = some { w with
        toks := w.toks.map fun k =>
          let v := s.placeNat (s.areaOf (e k) k.va) (s.offsetOf (e k) k.va) 8
          let at' := (s.areaOf (e k) k.va, s.offsetOf (e k) k.va)
          { k with
            ok := decide (k.thr ≤ v)
            upd := ((tget s.tokUpds (placeKey at')).filter fun u => u.value == v).map TokUpd.cores
            acq := s.releaseScope (s.vaTags 128 w.ctx k.va 8) }
        tokAt := some s.time }) ∧
  ∀ run, s.choice = .place ⟨n, none⟩ run → run.length = w.plots → s.plots.length + 8 < 2 ^ 20 → w.plots ≤ 8 →
    ∃ t x v, exec .placeTract s = .next t ∧ MemorySame s t ∧ tget t.tracts s.nextId = some x ∧ x.sow = n ∧ x.index = w.next ∧ x.cores = run ∧
      x.resident = true ∧ x.placedAt = s.time ∧ tget t.sowings n = some v ∧ v = { w with next := w.next + 1, coresUsed := v.coresUsed } ∧
      (∀ c ∈ run, s.coreEmpty c = true → (t.core c).sel = seedOf w.seed) ∧
      ∀ j c, run[j]? = some c → ∃ tag p, tget t.plots tag = some p ∧ p.tract = s.nextId ∧ p.index = j ∧ p.core = c ∧ p.spad = [] ∧
        p.k = w.k ++ [BitVec.ofNat 32 w.next, BitVec.ofNat 32 ((w.plots - 1) * 256 + j)] ∧
        ∀ i, i < w.size → tget p.threads i = some (Thread.launched w.ra w.rmode w.entry)

/-- 01 R33, R35, 15 R305: a resident tract whose quantum is over, or whose live threads have slept for 10 microseconds, becomes a candidate while another waits; a plot whose threads have exited and whose work is
done retires, with the last one its tract, whose resources are freed together; a sowing whose tracts have retired adds 1 to DONE and writes its record. -/
def Obligations.TractsRetire : Prop := ∀ (s : State),
  (∀ n t, tget s.tracts n = some t →
    (s.quantumReady t = true → ∃ u, exec (.quantumExpiry n) s = .next u ∧ u = { s with tracts := u.tracts } ∧ tget u.tracts n = some { t with quantumOver := true }) ∧
    (t.resident = true → s.allAsleep n = true → t.sleepSince = none →
      ∃ u, exec (.sleepCandidateTimer n) s = .next u ∧ u = { s with tracts := u.tracts } ∧ tget u.tracts n = some { t with sleepSince := some s.time }) ∧
    (∀ x, t.resident = true → s.allAsleep n = true → t.sleepSince = some x → x + 10000000 ≤ s.time → t.frozen = false → s.pressed (s.prioOf t) = true →
      ∃ u, exec (.sleepCandidateTimer n) s = .next u ∧ u = { s with tracts := u.tracts } ∧ tget u.tracts n = some { t with sleepCand := true })) ∧
  (∀ tag p, (s.plots.map Prod.fst).Nodup → tget s.plots tag = some p → s.retireReady tag p = true →
    ((∃ x ∈ s.plots, x.1 ≠ tag ∧ x.2.tract = p.tract ∧ x.2.retired = false) →
      ∃ t, exec (.plotRetire tag) s = .next t ∧ t = { s with plots := t.plots } ∧ tget t.plots tag = some { p with retired := true }) ∧
    ((∀ x ∈ s.plots, x.1 ≠ tag → x.2.tract = p.tract → x.2.retired = true) → ∀ tr w, tget s.tracts p.tract = some tr → tget s.sowings tr.sow = some w →
      ∃ t, exec (.plotRetire tag) s = .next t ∧ tget t.tracts p.tract = none ∧ (∀ x ∈ t.plots, x.2.tract ≠ p.tract) ∧
        tget t.sowings tr.sow = some { w with retired := w.retired + 1 } ∧ MemorySame s t)) ∧
  ∀ n w, s.memoriesOk → tget s.sowings n = some w → w.ends = true →
    (w.doneVa = 0 → w.statusVa = 0 → ∃ t, exec (.sowingComplete n) s = .next t ∧ t = { s with sowings := t.sowings, queues := t.queues } ∧ tget t.sowings n = none) ∧
    (∀ e, w.doneVa ≠ 0 → w.doneAdded = false → w.statusVa = 0 → ReachesAt s 128 w.ctx w.doneVa 8 accAtomic e →
      let area := s.areaOf e w.doneVa
      let y := s.offsetOf e w.doneVa
      ∃ t, exec (.sowingComplete n) s = .next t ∧ tget t.sowings n = none ∧ t.plots = s.plots ∧ MemorySameBut s t area y 8 ∧
        t.placeNat area y 8 = (s.placeNat area y 8 + 1) % 2 ^ 64) ∧
    ∀ e, w.doneVa = 0 → w.statusVa ≠ 0 → w.statusVa % 8 = 0 → w.statusVa < 2 ^ 64 → ReachesAt s 128 w.ctx w.statusVa 8 accStore e →
      let area := s.areaOf e w.statusVa
      let y := s.offsetOf e w.statusVa
      ∃ t, exec (.sowingComplete n) s = .next t ∧ tget t.sowings n = none ∧ t.plots = s.plots ∧ MemorySameBut s t area y 8 ∧
        t.placeNat area y 8 = if w.aborted then 0x20 else 0

/-- 21 R388, R391, R392: a tract that is chosen for swap-out, or whose parking budget has run out, begins to leave or has left; one that leaves goes when its work is settled, its cores free and its reservations lost; a
swapped tract that is chosen stands on its run of cores again, and the threads that its image keeps filed are about to enter furrows there. -/
def Obligations.TractsSwap : Prop := ∀ (s : State) (n : Nat) (t : Tract) (w : Sowing), tget s.tracts n = some t → tget s.sowings t.sow = some w →
  (∀ y, t.leaving = false → s.choice = .swap n y → (s.poolRoom w.ctx n (fixedImage w.plots w.size w.ra w.spadKB w.matN)).isSome = true →
    ∃ u x, exec (.swapOut n) s = .next u ∧ tget u.tracts n = some x ∧ (x.leaving = true ∨ x.resident = false) ∧
      ∀ tag p, tget s.plots tag = some p → p.tract = n → p.index < 8 → ∀ i th, u.thread? ⟨tag, i⟩ = some th → ∀ k, th.place ≠ .drill k) ∧
  (t.leaving = true → s.leaveReady n t = false → exec (.swapOut n) s = .next s) ∧
  (t.leaving = true → s.leaveReady n t = true → ∃ u x, exec (.swapOut n) s = .next u ∧ tget u.tracts n = some x ∧ x.resident = false ∧ x.leaving = false ∧
    x.cores = [] ∧ x.sel = (s.core t.core0).sel ∧ (∀ v ∈ u.reservations, v.peer = none → ∀ p, (v.ref.tag, p) ∉ s.plotsOf n) ∧
    ∀ v ∈ u.watches, ∀ p, (v.ref.tag, p) ∉ s.plotsOf n) ∧
  (s.budgetOver n t = true → ∃ u x, exec (.parkingBudgetExpiry n) s = .next u ∧ tget u.tracts n = some x ∧ x.overBudget = true ∧
    (x.leaving = true ∨ x.resident = false)) ∧
  ∀ run : List Nat, s.choice = .place ⟨t.sow, some n⟩ run → t.leaving = false → (s.plots.map Prod.fst).Nodup → s.imageThere n = true →
    let sr := s.restoreImage n t w
    (∀ x ∈ sr.plotsOf n, ∀ y ∈ x.2.threads, y.2.stopsWhenFiled = false) →
    ∃ u x, exec (.swapIn n) s = .next u ∧ tget u.tracts n = some x ∧ x.cores = run ∧ x.resident = true ∧ x.placedAt = s.time ∧ x.overBudget = false ∧
      ∀ (j tag : Nat) (p : Plot) (c : Nat), (sr.plotsOf n)[j]? = some (tag, p) → run[j]? = some c → ∃ q, tget u.plots tag = some q ∧ q.core = c ∧
        ∀ i th, tget p.threads i = some th → th.place = .filed → ∃ f ∈ (u.core c).filing, f.ref = ⟨tag, i⟩

/-! ## Fault records and debugging -/

/-- 21 R375, R378, R387, R389, 22 R400, R401, R403: a record the steward holds is written to the context's queue when that has room; service is held and released; a recorded thread is killed on the runtime's word while it is held; the record at RIX is
serviced: a fault on a lazy page resumes its thread; a double trap and a fault that a handler reports with code 0x10 end it, whatever the runtime answers; another that parked a thread resumes it where the runtime answers so and else ends it (the
answer of the runtime is the model's input: log 33). -/
def Obligations.FaultsServiced : Prop := ∀ (s : State) (ctx : Nat) (c : Ctx), tget s.ctxs ctx = some c →
  (c.heldRecs = [] → exec (.faultRecordFlush ctx) s = .next s) ∧
  (∀ f s1 k a e e', s.memoriesOk → c.heldRecs = [f] → s.recSlot ctx = (s1, .ok (some (k, a))) → ReachesAt s1 128 ctx a 32 accEngWrite e →
    let area := s1.areaOf e a
    let y := s1.offsetOf e a
    let area' := s1.areaOf e' c.frqh.toNat
    let z := s1.offsetOf e' c.frqh.toNat
    KeepsReaching s1 area y 32 128 ctx c.frqh.toNat 8 accEngWrite e' → (area ≠ area' ∨ z + 8 ≤ y ∨ y + 32 ≤ z) →
    ∃ t d, exec (.faultRecordFlush ctx) s = .next t ∧ t.plots = s.plots ∧ tget t.ctxs ctx = some d ∧ d.heldRecs = [] ∧ tget d.recs k = some f ∧
      t.placeNat area y 32 = leNat (recBytes f) ∧ t.placeNat area' z 8 = (k + 1) % 2 ^ 64) ∧
  (∃ t, exec (.faultsHold ctx) s = .next t ∧ t = { s with ctxs := t.ctxs } ∧ tget t.ctxs ctx = some { c with svcHeld := true }) ∧
  (∃ t, exec (.faultsRelease ctx) s = .next t ∧ t = { s with ctxs := t.ctxs } ∧ tget t.ctxs ctx = some { c with svcHeld := false }) ∧
  (∀ n, c.svcHeld = false → exec (.faultsKill ctx n) s = .next s) ∧
  (∀ n f r th, c.svcHeld = true → tget c.recs n = some f → f.parks = true → f.ref = some r → s.thread? r = some th → th.live = true →
    ∃ t d, exec (.faultsKill ctx n) s = .next t ∧ Ended t r ∧ tget t.ctxs ctx = some d ∧ tget d.recs n = none) ∧
  (∀ b, c.svcHeld = true → exec (.faultService ⟨ctx, b⟩) s = .next s) ∧
  ∀ s1 n f r th, c.svcHeld = false → s.nextRec c ctx = (s1, some n) → tget c.recs n = some f → f.ref = some r → s.thread? r = some th → f.parks = true →
    let lazy := f.src = 0 ∧ f.code = 1 ∧ c.lazyPage f.addr.toNat ≠ none
    let killed := f.src = 5 ∨ (f.src = 4 ∧ f.code = 0x10)
    (killed → th.live = true → ∀ b, ∃ t d, exec (.faultService ⟨ctx, b⟩) s = .next t ∧ Ended t r ∧ tget t.ctxs ctx = some d ∧ tget d.recs n = none) ∧
    (¬lazy → th.live = true → ∃ t d, exec (.faultService ⟨ctx, false⟩) s = .next t ∧ Ended t r ∧ tget t.ctxs ctx = some d ∧ tget d.recs n = none) ∧
    ∀ b, (b = true ∧ ¬killed) ∨ lazy → (lazy → s1.lazyHeld ctx f = false) → th.place = .headland .parked → th.stopsWhenFiled = false →
      ∃ t d, exec (.faultService ⟨ctx, b⟩) s = .next t ∧ t.thread? r = some { th with pflt := false, place := .filed } ∧
        tget t.ctxs ctx = some d ∧ tget d.recs n = none

/-- 21 R371, R395 to R399, 01 R14: the debugger sets comparators and the control bits of a context, reads and writes the state of a stopped thread, lets it go on (past a BKPT), or executes one
instruction of it; a write takes effect as the thread is filed, on the registers and the fields of the record, and one whose WB or EWB the thread cannot take is refused; a kill ends
a thread. The model's choices among these: what a write takes of the record and when it is seen (log 37), the refusal of the whole write (log 60), all bits of a PC that is written kept
(log 52), and the single step that executes next (log 54). -/
def Obligations.DebugService : Prop := ∀ (s : State),
  (∀ ctx c n cmp, tget s.ctxs ctx = some c → n < 16 → ∃ t, exec (.debugSetComparator ctx n cmp) s = .next t ∧ t = { s with ctxs := t.ctxs } ∧
    tget t.ctxs ctx = some { c with cmps := tput c.cmps n cmp }) ∧
  (∀ ctx c st hz bk, tget s.ctxs ctx = some c → ∃ t, exec (.debugSetControl ctx st hz bk) s = .next t ∧ t = { s with ctxs := t.ctxs } ∧
    tget t.ctxs ctx = some { c with still := st, haz := hz, bks := bk }) ∧
  ∀ tag tid th, s.thread? ⟨tag, tid⟩ = some th →
    (th.live = true → ∃ t, exec (.debugKill tag tid) s = .next t ∧ Ended t ⟨tag, tid⟩) ∧
    (th.place = .headland .stopped →
      (∃ t, exec (.debugReadState tag tid) s = .next t ∧ t = { s with debug := t.debug } ∧
        t.debug = s.debug ++ [.state ⟨tag, tid⟩ (BitVec.ofNat 2048 (threadBits s.cycle th)) th.block]) ∧
      (∀ image regs, let wb := bits image.toNat 111 96
        let ewb := bits image.toNat 1199 1184
        let u := { th with written := some { image := image, regs := regs } }
        let v := u.withWrite
        (wb % 4 = 0 ∧ wb + 4 ≤ th.ra ∧ ewb % 4 = 0 ∧ ewb + 4 ≤ th.ra → ∃ t, exec (.debugWriteState tag tid image regs) s = .next t ∧
          t = { s with plots := t.plots } ∧ t.thread? ⟨tag, tid⟩ = some u ∧ OthersSame s t ⟨tag, tid⟩ ∧
          v.place = th.place ∧ v.pc = BitVec.ofNat 64 (bits image.toNat 63 0) ∧ v.wb = wb ∧ v.ix = BitVec.ofNat 32 (bits image.toNat 159 128) ∧
          v.ra = th.ra ∧ v.written = none ∧ ∀ i, i < regs.length → i < th.ra → v.regs.getD i 0 = regs.getD i 0) ∧
        (¬(wb % 4 = 0 ∧ wb + 4 ≤ th.ra ∧ ewb % 4 = 0 ∧ ewb + 4 ≤ th.ra) → exec (.debugWriteState tag tid image regs) s = .next s)) ∧
      let w := th.withWrite
      (s.tractOf ⟨tag, tid⟩ = none → th.stepping = false → th.stopReq = false →
        ∃ t, exec (.debugResume tag tid) s = .next t ∧
          t.thread? ⟨tag, tid⟩ = some { w with pc := if th.bkptStop.isSome then w.pc + 4 else w.pc, noMatch := true, bkptStop := none, place := .filed }) ∧
      ∀ n x, s.tractOf ⟨tag, tid⟩ = some (n, x) →
        (x.frozen = true → exec (.debugResume tag tid) s = .next s) ∧
        (x.frozen = false → x.still = false → th.stepping = false → th.stopReq = false → ∃ t, exec (.debugResume tag tid) s = .next t ∧
          t.thread? ⟨tag, tid⟩ = some { w with pc := if th.bkptStop.isSome then w.pc + 4 else w.pc, noMatch := true, bkptStop := none, place := .filed }) ∧
        (x.frozen = false → x.still = true → th.stepping = false → (∀ p, tget s.plots tag = some p → p.index < 8) →
          (∀ y ∈ s.plots, y.2.tract = n → ∀ z ∈ y.2.threads, z.2.stepping = false) → ∃ t, exec (.debugResume tag tid) s = .next t ∧
          t.thread? ⟨tag, tid⟩ = some { w with
            pc := if th.bkptStop.isSome then w.pc + 4 else w.pc, noMatch := true, bkptStop := none, stopReq := false, place := .filed }) ∧
        ∀ slot, tfree (s.core (s.coreOf ⟨tag, tid⟩)).drills 0 256 = some slot → s.stepReady ⟨tag, tid⟩ th = true →
          ∃ t d u, exec (.debugSingleStep tag tid) s = .next t ∧ t.issueQ = (s.coreOf ⟨tag, tid⟩, slot) :: s.issueQ ∧
            tget (t.core (s.coreOf ⟨tag, tid⟩)).drills slot = some d ∧ d.lanes = [⟨tag, tid⟩] ∧ d.single = true ∧
            t.thread? ⟨tag, tid⟩ = some u ∧ u.place = .drill slot ∧ u.stepping = true)

/-! ## Fabric, host, mailbox, boot -/

/-- 23 R405, R408, R409, R411, R412: a port enabled by PORTEN that trained to four lanes enters service, and where it has no transmit key with a key in each direction (that it comes up with keys is log 13's), one with fewer is held down; a port that leaves,
a remap that ends and a table that changes are noted; a rotation delivers a key to the empty slot, switches the generation on the acknowledgement, and erases the old slot; a flit is accepted under the slot its
generation bit names and otherwise counted, the sixteenth in a row taking the port out of service; what the sender stores for the link goes with its generation and with the port (log 13). -/
def Obligations.PortsAndKeys : Prop := ∀ (s : State) (p : Nat),
  let x := s.port p
  (s.locked.portEn.getLsbD p = false → ∀ n, exec (.portLinkUp p n) s = .next s) ∧
  (s.locked.portEn.getLsbD p = true → s.fabric.waiting = [] → ∀ n, 4 ≤ n → ∃ t, exec (.portLinkUp p n) s = .next t ∧ (t.port p).up = true ∧ (t.port p).down = false ∧
    (t.port p).discards = 0 ∧ ((t.port p).tx0.isSome ∨ (t.port p).tx1.isSome) ∧ (x.tx0 = none → x.tx1 = none → (t.port p).rx0.isSome) ∧ MemorySame s t ∧
    (s.reqs = [] → s.lands = [] → ∀ q, q ≠ p → t.port q = s.port q)) ∧
  (s.locked.portEn.getLsbD p = true → s.fabric.waiting = [] → ∀ n, n < 4 → ∃ t, exec (.portLinkUp p n) s = .next t ∧ (t.port p).up = false ∧ (t.port p).down = true ∧
    (s.reqs = [] → s.lands = [] → t.port p = { x with up := false, down := true })) ∧
  (tget s.fabric.ports p = some x → x.up = true → ∃ t, exec (.portLeaveService p) s = .next t ∧ (t.port p).up = false ∧ MemorySame s t ∧
    (s.reqs = [] → s.lands = [] → t.port p = { x with up := false, stored := [] })) ∧
  (s.fabric.waiting = [] → ∀ l, ∃ t, exec (.reachabilityTableChange p l) s = .next t ∧ tget t.fabric.reach p = some l ∧ (∀ q, (t.port q).up = (s.port q).up) ∧
    (s.reqs = [] → s.lands = [] → t.fabric.ports = s.fabric.ports)) ∧
  (∀ d, s.fabric.remap.contains d = true → s.sentO d = false → ∃ t, exec (.oRemapRelease d) s = .next t ∧ t.fabric.remap = s.fabric.remap.filter (fun y => y != d)) ∧
  (∀ d, s.sentO d = true → exec (.oRemapRelease d) s = .next s) ∧
  (∀ k, x.rx0 = none → ∃ t, exec (.keyDeliver p k) s = .next t ∧ t.port p = { x with rx0 := some k }) ∧
  (∀ k, x.rx0 ≠ none → x.rx1 = none → ∃ t, exec (.keyDeliver p k) s = .next t ∧ t.port p = { x with rx1 := some k }) ∧
  (x.rot = .delivered → ∃ t, exec (.keyInstallAck p) s = .next t ∧
    t.port p = (if x.txGen then { x with tx0 := x.txNew, txGen := false, txNew := none, rot := .switched }
      else { x with tx1 := x.txNew, txGen := true, txNew := none, rot := .switched })) ∧
  (x.rot = .switched → ∃ t, exec (.oldGenerationAcked p) s = .next t ∧
    let kept := x.stored.filter fun f => f.flit.gen == x.txGen
    t.port p = (if x.txGen then { x with tx0 := none, rot := .idle, stored := kept } else { x with tx1 := none, rot := .idle, stored := kept })) ∧
  (∀ g : Bool, ∃ t, exec (.retireMarker p g) s = .next t ∧ t.port p = if g then { x with rx1 := none } else { x with rx0 := none }) ∧
  ∀ f : Flit, x.up = true → ∃ t, exec (.flitReceive p f) s = .next t ∧
    match (if f.gen then x.rx1 else x.rx0).bind fun k => Config.openFlit k f.body with
    | some m => t.port p = { x with discards := 0, accepted := x.accepted + 1 }.linkTold (Config.linkCmd m)
    | none => (t.port p).discards = x.discards + 1 ∧ (t.port p).up = decide (x.discards + 1 < 16)

/-- 23 R407, R409, R410, R413 to R415, R418, R429, R432: a peer's access inside a window of its context is performed and answered, outside every window it freezes the peer and is held; a context not registered here is
answered; a device without RELAY refuses to relay; a relayed request goes on by the port with the fewest bytes outstanding; a destination cut off for 100 ms is declared unreachable, what only it held dirty is poisoned, and a thread with a request to it parks at that request (that it stands
there is log 41's); the host reads and writes inside its windows, is frozen outside
them (its accesses go on while it is frozen: log 38), and reads all ones of a fallow device. -/
def Obligations.PeersAndHost : Prop := ∀ (s : State), s.memoriesOk →
  (∀ r : FabReq, s.fabric.frozen.contains r.src = true → ∃ t, exec (.fabricRequestReceive r) s = .next t ∧ t = { s with fabric := t.fabric } ∧
    t.fabric.held = s.fabric.held ++ [r]) ∧
  (∀ r : FabReq, s.fabric.frozen.contains r.src = false → s.seenBefore r = true → exec (.fabricRequestReceive r) s = .next s) ∧
  (∀ r : FabReq, s.fabric.frozen.contains r.src = false → s.seenBefore r = false →
    (r.dst = s.device → tget s.ctxs r.ctxid = none → ∃ t, exec (.fabricRequestReceive r) s = .next t ∧ MemorySame s t ∧
      t.fabric.answers = s.fabric.answers ++ [{ dev := r.src, tag := r.tag, reply := .noContext }]) ∧
    (r.dst ≠ s.device → s.relayFull r.port = false → s.locked.relay = false → ∃ t, exec (.fabricRequestReceive r) s = .next t ∧ MemorySame s t ∧
      t.fabric.answers = s.fabric.answers ++ [{ dev := r.src, tag := r.tag, reply := .relayRefused }]) ∧
    (r.dst ≠ s.device → s.relayFull r.port = false → s.locked.relay = true → ∃ t, exec (.fabricRequestReceive r) s = .next t ∧
      tget t.fabric.relays s.nextId = some r) ∧
    ∀ c, r.dst = s.device → tget s.ctxs r.ctxid = some c →
      (∀ pa n, r.kind = .read pa n → c.inPeerWin pa n = true → pa + n ≤ 2 ^ 39 → s.poisoned pa n = false →
        ∃ t, exec (.fabricRequestReceive r) s = .next t ∧ MemorySame s t ∧
          t.fabric.answers = s.fabric.answers ++
            [{ dev := r.src, tag := r.tag, reply := .value (natLe n (s.placeNat none pa n)) ((s.physTags pa n).map SyncSrc.wire) }]) ∧
      (∀ pa l, r.kind = .write pa l → c.inPeerWin pa l.length = true → pa + l.length ≤ 2 ^ 39 →
        (s.poisoned pa l.length = true → wholeLine pa l.length = true ∧ l.all Option.isSome = true) →
        ∃ t, exec (.fabricRequestReceive r) s = .next t ∧
          (∀ o y, t.placeByte o y = if o = none ∧ pa ≤ y then (l.getD (y - pa) none).getD (s.placeByte o y) else s.placeByte o y) ∧
          t.fabric.answers = s.fabric.answers ++ [{ dev := r.src, tag := r.tag, reply := .done }]) ∧
      ∀ pa n, (r.kind = .read pa n ∨ ∃ l : List (Option Byte), r.kind = .write pa l ∧ l.length = n) → c.inPeerWin pa n = false →
        ∃ t, exec (.fabricRequestReceive r) s = .next t ∧ MemorySame s t ∧ r.src ∈ t.fabric.frozen ∧ t.fabric.held = s.fabric.held ++ [r] ∧
          t.fabric.answers = s.fabric.answers) ∧
  (∀ id r, tget s.fabric.relays id = some r →
    (s.eligiblePorts r.dst = [] → exec (.relayForward id) s = .next s) ∧
    (s.eligiblePorts r.dst ≠ [] → ∃ t p, exec (.relayForward id) s = .next t ∧ p ∈ s.eligiblePorts r.dst ∧ (∀ q ∈ s.eligiblePorts r.dst, s.outBytes p ≤ s.outBytes q) ∧
      t.fabric.forwarded = s.fabric.forwarded ++ [(p, r)] ∧ tget t.fabric.relays id = none)) ∧
  (∀ d, s.emptyLong d = true → s.fabric.waiting = [] →
    ((∀ x ∈ s.reqs, s.goesTo x.2 d = false) → ∃ t, exec (.destUnreachable d) s = .next t ∧ d ∈ t.fabric.unreachable ∧ (∀ r, t.thread? r = s.thread? r) ∧
      MemorySame s t ∧ (∀ x ∈ t.copies, x.2.stage ≠ .held) ∧ ∀ x ∈ s.lineDir, x.2.dirty = some d → x.1 ∈ t.poison) ∧
    ∀ id q th, s.reqs = [(id, q)] → q.dst? = some d → s.thread? q.ref = some th → th.live = true → q.op.countsSt = false →
      ∃ t u, exec (.destUnreachable d) s = .next t ∧ d ∈ t.fabric.unreachable ∧ t.reqs = [] ∧ t.thread? q.ref = some u ∧ u.ld = th.ld - q.op.countsLd.toNat ∧
        u.place = .headland .parked ∧ u.pc = q.pc) ∧
  (∀ pa n, s.mbox.state = 2 → ∃ t, exec (.hostAccess (.read pa n)) s = .next t ∧ t = { s with hostReads := s.hostReads ++ [List.replicate n 0xFF] }) ∧
  (∀ pa l rel, s.mbox.state = 2 → exec (.hostAccess (.write pa l rel)) s = .next s) ∧
  (∀ pa n, s.mbox.state ≠ 2 → s.inAperture pa n = true → pa + n ≤ 2 ^ 39 → s.poisoned pa n = false →
    ∃ t, exec (.hostAccess (.read pa n)) s = .next t ∧ MemorySame s t ∧ t.hostReads = s.hostReads ++ [natLe n (s.placeNat none pa n)]) ∧
  (∀ pa l rel, s.mbox.state ≠ 2 → s.inAperture pa l.length = true → pa + l.length ≤ 2 ^ 39 →
    ∃ t, exec (.hostAccess (.write pa l rel)) s = .next t ∧ MemorySameBut s t none pa l.length ∧ t.placeNat none pa l.length = leNat l) ∧
  ∀ a, s.mbox.state ≠ 2 → (∃ pa n, a = .read pa n ∧ s.inAperture pa n = false) ∨ (∃ pa l rel, a = .write pa l rel ∧ s.inAperture pa l.length = false) →
    ∃ t, exec (.hostAccess a) s = .next t ∧ MemorySame s t ∧ t.hostFrozen = true

/-- 23 R420 to R422, R424, R429, R439: the doorbell and the host's writes of the mailbox block; the next message in order is accepted and read, one of an OP that is none ends with status 2, and in the fallow state every OP but the
self-test record with status 4; the steward's next message is posted while the host has room for it. -/
def Obligations.MailboxRings : Prop := ∀ (s : State),
  (∀ v, exec (.h2dDoorbell v) s = .next { s with mbox := { s.mbox with h2ddb := v } }) ∧
  (∀ v, exec (.mailboxWrite 8 v) s = .next { s with mbox := { s.mbox with h2ddb := v } } ∧
    exec (.mailboxWrite 24 v) s = .next { s with mbox := { s.mbox with d2hacc := v } } ∧
    exec (.mailboxWrite 28 v) s = .next { s with mbox := { s.mbox with d2hcmp := v } } ∧
    ∀ off ∈ [0, 4, 12, 16, 20, 1280], exec (.mailboxWrite off v) s = .next s) ∧
  (∀ n j v, n < 16 → n < s.mbox.h2d.length → j < 16 → ∃ t, exec (.mailboxWrite (256 + 64 * n + 4 * j) v) s = .next t ∧ t = { s with mbox := { s.mbox with h2d := t.mbox.h2d } } ∧
    (∀ k, k ≠ n → t.mbox.h2d.getD k 0 = s.mbox.h2d.getD k 0) ∧ (t.mbox.h2d.getD n 0).extractLsb' (32 * j) 32 = v ∧
    ∀ i, i < 16 → i ≠ j → (t.mbox.h2d.getD n 0).extractLsb' (32 * i) 32 = (s.mbox.h2d.getD n 0).extractLsb' (32 * i) 32) ∧
  (s.acceptReady = false → exec .mailboxAccept s = .next s) ∧
  (s.acceptReady = true →
    let q := s.mbox.h2dacc + 1
    let m := s.mbox.h2d.getD (q.toNat % 16) 0
    ∃ t, exec .mailboxAccept s = .next t ∧ t = { s with mbox := { s.mbox with h2dacc := q }, steward := t.steward } ∧
      (msgOp m ∈ knownOps → (s.mbox.state ≠ 2 ∨ msgOp m = 1) → t.steward = { s.steward with current := some m }) ∧
      (msgOp m ∉ knownOps → Replied s t m 2 0) ∧ (msgOp m ∈ knownOps → s.mbox.state = 2 → msgOp m ≠ 1 → Replied s t m 4 0)) ∧
  ∀ a m l, s.steward.posts = (a, m) :: l →
    (s.postRoom = false → exec .d2hPost s = .next s) ∧
    (s.postRoom = true → s.mbox.d2h.length = 16 → ∃ t, exec .d2hPost s = .next t ∧ t.steward = { s.steward with posts := l } ∧ t.hostIrqs = s.hostIrqs + 1 ∧
      t.mbox.d2hseq = s.mbox.d2hseq + 1 ∧ t.mbox.h2dcmp = a.getD s.mbox.h2dcmp ∧
      msgSeq (t.mbox.d2h.getD ((s.mbox.d2hseq + 1).toNat % 16) 0) = s.mbox.d2hseq + 1 ∧ msgOp (t.mbox.d2h.getD ((s.mbox.d2hseq + 1).toNat % 16) 0) = msgOp m)

/-- 21 R371, 15 R299, 22 R400, 09 R183, R202, 23 R412, R414, R418, R424, R430, R431, R435: the operations of the steward on a message it executes, each with its reply: contexts, queues, lazy pages and windows are entered and removed; a pin
change installs its PTE, and is refused where the pin area has no room; DISCARD makes its rows unsown, some at once and all at its end; an unfrozen master goes on; keys rotate; records, reports and logs are given out. The model's choices among these: argument j of a message is its 64-bit word j + 1 (log 12); the statuses of what a message
cannot have, a context's queues that leave with it and the numbers of the master kinds (log 17); a pin change refused for want of room (log 50); DISCARD in two steps, with the rows of each (log 61). -/
def Obligations.StewardOperations : Prop := ∀ (s : State) (m : Msg), s.memoriesOk →
  let a := msgArg m
  (Executing s m 0x01 → OnlyReplies .selfTestRecord s m 0 (selfTestBits s.steward)) ∧
  (Executing s m 0x02 → a 4 + 3613 ≤ 2 ^ 39 → ∃ t, exec .attestation s = .next t ∧ Replied s t m 0 0 ∧ MemorySameBut s t none (a 4) 3613 ∧
    t.placeNat none (a 4) 240 = s.reportBody (bits m.toNat 319 64) % 2 ^ 1920) ∧
  (Executing s m 0x03 → a 0 + a 1 ≤ 2 ^ 39 → ∃ t, exec .certificates s = .next t ∧ Replied s t m 0 0 ∧
    MemorySameBut s t none (a 0) (Config.certChain.take (a 1)).length ∧
    t.placeNat none (a 0) (Config.certChain.take (a 1)).length = leNat (Config.certChain.take (a 1))) ∧
  (Executing s m 0x30 → a 0 + a 1 ≤ 2 ^ 39 → ∃ t, exec .errorLogRead s = .next t ∧ Replied s t m 0 0 ∧
    t.placeNat none (a 0) ((logBytes s.steward.log).take (a 1)).length = leNat ((logBytes s.steward.log).take (a 1))) ∧
  (Executing s m 0x10 → a 0 + 128 ≤ 2 ^ 39 →
    let v := s.placeNat none (a 0) 128
    let s1 := (s.physRead 3 (a 0) 128).1
    (badDescriptor v = true → ∃ t, exec .contextRegister s = .next t ∧ Replied s t m 1 0 ∧ MemorySame s t) ∧
    ∀ s2 h, badDescriptor v = false → tget s.ctxs (ctxOf v).ctxid = none →
      (s1.putCtx (ctxOf v)).pread 128 (ctxOf v).ctxid (ctxOf v).frqh.toNat 64 accEngRead = (s2, .ok h) → (ctxOf v).headerOk (leNat h) = true →
      ∃ t, exec .contextRegister s = .next t ∧ Replied s t m 0 0 ∧ tget t.ctxs (ctxOf v).ctxid = some (ctxOf v)) ∧
  (Executing s m 0x11 → ∀ c, tget s.ctxs (a 0) = some c →
    (s.ctxBusy (a 0) = true → OnlyReplies .contextUnregister s m 3 0) ∧
    (s.ctxBusy (a 0) = false → ∃ t, exec .contextUnregister s = .next t ∧ Replied s t m 0 0 ∧ tget t.ctxs (a 0) = none ∧
      (∀ x ∈ t.queues, x.2.ctx ≠ a 0) ∧ (∀ x ∈ t.llc, ∀ n, n < 16 → (a 0, n) ∉ x.2.win) ∧ MemorySame s t)) ∧
  (Executing s m 0x12 → a 1 % 64 = 0 → ∀ e, ReachesAt s 128 (a 0) (a 1) 64 accEngRead e →
    let h := s.placeNat (s.areaOf e (a 1)) (s.offsetOf e (a 1)) 64
    (badQueueHeader h = true → ∃ t, exec .queueRegister s = .next t ∧ Replied s t m 1 0 ∧ t.queues = s.queues) ∧
    (badQueueHeader h = false → s.queueAt (a 0) (a 1) = none →
      ∃ t, exec .queueRegister s = .next t ∧ Replied s t m 0 0 ∧ (∃ k, tget t.queues k = some (queueOf (a 0) (a 1) h)) ∧ MemorySame s t)) ∧
  (Executing s m 0x13 →
    (s.queueAt (a 0) (a 1) = none → OnlyReplies .queueUnregister s m 1 0) ∧
    ∀ q, s.queueAt (a 0) (a 1) = some q → ∃ t, exec .queueUnregister s = .next t ∧ Replied s t m 0 0 ∧ tget t.queues q = none ∧ MemorySame s t) ∧
  (Executing s m 0x14 → ∀ c x, tget s.ctxs (a 0) = some c → a 1 < 2 ^ 52 → s.leafAddr (a 1) 3 c.root = some x → devOf x = s.device → localOf x + 8 ≤ 2 ^ 39 →
    ptePins (s.pteAt x) = false → (pteV (s.pteAt x) && pteC (s.pteAt x)) = false → pteV (a 2) = true → pteBad (a 2) 0 = false → pteLeaf (a 2) = true → pteC (a 2) = false →
    let own := pteOwn (a 2)
    let frame := pteAddr (a 2)
    (ptePins (a 2) = false → ∃ t, exec .pinChange s = .next t ∧ Replied s t m 0 0 ∧ t.pteAt x = a 2 ∧ MemorySameBut s t none (localOf x) 8) ∧
    (ptePins (a 2) = true → devOf frame = s.device → localOf frame + 4096 ≤ 2 ^ 39 → pinGap (s.core own).pinPages 4096 = none →
      ∃ t, exec .pinChange s = .next t ∧ Replied s t m 1 0 ∧ t = { s with steward := t.steward, unsownReads := t.unsownReads }) ∧
    ∀ off, ptePins (a 2) = true → pinGap (s.core own).pinPages 4096 = some off → devOf frame = s.device → localOf frame + 4096 ≤ 2 ^ 39 →
      ∃ t, exec .pinChange s = .next t ∧ Replied s t m 0 0 ∧ t.pteAt x = a 2 ∧ tget (t.core own).pinPages off = some { frame := frame, size := 4096 } ∧
        ∀ y, y < 4096 → t.placeByte (some own) (off + y) = t.placeByte none (localOf frame + y)) ∧
  (Executing s m 0x15 → ∀ c, tget s.ctxs (a 0) = some c → ∃ t, exec .lazyAdd s = .next t ∧ Replied s t m 0 0 ∧
    tget t.ctxs (a 0) = some { c with lazy := c.lazy ++ [{ va := a 1, frame := a 2, attr := BitVec.ofNat 64 (a 3) }] }) ∧
  (Executing s m 0x16 →
    (s.discard = none → a 0 % 2 ^ 21 ≠ 0 ∨ a 1 % 2 ^ 21 ≠ 0 → OnlyReplies .discard s m 1 0) ∧
    (s.discard = none → a 0 % 2 ^ 21 = 0 → a 1 % 2 ^ 21 = 0 → a 0 + a 1 ≤ 2 ^ 39 →
      let inside := fun y => a 0 / 128 ≤ y ∧ y < a 0 / 128 + a 1 / 128
      ∃ t d, exec .discard s = .next t ∧ t.steward = s.steward ∧ t.discard = some d ∧ (∀ row, d.later row = true → inside (rowFirst row)) ∧
        (∀ row, row ∈ t.sown ↔ row ∈ s.sown ∧ (inside (rowFirst row) → d.later row = true)) ∧
        ∀ o x, t.placeByte o x = if o = none ∧ inside (lineOf x) ∧ d.later (rowOf (lineOf x)) = false then 0 else s.placeByte o x) ∧
    ∀ d, s.discard = some d → ∃ t, exec .discard s = .next t ∧ Replied s t m 0 0 ∧ t.discard = none ∧ (∀ row, row ∈ t.sown ↔ row ∈ s.sown ∧ d.later row = false) ∧
      ∀ o x, t.placeByte o x = if o = none ∧ d.later (rowOf (lineOf x)) = true then 0 else s.placeByte o x) ∧
  (Executing s m 0x18 →
    (a 0 = 3 → ∃ t, exec .unfreeze s = .next t ∧ Replied s t m 0 0 ∧ t = { s with hostFrozen := false, steward := t.steward }) ∧
    (a 0 = 1 → ∀ x, tget s.queues (a 1) = some x → ∃ t, exec .unfreeze s = .next t ∧ Replied s t m 0 0 ∧ tget t.queues (a 1) = some { x with frozen := false }) ∧
    (a 0 = 2 → (∀ r ∈ s.fabric.held, r.src ≠ a 1) → ∃ t, exec .unfreeze s = .next t ∧ Replied s t m 0 0 ∧ a 1 ∉ t.fabric.frozen) ∧
    (a 0 = 0 → ∀ p, tget s.plots (a 1) = some p → ∃ t q, exec .unfreeze s = .next t ∧ Replied s t m 0 0 ∧ tget t.plots (a 1) = some q ∧ q.frozen = false)) ∧
  (Executing s m 0x19 → a 0 < 16 → ∃ t, exec .apertureSet s = .next t ∧ Replied s t m 0 0 ∧
    tget t.apertures (a 0) = (if a 2 = 0 then none else some { base := a 1, len := a 2 }) ∧ ∀ i, i ≠ a 0 → tget t.apertures i = tget s.apertures i) ∧
  (Executing s m 0x20 → ∀ c, tget s.ctxs (a 0) = some c → a 1 < 64 → ∃ t d, exec .peerWindowSet s = .next t ∧ Replied s t m 0 0 ∧ tget t.ctxs (a 0) = some d ∧
    tget d.peerWin (a 1) = if a 3 = 0 then none else some { base := a 2, len := a 3 }) ∧
  (Executing s m 0x21 → a 0 < 24 →
    (a 1 = 0 → (s.port (a 0)).rot = .idle → ∃ t, exec .linkKeyRotate s = .next t ∧ Replied s t m 0 0 ∧ (t.port (a 0)).rot = .delivered ∧ (t.port (a 0)).txNew.isSome = true) ∧
    (a 1 = 0 → (s.port (a 0)).rot ≠ .idle → OnlyReplies .linkKeyRotate s m 3 0) ∧
    (a 1 = 1 → (s.port (a 0)).rx0 = none → ∃ t, exec .linkKeyRotate s = .next t ∧ Replied s t m 0 0 ∧ (t.port (a 0)).rx0.isSome = true) ∧
    (a 1 = 1 → (s.port (a 0)).rx0.isSome = true → (s.port (a 0)).rx1.isSome = true → OnlyReplies .linkKeyRotate s m 3 0)) ∧
  (Executing s m 0x22 →
    (s.keySlots.contains .retiring = true → OnlyReplies .memoryKeyRotate s m 3 0) ∧
    ∀ n, s.keySlots.contains .retiring = false → s.keySlots.findIdx? (fun x => x == .empty) = some n →
      ∃ t, exec .memoryKeyRotate s = .next t ∧ Replied s t m 0 0 ∧ t.curv = n ∧ t.keySlots = (s.keySlots.set s.curv .retiring).set n .live ∧
        (n < s.keyPairs.length → (t.keyPairs.getD n none).isSome = true))

/-- 23 R423, R425 to R429, R433 to R438, 09 R202: power-on and a device reset leave memory and all work empty, EPOCH 0 or one more, and the device running or, where a boot stage fails, fallow with that stage and result; a thermal trip makes it fallow; a scrub of an unsown
row corrects nothing, one of a line of a retiring version encrypts it under CURV unless it finds it past correction (what it finds is free: log 6); power or temperature in excess lowers the clock by 100 MHz, and the clock stays where it is once the excess has passed (log 45);
a clean line's error is logged, a dirty line is poisoned (the codes of the log are log 17's). -/
def Obligations.BootAndErrors : Prop := ∀ (s : State),
  (∀ st : SelfTest, ∀ i e, (i = .powerOn st ∧ e = 0) ∨ (i = .deviceReset st ∧ e = s.mbox.epoch + 1) →
    ∃ t, exec i s = .next t ∧ t.mbox.epoch = e ∧ t.mem = [] ∧ t.sown = [] ∧ t.plots = [] ∧ t.tracts = [] ∧ t.queues = [] ∧ t.ctxs = [] ∧ t.cores = [] ∧
      t.cycle = 0 ∧ t.flash = s.flash ∧
      (st.pass = false → t.mbox.state = 2 ∧ t.steward.stage = 0 ∧ t.steward.result = st.result ∧ t.steward.unit = st.unit) ∧
      let f := firmwareVerdict s.flash
      let v := recordVerdict s.flash
      (st.pass = true → t.mbox.state = (if f = 0 ∧ v = 0 then 1 else 2) ∧ t.steward.stage = (if f ≠ 0 then 1 else if v ≠ 0 then 2 else 3) ∧
        t.steward.result = BitVec.ofNat 8 (if f ≠ 0 then f else v) ∧ t.locked = if f = 0 ∧ v = 0 then lockedOf s.flash.record else Locked.reset)) ∧
  (∃ t, exec .thermalTrip s = .next t ∧ t.mbox = { s.mbox with state := 2 } ∧ t.steward.stage = 4 ∧ t.steward.result = 9 ∧ ∀ p, (t.port p).up = false) ∧
  (∀ w c, s.locked.pcap < w ∨ 95 < c → 100 < s.steward.clockMHz → ∃ t, exec (.powerThrottle w c) s = .next t ∧ t = { s with steward := t.steward } ∧
    t.steward = { s.steward with clockMHz := s.steward.clockMHz - 100 }) ∧
  (∀ w c, w ≤ s.locked.pcap → c ≤ 95 → exec (.powerThrottle w c) s = .next s) ∧
  (∀ y, s.keySlots.contains .retiring = false → s.sown.contains (rowOf y) = false ∨ y ∈ s.poison → exec (.patrolScrub y) s = .next s) ∧
  (∀ y v, s.sown.contains (rowOf y) = true → y ∉ s.poison → tget s.lineKey y = some v → s.keySlots.getD v .empty = .retiring →
    ∃ t, exec (.patrolScrub y) s = .next t ∧ (y ∈ t.poison ∨ tget t.lineKey y = some s.curv) ∧ t.mem = s.mem) ∧
  (∀ y, ∃ t, exec (.uncorrectableError (.cleanLine y)) s = .next t ∧ MemorySame s t ∧ t.steward.log = s.steward.log ++ [(0x102, y * 128)] ∧ t.poison = s.poison) ∧
  (∀ y, ∃ t, exec (.uncorrectableError (.dirtyLine y)) s = .next t ∧ MemorySame s t ∧ t.steward.log = s.steward.log ++ [(0x101, y * 128)] ∧ y ∈ t.poison) ∧
  ∀ tag p tr, tget s.plots tag = some p → tget s.tracts p.tract = some tr →
    ∃ t q x, exec (.uncorrectableError (.plotState tag)) s = .next t ∧ tget t.plots tag = some q ∧ q.frozen = true ∧ tget t.tracts p.tract = some x ∧ x.frozen = true ∧ x.still = true
end

