-- ==== Sys2Proof/Laws/State.lean ====
section
/-! SUPPORT. What each update of the state leaves and writes: one lemma per field per update. -/

namespace Sys2Proof.Machine

/-! ### State.modPlot -/
@[simp] theorem State.modPlot_mem (s : State) (n : Nat) (f : Plot → Plot) : (s.modPlot n f).mem = s.mem := rfl
@[simp] theorem State.modPlot_sown (s : State) (n : Nat) (f : Plot → Plot) : (s.modPlot n f).sown = s.sown := rfl
@[simp] theorem State.modPlot_unsownReads (s : State) (n : Nat) (f : Plot → Plot) : (s.modPlot n f).unsownReads = s.unsownReads := rfl
@[simp] theorem State.modPlot_lineKey (s : State) (n : Nat) (f : Plot → Plot) : (s.modPlot n f).lineKey = s.lineKey := rfl
@[simp] theorem State.modPlot_poison (s : State) (n : Nat) (f : Plot → Plot) : (s.modPlot n f).poison = s.poison := rfl
@[simp] theorem State.modPlot_keySlots (s : State) (n : Nat) (f : Plot → Plot) : (s.modPlot n f).keySlots = s.keySlots := rfl
@[simp] theorem State.modPlot_keyPairs (s : State) (n : Nat) (f : Plot → Plot) : (s.modPlot n f).keyPairs = s.keyPairs := rfl
@[simp] theorem State.modPlot_curv (s : State) (n : Nat) (f : Plot → Plot) : (s.modPlot n f).curv = s.curv := rfl
@[simp] theorem State.modPlot_l2 (s : State) (n : Nat) (f : Plot → Plot) : (s.modPlot n f).l2 = s.l2 := rfl
@[simp] theorem State.modPlot_llc (s : State) (n : Nat) (f : Plot → Plot) : (s.modPlot n f).llc = s.llc := rfl
@[simp] theorem State.modPlot_lineDir (s : State) (n : Nat) (f : Plot → Plot) : (s.modPlot n f).lineDir = s.lineDir := rfl
@[simp] theorem State.modPlot_regionDir (s : State) (n : Nat) (f : Plot → Plot) : (s.modPlot n f).regionDir = s.regionDir := rfl
@[simp] theorem State.modPlot_reservations (s : State) (n : Nat) (f : Plot → Plot) : (s.modPlot n f).reservations = s.reservations := rfl
@[simp] theorem State.modPlot_relTags (s : State) (n : Nat) (f : Plot → Plot) : (s.modPlot n f).relTags = s.relTags := rfl
@[simp] theorem State.modPlot_watches (s : State) (n : Nat) (f : Plot → Plot) : (s.modPlot n f).watches = s.watches := rfl
@[simp] theorem State.modPlot_cycle (s : State) (n : Nat) (f : Plot → Plot) : (s.modPlot n f).cycle = s.cycle := rfl
@[simp] theorem State.modPlot_time (s : State) (n : Nat) (f : Plot → Plot) : (s.modPlot n f).time = s.time := rfl
@[simp] theorem State.modPlot_cores (s : State) (n : Nat) (f : Plot → Plot) : (s.modPlot n f).cores = s.cores := rfl
theorem State.modPlot_plots (s : State) (n : Nat) (f : Plot → Plot) : (s.modPlot n f).plots = tmod s.plots n f := rfl
@[simp] theorem State.modPlot_tracts (s : State) (n : Nat) (f : Plot → Plot) : (s.modPlot n f).tracts = s.tracts := rfl
@[simp] theorem State.modPlot_sowings (s : State) (n : Nat) (f : Plot → Plot) : (s.modPlot n f).sowings = s.sowings := rfl
@[simp] theorem State.modPlot_queues (s : State) (n : Nat) (f : Plot → Plot) : (s.modPlot n f).queues = s.queues := rfl
@[simp] theorem State.modPlot_ctxs (s : State) (n : Nat) (f : Plot → Plot) : (s.modPlot n f).ctxs = s.ctxs := rfl
@[simp] theorem State.modPlot_reqs (s : State) (n : Nat) (f : Plot → Plot) : (s.modPlot n f).reqs = s.reqs := rfl
@[simp] theorem State.modPlot_copies (s : State) (n : Nat) (f : Plot → Plot) : (s.modPlot n f).copies = s.copies := rfl
@[simp] theorem State.modPlot_qposts (s : State) (n : Nat) (f : Plot → Plot) : (s.modPlot n f).qposts = s.qposts := rfl
@[simp] theorem State.modPlot_arrivals (s : State) (n : Nat) (f : Plot → Plot) : (s.modPlot n f).arrivals = s.arrivals := rfl
@[simp] theorem State.modPlot_lands (s : State) (n : Nat) (f : Plot → Plot) : (s.modPlot n f).lands = s.lands := rfl
@[simp] theorem State.modPlot_fabric (s : State) (n : Nat) (f : Plot → Plot) : (s.modPlot n f).fabric = s.fabric := rfl
@[simp] theorem State.modPlot_hostFrozen (s : State) (n : Nat) (f : Plot → Plot) : (s.modPlot n f).hostFrozen = s.hostFrozen := rfl
@[simp] theorem State.modPlot_hostIrqs (s : State) (n : Nat) (f : Plot → Plot) : (s.modPlot n f).hostIrqs = s.hostIrqs := rfl
@[simp] theorem State.modPlot_hostReads (s : State) (n : Nat) (f : Plot → Plot) : (s.modPlot n f).hostReads = s.hostReads := rfl
@[simp] theorem State.modPlot_hostWrites (s : State) (n : Nat) (f : Plot → Plot) : (s.modPlot n f).hostWrites = s.hostWrites := rfl
@[simp] theorem State.modPlot_apertures (s : State) (n : Nat) (f : Plot → Plot) : (s.modPlot n f).apertures = s.apertures := rfl
@[simp] theorem State.modPlot_mbox (s : State) (n : Nat) (f : Plot → Plot) : (s.modPlot n f).mbox = s.mbox := rfl
@[simp] theorem State.modPlot_discard (s : State) (n : Nat) (f : Plot → Plot) : (s.modPlot n f).discard = s.discard := rfl
@[simp] theorem State.modPlot_steward (s : State) (n : Nat) (f : Plot → Plot) : (s.modPlot n f).steward = s.steward := rfl
@[simp] theorem State.modPlot_locked (s : State) (n : Nat) (f : Plot → Plot) : (s.modPlot n f).locked = s.locked := rfl
@[simp] theorem State.modPlot_flash (s : State) (n : Nat) (f : Plot → Plot) : (s.modPlot n f).flash = s.flash := rfl
@[simp] theorem State.modPlot_debug (s : State) (n : Nat) (f : Plot → Plot) : (s.modPlot n f).debug = s.debug := rfl
@[simp] theorem State.modPlot_tagNext (s : State) (n : Nat) (f : Plot → Plot) : (s.modPlot n f).tagNext = s.tagNext := rfl
@[simp] theorem State.modPlot_roomFor (s : State) (n : Nat) (f : Plot → Plot) : (s.modPlot n f).roomFor = s.roomFor := rfl
@[simp] theorem State.modPlot_tokUpds (s : State) (n : Nat) (f : Plot → Plot) : (s.modPlot n f).tokUpds = s.tokUpds := rfl
@[simp] theorem State.modPlot_cur (s : State) (n : Nat) (f : Plot → Plot) : (s.modPlot n f).cur = s.cur := rfl
@[simp] theorem State.modPlot_issueQ (s : State) (n : Nat) (f : Plot → Plot) : (s.modPlot n f).issueQ = s.issueQ := rfl
@[simp] theorem State.modPlot_agenda (s : State) (n : Nat) (f : Plot → Plot) : (s.modPlot n f).agenda = s.agenda := rfl
@[simp] theorem State.modPlot_freeCtr (s : State) (n : Nat) (f : Plot → Plot) : (s.modPlot n f).freeCtr = s.freeCtr := rfl
@[simp] theorem State.modPlot_nextId (s : State) (n : Nat) (f : Plot → Plot) : (s.modPlot n f).nextId = s.nextId := rfl

/-! ### State.modThread -/
@[simp] theorem State.modThread_mem (s : State) (r : Ref) (f : Thread → Thread) : (s.modThread r f).mem = s.mem := rfl
@[simp] theorem State.modThread_sown (s : State) (r : Ref) (f : Thread → Thread) : (s.modThread r f).sown = s.sown := rfl
@[simp] theorem State.modThread_unsownReads (s : State) (r : Ref) (f : Thread → Thread) : (s.modThread r f).unsownReads = s.unsownReads := rfl
@[simp] theorem State.modThread_lineKey (s : State) (r : Ref) (f : Thread → Thread) : (s.modThread r f).lineKey = s.lineKey := rfl
@[simp] theorem State.modThread_poison (s : State) (r : Ref) (f : Thread → Thread) : (s.modThread r f).poison = s.poison := rfl
@[simp] theorem State.modThread_keySlots (s : State) (r : Ref) (f : Thread → Thread) : (s.modThread r f).keySlots = s.keySlots := rfl
@[simp] theorem State.modThread_keyPairs (s : State) (r : Ref) (f : Thread → Thread) : (s.modThread r f).keyPairs = s.keyPairs := rfl
@[simp] theorem State.modThread_curv (s : State) (r : Ref) (f : Thread → Thread) : (s.modThread r f).curv = s.curv := rfl
@[simp] theorem State.modThread_l2 (s : State) (r : Ref) (f : Thread → Thread) : (s.modThread r f).l2 = s.l2 := rfl
@[simp] theorem State.modThread_llc (s : State) (r : Ref) (f : Thread → Thread) : (s.modThread r f).llc = s.llc := rfl
@[simp] theorem State.modThread_lineDir (s : State) (r : Ref) (f : Thread → Thread) : (s.modThread r f).lineDir = s.lineDir := rfl
@[simp] theorem State.modThread_regionDir (s : State) (r : Ref) (f : Thread → Thread) : (s.modThread r f).regionDir = s.regionDir := rfl
@[simp] theorem State.modThread_reservations (s : State) (r : Ref) (f : Thread → Thread) : (s.modThread r f).reservations = s.reservations := rfl
@[simp] theorem State.modThread_relTags (s : State) (r : Ref) (f : Thread → Thread) : (s.modThread r f).relTags = s.relTags := rfl
@[simp] theorem State.modThread_watches (s : State) (r : Ref) (f : Thread → Thread) : (s.modThread r f).watches = s.watches := rfl
@[simp] theorem State.modThread_cycle (s : State) (r : Ref) (f : Thread → Thread) : (s.modThread r f).cycle = s.cycle := rfl
@[simp] theorem State.modThread_time (s : State) (r : Ref) (f : Thread → Thread) : (s.modThread r f).time = s.time := rfl
@[simp] theorem State.modThread_cores (s : State) (r : Ref) (f : Thread → Thread) : (s.modThread r f).cores = s.cores := rfl
theorem State.modThread_plots (s : State) (r : Ref) (f : Thread → Thread) : (s.modThread r f).plots = tmod s.plots r.tag fun p => p.modThread r.tid f := rfl
@[simp] theorem State.modThread_tracts (s : State) (r : Ref) (f : Thread → Thread) : (s.modThread r f).tracts = s.tracts := rfl
@[simp] theorem State.modThread_sowings (s : State) (r : Ref) (f : Thread → Thread) : (s.modThread r f).sowings = s.sowings := rfl
@[simp] theorem State.modThread_queues (s : State) (r : Ref) (f : Thread → Thread) : (s.modThread r f).queues = s.queues := rfl
@[simp] theorem State.modThread_ctxs (s : State) (r : Ref) (f : Thread → Thread) : (s.modThread r f).ctxs = s.ctxs := rfl
@[simp] theorem State.modThread_reqs (s : State) (r : Ref) (f : Thread → Thread) : (s.modThread r f).reqs = s.reqs := rfl
@[simp] theorem State.modThread_copies (s : State) (r : Ref) (f : Thread → Thread) : (s.modThread r f).copies = s.copies := rfl
@[simp] theorem State.modThread_qposts (s : State) (r : Ref) (f : Thread → Thread) : (s.modThread r f).qposts = s.qposts := rfl
@[simp] theorem State.modThread_arrivals (s : State) (r : Ref) (f : Thread → Thread) : (s.modThread r f).arrivals = s.arrivals := rfl
@[simp] theorem State.modThread_lands (s : State) (r : Ref) (f : Thread → Thread) : (s.modThread r f).lands = s.lands := rfl
@[simp] theorem State.modThread_fabric (s : State) (r : Ref) (f : Thread → Thread) : (s.modThread r f).fabric = s.fabric := rfl
@[simp] theorem State.modThread_hostFrozen (s : State) (r : Ref) (f : Thread → Thread) : (s.modThread r f).hostFrozen = s.hostFrozen := rfl
@[simp] theorem State.modThread_hostIrqs (s : State) (r : Ref) (f : Thread → Thread) : (s.modThread r f).hostIrqs = s.hostIrqs := rfl
@[simp] theorem State.modThread_hostReads (s : State) (r : Ref) (f : Thread → Thread) : (s.modThread r f).hostReads = s.hostReads := rfl
@[simp] theorem State.modThread_hostWrites (s : State) (r : Ref) (f : Thread → Thread) : (s.modThread r f).hostWrites = s.hostWrites := rfl
@[simp] theorem State.modThread_apertures (s : State) (r : Ref) (f : Thread → Thread) : (s.modThread r f).apertures = s.apertures := rfl
@[simp] theorem State.modThread_mbox (s : State) (r : Ref) (f : Thread → Thread) : (s.modThread r f).mbox = s.mbox := rfl
@[simp] theorem State.modThread_discard (s : State) (r : Ref) (f : Thread → Thread) : (s.modThread r f).discard = s.discard := rfl
@[simp] theorem State.modThread_steward (s : State) (r : Ref) (f : Thread → Thread) : (s.modThread r f).steward = s.steward := rfl
@[simp] theorem State.modThread_locked (s : State) (r : Ref) (f : Thread → Thread) : (s.modThread r f).locked = s.locked := rfl
@[simp] theorem State.modThread_flash (s : State) (r : Ref) (f : Thread → Thread) : (s.modThread r f).flash = s.flash := rfl
@[simp] theorem State.modThread_debug (s : State) (r : Ref) (f : Thread → Thread) : (s.modThread r f).debug = s.debug := rfl
@[simp] theorem State.modThread_tagNext (s : State) (r : Ref) (f : Thread → Thread) : (s.modThread r f).tagNext = s.tagNext := rfl
@[simp] theorem State.modThread_roomFor (s : State) (r : Ref) (f : Thread → Thread) : (s.modThread r f).roomFor = s.roomFor := rfl
@[simp] theorem State.modThread_tokUpds (s : State) (r : Ref) (f : Thread → Thread) : (s.modThread r f).tokUpds = s.tokUpds := rfl
@[simp] theorem State.modThread_cur (s : State) (r : Ref) (f : Thread → Thread) : (s.modThread r f).cur = s.cur := rfl
@[simp] theorem State.modThread_issueQ (s : State) (r : Ref) (f : Thread → Thread) : (s.modThread r f).issueQ = s.issueQ := rfl
@[simp] theorem State.modThread_agenda (s : State) (r : Ref) (f : Thread → Thread) : (s.modThread r f).agenda = s.agenda := rfl
@[simp] theorem State.modThread_freeCtr (s : State) (r : Ref) (f : Thread → Thread) : (s.modThread r f).freeCtr = s.freeCtr := rfl
@[simp] theorem State.modThread_nextId (s : State) (r : Ref) (f : Thread → Thread) : (s.modThread r f).nextId = s.nextId := rfl

/-! ### State.setThread -/
@[simp] theorem State.setThread_mem (s : State) (r : Ref) (u : Thread) : (s.setThread r u).mem = s.mem := rfl
@[simp] theorem State.setThread_sown (s : State) (r : Ref) (u : Thread) : (s.setThread r u).sown = s.sown := rfl
@[simp] theorem State.setThread_unsownReads (s : State) (r : Ref) (u : Thread) : (s.setThread r u).unsownReads = s.unsownReads := rfl
@[simp] theorem State.setThread_lineKey (s : State) (r : Ref) (u : Thread) : (s.setThread r u).lineKey = s.lineKey := rfl
@[simp] theorem State.setThread_poison (s : State) (r : Ref) (u : Thread) : (s.setThread r u).poison = s.poison := rfl
@[simp] theorem State.setThread_keySlots (s : State) (r : Ref) (u : Thread) : (s.setThread r u).keySlots = s.keySlots := rfl
@[simp] theorem State.setThread_keyPairs (s : State) (r : Ref) (u : Thread) : (s.setThread r u).keyPairs = s.keyPairs := rfl
@[simp] theorem State.setThread_curv (s : State) (r : Ref) (u : Thread) : (s.setThread r u).curv = s.curv := rfl
@[simp] theorem State.setThread_l2 (s : State) (r : Ref) (u : Thread) : (s.setThread r u).l2 = s.l2 := rfl
@[simp] theorem State.setThread_llc (s : State) (r : Ref) (u : Thread) : (s.setThread r u).llc = s.llc := rfl
@[simp] theorem State.setThread_lineDir (s : State) (r : Ref) (u : Thread) : (s.setThread r u).lineDir = s.lineDir := rfl
@[simp] theorem State.setThread_regionDir (s : State) (r : Ref) (u : Thread) : (s.setThread r u).regionDir = s.regionDir := rfl
@[simp] theorem State.setThread_reservations (s : State) (r : Ref) (u : Thread) : (s.setThread r u).reservations = s.reservations := rfl
@[simp] theorem State.setThread_relTags (s : State) (r : Ref) (u : Thread) : (s.setThread r u).relTags = s.relTags := rfl
@[simp] theorem State.setThread_watches (s : State) (r : Ref) (u : Thread) : (s.setThread r u).watches = s.watches := rfl
@[simp] theorem State.setThread_cycle (s : State) (r : Ref) (u : Thread) : (s.setThread r u).cycle = s.cycle := rfl
@[simp] theorem State.setThread_time (s : State) (r : Ref) (u : Thread) : (s.setThread r u).time = s.time := rfl
@[simp] theorem State.setThread_cores (s : State) (r : Ref) (u : Thread) : (s.setThread r u).cores = s.cores := rfl
@[simp] theorem State.setThread_tracts (s : State) (r : Ref) (u : Thread) : (s.setThread r u).tracts = s.tracts := rfl
@[simp] theorem State.setThread_sowings (s : State) (r : Ref) (u : Thread) : (s.setThread r u).sowings = s.sowings := rfl
@[simp] theorem State.setThread_queues (s : State) (r : Ref) (u : Thread) : (s.setThread r u).queues = s.queues := rfl
@[simp] theorem State.setThread_ctxs (s : State) (r : Ref) (u : Thread) : (s.setThread r u).ctxs = s.ctxs := rfl
@[simp] theorem State.setThread_reqs (s : State) (r : Ref) (u : Thread) : (s.setThread r u).reqs = s.reqs := rfl
@[simp] theorem State.setThread_copies (s : State) (r : Ref) (u : Thread) : (s.setThread r u).copies = s.copies := rfl
@[simp] theorem State.setThread_qposts (s : State) (r : Ref) (u : Thread) : (s.setThread r u).qposts = s.qposts := rfl
@[simp] theorem State.setThread_arrivals (s : State) (r : Ref) (u : Thread) : (s.setThread r u).arrivals = s.arrivals := rfl
@[simp] theorem State.setThread_lands (s : State) (r : Ref) (u : Thread) : (s.setThread r u).lands = s.lands := rfl
@[simp] theorem State.setThread_fabric (s : State) (r : Ref) (u : Thread) : (s.setThread r u).fabric = s.fabric := rfl
@[simp] theorem State.setThread_hostFrozen (s : State) (r : Ref) (u : Thread) : (s.setThread r u).hostFrozen = s.hostFrozen := rfl
@[simp] theorem State.setThread_hostIrqs (s : State) (r : Ref) (u : Thread) : (s.setThread r u).hostIrqs = s.hostIrqs := rfl
@[simp] theorem State.setThread_hostReads (s : State) (r : Ref) (u : Thread) : (s.setThread r u).hostReads = s.hostReads := rfl
@[simp] theorem State.setThread_hostWrites (s : State) (r : Ref) (u : Thread) : (s.setThread r u).hostWrites = s.hostWrites := rfl
@[simp] theorem State.setThread_apertures (s : State) (r : Ref) (u : Thread) : (s.setThread r u).apertures = s.apertures := rfl
@[simp] theorem State.setThread_mbox (s : State) (r : Ref) (u : Thread) : (s.setThread r u).mbox = s.mbox := rfl
@[simp] theorem State.setThread_discard (s : State) (r : Ref) (u : Thread) : (s.setThread r u).discard = s.discard := rfl
@[simp] theorem State.setThread_steward (s : State) (r : Ref) (u : Thread) : (s.setThread r u).steward = s.steward := rfl
@[simp] theorem State.setThread_locked (s : State) (r : Ref) (u : Thread) : (s.setThread r u).locked = s.locked := rfl
@[simp] theorem State.setThread_flash (s : State) (r : Ref) (u : Thread) : (s.setThread r u).flash = s.flash := rfl
@[simp] theorem State.setThread_debug (s : State) (r : Ref) (u : Thread) : (s.setThread r u).debug = s.debug := rfl
@[simp] theorem State.setThread_tagNext (s : State) (r : Ref) (u : Thread) : (s.setThread r u).tagNext = s.tagNext := rfl
@[simp] theorem State.setThread_roomFor (s : State) (r : Ref) (u : Thread) : (s.setThread r u).roomFor = s.roomFor := rfl
@[simp] theorem State.setThread_tokUpds (s : State) (r : Ref) (u : Thread) : (s.setThread r u).tokUpds = s.tokUpds := rfl
@[simp] theorem State.setThread_cur (s : State) (r : Ref) (u : Thread) : (s.setThread r u).cur = s.cur := rfl
@[simp] theorem State.setThread_issueQ (s : State) (r : Ref) (u : Thread) : (s.setThread r u).issueQ = s.issueQ := rfl
@[simp] theorem State.setThread_agenda (s : State) (r : Ref) (u : Thread) : (s.setThread r u).agenda = s.agenda := rfl
@[simp] theorem State.setThread_freeCtr (s : State) (r : Ref) (u : Thread) : (s.setThread r u).freeCtr = s.freeCtr := rfl
@[simp] theorem State.setThread_nextId (s : State) (r : Ref) (u : Thread) : (s.setThread r u).nextId = s.nextId := rfl

/-! ### State.setPc -/
@[simp] theorem State.setPc_mem (s : State) (r : Ref) (v : DWord) : (s.setPc r v).mem = s.mem := rfl
@[simp] theorem State.setPc_sown (s : State) (r : Ref) (v : DWord) : (s.setPc r v).sown = s.sown := rfl
@[simp] theorem State.setPc_unsownReads (s : State) (r : Ref) (v : DWord) : (s.setPc r v).unsownReads = s.unsownReads := rfl
@[simp] theorem State.setPc_lineKey (s : State) (r : Ref) (v : DWord) : (s.setPc r v).lineKey = s.lineKey := rfl
@[simp] theorem State.setPc_poison (s : State) (r : Ref) (v : DWord) : (s.setPc r v).poison = s.poison := rfl
@[simp] theorem State.setPc_keySlots (s : State) (r : Ref) (v : DWord) : (s.setPc r v).keySlots = s.keySlots := rfl
@[simp] theorem State.setPc_keyPairs (s : State) (r : Ref) (v : DWord) : (s.setPc r v).keyPairs = s.keyPairs := rfl
@[simp] theorem State.setPc_curv (s : State) (r : Ref) (v : DWord) : (s.setPc r v).curv = s.curv := rfl
@[simp] theorem State.setPc_l2 (s : State) (r : Ref) (v : DWord) : (s.setPc r v).l2 = s.l2 := rfl
@[simp] theorem State.setPc_llc (s : State) (r : Ref) (v : DWord) : (s.setPc r v).llc = s.llc := rfl
@[simp] theorem State.setPc_lineDir (s : State) (r : Ref) (v : DWord) : (s.setPc r v).lineDir = s.lineDir := rfl
@[simp] theorem State.setPc_regionDir (s : State) (r : Ref) (v : DWord) : (s.setPc r v).regionDir = s.regionDir := rfl
@[simp] theorem State.setPc_reservations (s : State) (r : Ref) (v : DWord) : (s.setPc r v).reservations = s.reservations := rfl
@[simp] theorem State.setPc_relTags (s : State) (r : Ref) (v : DWord) : (s.setPc r v).relTags = s.relTags := rfl
@[simp] theorem State.setPc_watches (s : State) (r : Ref) (v : DWord) : (s.setPc r v).watches = s.watches := rfl
@[simp] theorem State.setPc_cycle (s : State) (r : Ref) (v : DWord) : (s.setPc r v).cycle = s.cycle := rfl
@[simp] theorem State.setPc_time (s : State) (r : Ref) (v : DWord) : (s.setPc r v).time = s.time := rfl
@[simp] theorem State.setPc_cores (s : State) (r : Ref) (v : DWord) : (s.setPc r v).cores = s.cores := rfl
@[simp] theorem State.setPc_tracts (s : State) (r : Ref) (v : DWord) : (s.setPc r v).tracts = s.tracts := rfl
@[simp] theorem State.setPc_sowings (s : State) (r : Ref) (v : DWord) : (s.setPc r v).sowings = s.sowings := rfl
@[simp] theorem State.setPc_queues (s : State) (r : Ref) (v : DWord) : (s.setPc r v).queues = s.queues := rfl
@[simp] theorem State.setPc_ctxs (s : State) (r : Ref) (v : DWord) : (s.setPc r v).ctxs = s.ctxs := rfl
@[simp] theorem State.setPc_reqs (s : State) (r : Ref) (v : DWord) : (s.setPc r v).reqs = s.reqs := rfl
@[simp] theorem State.setPc_copies (s : State) (r : Ref) (v : DWord) : (s.setPc r v).copies = s.copies := rfl
@[simp] theorem State.setPc_qposts (s : State) (r : Ref) (v : DWord) : (s.setPc r v).qposts = s.qposts := rfl
@[simp] theorem State.setPc_arrivals (s : State) (r : Ref) (v : DWord) : (s.setPc r v).arrivals = s.arrivals := rfl
@[simp] theorem State.setPc_lands (s : State) (r : Ref) (v : DWord) : (s.setPc r v).lands = s.lands := rfl
@[simp] theorem State.setPc_fabric (s : State) (r : Ref) (v : DWord) : (s.setPc r v).fabric = s.fabric := rfl
@[simp] theorem State.setPc_hostFrozen (s : State) (r : Ref) (v : DWord) : (s.setPc r v).hostFrozen = s.hostFrozen := rfl
@[simp] theorem State.setPc_hostIrqs (s : State) (r : Ref) (v : DWord) : (s.setPc r v).hostIrqs = s.hostIrqs := rfl
@[simp] theorem State.setPc_hostReads (s : State) (r : Ref) (v : DWord) : (s.setPc r v).hostReads = s.hostReads := rfl
@[simp] theorem State.setPc_hostWrites (s : State) (r : Ref) (v : DWord) : (s.setPc r v).hostWrites = s.hostWrites := rfl
@[simp] theorem State.setPc_apertures (s : State) (r : Ref) (v : DWord) : (s.setPc r v).apertures = s.apertures := rfl
@[simp] theorem State.setPc_mbox (s : State) (r : Ref) (v : DWord) : (s.setPc r v).mbox = s.mbox := rfl
@[simp] theorem State.setPc_discard (s : State) (r : Ref) (v : DWord) : (s.setPc r v).discard = s.discard := rfl
@[simp] theorem State.setPc_steward (s : State) (r : Ref) (v : DWord) : (s.setPc r v).steward = s.steward := rfl
@[simp] theorem State.setPc_locked (s : State) (r : Ref) (v : DWord) : (s.setPc r v).locked = s.locked := rfl
@[simp] theorem State.setPc_flash (s : State) (r : Ref) (v : DWord) : (s.setPc r v).flash = s.flash := rfl
@[simp] theorem State.setPc_debug (s : State) (r : Ref) (v : DWord) : (s.setPc r v).debug = s.debug := rfl
@[simp] theorem State.setPc_tagNext (s : State) (r : Ref) (v : DWord) : (s.setPc r v).tagNext = s.tagNext := rfl
@[simp] theorem State.setPc_roomFor (s : State) (r : Ref) (v : DWord) : (s.setPc r v).roomFor = s.roomFor := rfl
@[simp] theorem State.setPc_tokUpds (s : State) (r : Ref) (v : DWord) : (s.setPc r v).tokUpds = s.tokUpds := rfl
@[simp] theorem State.setPc_cur (s : State) (r : Ref) (v : DWord) : (s.setPc r v).cur = s.cur := rfl
@[simp] theorem State.setPc_issueQ (s : State) (r : Ref) (v : DWord) : (s.setPc r v).issueQ = s.issueQ := rfl
@[simp] theorem State.setPc_agenda (s : State) (r : Ref) (v : DWord) : (s.setPc r v).agenda = s.agenda := rfl
@[simp] theorem State.setPc_freeCtr (s : State) (r : Ref) (v : DWord) : (s.setPc r v).freeCtr = s.freeCtr := rfl
@[simp] theorem State.setPc_nextId (s : State) (r : Ref) (v : DWord) : (s.setPc r v).nextId = s.nextId := rfl

/-! ### State.setCore -/
@[simp] theorem State.setCore_mem (s : State) (n : Nat) (k : Core) : (s.setCore n k).mem = s.mem := rfl
@[simp] theorem State.setCore_sown (s : State) (n : Nat) (k : Core) : (s.setCore n k).sown = s.sown := rfl
@[simp] theorem State.setCore_unsownReads (s : State) (n : Nat) (k : Core) : (s.setCore n k).unsownReads = s.unsownReads := rfl
@[simp] theorem State.setCore_lineKey (s : State) (n : Nat) (k : Core) : (s.setCore n k).lineKey = s.lineKey := rfl
@[simp] theorem State.setCore_poison (s : State) (n : Nat) (k : Core) : (s.setCore n k).poison = s.poison := rfl
@[simp] theorem State.setCore_keySlots (s : State) (n : Nat) (k : Core) : (s.setCore n k).keySlots = s.keySlots := rfl
@[simp] theorem State.setCore_keyPairs (s : State) (n : Nat) (k : Core) : (s.setCore n k).keyPairs = s.keyPairs := rfl
@[simp] theorem State.setCore_curv (s : State) (n : Nat) (k : Core) : (s.setCore n k).curv = s.curv := rfl
@[simp] theorem State.setCore_l2 (s : State) (n : Nat) (k : Core) : (s.setCore n k).l2 = s.l2 := rfl
@[simp] theorem State.setCore_llc (s : State) (n : Nat) (k : Core) : (s.setCore n k).llc = s.llc := rfl
@[simp] theorem State.setCore_lineDir (s : State) (n : Nat) (k : Core) : (s.setCore n k).lineDir = s.lineDir := rfl
@[simp] theorem State.setCore_regionDir (s : State) (n : Nat) (k : Core) : (s.setCore n k).regionDir = s.regionDir := rfl
@[simp] theorem State.setCore_reservations (s : State) (n : Nat) (k : Core) : (s.setCore n k).reservations = s.reservations := rfl
@[simp] theorem State.setCore_relTags (s : State) (n : Nat) (k : Core) : (s.setCore n k).relTags = s.relTags := rfl
@[simp] theorem State.setCore_watches (s : State) (n : Nat) (k : Core) : (s.setCore n k).watches = s.watches := rfl
@[simp] theorem State.setCore_cycle (s : State) (n : Nat) (k : Core) : (s.setCore n k).cycle = s.cycle := rfl
@[simp] theorem State.setCore_time (s : State) (n : Nat) (k : Core) : (s.setCore n k).time = s.time := rfl
theorem State.setCore_cores (s : State) (n : Nat) (k : Core) : (s.setCore n k).cores = tput s.cores n k := rfl
@[simp] theorem State.setCore_plots (s : State) (n : Nat) (k : Core) : (s.setCore n k).plots = s.plots := rfl
@[simp] theorem State.setCore_tracts (s : State) (n : Nat) (k : Core) : (s.setCore n k).tracts = s.tracts := rfl
@[simp] theorem State.setCore_sowings (s : State) (n : Nat) (k : Core) : (s.setCore n k).sowings = s.sowings := rfl
@[simp] theorem State.setCore_queues (s : State) (n : Nat) (k : Core) : (s.setCore n k).queues = s.queues := rfl
@[simp] theorem State.setCore_ctxs (s : State) (n : Nat) (k : Core) : (s.setCore n k).ctxs = s.ctxs := rfl
@[simp] theorem State.setCore_reqs (s : State) (n : Nat) (k : Core) : (s.setCore n k).reqs = s.reqs := rfl
@[simp] theorem State.setCore_copies (s : State) (n : Nat) (k : Core) : (s.setCore n k).copies = s.copies := rfl
@[simp] theorem State.setCore_qposts (s : State) (n : Nat) (k : Core) : (s.setCore n k).qposts = s.qposts := rfl
@[simp] theorem State.setCore_arrivals (s : State) (n : Nat) (k : Core) : (s.setCore n k).arrivals = s.arrivals := rfl
@[simp] theorem State.setCore_lands (s : State) (n : Nat) (k : Core) : (s.setCore n k).lands = s.lands := rfl
@[simp] theorem State.setCore_fabric (s : State) (n : Nat) (k : Core) : (s.setCore n k).fabric = s.fabric := rfl
@[simp] theorem State.setCore_hostFrozen (s : State) (n : Nat) (k : Core) : (s.setCore n k).hostFrozen = s.hostFrozen := rfl
@[simp] theorem State.setCore_hostIrqs (s : State) (n : Nat) (k : Core) : (s.setCore n k).hostIrqs = s.hostIrqs := rfl
@[simp] theorem State.setCore_hostReads (s : State) (n : Nat) (k : Core) : (s.setCore n k).hostReads = s.hostReads := rfl
@[simp] theorem State.setCore_hostWrites (s : State) (n : Nat) (k : Core) : (s.setCore n k).hostWrites = s.hostWrites := rfl
@[simp] theorem State.setCore_apertures (s : State) (n : Nat) (k : Core) : (s.setCore n k).apertures = s.apertures := rfl
@[simp] theorem State.setCore_mbox (s : State) (n : Nat) (k : Core) : (s.setCore n k).mbox = s.mbox := rfl
@[simp] theorem State.setCore_discard (s : State) (n : Nat) (k : Core) : (s.setCore n k).discard = s.discard := rfl
@[simp] theorem State.setCore_steward (s : State) (n : Nat) (k : Core) : (s.setCore n k).steward = s.steward := rfl
@[simp] theorem State.setCore_locked (s : State) (n : Nat) (k : Core) : (s.setCore n k).locked = s.locked := rfl
@[simp] theorem State.setCore_flash (s : State) (n : Nat) (k : Core) : (s.setCore n k).flash = s.flash := rfl
@[simp] theorem State.setCore_debug (s : State) (n : Nat) (k : Core) : (s.setCore n k).debug = s.debug := rfl
@[simp] theorem State.setCore_tagNext (s : State) (n : Nat) (k : Core) : (s.setCore n k).tagNext = s.tagNext := rfl
@[simp] theorem State.setCore_roomFor (s : State) (n : Nat) (k : Core) : (s.setCore n k).roomFor = s.roomFor := rfl
@[simp] theorem State.setCore_tokUpds (s : State) (n : Nat) (k : Core) : (s.setCore n k).tokUpds = s.tokUpds := rfl
@[simp] theorem State.setCore_cur (s : State) (n : Nat) (k : Core) : (s.setCore n k).cur = s.cur := rfl
@[simp] theorem State.setCore_issueQ (s : State) (n : Nat) (k : Core) : (s.setCore n k).issueQ = s.issueQ := rfl
@[simp] theorem State.setCore_agenda (s : State) (n : Nat) (k : Core) : (s.setCore n k).agenda = s.agenda := rfl
@[simp] theorem State.setCore_freeCtr (s : State) (n : Nat) (k : Core) : (s.setCore n k).freeCtr = s.freeCtr := rfl
@[simp] theorem State.setCore_nextId (s : State) (n : Nat) (k : Core) : (s.setCore n k).nextId = s.nextId := rfl

/-! ### State.modCore -/
@[simp] theorem State.modCore_mem (s : State) (n : Nat) (f : Core → Core) : (s.modCore n f).mem = s.mem := rfl
@[simp] theorem State.modCore_sown (s : State) (n : Nat) (f : Core → Core) : (s.modCore n f).sown = s.sown := rfl
@[simp] theorem State.modCore_unsownReads (s : State) (n : Nat) (f : Core → Core) : (s.modCore n f).unsownReads = s.unsownReads := rfl
@[simp] theorem State.modCore_lineKey (s : State) (n : Nat) (f : Core → Core) : (s.modCore n f).lineKey = s.lineKey := rfl
@[simp] theorem State.modCore_poison (s : State) (n : Nat) (f : Core → Core) : (s.modCore n f).poison = s.poison := rfl
@[simp] theorem State.modCore_keySlots (s : State) (n : Nat) (f : Core → Core) : (s.modCore n f).keySlots = s.keySlots := rfl
@[simp] theorem State.modCore_keyPairs (s : State) (n : Nat) (f : Core → Core) : (s.modCore n f).keyPairs = s.keyPairs := rfl
@[simp] theorem State.modCore_curv (s : State) (n : Nat) (f : Core → Core) : (s.modCore n f).curv = s.curv := rfl
@[simp] theorem State.modCore_l2 (s : State) (n : Nat) (f : Core → Core) : (s.modCore n f).l2 = s.l2 := rfl
@[simp] theorem State.modCore_llc (s : State) (n : Nat) (f : Core → Core) : (s.modCore n f).llc = s.llc := rfl
@[simp] theorem State.modCore_lineDir (s : State) (n : Nat) (f : Core → Core) : (s.modCore n f).lineDir = s.lineDir := rfl
@[simp] theorem State.modCore_regionDir (s : State) (n : Nat) (f : Core → Core) : (s.modCore n f).regionDir = s.regionDir := rfl
@[simp] theorem State.modCore_reservations (s : State) (n : Nat) (f : Core → Core) : (s.modCore n f).reservations = s.reservations := rfl
@[simp] theorem State.modCore_relTags (s : State) (n : Nat) (f : Core → Core) : (s.modCore n f).relTags = s.relTags := rfl
@[simp] theorem State.modCore_watches (s : State) (n : Nat) (f : Core → Core) : (s.modCore n f).watches = s.watches := rfl
@[simp] theorem State.modCore_cycle (s : State) (n : Nat) (f : Core → Core) : (s.modCore n f).cycle = s.cycle := rfl
@[simp] theorem State.modCore_time (s : State) (n : Nat) (f : Core → Core) : (s.modCore n f).time = s.time := rfl
theorem State.modCore_cores (s : State) (n : Nat) (f : Core → Core) : (s.modCore n f).cores = tput s.cores n (f (s.core n)) := rfl
@[simp] theorem State.modCore_plots (s : State) (n : Nat) (f : Core → Core) : (s.modCore n f).plots = s.plots := rfl
@[simp] theorem State.modCore_tracts (s : State) (n : Nat) (f : Core → Core) : (s.modCore n f).tracts = s.tracts := rfl
@[simp] theorem State.modCore_sowings (s : State) (n : Nat) (f : Core → Core) : (s.modCore n f).sowings = s.sowings := rfl
@[simp] theorem State.modCore_queues (s : State) (n : Nat) (f : Core → Core) : (s.modCore n f).queues = s.queues := rfl
@[simp] theorem State.modCore_ctxs (s : State) (n : Nat) (f : Core → Core) : (s.modCore n f).ctxs = s.ctxs := rfl
@[simp] theorem State.modCore_reqs (s : State) (n : Nat) (f : Core → Core) : (s.modCore n f).reqs = s.reqs := rfl
@[simp] theorem State.modCore_copies (s : State) (n : Nat) (f : Core → Core) : (s.modCore n f).copies = s.copies := rfl
@[simp] theorem State.modCore_qposts (s : State) (n : Nat) (f : Core → Core) : (s.modCore n f).qposts = s.qposts := rfl
@[simp] theorem State.modCore_arrivals (s : State) (n : Nat) (f : Core → Core) : (s.modCore n f).arrivals = s.arrivals := rfl
@[simp] theorem State.modCore_lands (s : State) (n : Nat) (f : Core → Core) : (s.modCore n f).lands = s.lands := rfl
@[simp] theorem State.modCore_fabric (s : State) (n : Nat) (f : Core → Core) : (s.modCore n f).fabric = s.fabric := rfl
@[simp] theorem State.modCore_hostFrozen (s : State) (n : Nat) (f : Core → Core) : (s.modCore n f).hostFrozen = s.hostFrozen := rfl
@[simp] theorem State.modCore_hostIrqs (s : State) (n : Nat) (f : Core → Core) : (s.modCore n f).hostIrqs = s.hostIrqs := rfl
@[simp] theorem State.modCore_hostReads (s : State) (n : Nat) (f : Core → Core) : (s.modCore n f).hostReads = s.hostReads := rfl
@[simp] theorem State.modCore_hostWrites (s : State) (n : Nat) (f : Core → Core) : (s.modCore n f).hostWrites = s.hostWrites := rfl
@[simp] theorem State.modCore_apertures (s : State) (n : Nat) (f : Core → Core) : (s.modCore n f).apertures = s.apertures := rfl
@[simp] theorem State.modCore_mbox (s : State) (n : Nat) (f : Core → Core) : (s.modCore n f).mbox = s.mbox := rfl
@[simp] theorem State.modCore_discard (s : State) (n : Nat) (f : Core → Core) : (s.modCore n f).discard = s.discard := rfl
@[simp] theorem State.modCore_steward (s : State) (n : Nat) (f : Core → Core) : (s.modCore n f).steward = s.steward := rfl
@[simp] theorem State.modCore_locked (s : State) (n : Nat) (f : Core → Core) : (s.modCore n f).locked = s.locked := rfl
@[simp] theorem State.modCore_flash (s : State) (n : Nat) (f : Core → Core) : (s.modCore n f).flash = s.flash := rfl
@[simp] theorem State.modCore_debug (s : State) (n : Nat) (f : Core → Core) : (s.modCore n f).debug = s.debug := rfl
@[simp] theorem State.modCore_tagNext (s : State) (n : Nat) (f : Core → Core) : (s.modCore n f).tagNext = s.tagNext := rfl
@[simp] theorem State.modCore_roomFor (s : State) (n : Nat) (f : Core → Core) : (s.modCore n f).roomFor = s.roomFor := rfl
@[simp] theorem State.modCore_tokUpds (s : State) (n : Nat) (f : Core → Core) : (s.modCore n f).tokUpds = s.tokUpds := rfl
@[simp] theorem State.modCore_cur (s : State) (n : Nat) (f : Core → Core) : (s.modCore n f).cur = s.cur := rfl
@[simp] theorem State.modCore_issueQ (s : State) (n : Nat) (f : Core → Core) : (s.modCore n f).issueQ = s.issueQ := rfl
@[simp] theorem State.modCore_agenda (s : State) (n : Nat) (f : Core → Core) : (s.modCore n f).agenda = s.agenda := rfl
@[simp] theorem State.modCore_freeCtr (s : State) (n : Nat) (f : Core → Core) : (s.modCore n f).freeCtr = s.freeCtr := rfl
@[simp] theorem State.modCore_nextId (s : State) (n : Nat) (f : Core → Core) : (s.modCore n f).nextId = s.nextId := rfl

/-! ### State.modCtx -/
@[simp] theorem State.modCtx_mem (s : State) (n : Nat) (f : Ctx → Ctx) : (s.modCtx n f).mem = s.mem := rfl
@[simp] theorem State.modCtx_sown (s : State) (n : Nat) (f : Ctx → Ctx) : (s.modCtx n f).sown = s.sown := rfl
@[simp] theorem State.modCtx_unsownReads (s : State) (n : Nat) (f : Ctx → Ctx) : (s.modCtx n f).unsownReads = s.unsownReads := rfl
@[simp] theorem State.modCtx_lineKey (s : State) (n : Nat) (f : Ctx → Ctx) : (s.modCtx n f).lineKey = s.lineKey := rfl
@[simp] theorem State.modCtx_poison (s : State) (n : Nat) (f : Ctx → Ctx) : (s.modCtx n f).poison = s.poison := rfl
@[simp] theorem State.modCtx_keySlots (s : State) (n : Nat) (f : Ctx → Ctx) : (s.modCtx n f).keySlots = s.keySlots := rfl
@[simp] theorem State.modCtx_keyPairs (s : State) (n : Nat) (f : Ctx → Ctx) : (s.modCtx n f).keyPairs = s.keyPairs := rfl
@[simp] theorem State.modCtx_curv (s : State) (n : Nat) (f : Ctx → Ctx) : (s.modCtx n f).curv = s.curv := rfl
@[simp] theorem State.modCtx_l2 (s : State) (n : Nat) (f : Ctx → Ctx) : (s.modCtx n f).l2 = s.l2 := rfl
@[simp] theorem State.modCtx_llc (s : State) (n : Nat) (f : Ctx → Ctx) : (s.modCtx n f).llc = s.llc := rfl
@[simp] theorem State.modCtx_lineDir (s : State) (n : Nat) (f : Ctx → Ctx) : (s.modCtx n f).lineDir = s.lineDir := rfl
@[simp] theorem State.modCtx_regionDir (s : State) (n : Nat) (f : Ctx → Ctx) : (s.modCtx n f).regionDir = s.regionDir := rfl
@[simp] theorem State.modCtx_reservations (s : State) (n : Nat) (f : Ctx → Ctx) : (s.modCtx n f).reservations = s.reservations := rfl
@[simp] theorem State.modCtx_relTags (s : State) (n : Nat) (f : Ctx → Ctx) : (s.modCtx n f).relTags = s.relTags := rfl
@[simp] theorem State.modCtx_watches (s : State) (n : Nat) (f : Ctx → Ctx) : (s.modCtx n f).watches = s.watches := rfl
@[simp] theorem State.modCtx_cycle (s : State) (n : Nat) (f : Ctx → Ctx) : (s.modCtx n f).cycle = s.cycle := rfl
@[simp] theorem State.modCtx_time (s : State) (n : Nat) (f : Ctx → Ctx) : (s.modCtx n f).time = s.time := rfl
@[simp] theorem State.modCtx_cores (s : State) (n : Nat) (f : Ctx → Ctx) : (s.modCtx n f).cores = s.cores := rfl
@[simp] theorem State.modCtx_plots (s : State) (n : Nat) (f : Ctx → Ctx) : (s.modCtx n f).plots = s.plots := rfl
@[simp] theorem State.modCtx_tracts (s : State) (n : Nat) (f : Ctx → Ctx) : (s.modCtx n f).tracts = s.tracts := rfl
@[simp] theorem State.modCtx_sowings (s : State) (n : Nat) (f : Ctx → Ctx) : (s.modCtx n f).sowings = s.sowings := rfl
@[simp] theorem State.modCtx_queues (s : State) (n : Nat) (f : Ctx → Ctx) : (s.modCtx n f).queues = s.queues := rfl
theorem State.modCtx_ctxs (s : State) (n : Nat) (f : Ctx → Ctx) : (s.modCtx n f).ctxs = tmod s.ctxs n f := rfl
@[simp] theorem State.modCtx_reqs (s : State) (n : Nat) (f : Ctx → Ctx) : (s.modCtx n f).reqs = s.reqs := rfl
@[simp] theorem State.modCtx_copies (s : State) (n : Nat) (f : Ctx → Ctx) : (s.modCtx n f).copies = s.copies := rfl
@[simp] theorem State.modCtx_qposts (s : State) (n : Nat) (f : Ctx → Ctx) : (s.modCtx n f).qposts = s.qposts := rfl
@[simp] theorem State.modCtx_arrivals (s : State) (n : Nat) (f : Ctx → Ctx) : (s.modCtx n f).arrivals = s.arrivals := rfl
@[simp] theorem State.modCtx_lands (s : State) (n : Nat) (f : Ctx → Ctx) : (s.modCtx n f).lands = s.lands := rfl
@[simp] theorem State.modCtx_fabric (s : State) (n : Nat) (f : Ctx → Ctx) : (s.modCtx n f).fabric = s.fabric := rfl
@[simp] theorem State.modCtx_hostFrozen (s : State) (n : Nat) (f : Ctx → Ctx) : (s.modCtx n f).hostFrozen = s.hostFrozen := rfl
@[simp] theorem State.modCtx_hostIrqs (s : State) (n : Nat) (f : Ctx → Ctx) : (s.modCtx n f).hostIrqs = s.hostIrqs := rfl
@[simp] theorem State.modCtx_hostReads (s : State) (n : Nat) (f : Ctx → Ctx) : (s.modCtx n f).hostReads = s.hostReads := rfl
@[simp] theorem State.modCtx_hostWrites (s : State) (n : Nat) (f : Ctx → Ctx) : (s.modCtx n f).hostWrites = s.hostWrites := rfl
@[simp] theorem State.modCtx_apertures (s : State) (n : Nat) (f : Ctx → Ctx) : (s.modCtx n f).apertures = s.apertures := rfl
@[simp] theorem State.modCtx_mbox (s : State) (n : Nat) (f : Ctx → Ctx) : (s.modCtx n f).mbox = s.mbox := rfl
@[simp] theorem State.modCtx_discard (s : State) (n : Nat) (f : Ctx → Ctx) : (s.modCtx n f).discard = s.discard := rfl
@[simp] theorem State.modCtx_steward (s : State) (n : Nat) (f : Ctx → Ctx) : (s.modCtx n f).steward = s.steward := rfl
@[simp] theorem State.modCtx_locked (s : State) (n : Nat) (f : Ctx → Ctx) : (s.modCtx n f).locked = s.locked := rfl
@[simp] theorem State.modCtx_flash (s : State) (n : Nat) (f : Ctx → Ctx) : (s.modCtx n f).flash = s.flash := rfl
@[simp] theorem State.modCtx_debug (s : State) (n : Nat) (f : Ctx → Ctx) : (s.modCtx n f).debug = s.debug := rfl
@[simp] theorem State.modCtx_tagNext (s : State) (n : Nat) (f : Ctx → Ctx) : (s.modCtx n f).tagNext = s.tagNext := rfl
@[simp] theorem State.modCtx_roomFor (s : State) (n : Nat) (f : Ctx → Ctx) : (s.modCtx n f).roomFor = s.roomFor := rfl
@[simp] theorem State.modCtx_tokUpds (s : State) (n : Nat) (f : Ctx → Ctx) : (s.modCtx n f).tokUpds = s.tokUpds := rfl
@[simp] theorem State.modCtx_cur (s : State) (n : Nat) (f : Ctx → Ctx) : (s.modCtx n f).cur = s.cur := rfl
@[simp] theorem State.modCtx_issueQ (s : State) (n : Nat) (f : Ctx → Ctx) : (s.modCtx n f).issueQ = s.issueQ := rfl
@[simp] theorem State.modCtx_agenda (s : State) (n : Nat) (f : Ctx → Ctx) : (s.modCtx n f).agenda = s.agenda := rfl
@[simp] theorem State.modCtx_freeCtr (s : State) (n : Nat) (f : Ctx → Ctx) : (s.modCtx n f).freeCtr = s.freeCtr := rfl
@[simp] theorem State.modCtx_nextId (s : State) (n : Nat) (f : Ctx → Ctx) : (s.modCtx n f).nextId = s.nextId := rfl

/-! ### State.modTract -/
@[simp] theorem State.modTract_mem (s : State) (n : Nat) (f : Tract → Tract) : (s.modTract n f).mem = s.mem := rfl
@[simp] theorem State.modTract_sown (s : State) (n : Nat) (f : Tract → Tract) : (s.modTract n f).sown = s.sown := rfl
@[simp] theorem State.modTract_unsownReads (s : State) (n : Nat) (f : Tract → Tract) : (s.modTract n f).unsownReads = s.unsownReads := rfl
@[simp] theorem State.modTract_lineKey (s : State) (n : Nat) (f : Tract → Tract) : (s.modTract n f).lineKey = s.lineKey := rfl
@[simp] theorem State.modTract_poison (s : State) (n : Nat) (f : Tract → Tract) : (s.modTract n f).poison = s.poison := rfl
@[simp] theorem State.modTract_keySlots (s : State) (n : Nat) (f : Tract → Tract) : (s.modTract n f).keySlots = s.keySlots := rfl
@[simp] theorem State.modTract_keyPairs (s : State) (n : Nat) (f : Tract → Tract) : (s.modTract n f).keyPairs = s.keyPairs := rfl
@[simp] theorem State.modTract_curv (s : State) (n : Nat) (f : Tract → Tract) : (s.modTract n f).curv = s.curv := rfl
@[simp] theorem State.modTract_l2 (s : State) (n : Nat) (f : Tract → Tract) : (s.modTract n f).l2 = s.l2 := rfl
@[simp] theorem State.modTract_llc (s : State) (n : Nat) (f : Tract → Tract) : (s.modTract n f).llc = s.llc := rfl
@[simp] theorem State.modTract_lineDir (s : State) (n : Nat) (f : Tract → Tract) : (s.modTract n f).lineDir = s.lineDir := rfl
@[simp] theorem State.modTract_regionDir (s : State) (n : Nat) (f : Tract → Tract) : (s.modTract n f).regionDir = s.regionDir := rfl
@[simp] theorem State.modTract_reservations (s : State) (n : Nat) (f : Tract → Tract) : (s.modTract n f).reservations = s.reservations := rfl
@[simp] theorem State.modTract_relTags (s : State) (n : Nat) (f : Tract → Tract) : (s.modTract n f).relTags = s.relTags := rfl
@[simp] theorem State.modTract_watches (s : State) (n : Nat) (f : Tract → Tract) : (s.modTract n f).watches = s.watches := rfl
@[simp] theorem State.modTract_cycle (s : State) (n : Nat) (f : Tract → Tract) : (s.modTract n f).cycle = s.cycle := rfl
@[simp] theorem State.modTract_time (s : State) (n : Nat) (f : Tract → Tract) : (s.modTract n f).time = s.time := rfl
@[simp] theorem State.modTract_cores (s : State) (n : Nat) (f : Tract → Tract) : (s.modTract n f).cores = s.cores := rfl
@[simp] theorem State.modTract_plots (s : State) (n : Nat) (f : Tract → Tract) : (s.modTract n f).plots = s.plots := rfl
theorem State.modTract_tracts (s : State) (n : Nat) (f : Tract → Tract) : (s.modTract n f).tracts = tmod s.tracts n f := rfl
@[simp] theorem State.modTract_sowings (s : State) (n : Nat) (f : Tract → Tract) : (s.modTract n f).sowings = s.sowings := rfl
@[simp] theorem State.modTract_queues (s : State) (n : Nat) (f : Tract → Tract) : (s.modTract n f).queues = s.queues := rfl
@[simp] theorem State.modTract_ctxs (s : State) (n : Nat) (f : Tract → Tract) : (s.modTract n f).ctxs = s.ctxs := rfl
@[simp] theorem State.modTract_reqs (s : State) (n : Nat) (f : Tract → Tract) : (s.modTract n f).reqs = s.reqs := rfl
@[simp] theorem State.modTract_copies (s : State) (n : Nat) (f : Tract → Tract) : (s.modTract n f).copies = s.copies := rfl
@[simp] theorem State.modTract_qposts (s : State) (n : Nat) (f : Tract → Tract) : (s.modTract n f).qposts = s.qposts := rfl
@[simp] theorem State.modTract_arrivals (s : State) (n : Nat) (f : Tract → Tract) : (s.modTract n f).arrivals = s.arrivals := rfl
@[simp] theorem State.modTract_lands (s : State) (n : Nat) (f : Tract → Tract) : (s.modTract n f).lands = s.lands := rfl
@[simp] theorem State.modTract_fabric (s : State) (n : Nat) (f : Tract → Tract) : (s.modTract n f).fabric = s.fabric := rfl
@[simp] theorem State.modTract_hostFrozen (s : State) (n : Nat) (f : Tract → Tract) : (s.modTract n f).hostFrozen = s.hostFrozen := rfl
@[simp] theorem State.modTract_hostIrqs (s : State) (n : Nat) (f : Tract → Tract) : (s.modTract n f).hostIrqs = s.hostIrqs := rfl
@[simp] theorem State.modTract_hostReads (s : State) (n : Nat) (f : Tract → Tract) : (s.modTract n f).hostReads = s.hostReads := rfl
@[simp] theorem State.modTract_hostWrites (s : State) (n : Nat) (f : Tract → Tract) : (s.modTract n f).hostWrites = s.hostWrites := rfl
@[simp] theorem State.modTract_apertures (s : State) (n : Nat) (f : Tract → Tract) : (s.modTract n f).apertures = s.apertures := rfl
@[simp] theorem State.modTract_mbox (s : State) (n : Nat) (f : Tract → Tract) : (s.modTract n f).mbox = s.mbox := rfl
@[simp] theorem State.modTract_discard (s : State) (n : Nat) (f : Tract → Tract) : (s.modTract n f).discard = s.discard := rfl
@[simp] theorem State.modTract_steward (s : State) (n : Nat) (f : Tract → Tract) : (s.modTract n f).steward = s.steward := rfl
@[simp] theorem State.modTract_locked (s : State) (n : Nat) (f : Tract → Tract) : (s.modTract n f).locked = s.locked := rfl
@[simp] theorem State.modTract_flash (s : State) (n : Nat) (f : Tract → Tract) : (s.modTract n f).flash = s.flash := rfl
@[simp] theorem State.modTract_debug (s : State) (n : Nat) (f : Tract → Tract) : (s.modTract n f).debug = s.debug := rfl
@[simp] theorem State.modTract_tagNext (s : State) (n : Nat) (f : Tract → Tract) : (s.modTract n f).tagNext = s.tagNext := rfl
@[simp] theorem State.modTract_roomFor (s : State) (n : Nat) (f : Tract → Tract) : (s.modTract n f).roomFor = s.roomFor := rfl
@[simp] theorem State.modTract_tokUpds (s : State) (n : Nat) (f : Tract → Tract) : (s.modTract n f).tokUpds = s.tokUpds := rfl
@[simp] theorem State.modTract_cur (s : State) (n : Nat) (f : Tract → Tract) : (s.modTract n f).cur = s.cur := rfl
@[simp] theorem State.modTract_issueQ (s : State) (n : Nat) (f : Tract → Tract) : (s.modTract n f).issueQ = s.issueQ := rfl
@[simp] theorem State.modTract_agenda (s : State) (n : Nat) (f : Tract → Tract) : (s.modTract n f).agenda = s.agenda := rfl
@[simp] theorem State.modTract_freeCtr (s : State) (n : Nat) (f : Tract → Tract) : (s.modTract n f).freeCtr = s.freeCtr := rfl
@[simp] theorem State.modTract_nextId (s : State) (n : Nat) (f : Tract → Tract) : (s.modTract n f).nextId = s.nextId := rfl

/-! ### State.modSow -/
@[simp] theorem State.modSow_mem (s : State) (n : Nat) (f : Sowing → Sowing) : (s.modSow n f).mem = s.mem := rfl
@[simp] theorem State.modSow_sown (s : State) (n : Nat) (f : Sowing → Sowing) : (s.modSow n f).sown = s.sown := rfl
@[simp] theorem State.modSow_unsownReads (s : State) (n : Nat) (f : Sowing → Sowing) : (s.modSow n f).unsownReads = s.unsownReads := rfl
@[simp] theorem State.modSow_lineKey (s : State) (n : Nat) (f : Sowing → Sowing) : (s.modSow n f).lineKey = s.lineKey := rfl
@[simp] theorem State.modSow_poison (s : State) (n : Nat) (f : Sowing → Sowing) : (s.modSow n f).poison = s.poison := rfl
@[simp] theorem State.modSow_keySlots (s : State) (n : Nat) (f : Sowing → Sowing) : (s.modSow n f).keySlots = s.keySlots := rfl
@[simp] theorem State.modSow_keyPairs (s : State) (n : Nat) (f : Sowing → Sowing) : (s.modSow n f).keyPairs = s.keyPairs := rfl
@[simp] theorem State.modSow_curv (s : State) (n : Nat) (f : Sowing → Sowing) : (s.modSow n f).curv = s.curv := rfl
@[simp] theorem State.modSow_l2 (s : State) (n : Nat) (f : Sowing → Sowing) : (s.modSow n f).l2 = s.l2 := rfl
@[simp] theorem State.modSow_llc (s : State) (n : Nat) (f : Sowing → Sowing) : (s.modSow n f).llc = s.llc := rfl
@[simp] theorem State.modSow_lineDir (s : State) (n : Nat) (f : Sowing → Sowing) : (s.modSow n f).lineDir = s.lineDir := rfl
@[simp] theorem State.modSow_regionDir (s : State) (n : Nat) (f : Sowing → Sowing) : (s.modSow n f).regionDir = s.regionDir := rfl
@[simp] theorem State.modSow_reservations (s : State) (n : Nat) (f : Sowing → Sowing) : (s.modSow n f).reservations = s.reservations := rfl
@[simp] theorem State.modSow_relTags (s : State) (n : Nat) (f : Sowing → Sowing) : (s.modSow n f).relTags = s.relTags := rfl
@[simp] theorem State.modSow_watches (s : State) (n : Nat) (f : Sowing → Sowing) : (s.modSow n f).watches = s.watches := rfl
@[simp] theorem State.modSow_cycle (s : State) (n : Nat) (f : Sowing → Sowing) : (s.modSow n f).cycle = s.cycle := rfl
@[simp] theorem State.modSow_time (s : State) (n : Nat) (f : Sowing → Sowing) : (s.modSow n f).time = s.time := rfl
@[simp] theorem State.modSow_cores (s : State) (n : Nat) (f : Sowing → Sowing) : (s.modSow n f).cores = s.cores := rfl
@[simp] theorem State.modSow_plots (s : State) (n : Nat) (f : Sowing → Sowing) : (s.modSow n f).plots = s.plots := rfl
@[simp] theorem State.modSow_tracts (s : State) (n : Nat) (f : Sowing → Sowing) : (s.modSow n f).tracts = s.tracts := rfl
theorem State.modSow_sowings (s : State) (n : Nat) (f : Sowing → Sowing) : (s.modSow n f).sowings = tmod s.sowings n f := rfl
@[simp] theorem State.modSow_queues (s : State) (n : Nat) (f : Sowing → Sowing) : (s.modSow n f).queues = s.queues := rfl
@[simp] theorem State.modSow_ctxs (s : State) (n : Nat) (f : Sowing → Sowing) : (s.modSow n f).ctxs = s.ctxs := rfl
@[simp] theorem State.modSow_reqs (s : State) (n : Nat) (f : Sowing → Sowing) : (s.modSow n f).reqs = s.reqs := rfl
@[simp] theorem State.modSow_copies (s : State) (n : Nat) (f : Sowing → Sowing) : (s.modSow n f).copies = s.copies := rfl
@[simp] theorem State.modSow_qposts (s : State) (n : Nat) (f : Sowing → Sowing) : (s.modSow n f).qposts = s.qposts := rfl
@[simp] theorem State.modSow_arrivals (s : State) (n : Nat) (f : Sowing → Sowing) : (s.modSow n f).arrivals = s.arrivals := rfl
@[simp] theorem State.modSow_lands (s : State) (n : Nat) (f : Sowing → Sowing) : (s.modSow n f).lands = s.lands := rfl
@[simp] theorem State.modSow_fabric (s : State) (n : Nat) (f : Sowing → Sowing) : (s.modSow n f).fabric = s.fabric := rfl
@[simp] theorem State.modSow_hostFrozen (s : State) (n : Nat) (f : Sowing → Sowing) : (s.modSow n f).hostFrozen = s.hostFrozen := rfl
@[simp] theorem State.modSow_hostIrqs (s : State) (n : Nat) (f : Sowing → Sowing) : (s.modSow n f).hostIrqs = s.hostIrqs := rfl
@[simp] theorem State.modSow_hostReads (s : State) (n : Nat) (f : Sowing → Sowing) : (s.modSow n f).hostReads = s.hostReads := rfl
@[simp] theorem State.modSow_hostWrites (s : State) (n : Nat) (f : Sowing → Sowing) : (s.modSow n f).hostWrites = s.hostWrites := rfl
@[simp] theorem State.modSow_apertures (s : State) (n : Nat) (f : Sowing → Sowing) : (s.modSow n f).apertures = s.apertures := rfl
@[simp] theorem State.modSow_mbox (s : State) (n : Nat) (f : Sowing → Sowing) : (s.modSow n f).mbox = s.mbox := rfl
@[simp] theorem State.modSow_discard (s : State) (n : Nat) (f : Sowing → Sowing) : (s.modSow n f).discard = s.discard := rfl
@[simp] theorem State.modSow_steward (s : State) (n : Nat) (f : Sowing → Sowing) : (s.modSow n f).steward = s.steward := rfl
@[simp] theorem State.modSow_locked (s : State) (n : Nat) (f : Sowing → Sowing) : (s.modSow n f).locked = s.locked := rfl
@[simp] theorem State.modSow_flash (s : State) (n : Nat) (f : Sowing → Sowing) : (s.modSow n f).flash = s.flash := rfl
@[simp] theorem State.modSow_debug (s : State) (n : Nat) (f : Sowing → Sowing) : (s.modSow n f).debug = s.debug := rfl
@[simp] theorem State.modSow_tagNext (s : State) (n : Nat) (f : Sowing → Sowing) : (s.modSow n f).tagNext = s.tagNext := rfl
@[simp] theorem State.modSow_roomFor (s : State) (n : Nat) (f : Sowing → Sowing) : (s.modSow n f).roomFor = s.roomFor := rfl
@[simp] theorem State.modSow_tokUpds (s : State) (n : Nat) (f : Sowing → Sowing) : (s.modSow n f).tokUpds = s.tokUpds := rfl
@[simp] theorem State.modSow_cur (s : State) (n : Nat) (f : Sowing → Sowing) : (s.modSow n f).cur = s.cur := rfl
@[simp] theorem State.modSow_issueQ (s : State) (n : Nat) (f : Sowing → Sowing) : (s.modSow n f).issueQ = s.issueQ := rfl
@[simp] theorem State.modSow_agenda (s : State) (n : Nat) (f : Sowing → Sowing) : (s.modSow n f).agenda = s.agenda := rfl
@[simp] theorem State.modSow_freeCtr (s : State) (n : Nat) (f : Sowing → Sowing) : (s.modSow n f).freeCtr = s.freeCtr := rfl
@[simp] theorem State.modSow_nextId (s : State) (n : Nat) (f : Sowing → Sowing) : (s.modSow n f).nextId = s.nextId := rfl

/-! ### State.modQueue -/
@[simp] theorem State.modQueue_mem (s : State) (n : Nat) (f : Queue → Queue) : (s.modQueue n f).mem = s.mem := rfl
@[simp] theorem State.modQueue_sown (s : State) (n : Nat) (f : Queue → Queue) : (s.modQueue n f).sown = s.sown := rfl
@[simp] theorem State.modQueue_unsownReads (s : State) (n : Nat) (f : Queue → Queue) : (s.modQueue n f).unsownReads = s.unsownReads := rfl
@[simp] theorem State.modQueue_lineKey (s : State) (n : Nat) (f : Queue → Queue) : (s.modQueue n f).lineKey = s.lineKey := rfl
@[simp] theorem State.modQueue_poison (s : State) (n : Nat) (f : Queue → Queue) : (s.modQueue n f).poison = s.poison := rfl
@[simp] theorem State.modQueue_keySlots (s : State) (n : Nat) (f : Queue → Queue) : (s.modQueue n f).keySlots = s.keySlots := rfl
@[simp] theorem State.modQueue_keyPairs (s : State) (n : Nat) (f : Queue → Queue) : (s.modQueue n f).keyPairs = s.keyPairs := rfl
@[simp] theorem State.modQueue_curv (s : State) (n : Nat) (f : Queue → Queue) : (s.modQueue n f).curv = s.curv := rfl
@[simp] theorem State.modQueue_l2 (s : State) (n : Nat) (f : Queue → Queue) : (s.modQueue n f).l2 = s.l2 := rfl
@[simp] theorem State.modQueue_llc (s : State) (n : Nat) (f : Queue → Queue) : (s.modQueue n f).llc = s.llc := rfl
@[simp] theorem State.modQueue_lineDir (s : State) (n : Nat) (f : Queue → Queue) : (s.modQueue n f).lineDir = s.lineDir := rfl
@[simp] theorem State.modQueue_regionDir (s : State) (n : Nat) (f : Queue → Queue) : (s.modQueue n f).regionDir = s.regionDir := rfl
@[simp] theorem State.modQueue_reservations (s : State) (n : Nat) (f : Queue → Queue) : (s.modQueue n f).reservations = s.reservations := rfl
@[simp] theorem State.modQueue_relTags (s : State) (n : Nat) (f : Queue → Queue) : (s.modQueue n f).relTags = s.relTags := rfl
@[simp] theorem State.modQueue_watches (s : State) (n : Nat) (f : Queue → Queue) : (s.modQueue n f).watches = s.watches := rfl
@[simp] theorem State.modQueue_cycle (s : State) (n : Nat) (f : Queue → Queue) : (s.modQueue n f).cycle = s.cycle := rfl
@[simp] theorem State.modQueue_time (s : State) (n : Nat) (f : Queue → Queue) : (s.modQueue n f).time = s.time := rfl
@[simp] theorem State.modQueue_cores (s : State) (n : Nat) (f : Queue → Queue) : (s.modQueue n f).cores = s.cores := rfl
@[simp] theorem State.modQueue_plots (s : State) (n : Nat) (f : Queue → Queue) : (s.modQueue n f).plots = s.plots := rfl
@[simp] theorem State.modQueue_tracts (s : State) (n : Nat) (f : Queue → Queue) : (s.modQueue n f).tracts = s.tracts := rfl
@[simp] theorem State.modQueue_sowings (s : State) (n : Nat) (f : Queue → Queue) : (s.modQueue n f).sowings = s.sowings := rfl
theorem State.modQueue_queues (s : State) (n : Nat) (f : Queue → Queue) : (s.modQueue n f).queues = tmod s.queues n f := rfl
@[simp] theorem State.modQueue_ctxs (s : State) (n : Nat) (f : Queue → Queue) : (s.modQueue n f).ctxs = s.ctxs := rfl
@[simp] theorem State.modQueue_reqs (s : State) (n : Nat) (f : Queue → Queue) : (s.modQueue n f).reqs = s.reqs := rfl
@[simp] theorem State.modQueue_copies (s : State) (n : Nat) (f : Queue → Queue) : (s.modQueue n f).copies = s.copies := rfl
@[simp] theorem State.modQueue_qposts (s : State) (n : Nat) (f : Queue → Queue) : (s.modQueue n f).qposts = s.qposts := rfl
@[simp] theorem State.modQueue_arrivals (s : State) (n : Nat) (f : Queue → Queue) : (s.modQueue n f).arrivals = s.arrivals := rfl
@[simp] theorem State.modQueue_lands (s : State) (n : Nat) (f : Queue → Queue) : (s.modQueue n f).lands = s.lands := rfl
@[simp] theorem State.modQueue_fabric (s : State) (n : Nat) (f : Queue → Queue) : (s.modQueue n f).fabric = s.fabric := rfl
@[simp] theorem State.modQueue_hostFrozen (s : State) (n : Nat) (f : Queue → Queue) : (s.modQueue n f).hostFrozen = s.hostFrozen := rfl
@[simp] theorem State.modQueue_hostIrqs (s : State) (n : Nat) (f : Queue → Queue) : (s.modQueue n f).hostIrqs = s.hostIrqs := rfl
@[simp] theorem State.modQueue_hostReads (s : State) (n : Nat) (f : Queue → Queue) : (s.modQueue n f).hostReads = s.hostReads := rfl
@[simp] theorem State.modQueue_hostWrites (s : State) (n : Nat) (f : Queue → Queue) : (s.modQueue n f).hostWrites = s.hostWrites := rfl
@[simp] theorem State.modQueue_apertures (s : State) (n : Nat) (f : Queue → Queue) : (s.modQueue n f).apertures = s.apertures := rfl
@[simp] theorem State.modQueue_mbox (s : State) (n : Nat) (f : Queue → Queue) : (s.modQueue n f).mbox = s.mbox := rfl
@[simp] theorem State.modQueue_discard (s : State) (n : Nat) (f : Queue → Queue) : (s.modQueue n f).discard = s.discard := rfl
@[simp] theorem State.modQueue_steward (s : State) (n : Nat) (f : Queue → Queue) : (s.modQueue n f).steward = s.steward := rfl
@[simp] theorem State.modQueue_locked (s : State) (n : Nat) (f : Queue → Queue) : (s.modQueue n f).locked = s.locked := rfl
@[simp] theorem State.modQueue_flash (s : State) (n : Nat) (f : Queue → Queue) : (s.modQueue n f).flash = s.flash := rfl
@[simp] theorem State.modQueue_debug (s : State) (n : Nat) (f : Queue → Queue) : (s.modQueue n f).debug = s.debug := rfl
@[simp] theorem State.modQueue_tagNext (s : State) (n : Nat) (f : Queue → Queue) : (s.modQueue n f).tagNext = s.tagNext := rfl
@[simp] theorem State.modQueue_roomFor (s : State) (n : Nat) (f : Queue → Queue) : (s.modQueue n f).roomFor = s.roomFor := rfl
@[simp] theorem State.modQueue_tokUpds (s : State) (n : Nat) (f : Queue → Queue) : (s.modQueue n f).tokUpds = s.tokUpds := rfl
@[simp] theorem State.modQueue_cur (s : State) (n : Nat) (f : Queue → Queue) : (s.modQueue n f).cur = s.cur := rfl
@[simp] theorem State.modQueue_issueQ (s : State) (n : Nat) (f : Queue → Queue) : (s.modQueue n f).issueQ = s.issueQ := rfl
@[simp] theorem State.modQueue_agenda (s : State) (n : Nat) (f : Queue → Queue) : (s.modQueue n f).agenda = s.agenda := rfl
@[simp] theorem State.modQueue_freeCtr (s : State) (n : Nat) (f : Queue → Queue) : (s.modQueue n f).freeCtr = s.freeCtr := rfl
@[simp] theorem State.modQueue_nextId (s : State) (n : Nat) (f : Queue → Queue) : (s.modQueue n f).nextId = s.nextId := rfl

/-! ### State.event -/
@[simp] theorem State.event_mem (s : State) (n k : Nat) : (s.event n k).mem = s.mem := rfl
@[simp] theorem State.event_sown (s : State) (n k : Nat) : (s.event n k).sown = s.sown := rfl
@[simp] theorem State.event_unsownReads (s : State) (n k : Nat) : (s.event n k).unsownReads = s.unsownReads := rfl
@[simp] theorem State.event_lineKey (s : State) (n k : Nat) : (s.event n k).lineKey = s.lineKey := rfl
@[simp] theorem State.event_poison (s : State) (n k : Nat) : (s.event n k).poison = s.poison := rfl
@[simp] theorem State.event_keySlots (s : State) (n k : Nat) : (s.event n k).keySlots = s.keySlots := rfl
@[simp] theorem State.event_keyPairs (s : State) (n k : Nat) : (s.event n k).keyPairs = s.keyPairs := rfl
@[simp] theorem State.event_curv (s : State) (n k : Nat) : (s.event n k).curv = s.curv := rfl
@[simp] theorem State.event_l2 (s : State) (n k : Nat) : (s.event n k).l2 = s.l2 := rfl
@[simp] theorem State.event_llc (s : State) (n k : Nat) : (s.event n k).llc = s.llc := rfl
@[simp] theorem State.event_lineDir (s : State) (n k : Nat) : (s.event n k).lineDir = s.lineDir := rfl
@[simp] theorem State.event_regionDir (s : State) (n k : Nat) : (s.event n k).regionDir = s.regionDir := rfl
@[simp] theorem State.event_reservations (s : State) (n k : Nat) : (s.event n k).reservations = s.reservations := rfl
@[simp] theorem State.event_relTags (s : State) (n k : Nat) : (s.event n k).relTags = s.relTags := rfl
@[simp] theorem State.event_watches (s : State) (n k : Nat) : (s.event n k).watches = s.watches := rfl
@[simp] theorem State.event_cycle (s : State) (n k : Nat) : (s.event n k).cycle = s.cycle := rfl
@[simp] theorem State.event_time (s : State) (n k : Nat) : (s.event n k).time = s.time := rfl
@[simp] theorem State.event_cores (s : State) (n k : Nat) : (s.event n k).cores = s.cores := rfl
@[simp] theorem State.event_plots (s : State) (n k : Nat) : (s.event n k).plots = s.plots := rfl
@[simp] theorem State.event_tracts (s : State) (n k : Nat) : (s.event n k).tracts = s.tracts := rfl
@[simp] theorem State.event_sowings (s : State) (n k : Nat) : (s.event n k).sowings = s.sowings := rfl
@[simp] theorem State.event_queues (s : State) (n k : Nat) : (s.event n k).queues = s.queues := rfl
@[simp] theorem State.event_ctxs (s : State) (n k : Nat) : (s.event n k).ctxs = s.ctxs := rfl
@[simp] theorem State.event_reqs (s : State) (n k : Nat) : (s.event n k).reqs = s.reqs := rfl
@[simp] theorem State.event_copies (s : State) (n k : Nat) : (s.event n k).copies = s.copies := rfl
@[simp] theorem State.event_qposts (s : State) (n k : Nat) : (s.event n k).qposts = s.qposts := rfl
@[simp] theorem State.event_arrivals (s : State) (n k : Nat) : (s.event n k).arrivals = s.arrivals := rfl
@[simp] theorem State.event_lands (s : State) (n k : Nat) : (s.event n k).lands = s.lands := rfl
@[simp] theorem State.event_fabric (s : State) (n k : Nat) : (s.event n k).fabric = s.fabric := rfl
@[simp] theorem State.event_hostFrozen (s : State) (n k : Nat) : (s.event n k).hostFrozen = s.hostFrozen := rfl
@[simp] theorem State.event_hostIrqs (s : State) (n k : Nat) : (s.event n k).hostIrqs = s.hostIrqs := rfl
@[simp] theorem State.event_hostReads (s : State) (n k : Nat) : (s.event n k).hostReads = s.hostReads := rfl
@[simp] theorem State.event_hostWrites (s : State) (n k : Nat) : (s.event n k).hostWrites = s.hostWrites := rfl
@[simp] theorem State.event_apertures (s : State) (n k : Nat) : (s.event n k).apertures = s.apertures := rfl
@[simp] theorem State.event_mbox (s : State) (n k : Nat) : (s.event n k).mbox = s.mbox := rfl
@[simp] theorem State.event_discard (s : State) (n k : Nat) : (s.event n k).discard = s.discard := rfl
@[simp] theorem State.event_locked (s : State) (n k : Nat) : (s.event n k).locked = s.locked := rfl
@[simp] theorem State.event_flash (s : State) (n k : Nat) : (s.event n k).flash = s.flash := rfl
@[simp] theorem State.event_debug (s : State) (n k : Nat) : (s.event n k).debug = s.debug := rfl
@[simp] theorem State.event_tagNext (s : State) (n k : Nat) : (s.event n k).tagNext = s.tagNext := rfl
@[simp] theorem State.event_roomFor (s : State) (n k : Nat) : (s.event n k).roomFor = s.roomFor := rfl
@[simp] theorem State.event_tokUpds (s : State) (n k : Nat) : (s.event n k).tokUpds = s.tokUpds := rfl
@[simp] theorem State.event_cur (s : State) (n k : Nat) : (s.event n k).cur = s.cur := rfl
@[simp] theorem State.event_issueQ (s : State) (n k : Nat) : (s.event n k).issueQ = s.issueQ := rfl
@[simp] theorem State.event_agenda (s : State) (n k : Nat) : (s.event n k).agenda = s.agenda := rfl
@[simp] theorem State.event_freeCtr (s : State) (n k : Nat) : (s.event n k).freeCtr = s.freeCtr := rfl
@[simp] theorem State.event_nextId (s : State) (n k : Nat) : (s.event n k).nextId = s.nextId := rfl

/-! ### Plot.modThread -/
@[simp] theorem Plot.modThread_tract (p : Plot) (n : Nat) (f : Thread → Thread) : (p.modThread n f).tract = p.tract := rfl
@[simp] theorem Plot.modThread_sow (p : Plot) (n : Nat) (f : Thread → Thread) : (p.modThread n f).sow = p.sow := rfl
@[simp] theorem Plot.modThread_ctx (p : Plot) (n : Nat) (f : Thread → Thread) : (p.modThread n f).ctx = p.ctx := rfl
@[simp] theorem Plot.modThread_entry (p : Plot) (n : Nat) (f : Thread → Thread) : (p.modThread n f).entry = p.entry := rfl
@[simp] theorem Plot.modThread_index (p : Plot) (n : Nat) (f : Thread → Thread) : (p.modThread n f).index = p.index := rfl
@[simp] theorem Plot.modThread_core (p : Plot) (n : Nat) (f : Thread → Thread) : (p.modThread n f).core = p.core := rfl
@[simp] theorem Plot.modThread_copyN (p : Plot) (n : Nat) (f : Thread → Thread) : (p.modThread n f).copyN = p.copyN := rfl
@[simp] theorem Plot.modThread_matN (p : Plot) (n : Nat) (f : Thread → Thread) : (p.modThread n f).matN = p.matN := rfl
@[simp] theorem Plot.modThread_k (p : Plot) (n : Nat) (f : Thread → Thread) : (p.modThread n f).k = p.k := rfl
@[simp] theorem Plot.modThread_spadBase (p : Plot) (n : Nat) (f : Thread → Thread) : (p.modThread n f).spadBase = p.spadBase := rfl
@[simp] theorem Plot.modThread_spadLen (p : Plot) (n : Nat) (f : Thread → Thread) : (p.modThread n f).spadLen = p.spadLen := rfl
@[simp] theorem Plot.modThread_spad (p : Plot) (n : Nat) (f : Thread → Thread) : (p.modThread n f).spad = p.spad := rfl
theorem Plot.modThread_threads (p : Plot) (n : Nat) (f : Thread → Thread) : (p.modThread n f).threads = tmod p.threads n f := rfl
@[simp] theorem Plot.modThread_barp (p : Plot) (n : Nat) (f : Thread → Thread) : (p.modThread n f).barp = p.barp := rfl
@[simp] theorem Plot.modThread_batch (p : Plot) (n : Nat) (f : Thread → Thread) : (p.modThread n f).batch = p.batch := rfl
@[simp] theorem Plot.modThread_tiles (p : Plot) (n : Nat) (f : Thread → Thread) : (p.modThread n f).tiles = p.tiles := rfl
@[simp] theorem Plot.modThread_tsw (p : Plot) (n : Nat) (f : Thread → Thread) : (p.modThread n f).tsw = p.tsw := rfl
@[simp] theorem Plot.modThread_barEdges (p : Plot) (n : Nat) (f : Thread → Thread) : (p.modThread n f).barEdges = p.barEdges := rfl
@[simp] theorem Plot.modThread_barActed (p : Plot) (n : Nat) (f : Thread → Thread) : (p.modThread n f).barActed = p.barActed := rfl
@[simp] theorem Plot.modThread_relTags (p : Plot) (n : Nat) (f : Thread → Thread) : (p.modThread n f).relTags = p.relTags := rfl
@[simp] theorem Plot.modThread_groups (p : Plot) (n : Nat) (f : Thread → Thread) : (p.modThread n f).groups = p.groups := rfl
@[simp] theorem Plot.modThread_engq (p : Plot) (n : Nat) (f : Thread → Thread) : (p.modThread n f).engq = p.engq := rfl
@[simp] theorem Plot.modThread_frozen (p : Plot) (n : Nat) (f : Thread → Thread) : (p.modThread n f).frozen = p.frozen := rfl
@[simp] theorem Plot.modThread_retired (p : Plot) (n : Nat) (f : Thread → Thread) : (p.modThread n f).retired = p.retired := rfl

/-! ### Thread.setReg -/
@[simp] theorem Thread.setReg_pc (t : Thread) (x : Nat) (v : Word) : (t.setReg x v).pc = t.pc := rfl
@[simp] theorem Thread.setReg_landing (t : Thread) (x : Nat) (v : Word) : (t.setReg x v).landing = t.landing := rfl
@[simp] theorem Thread.setReg_landSrc (t : Thread) (x : Nat) (v : Word) : (t.setReg x v).landSrc = t.landSrc := rfl
@[simp] theorem Thread.setReg_wb (t : Thread) (x : Nat) (v : Word) : (t.setReg x v).wb = t.wb := rfl
@[simp] theorem Thread.setReg_ix (t : Thread) (x : Nat) (v : Word) : (t.setReg x v).ix = t.ix := rfl
@[simp] theorem Thread.setReg_preds (t : Thread) (x : Nat) (v : Word) : (t.setReg x v).preds = t.preds := rfl
@[simp] theorem Thread.setReg_tstat (t : Thread) (x : Nat) (v : Word) : (t.setReg x v).tstat = t.tstat := rfl
@[simp] theorem Thread.setReg_rmode (t : Thread) (x : Nat) (v : Word) : (t.setReg x v).rmode = t.rmode := rfl
@[simp] theorem Thread.setReg_xa (t : Thread) (x : Nat) (v : Word) : (t.setReg x v).xa = t.xa := rfl
@[simp] theorem Thread.setReg_rstack (t : Thread) (x : Nat) (v : Word) : (t.setReg x v).rstack = t.rstack := rfl
@[simp] theorem Thread.setReg_spd (t : Thread) (x : Nat) (v : Word) : (t.setReg x v).spd = t.spd := rfl
@[simp] theorem Thread.setReg_tlsb (t : Thread) (x : Nat) (v : Word) : (t.setReg x v).tlsb = t.tlsb := rfl
@[simp] theorem Thread.setReg_ld (t : Thread) (x : Nat) (v : Word) : (t.setReg x v).ld = t.ld := rfl
@[simp] theorem Thread.setReg_st (t : Thread) (x : Nat) (v : Word) : (t.setReg x v).st = t.st := rfl
@[simp] theorem Thread.setReg_cp (t : Thread) (x : Nat) (v : Word) : (t.setReg x v).cp = t.cp := rfl
@[simp] theorem Thread.setReg_tl (t : Thread) (x : Nat) (v : Word) : (t.setReg x v).tl = t.tl := rfl
@[simp] theorem Thread.setReg_rcurRing (t : Thread) (x : Nat) (v : Word) : (t.setReg x v).rcurRing = t.rcurRing := rfl
@[simp] theorem Thread.setReg_rcurStage (t : Thread) (x : Nat) (v : Word) : (t.setReg x v).rcurStage = t.rcurStage := rfl
@[simp] theorem Thread.setReg_rcurPhase (t : Thread) (x : Nat) (v : Word) : (t.setReg x v).rcurPhase = t.rcurPhase := rfl
@[simp] theorem Thread.setReg_epc (t : Thread) (x : Nat) (v : Word) : (t.setReg x v).epc = t.epc := rfl
@[simp] theorem Thread.setReg_ecode (t : Thread) (x : Nat) (v : Word) : (t.setReg x v).ecode = t.ecode := rfl
@[simp] theorem Thread.setReg_einfo (t : Thread) (x : Nat) (v : Word) : (t.setReg x v).einfo = t.einfo := rfl
@[simp] theorem Thread.setReg_eaddr (t : Thread) (x : Nat) (v : Word) : (t.setReg x v).eaddr = t.eaddr := rfl
@[simp] theorem Thread.setReg_ewb (t : Thread) (x : Nat) (v : Word) : (t.setReg x v).ewb = t.ewb := rfl
@[simp] theorem Thread.setReg_eix (t : Thread) (x : Nat) (v : Word) : (t.setReg x v).eix = t.eix := rfl
@[simp] theorem Thread.setReg_scr (t : Thread) (x : Nat) (v : Word) : (t.setReg x v).scr = t.scr := rfl
@[simp] theorem Thread.setReg_place (t : Thread) (x : Nat) (v : Word) : (t.setReg x v).place = t.place := rfl
@[simp] theorem Thread.setReg_pflt (t : Thread) (x : Nat) (v : Word) : (t.setReg x v).pflt = t.pflt := rfl
@[simp] theorem Thread.setReg_stopReq (t : Thread) (x : Nat) (v : Word) : (t.setReg x v).stopReq = t.stopReq := rfl
@[simp] theorem Thread.setReg_bkptStop (t : Thread) (x : Nat) (v : Word) : (t.setReg x v).bkptStop = t.bkptStop := rfl
@[simp] theorem Thread.setReg_noMatch (t : Thread) (x : Nat) (v : Word) : (t.setReg x v).noMatch = t.noMatch := rfl
@[simp] theorem Thread.setReg_stepping (t : Thread) (x : Nat) (v : Word) : (t.setReg x v).stepping = t.stepping := rfl
@[simp] theorem Thread.setReg_fenceO (t : Thread) (x : Nat) (v : Word) : (t.setReg x v).fenceO = t.fenceO := rfl
@[simp] theorem Thread.setReg_fenceA (t : Thread) (x : Nat) (v : Word) : (t.setReg x v).fenceA = t.fenceA := rfl
@[simp] theorem Thread.setReg_fenceS (t : Thread) (x : Nat) (v : Word) : (t.setReg x v).fenceS = t.fenceS := rfl
@[simp] theorem Thread.setReg_fenceL (t : Thread) (x : Nat) (v : Word) : (t.setReg x v).fenceL = t.fenceL := rfl
@[simp] theorem Thread.setReg_seen (t : Thread) (x : Nat) (v : Word) : (t.setReg x v).seen = t.seen := rfl
@[simp] theorem Thread.setReg_lapses (t : Thread) (x : Nat) (v : Word) : (t.setReg x v).lapses = t.lapses := rfl
@[simp] theorem Thread.setReg_written (t : Thread) (x : Nat) (v : Word) : (t.setReg x v).written = t.written := rfl

/-! ### Thread.orStat -/
@[simp] theorem Thread.orStat_pc (t : Thread) (m : Word) : (t.orStat m).pc = t.pc := rfl
@[simp] theorem Thread.orStat_regs (t : Thread) (m : Word) : (t.orStat m).regs = t.regs := rfl
@[simp] theorem Thread.orStat_landing (t : Thread) (m : Word) : (t.orStat m).landing = t.landing := rfl
@[simp] theorem Thread.orStat_landSrc (t : Thread) (m : Word) : (t.orStat m).landSrc = t.landSrc := rfl
@[simp] theorem Thread.orStat_wb (t : Thread) (m : Word) : (t.orStat m).wb = t.wb := rfl
@[simp] theorem Thread.orStat_ix (t : Thread) (m : Word) : (t.orStat m).ix = t.ix := rfl
@[simp] theorem Thread.orStat_preds (t : Thread) (m : Word) : (t.orStat m).preds = t.preds := rfl
@[simp] theorem Thread.orStat_rmode (t : Thread) (m : Word) : (t.orStat m).rmode = t.rmode := rfl
@[simp] theorem Thread.orStat_xa (t : Thread) (m : Word) : (t.orStat m).xa = t.xa := rfl
@[simp] theorem Thread.orStat_rstack (t : Thread) (m : Word) : (t.orStat m).rstack = t.rstack := rfl
@[simp] theorem Thread.orStat_spd (t : Thread) (m : Word) : (t.orStat m).spd = t.spd := rfl
@[simp] theorem Thread.orStat_tlsb (t : Thread) (m : Word) : (t.orStat m).tlsb = t.tlsb := rfl
@[simp] theorem Thread.orStat_ld (t : Thread) (m : Word) : (t.orStat m).ld = t.ld := rfl
@[simp] theorem Thread.orStat_st (t : Thread) (m : Word) : (t.orStat m).st = t.st := rfl
@[simp] theorem Thread.orStat_cp (t : Thread) (m : Word) : (t.orStat m).cp = t.cp := rfl
@[simp] theorem Thread.orStat_tl (t : Thread) (m : Word) : (t.orStat m).tl = t.tl := rfl
@[simp] theorem Thread.orStat_rcurRing (t : Thread) (m : Word) : (t.orStat m).rcurRing = t.rcurRing := rfl
@[simp] theorem Thread.orStat_rcurStage (t : Thread) (m : Word) : (t.orStat m).rcurStage = t.rcurStage := rfl
@[simp] theorem Thread.orStat_rcurPhase (t : Thread) (m : Word) : (t.orStat m).rcurPhase = t.rcurPhase := rfl
@[simp] theorem Thread.orStat_epc (t : Thread) (m : Word) : (t.orStat m).epc = t.epc := rfl
@[simp] theorem Thread.orStat_ecode (t : Thread) (m : Word) : (t.orStat m).ecode = t.ecode := rfl
@[simp] theorem Thread.orStat_einfo (t : Thread) (m : Word) : (t.orStat m).einfo = t.einfo := rfl
@[simp] theorem Thread.orStat_eaddr (t : Thread) (m : Word) : (t.orStat m).eaddr = t.eaddr := rfl
@[simp] theorem Thread.orStat_ewb (t : Thread) (m : Word) : (t.orStat m).ewb = t.ewb := rfl
@[simp] theorem Thread.orStat_eix (t : Thread) (m : Word) : (t.orStat m).eix = t.eix := rfl
@[simp] theorem Thread.orStat_scr (t : Thread) (m : Word) : (t.orStat m).scr = t.scr := rfl
@[simp] theorem Thread.orStat_place (t : Thread) (m : Word) : (t.orStat m).place = t.place := rfl
@[simp] theorem Thread.orStat_pflt (t : Thread) (m : Word) : (t.orStat m).pflt = t.pflt := rfl
@[simp] theorem Thread.orStat_stopReq (t : Thread) (m : Word) : (t.orStat m).stopReq = t.stopReq := rfl
@[simp] theorem Thread.orStat_bkptStop (t : Thread) (m : Word) : (t.orStat m).bkptStop = t.bkptStop := rfl
@[simp] theorem Thread.orStat_noMatch (t : Thread) (m : Word) : (t.orStat m).noMatch = t.noMatch := rfl
@[simp] theorem Thread.orStat_stepping (t : Thread) (m : Word) : (t.orStat m).stepping = t.stepping := rfl
@[simp] theorem Thread.orStat_fenceO (t : Thread) (m : Word) : (t.orStat m).fenceO = t.fenceO := rfl
@[simp] theorem Thread.orStat_fenceA (t : Thread) (m : Word) : (t.orStat m).fenceA = t.fenceA := rfl
@[simp] theorem Thread.orStat_fenceS (t : Thread) (m : Word) : (t.orStat m).fenceS = t.fenceS := rfl
@[simp] theorem Thread.orStat_fenceL (t : Thread) (m : Word) : (t.orStat m).fenceL = t.fenceL := rfl
@[simp] theorem Thread.orStat_seen (t : Thread) (m : Word) : (t.orStat m).seen = t.seen := rfl
@[simp] theorem Thread.orStat_lapses (t : Thread) (m : Word) : (t.orStat m).lapses = t.lapses := rfl
@[simp] theorem Thread.orStat_written (t : Thread) (m : Word) : (t.orStat m).written = t.written := rfl

/-! ### Thread.withSup -/
@[simp] theorem Thread.withSup_pc (t : Thread) (b : Bool) : (t.withSup b).pc = t.pc := rfl
@[simp] theorem Thread.withSup_regs (t : Thread) (b : Bool) : (t.withSup b).regs = t.regs := rfl
@[simp] theorem Thread.withSup_landing (t : Thread) (b : Bool) : (t.withSup b).landing = t.landing := rfl
@[simp] theorem Thread.withSup_landSrc (t : Thread) (b : Bool) : (t.withSup b).landSrc = t.landSrc := rfl
@[simp] theorem Thread.withSup_wb (t : Thread) (b : Bool) : (t.withSup b).wb = t.wb := rfl
@[simp] theorem Thread.withSup_ix (t : Thread) (b : Bool) : (t.withSup b).ix = t.ix := rfl
@[simp] theorem Thread.withSup_preds (t : Thread) (b : Bool) : (t.withSup b).preds = t.preds := rfl
@[simp] theorem Thread.withSup_rmode (t : Thread) (b : Bool) : (t.withSup b).rmode = t.rmode := rfl
@[simp] theorem Thread.withSup_xa (t : Thread) (b : Bool) : (t.withSup b).xa = t.xa := rfl
@[simp] theorem Thread.withSup_rstack (t : Thread) (b : Bool) : (t.withSup b).rstack = t.rstack := rfl
@[simp] theorem Thread.withSup_spd (t : Thread) (b : Bool) : (t.withSup b).spd = t.spd := rfl
@[simp] theorem Thread.withSup_tlsb (t : Thread) (b : Bool) : (t.withSup b).tlsb = t.tlsb := rfl
@[simp] theorem Thread.withSup_ld (t : Thread) (b : Bool) : (t.withSup b).ld = t.ld := rfl
@[simp] theorem Thread.withSup_st (t : Thread) (b : Bool) : (t.withSup b).st = t.st := rfl
@[simp] theorem Thread.withSup_cp (t : Thread) (b : Bool) : (t.withSup b).cp = t.cp := rfl
@[simp] theorem Thread.withSup_tl (t : Thread) (b : Bool) : (t.withSup b).tl = t.tl := rfl
@[simp] theorem Thread.withSup_rcurRing (t : Thread) (b : Bool) : (t.withSup b).rcurRing = t.rcurRing := rfl
@[simp] theorem Thread.withSup_rcurStage (t : Thread) (b : Bool) : (t.withSup b).rcurStage = t.rcurStage := rfl
@[simp] theorem Thread.withSup_rcurPhase (t : Thread) (b : Bool) : (t.withSup b).rcurPhase = t.rcurPhase := rfl
@[simp] theorem Thread.withSup_epc (t : Thread) (b : Bool) : (t.withSup b).epc = t.epc := rfl
@[simp] theorem Thread.withSup_ecode (t : Thread) (b : Bool) : (t.withSup b).ecode = t.ecode := rfl
@[simp] theorem Thread.withSup_einfo (t : Thread) (b : Bool) : (t.withSup b).einfo = t.einfo := rfl
@[simp] theorem Thread.withSup_eaddr (t : Thread) (b : Bool) : (t.withSup b).eaddr = t.eaddr := rfl
@[simp] theorem Thread.withSup_ewb (t : Thread) (b : Bool) : (t.withSup b).ewb = t.ewb := rfl
@[simp] theorem Thread.withSup_eix (t : Thread) (b : Bool) : (t.withSup b).eix = t.eix := rfl
@[simp] theorem Thread.withSup_scr (t : Thread) (b : Bool) : (t.withSup b).scr = t.scr := rfl
@[simp] theorem Thread.withSup_place (t : Thread) (b : Bool) : (t.withSup b).place = t.place := rfl
@[simp] theorem Thread.withSup_pflt (t : Thread) (b : Bool) : (t.withSup b).pflt = t.pflt := rfl
@[simp] theorem Thread.withSup_stopReq (t : Thread) (b : Bool) : (t.withSup b).stopReq = t.stopReq := rfl
@[simp] theorem Thread.withSup_bkptStop (t : Thread) (b : Bool) : (t.withSup b).bkptStop = t.bkptStop := rfl
@[simp] theorem Thread.withSup_noMatch (t : Thread) (b : Bool) : (t.withSup b).noMatch = t.noMatch := rfl
@[simp] theorem Thread.withSup_stepping (t : Thread) (b : Bool) : (t.withSup b).stepping = t.stepping := rfl
@[simp] theorem Thread.withSup_fenceO (t : Thread) (b : Bool) : (t.withSup b).fenceO = t.fenceO := rfl
@[simp] theorem Thread.withSup_fenceA (t : Thread) (b : Bool) : (t.withSup b).fenceA = t.fenceA := rfl
@[simp] theorem Thread.withSup_fenceS (t : Thread) (b : Bool) : (t.withSup b).fenceS = t.fenceS := rfl
@[simp] theorem Thread.withSup_fenceL (t : Thread) (b : Bool) : (t.withSup b).fenceL = t.fenceL := rfl
@[simp] theorem Thread.withSup_seen (t : Thread) (b : Bool) : (t.withSup b).seen = t.seen := rfl
@[simp] theorem Thread.withSup_lapses (t : Thread) (b : Bool) : (t.withSup b).lapses = t.lapses := rfl
@[simp] theorem Thread.withSup_written (t : Thread) (b : Bool) : (t.withSup b).written = t.written := rfl

end Sys2Proof.Machine
end

