-- ==== Sys2Proof/Laws/Tables.lean ====
section
/-! SUPPORT. Tables and memories: reading after a write, and the canonical form that every write keeps. -/

namespace Sys2Proof.Machine

variable {α : Type}

@[simp] theorem tget_nil (x : Nat) : tget ([] : Tab α) x = none := rfl

@[simp] theorem tget_tput_same (t : Tab α) (x : Nat) (a : α) : tget (tput t x a) x = some a := by
  induction t with
  | nil => simp [tput, tget]
  | cons h t ih =>
    obtain ⟨k, v⟩ := h
    simp only [tput]
    split
    · simp [tget]
    · split
      · simp [tget]
      · simp [tget, *]

theorem tget_tput_ne (t : Tab α) {x y : Nat} (a : α) (h : y ≠ x) : tget (tput t x a) y = tget t y := by
  induction t with
  | nil => simp [tput, tget, h.symm]
  | cons e t ih =>
    obtain ⟨k, v⟩ := e
    simp only [tput]
    split
    · subst_vars; simp [tget, h.symm]
    · split
      · simp [tget, h.symm]
      · simp [tget, ih]

@[simp] theorem tget_tmod_same (t : Tab α) (x : Nat) (f : α → α) : tget (tmod t x f) x = (tget t x).map f := by
  induction t with
  | nil => rfl
  | cons e t ih =>
    obtain ⟨k, v⟩ := e
    simp only [tmod]
    split
    · simp [tget, *]
    · simp [tget, *]

theorem tget_tmod_ne (t : Tab α) {x y : Nat} (f : α → α) (h : y ≠ x) : tget (tmod t x f) y = tget t y := by
  induction t with
  | nil => rfl
  | cons e t ih =>
    obtain ⟨k, v⟩ := e
    simp only [tmod]
    split
    · subst_vars; simp [tget, h.symm]
    · simp [tget, ih]

theorem tget_tmod (t : Tab α) (x y : Nat) (f : α → α) :
    tget (tmod t x f) y = if y = x then (tget t y).map f else tget t y := by
  split
  · subst_vars; simp
  · exact tget_tmod_ne t f ‹_›

@[simp] theorem tget_tdel_same (t : Tab α) (x : Nat) : tget (tdel t x) x = none := by
  induction t with
  | nil => rfl
  | cons e t ih =>
    obtain ⟨k, v⟩ := e
    simp only [tdel]
    split
    · exact ih
    · simp [tget, *]

theorem tget_tdel_ne (t : Tab α) {x y : Nat} (h : y ≠ x) : tget (tdel t x) y = tget t y := by
  induction t with
  | nil => rfl
  | cons e t ih =>
    obtain ⟨k, v⟩ := e
    simp only [tdel]
    split
    · subst_vars; simp [tget, h.symm, ih]
    · simp [tget, ih]

/-- The form of a memory as a proposition: addresses rise, and no byte is 0. -/
theorem wf_iff (m : Mem) : Memory.wf m = true ↔ m.Pairwise (fun x y => x.1 < y.1) ∧ ∀ x ∈ m, x.2 ≠ 0 := by
  induction m with
  | nil => simp [Memory.wf]
  | cons e t ih =>
    obtain ⟨a, b⟩ := e
    cases t with
    | nil => simp [Memory.wf]
    | cons e' t =>
      obtain ⟨a', b'⟩ := e'
      have hw : Memory.wf ((a, b) :: (a', b') :: t) = (b != 0 && decide (a < a') && Memory.wf ((a', b') :: t)) := rfl
      rw [hw, Bool.and_eq_true, Bool.and_eq_true, ih]
      simp only [bne_iff_ne, decide_eq_true_eq, List.pairwise_cons, List.mem_cons, forall_eq_or_imp]
      constructor
      · rintro ⟨⟨hb, hl⟩, ⟨hp, hq⟩, hz, hn⟩
        exact ⟨⟨⟨hl, fun x hx => lt_trans hl (hp x hx)⟩, hp, hq⟩, hb, hz, hn⟩
      · rintro ⟨⟨⟨hl, -⟩, hp, hq⟩, hb, hz, hn⟩
        exact ⟨⟨hb, hl⟩, ⟨hp, hq⟩, hz, hn⟩

theorem mput_mem (m : Mem) (a : Nat) (b : Byte) : ∀ x ∈ mput m a b, x = (a, b) ∧ b ≠ 0 ∨ x ∈ m := by
  induction m with
  | nil => intro x hx; simp only [mput] at hx; split at hx <;> simp_all
  | cons e t ih =>
    obtain ⟨k, v⟩ := e
    intro x hx
    simp only [mput] at hx
    split at hx
    · split at hx
      · exact .inr (List.mem_cons_of_mem _ hx)
      · rcases List.mem_cons.1 hx with h | h
        · exact .inl ⟨h, ‹_›⟩
        · exact .inr (List.mem_cons_of_mem _ h)
    · split at hx
      · split at hx
        · exact .inr hx
        · rcases List.mem_cons.1 hx with h | h
          · exact .inl ⟨h, ‹_›⟩
          · exact .inr h
      · rcases List.mem_cons.1 hx with h | h
        · exact .inr (h ▸ List.mem_cons_self)
        · rcases ih x h with h | h
          · exact .inl h
          · exact .inr (List.mem_cons_of_mem _ h)

/-- A write keeps the canonical form of a memory. -/
theorem wf_mput (m : Mem) (a : Nat) (b : Byte) (h : Memory.wf m = true) : Memory.wf (mput m a b) = true := by
  rw [wf_iff] at *
  refine ⟨?_, fun x hx => ?_⟩
  · obtain ⟨hp, -⟩ := h
    induction m with
    | nil => simp only [mput]; split <;> simp
    | cons e t ih =>
      obtain ⟨k, v⟩ := e
      rw [List.pairwise_cons] at hp
      simp only [mput]
      split
      · subst_vars
        split
        · exact hp.2
        · exact List.pairwise_cons.2 ⟨fun x hx => hp.1 x hx, hp.2⟩
      · split
        · split
          · exact List.pairwise_cons.2 hp
          · refine List.pairwise_cons.2 ⟨fun x hx => ?_, List.pairwise_cons.2 hp⟩
            rcases List.mem_cons.1 hx with h | h
            · subst h; assumption
            · have := hp.1 x h; simp only at *; omega
        · refine List.pairwise_cons.2 ⟨fun x hx => ?_, ih hp.2⟩
          rcases mput_mem t a b x hx with ⟨rfl, -⟩ | h
          · simp only; omega
          · exact hp.1 x h
  · rcases mput_mem m a b x hx with ⟨rfl, hb⟩ | hx
    · exact hb
    · exact h.2 x hx

/-- Writing bytes keeps the canonical form. -/
theorem wf_mwrites (l : List Byte) : ∀ (m : Mem) (a : Nat), Memory.wf m = true → Memory.wf (mwrites m a l) = true := by
  induction l with
  | nil => exact fun _ _ h => h
  | cons b l ih => exact fun m a h => ih _ _ (wf_mput m a b h)

theorem mget_mput_ne (m : Mem) {a x : Nat} (b : Byte) (h : x ≠ a) : mget (mput m a b) x = mget m x := by
  induction m with
  | nil => simp only [mput]; split <;> simp [mget, h.symm]
  | cons e t ih =>
    obtain ⟨k, v⟩ := e
    simp only [mput]
    split
    · subst_vars; split <;> simp [mget, h.symm]
    · split
      · split <;> simp [mget, h.symm]
      · simp [mget, ih]

theorem mget_of_lt (m : Mem) (a : Nat) (h : ∀ x ∈ m, a < x.1) : mget m a = 0 := by
  induction m with
  | nil => rfl
  | cons e t ih =>
    obtain ⟨k, v⟩ := e
    have hk := h (k, v) List.mem_cons_self
    rw [mget, if_neg (by simp only at hk; omega)]
    exact ih fun x hx => h x (List.mem_cons_of_mem _ hx)

theorem mget_mput_same (m : Mem) (a : Nat) (b : Byte) (h : Memory.wf m = true) : mget (mput m a b) a = b := by
  rw [wf_iff] at h
  obtain ⟨hp, -⟩ := h
  induction m with
  | nil => simp only [mput]; split <;> simp_all [mget]
  | cons e t ih =>
    obtain ⟨k, v⟩ := e
    rw [List.pairwise_cons] at hp
    simp only [mput]
    split
    · subst_vars
      split
      · subst_vars; exact mget_of_lt t _ fun x hx => hp.1 x hx
      · simp [mget]
    · split
      · split
        · subst_vars
          rw [mget, if_neg ‹_›]
          exact mget_of_lt t _ fun x hx => lt_trans ‹_› (hp.1 x hx)
        · simp [mget]
      · rw [mget, if_neg ‹_›]; exact ih hp.2

/-- A write leaves the bytes outside it. -/
theorem mget_mwrites_out (l : List Byte) : ∀ (m : Mem) (a x : Nat), (x < a ∨ a + l.length ≤ x) →
    mget (mwrites m a l) x = mget m x := by
  induction l with
  | nil => exact fun _ _ _ _ => rfl
  | cons b l ih =>
    intro m a x h
    rw [List.length_cons] at h
    rw [mwrites, ih _ _ _ (by omega), mget_mput_ne _ _ (by omega)]

/-- A byte written reads as written. -/
theorem mget_mwrites_in (l : List Byte) : ∀ (m : Mem) (a i : Nat), Memory.wf m = true → i < l.length →
    mget (mwrites m a l) (a + i) = l.getD i 0 := by
  induction l with
  | nil => intro m a i _ h; simp at h
  | cons b l ih =>
    intro m a i hw h
    rw [mwrites]
    cases i with
    | zero => rw [mget_mwrites_out _ _ _ _ (by omega)]; simpa using mget_mput_same m a b hw
    | succ i =>
      have := ih (mput m a b) (a + 1) i (wf_mput m a b hw) (by simpa using h)
      rw [show a + (i + 1) = a + 1 + i by omega, this]
      simp

@[simp] theorem length_mreads (m : Mem) (n : Nat) : ∀ a, (mreads m a n).length = n := by
  induction n with
  | zero => exact fun _ => rfl
  | succ n ih => exact fun a => by simp [mreads, ih]

@[simp] theorem length_natLe (n : Nat) : ∀ v, (natLe n v).length = n := by
  induction n with
  | zero => exact fun _ => rfl
  | succ n ih => exact fun v => by simp [natLe, ih]

end Sys2Proof.Machine
end

