-- ==== Sys2Proof/Laws/Lanes.lean ====
section
/-! SUPPORT. What an instruction that only changes the threads of its lanes does: everything else stays, and each lane's thread
becomes what its effect gives. -/

namespace Sys2Proof.Machine

/-- f does not read the threads of the plot it is given. -/
def PlotLocal (f : Ref → Plot → Thread → Thread) : Prop := ∀ r p x, f r { p with threads := x } = f r p

theorem changesOn_nil (s : State) (f : Ref → Plot → Thread → Thread) : ChangesOn [] s s f where
  frame := rfl
  plot := fun n p h => ⟨p, h, rfl, fun i => by simp⟩
  gone := fun _ h => h

/-- One more lane. -/
theorem changesOn_cons {L : List Ref} {s t : State} {f : Ref → Plot → Thread → Thread} (h : ChangesOn L s t f) (hf : PlotLocal f)
    {r : Ref} (hr : r ∉ L) : ChangesOn (r :: L) s (t.modPlot r.tag fun p => p.modThread r.tid (f r p)) f where
  frame := by rw [State.modPlot, h.frame]
  plot := fun n p hp => by
    obtain ⟨q, hq, he, ht⟩ := h.plot n p hp
    rw [State.modPlot_plots, tget_tmod, hq]
    split
    · subst_vars
      refine ⟨_, rfl, by simp only [Plot.modThread]; rw [he], fun i => ?_⟩
      rw [Plot.modThread_threads, tget_tmod, ht]
      have hfp : f r q = f r p := by rw [he]; exact hf r p _
      split
      · subst_vars; simp [hr, hfp]
      · rename_i hi
        have : (⟨r.tag, i⟩ : Ref) ≠ r := fun h => hi (by rw [← h])
        simp [this]
    · rename_i hn
      refine ⟨q, rfl, he, fun i => ?_⟩
      have : (⟨n, i⟩ : Ref) ≠ r := fun h => hn (by rw [← h])
      simp [ht, this]
  gone := fun n hn => by rw [State.modPlot_plots, tget_tmod, h.gone n hn]; simp

/-- One change after another. -/
theorem changesOn_comp {L : List Ref} {s t u : State} {f g : Ref → Plot → Thread → Thread} (h : ChangesOn L s t f)
    (h' : ChangesOn L t u g) (hg : PlotLocal g) : ChangesOn L s u fun r p th => g r p (f r p th) where
  frame := by rw [h'.frame, h.frame]
  plot := fun n p hp => by
    obtain ⟨q, hq, he, ht⟩ := h.plot n p hp
    obtain ⟨q', hq', he', ht'⟩ := h'.plot n q hq
    have hgp : ∀ i, g ⟨n, i⟩ q = g ⟨n, i⟩ p := fun i => by rw [he]; exact hg _ p _
    refine ⟨q', hq', by rw [he', he], fun i => ?_⟩
    rw [ht', ht, Option.map_map]
    congr 1
    funext th
    simp only [Function.comp]
    split <;> simp [hgp]
  gone := fun n hn => h'.gone n (h.gone n hn)

/-- The same threads under another name of the list. -/
theorem changesOn_congr {L L' : List Ref} {s t : State} {f : Ref → Plot → Thread → Thread} (h : ChangesOn L s t f)
    (he : ∀ r, r ∈ L ↔ r ∈ L') : ChangesOn L' s t f where
  frame := h.frame
  plot := fun n p hp => by simpa only [he] using h.plot n p hp
  gone := h.gone

/-- A change of threads that exist is a change of all named ones. -/
theorem changesOn_live {L L' : List Ref} {s t : State} {f : Ref → Plot → Thread → Thread} (h : ChangesOn L s t f)
    (he : ∀ r, s.thread? r ≠ none → (r ∈ L ↔ r ∈ L')) : ChangesOn L' s t f where
  frame := h.frame
  plot := fun n p hp => by
    obtain ⟨q, hq, hqe, ht⟩ := h.plot n p hp
    refine ⟨q, hq, hqe, fun i => ?_⟩
    rw [ht]
    cases hi : tget p.threads i with
    | none => rfl
    | some th => simp only [Option.map_some, he ⟨n, i⟩ (by simp [State.thread?, hp, hi])]
  gone := h.gone

/-- A thread after the change. -/
theorem ChangesOn.thread {L : List Ref} {s t : State} {f : Ref → Plot → Thread → Thread} (h : ChangesOn L s t f) {r : Ref} {p : Plot}
    {th : Thread} (hp : tget s.plots r.tag = some p) (ht : s.thread? r = some th) :
    t.thread? r = some (if r ∈ L then f r p th else th) := by
  obtain ⟨q, hq, -, hi⟩ := h.plot r.tag p hp
  rw [State.thread?, hp] at ht
  rw [State.thread?, hq]
  simp only at ht ⊢
  rw [hi, ht]
  rfl

theorem ChangesOn.thread_none {L : List Ref} {s t : State} {f : Ref → Plot → Thread → Thread} (h : ChangesOn L s t f) {r : Ref}
    (hr : s.thread? r = none) : t.thread? r = none := by
  rw [State.thread?] at hr ⊢
  cases hp : tget s.plots r.tag with
  | none => rw [h.gone _ hp]
  | some p =>
    obtain ⟨q, hq, -, hi⟩ := h.plot r.tag p hp
    rw [hp] at hr
    rw [hq]
    simp only at hr ⊢
    rw [hi, hr]
    rfl

/-! ## The fold over the lanes -/

theorem State.thread?_some {s : State} {r : Ref} {th : Thread} (h : s.thread? r = some th) :
    ∃ p, tget s.plots r.tag = some p ∧ tget p.threads r.tid = some th := by
  rw [State.thread?] at h
  cases hp : tget s.plots r.tag with
  | none => simp [hp] at h
  | some p => exact ⟨p, rfl, by simpa [hp] using h⟩

theorem tmod_congr {α : Type} (t : Tab α) (x : Nat) (f g : α → α) (h : ∀ a, tget t x = some a → f a = g a) :
    tmod t x f = tmod t x g := by
  induction t with
  | nil => rfl
  | cons e t ih =>
    obtain ⟨k, v⟩ := e
    simp only [tmod]
    split
    · subst_vars; rw [h v (by simp [tget])]
    · rw [ih fun a ha => h a (by simp [tget, *])]

theorem tmod_tmod {α : Type} (t : Tab α) (x : Nat) (f g : α → α) : tmod (tmod t x f) x g = tmod t x fun a => g (f a) := by
  induction t with
  | nil => rfl
  | cons e t ih =>
    obtain ⟨k, v⟩ := e
    simp only [tmod]
    split
    · subst_vars; simp [tmod]
    · simp [tmod, *]

/-- Replacing a thread by its image is changing it. -/
theorem State.setThread_eq {s : State} {r : Ref} {p : Plot} {th : Thread} (f : Ref → Plot → Thread → Thread)
    (hp : tget s.plots r.tag = some p) (ht : s.thread? r = some th) :
    s.setThread r (f r p th) = s.modPlot r.tag fun p => p.modThread r.tid (f r p) := by
  rw [State.setThread, State.modThread, State.modPlot, State.modPlot]
  congr 1
  refine tmod_congr _ _ _ _ fun q hq => ?_
  rw [hp] at hq
  cases hq
  rw [Plot.modThread, Plot.modThread]
  congr 1
  refine tmod_congr _ _ _ _ fun u hu => ?_
  rw [State.thread?, hp] at ht
  simp only at ht
  rw [ht] at hu
  cases hu
  rfl

/-- Lanes that each go on: the lane function leaves all but its own thread, and the drill is as before. -/
def Goes (F : LaneFn) (f : Ref → Plot → Thread → Thread) (s : State) (r : Ref) : Prop :=
  ∀ t p th, t = { s with plots := t.plots } → tget t.plots r.tag = some p → t.thread? r = some th → s.thread? r = some th →
    (∃ q, tget s.plots r.tag = some q ∧ p = { q with threads := p.threads }) →
    F t r p th = (t.setThread r (f r p th), .next)

theorem foldl_runLane {F : LaneFn} {f : Ref → Plot → Thread → Thread} {s : State} (hf : PlotLocal f) :
    ∀ (L D : List Ref) (t : State) (O : List (Ref × Out)), (∀ r ∈ L, Goes F f s r) → (L ++ D).Nodup → ChangesOn D s t f →
      (∀ x ∈ O, x.2 = .next) →
      ∃ u O', List.foldl (runLane F) (t, O) L = (u, O') ∧ ChangesOn (L ++ D) s u f ∧ (∀ x ∈ O', x.2 = .next) ∧
        O'.map Prod.fst = O.map Prod.fst ++ L.filter (fun r => (s.thread? r).isSome) := by
  intro L
  induction L with
  | nil => intro D t O _ _ h hO; exact ⟨t, O, rfl, h, hO, by simp⟩
  | cons r L ih =>
    intro D t O hg hn h hO
    rw [List.cons_append, List.nodup_cons] at hn
    rw [List.foldl_cons]
    have hrD : r ∉ D := fun hd => hn.1 (List.mem_append_right _ hd)
    have hnd : (L ++ r :: D).Nodup := by
      rw [List.nodup_append] at hn ⊢
      simp only [List.mem_append, not_or] at hn
      refine ⟨hn.2.1, List.nodup_cons.2 ⟨hrD, hn.2.2.1⟩, ?_⟩
      intro a ha b hb
      rcases List.mem_cons.1 hb with hb | hb
      · subst hb; rintro rfl; exact hn.1.1 ha
      · exact hn.2.2.2 a ha b hb
    have hmem : ∀ x, x ∈ L ++ r :: D ↔ x ∈ r :: L ++ D := by intro x; simp; tauto
    cases hs : s.thread? r with
    | none =>
      have ht := h.thread_none hs
      have hstep : runLane F (t, O) r = (t, O) := by rw [runLane]; simp only [ht]; split <;> simp_all
      rw [hstep]
      have h' : ChangesOn (r :: D) s t f := changesOn_live h fun x hx => by
        constructor
        · exact List.mem_cons_of_mem _
        · intro hm
          rcases List.mem_cons.1 hm with rfl | hm
          · exact absurd hs hx
          · exact hm
      obtain ⟨u, O', h1, h2, h3, h4⟩ := ih (r :: D) t O (fun x hx => hg x (List.mem_cons_of_mem _ hx)) hnd h' hO
      exact ⟨u, O', h1, changesOn_congr h2 hmem, h3, by rw [h4]; simp [hs]⟩
    | some th =>
      obtain ⟨p, hp, -⟩ := State.thread?_some hs
      obtain ⟨q, hq, hqe, -⟩ := h.plot _ _ hp
      have htt := h.thread hp hs
      rw [if_neg hrD] at htt
      have hF := hg r List.mem_cons_self t q th h.frame hq htt hs ⟨p, hp, hqe⟩
      have hstep : runLane F (t, O) r = (t.setThread r (f r q th), O ++ [(r, .next)]) := by
        rw [runLane]; simp only [hq, htt, hF]
      rw [hstep, State.setThread_eq f hq htt]
      obtain ⟨u, O', h1, h2, h3, h4⟩ := ih (r :: D) _ (O ++ [(r, .next)]) (fun x hx => hg x (List.mem_cons_of_mem _ hx)) hnd
        (changesOn_cons h hf hrD) (by
          intro x hx
          rcases List.mem_append.1 hx with hx | hx
          · exact hO x hx
          · simp only [List.mem_singleton] at hx; rw [hx])
      exact ⟨u, O', h1, changesOn_congr h2 hmem, h3, by rw [h4]; simp [hs]⟩

/-- Going on in the drill. -/
def bump : Ref → Plot → Thread → Thread := fun _ _ th => { th with pc := th.pc4 }

theorem foldl_settle {s : State} (w : Word) (m : DWord) (k : Nat) :
    ∀ (O : List (Ref × Out)) (D : List Ref) (t : State), (∀ x ∈ O, x.2 = .next) → (O.map Prod.fst ++ D).Nodup →
      ChangesOn D s t bump →
      ChangesOn (O.map Prod.fst ++ D) s (O.foldl (fun s x => s.settleLane w m k x) t) bump := by
  intro O
  induction O with
  | nil => intro D t _ _ h; simpa using h
  | cons x O ih =>
    intro D t hO hn h
    obtain ⟨r, o⟩ := x
    have ho : o = .next := hO (r, o) List.mem_cons_self
    subst ho
    simp only [List.map_cons, List.cons_append, List.nodup_cons] at hn
    rw [List.foldl_cons]
    have hrD : r ∉ D := fun hd => hn.1 (List.mem_append_right _ hd)
    have hnd : (O.map Prod.fst ++ r :: D).Nodup := by
      rw [List.nodup_append] at hn ⊢
      simp only [List.mem_append, not_or] at hn
      refine ⟨hn.2.1, List.nodup_cons.2 ⟨hrD, hn.2.2.1⟩, ?_⟩
      intro a ha b hb
      rcases List.mem_cons.1 hb with hb | hb
      · subst hb; rintro rfl; exact hn.1.1 ha
      · exact hn.2.2.2 a ha b hb
    refine changesOn_congr (ih (r :: D) _ (fun y hy => hO y (List.mem_cons_of_mem _ hy)) hnd (changesOn_cons h (fun _ _ _ => rfl) hrD))
      fun y => ?_
    simp; tauto

/-- When every lane goes on, settling moves every PC on by 4. -/
theorem settle_next {s : State} {O : List (Ref × Out)} (hO : ∀ x ∈ O, x.2 = .next) (hn : (O.map Prod.fst).Nodup) :
    ChangesOn (O.map Prod.fst) s (s.settle O) bump := by
  have h1 : ∀ x ∈ O, x.2.isRegroup = false := fun x hx => by rw [hO x hx]; rfl
  have h2 : ∀ x ∈ O, x.2.isGoto = false := fun x hx => by rw [hO x hx]; rfl
  have h3 : ∀ x ∈ O, x.2.mayRecord = false := fun x hx => by rw [hO x hx]; rfl
  have hf := foldl_settle s.cur.word (maskOf O) s.cur.slot O [] s hO (by simpa using hn) (changesOn_nil s bump)
  rw [List.append_nil] at hf
  have hg : (O.filter fun x => x.2.stays).filter (fun x => x.2.isGoto) = [] := by
    rw [List.filter_eq_nil_iff]; intro x hx; simp [h2 x (List.mem_of_mem_filter hx)]
  have hr : (O.filter fun x => x.2.stays).any (fun x => x.2.isRegroup) = false := by
    rw [List.any_eq_false]; intro x hx; simp [h1 x (List.mem_of_mem_filter hx)]
  have hm : O.filter (fun x => x.2.mayRecord) = [] := by
    rw [List.filter_eq_nil_iff]; intro x hx; simp [h3 x hx]
  have he : s.settle O = O.foldl (fun s' x => s'.settleLane s.cur.word (maskOf O) s.cur.slot x) s := by
    rw [State.settle]
    simp only [hr, hg, List.map_nil, State.split, State.recCtxs, hm, List.isEmpty_nil, true_or, if_true, List.eraseDups_nil,
      List.foldl_nil, Bool.false_eq_true, if_false]
  rw [he]
  exact hf

/-- When every lane goes on, none waits. -/
theorem settleOr_next {u s : State} {O : List (Ref × Out)} (hO : ∀ x ∈ O, x.2 = .next) : u.settleOr s O = u.settle O := by
  have : O.any (fun x => x.2.waits) = false := List.any_eq_false.2 fun x hx => by rw [hO x hx]; simp [Out.waits]
  simp [State.settleOr, this]

/-- An instruction whose lanes all go on. -/
theorem runLanes_next {F : LaneFn} {f : Ref → Plot → Thread → Thread} {s : State} (hf : PlotLocal f) (hn : s.cur.lanes.Nodup)
    (hg : ∀ r ∈ s.cur.lanes, Goes F f s r) :
    ChangesOn s.cur.lanes s (runLanes F s) fun r p th => { f r p th with pc := (f r p th).pc4 } := by
  obtain ⟨u, O, h1, h2, h3, h4⟩ := foldl_runLane hf s.cur.lanes [] s [] hg (by simpa using hn) (changesOn_nil s f) (by simp)
  rw [List.map_nil, List.nil_append] at h4
  rw [List.append_nil] at h2
  have hr : runLanes F s = u.settle O := by rw [runLanes, h1]; exact settleOr_next h3
  rw [hr]
  have hs := settle_next (s := u) h3 (by rw [h4]; exact hn.filter _)
  have hlive : ∀ r, u.thread? r ≠ none → (r ∈ O.map Prod.fst ↔ r ∈ s.cur.lanes) := by
    intro r hr
    rw [h4, List.mem_filter]
    refine ⟨fun h => h.1, fun h => ⟨h, ?_⟩⟩
    cases hs' : s.thread? r with
    | none => exact absurd (h2.thread_none hs') hr
    | some _ => rfl
  exact changesOn_comp h2 (changesOn_live hs hlive) (fun _ _ _ => rfl)

/-- The effect of a register instruction in one lane. -/
def pureEffect (guard : Thread → Bool) (eff : Env → Thread → Thread) (cycle : Nat) : Ref → Plot → Thread → Thread := fun r p th =>
  if guard th then eff { k := p.k, tid := r.tid, cycle := cycle } th else th

theorem pureEffect_local (guard : Thread → Bool) (eff : Env → Thread → Thread) (n : Nat) : PlotLocal (pureEffect guard eff n) :=
  fun _ _ _ => rfl

/-- A register instruction whose registers are in range in every lane where its guard holds. -/
theorem runPure_next {guard : Thread → Bool} {ops : List (Reg × Nat)} {eff : Env → Thread → Thread} {s : State}
    (hn : s.cur.lanes.Nodup) (hr : ∀ r ∈ s.cur.lanes, ∀ th, s.thread? r = some th → guard th = true → th.inRanges ops = true) :
    ChangesOn s.cur.lanes s (runPure guard ops eff s) fun r p th =>
      { pureEffect guard eff s.cycle r p th with pc := (pureEffect guard eff s.cycle r p th).pc4 } := by
  refine runLanes_next (pureEffect_local guard eff s.cycle) hn fun r hrl t p th ht hp hth hs _ => ?_
  rw [pureLane, pureEffect]
  have hc : t.cycle = s.cycle := by rw [ht]
  cases hgd : guard th with
  | false =>
    simp only [Bool.not_false, if_true, Bool.false_eq_true, if_false]
    have he : t.setThread r th = t.modPlot r.tag fun p => p.modThread r.tid fun x => x :=
      State.setThread_eq (fun _ _ x => x) hp hth
    have hid : ∀ {α : Type} (l : Tab α) (x : Nat) (f : α → α), (∀ a, f a = a) → tmod l x f = l := by
      intro α l x f hf
      induction l with
      | nil => rfl
      | cons e l ih => obtain ⟨k, v⟩ := e; simp only [tmod]; split <;> simp [hf, ih]
    rw [he, State.modPlot, hid _ _ _ fun p => by rw [Plot.modThread, hid _ _ _ fun _ => rfl]]
  | true => simp only [Bool.not_true, Bool.false_eq_true, if_false, hr r hrl th hs hgd, if_true, State.env, hc]

/-! ## Instructions that are register instructions -/

theorem ChangesOn.congr {L : List Ref} {s t : State} {f g : Ref → Plot → Thread → Thread} (h : ChangesOn L s t f)
    (hfg : ∀ r p th, f r p th = g r p th) : ChangesOn L s t g := by
  have : f = g := by funext r p th; exact hfg r p th
  exact this ▸ h

/-- An instruction whose meaning is runPure computes its effect. -/
theorem computes_of_pure {i : Instr} {guard guard' : Thread → Bool} {ops : List (Reg × Nat)} {eff eff' : Env → Thread → Thread}
    (hx : ∀ s, exec i s = .next (runPure guard ops eff s)) (hg : ∀ t, guard t = guard' t) (he : ∀ e t, eff e t = eff' e t)
    (hpc : ∀ e t, (eff e t).pc = t.pc) : Computes i guard' ops eff' := by
  have hg' : guard = guard' := funext hg
  have he' : eff = eff' := by funext e t; exact he e t
  subst hg' he'
  intro s hn hr
  refine ⟨_, hx s, (runPure_next hn hr).congr fun r p th => ?_⟩
  rw [pureEffect, Thread.pc4]
  split <;> simp [hpc]

@[simp] theorem Thread.pc_wr32 (t : Thread) (r : Reg) (v : Word) : (t.wr32 r v).pc = t.pc := by
  cases r <;> rfl

theorem Thread.setRegs_pc (l : List Word) : ∀ (t : Thread) (x : Nat), (t.setRegs x l).pc = t.pc := by
  induction l with
  | nil => exact fun _ _ => rfl
  | cons v l ih => exact fun t x => by rw [Thread.setRegs, ih]; rfl

@[simp] theorem Thread.pc_wrWords (t : Thread) (r : Reg) (l : List Word) : (t.wrWords r l).pc = t.pc := by
  rw [Thread.wrWords]; split <;> simp [Thread.setRegs_pc]

@[simp] theorem Thread.pc_wr64 (t : Thread) (r : Reg) (v : DWord) : (t.wr64 r v).pc = t.pc := Thread.pc_wrWords ..

@[simp] theorem Thread.pc_wr128 (t : Thread) (r : Reg) (v : Quad) : (t.wr128 r v).pc = t.pc := Thread.pc_wrWords ..

@[simp] theorem Thread.pc_setPred (t : Thread) (p : Nat) (b : Bool) : (t.setPred p b).pc = t.pc := by
  rw [Thread.setPred]; split <;> rfl

@[simp] theorem Thread.pc_setPreds (l : List Bool) : ∀ (t : Thread) (p : Nat), (t.setPreds p l).pc = t.pc := by
  induction l with
  | nil => exact fun _ _ => rfl
  | cons b l ih => exact fun t p => by rw [Thread.setPreds, ih]; exact Thread.pc_setPred ..

@[simp] theorem guardTR_eq (g : Fin 8) (t : Thread) : gTR g t = guardTR g t := by
  rw [gTR, Thread.guard, Thread.pred, guardTR]

@[simp] theorem guardY_eq (g : Fin 128) (t : Thread) : gY g t = guardY g t := by
  rw [gY, Thread.pred, guardY]

end Sys2Proof.Machine
end

