-- ==== Sys2Proof/Laws/Memory.lean ====
section
/-! SUPPORT. Every operation over a memory keeps its canonical form, and what a write leaves to be read: device memory, scratchpads, pin
areas. -/

namespace Sys2Proof.Machine

/-! ## The canonical form -/

theorem wf_filter (m : Mem) (p : Nat × Byte → Bool) (h : Memory.wf m = true) : Memory.wf (m.filter p) = true := by
  rw [wf_iff] at *
  exact ⟨h.1.filter _, fun x hx => h.2 x (List.mem_of_mem_filter hx)⟩

theorem wf_memPart (m : Mem) (a n : Nat) (h : Memory.wf m = true) : Memory.wf (memPart m a n) = true := wf_filter m _ h

theorem wf_memWithout (m : Mem) (a n : Nat) (h : Memory.wf m = true) : Memory.wf (memWithout m a n) = true := wf_filter m _ h

theorem wf_foldl_mput (l : List (Nat × Byte)) : ∀ m : Mem, Memory.wf m = true → Memory.wf (l.foldl (fun m x => mput m x.1 x.2) m) = true := by
  induction l with
  | nil => exact fun m h => h
  | cons x l ih => exact fun m h => ih _ (wf_mput m x.1 x.2 h)

theorem wf_foldl_mput_at (f : Nat → Nat) (l : List (Nat × Byte)) :
    ∀ m : Mem, Memory.wf m = true → Memory.wf (l.foldl (fun m x => mput m (f x.1) x.2) m) = true := by
  induction l with
  | nil => exact fun m h => h
  | cons x l ih => exact fun m h => ih _ (wf_mput m (f x.1) x.2 h)

theorem wf_memCopy (into : Mem) (at' : Nat) (src : Mem) (a n : Nat) (h : Memory.wf into = true) : Memory.wf (memCopy into at' src a n) = true :=
  wf_foldl_mput_at (fun k => at' + (k - a)) _ _ (wf_memWithout into at' n h)

/-- Every byte that a memory made from bytes lists is one of them, no 0, at an address from the first on. -/
theorem mem_memOf (l : List Byte) : ∀ a, ∀ x ∈ memOf a l, a ≤ x.1 ∧ x.2 ≠ 0 := by
  induction l with
  | nil => intro a x hx; simp [memOf] at hx
  | cons b l ih =>
    intro a x hx
    simp only [memOf] at hx
    split at hx
    · exact ⟨Nat.le_of_succ_le (ih (a + 1) x hx).1, (ih (a + 1) x hx).2⟩
    · rcases List.mem_cons.1 hx with rfl | hx
      · exact ⟨Nat.le_refl _, by assumption⟩
      · exact ⟨Nat.le_of_succ_le (ih (a + 1) x hx).1, (ih (a + 1) x hx).2⟩

/-- A memory made from the bytes of an image has the canonical form. -/
theorem wf_memOf (l : List Byte) : ∀ a, Memory.wf (memOf a l) = true := by
  induction l with
  | nil => intro a; rfl
  | cons b l ih =>
    intro a
    simp only [memOf]
    split
    · exact ih (a + 1)
    · next hb =>
      rw [wf_iff]
      have g := (wf_iff _).1 (ih (a + 1))
      refine ⟨List.pairwise_cons.2 ⟨fun x hx => (mem_memOf l (a + 1) x hx).1, g.1⟩, fun x hx => ?_⟩
      rcases List.mem_cons.1 hx with rfl | hx
      · exact hb
      · exact g.2 x hx

/-- Memory right after reset has the canonical form: nothing is listed. -/
theorem reset_memoriesOk : State.reset.memoriesOk := ⟨rfl, by simp [State.reset], by simp [State.reset]⟩

/-! ## The machine's memories -/

/-- An entry of a changed table is an entry of the table, or the changed one. -/
theorem mem_tmod {α : Type} (t : Tab α) (x : Nat) (f : α → α) : ∀ e ∈ tmod t x f, e ∈ t ∨ ∃ a, (e.1, a) ∈ t ∧ e.2 = f a := by
  induction t with
  | nil => simp [tmod]
  | cons h t ih =>
    obtain ⟨k, v⟩ := h
    intro e he
    simp only [tmod] at he
    split at he
    · rcases List.mem_cons.1 he with rfl | he
      · exact .inr ⟨v, by simp, rfl⟩
      · exact .inl (List.mem_cons_of_mem _ he)
    · rcases List.mem_cons.1 he with rfl | he
      · exact .inl (by simp)
      · rcases ih e he with h | ⟨a, h, g⟩
        · exact .inl (List.mem_cons_of_mem _ h)
        · exact .inr ⟨a, List.mem_cons_of_mem _ h, g⟩

/-- An entry of a table after a put is the one put, or was there. -/
theorem mem_tput {α : Type} (t : Tab α) (x : Nat) (a : α) : ∀ e ∈ tput t x a, e = (x, a) ∨ e ∈ t := by
  induction t with
  | nil => simp [tput]
  | cons h t ih =>
    obtain ⟨k, v⟩ := h
    intro e he
    simp only [tput] at he
    split at he
    · rcases List.mem_cons.1 he with rfl | he
      · exact .inl rfl
      · exact .inr (List.mem_cons_of_mem _ he)
    · split at he
      · rcases List.mem_cons.1 he with rfl | he
        · exact .inl rfl
        · exact .inr he
      · rcases List.mem_cons.1 he with rfl | he
        · exact .inr (by simp)
        · rcases ih e he with h | h
          · exact .inl h
          · exact .inr (List.mem_cons_of_mem _ h)

theorem mem_of_tget {α : Type} (t : Tab α) (x : Nat) (a : α) (h : tget t x = some a) : (x, a) ∈ t := by
  induction t with
  | nil => simp at h
  | cons e t ih =>
    obtain ⟨k, v⟩ := e
    simp only [tget] at h
    split at h
    · next hk => subst hk; injection h with h; subst h; simp
    · exact List.mem_cons_of_mem _ (ih h)

/-- A state with the same memory, plots and cores has its memories in the same form. -/
theorem State.memoriesOk_of_same {s t : State} (h : s.memoriesOk) (m : t.mem = s.mem) (p : t.plots = s.plots) (c : t.cores = s.cores) :
    t.memoriesOk := by
  unfold State.memoriesOk; rw [m, p, c]; exact h

/-- A change of a plot that keeps its scratchpad's form. -/
theorem State.memoriesOk_modPlot {s : State} (n : Nat) (f : Plot → Plot) (h : s.memoriesOk)
    (g : ∀ p, Memory.wf p.spad = true → Memory.wf (f p).spad = true) : (s.modPlot n f).memoriesOk := by
  refine ⟨h.1, fun x hx => ?_, h.2.2⟩
  rcases mem_tmod s.plots n f x hx with hx | ⟨a, ha, e⟩
  · exact h.2.1 x hx
  · rw [e]; exact g a (h.2.1 _ ha)

theorem State.memoriesOk_modThread {s : State} (r : Ref) (f : Thread → Thread) (h : s.memoriesOk) : (s.modThread r f).memoriesOk :=
  State.memoriesOk_modPlot _ _ h fun _ g => g

/-- The pin area of every core has the form. -/
theorem State.wf_pin {s : State} (h : s.memoriesOk) (c : Nat) : Memory.wf (s.core c).pin = true := by
  unfold State.core
  cases e : tget s.cores c with
  | none => simp [Core.reset, Memory.wf]
  | some k => exact h.2.2 _ (mem_of_tget s.cores c k e)

/-- A change of a core that keeps its pin area's form. -/
theorem State.memoriesOk_modCore {s : State} (c : Nat) (f : Core → Core) (h : s.memoriesOk)
    (g : ∀ k, Memory.wf k.pin = true → Memory.wf (f k).pin = true) : (s.modCore c f).memoriesOk := by
  refine ⟨h.1, h.2.1, fun x hx => ?_⟩
  rcases mem_tput s.cores c _ x hx with rfl | hx
  · exact g _ (State.wf_pin h c)
  · exact h.2.2 x hx

/-! ## The writes -/

theorem State.sowRow_same (s : State) (y : Nat) (k : Option Nat) :
    (s.sowRow y k).mem = s.mem ∧ (s.sowRow y k).plots = s.plots ∧ (s.sowRow y k).cores = s.cores := by
  unfold State.sowRow; split <;> exact ⟨rfl, rfl, rfl⟩

/-- A write of device memory changes the bytes written, and no plot and no core. -/
theorem State.writeLocal_spec (s : State) (w : Option Ref) (a : Nat) (l : List Byte) (k : Option Nat) (src : Option SyncSrc) :
    (s.writeLocal w a l k src).mem = mwrites s.mem a l ∧ (s.writeLocal w a l k src).plots = s.plots ∧
      (s.writeLocal w a l k src).cores = s.cores := by
  unfold State.writeLocal
  by_cases h : l.length = 0
  · obtain rfl := List.length_eq_zero_iff.1 h
    exact ⟨rfl, rfl, rfl⟩
  · obtain ⟨m, p, c⟩ := State.sowRow_same s (lineOf a) k
    obtain ⟨m', p', c'⟩ := State.sowRow_same (s.sowRow (lineOf a) k) (lineOf (a + l.length - 1)) k
    simp only [h, if_false, State.dropReservations, State.hitWatches]
    split
    · exact ⟨by rw [m], p, c⟩
    · exact ⟨by rw [m', m], p'.trans p, c'.trans c⟩

theorem State.memoriesOk_writeLocal {s : State} (w : Option Ref) (a : Nat) (l : List Byte) (k : Option Nat) (src : Option SyncSrc)
    (h : s.memoriesOk) : (s.writeLocal w a l k src).memoriesOk := by
  obtain ⟨m, p, c⟩ := State.writeLocal_spec s w a l k src
  unfold State.memoriesOk
  rw [m, p, c]
  exact ⟨wf_mwrites l _ _ h.1, h.2⟩

/-- A byte outside a write of device memory reads as before. -/
theorem State.writeLocal_out (s : State) (w : Option Ref) {a x : Nat} (l : List Byte) (k : Option Nat) (src : Option SyncSrc)
    (h : x < a ∨ a + l.length ≤ x) : mget (s.writeLocal w a l k src).mem x = mget s.mem x := by
  rw [(State.writeLocal_spec s w a l k src).1]; exact mget_mwrites_out l _ _ _ h

/-- A byte of a write of device memory reads as written. -/
theorem State.writeLocal_in {s : State} (w : Option Ref) {a i : Nat} (l : List Byte) (k : Option Nat) (src : Option SyncSrc)
    (h : s.memoriesOk) (g : i < l.length) : mget (s.writeLocal w a l k src).mem (a + i) = l.getD i 0 := by
  rw [(State.writeLocal_spec s w a l k src).1]; exact mget_mwrites_in l _ _ _ h.1 g

theorem State.memoriesOk_spadPut {s : State} (tag off : Nat) (l : List Byte) (src : Option SyncSrc) (h : s.memoriesOk) :
    (s.spadPut tag off l src).memoriesOk :=
  State.memoriesOk_modPlot _ _ h fun _ g => wf_mwrites l _ _ g

/-- What a scratchpad write leaves: the written plot's bytes, and every other plot's scratchpad as it was. -/
theorem State.spadPut_spec (s : State) (tag off : Nat) (l : List Byte) (src : Option SyncSrc) {p : Plot} (h : tget s.plots tag = some p) :
    (∃ q, tget (s.spadPut tag off l src).plots tag = some q ∧ q.spad = mwrites p.spad off l) ∧
      ∀ n, n ≠ tag → tget (s.spadPut tag off l src).plots n = tget s.plots n := by
  unfold State.spadPut State.modPlot
  exact ⟨⟨_, by rw [tget_tmod_same, h]; rfl, rfl⟩, fun n g => tget_tmod_ne _ _ g⟩

theorem State.memoriesOk_countFrame (a n : Nat) {s : State} (h : s.memoriesOk) : (s.countFrame a n).memoriesOk := by
  unfold State.countFrame
  generalize List.range (n / 128) = l
  induction l generalizing s with
  | nil => exact h
  | cons i l ih =>
    refine ih (s := s.countUnsown (a + 128 * i)) ?_
    unfold State.countUnsown
    split
    · exact h
    · exact State.memoriesOk_of_same h rfl rfl rfl

/-- A request that goes out on a port touches no memory, no plot and no core. -/
theorem State.usePort_same (s : State) (d : Nat) (rc : RC) :
    (s.usePort d rc).mem = s.mem ∧ (s.usePort d rc).plots = s.plots ∧ (s.usePort d rc).cores = s.cores := by
  unfold State.usePort
  split
  · unfold State.sendFlit
    split
    · exact ⟨rfl, rfl, rfl⟩
    · split <;> exact ⟨rfl, rfl, rfl⟩
  · exact ⟨rfl, rfl, rfl⟩

theorem State.memoriesOk_farLines (d n : Nat) {s : State} (h : s.memoriesOk) : (s.farLines d n).memoriesOk := by
  induction n generalizing s with
  | zero => exact h
  | succ n ih => obtain ⟨m, p, c⟩ := State.usePort_same s d .a; exact ih (State.memoriesOk_of_same h m p c)

theorem State.memoriesOk_pinIn {s t : State} (frame own n : Nat) (h : s.memoriesOk) (e : s.pinIn frame own n = some t) : t.memoriesOk := by
  unfold State.pinIn at e
  split at e
  · cases e; exact h
  split at e
  · cases e
  · next off _ =>
    simp only [Option.some.injEq] at e
    have h1 : (s.turnPin own off n).memoriesOk := State.memoriesOk_of_same h rfl rfl rfl
    split at e
    all_goals subst e
    · exact State.memoriesOk_modCore _ _ (State.memoriesOk_countFrame _ _ h1) fun _ _ => wf_memCopy _ _ _ _ _ (State.wf_pin h1 _)
    · exact State.memoriesOk_modCore _ _ (State.memoriesOk_of_same (State.memoriesOk_farLines _ _ h1) rfl rfl rfl)
        fun _ _ => wf_mwrites _ _ _ (State.wf_pin h1 _)

theorem State.memoriesOk_unsow {s : State} (out : Nat → Bool) (h : s.memoriesOk) : (s.unsow out).memoriesOk := ⟨wf_filter _ _ h.1, h.2⟩

/-! ## An access changes the caches' tags and directories alone -/

@[simp] theorem State.touch_mem (s : State) (c : Nat) (e : TbEntry) (va pa n : Nat) (w y : Bool) : (s.touch c e va pa n w y).mem = s.mem := rfl
@[simp] theorem State.touch_sown (s : State) (c : Nat) (e : TbEntry) (va pa n : Nat) (w y : Bool) : (s.touch c e va pa n w y).sown = s.sown := rfl
@[simp] theorem State.touch_relTags (s : State) (c : Nat) (e : TbEntry) (va pa n : Nat) (w y : Bool) :
    (s.touch c e va pa n w y).relTags = s.relTags := rfl
@[simp] theorem State.touch_cores (s : State) (c : Nat) (e : TbEntry) (va pa n : Nat) (w y : Bool) : (s.touch c e va pa n w y).cores = s.cores := rfl
@[simp] theorem State.touch_plots (s : State) (c : Nat) (e : TbEntry) (va pa n : Nat) (w y : Bool) : (s.touch c e va pa n w y).plots = s.plots := rfl
@[simp] theorem State.touch_reqs (s : State) (c : Nat) (e : TbEntry) (va pa n : Nat) (w y : Bool) : (s.touch c e va pa n w y).reqs = s.reqs := rfl

/-- What a touch can change: L2, the LLC, the two directories, the hits of pinned windows, and the draw counter. -/
theorem State.touch_only (s : State) (c : Nat) (e : TbEntry) (va pa n : Nat) (w y : Bool) :
    let t := s.touch c e va pa n w y
    t = { s with l2 := t.l2, llc := t.llc, lineDir := t.lineDir, regionDir := t.regionDir, ctxs := t.ctxs, freeCtr := t.freeCtr } := rfl

theorem State.memoriesOk_touch {s : State} (c : Nat) (e : TbEntry) (va pa n : Nat) (w y : Bool) (h : s.memoriesOk) :
    (s.touch c e va pa n w y).memoriesOk := State.memoriesOk_of_same h rfl rfl rfl

/-- A write at any place of Table 9.4 keeps the canonical form. -/
theorem State.memoriesOk_wrPhys {s : State} (c : Nat) (b : Option Ref) (e : TbEntry) (va pa : Nat) (l : List Byte) (src : Option SyncSrc) (y : Bool)
    (h : s.memoriesOk) : (s.wrPhys c b e va pa l src y).memoriesOk := by
  unfold State.wrPhys
  split
  · exact State.memoriesOk_modCore _ _ (State.memoriesOk_of_same h rfl rfl rfl) fun _ g => wf_mwrites l _ _ g
  · exact State.memoriesOk_writeLocal _ _ _ _ _ (State.memoriesOk_touch _ _ _ _ _ _ _ h)

/-! ## The operations that move a thread touch no memory -/

theorem State.memoriesOk_leaveDrill {s : State} (r : Ref) (h : s.memoriesOk) : (s.leaveDrill r).memoriesOk := by
  unfold State.leaveDrill
  split
  · split
    · refine State.memoriesOk_modCore _ _ h fun k g => ?_
      dsimp only
      split
      · exact g
      · exact g
    · exact h
  · exact h

theorem State.memoriesOk_toHeadland {s : State} (r : Ref) (w : Reason) (h : s.memoriesOk) : (s.toHeadland r w).memoriesOk :=
  State.memoriesOk_modThread _ _ (State.memoriesOk_leaveDrill r h)

theorem State.memoriesOk_stillTract {s : State} (n : Nat) (h : s.memoriesOk) : (s.stillTract n).memoriesOk := by
  refine ⟨h.1, fun x hx => ?_, h.2.2⟩
  obtain ⟨y, hy, rfl⟩ := List.mem_map.1 hx
  have g := h.2.1 y hy
  dsimp only
  split <;> exact g

theorem State.memoriesOk_stopThread {s : State} (r : Ref) (tag : Option Nat) (h : s.memoriesOk) : (s.stopThread r tag).memoriesOk := by
  have h1 := State.memoriesOk_modThread r (fun t => { t with stopReq := false, stepping := false, noMatch := true, bkptStop := tag })
    (State.memoriesOk_toHeadland r .stopped h)
  unfold State.stopThread
  simp only
  split
  · exact State.memoriesOk_of_same h1 rfl rfl rfl
  · split
    · split
      · exact State.memoriesOk_stillTract _ (State.memoriesOk_of_same h1 rfl rfl rfl)
      · exact State.memoriesOk_of_same h1 rfl rfl rfl
    · exact State.memoriesOk_of_same h1 rfl rfl rfl

theorem State.memoriesOk_fileThread {s : State} (r : Ref) (pc : DWord) (n : Nat) (h : s.memoriesOk) : (s.fileThread r pc n).memoriesOk := by
  have h1 := State.memoriesOk_leaveDrill r h
  unfold State.fileThread
  simp only
  split
  · exact h1
  · split
    · exact State.memoriesOk_stopThread _ _ (State.memoriesOk_modThread _ _ h1)
    · split
      · exact State.memoriesOk_modThread _ _ h1
      · exact State.memoriesOk_modCore _ _ (State.memoriesOk_modThread _ _ h1) fun _ g => g

theorem State.memoriesOk_parkThread {s : State} (r : Ref) (f : FaultRec) (pc : DWord) (h : s.memoriesOk) : (s.parkThread r f pc).memoriesOk := by
  have h1 : (s.startBudget r).memoriesOk := by
    unfold State.startBudget
    split
    · exact h
    · split
      · exact h
      · exact State.memoriesOk_of_same h rfl rfl rfl
  exact State.memoriesOk_of_same (State.memoriesOk_modThread r _ (State.memoriesOk_toHeadland r .parked h1)) rfl rfl rfl

theorem State.memoriesOk_takeTrap {s : State} (r : Ref) (w : Word) (code imm : Nat) (ea : DWord) (h : s.memoriesOk) :
    (s.takeTrap r w code imm ea).memoriesOk := by
  unfold State.takeTrap
  split
  · exact h
  · split
    · exact State.memoriesOk_parkThread _ _ _ h
    · exact State.memoriesOk_fileThread _ _ _ (State.memoriesOk_modThread _ _ h)

theorem State.memoriesOk_unfile {s : State} (r : Ref) (h : s.memoriesOk) : (s.unfile r).memoriesOk :=
  State.memoriesOk_modCore _ _ h fun _ g => g

theorem State.memoriesOk_freeSlots {s : State} (r : Ref) (h : s.memoriesOk) : (s.freeSlots r).memoriesOk := by
  refine ⟨h.1, h.2.1, fun x hx => ?_⟩
  obtain ⟨y, hy, rfl⟩ := List.mem_map.1 hx
  exact h.2.2 y hy

theorem State.memoriesOk_exitThread {s : State} (r : Ref) (h : s.memoriesOk) : (s.exitThread r).memoriesOk :=
  State.memoriesOk_modThread _ _ (State.memoriesOk_of_same (State.memoriesOk_freeSlots r (State.memoriesOk_unfile r (State.memoriesOk_leaveDrill r h)))
    rfl rfl rfl)

/-! ## Taking a trap and returning from it (21 R373, R376) -/

/-- What taking a trap does to the thread's record: the saved registers, SUP and the PC, and nothing else. -/
theorem Thread.enterTrap_spec (t : Thread) (w : Word) (tvec : DWord) (code imm : Nat) (ea : DWord) :
    t.enterTrap w tvec code imm ea =
      { t with tstat := t.tstat ||| 0x100, epc := t.pc, ewb := BitVec.ofNat 32 t.wb, eix := t.ix, ecode := BitVec.ofNat 32 (imm * 256 + code),
               einfo := w, eaddr := ea, pc := tvec } := rfl

/-- What a return does to the thread's record: WB, ix and the PC come back and SUP is cleared. -/
theorem Thread.returnTrap_spec (t : Thread) :
    t.returnTrap = { t with tstat := t.tstat &&& 0xFFFFFEFF, wb := t.ewb.toNat, ix := t.eix, pc := t.epc } := rfl

/-- A return takes back what the entry saved: PC, WB and ix are the interrupted ones. -/
theorem Thread.returnTrap_enterTrap (t : Thread) (w : Word) (tvec : DWord) (code imm : Nat) (ea : DWord) (h : t.wb < 2 ^ 32) :
    (t.enterTrap w tvec code imm ea).returnTrap.pc = t.pc ∧ (t.enterTrap w tvec code imm ea).returnTrap.wb = t.wb ∧
      (t.enterTrap w tvec code imm ea).returnTrap.ix = t.ix := by
  refine ⟨rfl, ?_, rfl⟩
  show (BitVec.ofNat 32 t.wb).toNat = t.wb
  rw [BitVec.toNat_ofNat]; exact Nat.mod_eq_of_lt h

/-- Taking a trap outside the handler: the record is the entry's, and the thread is filed at TVEC. -/
theorem State.takeTrap_spec {s : State} {r : Ref} {t : Thread} (w : Word) (code imm : Nat) (ea : DWord) (h : s.thread? r = some t)
    (g : t.sup = false) :
    s.takeTrap r w code imm ea = (s.modThread r fun x => { t.enterTrap w (s.tvecOf r) code imm ea with place := x.place }).fileThread r (s.tvecOf r)
      (match t.place with | .drill slot => rankDrill slot r | _ => rankWake r) := by
  simp only [State.takeTrap, h, g, Bool.false_eq_true, if_false]
  rfl

/-- In the handler a trap parks the thread as it stood, with a double-trap record (21 R375). -/
theorem State.takeTrap_double {s : State} {r : Ref} {t : Thread} (w : Word) (code imm : Nat) (ea : DWord) (h : s.thread? r = some t)
    (g : t.sup = true) : s.takeTrap r w code imm ea = s.parkThread r (s.recOf r 5 15 0x21 0 t.pc 0) t.pc := by
  simp only [State.takeTrap, h, g, if_true]

end Sys2Proof.Machine
end

