-- ==== Sys2Proof/Laws/PerInstr.lean ====
section
/-! SUPPORT. The round trip of decoder and encoder, one lemma per constructor (03 R54 to R70). -/

namespace Sys2Proof

theorem Reg.code_lt (r : Reg) : r.code < 128 := by cases r <;> simp [Reg.code] <;> omega
theorem FTy.code_lt (x : FTy) : x.code < 4 := by cases x <;> decide
theorem CE.code_lt (x : CE) : x.code < 8 := by cases x <;> decide
theorem RT.code_lt (x : RT) : x.code < 8 := by cases x <;> decide
theorem Sz.code_lt (x : Sz) : x.code < 8 := by cases x <;> decide
theorem RC.code_lt (x : RC) : x.code < 4 := by cases x <;> decide
theorem Scope.code_lt (x : Scope) : x.code < 4 := by cases x <;> decide
theorem AOrd.code_lt (x : AOrd) : x.code < 4 := by cases x <;> decide

@[simp] theorem Reg.ofCode_code (r : Reg) : Reg.ofCode r.code = some r := by
  cases r with
  | w n => simp [Reg.ofCode, Reg.code]
  | k n => have := n.isLt; simp [Reg.ofCode, Reg.code]
  | _ => rfl
@[simp] theorem FTy.ofCode_code (x : FTy) : FTy.ofCode x.code = some x := by cases x <;> rfl
@[simp] theorem CE.ofCode_code (x : CE) : CE.ofCode x.code = some x := by cases x <;> rfl
@[simp] theorem RT.ofCode_code (x : RT) : RT.ofCode x.code = some x := by cases x <;> rfl
@[simp] theorem Sz.ofCode_code (x : Sz) : Sz.ofCode x.code = some x := by cases x <;> rfl
@[simp] theorem RC.ofCode_code (x : RC) : RC.ofCode x.code = some x := by cases x <;> rfl
@[simp] theorem Scope.ofCode_code (x : Scope) : Scope.ofCode x.code = some x := by cases x <;> rfl
@[simp] theorem AOrd.ofCode_code (x : AOrd) : AOrd.ofCode x.code = some x := by cases x <;> rfl
@[simp] theorem fin_val {n : Nat} [NeZero n] (x : Fin n) : fin n x.val = x := by
  apply Fin.ext; simp [fin, Fin.ofNat, Nat.mod_eq_of_lt x.isLt]
@[simp] theorem toNat_beq_one (b : Bool) : (b.toNat == 1) = b := by cases b <;> rfl

theorem swrListed_ne (n : Fin 128) (h : swrListed n = true) : n.val ≠ 60 ∧ n.val / 16 ≠ 2 := by revert n; decide

/-- A well-formed instruction comes back when its word is in range and parses to it. -/
theorem roundTrip_of {i : Instr} {n : Nat} (he : encodeNat i = some n) (hp : ∀ w, w = n → w < 4294967296 ∧ parse w = some i) (h : i.wf = true) :
    ∃ v, encode i = some v ∧ decodeWord v = .ok i := by
  obtain ⟨hw, hp⟩ := hp n rfl
  refine ⟨BitVec.ofNat 32 n, by rw [encode, he]; rfl, ?_⟩
  rw [decodeWord, BitVec.toNat_ofNat, Nat.mod_eq_of_lt hw, hp]; simp [h]

theorem plus_zero (a : Nat) : a + 0 = a := by rw [Nat.add_comm, Nat.zero_add]
theorem add_zero_mul (a n : Nat) : a + 0 * n = a := by rw [Nat.zero_mul, Nat.add_zero]

/-! The fields of a word, by format (03 Tables 3.3 to 3.10). -/

theorem parse_00 (w : Nat) (h : fld w 67108864 64 = 0) : parse w = parse00 w := by rw [parse, h]; rfl
theorem parse_01 (w : Nat) (h : fld w 67108864 64 = 1) : parse w = parse01 w := by rw [parse, h]; rfl
theorem parse_02 (w : Nat) (h : fld w 67108864 64 = 2) : parse w = parse02 w := by rw [parse, h]; rfl
theorem parse_03 (w : Nat) (h : fld w 67108864 64 = 3) : parse w = parse03 w := by rw [parse, h]; rfl
theorem parse_04 (w : Nat) (h : fld w 67108864 64 = 4) : parse w = parse04 w := by rw [parse, h]; rfl
theorem parse_05 (w : Nat) (h : fld w 67108864 64 = 5) : parse w = parse05 w := by rw [parse, h]; rfl
theorem parse_06 (w : Nat) (h : fld w 67108864 64 = 6) : parse w = parse06 w := by rw [parse, h]; rfl
theorem parse_07 (w : Nat) (h : fld w 67108864 64 = 7) : parse w = parse07 w := by rw [parse, h]; rfl
theorem parse_08 (w : Nat) (h : fld w 67108864 64 = 8) : parse w = parse08 w := by rw [parse, h]; rfl
theorem parse_09 (w : Nat) (h : fld w 67108864 64 = 9) : parse w = parse09 w := by rw [parse, h]; rfl
theorem parse_0A (w : Nat) (h : fld w 67108864 64 = 10) : parse w = parse0A w := by rw [parse, h]; rfl
theorem parse_0B (w : Nat) (h : fld w 67108864 64 = 11) : parse w = parse0B w := by rw [parse, h]; rfl
theorem parse_0C (w : Nat) (h : fld w 67108864 64 = 12) : parse w = parse0C w := by rw [parse, h]; rfl
theorem parse_0D (w : Nat) (h : fld w 67108864 64 = 13) : parse w = parse0D w := by rw [parse, h]; rfl
theorem parse_0E (w : Nat) (h : fld w 67108864 64 = 14) : parse w = parse0E w := by rw [parse, h]; rfl
theorem parse_0F (w : Nat) (h : fld w 67108864 64 = 15) : parse w = parse0F w := by rw [parse, h]; rfl
theorem parse_10 (w : Nat) (h : fld w 67108864 64 = 16) : parse w = parse10 w := by rw [parse, h]; rfl
theorem parse_11 (w : Nat) (h : fld w 67108864 64 = 17) : parse w = parse11 w := by rw [parse, h]; rfl
theorem parse_12 (w : Nat) (h : fld w 67108864 64 = 18) : parse w = parse12 w := by rw [parse, h]; rfl
theorem parse_13 (w : Nat) (h : fld w 67108864 64 = 19) : parse w = parse13 w := by rw [parse, h]; rfl
theorem parse_14 (w : Nat) (h : fld w 67108864 64 = 20) : parse w = parse14 w := by rw [parse, h]; rfl
theorem parse_15 (w : Nat) (h : fld w 67108864 64 = 21) : parse w = parse15 w := by rw [parse, h]; rfl
theorem parse_16 (w : Nat) (h : fld w 67108864 64 = 22) : parse w = parse16 w := by rw [parse, h]; rfl
theorem parse_17 (w : Nat) (h : fld w 67108864 64 = 23) : parse w = parse17 w := by rw [parse, h]; rfl
theorem parse_18 (w : Nat) (h : fld w 67108864 64 = 24) : parse w = parse18 w := by rw [parse, h]; rfl
theorem parse_19 (w : Nat) (h : fld w 67108864 64 = 25) : parse w = parse19 w := by rw [parse, h]; rfl
theorem parse_1A (w : Nat) (h : fld w 67108864 64 = 26) : parse w = parse1A w := by rw [parse, h]; rfl
theorem parse_1B (w : Nat) (h : fld w 67108864 64 = 27) : parse w = parse1B w := by rw [parse, h]; rfl
theorem parse_1C (w : Nat) (h : fld w 67108864 64 = 28) : parse w = parse1C w := by rw [parse, h]; rfl
theorem parse_1D (w : Nat) (h : fld w 67108864 64 = 29) : parse w = parse1D w := by rw [parse, h]; rfl
theorem parse_1E (w : Nat) (h : fld w 67108864 64 = 30) : parse w = parse1E w := by rw [parse, h]; rfl
theorem parse_1F (w : Nat) (h : fld w 67108864 64 = 31) : parse w = parse1F w := by rw [parse, h]; rfl
theorem parse_20 (w : Nat) (h : fld w 67108864 64 = 32) : parse w = parse20 w := by rw [parse, h]; rfl
theorem parse_21 (w : Nat) (h : fld w 67108864 64 = 33) : parse w = parse21 w := by rw [parse, h]; rfl
theorem parse_26 (w : Nat) (h : fld w 67108864 64 = 38) : parse w = parse26 w := by rw [parse, h]; rfl
theorem parse_27 (w : Nat) (h : fld w 67108864 64 = 39) : parse w = parse27 w := by rw [parse, h]; rfl
theorem parse_28 (w : Nat) (h : fld w 67108864 64 = 40) : parse w = parse28 w := by rw [parse, h]; rfl
theorem parse_2C (w : Nat) (h : fld w 67108864 64 = 44) : parse w = parse2C w := by rw [parse, h]; rfl
theorem parse_2D (w : Nat) (h : fld w 67108864 64 = 45) : parse w = parse2D w := by rw [parse, h]; rfl
theorem parse_2E (w : Nat) (h : fld w 67108864 64 = 46) : parse w = parse2E w := by rw [parse, h]; rfl
theorem parse_2F (w : Nat) (h : fld w 67108864 64 = 47) : parse w = parse2F w := by rw [parse, h]; rfl
theorem parse_30 (w : Nat) (h : fld w 67108864 64 = 48) : parse w = parse30 w := by rw [parse, h]; rfl
theorem parse_31 (w : Nat) (h : fld w 67108864 64 = 49) : parse w = parse31 w := by rw [parse, h]; rfl
theorem parse_32 (w : Nat) (h : fld w 67108864 64 = 50) : parse w = parse32 w := by rw [parse, h]; rfl
theorem parse_33 (w : Nat) (h : fld w 67108864 64 = 51) : parse w = parse33 w := by rw [parse, h]; rfl
theorem parse_34 (w : Nat) (h : fld w 67108864 64 = 52) : parse w = parse34 w := by rw [parse, h]; rfl
theorem parse_35 (w : Nat) (h : fld w 67108864 64 = 53) : parse w = parse35 w := by rw [parse, h]; rfl
theorem parse_36 (w : Nat) (h : fld w 67108864 64 = 54) : parse w = parse36 w := by rw [parse, h]; rfl
theorem parse_37 (w : Nat) (h : fld w 67108864 64 = 55) : parse w = parse37 w := by rw [parse, h]; rfl
theorem parse_38 (w : Nat) (h : fld w 67108864 64 = 56) : parse w = parse38 w := by rw [parse, h]; rfl
theorem parse_39 (w : Nat) (h : fld w 67108864 64 = 57) : parse w = parse39 w := by rw [parse, h]; rfl
theorem parse_3A (w : Nat) (h : fld w 67108864 64 = 58) : parse w = parse3A w := by rw [parse, h]; rfl
theorem parse_3B (w : Nat) (h : fld w 67108864 64 = 59) : parse w = parse3B w := by rw [parse, h]; rfl

theorem fields_r (w x0 x1 x2 x3 x4 x5 : Nat) (e : w = x0 * 67108864 + x1 * 524288 + x2 * 4096 + x3 * 32 + x4 * 8 + x5) (h : x0 < 64 ∧ x1 < 128 ∧ x2 < 128 ∧ x3 < 128 ∧ x4 < 4 ∧ x5 < 8) :
    fld w 67108864 64 = x0 ∧ fld w 524288 128 = x1 ∧ fld w 4096 128 = x2 ∧ fld w 32 128 = x3 ∧ fld w 8 4 = x4 ∧ fld w 1 8 = x5 := by
  unfold fld; subst e; refine ⟨?_, ?_, ?_, ?_, ?_, ?_⟩ <;> omega
theorem fields_c (w x0 x1 x2 x3 x4 : Nat) (e : w = x0 * 67108864 + x1 * 524288 + x2 * 4096 + x3 * 32 + x4) (h : x0 < 64 ∧ x1 < 128 ∧ x2 < 128 ∧ x3 < 128 ∧ x4 < 32) :
    fld w 67108864 64 = x0 ∧ fld w 524288 128 = x1 ∧ fld w 4096 128 = x2 ∧ fld w 32 128 = x3 ∧ fld w 1 32 = x4 := by
  unfold fld; subst e; refine ⟨?_, ?_, ?_, ?_, ?_⟩ <;> omega
theorem fields_i (w x0 x1 x2 x3 : Nat) (e : w = x0 * 67108864 + x1 * 524288 + x2 * 65536 + x3) (h : x0 < 64 ∧ x1 < 128 ∧ x2 < 8 ∧ x3 < 65536) :
    fld w 67108864 64 = x0 ∧ fld w 524288 128 = x1 ∧ fld w 65536 8 = x2 ∧ fld w 1 65536 = x3 := by
  unfold fld; subst e; refine ⟨?_, ?_, ?_, ?_⟩ <;> omega
theorem fields_sh (w x0 x1 x2 x3 x4 : Nat) (e : w = x0 * 67108864 + x1 * 524288 + x2 * 65536 + x3 * 32 + x4) (h : x0 < 64 ∧ x1 < 128 ∧ x2 < 8 ∧ x3 < 2048 ∧ x4 < 32) :
    fld w 67108864 64 = x0 ∧ fld w 524288 128 = x1 ∧ fld w 65536 8 = x2 ∧ fld w 32 2048 = x3 ∧ fld w 1 32 = x4 := by
  unfold fld; subst e; refine ⟨?_, ?_, ?_, ?_, ?_⟩ <;> omega
theorem fields_m (w x0 x1 x2 x3 x4 x5 x6 x7 : Nat) (e : w = x0 * 67108864 + x1 * 524288 + x2 * 4096 + x3 * 256 + x4 * 64 + x5 * 16 + x6 * 8 + x7) (h : x0 < 64 ∧ x1 < 128 ∧ x2 < 128 ∧ x3 < 16 ∧ x4 < 4 ∧ x5 < 4 ∧ x6 < 2 ∧ x7 < 8) :
    fld w 67108864 64 = x0 ∧ fld w 524288 128 = x1 ∧ fld w 4096 128 = x2 ∧ fld w 256 16 = x3 ∧ fld w 64 4 = x4 ∧ fld w 16 4 = x5 ∧ fld w 8 2 = x6 ∧ fld w 1 8 = x7 := by
  unfold fld; subst e; refine ⟨?_, ?_, ?_, ?_, ?_, ?_, ?_, ?_⟩ <;> omega
theorem fields_s (w x0 x1 x2 x3 x4 : Nat) (e : w = x0 * 67108864 + x1 * 524288 + x2 * 4096 + x3 * 8 + x4) (h : x0 < 64 ∧ x1 < 128 ∧ x2 < 128 ∧ x3 < 512 ∧ x4 < 8) :
    fld w 67108864 64 = x0 ∧ fld w 524288 128 = x1 ∧ fld w 4096 128 = x2 ∧ fld w 8 512 = x3 ∧ fld w 1 8 = x4 := by
  unfold fld; subst e; refine ⟨?_, ?_, ?_, ?_, ?_⟩ <;> omega
theorem fields_a (w x0 x1 x2 x3 x4 x5 x6 x7 x8 : Nat) (e : w = x0 * 67108864 + x1 * 524288 + x2 * 4096 + x3 * 256 + x4 * 128 + x5 * 32 + x6 * 8 + x7 * 2 + x8) (h : x0 < 64 ∧ x1 < 128 ∧ x2 < 128 ∧ x3 < 16 ∧ x4 < 2 ∧ x5 < 4 ∧ x6 < 4 ∧ x7 < 4 ∧ x8 < 2) :
    fld w 67108864 64 = x0 ∧ fld w 524288 128 = x1 ∧ fld w 4096 128 = x2 ∧ fld w 256 16 = x3 ∧ fld w 128 2 = x4 ∧ fld w 32 4 = x5 ∧ fld w 8 4 = x6 ∧ fld w 2 4 = x7 ∧ fld w 1 2 = x8 := by
  unfold fld; subst e; refine ⟨?_, ?_, ?_, ?_, ?_, ?_, ?_, ?_, ?_⟩ <;> omega
theorem fields_as (w x0 x1 x2 x3 x4 x5 x6 x7 x8 : Nat) (e : w = x0 * 67108864 + x1 * 524288 + x2 * 4096 + x3 * 256 + x4 * 128 + x5 * 16 + x6 * 8 + x7 * 2 + x8) (h : x0 < 64 ∧ x1 < 128 ∧ x2 < 128 ∧ x3 < 16 ∧ x4 < 2 ∧ x5 < 8 ∧ x6 < 2 ∧ x7 < 4 ∧ x8 < 2) :
    fld w 67108864 64 = x0 ∧ fld w 524288 128 = x1 ∧ fld w 4096 128 = x2 ∧ fld w 256 16 = x3 ∧ fld w 128 2 = x4 ∧ fld w 16 8 = x5 ∧ fld w 8 2 = x6 ∧ fld w 2 4 = x7 ∧ fld w 1 2 = x8 := by
  unfold fld; subst e; refine ⟨?_, ?_, ?_, ?_, ?_, ?_, ?_, ?_, ?_⟩ <;> omega
theorem fields_b (w x0 x1 x2 x3 : Nat) (e : w = x0 * 67108864 + x1 * 524288 + x2 * 262144 + x3) (h : x0 < 64 ∧ x1 < 128 ∧ x2 < 2 ∧ x3 < 262144) :
    fld w 67108864 64 = x0 ∧ fld w 524288 128 = x1 ∧ fld w 262144 2 = x2 ∧ fld w 1 262144 = x3 := by
  unfold fld; subst e; refine ⟨?_, ?_, ?_, ?_⟩ <;> omega
theorem fields_x9 (w x0 x1 x2 x3 x4 x5 x6 x7 : Nat) (e : w = x0 * 67108864 + x1 * 524288 + x2 * 4096 + x3 * 512 + x4 * 64 + x5 * 32 + x6 * 8 + x7) (h : x0 < 64 ∧ x1 < 128 ∧ x2 < 128 ∧ x3 < 8 ∧ x4 < 8 ∧ x5 < 2 ∧ x6 < 4 ∧ x7 < 8) :
    fld w 67108864 64 = x0 ∧ fld w 524288 128 = x1 ∧ fld w 4096 128 = x2 ∧ fld w 512 8 = x3 ∧ fld w 64 8 = x4 ∧ fld w 32 2 = x5 ∧ fld w 8 4 = x6 ∧ fld w 1 8 = x7 := by
  unfold fld; subst e; refine ⟨?_, ?_, ?_, ?_, ?_, ?_, ?_, ?_⟩ <;> omega
theorem fields_x10 (w x0 x1 x2 x3 x4 x5 x6 x7 : Nat) (e : w = x0 * 67108864 + x1 * 524288 + x2 * 4096 + x3 * 512 + x4 * 256 + x5 * 32 + x6 * 8 + x7) (h : x0 < 64 ∧ x1 < 128 ∧ x2 < 128 ∧ x3 < 8 ∧ x4 < 2 ∧ x5 < 8 ∧ x6 < 4 ∧ x7 < 8) :
    fld w 67108864 64 = x0 ∧ fld w 524288 128 = x1 ∧ fld w 4096 128 = x2 ∧ fld w 512 8 = x3 ∧ fld w 256 2 = x4 ∧ fld w 32 8 = x5 ∧ fld w 8 4 = x6 ∧ fld w 1 8 = x7 := by
  unfold fld; subst e; refine ⟨?_, ?_, ?_, ?_, ?_, ?_, ?_, ?_⟩ <;> omega
theorem fields_x11 (w x0 x1 x2 x3 x4 x5 x6 : Nat) (e : w = x0 * 67108864 + x1 * 524288 + x2 * 4096 + x3 * 512 + x4 * 32 + x5 * 8 + x6) (h : x0 < 64 ∧ x1 < 128 ∧ x2 < 128 ∧ x3 < 8 ∧ x4 < 16 ∧ x5 < 4 ∧ x6 < 8) :
    fld w 67108864 64 = x0 ∧ fld w 524288 128 = x1 ∧ fld w 4096 128 = x2 ∧ fld w 512 8 = x3 ∧ fld w 32 16 = x4 ∧ fld w 8 4 = x5 ∧ fld w 1 8 = x6 := by
  unfold fld; subst e; refine ⟨?_, ?_, ?_, ?_, ?_, ?_, ?_⟩ <;> omega
theorem fields_x12 (w x0 x1 x2 x3 x4 x5 x6 : Nat) (e : w = x0 * 67108864 + x1 * 524288 + x2 * 4096 + x3 * 2048 + x4 * 32 + x5 * 8 + x6) (h : x0 < 64 ∧ x1 < 128 ∧ x2 < 128 ∧ x3 < 2 ∧ x4 < 64 ∧ x5 < 4 ∧ x6 < 8) :
    fld w 67108864 64 = x0 ∧ fld w 524288 128 = x1 ∧ fld w 4096 128 = x2 ∧ fld w 2048 2 = x3 ∧ fld w 32 64 = x4 ∧ fld w 8 4 = x5 ∧ fld w 1 8 = x6 := by
  unfold fld; subst e; refine ⟨?_, ?_, ?_, ?_, ?_, ?_, ?_⟩ <;> omega
theorem fields_x13 (w x0 x1 x2 x3 x4 x5 x6 : Nat) (e : w = x0 * 67108864 + x1 * 524288 + x2 * 4096 + x3 * 256 + x4 * 32 + x5 * 8 + x6) (h : x0 < 64 ∧ x1 < 128 ∧ x2 < 128 ∧ x3 < 16 ∧ x4 < 8 ∧ x5 < 4 ∧ x6 < 8) :
    fld w 67108864 64 = x0 ∧ fld w 524288 128 = x1 ∧ fld w 4096 128 = x2 ∧ fld w 256 16 = x3 ∧ fld w 32 8 = x4 ∧ fld w 8 4 = x5 ∧ fld w 1 8 = x6 := by
  unfold fld; subst e; refine ⟨?_, ?_, ?_, ?_, ?_, ?_, ?_⟩ <;> omega
theorem fields_x14 (w x0 x1 x2 x3 x4 x5 x6 x7 : Nat) (e : w = x0 * 67108864 + x1 * 524288 + x2 * 4096 + x3 * 2048 + x4 * 256 + x5 * 32 + x6 * 8 + x7) (h : x0 < 64 ∧ x1 < 128 ∧ x2 < 128 ∧ x3 < 2 ∧ x4 < 8 ∧ x5 < 8 ∧ x6 < 4 ∧ x7 < 8) :
    fld w 67108864 64 = x0 ∧ fld w 524288 128 = x1 ∧ fld w 4096 128 = x2 ∧ fld w 2048 2 = x3 ∧ fld w 256 8 = x4 ∧ fld w 32 8 = x5 ∧ fld w 8 4 = x6 ∧ fld w 1 8 = x7 := by
  unfold fld; subst e; refine ⟨?_, ?_, ?_, ?_, ?_, ?_, ?_, ?_⟩ <;> omega
theorem fields_x15 (w x0 x1 x2 x3 x4 x5 : Nat) (e : w = x0 * 67108864 + x1 * 524288 + x2 * 4096 + x3 * 128 + x4 * 32 + x5) (h : x0 < 64 ∧ x1 < 128 ∧ x2 < 128 ∧ x3 < 32 ∧ x4 < 4 ∧ x5 < 32) :
    fld w 67108864 64 = x0 ∧ fld w 524288 128 = x1 ∧ fld w 4096 128 = x2 ∧ fld w 128 32 = x3 ∧ fld w 32 4 = x4 ∧ fld w 1 32 = x5 := by
  unfold fld; subst e; refine ⟨?_, ?_, ?_, ?_, ?_, ?_⟩ <;> omega
theorem fields_x16 (w x0 x1 x2 x3 x4 x5 : Nat) (e : w = x0 * 67108864 + x1 * 1048576 + x2 * 16384 + x3 * 256 + x4 * 4 + x5) (h : x0 < 64 ∧ x1 < 64 ∧ x2 < 64 ∧ x3 < 64 ∧ x4 < 64 ∧ x5 < 4) :
    fld w 67108864 64 = x0 ∧ fld w 1048576 64 = x1 ∧ fld w 16384 64 = x2 ∧ fld w 256 64 = x3 ∧ fld w 4 64 = x4 ∧ fld w 1 4 = x5 := by
  unfold fld; subst e; refine ⟨?_, ?_, ?_, ?_, ?_, ?_⟩ <;> omega
theorem fields_x17 (w x0 x1 x2 x3 x4 x5 x6 x7 x8 : Nat) (e : w = x0 * 67108864 + x1 * 524288 + x2 * 4096 + x3 * 1024 + x4 * 512 + x5 * 256 + x6 * 128 + x7 * 32 + x8) (h : x0 < 64 ∧ x1 < 128 ∧ x2 < 128 ∧ x3 < 4 ∧ x4 < 2 ∧ x5 < 2 ∧ x6 < 2 ∧ x7 < 4 ∧ x8 < 32) :
    fld w 67108864 64 = x0 ∧ fld w 524288 128 = x1 ∧ fld w 4096 128 = x2 ∧ fld w 1024 4 = x3 ∧ fld w 512 2 = x4 ∧ fld w 256 2 = x5 ∧ fld w 128 2 = x6 ∧ fld w 32 4 = x7 ∧ fld w 1 32 = x8 := by
  unfold fld; subst e; refine ⟨?_, ?_, ?_, ?_, ?_, ?_, ?_, ?_, ?_⟩ <;> omega
theorem fields_x18 (w x0 x1 x2 x3 x4 x5 : Nat) (e : w = x0 * 67108864 + x1 * 524288 + x2 * 4096 + x3 * 64 + x4 * 32 + x5) (h : x0 < 64 ∧ x1 < 128 ∧ x2 < 128 ∧ x3 < 64 ∧ x4 < 2 ∧ x5 < 32) :
    fld w 67108864 64 = x0 ∧ fld w 524288 128 = x1 ∧ fld w 4096 128 = x2 ∧ fld w 64 64 = x3 ∧ fld w 32 2 = x4 ∧ fld w 1 32 = x5 := by
  unfold fld; subst e; refine ⟨?_, ?_, ?_, ?_, ?_, ?_⟩ <;> omega
theorem fields_x19 (w x0 x1 x2 x3 x4 x5 x6 x7 : Nat) (e : w = x0 * 67108864 + x1 * 16777216 + x2 * 4194304 + x3 * 2097152 + x4 * 524288 + x5 * 4096 + x6 * 32 + x7) (h : x0 < 64 ∧ x1 < 4 ∧ x2 < 4 ∧ x3 < 2 ∧ x4 < 4 ∧ x5 < 128 ∧ x6 < 128 ∧ x7 < 32) :
    fld w 67108864 64 = x0 ∧ fld w 16777216 4 = x1 ∧ fld w 4194304 4 = x2 ∧ fld w 2097152 2 = x3 ∧ fld w 524288 4 = x4 ∧ fld w 4096 128 = x5 ∧ fld w 32 128 = x6 ∧ fld w 1 32 = x7 := by
  unfold fld; subst e; refine ⟨?_, ?_, ?_, ?_, ?_, ?_, ?_, ?_⟩ <;> omega
theorem fields_x20 (w x0 x1 x2 x3 x4 x5 : Nat) (e : w = x0 * 67108864 + x1 * 524288 + x2 * 4096 + x3 * 2048 + x4 * 32 + x5) (h : x0 < 64 ∧ x1 < 128 ∧ x2 < 128 ∧ x3 < 2 ∧ x4 < 64 ∧ x5 < 32) :
    fld w 67108864 64 = x0 ∧ fld w 524288 128 = x1 ∧ fld w 4096 128 = x2 ∧ fld w 2048 2 = x3 ∧ fld w 32 64 = x4 ∧ fld w 1 32 = x5 := by
  unfold fld; subst e; refine ⟨?_, ?_, ?_, ?_, ?_, ?_⟩ <;> omega
theorem fields_x21 (w x0 x1 x2 x3 x4 x5 x6 : Nat) (e : w = x0 * 67108864 + x1 * 524288 + x2 * 4096 + x3 * 128 + x4 * 64 + x5 * 32 + x6) (h : x0 < 64 ∧ x1 < 128 ∧ x2 < 128 ∧ x3 < 32 ∧ x4 < 2 ∧ x5 < 2 ∧ x6 < 32) :
    fld w 67108864 64 = x0 ∧ fld w 524288 128 = x1 ∧ fld w 4096 128 = x2 ∧ fld w 128 32 = x3 ∧ fld w 64 2 = x4 ∧ fld w 32 2 = x5 ∧ fld w 1 32 = x6 := by
  unfold fld; subst e; refine ⟨?_, ?_, ?_, ?_, ?_, ?_, ?_⟩ <;> omega

/-- Decoding the word of an instruction that is well formed and no step of the device gives it back; a step has no word. -/
def Laws.RoundTrip.Statement (i : Instr) : Prop :=
  (i.isEvent = false → i.wf = true → ∃ w, encode i = some w ∧ decodeWord w = .ok i) ∧ (i.isEvent = true → encode i = none)

namespace Laws.RoundTrip

theorem iadd (d : Reg) (a : Reg) (b : Reg) (g : Fin 8) : Statement (.iadd d a b g) := by
  refine ⟨fun _ h => roundTrip_of (n := 0 * 67108864 + d.code * 524288 + a.code * 4096 + b.code * 32 + g.val) rfl (fun v e => ?_) h, fun h => nomatch h⟩
  have h0 := d.code_lt; have h1 := a.code_lt; have h2 := b.code_lt; have h3 := g.isLt
  have k : v = 0 * 67108864 + d.code * 524288 + a.code * 4096 + b.code * 32 + 0 * 8 + g.val := by simp only [e, add_zero_mul]
  obtain ⟨f, f1, f2, f3, f0, f4⟩ := fields_r v 0 (d.code) (a.code) (b.code) 0 (g.val) k (by omega)
  exact ⟨by omega, by rw [parse_00 v f]; simp [parse00, f0, f1, f2, f3, f4]⟩

theorem isub (d : Reg) (a : Reg) (b : Reg) (g : Fin 8) : Statement (.isub d a b g) := by
  refine ⟨fun _ h => roundTrip_of (n := 0 * 67108864 + d.code * 524288 + a.code * 4096 + b.code * 32 + 1 * 8 + g.val) rfl (fun v e => ?_) h, fun h => nomatch h⟩
  have h0 := d.code_lt; have h1 := a.code_lt; have h2 := b.code_lt; have h3 := g.isLt
  obtain ⟨f, f1, f2, f3, f0, f4⟩ := fields_r v 0 (d.code) (a.code) (b.code) 1 (g.val) e (by omega)
  exact ⟨by omega, by rw [parse_00 v f]; simp [parse00, f0, f1, f2, f3, f4]⟩

theorem imul (d : Reg) (a : Reg) (b : Reg) (g : Fin 8) : Statement (.imul d a b g) := by
  refine ⟨fun _ h => roundTrip_of (n := 0 * 67108864 + d.code * 524288 + a.code * 4096 + b.code * 32 + 2 * 8 + g.val) rfl (fun v e => ?_) h, fun h => nomatch h⟩
  have h0 := d.code_lt; have h1 := a.code_lt; have h2 := b.code_lt; have h3 := g.isLt
  obtain ⟨f, f1, f2, f3, f0, f4⟩ := fields_r v 0 (d.code) (a.code) (b.code) 2 (g.val) e (by omega)
  exact ⟨by omega, by rw [parse_00 v f]; simp [parse00, f0, f1, f2, f3, f4]⟩

theorem imulh (d : Reg) (a : Reg) (b : Reg) (g : Fin 8) : Statement (.imulh d a b g) := by
  refine ⟨fun _ h => roundTrip_of (n := 0 * 67108864 + d.code * 524288 + a.code * 4096 + b.code * 32 + 3 * 8 + g.val) rfl (fun v e => ?_) h, fun h => nomatch h⟩
  have h0 := d.code_lt; have h1 := a.code_lt; have h2 := b.code_lt; have h3 := g.isLt
  obtain ⟨f, f1, f2, f3, f0, f4⟩ := fields_r v 0 (d.code) (a.code) (b.code) 3 (g.val) e (by omega)
  exact ⟨by omega, by rw [parse_00 v f]; simp [parse00, f0, f1, f2, f3, f4]⟩

theorem imulhu (d : Reg) (a : Reg) (b : Reg) (g : Fin 8) : Statement (.imulhu d a b g) := by
  refine ⟨fun _ h => roundTrip_of (n := 1 * 67108864 + d.code * 524288 + a.code * 4096 + b.code * 32 + g.val) rfl (fun v e => ?_) h, fun h => nomatch h⟩
  have h0 := d.code_lt; have h1 := a.code_lt; have h2 := b.code_lt; have h3 := g.isLt
  have k : v = 1 * 67108864 + d.code * 524288 + a.code * 4096 + b.code * 32 + 0 * 8 + g.val := by simp only [e, add_zero_mul]
  obtain ⟨f, f1, f2, f3, f0, f4⟩ := fields_r v 1 (d.code) (a.code) (b.code) 0 (g.val) k (by omega)
  exact ⟨by omega, by rw [parse_01 v f]; simp [parse01, f0, f1, f2, f3, f4]⟩

theorem imad (d : Reg) (a : Reg) (b : Reg) (g : Fin 8) : Statement (.imad d a b g) := by
  refine ⟨fun _ h => roundTrip_of (n := 1 * 67108864 + d.code * 524288 + a.code * 4096 + b.code * 32 + 1 * 8 + g.val) rfl (fun v e => ?_) h, fun h => nomatch h⟩
  have h0 := d.code_lt; have h1 := a.code_lt; have h2 := b.code_lt; have h3 := g.isLt
  obtain ⟨f, f1, f2, f3, f0, f4⟩ := fields_r v 1 (d.code) (a.code) (b.code) 1 (g.val) e (by omega)
  exact ⟨by omega, by rw [parse_01 v f]; simp [parse01, f0, f1, f2, f3, f4]⟩

theorem divs (d : Reg) (a : Reg) (b : Reg) (g : Fin 8) : Statement (.divs d a b g) := by
  refine ⟨fun _ h => roundTrip_of (n := 1 * 67108864 + d.code * 524288 + a.code * 4096 + b.code * 32 + 2 * 8 + g.val) rfl (fun v e => ?_) h, fun h => nomatch h⟩
  have h0 := d.code_lt; have h1 := a.code_lt; have h2 := b.code_lt; have h3 := g.isLt
  obtain ⟨f, f1, f2, f3, f0, f4⟩ := fields_r v 1 (d.code) (a.code) (b.code) 2 (g.val) e (by omega)
  exact ⟨by omega, by rw [parse_01 v f]; simp [parse01, f0, f1, f2, f3, f4]⟩

theorem divu (d : Reg) (a : Reg) (b : Reg) (g : Fin 8) : Statement (.divu d a b g) := by
  refine ⟨fun _ h => roundTrip_of (n := 1 * 67108864 + d.code * 524288 + a.code * 4096 + b.code * 32 + 3 * 8 + g.val) rfl (fun v e => ?_) h, fun h => nomatch h⟩
  have h0 := d.code_lt; have h1 := a.code_lt; have h2 := b.code_lt; have h3 := g.isLt
  obtain ⟨f, f1, f2, f3, f0, f4⟩ := fields_r v 1 (d.code) (a.code) (b.code) 3 (g.val) e (by omega)
  exact ⟨by omega, by rw [parse_01 v f]; simp [parse01, f0, f1, f2, f3, f4]⟩

theorem rems (d : Reg) (a : Reg) (b : Reg) (g : Fin 8) : Statement (.rems d a b g) := by
  refine ⟨fun _ h => roundTrip_of (n := 2 * 67108864 + d.code * 524288 + a.code * 4096 + b.code * 32 + g.val) rfl (fun v e => ?_) h, fun h => nomatch h⟩
  have h0 := d.code_lt; have h1 := a.code_lt; have h2 := b.code_lt; have h3 := g.isLt
  have k : v = 2 * 67108864 + d.code * 524288 + a.code * 4096 + b.code * 32 + 0 * 8 + g.val := by simp only [e, add_zero_mul]
  obtain ⟨f, f1, f2, f3, f0, f4⟩ := fields_r v 2 (d.code) (a.code) (b.code) 0 (g.val) k (by omega)
  exact ⟨by omega, by rw [parse_02 v f]; simp [parse02, f0, f1, f2, f3, f4]⟩

theorem remu (d : Reg) (a : Reg) (b : Reg) (g : Fin 8) : Statement (.remu d a b g) := by
  refine ⟨fun _ h => roundTrip_of (n := 2 * 67108864 + d.code * 524288 + a.code * 4096 + b.code * 32 + 1 * 8 + g.val) rfl (fun v e => ?_) h, fun h => nomatch h⟩
  have h0 := d.code_lt; have h1 := a.code_lt; have h2 := b.code_lt; have h3 := g.isLt
  obtain ⟨f, f1, f2, f3, f0, f4⟩ := fields_r v 2 (d.code) (a.code) (b.code) 1 (g.val) e (by omega)
  exact ⟨by omega, by rw [parse_02 v f]; simp [parse02, f0, f1, f2, f3, f4]⟩

theorem imin (d : Reg) (a : Reg) (b : Reg) (g : Fin 8) : Statement (.imin d a b g) := by
  refine ⟨fun _ h => roundTrip_of (n := 2 * 67108864 + d.code * 524288 + a.code * 4096 + b.code * 32 + 2 * 8 + g.val) rfl (fun v e => ?_) h, fun h => nomatch h⟩
  have h0 := d.code_lt; have h1 := a.code_lt; have h2 := b.code_lt; have h3 := g.isLt
  obtain ⟨f, f1, f2, f3, f0, f4⟩ := fields_r v 2 (d.code) (a.code) (b.code) 2 (g.val) e (by omega)
  exact ⟨by omega, by rw [parse_02 v f]; simp [parse02, f0, f1, f2, f3, f4]⟩

theorem imax (d : Reg) (a : Reg) (b : Reg) (g : Fin 8) : Statement (.imax d a b g) := by
  refine ⟨fun _ h => roundTrip_of (n := 2 * 67108864 + d.code * 524288 + a.code * 4096 + b.code * 32 + 3 * 8 + g.val) rfl (fun v e => ?_) h, fun h => nomatch h⟩
  have h0 := d.code_lt; have h1 := a.code_lt; have h2 := b.code_lt; have h3 := g.isLt
  obtain ⟨f, f1, f2, f3, f0, f4⟩ := fields_r v 2 (d.code) (a.code) (b.code) 3 (g.val) e (by omega)
  exact ⟨by omega, by rw [parse_02 v f]; simp [parse02, f0, f1, f2, f3, f4]⟩

theorem iminu (d : Reg) (a : Reg) (b : Reg) (g : Fin 8) : Statement (.iminu d a b g) := by
  refine ⟨fun _ h => roundTrip_of (n := 3 * 67108864 + d.code * 524288 + a.code * 4096 + b.code * 32 + g.val) rfl (fun v e => ?_) h, fun h => nomatch h⟩
  have h0 := d.code_lt; have h1 := a.code_lt; have h2 := b.code_lt; have h3 := g.isLt
  have k : v = 3 * 67108864 + d.code * 524288 + a.code * 4096 + b.code * 32 + 0 * 8 + g.val := by simp only [e, add_zero_mul]
  obtain ⟨f, f1, f2, f3, f0, f4⟩ := fields_r v 3 (d.code) (a.code) (b.code) 0 (g.val) k (by omega)
  exact ⟨by omega, by rw [parse_03 v f]; simp [parse03, f0, f1, f2, f3, f4]⟩

theorem imaxu (d : Reg) (a : Reg) (b : Reg) (g : Fin 8) : Statement (.imaxu d a b g) := by
  refine ⟨fun _ h => roundTrip_of (n := 3 * 67108864 + d.code * 524288 + a.code * 4096 + b.code * 32 + 1 * 8 + g.val) rfl (fun v e => ?_) h, fun h => nomatch h⟩
  have h0 := d.code_lt; have h1 := a.code_lt; have h2 := b.code_lt; have h3 := g.isLt
  obtain ⟨f, f1, f2, f3, f0, f4⟩ := fields_r v 3 (d.code) (a.code) (b.code) 1 (g.val) e (by omega)
  exact ⟨by omega, by rw [parse_03 v f]; simp [parse03, f0, f1, f2, f3, f4]⟩

theorem iabs (d : Reg) (a : Reg) (g : Fin 8) : Statement (.iabs d a g) := by
  refine ⟨fun _ h => roundTrip_of (n := 3 * 67108864 + d.code * 524288 + a.code * 4096 + 2 * 8 + g.val) rfl (fun v e => ?_) h, fun h => nomatch h⟩
  have h0 := d.code_lt; have h1 := a.code_lt; have h2 := g.isLt
  have k : v = 3 * 67108864 + d.code * 524288 + a.code * 4096 + 0 * 32 + 2 * 8 + g.val := by simp only [e, add_zero_mul]
  obtain ⟨f, f2, f3, f1, f0, f4⟩ := fields_r v 3 (d.code) (a.code) 0 2 (g.val) k (by omega)
  exact ⟨by omega, by rw [parse_03 v f]; simp [parse03, f0, f1, f2, f3, f4]⟩

theorem ineg (d : Reg) (a : Reg) (g : Fin 8) : Statement (.ineg d a g) := by
  refine ⟨fun _ h => roundTrip_of (n := 3 * 67108864 + d.code * 524288 + a.code * 4096 + 3 * 8 + g.val) rfl (fun v e => ?_) h, fun h => nomatch h⟩
  have h0 := d.code_lt; have h1 := a.code_lt; have h2 := g.isLt
  have k : v = 3 * 67108864 + d.code * 524288 + a.code * 4096 + 0 * 32 + 3 * 8 + g.val := by simp only [e, add_zero_mul]
  obtain ⟨f, f2, f3, f1, f0, f4⟩ := fields_r v 3 (d.code) (a.code) 0 3 (g.val) k (by omega)
  exact ⟨by omega, by rw [parse_03 v f]; simp [parse03, f0, f1, f2, f3, f4]⟩

theorem andb (d : Reg) (a : Reg) (b : Reg) (g : Fin 8) : Statement (.andb d a b g) := by
  refine ⟨fun _ h => roundTrip_of (n := 4 * 67108864 + d.code * 524288 + a.code * 4096 + b.code * 32 + g.val) rfl (fun v e => ?_) h, fun h => nomatch h⟩
  have h0 := d.code_lt; have h1 := a.code_lt; have h2 := b.code_lt; have h3 := g.isLt
  have k : v = 4 * 67108864 + d.code * 524288 + a.code * 4096 + b.code * 32 + 0 * 8 + g.val := by simp only [e, add_zero_mul]
  obtain ⟨f, f1, f2, f3, f0, f4⟩ := fields_r v 4 (d.code) (a.code) (b.code) 0 (g.val) k (by omega)
  exact ⟨by omega, by rw [parse_04 v f]; simp [parse04, f0, f1, f2, f3, f4]⟩

theorem orb (d : Reg) (a : Reg) (b : Reg) (g : Fin 8) : Statement (.orb d a b g) := by
  refine ⟨fun _ h => roundTrip_of (n := 4 * 67108864 + d.code * 524288 + a.code * 4096 + b.code * 32 + 1 * 8 + g.val) rfl (fun v e => ?_) h, fun h => nomatch h⟩
  have h0 := d.code_lt; have h1 := a.code_lt; have h2 := b.code_lt; have h3 := g.isLt
  obtain ⟨f, f1, f2, f3, f0, f4⟩ := fields_r v 4 (d.code) (a.code) (b.code) 1 (g.val) e (by omega)
  exact ⟨by omega, by rw [parse_04 v f]; simp [parse04, f0, f1, f2, f3, f4]⟩

theorem xorb (d : Reg) (a : Reg) (b : Reg) (g : Fin 8) : Statement (.xorb d a b g) := by
  refine ⟨fun _ h => roundTrip_of (n := 4 * 67108864 + d.code * 524288 + a.code * 4096 + b.code * 32 + 2 * 8 + g.val) rfl (fun v e => ?_) h, fun h => nomatch h⟩
  have h0 := d.code_lt; have h1 := a.code_lt; have h2 := b.code_lt; have h3 := g.isLt
  obtain ⟨f, f1, f2, f3, f0, f4⟩ := fields_r v 4 (d.code) (a.code) (b.code) 2 (g.val) e (by omega)
  exact ⟨by omega, by rw [parse_04 v f]; simp [parse04, f0, f1, f2, f3, f4]⟩

theorem andn (d : Reg) (a : Reg) (b : Reg) (g : Fin 8) : Statement (.andn d a b g) := by
  refine ⟨fun _ h => roundTrip_of (n := 4 * 67108864 + d.code * 524288 + a.code * 4096 + b.code * 32 + 3 * 8 + g.val) rfl (fun v e => ?_) h, fun h => nomatch h⟩
  have h0 := d.code_lt; have h1 := a.code_lt; have h2 := b.code_lt; have h3 := g.isLt
  obtain ⟨f, f1, f2, f3, f0, f4⟩ := fields_r v 4 (d.code) (a.code) (b.code) 3 (g.val) e (by omega)
  exact ⟨by omega, by rw [parse_04 v f]; simp [parse04, f0, f1, f2, f3, f4]⟩

theorem shl (d : Reg) (a : Reg) (b : Reg) (g : Fin 8) : Statement (.shl d a b g) := by
  refine ⟨fun _ h => roundTrip_of (n := 5 * 67108864 + d.code * 524288 + a.code * 4096 + b.code * 32 + g.val) rfl (fun v e => ?_) h, fun h => nomatch h⟩
  have h0 := d.code_lt; have h1 := a.code_lt; have h2 := b.code_lt; have h3 := g.isLt
  have k : v = 5 * 67108864 + d.code * 524288 + a.code * 4096 + b.code * 32 + 0 * 8 + g.val := by simp only [e, add_zero_mul]
  obtain ⟨f, f1, f2, f3, f0, f4⟩ := fields_r v 5 (d.code) (a.code) (b.code) 0 (g.val) k (by omega)
  exact ⟨by omega, by rw [parse_05 v f]; simp [parse05, f0, f1, f2, f3, f4]⟩

theorem shr (d : Reg) (a : Reg) (b : Reg) (g : Fin 8) : Statement (.shr d a b g) := by
  refine ⟨fun _ h => roundTrip_of (n := 5 * 67108864 + d.code * 524288 + a.code * 4096 + b.code * 32 + 1 * 8 + g.val) rfl (fun v e => ?_) h, fun h => nomatch h⟩
  have h0 := d.code_lt; have h1 := a.code_lt; have h2 := b.code_lt; have h3 := g.isLt
  obtain ⟨f, f1, f2, f3, f0, f4⟩ := fields_r v 5 (d.code) (a.code) (b.code) 1 (g.val) e (by omega)
  exact ⟨by omega, by rw [parse_05 v f]; simp [parse05, f0, f1, f2, f3, f4]⟩

theorem sar (d : Reg) (a : Reg) (b : Reg) (g : Fin 8) : Statement (.sar d a b g) := by
  refine ⟨fun _ h => roundTrip_of (n := 5 * 67108864 + d.code * 524288 + a.code * 4096 + b.code * 32 + 2 * 8 + g.val) rfl (fun v e => ?_) h, fun h => nomatch h⟩
  have h0 := d.code_lt; have h1 := a.code_lt; have h2 := b.code_lt; have h3 := g.isLt
  obtain ⟨f, f1, f2, f3, f0, f4⟩ := fields_r v 5 (d.code) (a.code) (b.code) 2 (g.val) e (by omega)
  exact ⟨by omega, by rw [parse_05 v f]; simp [parse05, f0, f1, f2, f3, f4]⟩

theorem rotl (d : Reg) (a : Reg) (b : Reg) (g : Fin 8) : Statement (.rotl d a b g) := by
  refine ⟨fun _ h => roundTrip_of (n := 5 * 67108864 + d.code * 524288 + a.code * 4096 + b.code * 32 + 3 * 8 + g.val) rfl (fun v e => ?_) h, fun h => nomatch h⟩
  have h0 := d.code_lt; have h1 := a.code_lt; have h2 := b.code_lt; have h3 := g.isLt
  obtain ⟨f, f1, f2, f3, f0, f4⟩ := fields_r v 5 (d.code) (a.code) (b.code) 3 (g.val) e (by omega)
  exact ⟨by omega, by rw [parse_05 v f]; simp [parse05, f0, f1, f2, f3, f4]⟩

theorem popc (d : Reg) (a : Reg) (g : Fin 8) : Statement (.popc d a g) := by
  refine ⟨fun _ h => roundTrip_of (n := 6 * 67108864 + d.code * 524288 + a.code * 4096 + g.val) rfl (fun v e => ?_) h, fun h => nomatch h⟩
  have h0 := d.code_lt; have h1 := a.code_lt; have h2 := g.isLt
  have k : v = 6 * 67108864 + d.code * 524288 + a.code * 4096 + 0 * 32 + 0 * 8 + g.val := by simp only [e, add_zero_mul]
  obtain ⟨f, f2, f3, f1, f0, f4⟩ := fields_r v 6 (d.code) (a.code) 0 0 (g.val) k (by omega)
  exact ⟨by omega, by rw [parse_06 v f]; simp [parse06, f0, f1, f2, f3, f4]⟩

theorem clz (d : Reg) (a : Reg) (g : Fin 8) : Statement (.clz d a g) := by
  refine ⟨fun _ h => roundTrip_of (n := 6 * 67108864 + d.code * 524288 + a.code * 4096 + 1 * 8 + g.val) rfl (fun v e => ?_) h, fun h => nomatch h⟩
  have h0 := d.code_lt; have h1 := a.code_lt; have h2 := g.isLt
  have k : v = 6 * 67108864 + d.code * 524288 + a.code * 4096 + 0 * 32 + 1 * 8 + g.val := by simp only [e, add_zero_mul]
  obtain ⟨f, f2, f3, f1, f0, f4⟩ := fields_r v 6 (d.code) (a.code) 0 1 (g.val) k (by omega)
  exact ⟨by omega, by rw [parse_06 v f]; simp [parse06, f0, f1, f2, f3, f4]⟩

theorem brev (d : Reg) (a : Reg) (g : Fin 8) : Statement (.brev d a g) := by
  refine ⟨fun _ h => roundTrip_of (n := 6 * 67108864 + d.code * 524288 + a.code * 4096 + 2 * 8 + g.val) rfl (fun v e => ?_) h, fun h => nomatch h⟩
  have h0 := d.code_lt; have h1 := a.code_lt; have h2 := g.isLt
  have k : v = 6 * 67108864 + d.code * 524288 + a.code * 4096 + 0 * 32 + 2 * 8 + g.val := by simp only [e, add_zero_mul]
  obtain ⟨f, f2, f3, f1, f0, f4⟩ := fields_r v 6 (d.code) (a.code) 0 2 (g.val) k (by omega)
  exact ⟨by omega, by rw [parse_06 v f]; simp [parse06, f0, f1, f2, f3, f4]⟩

theorem bfe (d : Reg) (a : Reg) (b : Reg) (g : Fin 8) : Statement (.bfe d a b g) := by
  refine ⟨fun _ h => roundTrip_of (n := 6 * 67108864 + d.code * 524288 + a.code * 4096 + b.code * 32 + 3 * 8 + g.val) rfl (fun v e => ?_) h, fun h => nomatch h⟩
  have h0 := d.code_lt; have h1 := a.code_lt; have h2 := b.code_lt; have h3 := g.isLt
  obtain ⟨f, f1, f2, f3, f0, f4⟩ := fields_r v 6 (d.code) (a.code) (b.code) 3 (g.val) e (by omega)
  exact ⟨by omega, by rw [parse_06 v f]; simp [parse06, f0, f1, f2, f3, f4]⟩

theorem bfi (d : Reg) (a : Reg) (b : Reg) (g : Fin 8) : Statement (.bfi d a b g) := by
  refine ⟨fun _ h => roundTrip_of (n := 7 * 67108864 + d.code * 524288 + a.code * 4096 + b.code * 32 + g.val) rfl (fun v e => ?_) h, fun h => nomatch h⟩
  have h0 := d.code_lt; have h1 := a.code_lt; have h2 := b.code_lt; have h3 := g.isLt
  have k : v = 7 * 67108864 + d.code * 524288 + a.code * 4096 + b.code * 32 + 0 * 8 + g.val := by simp only [e, add_zero_mul]
  obtain ⟨f, f1, f2, f3, f0, f4⟩ := fields_r v 7 (d.code) (a.code) (b.code) 0 (g.val) k (by omega)
  exact ⟨by omega, by rw [parse_07 v f]; simp [parse07, f0, f1, f2, f3, f4]⟩

theorem lea (d : Reg) (a : Reg) (b : Reg) (g : Fin 8) : Statement (.lea d a b g) := by
  refine ⟨fun _ h => roundTrip_of (n := 7 * 67108864 + d.code * 524288 + a.code * 4096 + b.code * 32 + 1 * 8 + g.val) rfl (fun v e => ?_) h, fun h => nomatch h⟩
  have h0 := d.code_lt; have h1 := a.code_lt; have h2 := b.code_lt; have h3 := g.isLt
  obtain ⟨f, f1, f2, f3, f0, f4⟩ := fields_r v 7 (d.code) (a.code) (b.code) 1 (g.val) e (by omega)
  exact ⟨by omega, by rw [parse_07 v f]; simp [parse07, f0, f1, f2, f3, f4]⟩

theorem sel (d : Reg) (a : Reg) (b : Reg) (g : Fin 8) : Statement (.sel d a b g) := by
  refine ⟨fun _ h => roundTrip_of (n := 7 * 67108864 + d.code * 524288 + a.code * 4096 + b.code * 32 + 2 * 8 + g.val) rfl (fun v e => ?_) h, fun h => nomatch h⟩
  have h0 := d.code_lt; have h1 := a.code_lt; have h2 := b.code_lt; have h3 := g.isLt
  obtain ⟨f, f1, f2, f3, f0, f4⟩ := fields_r v 7 (d.code) (a.code) (b.code) 2 (g.val) e (by omega)
  exact ⟨by omega, by rw [parse_07 v f]; simp [parse07, f0, f1, f2, f3, f4]⟩

theorem mov (d : Reg) (a : Reg) (g : Fin 8) : Statement (.mov d a g) := by
  refine ⟨fun _ h => roundTrip_of (n := 7 * 67108864 + d.code * 524288 + a.code * 4096 + 3 * 8 + g.val) rfl (fun v e => ?_) h, fun h => nomatch h⟩
  have h0 := d.code_lt; have h1 := a.code_lt; have h2 := g.isLt
  have k : v = 7 * 67108864 + d.code * 524288 + a.code * 4096 + 0 * 32 + 3 * 8 + g.val := by simp only [e, add_zero_mul]
  obtain ⟨f, f2, f3, f1, f0, f4⟩ := fields_r v 7 (d.code) (a.code) 0 3 (g.val) k (by omega)
  exact ⟨by omega, by rw [parse_07 v f]; simp [parse07, f0, f1, f2, f3, f4]⟩

theorem iadd64 (d : Reg) (a : Reg) (b : Reg) (g : Fin 8) : Statement (.iadd64 d a b g) := by
  refine ⟨fun _ h => roundTrip_of (n := 8 * 67108864 + d.code * 524288 + a.code * 4096 + b.code * 32 + g.val) rfl (fun v e => ?_) h, fun h => nomatch h⟩
  have h0 := d.code_lt; have h1 := a.code_lt; have h2 := b.code_lt; have h3 := g.isLt
  have k : v = 8 * 67108864 + d.code * 524288 + a.code * 4096 + b.code * 32 + 0 * 8 + g.val := by simp only [e, add_zero_mul]
  obtain ⟨f, f1, f2, f3, f0, f4⟩ := fields_r v 8 (d.code) (a.code) (b.code) 0 (g.val) k (by omega)
  exact ⟨by omega, by rw [parse_08 v f]; simp [parse08, f0, f1, f2, f3, f4]⟩

theorem isub64 (d : Reg) (a : Reg) (b : Reg) (g : Fin 8) : Statement (.isub64 d a b g) := by
  refine ⟨fun _ h => roundTrip_of (n := 8 * 67108864 + d.code * 524288 + a.code * 4096 + b.code * 32 + 1 * 8 + g.val) rfl (fun v e => ?_) h, fun h => nomatch h⟩
  have h0 := d.code_lt; have h1 := a.code_lt; have h2 := b.code_lt; have h3 := g.isLt
  obtain ⟨f, f1, f2, f3, f0, f4⟩ := fields_r v 8 (d.code) (a.code) (b.code) 1 (g.val) e (by omega)
  exact ⟨by omega, by rw [parse_08 v f]; simp [parse08, f0, f1, f2, f3, f4]⟩

theorem imul64 (d : Reg) (a : Reg) (b : Reg) (g : Fin 8) : Statement (.imul64 d a b g) := by
  refine ⟨fun _ h => roundTrip_of (n := 8 * 67108864 + d.code * 524288 + a.code * 4096 + b.code * 32 + 2 * 8 + g.val) rfl (fun v e => ?_) h, fun h => nomatch h⟩
  have h0 := d.code_lt; have h1 := a.code_lt; have h2 := b.code_lt; have h3 := g.isLt
  obtain ⟨f, f1, f2, f3, f0, f4⟩ := fields_r v 8 (d.code) (a.code) (b.code) 2 (g.val) e (by omega)
  exact ⟨by omega, by rw [parse_08 v f]; simp [parse08, f0, f1, f2, f3, f4]⟩

theorem mov64 (d : Reg) (a : Reg) (g : Fin 8) : Statement (.mov64 d a g) := by
  refine ⟨fun _ h => roundTrip_of (n := 8 * 67108864 + d.code * 524288 + a.code * 4096 + 3 * 8 + g.val) rfl (fun v e => ?_) h, fun h => nomatch h⟩
  have h0 := d.code_lt; have h1 := a.code_lt; have h2 := g.isLt
  have k : v = 8 * 67108864 + d.code * 524288 + a.code * 4096 + 0 * 32 + 3 * 8 + g.val := by simp only [e, add_zero_mul]
  obtain ⟨f, f2, f3, f1, f0, f4⟩ := fields_r v 8 (d.code) (a.code) 0 3 (g.val) k (by omega)
  exact ⟨by omega, by rw [parse_08 v f]; simp [parse08, f0, f1, f2, f3, f4]⟩

theorem shl64 (d : Reg) (a : Reg) (b : Reg) (g : Fin 8) : Statement (.shl64 d a b g) := by
  refine ⟨fun _ h => roundTrip_of (n := 9 * 67108864 + d.code * 524288 + a.code * 4096 + b.code * 32 + g.val) rfl (fun v e => ?_) h, fun h => nomatch h⟩
  have h0 := d.code_lt; have h1 := a.code_lt; have h2 := b.code_lt; have h3 := g.isLt
  have k : v = 9 * 67108864 + d.code * 524288 + a.code * 4096 + b.code * 32 + 0 * 8 + g.val := by simp only [e, add_zero_mul]
  obtain ⟨f, f1, f2, f3, f0, f4⟩ := fields_r v 9 (d.code) (a.code) (b.code) 0 (g.val) k (by omega)
  exact ⟨by omega, by rw [parse_09 v f]; simp [parse09, f0, f1, f2, f3, f4]⟩

theorem shr64 (d : Reg) (a : Reg) (b : Reg) (g : Fin 8) : Statement (.shr64 d a b g) := by
  refine ⟨fun _ h => roundTrip_of (n := 9 * 67108864 + d.code * 524288 + a.code * 4096 + b.code * 32 + 1 * 8 + g.val) rfl (fun v e => ?_) h, fun h => nomatch h⟩
  have h0 := d.code_lt; have h1 := a.code_lt; have h2 := b.code_lt; have h3 := g.isLt
  obtain ⟨f, f1, f2, f3, f0, f4⟩ := fields_r v 9 (d.code) (a.code) (b.code) 1 (g.val) e (by omega)
  exact ⟨by omega, by rw [parse_09 v f]; simp [parse09, f0, f1, f2, f3, f4]⟩

theorem sar64 (d : Reg) (a : Reg) (b : Reg) (g : Fin 8) : Statement (.sar64 d a b g) := by
  refine ⟨fun _ h => roundTrip_of (n := 9 * 67108864 + d.code * 524288 + a.code * 4096 + b.code * 32 + 2 * 8 + g.val) rfl (fun v e => ?_) h, fun h => nomatch h⟩
  have h0 := d.code_lt; have h1 := a.code_lt; have h2 := b.code_lt; have h3 := g.isLt
  obtain ⟨f, f1, f2, f3, f0, f4⟩ := fields_r v 9 (d.code) (a.code) (b.code) 2 (g.val) e (by omega)
  exact ⟨by omega, by rw [parse_09 v f]; simp [parse09, f0, f1, f2, f3, f4]⟩

theorem imad64 (d : Reg) (a : Reg) (b : Reg) (g : Fin 8) : Statement (.imad64 d a b g) := by
  refine ⟨fun _ h => roundTrip_of (n := 9 * 67108864 + d.code * 524288 + a.code * 4096 + b.code * 32 + 3 * 8 + g.val) rfl (fun v e => ?_) h, fun h => nomatch h⟩
  have h0 := d.code_lt; have h1 := a.code_lt; have h2 := b.code_lt; have h3 := g.isLt
  obtain ⟨f, f1, f2, f3, f0, f4⟩ := fields_r v 9 (d.code) (a.code) (b.code) 3 (g.val) e (by omega)
  exact ⟨by omega, by rw [parse_09 v f]; simp [parse09, f0, f1, f2, f3, f4]⟩

theorem icmpEq (p : Fin 128) (a : Reg) (b : Reg) (g : Fin 8) : Statement (.icmpEq p a b g) := by
  refine ⟨fun _ h => roundTrip_of (n := 10 * 67108864 + p.val * 524288 + a.code * 4096 + b.code * 32 + g.val) rfl (fun v e => ?_) h, fun h => nomatch h⟩
  have h0 := p.isLt; have h1 := a.code_lt; have h2 := b.code_lt; have h3 := g.isLt
  have k : v = 10 * 67108864 + p.val * 524288 + a.code * 4096 + b.code * 32 + 0 * 8 + g.val := by simp only [e, add_zero_mul]
  obtain ⟨f, f3, f1, f2, f0, f4⟩ := fields_r v 10 (p.val) (a.code) (b.code) 0 (g.val) k (by omega)
  exact ⟨by omega, by rw [parse_0A v f]; simp [parse0A, f0, f1, f2, f3, f4]⟩

theorem icmpNe (p : Fin 128) (a : Reg) (b : Reg) (g : Fin 8) : Statement (.icmpNe p a b g) := by
  refine ⟨fun _ h => roundTrip_of (n := 10 * 67108864 + p.val * 524288 + a.code * 4096 + b.code * 32 + 1 * 8 + g.val) rfl (fun v e => ?_) h, fun h => nomatch h⟩
  have h0 := p.isLt; have h1 := a.code_lt; have h2 := b.code_lt; have h3 := g.isLt
  obtain ⟨f, f3, f1, f2, f0, f4⟩ := fields_r v 10 (p.val) (a.code) (b.code) 1 (g.val) e (by omega)
  exact ⟨by omega, by rw [parse_0A v f]; simp [parse0A, f0, f1, f2, f3, f4]⟩

theorem icmpLt (p : Fin 128) (a : Reg) (b : Reg) (g : Fin 8) : Statement (.icmpLt p a b g) := by
  refine ⟨fun _ h => roundTrip_of (n := 10 * 67108864 + p.val * 524288 + a.code * 4096 + b.code * 32 + 2 * 8 + g.val) rfl (fun v e => ?_) h, fun h => nomatch h⟩
  have h0 := p.isLt; have h1 := a.code_lt; have h2 := b.code_lt; have h3 := g.isLt
  obtain ⟨f, f3, f1, f2, f0, f4⟩ := fields_r v 10 (p.val) (a.code) (b.code) 2 (g.val) e (by omega)
  exact ⟨by omega, by rw [parse_0A v f]; simp [parse0A, f0, f1, f2, f3, f4]⟩

theorem icmpLe (p : Fin 128) (a : Reg) (b : Reg) (g : Fin 8) : Statement (.icmpLe p a b g) := by
  refine ⟨fun _ h => roundTrip_of (n := 10 * 67108864 + p.val * 524288 + a.code * 4096 + b.code * 32 + 3 * 8 + g.val) rfl (fun v e => ?_) h, fun h => nomatch h⟩
  have h0 := p.isLt; have h1 := a.code_lt; have h2 := b.code_lt; have h3 := g.isLt
  obtain ⟨f, f3, f1, f2, f0, f4⟩ := fields_r v 10 (p.val) (a.code) (b.code) 3 (g.val) e (by omega)
  exact ⟨by omega, by rw [parse_0A v f]; simp [parse0A, f0, f1, f2, f3, f4]⟩

theorem icmpLtu (p : Fin 128) (a : Reg) (b : Reg) (g : Fin 8) : Statement (.icmpLtu p a b g) := by
  refine ⟨fun _ h => roundTrip_of (n := 11 * 67108864 + p.val * 524288 + a.code * 4096 + b.code * 32 + g.val) rfl (fun v e => ?_) h, fun h => nomatch h⟩
  have h0 := p.isLt; have h1 := a.code_lt; have h2 := b.code_lt; have h3 := g.isLt
  have k : v = 11 * 67108864 + p.val * 524288 + a.code * 4096 + b.code * 32 + 0 * 8 + g.val := by simp only [e, add_zero_mul]
  obtain ⟨f, f3, f1, f2, f0, f4⟩ := fields_r v 11 (p.val) (a.code) (b.code) 0 (g.val) k (by omega)
  exact ⟨by omega, by rw [parse_0B v f]; simp [parse0B, f0, f1, f2, f3, f4]⟩

theorem icmpLeu (p : Fin 128) (a : Reg) (b : Reg) (g : Fin 8) : Statement (.icmpLeu p a b g) := by
  refine ⟨fun _ h => roundTrip_of (n := 11 * 67108864 + p.val * 524288 + a.code * 4096 + b.code * 32 + 1 * 8 + g.val) rfl (fun v e => ?_) h, fun h => nomatch h⟩
  have h0 := p.isLt; have h1 := a.code_lt; have h2 := b.code_lt; have h3 := g.isLt
  obtain ⟨f, f3, f1, f2, f0, f4⟩ := fields_r v 11 (p.val) (a.code) (b.code) 1 (g.val) e (by omega)
  exact ⟨by omega, by rw [parse_0B v f]; simp [parse0B, f0, f1, f2, f3, f4]⟩

theorem itst (p : Fin 128) (a : Reg) (b : Reg) (g : Fin 8) : Statement (.itst p a b g) := by
  refine ⟨fun _ h => roundTrip_of (n := 11 * 67108864 + p.val * 524288 + a.code * 4096 + b.code * 32 + 2 * 8 + g.val) rfl (fun v e => ?_) h, fun h => nomatch h⟩
  have h0 := p.isLt; have h1 := a.code_lt; have h2 := b.code_lt; have h3 := g.isLt
  obtain ⟨f, f3, f1, f2, f0, f4⟩ := fields_r v 11 (p.val) (a.code) (b.code) 2 (g.val) e (by omega)
  exact ⟨by omega, by rw [parse_0B v f]; simp [parse0B, f0, f1, f2, f3, f4]⟩

theorem itstn (p : Fin 128) (a : Reg) (b : Reg) (g : Fin 8) : Statement (.itstn p a b g) := by
  refine ⟨fun _ h => roundTrip_of (n := 11 * 67108864 + p.val * 524288 + a.code * 4096 + b.code * 32 + 3 * 8 + g.val) rfl (fun v e => ?_) h, fun h => nomatch h⟩
  have h0 := p.isLt; have h1 := a.code_lt; have h2 := b.code_lt; have h3 := g.isLt
  obtain ⟨f, f3, f1, f2, f0, f4⟩ := fields_r v 11 (p.val) (a.code) (b.code) 3 (g.val) e (by omega)
  exact ⟨by omega, by rw [parse_0B v f]; simp [parse0B, f0, f1, f2, f3, f4]⟩

theorem pand (p : Fin 128) (q : Fin 128) (r : Fin 128) (g : Fin 8) : Statement (.pand p q r g) := by
  refine ⟨fun _ h => roundTrip_of (n := 12 * 67108864 + p.val * 524288 + q.val * 4096 + r.val * 32 + g.val) rfl (fun v e => ?_) h, fun h => nomatch h⟩
  have h0 := p.isLt; have h1 := q.isLt; have h2 := r.isLt; have h3 := g.isLt
  have k : v = 12 * 67108864 + p.val * 524288 + q.val * 4096 + r.val * 32 + 0 * 8 + g.val := by simp only [e, add_zero_mul]
  obtain ⟨f, f1, f2, f3, f0, f4⟩ := fields_r v 12 (p.val) (q.val) (r.val) 0 (g.val) k (by omega)
  exact ⟨by omega, by rw [parse_0C v f]; simp [parse0C, f0, f1, f2, f3, f4]⟩

theorem por (p : Fin 128) (q : Fin 128) (r : Fin 128) (g : Fin 8) : Statement (.por p q r g) := by
  refine ⟨fun _ h => roundTrip_of (n := 12 * 67108864 + p.val * 524288 + q.val * 4096 + r.val * 32 + 1 * 8 + g.val) rfl (fun v e => ?_) h, fun h => nomatch h⟩
  have h0 := p.isLt; have h1 := q.isLt; have h2 := r.isLt; have h3 := g.isLt
  obtain ⟨f, f1, f2, f3, f0, f4⟩ := fields_r v 12 (p.val) (q.val) (r.val) 1 (g.val) e (by omega)
  exact ⟨by omega, by rw [parse_0C v f]; simp [parse0C, f0, f1, f2, f3, f4]⟩

theorem pxor (p : Fin 128) (q : Fin 128) (r : Fin 128) (g : Fin 8) : Statement (.pxor p q r g) := by
  refine ⟨fun _ h => roundTrip_of (n := 12 * 67108864 + p.val * 524288 + q.val * 4096 + r.val * 32 + 2 * 8 + g.val) rfl (fun v e => ?_) h, fun h => nomatch h⟩
  have h0 := p.isLt; have h1 := q.isLt; have h2 := r.isLt; have h3 := g.isLt
  obtain ⟨f, f1, f2, f3, f0, f4⟩ := fields_r v 12 (p.val) (q.val) (r.val) 2 (g.val) e (by omega)
  exact ⟨by omega, by rw [parse_0C v f]; simp [parse0C, f0, f1, f2, f3, f4]⟩

theorem pandn (p : Fin 128) (q : Fin 128) (r : Fin 128) (g : Fin 8) : Statement (.pandn p q r g) := by
  refine ⟨fun _ h => roundTrip_of (n := 12 * 67108864 + p.val * 524288 + q.val * 4096 + r.val * 32 + 3 * 8 + g.val) rfl (fun v e => ?_) h, fun h => nomatch h⟩
  have h0 := p.isLt; have h1 := q.isLt; have h2 := r.isLt; have h3 := g.isLt
  obtain ⟨f, f1, f2, f3, f0, f4⟩ := fields_r v 12 (p.val) (q.val) (r.val) 3 (g.val) e (by omega)
  exact ⟨by omega, by rw [parse_0C v f]; simp [parse0C, f0, f1, f2, f3, f4]⟩

theorem pmov (p : Fin 128) (q : Fin 128) (g : Fin 8) : Statement (.pmov p q g) := by
  refine ⟨fun _ h => roundTrip_of (n := 13 * 67108864 + p.val * 524288 + q.val * 4096 + g.val) rfl (fun v e => ?_) h, fun h => nomatch h⟩
  have h0 := p.isLt; have h1 := q.isLt; have h2 := g.isLt
  have k : v = 13 * 67108864 + p.val * 524288 + q.val * 4096 + 0 * 32 + 0 * 8 + g.val := by simp only [e, add_zero_mul]
  obtain ⟨f, f2, f3, f1, f0, f4⟩ := fields_r v 13 (p.val) (q.val) 0 0 (g.val) k (by omega)
  exact ⟨by omega, by rw [parse_0D v f]; simp [parse0D, f0, f1, f2, f3, f4]⟩

theorem ptor (d : Reg) (q : Fin 128) (g : Fin 8) : Statement (.ptor d q g) := by
  refine ⟨fun _ h => roundTrip_of (n := 13 * 67108864 + d.code * 524288 + q.val * 4096 + 1 * 8 + g.val) rfl (fun v e => ?_) h, fun h => nomatch h⟩
  have h0 := d.code_lt; have h1 := q.isLt; have h2 := g.isLt
  have k : v = 13 * 67108864 + d.code * 524288 + q.val * 4096 + 0 * 32 + 1 * 8 + g.val := by simp only [e, add_zero_mul]
  obtain ⟨f, f2, f3, f1, f0, f4⟩ := fields_r v 13 (d.code) (q.val) 0 1 (g.val) k (by omega)
  exact ⟨by omega, by rw [parse_0D v f]; simp [parse0D, f0, f1, f2, f3, f4]⟩

theorem rtop (p : Fin 128) (a : Reg) (g : Fin 8) : Statement (.rtop p a g) := by
  refine ⟨fun _ h => roundTrip_of (n := 13 * 67108864 + p.val * 524288 + a.code * 4096 + 2 * 8 + g.val) rfl (fun v e => ?_) h, fun h => nomatch h⟩
  have h0 := p.isLt; have h1 := a.code_lt; have h2 := g.isLt
  have k : v = 13 * 67108864 + p.val * 524288 + a.code * 4096 + 0 * 32 + 2 * 8 + g.val := by simp only [e, add_zero_mul]
  obtain ⟨f, f3, f2, f1, f0, f4⟩ := fields_r v 13 (p.val) (a.code) 0 2 (g.val) k (by omega)
  exact ⟨by omega, by rw [parse_0D v f]; simp [parse0D, f0, f1, f2, f3, f4]⟩

theorem pcnt (d : Reg) (q : Fin 128) (g : Fin 8) : Statement (.pcnt d q g) := by
  refine ⟨fun _ h => roundTrip_of (n := 13 * 67108864 + d.code * 524288 + q.val * 4096 + 3 * 8 + g.val) rfl (fun v e => ?_) h, fun h => nomatch h⟩
  have h0 := d.code_lt; have h1 := q.isLt; have h2 := g.isLt
  have k : v = 13 * 67108864 + d.code * 524288 + q.val * 4096 + 0 * 32 + 3 * 8 + g.val := by simp only [e, add_zero_mul]
  obtain ⟨f, f2, f3, f1, f0, f4⟩ := fields_r v 13 (d.code) (q.val) 0 3 (g.val) k (by omega)
  exact ⟨by omega, by rw [parse_0D v f]; simp [parse0D, f0, f1, f2, f3, f4]⟩

theorem fadd (ty : FTy) (d : Reg) (a : Reg) (b : Reg) (g : Fin 8) : Statement (.fadd ty d a b g) := by
  refine ⟨fun _ h => roundTrip_of (n := 14 * 67108864 + d.code * 524288 + a.code * 4096 + b.code * 32 + ty.code * 8 + g.val) rfl (fun v e => ?_) h, fun h => nomatch h⟩
  have h0 := ty.code_lt; have h1 := d.code_lt; have h2 := a.code_lt; have h3 := b.code_lt; have h4 := g.isLt
  obtain ⟨f, f1, f2, f3, f0, f4⟩ := fields_r v 14 (d.code) (a.code) (b.code) (ty.code) (g.val) e (by omega)
  exact ⟨by omega, by rw [parse_0E v f]; simp [parse0E, f0, f1, f2, f3, f4]⟩

theorem fsub (ty : FTy) (d : Reg) (a : Reg) (b : Reg) (g : Fin 8) : Statement (.fsub ty d a b g) := by
  refine ⟨fun _ h => roundTrip_of (n := 15 * 67108864 + d.code * 524288 + a.code * 4096 + b.code * 32 + ty.code * 8 + g.val) rfl (fun v e => ?_) h, fun h => nomatch h⟩
  have h0 := ty.code_lt; have h1 := d.code_lt; have h2 := a.code_lt; have h3 := b.code_lt; have h4 := g.isLt
  obtain ⟨f, f1, f2, f3, f0, f4⟩ := fields_r v 15 (d.code) (a.code) (b.code) (ty.code) (g.val) e (by omega)
  exact ⟨by omega, by rw [parse_0F v f]; simp [parse0F, f0, f1, f2, f3, f4]⟩

theorem fmul (ty : FTy) (d : Reg) (a : Reg) (b : Reg) (g : Fin 8) : Statement (.fmul ty d a b g) := by
  refine ⟨fun _ h => roundTrip_of (n := 16 * 67108864 + d.code * 524288 + a.code * 4096 + b.code * 32 + ty.code * 8 + g.val) rfl (fun v e => ?_) h, fun h => nomatch h⟩
  have h0 := ty.code_lt; have h1 := d.code_lt; have h2 := a.code_lt; have h3 := b.code_lt; have h4 := g.isLt
  obtain ⟨f, f1, f2, f3, f0, f4⟩ := fields_r v 16 (d.code) (a.code) (b.code) (ty.code) (g.val) e (by omega)
  exact ⟨by omega, by rw [parse_10 v f]; simp [parse10, f0, f1, f2, f3, f4]⟩

theorem ffma (ty : FTy) (d : Reg) (a : Reg) (b : Reg) (g : Fin 8) : Statement (.ffma ty d a b g) := by
  refine ⟨fun _ h => roundTrip_of (n := 17 * 67108864 + d.code * 524288 + a.code * 4096 + b.code * 32 + ty.code * 8 + g.val) rfl (fun v e => ?_) h, fun h => nomatch h⟩
  have h0 := ty.code_lt; have h1 := d.code_lt; have h2 := a.code_lt; have h3 := b.code_lt; have h4 := g.isLt
  obtain ⟨f, f1, f2, f3, f0, f4⟩ := fields_r v 17 (d.code) (a.code) (b.code) (ty.code) (g.val) e (by omega)
  exact ⟨by omega, by rw [parse_11 v f]; simp [parse11, f0, f1, f2, f3, f4]⟩

theorem fmin (ty : FTy) (d : Reg) (a : Reg) (b : Reg) (g : Fin 8) : Statement (.fmin ty d a b g) := by
  refine ⟨fun _ h => roundTrip_of (n := 18 * 67108864 + d.code * 524288 + a.code * 4096 + b.code * 32 + ty.code * 8 + g.val) rfl (fun v e => ?_) h, fun h => nomatch h⟩
  have h0 := ty.code_lt; have h1 := d.code_lt; have h2 := a.code_lt; have h3 := b.code_lt; have h4 := g.isLt
  obtain ⟨f, f1, f2, f3, f0, f4⟩ := fields_r v 18 (d.code) (a.code) (b.code) (ty.code) (g.val) e (by omega)
  exact ⟨by omega, by rw [parse_12 v f]; simp [parse12, f0, f1, f2, f3, f4]⟩

theorem fmax (ty : FTy) (d : Reg) (a : Reg) (b : Reg) (g : Fin 8) : Statement (.fmax ty d a b g) := by
  refine ⟨fun _ h => roundTrip_of (n := 19 * 67108864 + d.code * 524288 + a.code * 4096 + b.code * 32 + ty.code * 8 + g.val) rfl (fun v e => ?_) h, fun h => nomatch h⟩
  have h0 := ty.code_lt; have h1 := d.code_lt; have h2 := a.code_lt; have h3 := b.code_lt; have h4 := g.isLt
  obtain ⟨f, f1, f2, f3, f0, f4⟩ := fields_r v 19 (d.code) (a.code) (b.code) (ty.code) (g.val) e (by omega)
  exact ⟨by omega, by rw [parse_13 v f]; simp [parse13, f0, f1, f2, f3, f4]⟩

theorem fcmpeq (ty : FTy) (p : Fin 128) (a : Reg) (b : Reg) (g : Fin 8) : Statement (.fcmpeq ty p a b g) := by
  refine ⟨fun _ h => roundTrip_of (n := 20 * 67108864 + p.val * 524288 + a.code * 4096 + b.code * 32 + ty.code * 8 + g.val) rfl (fun v e => ?_) h, fun h => nomatch h⟩
  have h0 := ty.code_lt; have h1 := p.isLt; have h2 := a.code_lt; have h3 := b.code_lt; have h4 := g.isLt
  obtain ⟨f, f3, f1, f2, f0, f4⟩ := fields_r v 20 (p.val) (a.code) (b.code) (ty.code) (g.val) e (by omega)
  exact ⟨by omega, by rw [parse_14 v f]; simp [parse14, f0, f1, f2, f3, f4]⟩

theorem fcmplt (ty : FTy) (p : Fin 128) (a : Reg) (b : Reg) (g : Fin 8) : Statement (.fcmplt ty p a b g) := by
  refine ⟨fun _ h => roundTrip_of (n := 21 * 67108864 + p.val * 524288 + a.code * 4096 + b.code * 32 + ty.code * 8 + g.val) rfl (fun v e => ?_) h, fun h => nomatch h⟩
  have h0 := ty.code_lt; have h1 := p.isLt; have h2 := a.code_lt; have h3 := b.code_lt; have h4 := g.isLt
  obtain ⟨f, f3, f1, f2, f0, f4⟩ := fields_r v 21 (p.val) (a.code) (b.code) (ty.code) (g.val) e (by omega)
  exact ⟨by omega, by rw [parse_15 v f]; simp [parse15, f0, f1, f2, f3, f4]⟩

theorem fcmple (ty : FTy) (p : Fin 128) (a : Reg) (b : Reg) (g : Fin 8) : Statement (.fcmple ty p a b g) := by
  refine ⟨fun _ h => roundTrip_of (n := 22 * 67108864 + p.val * 524288 + a.code * 4096 + b.code * 32 + ty.code * 8 + g.val) rfl (fun v e => ?_) h, fun h => nomatch h⟩
  have h0 := ty.code_lt; have h1 := p.isLt; have h2 := a.code_lt; have h3 := b.code_lt; have h4 := g.isLt
  obtain ⟨f, f3, f1, f2, f0, f4⟩ := fields_r v 22 (p.val) (a.code) (b.code) (ty.code) (g.val) e (by omega)
  exact ⟨by omega, by rw [parse_16 v f]; simp [parse16, f0, f1, f2, f3, f4]⟩

theorem fcmpun (ty : FTy) (p : Fin 128) (a : Reg) (b : Reg) (g : Fin 8) : Statement (.fcmpun ty p a b g) := by
  refine ⟨fun _ h => roundTrip_of (n := 23 * 67108864 + p.val * 524288 + a.code * 4096 + b.code * 32 + ty.code * 8 + g.val) rfl (fun v e => ?_) h, fun h => nomatch h⟩
  have h0 := ty.code_lt; have h1 := p.isLt; have h2 := a.code_lt; have h3 := b.code_lt; have h4 := g.isLt
  obtain ⟨f, f3, f1, f2, f0, f4⟩ := fields_r v 23 (p.val) (a.code) (b.code) (ty.code) (g.val) e (by omega)
  exact ⟨by omega, by rw [parse_17 v f]; simp [parse17, f0, f1, f2, f3, f4]⟩

theorem fdiv (d : Reg) (a : Reg) (b : Reg) (g : Fin 8) : Statement (.fdiv d a b g) := by
  refine ⟨fun _ h => roundTrip_of (n := 24 * 67108864 + d.code * 524288 + a.code * 4096 + b.code * 32 + g.val) rfl (fun v e => ?_) h, fun h => nomatch h⟩
  have h0 := d.code_lt; have h1 := a.code_lt; have h2 := b.code_lt; have h3 := g.isLt
  have k : v = 24 * 67108864 + d.code * 524288 + a.code * 4096 + b.code * 32 + 0 * 8 + g.val := by simp only [e, add_zero_mul]
  obtain ⟨f, f1, f2, f3, f0, f4⟩ := fields_r v 24 (d.code) (a.code) (b.code) 0 (g.val) k (by omega)
  exact ⟨by omega, by rw [parse_18 v f]; simp [parse18, f0, f1, f2, f3, f4]⟩

theorem fsqrt (d : Reg) (a : Reg) (g : Fin 8) : Statement (.fsqrt d a g) := by
  refine ⟨fun _ h => roundTrip_of (n := 24 * 67108864 + d.code * 524288 + a.code * 4096 + 1 * 8 + g.val) rfl (fun v e => ?_) h, fun h => nomatch h⟩
  have h0 := d.code_lt; have h1 := a.code_lt; have h2 := g.isLt
  have k : v = 24 * 67108864 + d.code * 524288 + a.code * 4096 + 0 * 32 + 1 * 8 + g.val := by simp only [e, add_zero_mul]
  obtain ⟨f, f2, f3, f1, f0, f4⟩ := fields_r v 24 (d.code) (a.code) 0 1 (g.val) k (by omega)
  exact ⟨by omega, by rw [parse_18 v f]; simp [parse18, f0, f1, f2, f3, f4]⟩

theorem frsq (d : Reg) (a : Reg) (g : Fin 8) : Statement (.frsq d a g) := by
  refine ⟨fun _ h => roundTrip_of (n := 24 * 67108864 + d.code * 524288 + a.code * 4096 + 2 * 8 + g.val) rfl (fun v e => ?_) h, fun h => nomatch h⟩
  have h0 := d.code_lt; have h1 := a.code_lt; have h2 := g.isLt
  have k : v = 24 * 67108864 + d.code * 524288 + a.code * 4096 + 0 * 32 + 2 * 8 + g.val := by simp only [e, add_zero_mul]
  obtain ⟨f, f2, f3, f1, f0, f4⟩ := fields_r v 24 (d.code) (a.code) 0 2 (g.val) k (by omega)
  exact ⟨by omega, by rw [parse_18 v f]; simp [parse18, f0, f1, f2, f3, f4]⟩

theorem frcp (d : Reg) (a : Reg) (g : Fin 8) : Statement (.frcp d a g) := by
  refine ⟨fun _ h => roundTrip_of (n := 24 * 67108864 + d.code * 524288 + a.code * 4096 + 3 * 8 + g.val) rfl (fun v e => ?_) h, fun h => nomatch h⟩
  have h0 := d.code_lt; have h1 := a.code_lt; have h2 := g.isLt
  have k : v = 24 * 67108864 + d.code * 524288 + a.code * 4096 + 0 * 32 + 3 * 8 + g.val := by simp only [e, add_zero_mul]
  obtain ⟨f, f2, f3, f1, f0, f4⟩ := fields_r v 24 (d.code) (a.code) 0 3 (g.val) k (by omega)
  exact ⟨by omega, by rw [parse_18 v f]; simp [parse18, f0, f1, f2, f3, f4]⟩

theorem fexp2 (d : Reg) (a : Reg) (g : Fin 8) : Statement (.fexp2 d a g) := by
  refine ⟨fun _ h => roundTrip_of (n := 25 * 67108864 + d.code * 524288 + a.code * 4096 + g.val) rfl (fun v e => ?_) h, fun h => nomatch h⟩
  have h0 := d.code_lt; have h1 := a.code_lt; have h2 := g.isLt
  have k : v = 25 * 67108864 + d.code * 524288 + a.code * 4096 + 0 * 32 + 0 * 8 + g.val := by simp only [e, add_zero_mul]
  obtain ⟨f, f2, f3, f1, f0, f4⟩ := fields_r v 25 (d.code) (a.code) 0 0 (g.val) k (by omega)
  exact ⟨by omega, by rw [parse_19 v f]; simp [parse19, f0, f1, f2, f3, f4]⟩

theorem flog2 (d : Reg) (a : Reg) (g : Fin 8) : Statement (.flog2 d a g) := by
  refine ⟨fun _ h => roundTrip_of (n := 25 * 67108864 + d.code * 524288 + a.code * 4096 + 1 * 8 + g.val) rfl (fun v e => ?_) h, fun h => nomatch h⟩
  have h0 := d.code_lt; have h1 := a.code_lt; have h2 := g.isLt
  have k : v = 25 * 67108864 + d.code * 524288 + a.code * 4096 + 0 * 32 + 1 * 8 + g.val := by simp only [e, add_zero_mul]
  obtain ⟨f, f2, f3, f1, f0, f4⟩ := fields_r v 25 (d.code) (a.code) 0 1 (g.val) k (by omega)
  exact ⟨by omega, by rw [parse_19 v f]; simp [parse19, f0, f1, f2, f3, f4]⟩

theorem fsinpi (d : Reg) (a : Reg) (g : Fin 8) : Statement (.fsinpi d a g) := by
  refine ⟨fun _ h => roundTrip_of (n := 25 * 67108864 + d.code * 524288 + a.code * 4096 + 2 * 8 + g.val) rfl (fun v e => ?_) h, fun h => nomatch h⟩
  have h0 := d.code_lt; have h1 := a.code_lt; have h2 := g.isLt
  have k : v = 25 * 67108864 + d.code * 524288 + a.code * 4096 + 0 * 32 + 2 * 8 + g.val := by simp only [e, add_zero_mul]
  obtain ⟨f, f2, f3, f1, f0, f4⟩ := fields_r v 25 (d.code) (a.code) 0 2 (g.val) k (by omega)
  exact ⟨by omega, by rw [parse_19 v f]; simp [parse19, f0, f1, f2, f3, f4]⟩

theorem fcospi (d : Reg) (a : Reg) (g : Fin 8) : Statement (.fcospi d a g) := by
  refine ⟨fun _ h => roundTrip_of (n := 25 * 67108864 + d.code * 524288 + a.code * 4096 + 3 * 8 + g.val) rfl (fun v e => ?_) h, fun h => nomatch h⟩
  have h0 := d.code_lt; have h1 := a.code_lt; have h2 := g.isLt
  have k : v = 25 * 67108864 + d.code * 524288 + a.code * 4096 + 0 * 32 + 3 * 8 + g.val := by simp only [e, add_zero_mul]
  obtain ⟨f, f2, f3, f1, f0, f4⟩ := fields_r v 25 (d.code) (a.code) 0 3 (g.val) k (by omega)
  exact ⟨by omega, by rw [parse_19 v f]; simp [parse19, f0, f1, f2, f3, f4]⟩

theorem ftanh (d : Reg) (a : Reg) (g : Fin 8) : Statement (.ftanh d a g) := by
  refine ⟨fun _ h => roundTrip_of (n := 26 * 67108864 + d.code * 524288 + a.code * 4096 + g.val) rfl (fun v e => ?_) h, fun h => nomatch h⟩
  have h0 := d.code_lt; have h1 := a.code_lt; have h2 := g.isLt
  have k : v = 26 * 67108864 + d.code * 524288 + a.code * 4096 + 0 * 32 + 0 * 8 + g.val := by simp only [e, add_zero_mul]
  obtain ⟨f, f2, f3, f1, f0, f4⟩ := fields_r v 26 (d.code) (a.code) 0 0 (g.val) k (by omega)
  exact ⟨by omega, by rw [parse_1A v f]; simp [parse1A, f0, f1, f2, f3, f4]⟩

theorem fsigm (d : Reg) (a : Reg) (g : Fin 8) : Statement (.fsigm d a g) := by
  refine ⟨fun _ h => roundTrip_of (n := 26 * 67108864 + d.code * 524288 + a.code * 4096 + 1 * 8 + g.val) rfl (fun v e => ?_) h, fun h => nomatch h⟩
  have h0 := d.code_lt; have h1 := a.code_lt; have h2 := g.isLt
  have k : v = 26 * 67108864 + d.code * 524288 + a.code * 4096 + 0 * 32 + 1 * 8 + g.val := by simp only [e, add_zero_mul]
  obtain ⟨f, f2, f3, f1, f0, f4⟩ := fields_r v 26 (d.code) (a.code) 0 1 (g.val) k (by omega)
  exact ⟨by omega, by rw [parse_1A v f]; simp [parse1A, f0, f1, f2, f3, f4]⟩

theorem fldexp (d : Reg) (a : Reg) (b : Reg) (g : Fin 8) : Statement (.fldexp d a b g) := by
  refine ⟨fun _ h => roundTrip_of (n := 26 * 67108864 + d.code * 524288 + a.code * 4096 + b.code * 32 + 2 * 8 + g.val) rfl (fun v e => ?_) h, fun h => nomatch h⟩
  have h0 := d.code_lt; have h1 := a.code_lt; have h2 := b.code_lt; have h3 := g.isLt
  obtain ⟨f, f1, f2, f3, f0, f4⟩ := fields_r v 26 (d.code) (a.code) (b.code) 2 (g.val) e (by omega)
  exact ⟨by omega, by rw [parse_1A v f]; simp [parse1A, f0, f1, f2, f3, f4]⟩

theorem frint (d : Reg) (a : Reg) (g : Fin 8) : Statement (.frint d a g) := by
  refine ⟨fun _ h => roundTrip_of (n := 26 * 67108864 + d.code * 524288 + a.code * 4096 + 3 * 8 + g.val) rfl (fun v e => ?_) h, fun h => nomatch h⟩
  have h0 := d.code_lt; have h1 := a.code_lt; have h2 := g.isLt
  have k : v = 26 * 67108864 + d.code * 524288 + a.code * 4096 + 0 * 32 + 3 * 8 + g.val := by simp only [e, add_zero_mul]
  obtain ⟨f, f2, f3, f1, f0, f4⟩ := fields_r v 26 (d.code) (a.code) 0 3 (g.val) k (by omega)
  exact ⟨by omega, by rw [parse_1A v f]; simp [parse1A, f0, f1, f2, f3, f4]⟩

theorem cvtfi (d : Reg) (a : Reg) (ce : CE) (uns : Bool) (g : Fin 8) : Statement (.cvtfi d a ce uns g) := by
  refine ⟨fun _ h => roundTrip_of (n := 27 * 67108864 + d.code * 524288 + a.code * 4096 + ce.code * 512 + uns.toNat * 32 + g.val) rfl (fun v e => ?_) h, fun h => nomatch h⟩
  have h0 := d.code_lt; have h1 := a.code_lt; have h2 := ce.code_lt; have h3 := uns.toNat_lt; have h4 := g.isLt
  have k : v = 27 * 67108864 + d.code * 524288 + a.code * 4096 + ce.code * 512 + 0 * 64 + uns.toNat * 32 + 0 * 8 + g.val := by simp only [e, add_zero_mul]
  obtain ⟨f, f2, f3, f4, f1, f5, f0, f6⟩ := fields_x9 v 27 (d.code) (a.code) (ce.code) 0 (uns.toNat) 0 (g.val) k (by omega)
  exact ⟨by omega, by rw [parse_1B v f]; simp [parse1B, f0, f1, f2, f3, f4, f5, f6]⟩

theorem cvtif (d : Reg) (a : Reg) (ce : CE) (uns : Bool) (g : Fin 8) : Statement (.cvtif d a ce uns g) := by
  refine ⟨fun _ h => roundTrip_of (n := 27 * 67108864 + d.code * 524288 + a.code * 4096 + ce.code * 512 + uns.toNat * 32 + 1 * 8 + g.val) rfl (fun v e => ?_) h, fun h => nomatch h⟩
  have h0 := d.code_lt; have h1 := a.code_lt; have h2 := ce.code_lt; have h3 := uns.toNat_lt; have h4 := g.isLt
  have k : v = 27 * 67108864 + d.code * 524288 + a.code * 4096 + ce.code * 512 + 0 * 64 + uns.toNat * 32 + 1 * 8 + g.val := by simp only [e, add_zero_mul]
  obtain ⟨f, f2, f3, f4, f1, f5, f0, f6⟩ := fields_x9 v 27 (d.code) (a.code) (ce.code) 0 (uns.toNat) 1 (g.val) k (by omega)
  exact ⟨by omega, by rw [parse_1B v f]; simp [parse1B, f0, f1, f2, f3, f4, f5, f6]⟩

theorem cvtff (d : Reg) (a : Reg) (src : CE) (dst : CE) (g : Fin 8) : Statement (.cvtff d a src dst g) := by
  refine ⟨fun _ h => roundTrip_of (n := 27 * 67108864 + d.code * 524288 + a.code * 4096 + src.code * 512 + dst.code * 32 + 2 * 8 + g.val) rfl (fun v e => ?_) h, fun h => nomatch h⟩
  have h0 := d.code_lt; have h1 := a.code_lt; have h2 := src.code_lt; have h3 := dst.code_lt; have h4 := g.isLt
  have k : v = 27 * 67108864 + d.code * 524288 + a.code * 4096 + src.code * 512 + 0 * 256 + dst.code * 32 + 2 * 8 + g.val := by simp only [e, add_zero_mul]
  obtain ⟨f, f2, f3, f4, f1, f5, f0, f6⟩ := fields_x10 v 27 (d.code) (a.code) (src.code) 0 (dst.code) 2 (g.val) k (by omega)
  exact ⟨by omega, by rw [parse_1B v f]; simp [parse1B, f0, f1, f2, f3, f4, f5, f6]⟩

theorem cvtpk (d : Reg) (a : Reg) (ce : CE) (g : Fin 8) : Statement (.cvtpk d a ce g) := by
  refine ⟨fun _ h => roundTrip_of (n := 27 * 67108864 + d.code * 524288 + a.code * 4096 + ce.code * 512 + 3 * 8 + g.val) rfl (fun v e => ?_) h, fun h => nomatch h⟩
  have h0 := d.code_lt; have h1 := a.code_lt; have h2 := ce.code_lt; have h3 := g.isLt
  have k : v = 27 * 67108864 + d.code * 524288 + a.code * 4096 + ce.code * 512 + 0 * 32 + 3 * 8 + g.val := by simp only [e, add_zero_mul]
  obtain ⟨f, f2, f3, f4, f1, f0, f5⟩ := fields_x11 v 27 (d.code) (a.code) (ce.code) 0 3 (g.val) k (by omega)
  exact ⟨by omega, by rw [parse_1B v f]; simp [parse1B, f0, f1, f2, f3, f4, f5]⟩

theorem fabs (d : Reg) (a : Reg) (g : Fin 8) : Statement (.fabs d a g) := by
  refine ⟨fun _ h => roundTrip_of (n := 28 * 67108864 + d.code * 524288 + a.code * 4096 + g.val) rfl (fun v e => ?_) h, fun h => nomatch h⟩
  have h0 := d.code_lt; have h1 := a.code_lt; have h2 := g.isLt
  have k : v = 28 * 67108864 + d.code * 524288 + a.code * 4096 + 0 * 32 + 0 * 8 + g.val := by simp only [e, add_zero_mul]
  obtain ⟨f, f2, f3, f1, f0, f4⟩ := fields_r v 28 (d.code) (a.code) 0 0 (g.val) k (by omega)
  exact ⟨by omega, by rw [parse_1C v f]; simp [parse1C, f0, f1, f2, f3, f4]⟩

theorem fneg (d : Reg) (a : Reg) (g : Fin 8) : Statement (.fneg d a g) := by
  refine ⟨fun _ h => roundTrip_of (n := 28 * 67108864 + d.code * 524288 + a.code * 4096 + 1 * 8 + g.val) rfl (fun v e => ?_) h, fun h => nomatch h⟩
  have h0 := d.code_lt; have h1 := a.code_lt; have h2 := g.isLt
  have k : v = 28 * 67108864 + d.code * 524288 + a.code * 4096 + 0 * 32 + 1 * 8 + g.val := by simp only [e, add_zero_mul]
  obtain ⟨f, f2, f3, f1, f0, f4⟩ := fields_r v 28 (d.code) (a.code) 0 1 (g.val) k (by omega)
  exact ⟨by omega, by rw [parse_1C v f]; simp [parse1C, f0, f1, f2, f3, f4]⟩

theorem fcpys (d : Reg) (a : Reg) (b : Reg) (g : Fin 8) : Statement (.fcpys d a b g) := by
  refine ⟨fun _ h => roundTrip_of (n := 28 * 67108864 + d.code * 524288 + a.code * 4096 + b.code * 32 + 2 * 8 + g.val) rfl (fun v e => ?_) h, fun h => nomatch h⟩
  have h0 := d.code_lt; have h1 := a.code_lt; have h2 := b.code_lt; have h3 := g.isLt
  obtain ⟨f, f1, f2, f3, f0, f4⟩ := fields_r v 28 (d.code) (a.code) (b.code) 2 (g.val) e (by omega)
  exact ⟨by omega, by rw [parse_1C v f]; simp [parse1C, f0, f1, f2, f3, f4]⟩

theorem fclass (d : Reg) (a : Reg) (g : Fin 8) : Statement (.fclass d a g) := by
  refine ⟨fun _ h => roundTrip_of (n := 28 * 67108864 + d.code * 524288 + a.code * 4096 + 3 * 8 + g.val) rfl (fun v e => ?_) h, fun h => nomatch h⟩
  have h0 := d.code_lt; have h1 := a.code_lt; have h2 := g.isLt
  have k : v = 28 * 67108864 + d.code * 524288 + a.code * 4096 + 0 * 32 + 3 * 8 + g.val := by simp only [e, add_zero_mul]
  obtain ⟨f, f2, f3, f1, f0, f4⟩ := fields_r v 28 (d.code) (a.code) 0 3 (g.val) k (by omega)
  exact ⟨by omega, by rw [parse_1C v f]; simp [parse1C, f0, f1, f2, f3, f4]⟩

theorem xacc (d : Reg) (a : Reg) (b : Reg) (g : Fin 8) : Statement (.xacc d a b g) := by
  refine ⟨fun _ h => roundTrip_of (n := 29 * 67108864 + d.code * 524288 + a.code * 4096 + b.code * 32 + g.val) rfl (fun v e => ?_) h, fun h => nomatch h⟩
  have h0 := d.code_lt; have h1 := a.code_lt; have h2 := b.code_lt; have h3 := g.isLt
  have k : v = 29 * 67108864 + d.code * 524288 + a.code * 4096 + b.code * 32 + 0 * 8 + g.val := by simp only [e, add_zero_mul]
  obtain ⟨f, f1, f2, f3, f0, f4⟩ := fields_r v 29 (d.code) (a.code) (b.code) 0 (g.val) k (by omega)
  exact ⟨by omega, by rw [parse_1D v f]; simp [parse1D, f0, f1, f2, f3, f4]⟩

theorem xadd (d : Reg) (a : Reg) (g : Fin 8) : Statement (.xadd d a g) := by
  refine ⟨fun _ h => roundTrip_of (n := 29 * 67108864 + d.code * 524288 + a.code * 4096 + 1 * 8 + g.val) rfl (fun v e => ?_) h, fun h => nomatch h⟩
  have h0 := d.code_lt; have h1 := a.code_lt; have h2 := g.isLt
  have k : v = 29 * 67108864 + d.code * 524288 + a.code * 4096 + 0 * 32 + 1 * 8 + g.val := by simp only [e, add_zero_mul]
  obtain ⟨f, f2, f3, f1, f0, f4⟩ := fields_r v 29 (d.code) (a.code) 0 1 (g.val) k (by omega)
  exact ⟨by omega, by rw [parse_1D v f]; simp [parse1D, f0, f1, f2, f3, f4]⟩

theorem xcvt (d : Reg) (a : Reg) (ce : CE) (g : Fin 8) : Statement (.xcvt d a ce g) := by
  refine ⟨fun _ h => roundTrip_of (n := 29 * 67108864 + d.code * 524288 + a.code * 4096 + ce.code * 512 + 2 * 8 + g.val) rfl (fun v e => ?_) h, fun h => nomatch h⟩
  have h0 := d.code_lt; have h1 := a.code_lt; have h2 := ce.code_lt; have h3 := g.isLt
  have k : v = 29 * 67108864 + d.code * 524288 + a.code * 4096 + ce.code * 512 + 0 * 32 + 2 * 8 + g.val := by simp only [e, add_zero_mul]
  obtain ⟨f, f2, f3, f4, f1, f0, f5⟩ := fields_x11 v 29 (d.code) (a.code) (ce.code) 0 2 (g.val) k (by omega)
  exact ⟨by omega, by rw [parse_1D v f]; simp [parse1D, f0, f1, f2, f3, f4, f5]⟩

theorem xneg (d : Reg) (a : Reg) (g : Fin 8) : Statement (.xneg d a g) := by
  refine ⟨fun _ h => roundTrip_of (n := 29 * 67108864 + d.code * 524288 + a.code * 4096 + 3 * 8 + g.val) rfl (fun v e => ?_) h, fun h => nomatch h⟩
  have h0 := d.code_lt; have h1 := a.code_lt; have h2 := g.isLt
  have k : v = 29 * 67108864 + d.code * 524288 + a.code * 4096 + 0 * 32 + 3 * 8 + g.val := by simp only [e, add_zero_mul]
  obtain ⟨f, f2, f3, f1, f0, f4⟩ := fields_r v 29 (d.code) (a.code) 0 3 (g.val) k (by omega)
  exact ⟨by omega, by rw [parse_1D v f]; simp [parse1D, f0, f1, f2, f3, f4]⟩

theorem xanc (a : Reg) (g : Fin 8) : Statement (.xanc a g) := by
  refine ⟨fun _ h => roundTrip_of (n := 30 * 67108864 + a.code * 4096 + g.val) rfl (fun v e => ?_) h, fun h => nomatch h⟩
  have h0 := a.code_lt; have h1 := g.isLt
  have k : v = 30 * 67108864 + 0 * 524288 + a.code * 4096 + 0 * 32 + 0 * 8 + g.val := by simp only [e, add_zero_mul]
  obtain ⟨f, f1, f3, f2, f0, f4⟩ := fields_r v 30 0 (a.code) 0 0 (g.val) k (by omega)
  exact ⟨by omega, by rw [parse_1E v f]; simp [parse1E, f0, f1, f2, f3, f4]⟩

theorem xdoth (d : Reg) (a : Reg) (b : Reg) (g : Fin 8) : Statement (.xdoth d a b g) := by
  refine ⟨fun _ h => roundTrip_of (n := 30 * 67108864 + d.code * 524288 + a.code * 4096 + b.code * 32 + 1 * 8 + g.val) rfl (fun v e => ?_) h, fun h => nomatch h⟩
  have h0 := d.code_lt; have h1 := a.code_lt; have h2 := b.code_lt; have h3 := g.isLt
  obtain ⟨f, f1, f2, f3, f0, f4⟩ := fields_r v 30 (d.code) (a.code) (b.code) 1 (g.val) e (by omega)
  exact ⟨by omega, by rw [parse_1E v f]; simp [parse1E, f0, f1, f2, f3, f4]⟩

theorem xdotb (d : Reg) (a : Reg) (b : Reg) (g : Fin 8) : Statement (.xdotb d a b g) := by
  refine ⟨fun _ h => roundTrip_of (n := 30 * 67108864 + d.code * 524288 + a.code * 4096 + b.code * 32 + 2 * 8 + g.val) rfl (fun v e => ?_) h, fun h => nomatch h⟩
  have h0 := d.code_lt; have h1 := a.code_lt; have h2 := b.code_lt; have h3 := g.isLt
  obtain ⟨f, f1, f2, f3, f0, f4⟩ := fields_r v 30 (d.code) (a.code) (b.code) 2 (g.val) e (by omega)
  exact ⟨by omega, by rw [parse_1E v f]; simp [parse1E, f0, f1, f2, f3, f4]⟩

theorem xcmp (p : Fin 128) (a : Reg) (b : Reg) (g : Fin 8) : Statement (.xcmp p a b g) := by
  refine ⟨fun _ h => roundTrip_of (n := 30 * 67108864 + p.val * 524288 + a.code * 4096 + b.code * 32 + 3 * 8 + g.val) rfl (fun v e => ?_) h, fun h => nomatch h⟩
  have h0 := p.isLt; have h1 := a.code_lt; have h2 := b.code_lt; have h3 := g.isLt
  obtain ⟨f, f3, f1, f2, f0, f4⟩ := fields_r v 30 (p.val) (a.code) (b.code) 3 (g.val) e (by omega)
  exact ⟨by omega, by rw [parse_1E v f]; simp [parse1E, f0, f1, f2, f3, f4]⟩

theorem rshf (d : Reg) (a : Reg) (b : Reg) (g : Fin 8) : Statement (.rshf d a b g) := by
  refine ⟨fun _ h => roundTrip_of (n := 31 * 67108864 + d.code * 524288 + a.code * 4096 + b.code * 32 + g.val) rfl (fun v e => ?_) h, fun h => nomatch h⟩
  have h0 := d.code_lt; have h1 := a.code_lt; have h2 := b.code_lt; have h3 := g.isLt
  have k : v = 31 * 67108864 + d.code * 524288 + a.code * 4096 + b.code * 32 + 0 * 8 + g.val := by simp only [e, add_zero_mul]
  obtain ⟨f, f1, f2, f3, f0, f4⟩ := fields_r v 31 (d.code) (a.code) (b.code) 0 (g.val) k (by omega)
  exact ⟨by omega, by rw [parse_1F v f]; simp [parse1F, f0, f1, f2, f3, f4]⟩

theorem rshfx (d : Reg) (a : Reg) (b : Reg) (g : Fin 8) : Statement (.rshfx d a b g) := by
  refine ⟨fun _ h => roundTrip_of (n := 31 * 67108864 + d.code * 524288 + a.code * 4096 + b.code * 32 + 1 * 8 + g.val) rfl (fun v e => ?_) h, fun h => nomatch h⟩
  have h0 := d.code_lt; have h1 := a.code_lt; have h2 := b.code_lt; have h3 := g.isLt
  obtain ⟨f, f1, f2, f3, f0, f4⟩ := fields_r v 31 (d.code) (a.code) (b.code) 1 (g.val) e (by omega)
  exact ⟨by omega, by rw [parse_1F v f]; simp [parse1F, f0, f1, f2, f3, f4]⟩

theorem rbcast (d : Reg) (a : Reg) (n : Fin 64) (g : Fin 8) : Statement (.rbcast d a n g) := by
  refine ⟨fun _ h => roundTrip_of (n := 31 * 67108864 + d.code * 524288 + a.code * 4096 + n.val * 32 + 2 * 8 + g.val) rfl (fun v e => ?_) h, fun h => nomatch h⟩
  have h0 := d.code_lt; have h1 := a.code_lt; have h2 := n.isLt; have h3 := g.isLt
  have k : v = 31 * 67108864 + d.code * 524288 + a.code * 4096 + 0 * 2048 + n.val * 32 + 2 * 8 + g.val := by simp only [e, add_zero_mul]
  obtain ⟨f, f2, f3, f1, f4, f0, f5⟩ := fields_x12 v 31 (d.code) (a.code) 0 (n.val) 2 (g.val) k (by omega)
  exact ⟨by omega, by rw [parse_1F v f]; simp [parse1F, f0, f1, f2, f3, f4, f5]⟩

theorem rballot (d : Reg) (q : Fin 128) (g : Fin 8) : Statement (.rballot d q g) := by
  refine ⟨fun _ h => roundTrip_of (n := 31 * 67108864 + d.code * 524288 + q.val * 4096 + 3 * 8 + g.val) rfl (fun v e => ?_) h, fun h => nomatch h⟩
  have h0 := d.code_lt; have h1 := q.isLt; have h2 := g.isLt
  have k : v = 31 * 67108864 + d.code * 524288 + q.val * 4096 + 0 * 32 + 3 * 8 + g.val := by simp only [e, add_zero_mul]
  obtain ⟨f, f2, f3, f1, f0, f4⟩ := fields_r v 31 (d.code) (q.val) 0 3 (g.val) k (by omega)
  exact ⟨by omega, by rw [parse_1F v f]; simp [parse1F, f0, f1, f2, f3, f4]⟩

theorem rredAddi (d : Reg) (a : Reg) (rt : RT) (g : Fin 8) : Statement (.rredAddi d a rt g) := by
  refine ⟨fun _ h => roundTrip_of (n := 32 * 67108864 + d.code * 524288 + a.code * 4096 + rt.code * 32 + g.val) rfl (fun v e => ?_) h, fun h => nomatch h⟩
  have h0 := d.code_lt; have h1 := a.code_lt; have h2 := rt.code_lt; have h3 := g.isLt
  have k : v = 32 * 67108864 + d.code * 524288 + a.code * 4096 + 0 * 256 + rt.code * 32 + 0 * 8 + g.val := by simp only [e, add_zero_mul]
  obtain ⟨f, f2, f3, f1, f4, f0, f5⟩ := fields_x13 v 32 (d.code) (a.code) 0 (rt.code) 0 (g.val) k (by omega)
  exact ⟨by omega, by rw [parse_20 v f]; simp [parse20, f0, f1, f2, f3, f4, f5]⟩

theorem rredAddf (d : Reg) (a : Reg) (g : Fin 8) : Statement (.rredAddf d a g) := by
  refine ⟨fun _ h => roundTrip_of (n := 32 * 67108864 + d.code * 524288 + a.code * 4096 + 2 * 32 + 1 * 8 + g.val) rfl (fun v e => ?_) h, fun h => nomatch h⟩
  have h0 := d.code_lt; have h1 := a.code_lt; have h2 := g.isLt
  obtain ⟨f, f2, f3, f1, f0, f4⟩ := fields_r v 32 (d.code) (a.code) 2 1 (g.val) e (by omega)
  exact ⟨by omega, by rw [parse_20 v f]; simp [parse20, f0, f1, f2, f3, f4]⟩

theorem rredMin (d : Reg) (a : Reg) (rt : RT) (g : Fin 8) : Statement (.rredMin d a rt g) := by
  refine ⟨fun _ h => roundTrip_of (n := 32 * 67108864 + d.code * 524288 + a.code * 4096 + rt.code * 32 + 2 * 8 + g.val) rfl (fun v e => ?_) h, fun h => nomatch h⟩
  have h0 := d.code_lt; have h1 := a.code_lt; have h2 := rt.code_lt; have h3 := g.isLt
  have k : v = 32 * 67108864 + d.code * 524288 + a.code * 4096 + 0 * 256 + rt.code * 32 + 2 * 8 + g.val := by simp only [e, add_zero_mul]
  obtain ⟨f, f2, f3, f1, f4, f0, f5⟩ := fields_x13 v 32 (d.code) (a.code) 0 (rt.code) 2 (g.val) k (by omega)
  exact ⟨by omega, by rw [parse_20 v f]; simp [parse20, f0, f1, f2, f3, f4, f5]⟩

theorem rredMax (d : Reg) (a : Reg) (rt : RT) (g : Fin 8) : Statement (.rredMax d a rt g) := by
  refine ⟨fun _ h => roundTrip_of (n := 32 * 67108864 + d.code * 524288 + a.code * 4096 + rt.code * 32 + 3 * 8 + g.val) rfl (fun v e => ?_) h, fun h => nomatch h⟩
  have h0 := d.code_lt; have h1 := a.code_lt; have h2 := rt.code_lt; have h3 := g.isLt
  have k : v = 32 * 67108864 + d.code * 524288 + a.code * 4096 + 0 * 256 + rt.code * 32 + 3 * 8 + g.val := by simp only [e, add_zero_mul]
  obtain ⟨f, f2, f3, f1, f4, f0, f5⟩ := fields_x13 v 32 (d.code) (a.code) 0 (rt.code) 3 (g.val) k (by omega)
  exact ⟨by omega, by rw [parse_20 v f]; simp [parse20, f0, f1, f2, f3, f4, f5]⟩

theorem rscani (d : Reg) (a : Reg) (rt : RT) (ex : Bool) (g : Fin 8) : Statement (.rscani d a rt ex g) := by
  refine ⟨fun _ h => roundTrip_of (n := 33 * 67108864 + d.code * 524288 + a.code * 4096 + ex.toNat * 2048 + rt.code * 32 + g.val) rfl (fun v e => ?_) h, fun h => nomatch h⟩
  have h0 := d.code_lt; have h1 := a.code_lt; have h2 := rt.code_lt; have h3 := ex.toNat_lt; have h4 := g.isLt
  have k : v = 33 * 67108864 + d.code * 524288 + a.code * 4096 + ex.toNat * 2048 + 0 * 256 + rt.code * 32 + 0 * 8 + g.val := by simp only [e, add_zero_mul]
  obtain ⟨f, f2, f3, f5, f1, f4, f0, f6⟩ := fields_x14 v 33 (d.code) (a.code) (ex.toNat) 0 (rt.code) 0 (g.val) k (by omega)
  exact ⟨by omega, by rw [parse_21 v f]; simp [parse21, f0, f1, f2, f3, f4, f5, f6]⟩

theorem rscanf (d : Reg) (a : Reg) (ex : Bool) (g : Fin 8) : Statement (.rscanf d a ex g) := by
  refine ⟨fun _ h => roundTrip_of (n := 33 * 67108864 + d.code * 524288 + a.code * 4096 + ex.toNat * 2048 + 2 * 32 + 1 * 8 + g.val) rfl (fun v e => ?_) h, fun h => nomatch h⟩
  have h0 := d.code_lt; have h1 := a.code_lt; have h2 := ex.toNat_lt; have h3 := g.isLt
  obtain ⟨f, f2, f3, f4, f1, f0, f5⟩ := fields_x12 v 33 (d.code) (a.code) (ex.toNat) 2 1 (g.val) e (by omega)
  exact ⟨by omega, by rw [parse_21 v f]; simp [parse21, f0, f1, f2, f3, f4, f5]⟩

theorem rany (p : Fin 128) (q : Fin 128) (g : Fin 8) : Statement (.rany p q g) := by
  refine ⟨fun _ h => roundTrip_of (n := 33 * 67108864 + p.val * 524288 + q.val * 4096 + 2 * 8 + g.val) rfl (fun v e => ?_) h, fun h => nomatch h⟩
  have h0 := p.isLt; have h1 := q.isLt; have h2 := g.isLt
  have k : v = 33 * 67108864 + p.val * 524288 + q.val * 4096 + 0 * 32 + 2 * 8 + g.val := by simp only [e, add_zero_mul]
  obtain ⟨f, f2, f3, f1, f0, f4⟩ := fields_r v 33 (p.val) (q.val) 0 2 (g.val) k (by omega)
  exact ⟨by omega, by rw [parse_21 v f]; simp [parse21, f0, f1, f2, f3, f4]⟩

theorem rall (p : Fin 128) (q : Fin 128) (g : Fin 8) : Statement (.rall p q g) := by
  refine ⟨fun _ h => roundTrip_of (n := 33 * 67108864 + p.val * 524288 + q.val * 4096 + 3 * 8 + g.val) rfl (fun v e => ?_) h, fun h => nomatch h⟩
  have h0 := p.isLt; have h1 := q.isLt; have h2 := g.isLt
  have k : v = 33 * 67108864 + p.val * 524288 + q.val * 4096 + 0 * 32 + 3 * 8 + g.val := by simp only [e, add_zero_mul]
  obtain ⟨f, f2, f3, f1, f0, f4⟩ := fields_r v 33 (p.val) (q.val) 0 3 (g.val) k (by omega)
  exact ⟨by omega, by rw [parse_21 v f]; simp [parse21, f0, f1, f2, f3, f4]⟩

theorem movi (d : Reg) (imm : BitVec 16) : Statement (.movi d imm) := by
  refine ⟨fun _ h => roundTrip_of (n := 38 * 67108864 + d.code * 524288 + imm.toNat) rfl (fun v e => ?_) h, fun h => nomatch h⟩
  have h0 := d.code_lt; have h1 := imm.isLt
  have k : v = 38 * 67108864 + d.code * 524288 + 0 * 65536 + imm.toNat := by simp only [e, add_zero_mul]
  obtain ⟨f, f1, f0, f2⟩ := fields_i v 38 (d.code) 0 (imm.toNat) k (by omega)
  exact ⟨by omega, by rw [parse_26 v f]; simp [parse26, f0, f1, f2]⟩

theorem movhi (d : Reg) (imm : BitVec 16) : Statement (.movhi d imm) := by
  refine ⟨fun _ h => roundTrip_of (n := 38 * 67108864 + d.code * 524288 + 1 * 65536 + imm.toNat) rfl (fun v e => ?_) h, fun h => nomatch h⟩
  have h0 := d.code_lt; have h1 := imm.isLt
  obtain ⟨f, f1, f0, f2⟩ := fields_i v 38 (d.code) 1 (imm.toNat) e (by omega)
  exact ⟨by omega, by rw [parse_26 v f]; simp [parse26, f0, f1, f2]⟩

theorem addi (d : Reg) (imm : BitVec 16) : Statement (.addi d imm) := by
  refine ⟨fun _ h => roundTrip_of (n := 38 * 67108864 + d.code * 524288 + 2 * 65536 + imm.toNat) rfl (fun v e => ?_) h, fun h => nomatch h⟩
  have h0 := d.code_lt; have h1 := imm.isLt
  obtain ⟨f, f1, f0, f2⟩ := fields_i v 38 (d.code) 2 (imm.toNat) e (by omega)
  exact ⟨by omega, by rw [parse_26 v f]; simp [parse26, f0, f1, f2]⟩

theorem andi (d : Reg) (imm : BitVec 16) : Statement (.andi d imm) := by
  refine ⟨fun _ h => roundTrip_of (n := 38 * 67108864 + d.code * 524288 + 3 * 65536 + imm.toNat) rfl (fun v e => ?_) h, fun h => nomatch h⟩
  have h0 := d.code_lt; have h1 := imm.isLt
  obtain ⟨f, f1, f0, f2⟩ := fields_i v 38 (d.code) 3 (imm.toNat) e (by omega)
  exact ⟨by omega, by rw [parse_26 v f]; simp [parse26, f0, f1, f2]⟩

theorem ori (d : Reg) (imm : BitVec 16) : Statement (.ori d imm) := by
  refine ⟨fun _ h => roundTrip_of (n := 38 * 67108864 + d.code * 524288 + 4 * 65536 + imm.toNat) rfl (fun v e => ?_) h, fun h => nomatch h⟩
  have h0 := d.code_lt; have h1 := imm.isLt
  obtain ⟨f, f1, f0, f2⟩ := fields_i v 38 (d.code) 4 (imm.toNat) e (by omega)
  exact ⟨by omega, by rw [parse_26 v f]; simp [parse26, f0, f1, f2]⟩

theorem xori (d : Reg) (imm : BitVec 16) : Statement (.xori d imm) := by
  refine ⟨fun _ h => roundTrip_of (n := 38 * 67108864 + d.code * 524288 + 5 * 65536 + imm.toNat) rfl (fun v e => ?_) h, fun h => nomatch h⟩
  have h0 := d.code_lt; have h1 := imm.isLt
  obtain ⟨f, f1, f0, f2⟩ := fields_i v 38 (d.code) 5 (imm.toNat) e (by omega)
  exact ⟨by omega, by rw [parse_26 v f]; simp [parse26, f0, f1, f2]⟩

theorem shli (d : Reg) (n : Fin 32) : Statement (.shli d n) := by
  refine ⟨fun _ h => roundTrip_of (n := 38 * 67108864 + d.code * 524288 + 6 * 65536 + n.val) rfl (fun v e => ?_) h, fun h => nomatch h⟩
  have h0 := d.code_lt; have h1 := n.isLt
  have k : v = 38 * 67108864 + d.code * 524288 + 6 * 65536 + 0 * 32 + n.val := by simp only [e, add_zero_mul]
  obtain ⟨f, f2, f0, f1, f3⟩ := fields_sh v 38 (d.code) 6 0 (n.val) k (by omega)
  exact ⟨by omega, by rw [parse_26 v f]; simp [parse26, f0, f1, f2, f3]⟩

theorem shri (d : Reg) (n : Fin 32) : Statement (.shri d n) := by
  refine ⟨fun _ h => roundTrip_of (n := 38 * 67108864 + d.code * 524288 + 7 * 65536 + n.val) rfl (fun v e => ?_) h, fun h => nomatch h⟩
  have h0 := d.code_lt; have h1 := n.isLt
  have k : v = 38 * 67108864 + d.code * 524288 + 7 * 65536 + 0 * 32 + n.val := by simp only [e, add_zero_mul]
  obtain ⟨f, f2, f0, f1, f3⟩ := fields_sh v 38 (d.code) 7 0 (n.val) k (by omega)
  exact ⟨by omega, by rw [parse_26 v f]; simp [parse26, f0, f1, f2, f3]⟩

theorem fmoviF32Bf (d : Reg) (imm : BitVec 16) : Statement (.fmoviF32Bf d imm) := by
  refine ⟨fun _ h => roundTrip_of (n := 39 * 67108864 + d.code * 524288 + imm.toNat) rfl (fun v e => ?_) h, fun h => nomatch h⟩
  have h0 := d.code_lt; have h1 := imm.isLt
  have k : v = 39 * 67108864 + d.code * 524288 + 0 * 65536 + imm.toNat := by simp only [e, add_zero_mul]
  obtain ⟨f, f1, f0, f2⟩ := fields_i v 39 (d.code) 0 (imm.toNat) k (by omega)
  exact ⟨by omega, by rw [parse_27 v f]; simp [parse27, f0, f1, f2]⟩

theorem fmoviF32Hf (d : Reg) (imm : BitVec 16) : Statement (.fmoviF32Hf d imm) := by
  refine ⟨fun _ h => roundTrip_of (n := 39 * 67108864 + d.code * 524288 + 1 * 65536 + imm.toNat) rfl (fun v e => ?_) h, fun h => nomatch h⟩
  have h0 := d.code_lt; have h1 := imm.isLt
  obtain ⟨f, f1, f0, f2⟩ := fields_i v 39 (d.code) 1 (imm.toNat) e (by omega)
  exact ⟨by omega, by rw [parse_27 v f]; simp [parse27, f0, f1, f2]⟩

theorem fmoviE4 (d : Reg) (imm : BitVec 16) : Statement (.fmoviE4 d imm) := by
  refine ⟨fun _ h => roundTrip_of (n := 39 * 67108864 + d.code * 524288 + 2 * 65536 + imm.toNat) rfl (fun v e => ?_) h, fun h => nomatch h⟩
  have h0 := d.code_lt; have h1 := imm.isLt
  obtain ⟨f, f1, f0, f2⟩ := fields_i v 39 (d.code) 2 (imm.toNat) e (by omega)
  exact ⟨by omega, by rw [parse_27 v f]; simp [parse27, f0, f1, f2]⟩

theorem fmoviE5 (d : Reg) (imm : BitVec 16) : Statement (.fmoviE5 d imm) := by
  refine ⟨fun _ h => roundTrip_of (n := 39 * 67108864 + d.code * 524288 + 3 * 65536 + imm.toNat) rfl (fun v e => ?_) h, fun h => nomatch h⟩
  have h0 := d.code_lt; have h1 := imm.isLt
  obtain ⟨f, f1, f0, f2⟩ := fields_i v 39 (d.code) 3 (imm.toNat) e (by omega)
  exact ⟨by omega, by rw [parse_27 v f]; simp [parse27, f0, f1, f2]⟩

theorem fmoviB2 (d : Reg) (imm : BitVec 16) : Statement (.fmoviB2 d imm) := by
  refine ⟨fun _ h => roundTrip_of (n := 39 * 67108864 + d.code * 524288 + 4 * 65536 + imm.toNat) rfl (fun v e => ?_) h, fun h => nomatch h⟩
  have h0 := d.code_lt; have h1 := imm.isLt
  obtain ⟨f, f1, f0, f2⟩ := fields_i v 39 (d.code) 4 (imm.toNat) e (by omega)
  exact ⟨by omega, by rw [parse_27 v f]; simp [parse27, f0, f1, f2]⟩

theorem fmoviH2 (d : Reg) (imm : BitVec 16) : Statement (.fmoviH2 d imm) := by
  refine ⟨fun _ h => roundTrip_of (n := 39 * 67108864 + d.code * 524288 + 5 * 65536 + imm.toNat) rfl (fun v e => ?_) h, fun h => nomatch h⟩
  have h0 := d.code_lt; have h1 := imm.isLt
  obtain ⟨f, f1, f0, f2⟩ := fields_i v 39 (d.code) 5 (imm.toNat) e (by omega)
  exact ⟨by omega, by rw [parse_27 v f]; simp [parse27, f0, f1, f2]⟩

theorem faddiF32 (d : Reg) (imm : BitVec 16) : Statement (.faddiF32 d imm) := by
  refine ⟨fun _ h => roundTrip_of (n := 39 * 67108864 + d.code * 524288 + 6 * 65536 + imm.toNat) rfl (fun v e => ?_) h, fun h => nomatch h⟩
  have h0 := d.code_lt; have h1 := imm.isLt
  obtain ⟨f, f1, f0, f2⟩ := fields_i v 39 (d.code) 6 (imm.toNat) e (by omega)
  exact ⟨by omega, by rw [parse_27 v f]; simp [parse27, f0, f1, f2]⟩

theorem fmuliF32 (d : Reg) (imm : BitVec 16) : Statement (.fmuliF32 d imm) := by
  refine ⟨fun _ h => roundTrip_of (n := 39 * 67108864 + d.code * 524288 + 7 * 65536 + imm.toNat) rfl (fun v e => ?_) h, fun h => nomatch h⟩
  have h0 := d.code_lt; have h1 := imm.isLt
  obtain ⟨f, f1, f0, f2⟩ := fields_i v 39 (d.code) 7 (imm.toNat) e (by omega)
  exact ⟨by omega, by rw [parse_27 v f]; simp [parse27, f0, f1, f2]⟩

theorem winb (imm : BitVec 16) : Statement (.winb imm) := by
  refine ⟨fun _ h => roundTrip_of (n := 40 * 67108864 + imm.toNat) rfl (fun v e => ?_) h, fun h => nomatch h⟩
  have h0 := imm.isLt
  have k : v = 40 * 67108864 + 0 * 524288 + 0 * 65536 + imm.toNat := by simp only [e, add_zero_mul]
  obtain ⟨f, f1, f0, f2⟩ := fields_i v 40 0 0 (imm.toNat) k (by omega)
  exact ⟨by omega, by rw [parse_28 v f]; simp [parse28, f0, f1, f2]⟩

theorem ixset (imm : BitVec 16) : Statement (.ixset imm) := by
  refine ⟨fun _ h => roundTrip_of (n := 40 * 67108864 + 1 * 65536 + imm.toNat) rfl (fun v e => ?_) h, fun h => nomatch h⟩
  have h0 := imm.isLt
  have k : v = 40 * 67108864 + 0 * 524288 + 1 * 65536 + imm.toNat := by simp only [e, add_zero_mul]
  obtain ⟨f, f1, f0, f2⟩ := fields_i v 40 0 1 (imm.toNat) k (by omega)
  exact ⟨by omega, by rw [parse_28 v f]; simp [parse28, f0, f1, f2]⟩

theorem ixadd (imm : BitVec 16) : Statement (.ixadd imm) := by
  refine ⟨fun _ h => roundTrip_of (n := 40 * 67108864 + 2 * 65536 + imm.toNat) rfl (fun v e => ?_) h, fun h => nomatch h⟩
  have h0 := imm.isLt
  have k : v = 40 * 67108864 + 0 * 524288 + 2 * 65536 + imm.toNat := by simp only [e, add_zero_mul]
  obtain ⟨f, f1, f0, f2⟩ := fields_i v 40 0 2 (imm.toNat) k (by omega)
  exact ⟨by omega, by rw [parse_28 v f]; simp [parse28, f0, f1, f2]⟩

theorem ld (d : Reg) (a : Reg) (off : BitVec 4) (rc : RC) (sc : Scope) (ord : Bool) (sz : Sz) : Statement (.ld d a off rc sc ord sz) := by
  refine ⟨fun _ h => roundTrip_of (n := 44 * 67108864 + d.code * 524288 + a.code * 4096 + off.toNat * 256 + rc.code * 64 + sc.code * 16 + ord.toNat * 8 + sz.code) rfl (fun v e => ?_) h, fun h => nomatch h⟩
  have h0 := d.code_lt; have h1 := a.code_lt; have h2 := off.isLt; have h3 := rc.code_lt; have h4 := sc.code_lt; have h5 := ord.toNat_lt; have h6 := sz.code_lt
  obtain ⟨f, f0, f1, f5, f2, f3, f6, f4⟩ := fields_m v 44 (d.code) (a.code) (off.toNat) (rc.code) (sc.code) (ord.toNat) (sz.code) e (by omega)
  exact ⟨by omega, by rw [parse_2C v f]; simp [parse2C, f0, f1, f2, f3, f4, f5, f6]⟩

theorem st (d : Reg) (a : Reg) (off : BitVec 4) (rc : RC) (sc : Scope) (ord : Bool) (sz : Sz) : Statement (.st d a off rc sc ord sz) := by
  refine ⟨fun _ h => roundTrip_of (n := 45 * 67108864 + d.code * 524288 + a.code * 4096 + off.toNat * 256 + rc.code * 64 + sc.code * 16 + ord.toNat * 8 + sz.code) rfl (fun v e => ?_) h, fun h => nomatch h⟩
  have h0 := d.code_lt; have h1 := a.code_lt; have h2 := off.isLt; have h3 := rc.code_lt; have h4 := sc.code_lt; have h5 := ord.toNat_lt; have h6 := sz.code_lt
  obtain ⟨f, f0, f1, f5, f2, f3, f6, f4⟩ := fields_m v 45 (d.code) (a.code) (off.toNat) (rc.code) (sc.code) (ord.toNat) (sz.code) e (by omega)
  exact ⟨by omega, by rw [parse_2D v f]; simp [parse2D, f0, f1, f2, f3, f4, f5, f6]⟩

theorem lds (d : Reg) (a : Reg) (off : BitVec 9) (sz : Sz) : Statement (.lds d a off sz) := by
  refine ⟨fun _ h => roundTrip_of (n := 46 * 67108864 + d.code * 524288 + a.code * 4096 + off.toNat * 8 + sz.code) rfl (fun v e => ?_) h, fun h => nomatch h⟩
  have h0 := d.code_lt; have h1 := a.code_lt; have h2 := off.isLt; have h3 := sz.code_lt
  obtain ⟨f, f0, f1, f3, f2⟩ := fields_s v 46 (d.code) (a.code) (off.toNat) (sz.code) e (by omega)
  exact ⟨by omega, by rw [parse_2E v f]; simp [parse2E, f0, f1, f2, f3]⟩

theorem sts (d : Reg) (a : Reg) (off : BitVec 9) (sz : Sz) : Statement (.sts d a off sz) := by
  refine ⟨fun _ h => roundTrip_of (n := 47 * 67108864 + d.code * 524288 + a.code * 4096 + off.toNat * 8 + sz.code) rfl (fun v e => ?_) h, fun h => nomatch h⟩
  have h0 := d.code_lt; have h1 := a.code_lt; have h2 := off.isLt; have h3 := sz.code_lt
  obtain ⟨f, f0, f1, f3, f2⟩ := fields_s v 47 (d.code) (a.code) (off.toNat) (sz.code) e (by omega)
  exact ⟨by omega, by rw [parse_2F v f]; simp [parse2F, f0, f1, f2, f3]⟩

theorem atomAdd (w : Bool) (d : Reg) (a : Reg) (rc : RC) (sc : Scope) (ord : AOrd) : Statement (.atomAdd w d a rc sc ord) := by
  refine ⟨fun _ h => roundTrip_of (n := 48 * 67108864 + d.code * 524288 + a.code * 4096 + w.toNat * 128 + rc.code * 32 + sc.code * 8 + ord.code * 2) rfl (fun v e => ?_) h, fun h => nomatch h⟩
  have h0 := w.toNat_lt; have h1 := d.code_lt; have h2 := a.code_lt; have h3 := rc.code_lt; have h4 := sc.code_lt; have h5 := ord.code_lt
  have k : v = 48 * 67108864 + d.code * 524288 + a.code * 4096 + 0 * 256 + w.toNat * 128 + rc.code * 32 + sc.code * 8 + ord.code * 2 + 0 := by simp only [e, add_zero_mul, plus_zero]
  obtain ⟨f, f2, f3, f0, f7, f4, f5, f6, f1⟩ := fields_a v 48 (d.code) (a.code) 0 (w.toNat) (rc.code) (sc.code) (ord.code) 0 k (by omega)
  exact ⟨by omega, by rw [parse_30 v f]; simp [parse30, f0, f1, f2, f3, f4, f5, f6, f7]⟩

theorem atomAnd (w : Bool) (d : Reg) (a : Reg) (rc : RC) (sc : Scope) (ord : AOrd) : Statement (.atomAnd w d a rc sc ord) := by
  refine ⟨fun _ h => roundTrip_of (n := 48 * 67108864 + d.code * 524288 + a.code * 4096 + 1 * 256 + w.toNat * 128 + rc.code * 32 + sc.code * 8 + ord.code * 2) rfl (fun v e => ?_) h, fun h => nomatch h⟩
  have h0 := w.toNat_lt; have h1 := d.code_lt; have h2 := a.code_lt; have h3 := rc.code_lt; have h4 := sc.code_lt; have h5 := ord.code_lt
  have k : v = 48 * 67108864 + d.code * 524288 + a.code * 4096 + 1 * 256 + w.toNat * 128 + rc.code * 32 + sc.code * 8 + ord.code * 2 + 0 := by simp only [e, plus_zero]
  obtain ⟨f, f2, f3, f0, f7, f4, f5, f6, f1⟩ := fields_a v 48 (d.code) (a.code) 1 (w.toNat) (rc.code) (sc.code) (ord.code) 0 k (by omega)
  exact ⟨by omega, by rw [parse_30 v f]; simp [parse30, f0, f1, f2, f3, f4, f5, f6, f7]⟩

theorem atomOr (w : Bool) (d : Reg) (a : Reg) (rc : RC) (sc : Scope) (ord : AOrd) : Statement (.atomOr w d a rc sc ord) := by
  refine ⟨fun _ h => roundTrip_of (n := 48 * 67108864 + d.code * 524288 + a.code * 4096 + 2 * 256 + w.toNat * 128 + rc.code * 32 + sc.code * 8 + ord.code * 2) rfl (fun v e => ?_) h, fun h => nomatch h⟩
  have h0 := w.toNat_lt; have h1 := d.code_lt; have h2 := a.code_lt; have h3 := rc.code_lt; have h4 := sc.code_lt; have h5 := ord.code_lt
  have k : v = 48 * 67108864 + d.code * 524288 + a.code * 4096 + 2 * 256 + w.toNat * 128 + rc.code * 32 + sc.code * 8 + ord.code * 2 + 0 := by simp only [e, plus_zero]
  obtain ⟨f, f2, f3, f0, f7, f4, f5, f6, f1⟩ := fields_a v 48 (d.code) (a.code) 2 (w.toNat) (rc.code) (sc.code) (ord.code) 0 k (by omega)
  exact ⟨by omega, by rw [parse_30 v f]; simp [parse30, f0, f1, f2, f3, f4, f5, f6, f7]⟩

theorem atomXor (w : Bool) (d : Reg) (a : Reg) (rc : RC) (sc : Scope) (ord : AOrd) : Statement (.atomXor w d a rc sc ord) := by
  refine ⟨fun _ h => roundTrip_of (n := 48 * 67108864 + d.code * 524288 + a.code * 4096 + 3 * 256 + w.toNat * 128 + rc.code * 32 + sc.code * 8 + ord.code * 2) rfl (fun v e => ?_) h, fun h => nomatch h⟩
  have h0 := w.toNat_lt; have h1 := d.code_lt; have h2 := a.code_lt; have h3 := rc.code_lt; have h4 := sc.code_lt; have h5 := ord.code_lt
  have k : v = 48 * 67108864 + d.code * 524288 + a.code * 4096 + 3 * 256 + w.toNat * 128 + rc.code * 32 + sc.code * 8 + ord.code * 2 + 0 := by simp only [e, plus_zero]
  obtain ⟨f, f2, f3, f0, f7, f4, f5, f6, f1⟩ := fields_a v 48 (d.code) (a.code) 3 (w.toNat) (rc.code) (sc.code) (ord.code) 0 k (by omega)
  exact ⟨by omega, by rw [parse_30 v f]; simp [parse30, f0, f1, f2, f3, f4, f5, f6, f7]⟩

theorem atomMin (w : Bool) (d : Reg) (a : Reg) (rc : RC) (sc : Scope) (ord : AOrd) : Statement (.atomMin w d a rc sc ord) := by
  refine ⟨fun _ h => roundTrip_of (n := 48 * 67108864 + d.code * 524288 + a.code * 4096 + 4 * 256 + w.toNat * 128 + rc.code * 32 + sc.code * 8 + ord.code * 2) rfl (fun v e => ?_) h, fun h => nomatch h⟩
  have h0 := w.toNat_lt; have h1 := d.code_lt; have h2 := a.code_lt; have h3 := rc.code_lt; have h4 := sc.code_lt; have h5 := ord.code_lt
  have k : v = 48 * 67108864 + d.code * 524288 + a.code * 4096 + 4 * 256 + w.toNat * 128 + rc.code * 32 + sc.code * 8 + ord.code * 2 + 0 := by simp only [e, plus_zero]
  obtain ⟨f, f2, f3, f0, f7, f4, f5, f6, f1⟩ := fields_a v 48 (d.code) (a.code) 4 (w.toNat) (rc.code) (sc.code) (ord.code) 0 k (by omega)
  exact ⟨by omega, by rw [parse_30 v f]; simp [parse30, f0, f1, f2, f3, f4, f5, f6, f7]⟩

theorem atomMax (w : Bool) (d : Reg) (a : Reg) (rc : RC) (sc : Scope) (ord : AOrd) : Statement (.atomMax w d a rc sc ord) := by
  refine ⟨fun _ h => roundTrip_of (n := 48 * 67108864 + d.code * 524288 + a.code * 4096 + 5 * 256 + w.toNat * 128 + rc.code * 32 + sc.code * 8 + ord.code * 2) rfl (fun v e => ?_) h, fun h => nomatch h⟩
  have h0 := w.toNat_lt; have h1 := d.code_lt; have h2 := a.code_lt; have h3 := rc.code_lt; have h4 := sc.code_lt; have h5 := ord.code_lt
  have k : v = 48 * 67108864 + d.code * 524288 + a.code * 4096 + 5 * 256 + w.toNat * 128 + rc.code * 32 + sc.code * 8 + ord.code * 2 + 0 := by simp only [e, plus_zero]
  obtain ⟨f, f2, f3, f0, f7, f4, f5, f6, f1⟩ := fields_a v 48 (d.code) (a.code) 5 (w.toNat) (rc.code) (sc.code) (ord.code) 0 k (by omega)
  exact ⟨by omega, by rw [parse_30 v f]; simp [parse30, f0, f1, f2, f3, f4, f5, f6, f7]⟩

theorem atomMinu (w : Bool) (d : Reg) (a : Reg) (rc : RC) (sc : Scope) (ord : AOrd) : Statement (.atomMinu w d a rc sc ord) := by
  refine ⟨fun _ h => roundTrip_of (n := 48 * 67108864 + d.code * 524288 + a.code * 4096 + 6 * 256 + w.toNat * 128 + rc.code * 32 + sc.code * 8 + ord.code * 2) rfl (fun v e => ?_) h, fun h => nomatch h⟩
  have h0 := w.toNat_lt; have h1 := d.code_lt; have h2 := a.code_lt; have h3 := rc.code_lt; have h4 := sc.code_lt; have h5 := ord.code_lt
  have k : v = 48 * 67108864 + d.code * 524288 + a.code * 4096 + 6 * 256 + w.toNat * 128 + rc.code * 32 + sc.code * 8 + ord.code * 2 + 0 := by simp only [e, plus_zero]
  obtain ⟨f, f2, f3, f0, f7, f4, f5, f6, f1⟩ := fields_a v 48 (d.code) (a.code) 6 (w.toNat) (rc.code) (sc.code) (ord.code) 0 k (by omega)
  exact ⟨by omega, by rw [parse_30 v f]; simp [parse30, f0, f1, f2, f3, f4, f5, f6, f7]⟩

theorem atomMaxu (w : Bool) (d : Reg) (a : Reg) (rc : RC) (sc : Scope) (ord : AOrd) : Statement (.atomMaxu w d a rc sc ord) := by
  refine ⟨fun _ h => roundTrip_of (n := 48 * 67108864 + d.code * 524288 + a.code * 4096 + 7 * 256 + w.toNat * 128 + rc.code * 32 + sc.code * 8 + ord.code * 2) rfl (fun v e => ?_) h, fun h => nomatch h⟩
  have h0 := w.toNat_lt; have h1 := d.code_lt; have h2 := a.code_lt; have h3 := rc.code_lt; have h4 := sc.code_lt; have h5 := ord.code_lt
  have k : v = 48 * 67108864 + d.code * 524288 + a.code * 4096 + 7 * 256 + w.toNat * 128 + rc.code * 32 + sc.code * 8 + ord.code * 2 + 0 := by simp only [e, plus_zero]
  obtain ⟨f, f2, f3, f0, f7, f4, f5, f6, f1⟩ := fields_a v 48 (d.code) (a.code) 7 (w.toNat) (rc.code) (sc.code) (ord.code) 0 k (by omega)
  exact ⟨by omega, by rw [parse_30 v f]; simp [parse30, f0, f1, f2, f3, f4, f5, f6, f7]⟩

theorem atomExch (w : Bool) (d : Reg) (a : Reg) (rc : RC) (sc : Scope) (ord : AOrd) : Statement (.atomExch w d a rc sc ord) := by
  refine ⟨fun _ h => roundTrip_of (n := 48 * 67108864 + d.code * 524288 + a.code * 4096 + 8 * 256 + w.toNat * 128 + rc.code * 32 + sc.code * 8 + ord.code * 2) rfl (fun v e => ?_) h, fun h => nomatch h⟩
  have h0 := w.toNat_lt; have h1 := d.code_lt; have h2 := a.code_lt; have h3 := rc.code_lt; have h4 := sc.code_lt; have h5 := ord.code_lt
  have k : v = 48 * 67108864 + d.code * 524288 + a.code * 4096 + 8 * 256 + w.toNat * 128 + rc.code * 32 + sc.code * 8 + ord.code * 2 + 0 := by simp only [e, plus_zero]
  obtain ⟨f, f2, f3, f0, f7, f4, f5, f6, f1⟩ := fields_a v 48 (d.code) (a.code) 8 (w.toNat) (rc.code) (sc.code) (ord.code) 0 k (by omega)
  exact ⟨by omega, by rw [parse_30 v f]; simp [parse30, f0, f1, f2, f3, f4, f5, f6, f7]⟩

theorem atomCas (w : Bool) (d : Reg) (a : Reg) (rc : RC) (sc : Scope) (ord : AOrd) : Statement (.atomCas w d a rc sc ord) := by
  refine ⟨fun _ h => roundTrip_of (n := 48 * 67108864 + d.code * 524288 + a.code * 4096 + 9 * 256 + w.toNat * 128 + rc.code * 32 + sc.code * 8 + ord.code * 2) rfl (fun v e => ?_) h, fun h => nomatch h⟩
  have h0 := w.toNat_lt; have h1 := d.code_lt; have h2 := a.code_lt; have h3 := rc.code_lt; have h4 := sc.code_lt; have h5 := ord.code_lt
  have k : v = 48 * 67108864 + d.code * 524288 + a.code * 4096 + 9 * 256 + w.toNat * 128 + rc.code * 32 + sc.code * 8 + ord.code * 2 + 0 := by simp only [e, plus_zero]
  obtain ⟨f, f2, f3, f0, f7, f4, f5, f6, f1⟩ := fields_a v 48 (d.code) (a.code) 9 (w.toNat) (rc.code) (sc.code) (ord.code) 0 k (by omega)
  exact ⟨by omega, by rw [parse_30 v f]; simp [parse30, f0, f1, f2, f3, f4, f5, f6, f7]⟩

theorem atomFaddF32 (d : Reg) (a : Reg) (rc : RC) (sc : Scope) (ord : AOrd) : Statement (.atomFaddF32 d a rc sc ord) := by
  refine ⟨fun _ h => roundTrip_of (n := 48 * 67108864 + d.code * 524288 + a.code * 4096 + 10 * 256 + rc.code * 32 + sc.code * 8 + ord.code * 2) rfl (fun v e => ?_) h, fun h => nomatch h⟩
  have h0 := d.code_lt; have h1 := a.code_lt; have h2 := rc.code_lt; have h3 := sc.code_lt; have h4 := ord.code_lt
  have k : v = 48 * 67108864 + d.code * 524288 + a.code * 4096 + 10 * 256 + 0 * 128 + rc.code * 32 + sc.code * 8 + ord.code * 2 + 0 := by simp only [e, add_zero_mul, plus_zero]
  obtain ⟨f, f3, f4, f0, f1, f5, f6, f7, f2⟩ := fields_a v 48 (d.code) (a.code) 10 0 (rc.code) (sc.code) (ord.code) 0 k (by omega)
  exact ⟨by omega, by rw [parse_30 v f]; simp [parse30, f0, f1, f2, f3, f4, f5, f6, f7]⟩

theorem atomXadd128 (d : Reg) (a : Reg) (rc : RC) (sc : Scope) (ord : AOrd) : Statement (.atomXadd128 d a rc sc ord) := by
  refine ⟨fun _ h => roundTrip_of (n := 48 * 67108864 + d.code * 524288 + a.code * 4096 + 11 * 256 + 1 * 128 + rc.code * 32 + sc.code * 8 + ord.code * 2) rfl (fun v e => ?_) h, fun h => nomatch h⟩
  have h0 := d.code_lt; have h1 := a.code_lt; have h2 := rc.code_lt; have h3 := sc.code_lt; have h4 := ord.code_lt
  have k : v = 48 * 67108864 + d.code * 524288 + a.code * 4096 + 11 * 256 + 1 * 128 + rc.code * 32 + sc.code * 8 + ord.code * 2 + 0 := by simp only [e, plus_zero]
  obtain ⟨f, f3, f4, f0, f1, f5, f6, f7, f2⟩ := fields_a v 48 (d.code) (a.code) 11 1 (rc.code) (sc.code) (ord.code) 0 k (by omega)
  exact ⟨by omega, by rw [parse_30 v f]; simp [parse30, f0, f1, f2, f3, f4, f5, f6, f7]⟩

theorem atomIncw (w : Bool) (d : Reg) (a : Reg) (rc : RC) (sc : Scope) (ord : AOrd) : Statement (.atomIncw w d a rc sc ord) := by
  refine ⟨fun _ h => roundTrip_of (n := 48 * 67108864 + d.code * 524288 + a.code * 4096 + 12 * 256 + w.toNat * 128 + rc.code * 32 + sc.code * 8 + ord.code * 2) rfl (fun v e => ?_) h, fun h => nomatch h⟩
  have h0 := w.toNat_lt; have h1 := d.code_lt; have h2 := a.code_lt; have h3 := rc.code_lt; have h4 := sc.code_lt; have h5 := ord.code_lt
  have k : v = 48 * 67108864 + d.code * 524288 + a.code * 4096 + 12 * 256 + w.toNat * 128 + rc.code * 32 + sc.code * 8 + ord.code * 2 + 0 := by simp only [e, plus_zero]
  obtain ⟨f, f2, f3, f0, f7, f4, f5, f6, f1⟩ := fields_a v 48 (d.code) (a.code) 12 (w.toNat) (rc.code) (sc.code) (ord.code) 0 k (by omega)
  exact ⟨by omega, by rw [parse_30 v f]; simp [parse30, f0, f1, f2, f3, f4, f5, f6, f7]⟩

theorem atomDecw (w : Bool) (d : Reg) (a : Reg) (rc : RC) (sc : Scope) (ord : AOrd) : Statement (.atomDecw w d a rc sc ord) := by
  refine ⟨fun _ h => roundTrip_of (n := 48 * 67108864 + d.code * 524288 + a.code * 4096 + 13 * 256 + w.toNat * 128 + rc.code * 32 + sc.code * 8 + ord.code * 2) rfl (fun v e => ?_) h, fun h => nomatch h⟩
  have h0 := w.toNat_lt; have h1 := d.code_lt; have h2 := a.code_lt; have h3 := rc.code_lt; have h4 := sc.code_lt; have h5 := ord.code_lt
  have k : v = 48 * 67108864 + d.code * 524288 + a.code * 4096 + 13 * 256 + w.toNat * 128 + rc.code * 32 + sc.code * 8 + ord.code * 2 + 0 := by simp only [e, plus_zero]
  obtain ⟨f, f2, f3, f0, f7, f4, f5, f6, f1⟩ := fields_a v 48 (d.code) (a.code) 13 (w.toNat) (rc.code) (sc.code) (ord.code) 0 k (by omega)
  exact ⟨by omega, by rw [parse_30 v f]; simp [parse30, f0, f1, f2, f3, f4, f5, f6, f7]⟩

theorem atomsAdd (w : Bool) (d : Reg) (a : Reg) (tr : Bool) (ord : AOrd) : Statement (.atomsAdd w d a tr ord) := by
  refine ⟨fun _ h => roundTrip_of (n := 49 * 67108864 + d.code * 524288 + a.code * 4096 + w.toNat * 128 + tr.toNat * 8 + ord.code * 2) rfl (fun v e => ?_) h, fun h => nomatch h⟩
  have h0 := w.toNat_lt; have h1 := d.code_lt; have h2 := a.code_lt; have h3 := tr.toNat_lt; have h4 := ord.code_lt
  have k : v = 49 * 67108864 + d.code * 524288 + a.code * 4096 + 0 * 256 + w.toNat * 128 + 0 * 16 + tr.toNat * 8 + ord.code * 2 + 0 := by simp only [e, add_zero_mul, plus_zero]
  obtain ⟨f, f3, f4, f0, f6, f1, f7, f5, f2⟩ := fields_as v 49 (d.code) (a.code) 0 (w.toNat) 0 (tr.toNat) (ord.code) 0 k (by omega)
  exact ⟨by omega, by rw [parse_31 v f]; simp [parse31, f0, f1, f2, f3, f4, f5, f6, f7]⟩

theorem atomsAnd (w : Bool) (d : Reg) (a : Reg) (tr : Bool) (ord : AOrd) : Statement (.atomsAnd w d a tr ord) := by
  refine ⟨fun _ h => roundTrip_of (n := 49 * 67108864 + d.code * 524288 + a.code * 4096 + 1 * 256 + w.toNat * 128 + tr.toNat * 8 + ord.code * 2) rfl (fun v e => ?_) h, fun h => nomatch h⟩
  have h0 := w.toNat_lt; have h1 := d.code_lt; have h2 := a.code_lt; have h3 := tr.toNat_lt; have h4 := ord.code_lt
  have k : v = 49 * 67108864 + d.code * 524288 + a.code * 4096 + 1 * 256 + w.toNat * 128 + 0 * 16 + tr.toNat * 8 + ord.code * 2 + 0 := by simp only [e, add_zero_mul, plus_zero]
  obtain ⟨f, f3, f4, f0, f6, f1, f7, f5, f2⟩ := fields_as v 49 (d.code) (a.code) 1 (w.toNat) 0 (tr.toNat) (ord.code) 0 k (by omega)
  exact ⟨by omega, by rw [parse_31 v f]; simp [parse31, f0, f1, f2, f3, f4, f5, f6, f7]⟩

theorem atomsOr (w : Bool) (d : Reg) (a : Reg) (tr : Bool) (ord : AOrd) : Statement (.atomsOr w d a tr ord) := by
  refine ⟨fun _ h => roundTrip_of (n := 49 * 67108864 + d.code * 524288 + a.code * 4096 + 2 * 256 + w.toNat * 128 + tr.toNat * 8 + ord.code * 2) rfl (fun v e => ?_) h, fun h => nomatch h⟩
  have h0 := w.toNat_lt; have h1 := d.code_lt; have h2 := a.code_lt; have h3 := tr.toNat_lt; have h4 := ord.code_lt
  have k : v = 49 * 67108864 + d.code * 524288 + a.code * 4096 + 2 * 256 + w.toNat * 128 + 0 * 16 + tr.toNat * 8 + ord.code * 2 + 0 := by simp only [e, add_zero_mul, plus_zero]
  obtain ⟨f, f3, f4, f0, f6, f1, f7, f5, f2⟩ := fields_as v 49 (d.code) (a.code) 2 (w.toNat) 0 (tr.toNat) (ord.code) 0 k (by omega)
  exact ⟨by omega, by rw [parse_31 v f]; simp [parse31, f0, f1, f2, f3, f4, f5, f6, f7]⟩

theorem atomsXor (w : Bool) (d : Reg) (a : Reg) (tr : Bool) (ord : AOrd) : Statement (.atomsXor w d a tr ord) := by
  refine ⟨fun _ h => roundTrip_of (n := 49 * 67108864 + d.code * 524288 + a.code * 4096 + 3 * 256 + w.toNat * 128 + tr.toNat * 8 + ord.code * 2) rfl (fun v e => ?_) h, fun h => nomatch h⟩
  have h0 := w.toNat_lt; have h1 := d.code_lt; have h2 := a.code_lt; have h3 := tr.toNat_lt; have h4 := ord.code_lt
  have k : v = 49 * 67108864 + d.code * 524288 + a.code * 4096 + 3 * 256 + w.toNat * 128 + 0 * 16 + tr.toNat * 8 + ord.code * 2 + 0 := by simp only [e, add_zero_mul, plus_zero]
  obtain ⟨f, f3, f4, f0, f6, f1, f7, f5, f2⟩ := fields_as v 49 (d.code) (a.code) 3 (w.toNat) 0 (tr.toNat) (ord.code) 0 k (by omega)
  exact ⟨by omega, by rw [parse_31 v f]; simp [parse31, f0, f1, f2, f3, f4, f5, f6, f7]⟩

theorem atomsMin (w : Bool) (d : Reg) (a : Reg) (tr : Bool) (ord : AOrd) : Statement (.atomsMin w d a tr ord) := by
  refine ⟨fun _ h => roundTrip_of (n := 49 * 67108864 + d.code * 524288 + a.code * 4096 + 4 * 256 + w.toNat * 128 + tr.toNat * 8 + ord.code * 2) rfl (fun v e => ?_) h, fun h => nomatch h⟩
  have h0 := w.toNat_lt; have h1 := d.code_lt; have h2 := a.code_lt; have h3 := tr.toNat_lt; have h4 := ord.code_lt
  have k : v = 49 * 67108864 + d.code * 524288 + a.code * 4096 + 4 * 256 + w.toNat * 128 + 0 * 16 + tr.toNat * 8 + ord.code * 2 + 0 := by simp only [e, add_zero_mul, plus_zero]
  obtain ⟨f, f3, f4, f0, f6, f1, f7, f5, f2⟩ := fields_as v 49 (d.code) (a.code) 4 (w.toNat) 0 (tr.toNat) (ord.code) 0 k (by omega)
  exact ⟨by omega, by rw [parse_31 v f]; simp [parse31, f0, f1, f2, f3, f4, f5, f6, f7]⟩

theorem atomsMax (w : Bool) (d : Reg) (a : Reg) (tr : Bool) (ord : AOrd) : Statement (.atomsMax w d a tr ord) := by
  refine ⟨fun _ h => roundTrip_of (n := 49 * 67108864 + d.code * 524288 + a.code * 4096 + 5 * 256 + w.toNat * 128 + tr.toNat * 8 + ord.code * 2) rfl (fun v e => ?_) h, fun h => nomatch h⟩
  have h0 := w.toNat_lt; have h1 := d.code_lt; have h2 := a.code_lt; have h3 := tr.toNat_lt; have h4 := ord.code_lt
  have k : v = 49 * 67108864 + d.code * 524288 + a.code * 4096 + 5 * 256 + w.toNat * 128 + 0 * 16 + tr.toNat * 8 + ord.code * 2 + 0 := by simp only [e, add_zero_mul, plus_zero]
  obtain ⟨f, f3, f4, f0, f6, f1, f7, f5, f2⟩ := fields_as v 49 (d.code) (a.code) 5 (w.toNat) 0 (tr.toNat) (ord.code) 0 k (by omega)
  exact ⟨by omega, by rw [parse_31 v f]; simp [parse31, f0, f1, f2, f3, f4, f5, f6, f7]⟩

theorem atomsMinu (w : Bool) (d : Reg) (a : Reg) (tr : Bool) (ord : AOrd) : Statement (.atomsMinu w d a tr ord) := by
  refine ⟨fun _ h => roundTrip_of (n := 49 * 67108864 + d.code * 524288 + a.code * 4096 + 6 * 256 + w.toNat * 128 + tr.toNat * 8 + ord.code * 2) rfl (fun v e => ?_) h, fun h => nomatch h⟩
  have h0 := w.toNat_lt; have h1 := d.code_lt; have h2 := a.code_lt; have h3 := tr.toNat_lt; have h4 := ord.code_lt
  have k : v = 49 * 67108864 + d.code * 524288 + a.code * 4096 + 6 * 256 + w.toNat * 128 + 0 * 16 + tr.toNat * 8 + ord.code * 2 + 0 := by simp only [e, add_zero_mul, plus_zero]
  obtain ⟨f, f3, f4, f0, f6, f1, f7, f5, f2⟩ := fields_as v 49 (d.code) (a.code) 6 (w.toNat) 0 (tr.toNat) (ord.code) 0 k (by omega)
  exact ⟨by omega, by rw [parse_31 v f]; simp [parse31, f0, f1, f2, f3, f4, f5, f6, f7]⟩

theorem atomsMaxu (w : Bool) (d : Reg) (a : Reg) (tr : Bool) (ord : AOrd) : Statement (.atomsMaxu w d a tr ord) := by
  refine ⟨fun _ h => roundTrip_of (n := 49 * 67108864 + d.code * 524288 + a.code * 4096 + 7 * 256 + w.toNat * 128 + tr.toNat * 8 + ord.code * 2) rfl (fun v e => ?_) h, fun h => nomatch h⟩
  have h0 := w.toNat_lt; have h1 := d.code_lt; have h2 := a.code_lt; have h3 := tr.toNat_lt; have h4 := ord.code_lt
  have k : v = 49 * 67108864 + d.code * 524288 + a.code * 4096 + 7 * 256 + w.toNat * 128 + 0 * 16 + tr.toNat * 8 + ord.code * 2 + 0 := by simp only [e, add_zero_mul, plus_zero]
  obtain ⟨f, f3, f4, f0, f6, f1, f7, f5, f2⟩ := fields_as v 49 (d.code) (a.code) 7 (w.toNat) 0 (tr.toNat) (ord.code) 0 k (by omega)
  exact ⟨by omega, by rw [parse_31 v f]; simp [parse31, f0, f1, f2, f3, f4, f5, f6, f7]⟩

theorem atomsExch (w : Bool) (d : Reg) (a : Reg) (tr : Bool) (ord : AOrd) : Statement (.atomsExch w d a tr ord) := by
  refine ⟨fun _ h => roundTrip_of (n := 49 * 67108864 + d.code * 524288 + a.code * 4096 + 8 * 256 + w.toNat * 128 + tr.toNat * 8 + ord.code * 2) rfl (fun v e => ?_) h, fun h => nomatch h⟩
  have h0 := w.toNat_lt; have h1 := d.code_lt; have h2 := a.code_lt; have h3 := tr.toNat_lt; have h4 := ord.code_lt
  have k : v = 49 * 67108864 + d.code * 524288 + a.code * 4096 + 8 * 256 + w.toNat * 128 + 0 * 16 + tr.toNat * 8 + ord.code * 2 + 0 := by simp only [e, add_zero_mul, plus_zero]
  obtain ⟨f, f3, f4, f0, f6, f1, f7, f5, f2⟩ := fields_as v 49 (d.code) (a.code) 8 (w.toNat) 0 (tr.toNat) (ord.code) 0 k (by omega)
  exact ⟨by omega, by rw [parse_31 v f]; simp [parse31, f0, f1, f2, f3, f4, f5, f6, f7]⟩

theorem atomsCas (w : Bool) (d : Reg) (a : Reg) (tr : Bool) (ord : AOrd) : Statement (.atomsCas w d a tr ord) := by
  refine ⟨fun _ h => roundTrip_of (n := 49 * 67108864 + d.code * 524288 + a.code * 4096 + 9 * 256 + w.toNat * 128 + tr.toNat * 8 + ord.code * 2) rfl (fun v e => ?_) h, fun h => nomatch h⟩
  have h0 := w.toNat_lt; have h1 := d.code_lt; have h2 := a.code_lt; have h3 := tr.toNat_lt; have h4 := ord.code_lt
  have k : v = 49 * 67108864 + d.code * 524288 + a.code * 4096 + 9 * 256 + w.toNat * 128 + 0 * 16 + tr.toNat * 8 + ord.code * 2 + 0 := by simp only [e, add_zero_mul, plus_zero]
  obtain ⟨f, f3, f4, f0, f6, f1, f7, f5, f2⟩ := fields_as v 49 (d.code) (a.code) 9 (w.toNat) 0 (tr.toNat) (ord.code) 0 k (by omega)
  exact ⟨by omega, by rw [parse_31 v f]; simp [parse31, f0, f1, f2, f3, f4, f5, f6, f7]⟩

theorem atomsFaddF32 (d : Reg) (a : Reg) (tr : Bool) (ord : AOrd) : Statement (.atomsFaddF32 d a tr ord) := by
  refine ⟨fun _ h => roundTrip_of (n := 49 * 67108864 + d.code * 524288 + a.code * 4096 + 10 * 256 + tr.toNat * 8 + ord.code * 2) rfl (fun v e => ?_) h, fun h => nomatch h⟩
  have h0 := d.code_lt; have h1 := a.code_lt; have h2 := tr.toNat_lt; have h3 := ord.code_lt
  have k : v = 49 * 67108864 + d.code * 524288 + a.code * 4096 + 10 * 256 + 0 * 128 + 0 * 16 + tr.toNat * 8 + ord.code * 2 + 0 := by simp only [e, add_zero_mul, plus_zero]
  obtain ⟨f, f4, f5, f0, f1, f2, f7, f6, f3⟩ := fields_as v 49 (d.code) (a.code) 10 0 0 (tr.toNat) (ord.code) 0 k (by omega)
  exact ⟨by omega, by rw [parse_31 v f]; simp [parse31, f0, f1, f2, f3, f4, f5, f6, f7]⟩

theorem atomsXadd128 (d : Reg) (a : Reg) (tr : Bool) (ord : AOrd) : Statement (.atomsXadd128 d a tr ord) := by
  refine ⟨fun _ h => roundTrip_of (n := 49 * 67108864 + d.code * 524288 + a.code * 4096 + 11 * 256 + 1 * 128 + tr.toNat * 8 + ord.code * 2) rfl (fun v e => ?_) h, fun h => nomatch h⟩
  have h0 := d.code_lt; have h1 := a.code_lt; have h2 := tr.toNat_lt; have h3 := ord.code_lt
  have k : v = 49 * 67108864 + d.code * 524288 + a.code * 4096 + 11 * 256 + 1 * 128 + 0 * 16 + tr.toNat * 8 + ord.code * 2 + 0 := by simp only [e, add_zero_mul, plus_zero]
  obtain ⟨f, f4, f5, f0, f1, f2, f7, f6, f3⟩ := fields_as v 49 (d.code) (a.code) 11 1 0 (tr.toNat) (ord.code) 0 k (by omega)
  exact ⟨by omega, by rw [parse_31 v f]; simp [parse31, f0, f1, f2, f3, f4, f5, f6, f7]⟩

theorem atomsIncw (w : Bool) (d : Reg) (a : Reg) (tr : Bool) (ord : AOrd) : Statement (.atomsIncw w d a tr ord) := by
  refine ⟨fun _ h => roundTrip_of (n := 49 * 67108864 + d.code * 524288 + a.code * 4096 + 12 * 256 + w.toNat * 128 + tr.toNat * 8 + ord.code * 2) rfl (fun v e => ?_) h, fun h => nomatch h⟩
  have h0 := w.toNat_lt; have h1 := d.code_lt; have h2 := a.code_lt; have h3 := tr.toNat_lt; have h4 := ord.code_lt
  have k : v = 49 * 67108864 + d.code * 524288 + a.code * 4096 + 12 * 256 + w.toNat * 128 + 0 * 16 + tr.toNat * 8 + ord.code * 2 + 0 := by simp only [e, add_zero_mul, plus_zero]
  obtain ⟨f, f3, f4, f0, f6, f1, f7, f5, f2⟩ := fields_as v 49 (d.code) (a.code) 12 (w.toNat) 0 (tr.toNat) (ord.code) 0 k (by omega)
  exact ⟨by omega, by rw [parse_31 v f]; simp [parse31, f0, f1, f2, f3, f4, f5, f6, f7]⟩

theorem atomsDecw (w : Bool) (d : Reg) (a : Reg) (tr : Bool) (ord : AOrd) : Statement (.atomsDecw w d a tr ord) := by
  refine ⟨fun _ h => roundTrip_of (n := 49 * 67108864 + d.code * 524288 + a.code * 4096 + 13 * 256 + w.toNat * 128 + tr.toNat * 8 + ord.code * 2) rfl (fun v e => ?_) h, fun h => nomatch h⟩
  have h0 := w.toNat_lt; have h1 := d.code_lt; have h2 := a.code_lt; have h3 := tr.toNat_lt; have h4 := ord.code_lt
  have k : v = 49 * 67108864 + d.code * 524288 + a.code * 4096 + 13 * 256 + w.toNat * 128 + 0 * 16 + tr.toNat * 8 + ord.code * 2 + 0 := by simp only [e, add_zero_mul, plus_zero]
  obtain ⟨f, f3, f4, f0, f6, f1, f7, f5, f2⟩ := fields_as v 49 (d.code) (a.code) 13 (w.toNat) 0 (tr.toNat) (ord.code) 0 k (by omega)
  exact ⟨by omega, by rw [parse_31 v f]; simp [parse31, f0, f1, f2, f3, f4, f5, f6, f7]⟩

theorem lr (d : Reg) (a : Reg) (off : BitVec 4) (rc : RC) (sc : Scope) (ord : Bool) (sz : Sz) : Statement (.lr d a off rc sc ord sz) := by
  refine ⟨fun _ h => roundTrip_of (n := 50 * 67108864 + d.code * 524288 + a.code * 4096 + off.toNat * 256 + rc.code * 64 + sc.code * 16 + ord.toNat * 8 + sz.code) rfl (fun v e => ?_) h, fun h => nomatch h⟩
  have h0 := d.code_lt; have h1 := a.code_lt; have h2 := off.isLt; have h3 := rc.code_lt; have h4 := sc.code_lt; have h5 := ord.toNat_lt; have h6 := sz.code_lt
  obtain ⟨f, f0, f1, f5, f2, f3, f6, f4⟩ := fields_m v 50 (d.code) (a.code) (off.toNat) (rc.code) (sc.code) (ord.toNat) (sz.code) e (by omega)
  exact ⟨by omega, by rw [parse_32 v f]; simp [parse32, f0, f1, f2, f3, f4, f5, f6]⟩

theorem sc (d : Reg) (a : Reg) (off : BitVec 4) (rc : RC) (sc : Scope) (ord : Bool) (sz : Sz) : Statement (.sc d a off rc sc ord sz) := by
  refine ⟨fun _ h => roundTrip_of (n := 51 * 67108864 + d.code * 524288 + a.code * 4096 + off.toNat * 256 + rc.code * 64 + sc.code * 16 + ord.toNat * 8 + sz.code) rfl (fun v e => ?_) h, fun h => nomatch h⟩
  have h0 := d.code_lt; have h1 := a.code_lt; have h2 := off.isLt; have h3 := rc.code_lt; have h4 := sc.code_lt; have h5 := ord.toNat_lt; have h6 := sz.code_lt
  obtain ⟨f, f0, f1, f5, f2, f3, f6, f4⟩ := fields_m v 51 (d.code) (a.code) (off.toNat) (rc.code) (sc.code) (ord.toNat) (sz.code) e (by omega)
  exact ⟨by omega, by rw [parse_33 v f]; simp [parse33, f0, f1, f2, f3, f4, f5, f6]⟩

theorem bra (p : Fin 128) (n : Bool) (off : BitVec 18) : Statement (.bra p n off) := by
  refine ⟨fun _ h => roundTrip_of (n := 52 * 67108864 + p.val * 524288 + n.toNat * 262144 + off.toNat) rfl (fun v e => ?_) h, fun h => nomatch h⟩
  have h0 := p.isLt; have h1 := n.toNat_lt; have h2 := off.isLt
  obtain ⟨f, f0, f1, f2⟩ := fields_b v 52 (p.val) (n.toNat) (off.toNat) e (by omega)
  exact ⟨by omega, by rw [parse_34 v f]; simp [parse34, f0, f1, f2]⟩

theorem brf (p : Fin 128) (n : Bool) (off : BitVec 18) : Statement (.brf p n off) := by
  refine ⟨fun _ h => roundTrip_of (n := 53 * 67108864 + p.val * 524288 + n.toNat * 262144 + off.toNat) rfl (fun v e => ?_) h, fun h => nomatch h⟩
  have h0 := p.isLt; have h1 := n.toNat_lt; have h2 := off.isLt
  obtain ⟨f, f0, f1, f2⟩ := fields_b v 53 (p.val) (n.toNat) (off.toNat) e (by omega)
  exact ⟨by omega, by rw [parse_35 v f]; simp [parse35, f0, f1, f2]⟩

theorem call (p : Fin 128) (n : Bool) (off : BitVec 18) : Statement (.call p n off) := by
  refine ⟨fun _ h => roundTrip_of (n := 54 * 67108864 + p.val * 524288 + n.toNat * 262144 + off.toNat) rfl (fun v e => ?_) h, fun h => nomatch h⟩
  have h0 := p.isLt; have h1 := n.toNat_lt; have h2 := off.isLt
  obtain ⟨f, f0, f1, f2⟩ := fields_b v 54 (p.val) (n.toNat) (off.toNat) e (by omega)
  exact ⟨by omega, by rw [parse_36 v f]; simp [parse36, f0, f1, f2]⟩

theorem nop (g : Fin 128) : Statement (.nop g) := by
  refine ⟨fun _ h => roundTrip_of (n := 55 * 67108864 + g.val * 524288) rfl (fun v e => ?_) h, fun h => nomatch h⟩
  have h0 := g.isLt
  have k : v = 55 * 67108864 + g.val * 524288 + 0 * 4096 + 0 * 32 + 0 := by simp only [e, add_zero_mul, plus_zero]
  obtain ⟨f, f3, f1, f2, f0⟩ := fields_c v 55 (g.val) 0 0 0 k (by omega)
  exact ⟨by omega, by rw [parse_37 v f]; simp [parse37, f0, f1, f2, f3]⟩

theorem ret (g : Fin 128) : Statement (.ret g) := by
  refine ⟨fun _ h => roundTrip_of (n := 55 * 67108864 + g.val * 524288 + 1) rfl (fun v e => ?_) h, fun h => nomatch h⟩
  have h0 := g.isLt
  have k : v = 55 * 67108864 + g.val * 524288 + 0 * 4096 + 0 * 32 + 1 := by simp only [e, add_zero_mul]
  obtain ⟨f, f3, f1, f2, f0⟩ := fields_c v 55 (g.val) 0 0 1 k (by omega)
  exact ⟨by omega, by rw [parse_37 v f]; simp [parse37, f0, f1, f2, f3]⟩

theorem calli (g : Fin 128) (a : Reg) : Statement (.calli g a) := by
  refine ⟨fun _ h => roundTrip_of (n := 55 * 67108864 + g.val * 524288 + a.code * 4096 + 2) rfl (fun v e => ?_) h, fun h => nomatch h⟩
  have h0 := g.isLt; have h1 := a.code_lt
  have k : v = 55 * 67108864 + g.val * 524288 + a.code * 4096 + 0 * 32 + 2 := by simp only [e, add_zero_mul]
  obtain ⟨f, f3, f2, f1, f0⟩ := fields_c v 55 (g.val) (a.code) 0 2 k (by omega)
  exact ⟨by omega, by rw [parse_37 v f]; simp [parse37, f0, f1, f2, f3]⟩

theorem jmpi (g : Fin 128) (a : Reg) : Statement (.jmpi g a) := by
  refine ⟨fun _ h => roundTrip_of (n := 55 * 67108864 + g.val * 524288 + a.code * 4096 + 3) rfl (fun v e => ?_) h, fun h => nomatch h⟩
  have h0 := g.isLt; have h1 := a.code_lt
  have k : v = 55 * 67108864 + g.val * 524288 + a.code * 4096 + 0 * 32 + 3 := by simp only [e, add_zero_mul]
  obtain ⟨f, f3, f2, f1, f0⟩ := fields_c v 55 (g.val) (a.code) 0 3 k (by omega)
  exact ⟨by omega, by rw [parse_37 v f]; simp [parse37, f0, f1, f2, f3]⟩

theorem reform (g : Fin 128) : Statement (.reform g) := by
  refine ⟨fun _ h => roundTrip_of (n := 55 * 67108864 + g.val * 524288 + 4) rfl (fun v e => ?_) h, fun h => nomatch h⟩
  have h0 := g.isLt
  have k : v = 55 * 67108864 + g.val * 524288 + 0 * 4096 + 0 * 32 + 4 := by simp only [e, add_zero_mul]
  obtain ⟨f, f3, f1, f2, f0⟩ := fields_c v 55 (g.val) 0 0 4 k (by omega)
  exact ⟨by omega, by rw [parse_37 v f]; simp [parse37, f0, f1, f2, f3]⟩

theorem exit (g : Fin 128) : Statement (.exit g) := by
  refine ⟨fun _ h => roundTrip_of (n := 55 * 67108864 + g.val * 524288 + 5) rfl (fun v e => ?_) h, fun h => nomatch h⟩
  have h0 := g.isLt
  have k : v = 55 * 67108864 + g.val * 524288 + 0 * 4096 + 0 * 32 + 5 := by simp only [e, add_zero_mul]
  obtain ⟨f, f3, f1, f2, f0⟩ := fields_c v 55 (g.val) 0 0 5 k (by omega)
  exact ⟨by omega, by rw [parse_37 v f]; simp [parse37, f0, f1, f2, f3]⟩

theorem yield (g : Fin 128) : Statement (.yield g) := by
  refine ⟨fun _ h => roundTrip_of (n := 55 * 67108864 + g.val * 524288 + 6) rfl (fun v e => ?_) h, fun h => nomatch h⟩
  have h0 := g.isLt
  have k : v = 55 * 67108864 + g.val * 524288 + 0 * 4096 + 0 * 32 + 6 := by simp only [e, add_zero_mul]
  obtain ⟨f, f3, f1, f2, f0⟩ := fields_c v 55 (g.val) 0 0 6 k (by omega)
  exact ⟨by omega, by rw [parse_37 v f]; simp [parse37, f0, f1, f2, f3]⟩

theorem pause (g : Fin 128) (a : Reg) : Statement (.pause g a) := by
  refine ⟨fun _ h => roundTrip_of (n := 55 * 67108864 + g.val * 524288 + a.code * 4096 + 7) rfl (fun v e => ?_) h, fun h => nomatch h⟩
  have h0 := g.isLt; have h1 := a.code_lt
  have k : v = 55 * 67108864 + g.val * 524288 + a.code * 4096 + 0 * 32 + 7 := by simp only [e, add_zero_mul]
  obtain ⟨f, f3, f2, f1, f0⟩ := fields_c v 55 (g.val) (a.code) 0 7 k (by omega)
  exact ⟨by omega, by rw [parse_37 v f]; simp [parse37, f0, f1, f2, f3]⟩

theorem setrm (g : Fin 128) (m : Fin 4) : Statement (.setrm g m) := by
  refine ⟨fun _ h => roundTrip_of (n := 55 * 67108864 + g.val * 524288 + m.val * 32 + 8) rfl (fun v e => ?_) h, fun h => nomatch h⟩
  have h0 := g.isLt; have h1 := m.isLt
  have k : v = 55 * 67108864 + g.val * 524288 + 0 * 4096 + 0 * 128 + m.val * 32 + 8 := by simp only [e, add_zero_mul]
  obtain ⟨f, f3, f2, f1, f4, f0⟩ := fields_x15 v 55 (g.val) 0 0 (m.val) 8 k (by omega)
  exact ⟨by omega, by rw [parse_37 v f]; simp [parse37, f0, f1, f2, f3, f4]⟩

theorem wait (ld : Fin 64) (st : Fin 64) (cp : Fin 64) (tl : Fin 64) : Statement (.wait ld st cp tl) := by
  refine ⟨fun _ h => roundTrip_of (n := 56 * 67108864 + ld.val * 1048576 + st.val * 16384 + cp.val * 256 + tl.val * 4) rfl (fun v e => ?_) h, fun h => nomatch h⟩
  have h0 := ld.isLt; have h1 := st.isLt; have h2 := cp.isLt; have h3 := tl.isLt
  have k : v = 56 * 67108864 + ld.val * 1048576 + st.val * 16384 + cp.val * 256 + tl.val * 4 + 0 := by simp only [e, plus_zero]
  obtain ⟨f, f1, f2, f3, f4, f0⟩ := fields_x16 v 56 (ld.val) (st.val) (cp.val) (tl.val) 0 k (by omega)
  exact ⟨by omega, by rw [parse_38 v f]; simp [parse38, f0, f1, f2, f3, f4]⟩

theorem fence (sc : Scope) (o : Bool) (a : Bool) (s : Bool) : Statement (.fence sc o a s) := by
  refine ⟨fun _ h => roundTrip_of (n := 57 * 67108864 + s.toNat * 512 + a.toNat * 256 + o.toNat * 128 + sc.code * 32) rfl (fun v e => ?_) h, fun h => nomatch h⟩
  have h0 := sc.code_lt; have h1 := o.toNat_lt; have h2 := a.toNat_lt; have h3 := s.toNat_lt
  have k : v = 57 * 67108864 + 0 * 524288 + 0 * 4096 + 0 * 1024 + s.toNat * 512 + a.toNat * 256 + o.toNat * 128 + sc.code * 32 + 0 := by simp only [e, add_zero_mul, plus_zero]
  obtain ⟨f, f2, f3, f1, f7, f6, f5, f4, f0⟩ := fields_x17 v 57 0 0 0 (s.toNat) (a.toNat) (o.toNat) (sc.code) 0 k (by omega)
  exact ⟨by omega, by rw [parse_39 v f]; simp [parse39, f0, f1, f2, f3, f4, f5, f6, f7]⟩

theorem barp : Statement .barp := by
  refine ⟨fun _ h => roundTrip_of (n := 57 * 67108864 + 1) rfl (fun v e => ?_) h, fun h => nomatch h⟩
  have k : v = 57 * 67108864 + 0 * 524288 + 0 * 4096 + 0 * 32 + 1 := by simp only [e, add_zero_mul]
  obtain ⟨f, f1, f2, f3, f0⟩ := fields_c v 57 0 0 0 1 k (by omega)
  exact ⟨by omega, by rw [parse_39 v f]; simp [parse39, f0, f1, f2, f3]⟩

theorem barc (a : Reg) : Statement (.barc a) := by
  refine ⟨fun _ h => roundTrip_of (n := 57 * 67108864 + a.code * 4096 + 2) rfl (fun v e => ?_) h, fun h => nomatch h⟩
  have h0 := a.code_lt
  have k : v = 57 * 67108864 + 0 * 524288 + a.code * 4096 + 0 * 32 + 2 := by simp only [e, add_zero_mul]
  obtain ⟨f, f1, f3, f2, f0⟩ := fields_c v 57 0 (a.code) 0 2 k (by omega)
  exact ⟨by omega, by rw [parse_39 v f]; simp [parse39, f0, f1, f2, f3]⟩

theorem bcinit (a : Reg) (b : Reg) : Statement (.bcinit a b) := by
  refine ⟨fun _ h => roundTrip_of (n := 57 * 67108864 + a.code * 4096 + b.code * 32 + 3) rfl (fun v e => ?_) h, fun h => nomatch h⟩
  have h0 := a.code_lt; have h1 := b.code_lt
  have k : v = 57 * 67108864 + 0 * 524288 + a.code * 4096 + b.code * 32 + 3 := by simp only [e, add_zero_mul]
  obtain ⟨f, f1, f2, f3, f0⟩ := fields_c v 57 0 (a.code) (b.code) 3 k (by omega)
  exact ⟨by omega, by rw [parse_39 v f]; simp [parse39, f0, f1, f2, f3]⟩

theorem bcexp (a : Reg) (b : Reg) : Statement (.bcexp a b) := by
  refine ⟨fun _ h => roundTrip_of (n := 57 * 67108864 + a.code * 4096 + b.code * 32 + 4) rfl (fun v e => ?_) h, fun h => nomatch h⟩
  have h0 := a.code_lt; have h1 := b.code_lt
  have k : v = 57 * 67108864 + 0 * 524288 + a.code * 4096 + b.code * 32 + 4 := by simp only [e, add_zero_mul]
  obtain ⟨f, f1, f2, f3, f0⟩ := fields_c v 57 0 (a.code) (b.code) 4 k (by omega)
  exact ⟨by omega, by rw [parse_39 v f]; simp [parse39, f0, f1, f2, f3]⟩

theorem bcarr (a : Reg) (b : Reg) : Statement (.bcarr a b) := by
  refine ⟨fun _ h => roundTrip_of (n := 57 * 67108864 + a.code * 4096 + b.code * 32 + 5) rfl (fun v e => ?_) h, fun h => nomatch h⟩
  have h0 := a.code_lt; have h1 := b.code_lt
  have k : v = 57 * 67108864 + 0 * 524288 + a.code * 4096 + b.code * 32 + 5 := by simp only [e, add_zero_mul]
  obtain ⟨f, f1, f2, f3, f0⟩ := fields_c v 57 0 (a.code) (b.code) 5 k (by omega)
  exact ⟨by omega, by rw [parse_39 v f]; simp [parse39, f0, f1, f2, f3]⟩

theorem bcwait (a : Reg) (ph : Bool) : Statement (.bcwait a ph) := by
  refine ⟨fun _ h => roundTrip_of (n := 57 * 67108864 + a.code * 4096 + ph.toNat * 32 + 6) rfl (fun v e => ?_) h, fun h => nomatch h⟩
  have h0 := a.code_lt; have h1 := ph.toNat_lt
  have k : v = 57 * 67108864 + 0 * 524288 + a.code * 4096 + 0 * 64 + ph.toNat * 32 + 6 := by simp only [e, add_zero_mul]
  obtain ⟨f, f2, f3, f1, f4, f0⟩ := fields_x18 v 57 0 (a.code) 0 (ph.toNat) 6 k (by omega)
  exact ⟨by omega, by rw [parse_39 v f]; simp [parse39, f0, f1, f2, f3, f4]⟩

theorem bctest (p : Fin 128) (a : Reg) (ph : Bool) : Statement (.bctest p a ph) := by
  refine ⟨fun _ h => roundTrip_of (n := 57 * 67108864 + p.val * 524288 + a.code * 4096 + ph.toNat * 32 + 7) rfl (fun v e => ?_) h, fun h => nomatch h⟩
  have h0 := p.isLt; have h1 := a.code_lt; have h2 := ph.toNat_lt
  have k : v = 57 * 67108864 + p.val * 524288 + a.code * 4096 + 0 * 64 + ph.toNat * 32 + 7 := by simp only [e, add_zero_mul]
  obtain ⟨f, f3, f2, f1, f4, f0⟩ := fields_x18 v 57 (p.val) (a.code) 0 (ph.toNat) 7 k (by omega)
  exact ⟨by omega, by rw [parse_39 v f]; simp [parse39, f0, f1, f2, f3, f4]⟩

theorem waitw (a : Reg) (b : Reg) : Statement (.waitw a b) := by
  refine ⟨fun _ h => roundTrip_of (n := 57 * 67108864 + a.code * 4096 + b.code * 32 + 8) rfl (fun v e => ?_) h, fun h => nomatch h⟩
  have h0 := a.code_lt; have h1 := b.code_lt
  have k : v = 57 * 67108864 + 0 * 524288 + a.code * 4096 + b.code * 32 + 8 := by simp only [e, add_zero_mul]
  obtain ⟨f, f1, f2, f3, f0⟩ := fields_c v 57 0 (a.code) (b.code) 8 k (by omega)
  exact ⟨by omega, by rw [parse_39 v f]; simp [parse39, f0, f1, f2, f3]⟩

theorem mint (d : Reg) (a : Reg) (b : Reg) : Statement (.mint d a b) := by
  refine ⟨fun _ h => roundTrip_of (n := 57 * 67108864 + d.code * 524288 + a.code * 4096 + b.code * 32 + 9) rfl (fun v e => ?_) h, fun h => nomatch h⟩
  have h0 := d.code_lt; have h1 := a.code_lt; have h2 := b.code_lt
  obtain ⟨f, f1, f2, f3, f0⟩ := fields_c v 57 (d.code) (a.code) (b.code) 9 e (by omega)
  exact ⟨by omega, by rw [parse_39 v f]; simp [parse39, f0, f1, f2, f3]⟩

theorem land (rc : RC) (sc : Scope) (w : Bool) (a : Reg) (b : Reg) : Statement (.land rc sc w a b) := by
  refine ⟨fun _ h => roundTrip_of (n := 57 * 67108864 + rc.code * 16777216 + sc.code * 4194304 + w.toNat * 2097152 + a.code * 4096 + b.code * 32 + 10) rfl (fun v e => ?_) h, fun h => nomatch h⟩
  have h0 := rc.code_lt; have h1 := sc.code_lt; have h2 := w.toNat_lt; have h3 := a.code_lt; have h4 := b.code_lt
  have k : v = 57 * 67108864 + rc.code * 16777216 + sc.code * 4194304 + w.toNat * 2097152 + 0 * 524288 + a.code * 4096 + b.code * 32 + 10 := by simp only [e, add_zero_mul]
  obtain ⟨f, f4, f5, f6, f1, f2, f3, f0⟩ := fields_x19 v 57 (rc.code) (sc.code) (w.toNat) 0 (a.code) (b.code) 10 k (by omega)
  exact ⟨by omega, by rw [parse_39 v f]; simp [parse39, f0, f1, f2, f3, f4, f5, f6]⟩

theorem lwait (p : Fin 128) (a : Reg) : Statement (.lwait p a) := by
  refine ⟨fun _ h => roundTrip_of (n := 57 * 67108864 + p.val * 524288 + a.code * 4096 + 11) rfl (fun v e => ?_) h, fun h => nomatch h⟩
  have h0 := p.isLt; have h1 := a.code_lt
  have k : v = 57 * 67108864 + p.val * 524288 + a.code * 4096 + 0 * 32 + 11 := by simp only [e, add_zero_mul]
  obtain ⟨f, f3, f2, f1, f0⟩ := fields_c v 57 (p.val) (a.code) 0 11 k (by omega)
  exact ⟨by omega, by rw [parse_39 v f]; simp [parse39, f0, f1, f2, f3]⟩

theorem ltest (p : Fin 128) (a : Reg) : Statement (.ltest p a) := by
  refine ⟨fun _ h => roundTrip_of (n := 57 * 67108864 + p.val * 524288 + a.code * 4096 + 12) rfl (fun v e => ?_) h, fun h => nomatch h⟩
  have h0 := p.isLt; have h1 := a.code_lt
  have k : v = 57 * 67108864 + p.val * 524288 + a.code * 4096 + 0 * 32 + 12 := by simp only [e, add_zero_mul]
  obtain ⟨f, f3, f2, f1, f0⟩ := fields_c v 57 (p.val) (a.code) 0 12 k (by omega)
  exact ⟨by omega, by rw [parse_39 v f]; simp [parse39, f0, f1, f2, f3]⟩

theorem ldrop (a : Reg) : Statement (.ldrop a) := by
  refine ⟨fun _ h => roundTrip_of (n := 57 * 67108864 + a.code * 4096 + 13) rfl (fun v e => ?_) h, fun h => nomatch h⟩
  have h0 := a.code_lt
  have k : v = 57 * 67108864 + 0 * 524288 + a.code * 4096 + 0 * 32 + 13 := by simp only [e, add_zero_mul]
  obtain ⟨f, f1, f3, f2, f0⟩ := fields_c v 57 0 (a.code) 0 13 k (by omega)
  exact ⟨by omega, by rw [parse_39 v f]; simp [parse39, f0, f1, f2, f3]⟩

theorem rnext (d : Reg) (a : Reg) : Statement (.rnext d a) := by
  refine ⟨fun _ h => roundTrip_of (n := 57 * 67108864 + d.code * 524288 + a.code * 4096 + 14) rfl (fun v e => ?_) h, fun h => nomatch h⟩
  have h0 := d.code_lt; have h1 := a.code_lt
  have k : v = 57 * 67108864 + d.code * 524288 + a.code * 4096 + 0 * 32 + 14 := by simp only [e, add_zero_mul]
  obtain ⟨f, f2, f3, f1, f0⟩ := fields_c v 57 (d.code) (a.code) 0 14 k (by omega)
  exact ⟨by omega, by rw [parse_39 v f]; simp [parse39, f0, f1, f2, f3]⟩

theorem mma (g : Fin 128) (a : Reg) : Statement (.mma g a) := by
  refine ⟨fun _ h => roundTrip_of (n := 58 * 67108864 + g.val * 524288 + a.code * 4096) rfl (fun v e => ?_) h, fun h => nomatch h⟩
  have h0 := g.isLt; have h1 := a.code_lt
  have k : v = 58 * 67108864 + g.val * 524288 + a.code * 4096 + 0 * 32 + 0 := by simp only [e, add_zero_mul, plus_zero]
  obtain ⟨f, f3, f2, f1, f0⟩ := fields_c v 58 (g.val) (a.code) 0 0 k (by omega)
  exact ⟨by omega, by rw [parse_3A v f]; simp [parse3A, f0, f1, f2, f3]⟩

theorem mmac (g : Fin 128) (t : Fin 64) : Statement (.mmac g t) := by
  refine ⟨fun _ h => roundTrip_of (n := 58 * 67108864 + g.val * 524288 + t.val * 32 + 1) rfl (fun v e => ?_) h, fun h => nomatch h⟩
  have h0 := g.isLt; have h1 := t.isLt
  have k : v = 58 * 67108864 + g.val * 524288 + 0 * 4096 + 0 * 2048 + t.val * 32 + 1 := by simp only [e, add_zero_mul]
  obtain ⟨f, f3, f2, f1, f4, f0⟩ := fields_x20 v 58 (g.val) 0 0 (t.val) 1 k (by omega)
  exact ⟨by omega, by rw [parse_3A v f]; simp [parse3A, f0, f1, f2, f3, f4]⟩

theorem mwaitb (t : Fin 64) : Statement (.mwaitb t) := by
  refine ⟨fun _ h => roundTrip_of (n := 58 * 67108864 + t.val * 32 + 2) rfl (fun v e => ?_) h, fun h => nomatch h⟩
  have h0 := t.isLt
  have k : v = 58 * 67108864 + 0 * 524288 + 0 * 4096 + 0 * 2048 + t.val * 32 + 2 := by simp only [e, add_zero_mul]
  obtain ⟨f, f2, f3, f1, f4, f0⟩ := fields_x20 v 58 0 0 0 (t.val) 2 k (by omega)
  exact ⟨by omega, by rw [parse_3A v f]; simp [parse3A, f0, f1, f2, f3, f4]⟩

theorem mdrain (g : Fin 128) (a : Reg) : Statement (.mdrain g a) := by
  refine ⟨fun _ h => roundTrip_of (n := 58 * 67108864 + g.val * 524288 + a.code * 4096 + 3) rfl (fun v e => ?_) h, fun h => nomatch h⟩
  have h0 := g.isLt; have h1 := a.code_lt
  have k : v = 58 * 67108864 + g.val * 524288 + a.code * 4096 + 0 * 32 + 3 := by simp only [e, add_zero_mul]
  obtain ⟨f, f3, f2, f1, f0⟩ := fields_c v 58 (g.val) (a.code) 0 3 k (by omega)
  exact ⟨by omega, by rw [parse_3A v f]; simp [parse3A, f0, f1, f2, f3]⟩

theorem mzero (g : Fin 128) (arr : Bool) (tile : Bool) : Statement (.mzero g arr tile) := by
  refine ⟨fun _ h => roundTrip_of (n := 58 * 67108864 + g.val * 524288 + arr.toNat * 64 + tile.toNat * 32 + 4) rfl (fun v e => ?_) h, fun h => nomatch h⟩
  have h0 := g.isLt; have h1 := arr.toNat_lt; have h2 := tile.toNat_lt
  have k : v = 58 * 67108864 + g.val * 524288 + 0 * 4096 + 0 * 128 + arr.toNat * 64 + tile.toNat * 32 + 4 := by simp only [e, add_zero_mul]
  obtain ⟨f, f3, f2, f1, f4, f5, f0⟩ := fields_x21 v 58 (g.val) 0 0 (arr.toNat) (tile.toNat) 4 k (by omega)
  exact ⟨by omega, by rw [parse_3A v f]; simp [parse3A, f0, f1, f2, f3, f4, f5]⟩

theorem mstat (d : Reg) (arr : Bool) (tile : Bool) : Statement (.mstat d arr tile) := by
  refine ⟨fun _ h => roundTrip_of (n := 58 * 67108864 + d.code * 524288 + arr.toNat * 64 + tile.toNat * 32 + 5) rfl (fun v e => ?_) h, fun h => nomatch h⟩
  have h0 := d.code_lt; have h1 := arr.toNat_lt; have h2 := tile.toNat_lt
  have k : v = 58 * 67108864 + d.code * 524288 + 0 * 4096 + 0 * 128 + arr.toNat * 64 + tile.toNat * 32 + 5 := by simp only [e, add_zero_mul]
  obtain ⟨f, f3, f2, f1, f4, f5, f0⟩ := fields_x21 v 58 (d.code) 0 0 (arr.toNat) (tile.toNat) 5 k (by omega)
  exact ⟨by omega, by rw [parse_3A v f]; simp [parse3A, f0, f1, f2, f3, f4, f5]⟩

theorem apipe (g : Fin 128) (a : Reg) : Statement (.apipe g a) := by
  refine ⟨fun _ h => roundTrip_of (n := 58 * 67108864 + g.val * 524288 + a.code * 4096 + 6) rfl (fun v e => ?_) h, fun h => nomatch h⟩
  have h0 := g.isLt; have h1 := a.code_lt
  have k : v = 58 * 67108864 + g.val * 524288 + a.code * 4096 + 0 * 32 + 6 := by simp only [e, add_zero_mul]
  obtain ⟨f, f3, f2, f1, f0⟩ := fields_c v 58 (g.val) (a.code) 0 6 k (by omega)
  exact ⟨by omega, by rw [parse_3A v f]; simp [parse3A, f0, f1, f2, f3]⟩

theorem cpost (g : Fin 128) (a : Reg) : Statement (.cpost g a) := by
  refine ⟨fun _ h => roundTrip_of (n := 58 * 67108864 + g.val * 524288 + a.code * 4096 + 7) rfl (fun v e => ?_) h, fun h => nomatch h⟩
  have h0 := g.isLt; have h1 := a.code_lt
  have k : v = 58 * 67108864 + g.val * 524288 + a.code * 4096 + 0 * 32 + 7 := by simp only [e, add_zero_mul]
  obtain ⟨f, f3, f2, f1, f0⟩ := fields_c v 58 (g.val) (a.code) 0 7 k (by omega)
  exact ⟨by omega, by rw [parse_3A v f]; simp [parse3A, f0, f1, f2, f3]⟩

theorem qpost (g : Fin 128) (a : Reg) (b : Reg) : Statement (.qpost g a b) := by
  refine ⟨fun _ h => roundTrip_of (n := 58 * 67108864 + g.val * 524288 + a.code * 4096 + b.code * 32 + 8) rfl (fun v e => ?_) h, fun h => nomatch h⟩
  have h0 := g.isLt; have h1 := a.code_lt; have h2 := b.code_lt
  obtain ⟨f, f3, f1, f2, f0⟩ := fields_c v 58 (g.val) (a.code) (b.code) 8 e (by omega)
  exact ⟨by omega, by rw [parse_3A v f]; simp [parse3A, f0, f1, f2, f3]⟩

theorem ttld (d : Reg) (a : Reg) : Statement (.ttld d a) := by
  refine ⟨fun _ h => roundTrip_of (n := 58 * 67108864 + d.code * 524288 + a.code * 4096 + 9) rfl (fun v e => ?_) h, fun h => nomatch h⟩
  have h0 := d.code_lt; have h1 := a.code_lt
  have k : v = 58 * 67108864 + d.code * 524288 + a.code * 4096 + 0 * 32 + 9 := by simp only [e, add_zero_mul]
  obtain ⟨f, f2, f3, f1, f0⟩ := fields_c v 58 (d.code) (a.code) 0 9 k (by omega)
  exact ⟨by omega, by rw [parse_3A v f]; simp [parse3A, f0, f1, f2, f3]⟩

theorem ttst (g : Fin 128) (a : Reg) (b : Reg) : Statement (.ttst g a b) := by
  refine ⟨fun _ h => roundTrip_of (n := 58 * 67108864 + g.val * 524288 + a.code * 4096 + b.code * 32 + 10) rfl (fun v e => ?_) h, fun h => nomatch h⟩
  have h0 := g.isLt; have h1 := a.code_lt; have h2 := b.code_lt
  obtain ⟨f, f3, f1, f2, f0⟩ := fields_c v 58 (g.val) (a.code) (b.code) 10 e (by omega)
  exact ⟨by omega, by rw [parse_3A v f]; simp [parse3A, f0, f1, f2, f3]⟩

theorem ttinv (g : Fin 128) (a : Reg) : Statement (.ttinv g a) := by
  refine ⟨fun _ h => roundTrip_of (n := 58 * 67108864 + g.val * 524288 + a.code * 4096 + 11) rfl (fun v e => ?_) h, fun h => nomatch h⟩
  have h0 := g.isLt; have h1 := a.code_lt
  have k : v = 58 * 67108864 + g.val * 524288 + a.code * 4096 + 0 * 32 + 11 := by simp only [e, add_zero_mul]
  obtain ⟨f, f3, f2, f1, f0⟩ := fields_c v 58 (g.val) (a.code) 0 11 k (by omega)
  exact ⟨by omega, by rw [parse_3A v f]; simp [parse3A, f0, f1, f2, f3]⟩

theorem vbind (g : Fin 128) (a : Reg) (b : Reg) : Statement (.vbind g a b) := by
  refine ⟨fun _ h => roundTrip_of (n := 58 * 67108864 + g.val * 524288 + a.code * 4096 + b.code * 32 + 12) rfl (fun v e => ?_) h, fun h => nomatch h⟩
  have h0 := g.isLt; have h1 := a.code_lt; have h2 := b.code_lt
  obtain ⟨f, f3, f1, f2, f0⟩ := fields_c v 58 (g.val) (a.code) (b.code) 12 e (by omega)
  exact ⟨by omega, by rw [parse_3A v f]; simp [parse3A, f0, f1, f2, f3]⟩

theorem vunbind (g : Fin 128) (b : Reg) : Statement (.vunbind g b) := by
  refine ⟨fun _ h => roundTrip_of (n := 58 * 67108864 + g.val * 524288 + b.code * 32 + 13) rfl (fun v e => ?_) h, fun h => nomatch h⟩
  have h0 := g.isLt; have h1 := b.code_lt
  have k : v = 58 * 67108864 + g.val * 524288 + 0 * 4096 + b.code * 32 + 13 := by simp only [e, add_zero_mul]
  obtain ⟨f, f3, f1, f2, f0⟩ := fields_c v 58 (g.val) 0 (b.code) 13 k (by omega)
  exact ⟨by omega, by rw [parse_3A v f]; simp [parse3A, f0, f1, f2, f3]⟩

theorem trap (i : Fin 128) : Statement (.trap i) := by
  refine ⟨fun _ h => roundTrip_of (n := 59 * 67108864 + i.val * 32) rfl (fun v e => ?_) h, fun h => nomatch h⟩
  have h0 := i.isLt
  have k : v = 59 * 67108864 + 0 * 524288 + 0 * 4096 + i.val * 32 + 0 := by simp only [e, add_zero_mul, plus_zero]
  obtain ⟨f, f1, f2, f3, f0⟩ := fields_c v 59 0 0 (i.val) 0 k (by omega)
  exact ⟨by omega, by rw [parse_3B v f]; simp [parse3B, f0, f1, f2, f3]⟩

theorem eret : Statement .eret := by
  refine ⟨fun _ h => roundTrip_of (n := 59 * 67108864 + 1) rfl (fun v e => ?_) h, fun h => nomatch h⟩
  have k : v = 59 * 67108864 + 0 * 524288 + 0 * 4096 + 0 * 32 + 1 := by simp only [e, add_zero_mul]
  obtain ⟨f, f1, f2, f3, f0⟩ := fields_c v 59 0 0 0 1 k (by omega)
  exact ⟨by omega, by rw [parse_3B v f]; simp [parse3B, f0, f1, f2, f3]⟩

theorem srd (d : Reg) (n : Fin 128) : Statement (.srd d n) := by
  refine ⟨fun _ h => roundTrip_of (n := 59 * 67108864 + d.code * 524288 + n.val * 32 + 2) rfl (fun v e => ?_) h, fun h => nomatch h⟩
  have h0 := d.code_lt; have h1 := n.isLt
  have k : v = 59 * 67108864 + d.code * 524288 + 0 * 4096 + n.val * 32 + 2 := by simp only [e, add_zero_mul]
  obtain ⟨f, f2, f1, f3, f0⟩ := fields_c v 59 (d.code) 0 (n.val) 2 k (by omega)
  exact ⟨by omega, by rw [parse_3B v f]; simp [parse3B, f0, f1, f2, f3]⟩

theorem swr (a : Reg) (n : Fin 128) : Statement (.swr a n) := by
  refine ⟨fun _ h => roundTrip_of (n := 59 * 67108864 + a.code * 4096 + n.val * 32 + 3) rfl (fun v e => ?_) h, fun h => nomatch h⟩
  have h0 := a.code_lt; have h1 := n.isLt
  have k : v = 59 * 67108864 + 0 * 524288 + a.code * 4096 + n.val * 32 + 3 := by simp only [e, add_zero_mul]
  obtain ⟨f, f2, f4, f1, f0⟩ := fields_c v 59 0 a.code n.val 3 k (by omega)
  have f3 : fld v 512 8 = n.val / 16 := by clear f f0 f1 f2 f4 k; unfold fld; omega
  have g : n.val ≠ 60 ∧ n.val / 16 ≠ 2 := swrListed_ne n h
  exact ⟨by omega, by rw [parse_3B v f]; simp [parse3B, f0, f1, f2, f3, f4, g]⟩

theorem swrFpark (a : Reg) : Statement (.swrFpark a) := by
  refine ⟨fun _ h => roundTrip_of (n := 59 * 67108864 + a.code * 4096 + 60 * 32 + 3) rfl (fun v e => ?_) h, fun h => nomatch h⟩
  have h0 := a.code_lt
  have k : v = 59 * 67108864 + 0 * 524288 + a.code * 4096 + 60 * 32 + 3 := by simp only [e, add_zero_mul]
  obtain ⟨f, f2, f3, f1, f0⟩ := fields_c v 59 0 (a.code) 60 3 k (by omega)
  exact ⟨by omega, by rw [parse_3B v f]; simp [parse3B, f0, f1, f2, f3]⟩

theorem swrLpwc (a : Reg) (n : Fin 16) : Statement (.swrLpwc a n) := by
  refine ⟨fun _ h => roundTrip_of (n := 59 * 67108864 + a.code * 4096 + 2 * 512 + n.val * 32 + 3) rfl (fun v e => ?_) h, fun h => nomatch h⟩
  have h0 := a.code_lt; have h1 := n.isLt
  have f : fld v 67108864 64 = 59 := by unfold fld; omega
  have f0 : fld v 1 32 = 3 := by unfold fld; omega
  have f1 : fld v 32 128 = n.val + 32 := by unfold fld; omega
  have f2 : fld v 524288 128 = 0 := by unfold fld; omega
  have f3 : fld v 512 8 = 2 := by unfold fld; omega
  have f4 : fld v 4096 128 = a.code := by unfold fld; omega
  have f5 : fld v 32 16 = n.val := by unfold fld; omega
  have g : n.val ≠ 28 := by omega
  exact ⟨by omega, by rw [parse_3B v f]; simp [parse3B, f0, f1, f2, f3, f4, f5, g]⟩

theorem bkpt (i : Fin 128) : Statement (.bkpt i) := by
  refine ⟨fun _ h => roundTrip_of (n := 59 * 67108864 + i.val * 32 + 4) rfl (fun v e => ?_) h, fun h => nomatch h⟩
  have h0 := i.isLt
  have k : v = 59 * 67108864 + 0 * 524288 + 0 * 4096 + i.val * 32 + 4 := by simp only [e, add_zero_mul]
  obtain ⟨f, f1, f2, f3, f0⟩ := fields_c v 59 0 0 (i.val) 4 k (by omega)
  exact ⟨by omega, by rw [parse_3B v f]; simp [parse3B, f0, f1, f2, f3]⟩

theorem cinv (a : Reg) (l1 : Bool) (l2 : Bool) : Statement (.cinv a l1 l2) := by
  refine ⟨fun _ h => roundTrip_of (n := 59 * 67108864 + a.code * 4096 + l2.toNat * 64 + l1.toNat * 32 + 5) rfl (fun v e => ?_) h, fun h => nomatch h⟩
  have h0 := a.code_lt; have h1 := l1.toNat_lt; have h2 := l2.toNat_lt
  have k : v = 59 * 67108864 + 0 * 524288 + a.code * 4096 + 0 * 128 + l2.toNat * 64 + l1.toNat * 32 + 5 := by simp only [e, add_zero_mul]
  obtain ⟨f, f2, f3, f1, f5, f4, f0⟩ := fields_x21 v 59 0 (a.code) 0 (l2.toNat) (l1.toNat) 5 k (by omega)
  exact ⟨by omega, by rw [parse_3B v f]; simp [parse3B, f0, f1, f2, f3, f4, f5]⟩

theorem cwb (a : Reg) : Statement (.cwb a) := by
  refine ⟨fun _ h => roundTrip_of (n := 59 * 67108864 + a.code * 4096 + 6) rfl (fun v e => ?_) h, fun h => nomatch h⟩
  have h0 := a.code_lt
  have k : v = 59 * 67108864 + 0 * 524288 + a.code * 4096 + 0 * 32 + 6 := by simp only [e, add_zero_mul]
  obtain ⟨f, f1, f3, f2, f0⟩ := fields_c v 59 0 (a.code) 0 6 k (by omega)
  exact ⟨by omega, by rw [parse_3B v f]; simp [parse3B, f0, f1, f2, f3]⟩

theorem tlbinv (a : Reg) (all : Bool) : Statement (.tlbinv a all) := by
  refine ⟨fun _ h => roundTrip_of (n := 59 * 67108864 + a.code * 4096 + all.toNat * 32 + 7) rfl (fun v e => ?_) h, fun h => nomatch h⟩
  have h0 := a.code_lt; have h1 := all.toNat_lt
  have k : v = 59 * 67108864 + 0 * 524288 + a.code * 4096 + 0 * 64 + all.toNat * 32 + 7 := by simp only [e, add_zero_mul]
  obtain ⟨f, f2, f3, f1, f4, f0⟩ := fields_x18 v 59 0 (a.code) 0 (all.toNat) 7 k (by omega)
  exact ⟨by omega, by rw [parse_3B v f]; simp [parse3B, f0, f1, f2, f3, f4]⟩

theorem seedset (a : Reg) : Statement (.seedset a) := by
  refine ⟨fun _ h => roundTrip_of (n := 59 * 67108864 + a.code * 4096 + 8) rfl (fun v e => ?_) h, fun h => nomatch h⟩
  have h0 := a.code_lt
  have k : v = 59 * 67108864 + 0 * 524288 + a.code * 4096 + 0 * 32 + 8 := by simp only [e, add_zero_mul]
  obtain ⟨f, f1, f3, f2, f0⟩ := fields_c v 59 0 (a.code) 0 8 k (by omega)
  exact ⟨by omega, by rw [parse_3B v f]; simp [parse3B, f0, f1, f2, f3]⟩

theorem clkrd (d : Reg) : Statement (.clkrd d) := by
  refine ⟨fun _ h => roundTrip_of (n := 59 * 67108864 + d.code * 524288 + 9) rfl (fun v e => ?_) h, fun h => nomatch h⟩
  have h0 := d.code_lt
  have k : v = 59 * 67108864 + d.code * 524288 + 0 * 4096 + 0 * 32 + 9 := by simp only [e, add_zero_mul]
  obtain ⟨f, f3, f1, f2, f0⟩ := fields_c v 59 (d.code) 0 0 9 k (by omega)
  exact ⟨by omega, by rw [parse_3B v f]; simp [parse3B, f0, f1, f2, f3]⟩

theorem issueCycle : Statement .issueCycle := ⟨fun h => (nomatch h), fun _ => rfl⟩

theorem formDrill (core : Nat) : Statement (.formDrill core) := ⟨fun h => (nomatch h), fun _ => rfl⟩

theorem furrowAgeEligible (core : Nat) (furrow : Nat) : Statement (.furrowAgeEligible core furrow) := ⟨fun h => (nomatch h), fun _ => rfl⟩

theorem rowRendezvousComplete (tag : Nat) (row : Nat) : Statement (.rowRendezvousComplete tag row) := ⟨fun h => (nomatch h), fun _ => rfl⟩

theorem rowGroupExecute (tag : Nat) (row : Nat) : Statement (.rowGroupExecute tag row) := ⟨fun h => (nomatch h), fun _ => rfl⟩

theorem tokenRead (sow : Nat) : Statement (.tokenRead sow) := ⟨fun h => (nomatch h), fun _ => rfl⟩

theorem placeTract : Statement .placeTract := ⟨fun h => (nomatch h), fun _ => rfl⟩

theorem quantumExpiry (tract : Nat) : Statement (.quantumExpiry tract) := ⟨fun h => (nomatch h), fun _ => rfl⟩

theorem sleepCandidateTimer (tract : Nat) : Statement (.sleepCandidateTimer tract) := ⟨fun h => (nomatch h), fun _ => rfl⟩

theorem swapOut (tract : Nat) : Statement (.swapOut tract) := ⟨fun h => (nomatch h), fun _ => rfl⟩

theorem swapIn (tract : Nat) : Statement (.swapIn tract) := ⟨fun h => (nomatch h), fun _ => rfl⟩

theorem plotRetire (tag : Nat) : Statement (.plotRetire tag) := ⟨fun h => (nomatch h), fun _ => rfl⟩

theorem sowingComplete (sow : Nat) : Statement (.sowingComplete sow) := ⟨fun h => (nomatch h), fun _ => rfl⟩

theorem threadWake (tag : Nat) (tid : Nat) : Statement (.threadWake tag tid) := ⟨fun h => (nomatch h), fun _ => rfl⟩

theorem pauseExpiry (tag : Nat) (tid : Nat) : Statement (.pauseExpiry tag tid) := ⟨fun h => (nomatch h), fun _ => rfl⟩

theorem waitwRecheck (tag : Nat) (tid : Nat) : Statement (.waitwRecheck tag tid) := ⟨fun h => (nomatch h), fun _ => rfl⟩

theorem barpComplete (tag : Nat) : Statement (.barpComplete tag) := ⟨fun h => (nomatch h), fun _ => rfl⟩

theorem barcComplete (sow : Nat) (com : Nat) : Statement (.barcComplete sow com) := ⟨fun h => (nomatch h), fun _ => rfl⟩

theorem loadReturn (id : Nat) (value : WireValue) : Statement (.loadReturn id value) := ⟨fun h => (nomatch h), fun _ => rfl⟩

theorem storeAck (ack : Ack) : Statement (.storeAck ack) := ⟨fun h => (nomatch h), fun _ => rfl⟩

theorem pageWalk (core : Nat) (ctx : Nat) (va : Nat) : Statement (.pageWalk core ctx va) := ⟨fun h => (nomatch h), fun _ => rfl⟩

theorem directoryMakeShared (core : Nat) (ctx : Nat) (va : Nat) : Statement (.directoryMakeShared core ctx va) := ⟨fun h => (nomatch h), fun _ => rfl⟩

theorem regionWindowEnd (line : DieLine) : Statement (.regionWindowEnd line) := ⟨fun h => (nomatch h), fun _ => rfl⟩

theorem regionMigrate (line : DieLine) : Statement (.regionMigrate line) := ⟨fun h => (nomatch h), fun _ => rfl⟩

theorem regionMerge (line : DieLine) : Statement (.regionMerge line) := ⟨fun h => (nomatch h), fun _ => rfl⟩

theorem lpwFadeTick (ctx : Nat) (n : Nat) : Statement (.lpwFadeTick ctx n) := ⟨fun h => (nomatch h), fun _ => rfl⟩

theorem glean (id : Nat) : Statement (.glean id) := ⟨fun h => (nomatch h), fun _ => rfl⟩

theorem viewAtomic (id : Nat) : Statement (.viewAtomic id) := ⟨fun h => (nomatch h), fun _ => rfl⟩

theorem faratAtomic (id : Nat) : Statement (.faratAtomic id) := ⟨fun h => (nomatch h), fun _ => rfl⟩

theorem reservationExpiry (tag : Nat) (tid : Nat) : Statement (.reservationExpiry tag tid) := ⟨fun h => (nomatch h), fun _ => rfl⟩

theorem barrierArrive (id : Nat) : Statement (.barrierArrive id) := ⟨fun h => (nomatch h), fun _ => rfl⟩

theorem landArrive (id : Nat) : Statement (.landArrive id) := ⟨fun h => (nomatch h), fun _ => rfl⟩

theorem landAnswer (id : Nat) : Statement (.landAnswer id) := ⟨fun h => (nomatch h), fun _ => rfl⟩

theorem slotLapse (core : Nat) (slot : Nat) : Statement (.slotLapse core slot) := ⟨fun h => (nomatch h), fun _ => rfl⟩

theorem frontEndTakePacket (q : Nat) : Statement (.frontEndTakePacket q) := ⟨fun h => (nomatch h), fun _ => rfl⟩

theorem launch (q : Nat) : Statement (.launch q) := ⟨fun h => (nomatch h), fun _ => rfl⟩

theorem nopPacket (q : Nat) : Statement (.nopPacket q) := ⟨fun h => (nomatch h), fun _ => rfl⟩

theorem tokenSignal (q : Nat) : Statement (.tokenSignal q) := ⟨fun h => (nomatch h), fun _ => rfl⟩

theorem queueCopyHandoff (q : Nat) : Statement (.queueCopyHandoff q) := ⟨fun h => (nomatch h), fun _ => rfl⟩

theorem qpostRingRoom (id : Nat) : Statement (.qpostRingRoom id) := ⟨fun h => (nomatch h), fun _ => rfl⟩

theorem copy (id : Nat) : Statement (.copy id) := ⟨fun h => (nomatch h), fun _ => rfl⟩

theorem quantisingCopy (id : Nat) : Statement (.quantisingCopy id) := ⟨fun h => (nomatch h), fun _ => rfl⟩

theorem conditionalCopy (id : Nat) : Statement (.conditionalCopy id) := ⟨fun h => (nomatch h), fun _ => rfl⟩

theorem peerCopy (id : Nat) : Statement (.peerCopy id) := ⟨fun h => (nomatch h), fun _ => rfl⟩

theorem copyComplete (id : Nat) : Statement (.copyComplete id) := ⟨fun h => (nomatch h), fun _ => rfl⟩

theorem mmaStreamStart (core : Nat) (arr : Nat) : Statement (.mmaStreamStart core arr) := ⟨fun h => (nomatch h), fun _ => rfl⟩

theorem mmaStreamEnd (core : Nat) (arr : Nat) : Statement (.mmaStreamEnd core arr) := ⟨fun h => (nomatch h), fun _ => rfl⟩

theorem mdrainRun (core : Nat) (arr : Nat) : Statement (.mdrainRun core arr) := ⟨fun h => (nomatch h), fun _ => rfl⟩

theorem mdrainComplete (core : Nat) (arr : Nat) : Statement (.mdrainComplete core arr) := ⟨fun h => (nomatch h), fun _ => rfl⟩

theorem mzeroTurn (core : Nat) (arr : Nat) : Statement (.mzeroTurn core arr) := ⟨fun h => (nomatch h), fun _ => rfl⟩

theorem apipeStart (core : Nat) : Statement (.apipeStart core) := ⟨fun h => (nomatch h), fun _ => rfl⟩

theorem apipeComplete (core : Nat) : Statement (.apipeComplete core) := ⟨fun h => (nomatch h), fun _ => rfl⟩

theorem faultRecordFlush (ctx : Nat) : Statement (.faultRecordFlush ctx) := ⟨fun h => (nomatch h), fun _ => rfl⟩

theorem parkingBudgetExpiry (tract : Nat) : Statement (.parkingBudgetExpiry tract) := ⟨fun h => (nomatch h), fun _ => rfl⟩

theorem faultService (service : Service) : Statement (.faultService service) := ⟨fun h => (nomatch h), fun _ => rfl⟩

theorem debugSetComparator (ctx : Nat) (n : Nat) (cmp : Comparator) : Statement (.debugSetComparator ctx n cmp) := ⟨fun h => (nomatch h), fun _ => rfl⟩

theorem debugSetControl (ctx : Nat) (still : Bool) (haz : Bool) (bks : Bool) : Statement (.debugSetControl ctx still haz bks) := ⟨fun h => (nomatch h), fun _ => rfl⟩

theorem debugReadState (tag : Nat) (tid : Nat) : Statement (.debugReadState tag tid) := ⟨fun h => (nomatch h), fun _ => rfl⟩

theorem debugWriteState (tag : Nat) (tid : Nat) (image : BitVec 2048) (regs : List (BitVec 32)) : Statement (.debugWriteState tag tid image regs) := ⟨fun h => (nomatch h), fun _ => rfl⟩

theorem debugResume (tag : Nat) (tid : Nat) : Statement (.debugResume tag tid) := ⟨fun h => (nomatch h), fun _ => rfl⟩

theorem debugSingleStep (tag : Nat) (tid : Nat) : Statement (.debugSingleStep tag tid) := ⟨fun h => (nomatch h), fun _ => rfl⟩

theorem debugKill (tag : Nat) (tid : Nat) : Statement (.debugKill tag tid) := ⟨fun h => (nomatch h), fun _ => rfl⟩

theorem faultsHold (ctx : Nat) : Statement (.faultsHold ctx) := ⟨fun h => (nomatch h), fun _ => rfl⟩

theorem faultsRelease (ctx : Nat) : Statement (.faultsRelease ctx) := ⟨fun h => (nomatch h), fun _ => rfl⟩

theorem faultsKill (ctx : Nat) (n : Nat) : Statement (.faultsKill ctx n) := ⟨fun h => (nomatch h), fun _ => rfl⟩

theorem h2dDoorbell (seq : BitVec 32) : Statement (.h2dDoorbell seq) := ⟨fun h => (nomatch h), fun _ => rfl⟩

theorem mailboxWrite (off : Nat) (value : BitVec 32) : Statement (.mailboxWrite off value) := ⟨fun h => (nomatch h), fun _ => rfl⟩

theorem mailboxAccept : Statement .mailboxAccept := ⟨fun h => (nomatch h), fun _ => rfl⟩

theorem d2hPost : Statement .d2hPost := ⟨fun h => (nomatch h), fun _ => rfl⟩

theorem selfTestRecord : Statement .selfTestRecord := ⟨fun h => (nomatch h), fun _ => rfl⟩

theorem attestation : Statement .attestation := ⟨fun h => (nomatch h), fun _ => rfl⟩

theorem certificates : Statement .certificates := ⟨fun h => (nomatch h), fun _ => rfl⟩

theorem contextRegister : Statement .contextRegister := ⟨fun h => (nomatch h), fun _ => rfl⟩

theorem contextUnregister : Statement .contextUnregister := ⟨fun h => (nomatch h), fun _ => rfl⟩

theorem queueRegister : Statement .queueRegister := ⟨fun h => (nomatch h), fun _ => rfl⟩

theorem queueUnregister : Statement .queueUnregister := ⟨fun h => (nomatch h), fun _ => rfl⟩

theorem pinChange : Statement .pinChange := ⟨fun h => (nomatch h), fun _ => rfl⟩

theorem lazyAdd : Statement .lazyAdd := ⟨fun h => (nomatch h), fun _ => rfl⟩

theorem discard : Statement .discard := ⟨fun h => (nomatch h), fun _ => rfl⟩

theorem unfreeze : Statement .unfreeze := ⟨fun h => (nomatch h), fun _ => rfl⟩

theorem apertureSet : Statement .apertureSet := ⟨fun h => (nomatch h), fun _ => rfl⟩

theorem peerWindowSet : Statement .peerWindowSet := ⟨fun h => (nomatch h), fun _ => rfl⟩

theorem linkKeyRotate : Statement .linkKeyRotate := ⟨fun h => (nomatch h), fun _ => rfl⟩

theorem memoryKeyRotate : Statement .memoryKeyRotate := ⟨fun h => (nomatch h), fun _ => rfl⟩

theorem errorLogRead : Statement .errorLogRead := ⟨fun h => (nomatch h), fun _ => rfl⟩

theorem keyDeliver (port : Nat) (key : BitVec 256) : Statement (.keyDeliver port key) := ⟨fun h => (nomatch h), fun _ => rfl⟩

theorem keyInstallAck (port : Nat) : Statement (.keyInstallAck port) := ⟨fun h => (nomatch h), fun _ => rfl⟩

theorem oldGenerationAcked (port : Nat) : Statement (.oldGenerationAcked port) := ⟨fun h => (nomatch h), fun _ => rfl⟩

theorem retireMarker (port : Nat) (gen : Bool) : Statement (.retireMarker port gen) := ⟨fun h => (nomatch h), fun _ => rfl⟩

theorem flitReceive (port : Nat) (flit : Flit) : Statement (.flitReceive port flit) := ⟨fun h => (nomatch h), fun _ => rfl⟩

theorem portLinkUp (port : Nat) (lanes : Nat) : Statement (.portLinkUp port lanes) := ⟨fun h => (nomatch h), fun _ => rfl⟩

theorem portLeaveService (port : Nat) : Statement (.portLeaveService port) := ⟨fun h => (nomatch h), fun _ => rfl⟩

theorem oRemapRelease (dst : Nat) : Statement (.oRemapRelease dst) := ⟨fun h => (nomatch h), fun _ => rfl⟩

theorem destUnreachable (dst : Nat) : Statement (.destUnreachable dst) := ⟨fun h => (nomatch h), fun _ => rfl⟩

theorem fabricRequestReceive (req : FabReq) : Statement (.fabricRequestReceive req) := ⟨fun h => (nomatch h), fun _ => rfl⟩

theorem relayForward (id : Nat) : Statement (.relayForward id) := ⟨fun h => (nomatch h), fun _ => rfl⟩

theorem hostAccess (acc : HostAcc) : Statement (.hostAccess acc) := ⟨fun h => (nomatch h), fun _ => rfl⟩

theorem powerOn (st : SelfTest) : Statement (.powerOn st) := ⟨fun h => (nomatch h), fun _ => rfl⟩

theorem deviceReset (st : SelfTest) : Statement (.deviceReset st) := ⟨fun h => (nomatch h), fun _ => rfl⟩

theorem patrolScrub (line : Nat) : Statement (.patrolScrub line) := ⟨fun h => (nomatch h), fun _ => rfl⟩

theorem powerThrottle (watts : Nat) (celsius : Nat) : Statement (.powerThrottle watts celsius) := ⟨fun h => (nomatch h), fun _ => rfl⟩

theorem thermalTrip : Statement .thermalTrip := ⟨fun h => (nomatch h), fun _ => rfl⟩

theorem uncorrectableError (site : ErrSite) : Statement (.uncorrectableError site) := ⟨fun h => (nomatch h), fun _ => rfl⟩

theorem reachabilityTableChange (port : Nat) (dsts : List Nat) : Statement (.reachabilityTableChange port dsts) := ⟨fun h => (nomatch h), fun _ => rfl⟩

end Laws.RoundTrip

end Sys2Proof
end

