-- ==== Sys2Proof/Tests/Slice0.lean ====
section
/-! SUPPORT. Tests: an ill-formed term for each check of WellFormed, words of spec 03 for every family, values that spec/ prints, one-step
results, and states that meet the hypotheses of the statements. Each expected result comes from the rule named at it. -/

namespace Sys2Proof.Tests

open Sys2Proof Sys2Proof.Machine

/-! ## Ill-formed terms (03 R43, R45, R56 to R58, R64 to R70) -/

theorem test_wf_dst32 : [Reg.k 0, .tid, .lane, .clk].all (fun d => !(Instr.iadd d (.w 0) (.w 0) 0).wf) = true := rfl
theorem test_wf_dst64 : [Reg.w 1, .k 0, .ix, .tid].all (fun d => !(Instr.mov64 d (.w 0) 0).wf) = true := rfl
theorem test_wf_src64 : [Reg.w 3, .k 5, .ix, .lane, .clk].all (fun a => !(Instr.mov64 (.w 0) a 0).wf) = true := rfl
theorem test_wf_dst128 : [Reg.w 2, .k 0, .ix].all (fun d => !(Instr.xacc d (.w 0) (.w 0) 0).wf) = true := rfl
theorem test_wf_src128 : [Reg.w 6, .k 2, .ix].all (fun a => !(Instr.xadd (.w 0) a 0).wf) = true := rfl
theorem test_wf_blocks : ((Instr.ttld (.w 2) (.w 0)).wf || (Instr.ttst 0 (.w 0) (.k 0)).wf) = false := rfl
theorem test_wf_predicate_groups :
    ((Instr.ptor (.w 0) 1 0).wf || (Instr.rtop 16 (.w 0) 0).wf || (Instr.pcnt (.w 0) 33 0).wf || (Instr.fcmpeq .e4 2 (.w 0) (.w 0) 0).wf) = false := rfl
theorem test_wf_formats : ((Instr.cvtpk (.w 0) (.w 0) .f32 0).wf || (Instr.xcvt (.w 0) (.w 0) .e2m1 0).wf) = false := rfl
theorem test_wf_row_types : ((Instr.rredAddi (.w 0) (.w 0) .f32 0).wf || (Instr.rscani (.w 1) (.w 0) .i64 false 0).wf) = false := rfl
theorem test_wf_sizes :
    ((Instr.st (.w 0) (.w 0) 0 .o .dev false .s8).wf || (Instr.sts (.w 0) (.w 0) 0 .s16).wf || (Instr.lr (.w 0) (.w 0) 0 .o .dev false .w128).wf) = false := rfl
theorem test_wf_fence_needs_a_class : (Instr.fence .dev false false false).wf = false := rfl
theorem test_wf_bound_registers : ((Instr.mint (.w 0) .ix (.w 2)).wf || (Instr.lwait 0 .zero).wf || (Instr.ltest 0 (.k 0)).wf) = false := rfl
theorem test_wf_system_registers :
    ((Instr.srd (.w 0) 60).wf || (Instr.swr (.w 0) 5).wf || (Instr.swr (.w 0) 8).wf || (Instr.srd (.w 0) 61).wf || (Instr.swr (.w 0) 32).wf) = false := rfl
theorem test_wf_cinv_needs_a_cache : (Instr.cinv (.w 0) false false).wf = false := rfl
theorem test_wf_device_steps :
    ((Instr.formDrill 128).wf || (Instr.furrowAgeEligible 0 128).wf || (Instr.rowGroupExecute 0 64).wf || (Instr.barcComplete 0 256).wf ||
      (Instr.lpwFadeTick 0 16).wf || (Instr.slotLapse 0 4096).wf || (Instr.mmaStreamStart 0 2).wf || (Instr.mailboxWrite 2 0).wf ||
      (Instr.portLinkUp 24 4).wf || (Instr.portLinkUp 0 5).wf || (Instr.oRemapRelease 1024).wf || (Instr.hostAccess (.read 0 0)).wf ||
      (Instr.fabricRequestReceive ⟨0, 0, 0, 0, 0, .dev, false, .read 100 100⟩).wf) = false := rfl

/-! ## Words of spec 03 -/

theorem test_decode_r3 : decodeTableWord 32 0x00000000 = some (.iadd (.w 0) (.w 0) (.w 0) 0) := rfl
theorem test_decode_r3p : decodeTableWord 32 0x28101071 = some (.icmpLt 2 (.w 1) (.w 3) 1) := rfl
theorem test_decode_float : decodeTableWord 32 0x442091A2 = some (.ffma .f32 (.w 4) (.w 9) (.w 13) 2) := rfl
theorem test_decode_axa : decodeTableWord 32 0x74201040 = some (.xacc (.w 4) (.w 1) (.w 2) 0) := rfl
theorem test_decode_row : decodeTableWord 32 0x7C082060 = some (.rshf (.w 1) (.w 2) (.w 3) 0) := rfl
theorem test_decode_imm : decodeTableWord 32 0x981AFFFE = some (.addi (.w 3) (-2)) := rfl
theorem test_decode_window : decodeTableWord 32 0xA0000008 = some (.winb 8) := rfl
theorem test_decode_load : decodeTableWord 32 0xB0314224 = some (.ld (.w 6) (.w 20) 2 .o .dev false .w32) := rfl
theorem test_decode_scratchpad : decodeTableWord 32 0xB8206FFE = some (.lds (.w 4) (.w 6) (-1) .w128) := rfl
theorem test_decode_atomic : decodeTableWord 32 0xC0504688 = some (.atomMinu true (.w 10) (.w 4) .o .tract .rlx) := rfl
theorem test_decode_branch : decodeTableWord 32 0xD44FFFFA = some (.brf 9 true (-6)) := rfl
theorem test_decode_control : decodeTableWord 32 0xDC002003 = some (.jmpi 0 (.w 2)) := rfl
theorem test_decode_wait : decodeTableWord 32 0xE3FFC0FC = some (.wait 63 63 0 63) := rfl
theorem test_decode_sync : decodeTableWord 32 0xE4000001 = some .barp := rfl
theorem test_decode_fence : decodeTableWord 32 0xE40000C0 = some (.fence .dev true false false) := rfl
theorem test_decode_engine : decodeTableWord 32 0xE8282000 = some (.mma 5 (.w 2)) := rfl
theorem test_decode_qpost : decodeTableWord 32 0xE80040C8 = some (.qpost 0 (.w 4) (.w 6)) := rfl
theorem test_decode_ttst : decodeTableWord 32 0xE800320A = some (.ttst 0 (.w 3) (.w 16)) := rfl
theorem test_decode_system : decodeTableWord 32 0xEC0000A0 = some (.trap 5) := rfl
theorem test_decode_unallocated : decodeTableWord 32 0x88000000 = none := rfl
theorem test_encode_load : encode (.ld (.w 6) (.w 20) 2 .o .dev false .w32) = some 0xB0314224#32 := rfl

/-! ## States that meet the hypotheses -/

/-- A translation of the first GiB to itself, writable, of home 3; the page table of ctx gives it as well. -/
def page : TbEntry := tbOf 1 0 0x6F 2

/-- The context of the test states: its tables in memory, a tensor table at 0x20000. -/
def ctx : Ctx :=
  { ctxid := 1, root := 0x100000, ttbase := 0x20000, ttlen := 16, pbud := 50, shbase := 0, shgib := 0, tvec := 0x70000, frqh := 0x50000,
    swpb := 0x1000000, swplen := 0x1000000, bks := false, haz := false, still := false, lpwb := List.replicate 16 0, lpwc := List.replicate 16 0,
    lpwHit := List.replicate 16 false, lpwTick := List.replicate 16 0, cmps := [], peerWin := [], lazy := [], svcHeld := false, heldRecs := [],
    recs := [] }

/-- The two entries of that page table. -/
def tables : Mem := [(0x100000, 1), (0x100002, 0x20), (0x200000, 0x6F)]

/-- A thread whose register pairs 0, 2, 4, 6 hold a line's address, an address off by one, a scratchpad address and 5. -/
def th : Thread := { placedThread false with regs := [0x30000, 0, 0x30001, 0, 0x40, 0, 5, 0] ++ List.replicate 56 0 }

/-- The same in its handler. -/
def thSup : Thread := { placedThread true with regs := th.regs, epc := 0x8000, ewb := 4 }

def r : Ref := ⟨0, 0⟩

/-- One plot on core 0 with one thread, in a drill of one lane; the DRAM rows of page tables at 0x100000 and from 0x200000 to 0x202000 are sown. -/
def st (role : Role) (t : Thread) : State :=
  { State.reset with
    mem := tables, sown := [1040, 2048, 2080, 2144], ctxs := [(1, ctx)], tracts := [(0, placedTract)], plots := [(0, placedPlot role t)]
    cores := [(0, { Core.reset with tb := [page], drills := [(0, { lanes := [r], formed := 0, ready := 0, single := false, group := none })] })]
    cur := { core := 0, slot := 0, word := 0, lanes := [r], group := false } }

/-- A request of the test thread, performed: a load of the word at 0x30000. -/
def req : Req :=
  { ref := r, instr := 0, core := 0, ctx := 1, pc := 0x10000, op := .load .w32, va := 0x30000, pa := 0x30000, bytes := 4, data := 0, dst := .reg 5, words := 1,
    rc := .o, scope := .dev, acq := false, rel := false, src := none, rmode := 0, word := 0, stage := .performed 7, flags := 0, cls := allClasses, stream := some 0,
    sectors := [0x30000 / 32], view := [(0x30000, page)], blind := false, whole := false, glean := Gleaned.start ⟨0, 0, 0, 0⟩ 0 }

/-- The test state with that request at another stage and with another operation. -/
def reqAt (stage : ReqStage) (op : ReqOp) (n : Nat) : Req := { req with stage := stage, op := op, bytes := n }
def turnSt (q : Req) : State := { st .vector th with reqs := [(1, q)] }

/-- No slot of the test states holds an accepted value. -/
theorem st_noDelivery (s : State) (h : s.cores = (st .vector th).cores) : NoDelivery s r := by
  intro c k hk x hx
  rw [h] at hk; cases List.mem_singleton.1 hk; nomatch hx

theorem turnSt_turn (stage : ReqStage) (op : ReqOp) (n : Nat) : Turn (turnSt (reqAt stage op n)) 1 (reqAt stage op n) th :=
  ⟨rfl, rfl, rfl, by cases stage <;> rfl, st_noDelivery _ rfl⟩

theorem turnSt_memoriesOk (q : Req) : (turnSt q).memoriesOk :=
  ⟨rfl, by simp [turnSt, st, placedPlot, Memory.wf], by simp [turnSt, st, Core.reset, Memory.wf]⟩

theorem st_oneLane (role : Role) (t : Thread) (h : t.place = .drill 0) (g : t.stopsWhenFiled = false) :
    OneLane (st role t) r (placedPlot role t) t :=
  ⟨rfl, rfl, rfl, h, g, fun c e => by injection (e : some ctx = some c) with e; subst e; rfl⟩

theorem st_memoriesOk (role : Role) (t : Thread) : (st role t).memoriesOk :=
  ⟨rfl, by simp [st, placedPlot, Memory.wf], by simp [st, Core.reset, Memory.wf]⟩

theorem witness_RegistersReadAndWritten :
    th.wb + (63 : Fin 96).val < th.ra ∧ { th with ix := 63 }.wb + (63 : Word).toNat < th.ra ∧ th.wb + (62 : Fin 96).val + 2 ≤ th.ra ∧
      th.wb + (60 : Fin 96).val + 4 ≤ th.ra := by decide

theorem witness_DecodeEncodeAgree :
    ((Instr.bra 127 true (-131072)).isEvent = false ∧ (Instr.bra 127 true (-131072)).wf = true) ∧ Instr.issueCycle.isEvent = true ∧
      decodeWord 0xE4000001#32 = .ok .barp := ⟨⟨rfl, rfl⟩, rfl, rfl⟩

theorem witness_StepRunsDecodedWord :
    (∃ (s1 s2 : State) (d d1 : Drill), let s := State.reset.withFetchWord 32 0xE4000001
      s.issueQ = [(0, 0)] ∧ tget (s.core 0).drills 0 = some d ∧ d.mayIssue s.cycle = true ∧ d.group = none ∧ State.stopLanes { s with issueQ := [] } d.lanes = s1 ∧
      tget (s1.core 0).drills 0 = some d1 ∧ d1.lanes = [r] ∧ s1.fetch r = (s2, .ok 0xE4000001#32)) ∧
    ∃ d : Drill, d.mayIssue 0 = true ∧ d.group = some (.word 0x7C082060) ∧ decodeWord 0x7C082060#32 = .ok (.rshf (.w 1) (.w 2) (.w 3) 0) :=
  ⟨⟨_, _, _, _, rfl, rfl, rfl, rfl, rfl, rfl, rfl, rfl⟩, { lanes := [r], formed := 0, ready := 0, single := false, group := some (.word 0x7C082060) }, rfl, rfl, rfl⟩

theorem witness_IllegalWordTraps :
    (∀ i, decodeWord 0x88000000#32 ≠ .ok i) ∧ { (st .vector th).cur with word := 0x88000000 }.lanes = [r] ∧ th.sup = false ∧
      th.place = .drill 0 ∧ th.stopsWhenFiled = false := ⟨fun i h => (by rw [show decodeWord 0x88000000#32 = .error .unallocated from rfl] at h; cases h), rfl, rfl, rfl, rfl⟩

theorem witness_StepRunsAgenda :
    State.reset.issueQ = [] ∧ Instr.issueCycle.isEvent = true ∧ State.reset.fallow = false ∧
      { State.reset with mbox := { Mbox.reset with state := 2 } }.fallow = true ∧ inFallow .placeTract = false ∧
      inFallow (.powerOn ⟨true, 0, 0, 0, 0⟩) = true ∧ Instr.barp.isEvent = false := by decide

theorem witness_EveryStepGoesOn : { State.reset with agenda := [.issueCycle] }.agendaOk := by
  intro i h; simp at h; subst h; rfl

theorem witness_MemoriesStayCanonical : State.reset.memoriesOk ∧ ∃ t, step { State.reset with agenda := [.h2dDoorbell 1] } = .next t :=
  ⟨⟨rfl, by simp [State.reset], by simp [State.reset]⟩, _, rfl⟩

/-- The operands of the statements on registers: a quad, a pair and a register at the top of the registers of one lane. -/
theorem witness_Computes :
    (st .vector th).cur.lanes.Nodup ∧ InRange (st .vector th) always [(.w 60, 4), (.w 62, 2), (.w 63, 1)] ∧
      InRange (st .vector th) (guardTR 0) [(.w 60, 4), (.w 62, 2), (.w 63, 1)] ∧ guardTR 7 th = false := by
  refine ⟨by simp [st], ?_, ?_, rfl⟩ <;>
    · intro q h t e g
      obtain rfl : q = r := by simpa [st] using h
      injection (e : some th = some t) with e; subst e; rfl

/-- A row group of two lanes, one of which its guard leaves out. -/
def rowSt : State :=
  let q : Thread := { th with preds := 3 }
  { st .vector th with plots := [(0, { placedPlot .vector th with threads := [(0, th), (1, q)] })], cur := { core := 0, slot := 0, word := 0, lanes := [r, ⟨0, 1⟩], group := true } }

theorem witness_RowComputes :
    rowSt.cur.group = true ∧ rowSt.cur.lanes.Nodup ∧ InRange rowSt (guardTR 1) [(.w 62, 2), (.w 63, 1)] := by
  refine ⟨rfl, by decide, ?_⟩
  intro q h t e g
  have h : q = r ∨ q = ⟨0, 1⟩ := by simpa [rowSt] using h
  rcases h with rfl | rfl
  · injection (e : some th = some t) with e; subst e; cases (g : false = true)
  · injection (e : some { th with preds := 3 } = some t) with e; subst e; rfl

theorem witness_IntegerInstructions : (31 : Nat) < 32 ∧ (bitExtract 0xFFFFFFFF 0x1F1F).getLsbD 0 = true ∧ (bitInsert 0 0x1F1F 0xFFFFFFFF).getLsbD 31 = false := by decide

theorem witness_ComparesAndPredicates : (96 + (List.replicate 32 true).length ≤ 128) ∧ (127 : Nat) < 128 := by decide

theorem witness_FloatArithmeticAndCompares :
    (3 : Nat) < FTy.e4.elems ∧ ((fmtF32.value 0x7FC00000).isNaN || (fmtF32.value 0).isNaN) = true ∧
      ((fmtF32.value 0x80000000).isNaN || (fmtF32.value 0).isNaN) = false ∧ (fpCmp fmtF32 0 0x80000000 0).1 = true := by decide

theorem witness_RowShufflesAndVotes :
    isRow (.rshf (.w 0) (.w 0) (.w 0) 0) = true ∧ OneLane (st .vector th) r (placedPlot .vector th) th ∧ (st .vector th).cur.group = false ∧ th.sup = false ∧
      OneLane (st .vector thSup) r (placedPlot .vector thSup) thSup ∧ thSup.sup = true :=
  ⟨rfl, st_oneLane _ _ rfl rfl, rfl, rfl, st_oneLane _ _ rfl rfl, rfl⟩

theorem witness_RowReductions : RT.i32 ≠ .f32 ∧ (List.replicate 64 1).length = 64 ∧ ∀ x y z : Nat, max (max x y) z = max x (max y z) :=
  ⟨by decide, rfl, Nat.max_assoc⟩

theorem witness_BranchesAndFilings :
    rowSt.cur.lanes.Nodup ∧ tfree (rowSt.core rowSt.cur.core).drills 0 256 = some 1 ∧ rowSt.thread? r = some th ∧
      rowSt.thread? ⟨0, 1⟩ = some { th with preds := 3 } ∧ (th.pred 1 != false) = false ∧ (({ th with preds := 3 } : Thread).pred 1 != false) = true ∧
      OneLane (st .vector th) r (placedPlot .vector th) th ∧ guardY 0 th = true ∧ guardY 127 th = false :=
  ⟨by decide, rfl, rfl, rfl, rfl, rfl, st_oneLane _ _ rfl rfl, rfl, rfl⟩

theorem witness_CallsReturnsAndExits :
    OneLane (st .vector { th with rstack := [4] }) r (placedPlot .vector { th with rstack := [4] }) { th with rstack := [4] } ∧
      ({ th with rstack := List.replicate 7 4 } : Thread).rstack.length < 8 ∧ guardY 0 th = true ∧ guardY 1 th = false ∧ th.rstack = [] ∧ th.spd = 0 ∧
      th.inRange (.w 62) 2 = true ∧ (th.rd64 (envOf (st .vector th) r (placedPlot .vector th)) (.w 0)).toNat % 4 = 0 ∧
      (th.rd64 (envOf (st .vector th) r (placedPlot .vector th)) (.w 2)).toNat % 4 ≠ 0 ∧ th.sup = false ∧ th.inRange (.w 63) 1 = true :=
  ⟨st_oneLane _ _ rfl rfl, by decide, rfl, rfl, rfl, rfl, rfl, rfl, by decide, rfl, rfl⟩

theorem witness_TrapEntry :
    OneLane (st .vector th) r (placedPlot .vector th) th ∧ th.sup = false ∧ guardTR 0 th = true ∧ th.inRange (.w 64) 1 = false ∧ th.inRange (.w 63) 2 = false ∧
      OneLane (st .vector thSup) r (placedPlot .vector thSup) thSup ∧ thSup.sup = true ∧ thSup.inRange (.w 64) 1 = false :=
  ⟨st_oneLane _ _ rfl rfl, rfl, rfl, rfl, rfl, st_oneLane _ _ rfl rfl, rfl, rfl⟩

theorem witness_TrapsAndReturns :
    OneLane (st .vector th) r (placedPlot .vector th) th ∧ th.sup = false ∧ ctx.bks = false ∧ tget { st .vector th with ctxs := [(1, { ctx with bks := true })] }.ctxs 1 = some { ctx with bks := true } ∧
      ctx.still = false ∧ OneLane (st .vector thSup) r (placedPlot .vector thSup) thSup ∧ thSup.sup = true ∧ thSup.inRange (.w 63) 1 = true :=
  ⟨st_oneLane _ _ rfl rfl, rfl, rfl, rfl, rfl, st_oneLane _ _ rfl rfl, rfl, rfl⟩

theorem witness_SystemRegisters :
    OneLane (st .vector thSup) r (placedPlot .vector thSup) thSup ∧ srdLegal 0x3B true = true ∧ srdLegal 0x2F false = true ∧ swrLegal 0x3B true = true ∧
      swrLegal 0x04 false = true ∧ thSup.inRange (.w 62) 2 = true ∧ thSup.sup = true ∧
      (thSup.rd32 (envOf (st .vector thSup) r (placedPlot .vector thSup)) (.w 4)).toNat % 4 = 0 ∧
      (thSup.rd32 (envOf (st .vector thSup) r (placedPlot .vector thSup)) (.w 8)).toNat + 4 ≤ thSup.ra ∧ thSup.scr.length = 4 ∧ th.sup = false ∧
      ¬((thSup.rd32 (envOf (st .vector thSup) r (placedPlot .vector thSup)) (.w 2)).toNat % 4 = 0) ∧ (0x0F : Fin 128).val < 0x10 ∧ 0x3D ≤ (127 : Fin 128).val :=
  ⟨st_oneLane _ _ rfl rfl, rfl, rfl, rfl, rfl, rfl, rfl, rfl, by decide, rfl, rfl, by decide, by decide, by decide⟩

theorem witness_CachesAndTranslations :
    OneLane (st .vector thSup) r (placedPlot .vector thSup) thSup ∧ thSup.inRange (.w 63) 1 = true ∧ thSup.inRange (.w 62) 2 = true ∧
      (st .vector thSup).xlate 0 1 0x30000 accLoad = (st .vector thSup, .ok page) ∧ page.view = false ∧
      devOf (page.pa 0x30000) = (st .vector thSup).device ∧ (st .vector thSup).core 0 = { Core.reset with tb := [page], drills := ((st .vector thSup).core 0).drills } :=
  ⟨st_oneLane _ _ rfl rfl, rfl, rfl, rfl, rfl, rfl, rfl⟩

theorem witness_LoadsAndStores :
    OneLane (st .vector th) r (placedPlot .vector th) th ∧ (st .vector th).memoriesOk ∧ th.inRanges [(.w 60, szRegs .w128), (.w 0, 2)] = true ∧
      Reaches (st .vector th) (placedPlot .vector th) (addrM (st .vector th) r (placedPlot .vector th) th (.w 0) 0 16) 16 accLoad page ∧
      Reaches (st .vector th) (placedPlot .vector th) (addrM (st .vector th) r (placedPlot .vector th) th (.w 0) 0 16) 16 accStore page :=
  ⟨st_oneLane _ _ rfl rfl, st_memoriesOk _ _, rfl, ⟨rfl, rfl, rfl, rfl, rfl, fun _ => rfl⟩, ⟨rfl, rfl, rfl, rfl, rfl, fun _ => rfl⟩⟩

theorem witness_LoadsAndStores_end :
    let l := reqAt .place (.load .w32) 4
    let x := reqAt .place .store 4
    Turn (turnSt l) 1 l th ∧ AtPlace (turnSt l) l page ∧ l1Find ((turnSt l).core l.core).l1 (l.pa / 128 * 128) = none ∧ { l with acq := true }.acq = true ∧
      (turnSt x).memoriesOk ∧ Turn (turnSt x) 1 x th ∧ AtPlace (turnSt x) x page ∧ x.op = .store :=
  ⟨turnSt_turn _ _ _, ⟨rfl, rfl, rfl, rfl, rfl⟩, rfl, rfl, turnSt_memoriesOk _, turnSt_turn _ _ _, ⟨rfl, rfl, rfl, rfl, rfl⟩, rfl⟩

theorem witness_ReservedAccesses :
    Reaches (st .vector th) (placedPlot .vector th) (addrM (st .vector th) r (placedPlot .vector th) th (.w 0) 0 8) 8 accLR page ∧
      Reaches (st .vector th) (placedPlot .vector th) 0x30000 8 accSC page := ⟨⟨rfl, rfl, rfl, rfl, rfl, fun _ => rfl⟩, ⟨rfl, rfl, rfl, rfl, rfl, fun _ => rfl⟩⟩

/-- A reservation of the test thread for eight bytes, made in cycle 0. -/
def held : Reservation := { peer := none, ref := r, table := 0, pa := 0x30000, bytes := 8, made := 0 }

theorem witness_ReservedAccesses_end :
    let l := reqAt .place .lr 8
    let q := reqAt .place (.sc false) 8
    let s := { turnSt q with reservations := [held], cycle := 4095 }
    (turnSt l).memoriesOk ∧ Turn (turnSt l) 1 l th ∧ AtPlace (turnSt l) l page ∧ l.op = .lr ∧ Turn s 1 q th ∧ AtPlace s q page ∧ q.op = .sc false ∧
      s.reservationOf q.ref = some held ∧ held.pa = placeKey (s.placeOf page q.pa) ∧ held.bytes = q.bytes ∧ s.cycle < held.made + 4096 ∧
      ¬({ s with cycle := 4096 }.cycle < held.made + 4096) ∧ (turnSt q).reservationOf r = none :=
  ⟨turnSt_memoriesOk _, turnSt_turn _ _ _, ⟨rfl, rfl, rfl, rfl, rfl⟩, rfl, ⟨rfl, rfl, rfl, rfl, st_noDelivery _ rfl⟩, ⟨rfl, rfl, rfl, rfl, rfl⟩, rfl, rfl, rfl,
    rfl, by decide, by decide, rfl⟩

theorem witness_AtomicsReadAndWrite :
    let q := reqAt .place (.atom 9 5) 8
    atomForm (.atomCas true (.w 60) (.w 0) .o .dev .rlx) = some (9, 8, .w 60, .w 0, .o, .dev, .rlx) ∧
      th.inRanges [(.w 60, operandRegs 9 8), (.w 0, 2)] = true ∧ Reaches (st .vector th) (placedPlot .vector th) 0x30000 8 accAtomic page ∧
      Turn (turnSt q) 1 q th ∧ AtPlace (turnSt q) q page ∧ q.op = .atom 9 5 ∧ atomWidth 9 q.bytes ∧ atomWidth 10 4 ∧ atomWidth 11 16 :=
  ⟨rfl, rfl, ⟨rfl, rfl, rfl, rfl, rfl, fun _ => rfl⟩, turnSt_turn _ _ _, ⟨rfl, rfl, rfl, rfl, rfl⟩, rfl, .inr rfl, rfl, rfl⟩

theorem witness_ScratchpadAccesses :
    th.inRanges [(.w 60, szRegs .w128), (.w 4, 1)] = true ∧ addrS (st .vector th) r (placedPlot .vector th) th (.w 4) 0 16 % 16 = 0 ∧
      (st .vector th).spadAt 0 (addrS (st .vector th) r (placedPlot .vector th) th (.w 4) 0 16) 16 = .ok (0, 64) ∧
      (st .vector th).spadAt 0 4080 16 = .ok (0, 4080) ∧ atomsForm (.atomsXadd128 (.w 60) (.w 4) true .rlx) = some (11, 16, .w 60, .w 4, .rlx) :=
  ⟨rfl, rfl, rfl, rfl, rfl⟩

theorem witness_ScratchpadAccesses_end :
    ∀ op ∈ [ReqOp.load .w32, .store, .atom 10 5], let q := reqAt (.bank 0 64) op 4
      (turnSt q).memoriesOk ∧ Turn (turnSt q) 1 q th ∧ q.stage = .bank 0 64 ∧ q.op = op ∧ atomWidth 10 q.bytes ∧ tget (turnSt q).plots 0 = some (placedPlot .vector th) :=
  fun _ _ => ⟨turnSt_memoriesOk _, turnSt_turn _ _ _, rfl, rfl, rfl, rfl⟩

theorem witness_MisalignedAndUntranslated :
    OneLane (st .vector th) r (placedPlot .vector th) th ∧ th.sup = false ∧ addrM (st .vector th) r (placedPlot .vector th) th (.w 2) 0 4 % 4 ≠ 0 ∧
      (st .vector th).xlate 0 1 (2 ^ 52) accLoad = (st .vector th, .error fcNonCanonical) ∧ fcNonCanonical ≠ 0x22 ∧
      (th.rd64 (envOf (st .vector th) r (placedPlot .vector th)) (.w 2)).toNat % 8 ≠ 0 ∧
      (th.rd32 (envOf (st .vector th) r (placedPlot .vector th)) (.w 2)).toNat % 8 ≠ 0 ∧ fcNonCanonical < 0x20 ∧
      (st .vector th).xlate 0 1 (2 ^ 52) accStore = (st .vector th, .error fcNonCanonical) ∧ (st .vector th).xlate 0 1 (2 ^ 52) accLR = (st .vector th, .error fcNonCanonical) ∧
      (st .vector th).xlate 0 1 (2 ^ 52) accSC = (st .vector th, .error fcNonCanonical) ∧ (st .vector th).xlate 0 1 (2 ^ 52) accAtomic = (st .vector th, .error fcNonCanonical) ∧
      addrS (st .vector th) r (placedPlot .vector th) th (.w 2) 0 4 % 4 ≠ 0 ∧ addrS (st .vector th) r (placedPlot .vector th) th (.w 0) 0 16 % 16 = 0 ∧
      ∀ x, (st .vector th).spadAt 0 (addrS (st .vector th) r (placedPlot .vector th) th (.w 0) 0 16) 16 ≠ .ok x :=
  ⟨st_oneLane _ _ rfl rfl, rfl, by decide, rfl, by decide, by decide, by decide, by decide, rfl, rfl, rfl, rfl, by decide, by decide, fun x h => nomatch h⟩

theorem witness_WaitAndFence :
    OneLane (st .vector { th with ld := 63 }) r (placedPlot .vector { th with ld := 63 }) { th with ld := 63 } ∧ (63 : Nat) ≤ (63 : Fin 64).val ∧
      ¬ (63 : Nat) ≤ (62 : Fin 64).val ∧ (st .vector th).fenceReady 1 r allClasses = true ∧ (turnSt req).fenceReady 2 r allClasses = false :=
  ⟨st_oneLane _ _ rfl rfl, by decide, by decide, rfl, rfl⟩

theorem witness_WaitAndFence_end :
    let q := reqAt .place (.fence allClasses) 0
    let s := { st .vector th with reqs := [(0, req), (1, q)] }
    tget (turnSt q).reqs 1 = some q ∧ q.op = .fence allClasses ∧ NoDelivery (turnSt q) r ∧ (turnSt q).fenceReady 1 r allClasses = true ∧
      tget s.reqs 1 = some q ∧ s.fenceReady 1 r allClasses = false :=
  ⟨rfl, rfl, st_noDelivery _ rfl, rfl, rfl, rfl⟩

/-- A sowing of one plot whose common 0 has the plot of the test states as its member. -/
def sowing : Sowing :=
  { q := 0, ctx := 1, entry := 0x10000, tracts := 1, plots := 1, size := 1, ra := 64, copyN := 0, matN := 0, spadKB := 4, rmode := 0, seed := 1,
    k := List.replicate 10 0, groups := [(0, [(0, 0)])], toks := [], tokAt := none, doneVa := 0, statusVa := 0, prio := 0, quant := 0, order := 0,
    next := 0, retired := 0, coresUsed := [], barc := [], waitRec := none, held := false, doneAdded := false, aborted := false, edge := false }

theorem witness_BarriersArriveAndComplete :
    let t := { th with place := .headland (.sleep .barp) }
    let u := { th with place := .headland (.sleep (.barc 0)) }
    let p := { placedPlot .vector t with barp := [0] }
    let s := { st .vector t with plots := [(0, p)] }
    let c := { st .vector u with sowings := [(0, { sowing with barc := [(0, [r])] })] }
    th.inRange (.w 63) 1 = true ∧ ({ st .vector th with sowings := [(0, sowing)] }.members 0 0).contains (0, 0) = true ∧
      ((st .vector th).members 0 0).contains (0, 0) = false ∧ tget s.plots 0 = some p ∧ p.barpReady = true ∧ s.plotPlaced 0 = true ∧ p.barp.Nodup ∧
      Sleeps s r t .barp ∧ tget c.sowings 0 = some { sowing with barc := [(0, [r])] } ∧ c.barcReady 0 0 = true ∧ Sleeps c r u (.barc 0) :=
  ⟨rfl, rfl, rfl, rfl, rfl, rfl, by decide, ⟨rfl, rfl, rfl, rfl⟩, rfl, rfl, ⟨rfl, rfl, rfl, rfl⟩⟩

theorem witness_ByteCountBarriers :
    th.inRanges [(.w 4, 1), (.w 6, 1)] = true ∧ (st .vector th).spadAt 0 (64 / 16 * 16) 16 = .ok (0, 64) ∧
      ((st .vector th).barAt 0 64).init < 2 ^ 30 ∧ ((st .vector th).barAt 0 64).phase = false ∧ (st .vector th).barPending 0 64 = [] := ⟨rfl, rfl, by decide, rfl, rfl⟩

theorem witness_ByteCountBarriers_end :
    ∀ op ∈ [ReqOp.bcinit 4, .bcexp 4, .bcarr 4], let q := reqAt (.bank 0 64) op 16
      (turnSt q).memoriesOk ∧ Turn (turnSt q) 1 q th ∧ q.stage = .bank 0 64 ∧ tget (turnSt q).plots 0 = some (placedPlot .vector th) ∧ (turnSt q).barPending 0 64 = [(1, q)] := by
  intro op h
  simp only [List.mem_cons, List.not_mem_nil, or_false] at h
  rcases h with rfl | rfl | rfl <;> exact ⟨turnSt_memoriesOk _, turnSt_turn _ _ _, rfl, rfl, rfl⟩

set_option maxRecDepth 20000 in
/-- Two lanes' operations at one barrier. -/
theorem witness_ByteCountBarriers_two :
    let q1 := reqAt (.bank 0 64) (.bcarr 1) 16
    let q2 := { reqAt (.bank 0 64) (.bcexp 1) 16 with ref := ⟨0, 1⟩ }
    let s := { st .vector th with plots := [(0, { placedPlot .vector th with threads := [(0, th), (1, th)] })], reqs := [(1, q1), (2, q2)] }
    tsorted s.reqs = true ∧ s.barPending 0 64 = [(1, q1), (2, q2)] ∧ Turn s 1 q1 th ∧ Turn (s.barStep 0 64 (1, q1)) 2 q2 th ∧ (s.barAt 0 64).init < 2 ^ 30 ∧
      q1.core ≤ 128 ∧ ActsBefore q1 q2 := by
  refine ⟨rfl, rfl, ⟨rfl, rfl, rfl, rfl, st_noDelivery _ rfl⟩, ⟨rfl, rfl, rfl, rfl, ?_⟩, by decide, by decide, .inr ⟨rfl, .inl (by decide)⟩⟩
  intro c k hk x hx; cases List.mem_singleton.1 hk; nomatch hx

theorem witness_WaitwAndRings :
    let p := { placedPlot .vector th with spad := [(64, 8)] }
    let s := { st .vector th with plots := [(0, p)] }
    th.inRanges [(.w 0, 2), (.w 6, 1)] = true ∧ Reaches (st .vector th) (placedPlot .vector th) 0x30000 4 accLoad page ∧
      BitVec.ofNat 32 ((st .vector th).placeNat ((st .vector th).areaOf page 0x30000) ((st .vector th).offsetOf page 0x30000) 4) ≠ (5 : Word) ∧
      BitVec.ofNat 32 ((st .vector th).placeNat ((st .vector th).areaOf page 0x30000) ((st .vector th).offsetOf page 0x30000) 4) = (0 : Word) ∧
      (th.rd64 (envOf (st .vector th) r (placedPlot .vector th)) (.w 2)).toNat % 4 ≠ 0 ∧ (st .vector th).spadNat 0 64 16 % 16 < 2 ∧
      s.spadAt 0 64 16 = .ok (0, 64) ∧ 2 ≤ s.spadNat 0 64 16 % 16 ∧ s.spadNat 0 64 16 % 16 ≤ 8 :=
  ⟨rfl, ⟨rfl, rfl, rfl, rfl, rfl, fun _ => rfl⟩, by decide, by decide, by decide, by decide, rfl, by decide, by decide⟩

theorem witness_LandingNames :
    let x : Slot := { Slot.reset with state := .live, gen := 1, check := 1, reg := 5 }
    let s := { st .vector th with cores := [(0, { Core.reset with slots := [(0, x)] })] }
    let name := 2 ^ 32 + 1
    let t := th.setLanding 5 .pending
    th.inRanges [(.w 62, 2), (.w 63, 1)] = true ∧ th.inRange (.w 63) 1 = true ∧ (th.rd32 (envOf (st .vector th) r (placedPlot .vector th)) (.w 8)).getLsbD 31 = false ∧
      th.landingOf 63 ≠ .pending ∧ freeSlot ((st .vector th).core 0) 0 4096 = some 0 ∧ freeSlot (s.core 0) 0 1 = none ∧ x.owner = r ∧
      s.residentRef r = true ∧ slotMatches ((s.core 0).slot (nameSlot name)) name = true ∧ nameDev name = s.device ∧ nameCore name = 0 ∧ t.landingOf 5 = .pending :=
  ⟨rfl, rfl, rfl, by decide, rfl, rfl, rfl, rfl, rfl, rfl, rfl, rfl⟩

theorem witness_SleepsEnd :
    let f := fun k => { th with place := .headland (.sleep k) }
    Sleeps (st .vector (f (.wait 0 0 0 0))) r (f (.wait 0 0 0 0)) (.wait 0 0 0 0) ∧ th.ld ≤ 0 ∧
      (st .vector (f (.bcwait 64 true))).spadAt 0 (64 : Word).toNat 16 = .ok (0, 64) ∧ ((st .vector (f (.bcwait 64 true))).barAt 0 64).phase ≠ true ∧
      (placedPlot .matrix (f (.mwaitb 63))).count 63 = 0 ∧ (f (.lwait 0 5)).landingOf 5 ≠ .pending ∧ (0 : Nat) ≤ (st .vector th).cycle ∧
      Reaches (st .vector (f (.waitw 0x30000 0 0))) (placedPlot .vector (f (.waitw 0x30000 0 0))) (0x30000 : DWord).toNat 4 accLoad page :=
  ⟨⟨rfl, rfl, rfl, rfl⟩, by decide, rfl, by decide, rfl, by decide, by decide, ⟨rfl, rfl, rfl, rfl, rfl, fun _ => rfl⟩⟩

/-! ## The same for the steps of the device -/

/-- A result, computed by the kernel. -/
theorem ok_of {α ε : Type} [DecidableEq α] {x : State × Except ε α} {v : α} (h : (match x.2 with | .ok w => decide (w = v) | .error _ => false) = true) : x = (x.1, .ok v) := by
  obtain ⟨a, b⟩ := x
  cases b with
  | error e => cases h
  | ok w => rw [of_decide_eq_true h]

/-- The test state with more memory below its tables. -/
def stMem (role : Role) (t : Thread) (m : Mem) : State := { st role t with mem := m ++ tables }

/-- Tables with a level-0 table at 0x202000 for the second GiB. -/
def deepTables : Mem :=
  [(0x100000, 1), (0x100002, 0x20), (0x200000, 0x6F), (0x200008, 1), (0x200009, 0x10), (0x20000A, 0x20), (0x201000, 1), (0x201001, 0x20), (0x201002, 0x20)]

/-- Agents of no core reach the first GiB whatever memory holds below the tables. -/
theorem reaches_tables (s : State) (m : Mem) (va n acc : Nat) (c : Ctx) (h0 : tget s.ctxs 1 = some c) (hc : c.root = 0x100000) (h1 : s.device = 0) (h2 : s.poison = [])
    (h3 : s.sown = [1040, 2048, 2080, 2144]) (hv : va + n < 2 ^ 20)
    (hf : acc ≠ accFetch) (h : ∀ x, 0x100000 ≤ x → mget m x = mget tables x) : ReachesAt { s with mem := m } 128 1 va n acc page := by
  have r0 : State.pteAt { s with mem := m } 0x100000 = 0x200001 := by
    simp [State.pteAt, State.device, State.readLocal, mreads, h, devOf, localOf, show s.locked.device = 0 from h1]; decide
  have r1 : State.pteAt { s with mem := m } 0x200000 = 0x6F := by
    simp [State.pteAt, State.device, State.readLocal, mreads, h, devOf, localOf, show s.locked.device = 0 from h1]; decide
  have i3 : vaIndex va 3 = 0 := by simp [vaIndex, bits]; omega
  have i2 : vaIndex va 2 = 0 := by simp [vaIndex, bits]; omega
  have w : State.walk { s with mem := m } 1 va = .leaf 0x6F 2 0x200000 := by
    unfold State.walk; simp only [h0]; rw [if_neg (by omega)]
    unfold State.walkFrom; simp only [i3, hc, Nat.mul_zero, Nat.add_zero, r0]
    rw [if_neg (by decide), if_neg (by decide), if_neg (by decide)]
    show State.walkFrom _ _ _ _ = _
    unfold State.walkFrom; simp only [i2, show pteFrame 0x200001 * 4096 = 0x200000 from rfl, Nat.mul_zero, Nat.add_zero, r1]
    rw [if_neg (by decide), if_neg (by decide), if_pos (by decide), if_neg (fun h => absurd h.1 (by decide))]
  have wr : State.walkReads { s with mem := m } va 3 0x100000 = [0x100000, 0x200000] := by
    unfold State.walkReads; simp only [i3, Nat.mul_zero, Nat.add_zero, r0]
    rw [if_neg (by decide), if_neg (by decide)]
    show _ :: State.walkReads _ _ _ _ = _
    unfold State.walkReads; simp only [i2, show pteFrame 0x200001 * 4096 = 0x200000 from rfl, Nat.mul_zero, Nat.add_zero, r1]
    rw [if_neg (by decide), if_pos (by decide), if_neg (by decide)]
  have wc : State.walkCounted { s with mem := m } 1 va = ({ s with mem := m }, .leaf 0x6F 2 0x200000) := by
    simp only [State.walkCounted, w, h0, hc, wr, if_pos (show va < 2 ^ 52 by omega)]
    simp [State.countWalk, State.countUnsown, devOf, localOf, lineOf, rowOf, homeC, bits, h3, State.device, show s.locked.device = 0 from h1]
  have t : tbOf 1 va 0x6F 2 = page := by
    have : va / 2 ^ 30 * 2 ^ 30 = 0 := by omega
    simp [tbOf, page, leafSize, show pteC 0x6F = false from rfl, Nat.div_eq_of_lt (show va < 1073741824 by omega)]
  have a : page.pa va = va := by simp [page, tbOf, TbEntry.pa, leafSize, show pteC 0x6F = false from rfl, show pteFrame 0x6F = 0 from rfl]
  refine ⟨?_, rfl, ?_, ?_, fun _ => ?_⟩
  · have hv' : ¬ 2 ^ 52 ≤ va := by omega
    unfold State.xlate; rw [if_neg hv']
    simp [State.walkFor, wc, t, State.fillTb, hf, show pteHome 0x6F = 3 from rfl, show page.w = true from rfl]
  · rw [a]; simp [State.away, State.device, show s.locked.device = 0 from h1, show devOf va = 0 by simp [devOf]; omega]
  · have b : localOf va + n ≤ 2 ^ 39 := by unfold localOf; omega
    rw [a]; simp only [State.frameIn]; rw [decide_eq_true b, Bool.or_true]
  · rw [a]; simp [State.poisonAt, h2]

theorem witness_DrillsFormAndAreIssued :
    let f : Furrow := { key := ⟨1, 0x10000, .vector, 0x10000⟩, threads := [⟨r, 0⟩], since := none }
    let s := fun f => { st .vector { th with place := .filed } with cores := [(0, { Core.reset with furrows := [(0, f)] })], cycle := 64 }
    tsorted (s f).cores = true ∧ (s f).issueQ = [] ∧ (s { f with since := some 0 }).canForm 0 = true ∧ tget ((s f).core 0).furrows 0 = some f ∧ f.since = none ∧
      (0 : Nat) + 64 ≤ (s f).cycle ∧ (∀ c k, (c, k) ∈ (s f).cores → ∀ x ∈ k.slots, x.2.state = .live → (s f).time + (s f).cyclePs < x.2.expiry + 1000000) ∧
      ∀ cx va p lvl a, State.reset.walk cx va = .leaf p lvl a → bits p 6 5 ≠ 0 ∨ bit p 9 = false ∧ bit p 10 = true :=
  ⟨rfl, rfl, rfl, rfl, rfl, by decide, (fun c k h x hx => by cases List.mem_singleton.1 h; nomatch hx), fun cx va p lvl a h => nomatch (h : Walk.bad _ = _)⟩

theorem witness_RowGroupsExecute :
    let t := { th with place := .headland .rendezvous }
    let s := st .vector t
    let g : RowGroup := ⟨0, 0x10000, [0], .word 0x7C082060⟩
    let p := { placedPlot .vector t with groups := [g] }
    let x := { s with plots := [(0, p)], mem := [(0x10000, 0x60), (0x10001, 0x20), (0x10002, 8), (0x10003, 0x7C)] ++ tables }
    (placedPlot .vector t).rowComplete 0 = true ∧ t.stopReq = false ∧ s.plotPlaced 0 = true ∧ p.groups.find? (fun g => g.row == 0) = some g ∧
      tfree (x.core 0).drills 0 256 = some 1 ∧ x.thread? r = some t ∧ x.groupReady 0 g = true ∧ (∀ y ∈ p.threads, y.2.stopReq = false) ∧
      allFetched (x.fetchGroups 0 1 (p.rowGroups 0)).2 = true :=
  ⟨rfl, rfl, rfl, rfl, rfl, rfl, rfl, (fun y h => by cases List.mem_singleton.1 h; rfl), rfl⟩

theorem witness_AccessesComplete :
    let s := fun q => { st .vector { th with ld := 1 } with reqs := [(1, q)] }
    tget (s req).reqs 1 = some req ∧ (s req).thread? req.ref = some { th with ld := 1 } ∧ req.stage = .performed 7 ∧ NoDelivery (s req) r ∧ req.op.countsSt = false ∧
      { req with op := .store }.op.countsSt = true ∧ th.live = true := ⟨rfl, rfl, rfl, st_noDelivery _ rfl, rfl, rfl, rfl⟩

theorem witness_AccessesComplete_order :
    let x := { req with stage := .place }
    let s := fun q : Req => { st .vector th with reqs := [(1, x), (2, q)] }
    (1, x) ∈ (s (reqAt .place (.load .w32) 4)).reqs ∧ (1 : Nat) < 2 ∧ x.ref = r ∧ (∃ y ∈ x.sectors, y ∈ (reqAt .gleaner .store 4).sectors) ∧
      { reqAt .hbm (.atom 0 1) 4 with rel := true, stream := none }.rel = true ∧ (x.stream = none ∨ x.stream ≠ { reqAt .hbm (.atom 0 1) 4 with stream := none }.stream) :=
  ⟨.head _, by decide, rfl, ⟨_, .head _, .head _⟩, rfl, .inr (by decide)⟩

set_option maxRecDepth 20000 in
theorem witness_WalksClaimAndShare :
    let a := { st .vector th with mem := [(0x100000, 1), (0x100002, 0x20), (0x200000, 0xF)] }
    let b := { st .vector th with mem := [(0x100000, 1), (0x100002, 0x20), (0x200000, 0xF), (0x200001, 2)] }
    a.memoriesOk ∧ (127 : Nat) < 128 ∧ a.walk 1 0x30000 = .leaf 15 2 0x200000 ∧ bit 15 8 = false ∧ bits 15 6 5 = 0 ∧ bit 15 4 = false ∧ bit 15 9 = false ∧
      bit 15 10 = false ∧ b.walk 1 0x30000 = .leaf 0x20F 2 0x200000 ∧ bit 0x20F 9 = true ∧ bits 0x20F 58 52 ≠ 1 ∧ bit 0x20F 10 = false ∧
      tbFind (a.core 0).tb 1 0x30000 ≠ none ∧ tbFind (a.core 1).tb 1 0x30000 = none ∧ b.ownerBusy 0 (tbOf 1 0x30000 0x20F 2) b.nextId = false ∧
      { b with reqs := [(1, { reqAt .place .store 4 with view := [(0x30000, tbOf 1 0x30000 0x20F 2)] })], nextId := 2 }.ownerBusy 0 (tbOf 1 0x30000 0x20F 2) 2 = true :=
  ⟨⟨rfl, by simp [st, placedPlot, Memory.wf], by simp [st, Core.reset, Memory.wf]⟩, by decide, rfl, rfl, rfl, rfl, rfl, rfl, rfl, rfl, by decide, rfl,
    by decide, rfl, rfl, rfl⟩

theorem witness_DirectoriesAndTimers :
    let e : Region := { lines := 256, slice := 0, counts := [(0, 63)], start := 0, last := 0, since := 0, made := 0, pending := none }
    let v := { held with made := 5904 }
    let s := { st .vector th with regionDir := [(0, e), (256 * 1024, e)], cycle := 10000, time := 10 ^ 9, reservations := [v] }
    s.regionOf 0 0 = some (0, e) ∧ e.start + 4096 ≤ s.cycle ∧ (e.counts.map Prod.snd).sum < 64 ∧ s.mergeWith 0 e = some (262144, e) ∧
      { e with pending := some 8 }.pending = some 8 ∧ tget s.ctxs 1 = some ctx ∧ ctx.lpwTick.getD 15 0 + 1000000000 ≤ s.time ∧ ctx.lpwc.length = 16 ∧
      s.reservationOf r = some v ∧ v.made + 4096 ≤ s.cycle :=
  ⟨rfl, by decide, by decide, rfl, rfl, rfl, by decide, rfl, rfl, by decide⟩

/-- A view access of four bytes from 0x30000 on, whose base bytes are these. -/
def viewReq (op : ReqOp) : Req := { reqAt .gleaner op 4 with acq := true, view := [(0x30000, page), (0x30001, page), (0x30002, page), (0x30003, page)] }

theorem witness_ViewsAndFarAtomics :
    (∀ op ∈ [ReqOp.load .w32, .store, .atom 8 5], let q := viewReq op
      let s := turnSt q
      s.memoriesOk ∧ tget s.reqs 1 = some q ∧ s.thread? q.ref = some th ∧ s.mayPerform 1 q = true ∧ q.stage = .gleaner ∧ q.acq = true ∧ q.view.length = q.bytes ∧
        (s.viewPlaces q.view).Nodup ∧ q.blind = false ∧ q.glean.got = []) ∧
      (∀ q ∈ [viewReq (.load .w32), viewReq .store], q.bytesLeft = q.nextPart) ∧
      (∀ x ∈ (viewReq .store).view, (turnSt (viewReq .store)).away x.2 (x.2.pa x.1) = false) ∧
      let q := reqAt .hbm (.atom 8 5) 4
      (turnSt q).mayPerform 1 q = true ∧ q.stage = .hbm ∧ q.view = [(q.va, page)] ∧ (8 : Nat) ≤ 8 := by
  refine ⟨?_, ?_, ?_, rfl, rfl, rfl, by decide⟩
  · intro op _
    exact ⟨turnSt_memoriesOk _, rfl, rfl, rfl, rfl, rfl, rfl, (by decide : ([(none, 0x30000), (none, 0x30001), (none, 0x30002), (none, 0x30003)] : List (Option Nat × Nat)).Nodup), rfl, rfl⟩
  · decide +kernel
  · intro x h
    simp only [viewReq, List.mem_cons, List.not_mem_nil, or_false] at h
    rcases h with rfl | rfl | rfl | rfl <;> rfl

/-- A slot that a live name of the test thread holds, and a LAND to it. -/
def slot : Slot := { Slot.reset with state := .live, gen := 1, check := 1, reg := 5, expiry := 7 }
def landTo : Land :=
  { ref := some r, dev := 0, rc := .o, cls := allClasses, stream := some 0, via := .port 0 none, name := 0x100000001, value := 9, wide := false, pc := 0, src := none,
    answered := none, peer := none }
def landSt (time : Nat) : State :=
  { st .vector (th.setLanding 5 .pending) with cores := [(0, { Core.reset with slots := [(0, slot)] })], lands := [(1, landTo)], time := time }

theorem witness_LandsArrive :
    let s := landSt 7
    let a := { s with tracts := [(0, { placedTract with resident := false, cores := [] })] }
    tget s.lands 1 = some landTo ∧ landTo.dev = s.device ∧ s.landTurn 1 landTo = true ∧ (s.core (nameCore landTo.name.toNat)).slot (nameSlot landTo.name.toNat) = slot ∧
      s.time < slot.expiry + 1000000 ∧ slotMatches slot landTo.name.toNat = true ∧ slot.wide = landTo.wide ∧ s.residentRef slot.owner = true ∧
      s.outstanding slot.owner slot.reg 1 = false ∧ s.thread? slot.owner = some (th.setLanding 5 .pending) ∧ a.residentRef slot.owner = false ∧ a.landTurn 1 landTo = true ∧
      slotMatches { slot with gen := 2 } landTo.name.toNat = false ∧ { landTo with answered := some false }.answered = some false ∧
      slot.expiry + 1000000 ≤ (landSt 1000007).time ∧ slot.expiry ≤ s.time :=
  ⟨rfl, rfl, rfl, rfl, by decide, rfl, rfl, rfl, rfl, rfl, rfl, rfl, rfl, rfl, by decide, by decide⟩

/-- The test state with a tensor-table entry of kind 2 and a level-0 table for the second GiB, and one with a view leaf there. -/
def ttState : State := { st .vector th with mem := [(0x20147, 0x80)] ++ deepTables }
def viewState : State := { st .vector th with mem := deepTables ++ [(0x202000, 0x0B), (0x202001, 0x01), (0x202005, 0x05)] }

theorem witness_TensorTable :
    let s := st .vector { th with regs := th.regs.set 9 0x40000000 }
    tget s.ctxs 1 = some ctx ∧ (5 : Nat) < ctx.ttlen ∧ ReachesAt s 0 1 0x20140 64 accTensor page ∧ ReachesAt s 0 1 0x20140 64 accEngWrite page ∧
      th.inRanges [(.w 48, 16), (.w 6, 1)] = true ∧ s.checkEntry 0 1 5 0 = (s, .ok true) ∧
      ¬((th.rd32 (envOf s r (placedPlot .vector th)) (.w 0)).toNat < 4096) :=
  ⟨rfl, by decide, ⟨rfl, rfl, rfl, rfl, fun _ => rfl⟩, ⟨rfl, rfl, rfl, rfl, fun _ => rfl⟩, rfl, rfl, by decide⟩

theorem witness_TensorTable_bad :
    (st .vector th).checkEntry 0 1 5 (2 ^ 62) = (st .vector th, .ok false) := rfl

set_option maxRecDepth 200000 in
theorem witness_TensorTable_bind :
    ttState.tensorId 1 5 = some 5 ∧ (∃ s1 s2, ttState.ttRead 0 1 5 = (s1, .ok (2 ^ 63)) ∧ entKind (2 ^ 63) = 2 ∧ s1.ttRead 0 1 (viewBaseId (2 ^ 63)) = (s2, .ok 0) ∧ boundLength (2 ^ 63) 0 = 4096) ∧
      { ttState with ctxs := [(1, { ctx with shbase := 0x40000000, shgib := 1 })] }.bindFault 1 0x40000000 1 = none ∧
      ttState.leafEntry 1 0x40000000 = some 0x202000 ∧ ttState.bindFault 1 0x30000 1 = some (1, 0x30000) :=
  ⟨rfl, ⟨_, _, ok_of (by decide +kernel), rfl, ok_of (by decide +kernel), rfl⟩, rfl, rfl, rfl⟩

set_option maxRecDepth 200000 in
theorem witness_TensorTable_unbind :
    viewState.leafAt 1 0x40000000 = some (0x202000, 0x5000000010B) ∧ pteV 0x5000000010B = true ∧ pteView 0x5000000010B = true ∧
      bits (pteFrame 0x5000000010B) 27 0 = 0 ∧ (viewState.writePte 0x202000 0).leafAt 1 0x40001000 = some (0x202008, 0) ∧ pteV 0 = false ∧
      viewState.leafAt 1 0x30000 = none :=
  ⟨rfl, rfl, rfl, rfl, rfl, rfl, rfl⟩

set_option maxRecDepth 20000 in
theorem witness_CopyCommandsPosted :
    let s := st .copy th
    let p := placedPlot .copy th
    OneLane s r p th ∧ p.role 0 = .copy ∧ (placedPlot .vector th).role 0 ≠ .copy ∧ guardY 0 th = true ∧ BlockAt s r p th (.w 4) 64 (List.replicate 64 0) ∧
      ccKind (leNat (List.replicate 64 0)) ≠ 3 ∧ s.memoriesOk ∧ th.inRange (.w 0) 2 = true ∧ (0x30000 : Nat) % 64 = 0 ∧
      s.readBlock 0 64 64 = .ok (List.replicate 64 0) ∧ ReachesAt s 0 1 0x30000 8 accAtomic page ∧ s.copyEntry 0 1 (leNat (List.replicate 64 0)) = (s, .ok []) ∧
      s.frontWaits 0 = none ∧ s.frontRoom 0 = true :=
  ⟨st_oneLane _ _ rfl rfl, rfl, by decide, rfl, ⟨rfl, rfl, 0, 64, rfl, rfl⟩, by decide, st_memoriesOk _ _, rfl, rfl, rfl, ⟨rfl, rfl, rfl, rfl, fun _ => rfl⟩, rfl, rfl, rfl⟩

/-- A copy command of a kind: one row of 16 bytes from 0x30000 to 0x30088. -/
def copyCmd (kind : Byte) (more : List Byte) : CopyCmd :=
  newCopy (some r) (some 0) none 1 0 ([kind, 0, 0, 0, 0, 0, 0, 0, 0, 0, 3, 0, 0, 0, 0, 0, 0x88, 0, 3, 0, 0, 0, 0, 0, 16, 0, 0, 0, 1] ++ more) 0 []

/-- A front end that holds 256 commands. -/
theorem witness_CopyCommandsPosted_full :
    256 ≤ ((((List.range 256).map fun i => (i + 2, copyCmd 2 [])).filter fun x => x.1 != 1 && x.2.core == some 0 && x.2.stage != .waiting) : Tab CopyCmd).length := by
  decide +kernel

/-- A state that holds it. -/
def copySt (c : CopyCmd) : State := { st .copy { th with cp := 1 } with copies := [(1, c)] }

set_option exponentiation.threshold 600 in
theorem copySt_oneRow (k : Byte) (h : k = 2 ∨ k = 4 ∨ k = 5) : OneRow (copySt (copyCmd k [])) 1 (copyCmd k []) page page (List.replicate 16 0) := by
  rcases h with rfl | rfl | rfl <;>
    exact ⟨rfl, rfl, ⟨rfl, rfl⟩, rfl, rfl, ⟨rfl, rfl⟩, ⟨by decide, by decide⟩, rfl, fun h => absurd h (by decide), ⟨rfl, rfl, rfl, rfl, fun _ => rfl⟩, ⟨rfl, rfl, rfl, rfl, fun _ => rfl⟩⟩

set_option exponentiation.threshold 600 in
theorem witness_CopiesMoveBytes :
    (copySt (copyCmd 2 [])).memoriesOk ∧ OneRow (copySt (copyCmd 2 [])) 1 (copyCmd 2 []) page page (List.replicate 16 0) ∧
      OneRow (copySt (copyCmd 5 [])) 1 (copyCmd 5 []) page page (List.replicate 16 0) ∧ ccKind (copyCmd 2 []).raw = 2 ∧ ccKind (copyCmd 5 []).raw = 5 ∧
      ccDev (copyCmd 5 []).raw = (st .copy th).device ∧ ccBk (copyCmd 2 []).raw = 0 ∧ ccBk { copyCmd 2 [] with bytes := [2, 0, 2] }.raw = 2 ∧
      OneRow (copySt (copyCmd 4 [])) 1 (copyCmd 4 []) page page (List.replicate 16 0) ∧ 8 ≤ ccDst (copyCmd 4 []).raw % 128 ∧
      ReachesAt (copySt (copyCmd 4 [])) 0 1 0x30080 8 accAtomic page ∧ KeepsReaching (copySt (copyCmd 4 [])) none 0x30080 24 0 1 0x30080 8 accEngWrite page ∧
      (copySt (copyCmd 4 [])).placeNat none 0x30080 8 = ccAux (copyCmd 4 []).raw ∧
      (copySt (copyCmd 4 [])).placeNat none 0x30080 8 ≠ ccAux { copyCmd 4 [] with bytes := List.replicate 48 0 ++ [1] }.raw ∧
      (copySt (copyCmd 4 [])).areaOf page 0x30088 = none ∧ (copySt (copyCmd 4 [])).offsetOf page 0x30088 = (copySt (copyCmd 4 [])).offsetOf page 0x30080 + 8 :=
  ⟨⟨rfl, by simp [copySt, st, placedPlot, Memory.wf], by simp [copySt, st, Core.reset, Memory.wf]⟩, copySt_oneRow 2 (by decide), copySt_oneRow 5 (by decide),
    rfl, rfl, rfl, rfl, rfl, copySt_oneRow 4 (by decide), by decide, ⟨rfl, rfl, rfl, rfl, fun _ => rfl⟩, fun _ _ => ⟨rfl, rfl, rfl, rfl, fun _ => rfl⟩, rfl, by decide, rfl, rfl⟩

set_option exponentiation.threshold 600 in
theorem witness_CopiesEnd :
    let c := { copyCmd 2 [] with stage := .moved }
    let d := { c with bytes := List.replicate 58 0 ++ [3] }
    (copySt (copyCmd 0 [])).copyReady 1 (copyCmd 0 []) = true ∧ firstFailed (copyChecks (copyCmd 0 []).raw false none) = some (0x10, 0) ∧ c.finished = true ∧
      (copySt c).thread? r = some { th with cp := 1 } ∧ ccStatus c.raw = 0 ∧ ccStatus d.raw = 0x30000 ∧ d.norec = false ∧
      ReachesAt (copySt d) 0 1 0x30000 8 accEngWrite page ∧ { c with ref := none, q := some 3 }.finished = true :=
  ⟨rfl, rfl, rfl, rfl, rfl, rfl, rfl, ⟨rfl, rfl, rfl, rfl, fun _ => rfl⟩, rfl⟩

/-- A quantising copy of a row of 32 F32 zeros to an MXFP8 tensor with its elements at 0x40000 and its scales at 0x42000. -/
def quantEntry : Nat := 2 ^ 62 + 2 * 2 ^ 59 + 12 * 2 ^ 55 + 0x40000 + 0x42000 * 2 ^ 64 + 32 * 2 ^ 128 + 2 ^ 160 + 2 ^ 192 + 32 * 2 ^ 224
def quantCmd : CopyCmd :=
  newCopy (some r) (some 0) none 1 0 ([3, 0, 0, 0, 0, 0, 0, 0, 0, 0, 3, 0, 0, 0, 0, 0, 0, 0, 0, 0, 0, 0, 0, 0, 128, 0, 0, 0, 1] ++ List.replicate 35 0) 0 (natLe 64 quantEntry)

set_option maxRecDepth 20000 in
set_option exponentiation.threshold 600 in
theorem witness_CopiesEnd_quantising :
    let s := copySt quantCmd
    let ws : List CopyWrite := [⟨false, 0x40000, List.replicate 32 0, false⟩, ⟨false, 0x42000, [0], false⟩]
    s.copyReady 1 quantCmd = true ∧ quantCmd.todo = none ∧ quantCmd.needEntry = false ∧ ccKind quantCmd.raw = 3 ∧ ccBk quantCmd.raw = 0 ∧
      firstFailed (copyChecks quantCmd.raw false (some (leNat quantCmd.entry))) = none ∧
      ∃ s1 s2, s.copyRows quantCmd [0] = (s1, .ok [List.replicate 128 0]) ∧ quantWrites quantCmd.raw (leNat quantCmd.entry) [List.replicate 128 0] = (ws, 0, false) ∧
        (s1.modCopy 1 fun c => { c with todo := some ws, flags := 0, code := 0 }).copyWrites 1 { quantCmd with todo := some ws, flags := 0, code := 0 } ws = (s2, [], none) :=
  ⟨rfl, rfl, rfl, rfl, rfl, by decide +kernel, _, _, ok_of (by decide +kernel), by decide +kernel, Prod.ext rfl (by decide +kernel)⟩

set_option maxRecDepth 20000 in
set_option exponentiation.threshold 600 in
theorem witness_PacketsAndArrivals :
    let q : QPost := { ref := r, core := 0, ctx := 1, pc := 0, va := 0x60000, slot := some 0, bytes := List.replicate 64 0, paused := none, held := false }
    let s := fun m => { stMem .copy th m with qposts := [(1, q)] }
    let full := s [(0x60012, 6), (0x60011, 0x10), (0x60018, 0)]
    let room := s [(0x60011, 0x10), (0x60012, 6), (0x60018, 4)]
    let x : Arrival := { handle := 0x40, n := 4, cmd := none, src := none, held := false, peer := none }
    (∃ s1 h, full.qpostHeader { q with slot := some 16 } = (s1, .ok (h, 0)) ∧ ringRoom h 0 16 1 = false) ∧
      (∃ s1 h, room.qpostHeader q = (s1, .ok (h, 4)) ∧ ringRoom h 4 0 1 = true ∧ slotVa h 4 0 % 64 = 0 ∧ slotVa h 4 0 = 0x61000 ∧
        KeepsReaching s1 none 0x61000 64 0 1 0x61000 8 accEngWrite page ∧ ReachesAt s1 0 1 0x61008 56 accEngWrite page ∧
        s1.areaOf page 0x61008 = none ∧ s1.offsetOf page 0x61008 = s1.offsetOf page 0x61000 + 8) ∧
      handleDev x.handle.toNat = (st .copy th).device ∧ tget (st .copy th).plots (handleTag x.handle.toNat) = some (placedPlot .copy th) ∧
      handleOff x.handle.toNat + 16 ≤ (placedPlot .copy th).spadLen ∧ (st .copy th).handleHere x.handle = true ∧
      tget (st .copy th).plots (handleTag 0x100000040) = none := by
  refine ⟨⟨_, _, rfl, rfl⟩, ⟨_, _, rfl, rfl, rfl, rfl, fun _ _ => ⟨rfl, rfl, rfl, rfl, fun _ => rfl⟩, ⟨rfl, rfl, rfl, rfl, fun _ => rfl⟩, rfl, rfl⟩, rfl, rfl, by decide, rfl, rfl⟩

/-! ## The same for engines, queues, placement and swap -/

/-- A plot of matrix threads with bytes in its scratchpad and commands in its queue, and the state that holds it. -/
def engPlot (spad : Mem) (q : List EngCmd) : Plot := { placedPlot .matrix th with spad := spad, engq := q }
def engSt (mem spad : Mem) (q : List EngCmd) : State := { st .matrix th with mem := mem ++ tables, plots := [(0, engPlot spad q)] }

theorem engSt_oneLane (m sp : Mem) (q : List EngCmd) : OneLane (engSt m sp q) r (engPlot sp q) th :=
  ⟨rfl, rfl, rfl, rfl, rfl, fun c e => by injection (e : some ctx = some c) with e; subst e; rfl⟩

/-- Bytes of a command block: an MMA of one cell, a drain to registers, an attention command. -/
def mmaBytes : Mem := [(0, 1), (4, 8), (17, 2), (20, 0x20), (22, 0x60), (32, 0x40), (33, 2), (36, 0x20), (38, 0x60)]
def apipeBytes : Mem := [(0, 0x10), (1, 1), (6, 1), (33, 2), (36, 0x40), (38, 0x60)]

set_option maxRecDepth 200000 in
set_option exponentiation.threshold 1100 in
theorem witness_EngineInstructions :
    let s := engSt [(0x20007, 0x40)] mmaBytes []
    let l := natLe 64 (s.spadNat 0 0 64)
    (placedPlot .vector th).role 0 ≠ .matrix ∧ OneLane s r (engPlot mmaBytes []) th ∧ (engPlot mmaBytes []).role 0 = .matrix ∧ guardY 0 th = true ∧
      BlockAt s r (engPlot mmaBytes []) th (.w 8) 64 l ∧ (∃ s1 es, s.engEntries 0 1 [mbTidA (leNat l), mbTidB (leNat l)] = (s1, .ok es) ∧
        s1.mmaStatus 0 (engPlot mmaBytes []) (leNat l) (es.getD 0 []) (es.getD 1 []) = 0 ∧ s1.mmaStatus 0 (engPlot mmaBytes []) (leNat l) [] [] ≠ 0) ∧
      (engPlot [] []).count 63 = 0 ∧ th.inRange (.w 63) 1 = true ∧ true.toNat * 2 + true.toNat < (engPlot [] []).tsw.length :=
  ⟨by decide, engSt_oneLane _ _ _, rfl, rfl, ⟨rfl, rfl, 0, 0, rfl, rfl⟩, ⟨_, _, rfl, rfl, by decide⟩, rfl, rfl, by decide⟩

set_option maxRecDepth 200000 in
set_option exponentiation.threshold 1100 in
theorem witness_EngineInstructions_drain :
    let s := engSt [] [(76, 16)] []
    let l := natLe 32 (s.spadNat 0 64 32)
    BlockAt s r (engPlot [(76, 16)] []) th (.w 4) 32 l ∧ s.drainStatus 0 (engPlot [(76, 16)] []) (leNat l) = 0 ∧
      (engSt [] [] []).drainStatus 0 (engPlot [] []) (2 ^ 255) ≠ 0 := ⟨⟨rfl, rfl, 0, 64, rfl, rfl⟩, rfl, by decide⟩

set_option maxRecDepth 200000 in
set_option exponentiation.threshold 1100 in
theorem witness_EngineInstructions_apipe :
    let s := engSt [(0x20007, 0x50), (0x20010, 64)] apipeBytes []
    let l := natLe 128 (s.spadNat 0 0 128)
    BlockAt s r (engPlot apipeBytes []) th (.w 8) 128 l ∧ ∃ s1 es, s.engEntries 0 1 [apTidQ (leNat l), apTidK (leNat l), apTidV (leNat l)] = (s1, .ok es) ∧
      s1.apipeStatus 0 (leNat l) es = 0 := ⟨⟨rfl, rfl, 0, 0, rfl, rfl⟩, _, _, rfl, rfl⟩

/-- A command of the test thread, in its plot's queue. -/
def eng (k : EngKind) (block : List Byte) (g : EngStage) : EngCmd := { newEng r 0x10000 k 0 block 0 0 0 with stage := g }

theorem witness_EngineInstructions_room :
    let c := newEng r 0x10000 .mzero 0 [] 0 0 0
    let full := engPlot [] (List.replicate 32 (eng .mma [] .queued))
    (engPlot [] []).takes c ∧ c.status = 0 ∧ { c with status := 0x10 }.status ≠ 0 ∧ full.blocks c :=
  ⟨⟨(fun _ h => nomatch (h : _ ∈ ([] : List EngCmd))), rfl⟩, rfl, by decide, ⟨_, rfl, rfl⟩⟩

theorem engSt_memoriesOk (q : List EngCmd) : (engSt [] [] q).memoriesOk :=
  ⟨rfl, by simp [engSt, engPlot, placedPlot, Memory.wf], by simp [engSt, st, Core.reset, Memory.wf]⟩

set_option maxRecDepth 200000 in
set_option exponentiation.threshold 1100 in
theorem witness_MatrixEngineWorks :
    let q := fun k b g => (engSt [] [] [eng k b g])
    (q .mma [] .queued).memoriesOk ∧ (q .mma [] .queued).engPick 0 (fun c => c.kind == .mma && c.arr == 0 && c.stage == .queued) = some (0, eng .mma [] .queued) ∧
      (q .mma [] .started).engStarted 0 0 .mma = some (0, eng .mma [] .started) ∧ mbM 0 ≤ 128 ∧ mbN 0 ≤ 128 ∧ mbArm 0 = false ∧
      (q .mdrain [] .queued).engPick 0 (fun c => c.kind == .mdrain && c.arr == 0 && c.stage == .queued) = some (0, eng .mdrain [] .queued) ∧
      (q .mdrain [] .started).engStarted 0 0 .mdrain = some (0, eng .mdrain [] .started) ∧ dbClr 0 = false ∧ dbReg 0 = false ∧ dbReg 8 = true ∧
      dbRows 8 = 1 ∧ (engSt [] [] []).thread? ⟨0, 0⟩ = some th ∧ dbArm 0 = false ∧ dbArm (2 ^ 160) = true ∧
      (engSt [] [] []).spadAt 0 0 16 = .ok (0, 0) ∧ ((engSt [] [] []).barAt 0 0).init < 2 ^ 30 ∧
      (q .mzero [] .started).engStarted 0 0 .mzero = some (0, eng .mzero [] .started) ∧ (q .mzero [] .queued).engStarted 0 0 .mzero = none ∧
      (q .mzero [] .queued).engPick 0 (fun c => c.kind == .mzero && c.arr == 0 && c.stage == .queued) = some (0, eng .mzero [] .queued) ∧
      (eng .mzero [] .started).accepted = true :=
  ⟨engSt_memoriesOk _, rfl, rfl, by decide, by decide, rfl, rfl, rfl, rfl, rfl, rfl, rfl, rfl, rfl, rfl, rfl, by decide, rfl, rfl, rfl, rfl⟩

set_option maxRecDepth 200000 in
set_option exponentiation.threshold 1100 in
theorem witness_MatrixEngineWorks_waits :
    let c := { eng .mzero [] .started with id := 1 }
    let d := { eng .mma [] .waiting with id := 2, ref := ⟨0, 1⟩ }
    let p := { placedPlot .matrix th with engq := [c, d], threads := [(0, th), (1, th)] }
    let s := { st .matrix th with plots := [(0, p)] }
    s.memoriesOk ∧ s.engStarted 0 0 .mzero = some (0, c) ∧ p.engq = [c] ++ [d] ∧ (∀ x ∈ [c], x.accepted = true) ∧ d.accepted = false ∧ d.status = 0 ∧ d.ref ≠ c.ref ∧
      d.id ≠ c.id ∧ s.thread? c.ref = some th ∧ s.thread? d.ref = some th ∧ ({ p with engq := [c].filter fun x => x.id != c.id } : Plot).hasRoom d = true := by
  refine ⟨⟨rfl, by simp [placedPlot, Memory.wf], by simp [st, Core.reset, Memory.wf]⟩, rfl, rfl, ?_, rfl, rfl, by decide, by decide, rfl, rfl, rfl⟩
  intro x h; rw [List.mem_singleton.1 h]; rfl

set_option maxRecDepth 200000 in
set_option exponentiation.threshold 1100 in
theorem witness_AttentionPipeWorks :
    let q := fun c => (engSt [] [] [c])
    let nope := [0, 0, 1] ++ List.replicate 59 0 ++ [0x10]
    let c := eng .apipe [] .queued
    let p := fun b => eng .apipe b (.paused none)
    let d := fun b => { eng .apipe b .started with sweep := 1 }
    (q c).memoriesOk ∧ (q c).apResumed 0 = none ∧ (q c).apStreamed 0 = none ∧
      (q c).engPick 0 (fun c => c.kind == .apipe && c.stage == .queued) = some (0, c) ∧
      (q (p [])).apResumed 0 = some (0, p []) ∧ (p []).nextReads = some (4, []) ∧ (q (p [])).apRead 0 1 4 [] = (q (p []), [], none) ∧
      { p [] with reads := [[], [], []] }.nextReads = none ∧
      (∃ a l s1 x f, (p nope).nextReads = some (4, a :: l) ∧ (q (p nope)).apRead 0 1 4 (a :: l) = (s1, x, some f) ∧ f.1 ≠ fcNoPort) ∧
      (q (d [0, 2])).apStreamed 0 = some (0, d [0, 2]) ∧ (q (d [0, 2])).spadAt 0 (apMaddr 0) 512 = .ok (0, 0) ∧
      (q (d [])).apStreamed 0 = some (0, d []) ∧ (d []).moreSweeps = false ∧ (∀ x ∈ [d []], x.accepted = true) ∧
      apRes 0 % 16 = 0 ∧ (q (d [])).spadAt 0 0 16 = .ok (0, 0) := by
  refine ⟨engSt_memoriesOk _, rfl, rfl, rfl, rfl, rfl, rfl, rfl, ⟨_, _, _, _, _, rfl, rfl, by decide⟩, rfl, rfl, rfl, rfl, ?_, rfl, rfl⟩
  intro x h; rw [List.mem_singleton.1 h]; rfl

/-- A work queue with its header at 0x60000 and its ring at 0x61000, and the state that holds it. -/
def queue (p : Option Packet) (o : List Nat) : Queue :=
  { ctx := 1, va := 0x60000, prio := 0, quant := 10, log2 := 4, packet := p, open' := o, used := [], waitRec := none, frozen := false, held := false }
def queueSt (m : Mem) (x : Queue) : State := { stMem .vector th m with queues := [(1, x)] }
def packet (kind : Byte) (more : List Byte) : Packet := { n := 0, kind := kind.toNat, bytes := [kind] ++ more, order := 0, edge := false, entry := none, stage := .taken }
def ring : Mem := [(0x60011, 0x10), (0x60012, 6), (0x60018, 4)]

set_option maxRecDepth 200000 in
set_option exponentiation.threshold 1100 in
theorem witness_PacketsTakenAndExecuted :
    let s := queueSt (ring ++ [(0x61000, 7)]) (queue none [])
    let e := queueSt ring (queue none [])
    let bad := queueSt (ring ++ [(0x61000, 9)]) (queue none [])
    (∃ x, tget s.queues 1 = some x ∧ x.packet = none ∧ x.held = false ∧ ReachesAt s 128 1 0x60000 64 accLoad page ∧ x.slotVa (s.placeNat none 0x60000 64) 0 = 0x61000) ∧
      s.hostFrozen = false ∧ s.placeNat none 0x61000 64 % 256 = 7 ∧ bits (s.placeNat none 0x61000 64) 63 48 = 0 ∧ 8 ≤ bad.placeNat none 0x61000 64 % 256 ∧
      bits (bad.placeNat none 0x61000 64) 511 448 = 0 ∧ ReachesAt s 128 1 0x61000 8 accStore page ∧
      e.placeNat none 0x61000 64 % 256 = 0 ∧
      firstFailed (smallChecks (leNat (packet 7 []).bytes) 7) = none ∧ (packet 7 []).status = 0 ∧ firstFailed (smallChecks (leNat (packet 6 []).bytes) 6) = none ∧
      (queue none [3]).open' ≠ [] ∧ ReachesAt s 128 1 0 8 accAtomic page ∧ s.queueCopies < 256 ∧
      firstFailed (launchChecks (leNat (packet 1 []).bytes)) = none ∧ lpGroups (leNat (packet 1 []).bytes) = 0 ∧
      firstFailed (launchChecks (leNat (packet 1 [0, 0, 0, 0, 1]).bytes)) = some (0x11, 5) ∧ lpStatus (leNat (packet 1 [0, 0, 0, 0, 1]).bytes) = 0 :=
  ⟨⟨_, rfl, rfl, rfl, ⟨rfl, rfl, rfl, rfl, fun _ => rfl⟩, rfl⟩, rfl, rfl, rfl, by decide, rfl, ⟨rfl, rfl, rfl, rfl, fun _ => rfl⟩, rfl, rfl, rfl, rfl, by decide, ⟨rfl, rfl, rfl, rfl, fun _ => rfl⟩,
    by decide, rfl, rfl, rfl, rfl⟩

set_option maxRecDepth 200000 in
set_option exponentiation.threshold 1100 in
theorem witness_PacketsTaken_keeps :
    KeepsReaching (queueSt (ring ++ [(0x61000, 7)]) (queue none [])) none 0x61000 8 128 1 0x60008 8 accStore page := by
  intro m h
  refine reaches_tables (queueSt (ring ++ [(0x61000, 7)]) (queue none [])) m 0x60008 8 accStore ctx rfl rfl rfl rfl rfl (by decide) (by decide) fun x hx => ?_
  rw [h x (by omega)]
  simp only [queueSt, stMem, ring, mget, List.cons_append, List.nil_append]
  rw [if_neg (by omega), if_neg (by omega), if_neg (by omega), if_neg (by omega)]

set_option maxRecDepth 200000 in
set_option exponentiation.threshold 1100 in
theorem witness_TractsPlaced :
    let w := { sowing with toks := [{ va := 0x30000, thr := 5, ok := false, upd := none, acq := none }] }
    let s := { State.reset with ctxs := [(1, ctx)], sowings := [(0, sowing)] }
    tget { st .vector th with sowings := [(0, w)] }.sowings 0 = some w ∧ w.toksOk = false ∧ w.held = false ∧ (0x30000 : Nat) % 8 = 0 ∧ ReachesAt (st .vector th) 128 1 0x30000 8 accLoad page ∧
      s.choice = .place ⟨0, none⟩ [0] ∧ ([0] : List Nat).length = sowing.plots ∧ s.plots.length + 8 < 2 ^ 20 ∧ sowing.plots ≤ 8 ∧ s.coreEmpty 0 = true :=
  ⟨rfl, rfl, rfl, rfl, ⟨rfl, rfl, rfl, rfl, fun _ => rfl⟩, rfl, rfl, by decide, by decide, rfl⟩

/-- A state in which a second sowing of a higher priority waits, and does not fit while the tract of the first stays. -/
def crowded (t : Thread) (x : Tract) (prio : Nat) (kb : Nat) : State :=
  { st .vector t with tracts := [(0, x)], sowings := [(0, { sowing with next := 1 }), (1, { sowing with q := 1, prio := prio, spadKB := kb })], time := 10 ^ 12 }

set_option maxRecDepth 200000 in
set_option exponentiation.threshold 1100 in
theorem witness_TractsRetire :
    let z := { th with place := .headland (.sleep .barp) }
    let x := { th with place := .exited }
    let s := crowded z placedTract 7 7169
    let p := placedPlot .vector x
    let e := { st .vector x with sowings := [(0, { sowing with next := 1 })] }
    let w := { sowing with next := 1, retired := 1 }
    s.quantumReady placedTract = true ∧ s.allAsleep 0 = true ∧ placedTract.resident = true ∧ 0 + 10000000 ≤ s.time ∧ s.pressed (s.prioOf placedTract) = true ∧
      (e.plots.map Prod.fst).Nodup ∧ tget e.plots 0 = some p ∧ e.retireReady 0 p = true ∧ (∀ y ∈ e.plots, y.1 ≠ 0 → y.2.tract = p.tract → y.2.retired = true) ∧
      (∃ y ∈ { e with plots := [(0, p), (1, p)] }.plots, y.1 ≠ 0 ∧ y.2.tract = p.tract ∧ y.2.retired = false) ∧
      tget e.tracts 0 = some placedTract ∧ w.ends = true ∧ w.doneVa = 0 ∧ w.statusVa = 0 ∧ { w with doneVa := 0x30000 }.doneVa ≠ 0 ∧
      ReachesAt (st .vector th) 128 1 0x30000 8 accAtomic page ∧ ReachesAt (st .vector th) 128 1 0x30000 8 accStore page :=
  ⟨rfl, rfl, rfl, by decide, rfl, by simp [st], rfl, rfl, by simp [st], ⟨(1, placedPlot .vector { th with place := .exited }), .tail _ (.head _), by decide, rfl, rfl⟩, rfl, rfl, rfl, rfl, by decide,
    ⟨rfl, rfl, rfl, rfl, fun _ => rfl⟩, ⟨rfl, rfl, rfl, rfl, fun _ => rfl⟩⟩

set_option maxRecDepth 200000 in
set_option exponentiation.threshold 1100 in
theorem witness_TractsSwap :
    let s := fun l => { crowded th { placedTract with leaving := l } 0 7168 with sowings := [(0, { sowing with next := 1, tracts := 1 })] }
    let v := { crowded th placedTract 7 7168 with
      sowings := [(0, { sowing with next := 1 }), (1, { sowing with q := 1, prio := 7, spadKB := 7168, plots := 8 })]
      plots := (List.range 16).map fun i => (i, { placedPlot .vector th with core := 8 * i })
      tracts := [(0, { placedTract with cores := (List.range 16).map fun i => 8 * i })] }
    let filedTh := { th with place := .headland .rendezvous }
    let away := { s false with plots := [(0, placedPlot .vector { th with place := .filed })], cores := [], tracts := [(0, { placedTract with resident := false, cores := [] })] }
    let b := { s false with tracts := [(0, { placedTract with budget := some 0 })], plots := [(0, placedPlot .vector { filedTh with pflt := true })] }
    v.choice = .swap 0 ⟨1, none⟩ ∧ (v.poolRoom 1 0 (fixedImage 1 1 64 4 0)).isSome = true ∧
      { placedTract with leaving := true }.leaving = true ∧ b.budgetOver 0 { placedTract with budget := some 0 } = true ∧
      away.choice = .place ⟨0, some 0⟩ [0] ∧ (away.plots.map Prod.fst).Nodup ∧ tget away.sowings 0 = some { sowing with next := 1, tracts := 1 } ∧
      ((away.restoreImage 0 { placedTract with image := 2 ^ 52, imageLen := 64 } sowing).plotsOf 0) = [(0, placedPlot .vector { th with place := .filed })] ∧
      away.imageThere 0 = true ∧ ({ th with place := .filed } : Thread).stopsWhenFiled = false :=
  ⟨by decide +kernel, by decide +kernel, rfl, by decide +kernel, by decide +kernel, by decide, rfl, by decide +kernel, by decide +kernel, rfl⟩

set_option maxRecDepth 200000 in
set_option exponentiation.threshold 1100 in
theorem witness_TractsSwap_leaves :
    let s := fun q => { crowded { th with place := .headland .parked } { placedTract with leaving := true } 0 7168 with sowings := [(0, { sowing with next := 1 })], reqs := q }
    (s [(1, req)]).leaveReady 0 { placedTract with leaving := true } = false ∧ (s []).leaveReady 0 { placedTract with leaving := true } = true := by
  refine ⟨?_, ?_⟩ <;> decide +kernel

/-! ## The same for faults, debugging, the fabric, the host and the steward -/

/-- Elaboration waits here for the kernel's check of all that stands before (one bound in a definition), so that few proofs wait at once. -/
def checked1 : Fin 2 := ⟨1, by decide +kernel⟩

def faultQ : Mem := [(0x50011, 0x10), (0x50012, 5), (0x50018, 4)]

/-- A record of the test thread. -/
def record : FaultRec := { mask := 0, addr := 0x40000000, pc := 0x10000, tid := 0, plot := 0, tract := 0, core := 0, acc := 0, src := 0, code := 1, ref := some r }

set_option maxRecDepth 200000 in
set_option exponentiation.threshold 1100 in
theorem witness_FaultsServiced :
    let t := { th with place := .headland .parked, pflt := true }
    let c := { ctx with heldRecs := [record] }
    let d := { ctx with recs := [(0, record)] }
    let s := fun x m => { stMem .vector t m with ctxs := [(1, x)] }
    let z := s c faultQ
    z.memoriesOk ∧ z.areaOf page 0x50000 = none ∧ z.offsetOf page 0x50000 + 8 ≤ z.offsetOf page 0x51000 ∧ { d with svcHeld := true }.svcHeld = true ∧ tget d.recs 0 = some record ∧
      record.parks = true ∧ (s d faultQ).thread? r = some t ∧ t.live = true ∧ d.lazyPage record.addr.toNat = none ∧
      { d with lazy := [{ va := 0x40000000, frame := 0x90000, attr := 0 }] }.lazyPage record.addr.toNat = some { va := 0x40000000, frame := 0x90000, attr := 0 } ∧
      t.stopsWhenFiled = false ∧ { record with src := 5, code := 0x21 }.parks = true ∧ { record with src := 4, code := 0x10 }.parks = true ∧
      (s { d with lazy := [{ va := 0x40000000, frame := 0x90000, attr := 0 }] } faultQ).lazyHeld 1 record = false :=
  ⟨⟨rfl, by simp [stMem, st, placedPlot, Memory.wf], by simp [stMem, st, Core.reset, Memory.wf]⟩, rfl, by decide, rfl, rfl, rfl, rfl, rfl,
    rfl, rfl, rfl, rfl, rfl, by decide +kernel⟩

def slotSt : State := { stMem .vector th faultQ with ctxs := [(1, { ctx with heldRecs := [record] })] }

theorem witness_FaultsServiced_slot :
    slotSt.recSlot 1 = ((slotSt.recSlot 1).1, .ok (some (0, 0x51000))) ∧ ReachesAt (slotSt.recSlot 1).1 128 1 0x51000 32 accEngWrite page := by
  refine ⟨ok_of (by decide +kernel), reaches_tables (slotSt.recSlot 1).1 (slotSt.recSlot 1).1.mem 0x51000 32 accEngWrite _
    rfl rfl (by decide +kernel) (by decide +kernel) (by decide +kernel) (by decide) (by decide) fun x hx => ?_⟩
  rw [show (slotSt.recSlot 1).1.mem = faultQ ++ tables by decide +kernel]
  simp only [faultQ, mget, List.cons_append, List.nil_append]
  rw [if_neg (by omega), if_neg (by omega), if_neg (by omega)]

theorem pair_of {x : State × Option Nat} {v : Option Nat} (h : x.2 = v) : ∃ a, x = (a, v) := ⟨x.1, Prod.ext rfl h⟩

set_option maxRecDepth 200000 in
set_option exponentiation.threshold 1100 in
theorem witness_FaultsServiced_next :
    let d := { ctx with recs := [(0, record)] }
    ∃ s1, ({ stMem .vector th (faultQ ++ [(0x50000, 1)]) with ctxs := [(1, d)] } : State).nextRec d 1 = (s1, some 0) := pair_of (by decide +kernel)

set_option maxRecDepth 200000 in
set_option exponentiation.threshold 1100 in
theorem witness_FaultsServiced_keeps : KeepsReaching { stMem .vector th faultQ with ctxs := [(1, { ctx with heldRecs := [record] })] } none 0x51000 32 128 1 0x50000 8 accEngWrite page := by
  intro m h
  refine reaches_tables { stMem .vector th faultQ with ctxs := [(1, { ctx with heldRecs := [record] })] } m 0x50000 8 accEngWrite _ rfl rfl rfl rfl rfl (by decide) (by decide) fun x hx => ?_
  rw [h x (by omega)]
  simp only [stMem, faultQ, mget, List.cons_append, List.nil_append]
  rw [if_neg (by omega), if_neg (by omega), if_neg (by omega)]

set_option maxRecDepth 200000 in
set_option exponentiation.threshold 1100 in
theorem witness_DebugService :
    let t := { th with place := .headland .stopped }
    let s := fun x => { st .vector t with tracts := [(0, x)] }
    tget (s placedTract).ctxs 1 = some ctx ∧ (15 : Nat) < 16 ∧ (s placedTract).thread? ⟨0, 0⟩ = some t ∧ t.live = true ∧ t.stepping = false ∧ t.stopReq = false ∧
      { s placedTract with tracts := [] }.tractOf ⟨0, 0⟩ = none ∧ (s placedTract).tractOf ⟨0, 0⟩ = some (0, placedTract) ∧ placedTract.frozen = false ∧
      placedTract.still = false ∧ (s { placedTract with still := true }).tractOf ⟨0, 0⟩ = some (0, { placedTract with still := true }) ∧
      (s { placedTract with frozen := true }).tractOf ⟨0, 0⟩ = some (0, { placedTract with frozen := true }) ∧
      tfree ((s placedTract).core ((s placedTract).coreOf ⟨0, 0⟩)).drills 0 256 = some 1 ∧ (s placedTract).stepReady ⟨0, 0⟩ t = true ∧
      (∀ p, tget (s placedTract).plots 0 = some p → p.index < 8) ∧
      (∀ y ∈ (s { placedTract with still := true }).plots, y.2.tract = 0 → ∀ z ∈ y.2.threads, z.2.stepping = false) ∧ (bits (4 * 2 ^ 96 + 60 * 2 ^ 1184) 111 96 % 4 = 0 ∧ bits (4 * 2 ^ 96 + 60 * 2 ^ 1184) 111 96 + 4 ≤ t.ra ∧
        bits (4 * 2 ^ 96 + 60 * 2 ^ 1184) 1199 1184 % 4 = 0 ∧ bits (4 * 2 ^ 96 + 60 * 2 ^ 1184) 1199 1184 + 4 ≤ t.ra) ∧ ¬(bits (61 * 2 ^ 96) 111 96 + 4 ≤ t.ra) :=
  ⟨rfl, by decide, rfl, rfl, rfl, rfl, rfl, rfl, rfl, rfl, rfl, rfl, rfl, rfl, (fun p e => by injection e with e; subst e; decide),
    (fun y h _ z hz => by cases List.mem_singleton.1 h; cases List.mem_singleton.1 hz; rfl), by decide +kernel, by decide +kernel⟩

/-- Elaboration waits here for the kernel's check of all that stands before (one bound in a definition), so that few proofs wait at once. -/
def checked2 : Fin 2 := ⟨1, by decide +kernel⟩

set_option maxRecDepth 200000 in
set_option exponentiation.threshold 1100 in
theorem witness_PortsAndKeys :
    let s := { State.reset with locked := { Locked.reset with portEn := 1 } }
    let x := { Port.reset with up := true, rx0 := some 3, rot := .delivered }
    let u := { State.reset with fabric := { Fabric.reset with ports := [(0, x)], remap := [5] } }
    s.locked.portEn.getLsbD 0 = true ∧ s.locked.portEn.getLsbD 1 = false ∧ (4 : Nat) ≤ 4 ∧ (3 : Nat) < 4 ∧ tget u.fabric.ports 0 = some x ∧ (u.port 0).up = true ∧
      u.fabric.remap.contains 5 = true ∧ u.sentO 5 = false ∧ (s.port 0).rx0 = none ∧ (u.port 0).rx0 ≠ none ∧ (u.port 0).rx1 = none ∧ (u.port 0).rot = .delivered ∧
      { x with rot := .switched }.rot = .switched ∧
      { u with reqs := [(0, { req with stage := .remote 5 (.port 0 none) })] }.sentO 5 = true ∧ s.fabric.waiting = [] ∧ s.reqs = [] ∧ s.lands = [] ∧ u.reqs = [] ∧
      (s.port 0).tx0 = none ∧ (s.port 0).tx1 = none := by
  refine ⟨rfl, rfl, by decide, by decide, rfl, rfl, rfl, rfl, rfl, by decide, rfl, rfl, rfl, rfl, rfl, rfl, rfl, rfl, rfl, rfl⟩

set_option maxRecDepth 200000 in
set_option exponentiation.threshold 1100 in
theorem witness_PeersAndHost :
    let f := { Fabric.reset with ports := [(0, { Port.reset with up := true })], reach := [(0, [5])] }
    let c := { ctx with peerWin := [(0, { base := 0x30000, len := 8 })] }
    let s := { st .vector th with ctxs := [(1, c)], fabric := f, apertures := [(0, { base := 0x30000, len := 8 })] }
    let q : FabReq := { port := 0, src := 4, ctxid := 1, tag := 0, dst := 0, scope := .sys, rel := false, kind := .read 0x30000 8 }
    let u := { st .vector th with time := 10 ^ 12, reqs := [(0, { req with stage := .remote 5 .held })] }
    s.memoriesOk ∧ s.fabric.frozen.contains q.src = false ∧ { f with frozen := [4] }.frozen.contains q.src = true ∧ s.seenBefore q = false ∧
      { s with fabric := { f with seenTags := [{ src := 4, tag := 0, at' := 0 }] } }.seenBefore q = true ∧ q.dst = s.device ∧ tget s.ctxs 2 = none ∧
      s.relayFull 0 = false ∧ s.locked.relay = false ∧ { s.locked with relay := true }.relay = true ∧ tget s.ctxs q.ctxid = some c ∧
      c.inPeerWin 0x30000 8 = true ∧ c.inPeerWin 0x30008 1 = false ∧ s.poisoned 0x30000 8 = false ∧
      s.eligiblePorts 5 ≠ [] ∧ s.eligiblePorts 4 = [] ∧ u.emptyLong 5 = true ∧ { req with stage := .remote 5 .held }.dst? = some 5 ∧
      u.thread? req.ref = some th ∧ th.live = true ∧ req.op.countsSt = false ∧ s.mbox.state ≠ 2 ∧ { s.mbox with state := 2 }.state = 2 ∧
      s.inAperture 0x30000 8 = true ∧ s.inAperture 0x30001 8 = false ∧ u.fabric.waiting = [] ∧ { s with poison := [1536] }.poisoned 0x30000 128 = true ∧
      wholeLine 0x30000 128 = true ∧ ({ dies := 0, remotes := [5], broadcast := false, dirty := some 5 } : DirEntry).dirty = some 5 :=
  ⟨⟨rfl, by simp [st, placedPlot, Memory.wf], by simp [st, Core.reset, Memory.wf]⟩, rfl, rfl, rfl, by decide +kernel, rfl, rfl, rfl, rfl, rfl, rfl, rfl, rfl, rfl,
    by decide, rfl, by decide +kernel, rfl, rfl, rfl, rfl, by decide, rfl, rfl, rfl, rfl, rfl, rfl, rfl⟩

/-- A message: its OP and its arguments. -/
def msg (op : Nat) (args : List Nat) : Msg := BitVec.ofNat 512 (1 + op * 2 ^ 32 + leNat (args.flatMap (natLe 8)) * 2 ^ 64)

set_option maxRecDepth 200000 in
set_option exponentiation.threshold 1100 in
theorem witness_MailboxRings :
    let s := fun m => { State.reset with mbox := { Mbox.reset with state := 1, h2ddb := 1, h2d := Mbox.reset.h2d.set 1 m } }
    (15 : Nat) < 16 ∧ (15 : Nat) < Mbox.reset.h2d.length ∧ State.reset.acceptReady = false ∧ (s (msg 1 [])).acceptReady = true ∧
      msgOp ((s (msg 1 [])).mbox.h2d.getD 1 0) ∈ knownOps ∧ msgOp (msg 0x7777 []) ∉ knownOps ∧ State.reset.postRoom = true ∧ Mbox.reset.d2h.length = 16 ∧
      { State.reset with mbox := { Mbox.reset with d2hseq := 16 } }.postRoom = false := by
  refine ⟨by decide, by decide, rfl, ?_, ?_, ?_, rfl, rfl, rfl⟩ <;> decide +kernel

/-- A state whose steward executes a message. -/
def stewardSt (m : Msg) (mem : Mem) : State :=
  { stMem .vector th mem with ctxs := [(1, ctx)], steward := { Steward.reset with current := some m } }

set_option maxRecDepth 200000 in
set_option exponentiation.threshold 1100 in
theorem witness_StewardOperations_1 :
    Executing (stewardSt (msg 1 []) []) (msg 1 []) 1 ∧ Executing (stewardSt (msg 2 [0, 0, 0, 0, 0x30000]) []) (msg 2 [0, 0, 0, 0, 0x30000]) 2 ∧
      msgArg (msg 2 [0, 0, 0, 0, 0x30000]) 4 + 3613 ≤ 2 ^ 39 ∧ Executing (stewardSt (msg 3 [0x30000, 8]) []) (msg 3 [0x30000, 8]) 3 ∧
      msgArg (msg 3 [0x30000, 8]) 0 + msgArg (msg 3 [0x30000, 8]) 1 ≤ 2 ^ 39 ∧ Executing (stewardSt (msg 0x30 [0x30000, 8]) []) (msg 0x30 [0x30000, 8]) 0x30 :=
  ⟨⟨rfl, by decide +kernel⟩, ⟨rfl, by decide +kernel⟩, by decide +kernel, ⟨rfl, by decide +kernel⟩, by decide +kernel, ⟨rfl, by decide +kernel⟩⟩

/-- Elaboration waits here for the kernel's check of all that stands before (one bound in a definition), so that few proofs wait at once. -/
def checked3 : Fin 2 := ⟨1, by decide +kernel⟩

set_option maxRecDepth 200000 in
set_option exponentiation.threshold 1100 in
theorem witness_StewardOperations_10 :
    let m := msg 0x10 [0x80000]
    let s := stewardSt m ([(0x50011, 0x10), (0x50012, 5), (0x50018, 4)] ++ [(0x80002, 0x10), (0x80012, 2), (0x80032, 5)])
    let v := s.placeNat none 0x80000 128
    let s1 := (s.physRead 3 0x80000 128).1
    Executing s m 0x10 ∧ msgArg m 0 = 0x80000 ∧ badDescriptor v = false ∧ badDescriptor 1 = true ∧ tget s.ctxs (ctxOf v).ctxid = none ∧
      ∃ s2 h, (s1.putCtx (ctxOf v)).pread 128 (ctxOf v).ctxid (ctxOf v).frqh.toNat 64 accEngRead = (s2, .ok h) ∧ (ctxOf v).headerOk (leNat h) = true :=
  ⟨⟨rfl, by decide +kernel⟩, by decide +kernel, by decide +kernel, by decide +kernel, by decide +kernel, ⟨_, _, rfl, by decide +kernel⟩⟩

set_option maxRecDepth 200000 in
set_option exponentiation.threshold 1100 in
theorem witness_StewardOperations_11 :
    let q := { stewardSt (msg 0x13 [1, 0x60000]) [] with queues := [(3, queue none [])] }
    tget (stewardSt 0 []).ctxs (msgArg (msg 0x11 [1]) 0) = some ctx ∧ (stewardSt 0 []).ctxBusy 1 = false ∧ { stewardSt 0 [] with sowings := [(0, sowing)] }.ctxBusy 1 = true ∧
      msgArg (msg 0x12 [1, 0x60000]) 1 % 64 = 0 ∧ ReachesAt (stewardSt 0 ring) 128 1 0x60000 64 accEngRead page ∧
      badQueueHeader ((stewardSt 0 ring).placeNat none 0x60000 64) = false ∧ badQueueHeader 0 = true ∧ (stewardSt 0 []).queueAt 1 0x60000 = none ∧ q.queueAt 1 0x60000 = some 3 :=
  ⟨by decide +kernel, rfl, rfl, by decide +kernel, ⟨rfl, rfl, rfl, rfl, fun _ => rfl⟩, by decide +kernel, by decide +kernel, rfl, rfl⟩

set_option maxRecDepth 200000 in
set_option exponentiation.threshold 1100 in
theorem witness_StewardOperations_14 :
    let s := stMem .vector th deepTables
    ∃ x, s.leafAddr 0x40000000 3 ctx.root = some x ∧ devOf x = s.device ∧ localOf x + 8 ≤ 2 ^ 39 ∧ ptePins (s.pteAt x) = false ∧
      (pteV (s.pteAt x) && pteC (s.pteAt x)) = false ∧ pteV 0x29 = true ∧ pteBad 0x29 0 = false ∧ pteLeaf 0x29 = true ∧ pteC 0x29 = false ∧ ptePins 0x29 = true ∧
      pteBad 9 0 = false ∧ ptePins 9 = false ∧ pinGap (s.core (pteOwn 0x29)).pinPages 4096 = some 0 ∧ devOf (pteAddr 0x29) = s.device ∧
      pinGap [(0, { frame := 0, size := 2 ^ 20 })] 4096 = none ∧ localOf (pteAddr 0x29) + 4096 ≤ 2 ^ 39 :=
    ⟨0x202000, rfl, rfl, by decide, rfl, rfl, rfl, rfl, rfl, rfl, rfl, rfl, rfl, by decide +kernel, rfl, by decide +kernel, by decide⟩

set_option maxRecDepth 200000 in
set_option exponentiation.threshold 1100 in
theorem witness_StewardOperations_15 :
    tget (stewardSt 0 []).ctxs (msgArg (msg 0x15 [1, 0x40000000, 0x90000, 0]) 0) = some ctx ∧ msgArg (msg 0x16 [0x200000, 0x200000]) 0 % 2 ^ 21 = 0 ∧
      msgArg (msg 0x16 [0x200000, 0x200000]) 1 % 2 ^ 21 = 0 ∧ msgArg (msg 0x16 [0x200000, 0x200000]) 0 + msgArg (msg 0x16 [0x200000, 0x200000]) 1 ≤ 2 ^ 39 ∧ (stewardSt 0 []).discard = none ∧ { stewardSt 0 [] with discard := some { first := 0, lines := 4096, draw := 0 } }.discard = some { first := 0, lines := 4096, draw := 0 } ∧ msgArg (msg 0x16 [1]) 0 % 2 ^ 21 ≠ 0 ∧ msgArg (msg 0x18 [3]) 0 = 3 ∧
      tget (queueSt [] (queue none [])).queues 1 = some (queue none []) ∧ (∀ x ∈ Fabric.reset.held, x.src ≠ 4) ∧ tget (stewardSt 0 []).plots 0 = some (placedPlot .vector th) ∧
      msgArg (msg 0x19 [15, 0, 1]) 0 < 16 ∧ msgArg (msg 0x20 [1, 63]) 1 < 64 ∧ msgArg (msg 0x21 [23]) 0 < 24 ∧ (State.reset.port 23).rot = .idle ∧
      { Port.reset with rot := .switched }.rot ≠ .idle ∧ (State.reset.port 0).rx0 = none ∧ { Port.reset with rx0 := some 0, rx1 := some 0 }.rx0.isSome = true ∧
      State.reset.keySlots.contains .retiring = false ∧ State.reset.keySlots.findIdx? (fun x => x == .empty) = some 1 ∧
      (State.reset.keySlots.set 0 .retiring).contains .retiring = true ∧ 1 < State.reset.keyPairs.length := by
  refine ⟨?_, ?_, ?_, ?_, rfl, rfl, ?_, ?_, rfl, (by simp [Fabric.reset]), rfl, ?_, ?_, ?_, rfl, ?_, rfl, rfl, rfl, rfl, rfl, ?_⟩ <;> decide +kernel

set_option maxRecDepth 200000 in
set_option exponentiation.threshold 1100 in
theorem witness_BootAndErrors :
    let p : SelfTest := { pass := true, result := 0, unitk := 0, unit := 0, detail := 0 }
    (Instr.powerOn p = .powerOn p ∧ (0 : Word) = 0) ∧ { p with pass := false }.pass = false ∧ State.reset.locked.pcap < 1 ∧ 100 < State.reset.steward.clockMHz ∧
      State.reset.keySlots.contains .retiring = false ∧ State.reset.sown.contains (rowOf 0) = false ∧
      { State.reset with sown := [rowOf 0] }.sown.contains (rowOf 0) = true ∧ 0 ∉ State.reset.poison ∧ 0 ∈ [0] ∧ (State.reset.keySlots.set 0 .retiring).getD 0 .empty = .retiring ∧
      tget (st .vector th).plots 0 = some (placedPlot .vector th) ∧ tget (st .vector th).tracts (placedPlot .vector th).tract = some placedTract := by
  refine ⟨⟨rfl, rfl⟩, rfl, ?_, ?_, rfl, rfl, rfl, ?_, ?_, rfl, rfl, rfl⟩ <;> decide

/-! ## Values that spec/ prints -/

/-- 02 Table 2.2: the selector from 0xC030_0002 on, and the furrow chosen of 0, 5 and 9. -/
theorem test_selector_replay :
    let el := [(0, 0), (5, 0), (9, 0)]
    let a := lfsrStep 0xC0300002
    let b := lfsrStep a
    let c := lfsrStep b
    [a, b, c] = [0x60180001, 0xB02C0003, 0xD8360002] ∧ [a, b, c].map (fun l => chooseFurrow l 64 el false) = [some 5, some 9, some 9] := by decide

/-- 23 R406: the worked indexes of class O. -/
theorem test_class_o_index : oIndex 5 24 = 5 ∧ oIndex 40 24 = 18 ∧ oIndex 40 23 = 19 ∧ oIndex 5 23 = 5 := by decide

/-- 06: a band scale, a block scale and the elements of a block (Table 6.3); the block of the band maximum. -/
theorem test_bq4_band :
    let x := fun (neg : Bool) (n : Nat) => XReal.fin neg n 100
    let q := quantBand [[x false 300, x true 125, x false 20, x false 0, x false 240, x true 70, x false 110, x false 5], [x false 1890]]
    q.bands = [0x3DCD] ∧ q.blocks = [[0xA8], [0xFF]] ∧ q.rows = [[7, 0xC, 1, 0, 6, 0xB, 4, 0], [7]] ∧ q.flags = flagNX := by decide +kernel

/-- 06 Table 6.2: a product beyond the window of anchor 10 sets OOWP, which converts to plus infinity. -/
theorem test_anchor_too_small :
    let q := axaAdmit axaZero (.fin false 270 1) 10
    q.getLsbD 126 = true ∧ (axaConvert q 10 fmtF32 0).1 = 0x7F800000 := by decide +kernel

/-- 06 Table 6.4: the two halves of the sum, and their combination, 4. -/
theorem test_anchored_halves :
    let n := fun (neg : Bool) (k : Nat) => XReal.fin neg k 1
    let a := [n false (2 ^ 24), n false 1, n false 1].foldl (fun q p => axaAdmit q p 30) axaZero
    let b := [n false 1, n true (2 ^ 24), n false 1].foldl (fun q p => axaAdmit q p 30) axaZero
    a = 0x00000000040000080000000000000000#128 ∧ b = 0x0FFFFFFFFC0000080000000000000000#128 ∧
      axaCombine a b = 0x00000000000000100000000000000000#128 ∧ axaConvert (axaCombine a b) 30 fmtF32 0 = (0x40800000, 0) := by decide +kernel

/-! ## One step each -/

/-- Register x of the test thread after an instruction. -/
def after (i : Instr) (s : State) (f : Thread → Word) : Option Word :=
  match exec i s with
  | .next t => (t.thread? r).map f
  | _ => none

def regAfter (i : Instr) (x : Nat) : Option Word := after i (st .vector th) fun t => t.regs.getD x 0

/-- R124: a difference modulo 2^32: 5 - 0x40; R129: a pair is added as one 64-bit value; R67: the immediate is sign-extended: 5 - 7. -/
theorem test_integer_results :
    regAfter (.isub (.w 8) (.w 6) (.w 4) 0) 8 = some 0xFFFFFFC5 ∧ regAfter (.iadd64 (.w 8) (.w 2) (.w 2) 0) 8 = some 0x60002 ∧
      regAfter (.addi (.w 6) (-7)) 6 = some 0xFFFFFFFE := by decide +kernel

/-- R379: TRAP saves the PC it stands at; R159: a branch that is taken goes to PC + 4 times its offset; R257: WAIT with nothing outstanding goes on. -/
theorem test_control_results :
    after (.trap 5) (st .vector th) (fun t => t.epc.setWidth 32) = some 0x10000 ∧ after (.bra 0 false 3) (st .vector th) (fun t => t.pc.setWidth 32) = some 0x1000C ∧
      after (.wait 0 0 0 0) (st .vector th) (fun t => t.pc.setWidth 32) = some 0x10004 := by decide +kernel

/-- R256, R264: a scratchpad load is outstanding when it has issued; a store in the scratchpad writes its bytes at its bank, the low one first. -/
theorem test_scratchpad_results :
    after (.lds (.w 8) (.w 4) 1 .s8) (st .vector th) (fun t => BitVec.ofNat 32 t.ld) = some 1 ∧
      (match exec (.storeAck ⟨1, .done⟩) (turnSt { reqAt (.bank 0 0x40) .store 4 with data := 0x30000 }) with
        | .next t => (t.spadByte 0 0x40, t.spadByte 0 0x42) | _ => (0, 0)) = (0, 3) := by decide +kernel

/-- Table 8.4: the cycles of its six instructions beyond the first. -/
theorem test_bank_cycles :
    ([.ffma .f32 (.w 4) (.w 8) (.w 12) 0, .ffma .f32 (.w 4) (.w 9) (.w 14) 0, .iadd64 (.w 4) (.w 8) (.w 12) 0, .iadd64 (.w 4) (.w 8) (.w 10) 0,
      .xacc (.w 4) (.w 8) (.w 9) 0, .xacc (.w 4) (.k 0) (.k 1) 0] : List Instr).map (fun i => th.bankDelay i) = [2, 0, 1, 0, 1, 0] := by decide
end Sys2Proof.Tests
end

section
/-! SUPPORT. What is left alone: threads, memory and scratchpads through the operations that move a thread, change a core or form a drill. -/

namespace Sys2Proof.Machine

/-! ## Reading the state after an update -/

theorem State.thread?_of_plots {s t : State} (h : t.plots = s.plots) (r : Ref) : t.thread? r = s.thread? r := by
  rw [State.thread?, State.thread?, h]

theorem State.spadByte_of_plots {s t : State} (h : t.plots = s.plots) (n x : Nat) : t.spadByte n x = s.spadByte n x := by
  rw [State.spadByte, State.spadByte, h]

theorem State.core_of_cores {s t : State} (h : t.cores = s.cores) (c : Nat) : t.core c = s.core c := by
  rw [State.core, State.core, h]

theorem State.ctxIdOf_of_plots {s t : State} (h : t.plots = s.plots) (r : Ref) : t.ctxIdOf r = s.ctxIdOf r := by
  rw [State.ctxIdOf, State.ctxIdOf, h]

theorem State.coreOf_of_plot {s : State} {r : Ref} {p : Plot} (h : tget s.plots r.tag = some p) : s.coreOf r = p.core := by
  simp [State.coreOf, h]

theorem State.ctxIdOf_of_plot {s : State} {r : Ref} {p : Plot} (h : tget s.plots r.tag = some p) : s.ctxIdOf r = p.ctx := by
  simp [State.ctxIdOf, h]

theorem State.thread?_of_plot {s : State} {r : Ref} {p : Plot} (h : tget s.plots r.tag = some p) : s.thread? r = tget p.threads r.tid := by
  simp [State.thread?, h]

/-- A core after its record, or another's, has been changed. -/
theorem State.core_modCore (s : State) (c x : Nat) (f : Core → Core) : (s.modCore c f).core x = if x = c then f (s.core c) else s.core x := by
  rw [State.modCore, State.setCore, State.core]
  split
  · subst_vars; simp
  · rw [tget_tput_ne _ _ ‹_›]; rfl

/-- A thread after it, or another, has been changed. -/
theorem State.thread?_modThread (s : State) (r q : Ref) (f : Thread → Thread) :
    (s.modThread r f).thread? q = if q = r then (s.thread? r).map f else s.thread? q := by
  rw [State.thread?, State.modThread_plots, tget_tmod]
  by_cases hq : q.tag = r.tag
  · rw [if_pos hq, State.thread?, State.thread?, hq]
    cases tget s.plots r.tag with
    | none => simp
    | some p =>
      simp only [Option.map_some, Plot.modThread_threads, tget_tmod]
      have hr : q = r ↔ q.tid = r.tid := by
        obtain ⟨a, b⟩ := q; obtain ⟨c, d⟩ := r; simp at hq ⊢; simp [hq]
      simp only [hr]
      split
      · rename_i h; rw [h]
      · rfl
  · rw [if_neg hq, if_neg fun h => hq (by rw [h]), State.thread?]

theorem State.thread?_modThread_same {s : State} {r : Ref} {t : Thread} (f : Thread → Thread) (h : s.thread? r = some t) :
    (s.modThread r f).thread? r = some (f t) := by
  rw [State.thread?_modThread, if_pos rfl, h]; rfl

theorem State.thread?_modThread_ne {s : State} {r q : Ref} (f : Thread → Thread) (h : q ≠ r) : (s.modThread r f).thread? q = s.thread? q := by
  rw [State.thread?_modThread, if_neg h]

/-- What does not name the threads of a plot reads the same after a thread has been changed. -/
theorem State.plot_modThread {α : Type} (s : State) (r : Ref) (f : Thread → Thread) (g : Plot → α) (hg : ∀ p x, g { p with threads := x } = g p) (n : Nat) :
    (tget (s.modThread r f).plots n).map g = (tget s.plots n).map g := by
  rw [State.modThread_plots, tget_tmod]
  split
  · cases tget s.plots n <;> simp [Plot.modThread, hg]
  · rfl

theorem State.spadByte_eq (s : State) (n x : Nat) : s.spadByte n x = ((tget s.plots n).map fun p => mget p.spad x).getD 0 := by
  rw [State.spadByte]; cases tget s.plots n <;> rfl

theorem State.ctxIdOf_eq (s : State) (r : Ref) : s.ctxIdOf r = ((tget s.plots r.tag).map Plot.ctx).getD 0 := by
  rw [State.ctxIdOf]; cases tget s.plots r.tag <;> rfl

theorem State.coreOf_eq (s : State) (r : Ref) : s.coreOf r = ((tget s.plots r.tag).map Plot.core).getD 0 := by
  rw [State.coreOf]; cases tget s.plots r.tag <;> rfl

@[simp] theorem State.spadByte_modThread (s : State) (r : Ref) (f : Thread → Thread) (n x : Nat) : (s.modThread r f).spadByte n x = s.spadByte n x := by
  rw [State.spadByte_eq, State.plot_modThread s r f _ (fun _ _ => rfl), State.spadByte_eq]

@[simp] theorem State.ctxIdOf_modThread (s : State) (r q : Ref) (f : Thread → Thread) : (s.modThread r f).ctxIdOf q = s.ctxIdOf q := by
  rw [State.ctxIdOf_eq, State.plot_modThread s r f _ (fun _ _ => rfl), State.ctxIdOf_eq]

theorem tmod_id {α : Type} (t : Tab α) (x : Nat) : tmod t x (fun a => a) = t := by
  induction t with
  | nil => rfl
  | cons e t ih => obtain ⟨k, v⟩ := e; simp only [tmod]; split <;> simp [ih]

/-- Putting a thread back as it stands changes nothing. -/
theorem State.setThread_self {s : State} {r : Ref} {p : Plot} {t : Thread} (hp : tget s.plots r.tag = some p) (ht : s.thread? r = some t) :
    s.setThread r t = s := by
  rw [State.setThread_eq (fun _ _ x => x) hp ht, State.modPlot]
  simp only [Plot.modThread, tmod_id]

/-- The value at a key of a table whose values were changed one by one. -/
theorem tget_map {α : Type} (t : Tab α) (f : Nat → α → α) (x : Nat) : tget (t.map fun e => (e.1, f e.1 e.2)) x = (tget t x).map (f x) := by
  induction t with
  | nil => rfl
  | cons e t ih =>
    obtain ⟨k, v⟩ := e
    simp only [List.map_cons, tget]
    split
    · subst_vars; rfl
    · exact ih

/-! ## Memory through the cores -/

/-- Every pin area is as before. -/
def PinsSame (s t : State) : Prop := ∀ c, (t.core c).pin = (s.core c).pin

theorem PinsSame.memory {s t : State} (h : PinsSame s t) (hm : t.mem = s.mem) : MemorySame s t := by
  intro own a
  cases own with
  | none => simp [State.placeByte, hm]
  | some c => simp [State.placeByte, h c]

theorem pinsSame_of_cores {s t : State} (h : t.cores = s.cores) : PinsSame s t := fun c => by rw [State.core_of_cores h]

theorem pinsSame_modCore (s : State) (c : Nat) (f : Core → Core) (h : ∀ k, (f k).pin = k.pin) : PinsSame s (s.modCore c f) := by
  intro x
  rw [State.core_modCore]
  split
  · subst_vars; exact h _
  · rfl

/-- A change of every core that leaves its pin area alone. -/
theorem pinsSame_mapCores {s t : State} (f : Core → Core) (h : t.cores = s.cores.map fun e => (e.1, f e.2)) (hf : ∀ k, (f k).pin = k.pin) : PinsSame s t := by
  intro c
  rw [State.core, State.core, h, tget_map s.cores fun _ => f]
  cases tget s.cores c <;> simp [hf]

/-! ## Threads, memory and scratchpads as before -/

/-- No thread, no byte of memory and no byte of a scratchpad has changed. -/
structure Quiet (s t : State) : Prop where
  threads : ∀ r, t.thread? r = s.thread? r
  memory : MemorySame s t
  spads : SpadsSame s t

theorem quiet_of_plots {s t : State} (hp : t.plots = s.plots) (hm : t.mem = s.mem) (hc : PinsSame s t) : Quiet s t :=
  ⟨fun r => State.thread?_of_plots hp r, hc.memory hm, fun n x => State.spadByte_of_plots hp n x⟩

theorem quiet_of_same {s t : State} (hp : t.plots = s.plots) (hm : t.mem = s.mem) (hc : t.cores = s.cores) : Quiet s t :=
  quiet_of_plots hp hm (pinsSame_of_cores hc)

theorem quiet_modCore (s : State) (c : Nat) (f : Core → Core) (h : ∀ k, (f k).pin = k.pin) : Quiet s (s.modCore c f) :=
  quiet_of_plots rfl rfl (pinsSame_modCore s c f h)

theorem Quiet.refl (s : State) : Quiet s s := ⟨fun _ => rfl, fun _ _ => rfl, fun _ _ => rfl⟩

theorem MemorySame.trans {s t u : State} (h : MemorySame s t) (g : MemorySame t u) : MemorySame s u := fun o a => (g o a).trans (h o a)

theorem SpadsSame.trans {s t u : State} (h : SpadsSame s t) (g : SpadsSame t u) : SpadsSame s u := fun n x => (g n x).trans (h n x)

theorem Quiet.trans {s t u : State} (h : Quiet s t) (g : Quiet t u) : Quiet s u :=
  ⟨fun r => (g.threads r).trans (h.threads r), h.memory.trans g.memory, h.spads.trans g.spads⟩

theorem Quiet.threadOnly {s t u : State} {r : Ref} {x : Thread} (h : Quiet s t) (g : ThreadOnly t u r x) : ThreadOnly s u r x := by
  obtain ⟨hr, ho, hm, hs⟩ := g
  exact ⟨hr, fun q hq => (ho q hq).trans (h.threads q), h.memory.trans hm, h.spads.trans hs⟩

theorem threadOnly_quiet {s t u : State} {r : Ref} {x : Thread} (g : ThreadOnly s t r x) (h : Quiet t u) : ThreadOnly s u r x := by
  obtain ⟨hr, ho, hm, hs⟩ := g
  exact ⟨(h.threads r).trans hr, fun q hq => (h.threads q).trans (ho q hq), hm.trans h.memory, hs.trans h.spads⟩

theorem ThreadOnly.trans {s t u : State} {r : Ref} {x y : Thread} (g : ThreadOnly s t r x) (h : ThreadOnly t u r y) : ThreadOnly s u r y := by
  obtain ⟨-, ho, hm, hs⟩ := g
  obtain ⟨hr, ho', hm', hs'⟩ := h
  exact ⟨hr, fun q hq => (ho' q hq).trans (ho q hq), hm.trans hm', hs.trans hs'⟩

theorem threadOnly_modThread {s : State} {r : Ref} {t : Thread} (f : Thread → Thread) (h : s.thread? r = some t) :
    ThreadOnly s (s.modThread r f) r (f t) :=
  ⟨State.thread?_modThread_same f h, fun _ hq => State.thread?_modThread_ne f hq, (pinsSame_of_cores rfl).memory rfl, fun _ _ => State.spadByte_modThread ..⟩

/-! ## Leaving a drill, filing, entering the headland -/

/-- Leaving a drill changes the cores alone, and of a core its drills alone. -/
theorem State.leaveDrill_frame (s : State) (r : Ref) :
    s.leaveDrill r = { s with cores := (s.leaveDrill r).cores } ∧
      ∀ c, (s.leaveDrill r).core c = { s.core c with drills := ((s.leaveDrill r).core c).drills } := by
  unfold State.leaveDrill
  split
  · split
    · refine ⟨rfl, fun c => ?_⟩
      rw [State.core_modCore]
      split
      · subst_vars; split <;> rfl
      · rfl
    · exact ⟨rfl, fun _ => rfl⟩
  · exact ⟨rfl, fun _ => rfl⟩

@[simp] theorem State.leaveDrill_plots (s : State) (r : Ref) : (s.leaveDrill r).plots = s.plots := by
  rw [(s.leaveDrill_frame r).1]
@[simp] theorem State.leaveDrill_mem (s : State) (r : Ref) : (s.leaveDrill r).mem = s.mem := by
  rw [(s.leaveDrill_frame r).1]
@[simp] theorem State.leaveDrill_tracts (s : State) (r : Ref) : (s.leaveDrill r).tracts = s.tracts := by
  rw [(s.leaveDrill_frame r).1]
@[simp] theorem State.leaveDrill_ctxs (s : State) (r : Ref) : (s.leaveDrill r).ctxs = s.ctxs := by
  rw [(s.leaveDrill_frame r).1]
@[simp] theorem State.leaveDrill_issueQ (s : State) (r : Ref) : (s.leaveDrill r).issueQ = s.issueQ := by
  rw [(s.leaveDrill_frame r).1]
@[simp] theorem State.leaveDrill_cycle (s : State) (r : Ref) : (s.leaveDrill r).cycle = s.cycle := by
  rw [(s.leaveDrill_frame r).1]

theorem State.leaveDrill_quiet (s : State) (r : Ref) : Quiet s (s.leaveDrill r) :=
  quiet_of_plots (by simp) (by simp) fun c => by rw [(s.leaveDrill_frame r).2 c]

@[simp] theorem State.leaveDrill_thread? (s : State) (r q : Ref) : (s.leaveDrill r).thread? q = s.thread? q := (s.leaveDrill_quiet r).threads q

theorem State.toHeadland_only {s : State} {r : Ref} {t : Thread} (w : Reason) (h : s.thread? r = some t) :
    ThreadOnly s (s.toHeadland r w) r { t with place := .headland w } :=
  (s.leaveDrill_quiet r).threadOnly (threadOnly_modThread _ (by simpa using h))

/-- Filing a thread that nothing stops changes that thread, and of the cores the drills and the filing lists. -/
theorem State.fileThread_of_goes {s : State} {r : Ref} {t : Thread} (pc : DWord) (n : Nat) (h : s.thread? r = some t) (hg : t.stopsWhenFiled = false) :
    ∃ u, u = (s.leaveDrill r).setThread r { t with pc := pc, place := .filed } ∧
      (s.fileThread r pc n = u ∨ s.fileThread r pc n = u.modCore (s.coreOf r) fun k =>
        { k with filing := fileInsert k.filing { rank := n, ref := r, at' := s.cycle } }) := by
  refine ⟨_, rfl, ?_⟩
  rw [State.fileThread]
  simp only [State.leaveDrill_thread?, h, hg, Bool.false_eq_true, if_false]
  split
  · exact .inl rfl
  · exact .inr rfl

theorem State.fileThread_only {s : State} {r : Ref} {t : Thread} (pc : DWord) (n : Nat) (h : s.thread? r = some t) (hg : t.stopsWhenFiled = false) :
    ThreadOnly s (s.fileThread r pc n) r { t with pc := pc, place := .filed } := by
  obtain ⟨u, rfl, hu⟩ := State.fileThread_of_goes pc n h hg
  have h1 : ThreadOnly s ((s.leaveDrill r).setThread r { t with pc := pc, place := .filed }) r { t with pc := pc, place := .filed } :=
    (s.leaveDrill_quiet r).threadOnly (threadOnly_modThread (fun _ => _) (by simpa using h))
  rcases hu with hu | hu <;> rw [hu]
  · exact h1
  · exact threadOnly_quiet h1 (quiet_modCore _ _ _ fun _ => rfl)

theorem State.fileThread_ctxs {s : State} {r : Ref} {t : Thread} (pc : DWord) (n : Nat) (h : s.thread? r = some t) (hg : t.stopsWhenFiled = false) :
    (s.fileThread r pc n).ctxs = s.ctxs := by
  obtain ⟨u, rfl, hu | hu⟩ := State.fileThread_of_goes pc n h hg <;> rw [hu] <;> simp [State.modCore, State.setCore]

theorem State.fileThread_tracts {s : State} {r : Ref} {t : Thread} (pc : DWord) (n : Nat) (h : s.thread? r = some t) (hg : t.stopsWhenFiled = false) :
    (s.fileThread r pc n).tracts = s.tracts := by
  obtain ⟨u, rfl, hu | hu⟩ := State.fileThread_of_goes pc n h hg <;> rw [hu] <;> simp [State.modCore, State.setCore]

theorem State.fileThread_ctxIdOf {s : State} {r : Ref} {t : Thread} (pc : DWord) (n : Nat) (q : Ref) (h : s.thread? r = some t) (hg : t.stopsWhenFiled = false) :
    (s.fileThread r pc n).ctxIdOf q = s.ctxIdOf q := by
  have hl : (s.leaveDrill r).ctxIdOf q = s.ctxIdOf q := State.ctxIdOf_of_plots (by simp) q
  obtain ⟨u, rfl, hu | hu⟩ := State.fileThread_of_goes pc n h hg <;> rw [hu]
  · rw [State.setThread, State.ctxIdOf_modThread, hl]
  · exact (State.ctxIdOf_of_plots rfl q).trans (((s.leaveDrill r).ctxIdOf_modThread r q _).trans hl)

/-! ## Traps and records where the context's queue has none waiting -/

/-- With no record waiting, delivering writes nothing. -/
theorem State.deliverRecs_none {s : State} {c : Nat} (h : ∀ x, tget s.ctxs c = some x → x.heldRecs = []) : s.deliverRecs c = s := by
  have hc : s.heldCount c = 0 := by
    rw [State.heldCount]
    cases hx : tget s.ctxs c with
    | none => rfl
    | some x => simp [h x hx]
  simp [State.deliverRecs, hc, State.flushRecs]

/-- A trap outside the handler enters it (21 R373). -/
theorem State.takeTrap_only {s : State} {r : Ref} {t : Thread} (w : Word) (code imm : Nat) (ea : DWord) (h : s.thread? r = some t) (hs : t.sup = false)
    (hg : t.stopsWhenFiled = false) :
    ThreadOnly s (s.takeTrap r w code imm ea) r (t.trapped w (s.tvecOf r) code imm ea) ∧ (s.takeTrap r w code imm ea).ctxs = s.ctxs ∧
      ∀ q, (s.takeTrap r w code imm ea).ctxIdOf q = s.ctxIdOf q := by
  rw [State.takeTrap_spec w code imm ea h hs]
  have h1 := threadOnly_modThread (fun x => { t.enterTrap w (s.tvecOf r) code imm ea with place := x.place }) h
  have hg' : ({ t.enterTrap w (s.tvecOf r) code imm ea with place := t.place } : Thread).stopsWhenFiled = false := hg
  refine ⟨?_, ?_, fun q => ?_⟩
  · have h2 := State.fileThread_only (s.tvecOf r) (match t.place with | .drill slot => rankDrill slot r | _ => rankWake r) h1.1 hg'
    have h3 := h1.trans h2
    rw [Thread.trapped, Nat.mul_comm 256 imm]
    exact h3
  · exact (State.fileThread_ctxs _ _ h1.1 hg').trans rfl
  · rw [State.fileThread_ctxIdOf _ _ _ h1.1 hg', State.ctxIdOf_modThread]

end Sys2Proof.Machine
end

section
/-! LAWS. A step with nothing picked, and the lanes of a drill as it issues (01 R23, 23 R425, R429). -/

namespace Sys2Proof.Machine

theorem mem_distinctRefs {r : Ref} : ∀ {l : List Ref}, r ∈ distinctRefs l ↔ r ∈ l
  | [] => Iff.rfl
  | q :: l => by
    rw [distinctRefs]
    split
    · rename_i h
      have hq : q ∈ l := List.contains_iff_mem.mp h
      rw [mem_distinctRefs, List.mem_cons]
      exact ⟨.inr, fun h => h.elim (fun e => e ▸ hq) id⟩
    · rw [List.mem_cons, mem_distinctRefs, List.mem_cons]

theorem nodup_distinctRefs : ∀ l : List Ref, (distinctRefs l).Nodup
  | [] => List.nodup_nil
  | q :: l => by
    rw [distinctRefs]
    split
    · exact nodup_distinctRefs l
    · rename_i h
      exact List.nodup_cons.mpr ⟨fun hq => h (List.contains_iff_mem.mpr (mem_distinctRefs.mp hq)), nodup_distinctRefs l⟩

/-- With nothing picked, the first input of the agenda decides what the step does. -/
theorem step_of_agenda {s : State} {i : Instr} {l : List Instr} (hq : s.issueQ = []) (ha : s.agenda = i :: l) :
    step s = if i.isEvent = false then .fault .agendaNotAStep
      else if s.fallow = true ∧ inFallow i = false then .next { s with agenda := l } else exec i { s with agenda := l } := by
  rw [step, hq, ha]
  simp

/-- Settles O6: the agenda's head by the guard of a step, and the lanes by the removal of repeats. -/
theorem stepRunsAgenda : Obligations.StepRunsAgenda := by
  unfold Obligations.StepRunsAgenda
  refine ⟨fun s i l hq ha => ?_, fun s c slot w d => ⟨nodup_distinctRefs d.lanes, fun r => mem_distinctRefs⟩⟩
  rw [step_of_agenda hq ha]
  refine ⟨fun he hf => ?_, fun he hf hi => ?_, fun he => if_pos he⟩
  · rw [if_neg (by simp [he]), if_neg]
    rintro ⟨h1, h2⟩
    rcases hf with hf | hf <;> simp_all
  · rw [if_neg (by simp [he]), if_pos ⟨hf, hi⟩]

end Sys2Proof.Machine
end

section
/-! SUPPORT. Threads moved: the frame of operations that change only threads and cores, the forming of a drill, and the settling of a
drill of one lane. -/

namespace Sys2Proof.Machine

/-! ## The frame of a move -/

/-- A plot without its threads. -/
def Plot.bare (p : Plot) : Plot := { p with threads := [] }

/-- From s to t nothing changed but threads, and of the cores nothing in a pin area. -/
structure Shift (s t : State) : Prop where
  frame : t = { s with plots := t.plots, cores := t.cores }
  bare : ∀ n, (tget t.plots n).map Plot.bare = (tget s.plots n).map Plot.bare
  pins : PinsSame s t

theorem Shift.refl (s : State) : Shift s s := ⟨rfl, fun _ => rfl, fun _ => rfl⟩

theorem Shift.trans {s t u : State} (h : Shift s t) (g : Shift t u) : Shift s u :=
  ⟨by rw [g.frame, h.frame], fun n => (g.bare n).trans (h.bare n), fun c => (g.pins c).trans (h.pins c)⟩

/-- A fold of moves is a move. -/
theorem Shift.foldl {α : Type} {f : State → α → State} (hf : ∀ s x, Shift s (f s x)) : ∀ (l : List α) (s : State), Shift s (l.foldl f s)
  | [], s => Shift.refl s
  | x :: l, s => (hf s x).trans (Shift.foldl hf l _)

/-- What does not name the threads of a plot reads the same after a move. -/
theorem Shift.plot {α : Type} {s t : State} (h : Shift s t) (g : Plot → α) (hg : ∀ p, g p.bare = g p) (n : Nat) :
    (tget t.plots n).map g = (tget s.plots n).map g := by
  have hc : g ∘ Plot.bare = g := funext hg
  have := congrArg (Option.map g) (h.bare n)
  simpa only [Option.map_map, hc] using this

theorem Shift.spads {s t : State} (h : Shift s t) : SpadsSame s t := fun n x => by
  rw [State.spadByte_eq, State.spadByte_eq, h.plot (fun p => mget p.spad x) fun _ => rfl]

theorem Shift.ctxIdOf {s t : State} (h : Shift s t) (r : Ref) : t.ctxIdOf r = s.ctxIdOf r := by
  rw [State.ctxIdOf_eq, State.ctxIdOf_eq, h.plot Plot.ctx fun _ => rfl]

theorem Shift.coreOf {s t : State} (h : Shift s t) (r : Ref) : t.coreOf r = s.coreOf r := by
  rw [State.coreOf_eq, State.coreOf_eq, h.plot Plot.core fun _ => rfl]

theorem Shift.memory {s t : State} (h : Shift s t) : MemorySame s t := h.pins.memory (by rw [h.frame])
theorem Shift.ctxs {s t : State} (h : Shift s t) : t.ctxs = s.ctxs := by rw [h.frame]
theorem Shift.tracts {s t : State} (h : Shift s t) : t.tracts = s.tracts := by rw [h.frame]
theorem Shift.issueQ {s t : State} (h : Shift s t) : t.issueQ = s.issueQ := by rw [h.frame]
theorem Shift.cycle {s t : State} (h : Shift s t) : t.cycle = s.cycle := by rw [h.frame]

theorem shift_of_frame {s t : State} (h : t = { s with cores := t.cores }) (hp : PinsSame s t) : Shift s t :=
  have hpl : t.plots = s.plots := by rw [h]
  ⟨by rw [hpl]; exact h, fun n => by rw [hpl], hp⟩

theorem shift_modCore (s : State) (c : Nat) (f : Core → Core) (h : ∀ k, (f k).pin = k.pin) : Shift s (s.modCore c f) :=
  shift_of_frame rfl (pinsSame_modCore s c f h)

theorem shift_modThread (s : State) (r : Ref) (f : Thread → Thread) : Shift s (s.modThread r f) :=
  ⟨rfl, fun n => s.plot_modThread r f Plot.bare (fun _ _ => rfl) n, fun _ => rfl⟩

theorem shift_leaveDrill (s : State) (r : Ref) : Shift s (s.leaveDrill r) :=
  shift_of_frame (s.leaveDrill_frame r).1 fun c => by rw [(s.leaveDrill_frame r).2 c]

theorem shift_fileThread {s : State} {r : Ref} {t : Thread} (pc : DWord) (n : Nat) (h : s.thread? r = some t) (hg : t.stopsWhenFiled = false) :
    Shift s (s.fileThread r pc n) := by
  have hu := (shift_leaveDrill s r).trans (shift_modThread (s.leaveDrill r) r fun _ => { t with pc := pc, place := .filed })
  obtain ⟨u, rfl, he | he⟩ := State.fileThread_of_goes pc n h hg <;> rw [he]
  · exact hu
  · exact hu.trans (shift_modCore _ _ _ fun _ => rfl)

/-! ## Forming a drill (01 R23) -/

/-- Moving one thread into a slot. -/
def State.joinSlot (slot : Nat) (s : State) (r : Ref) : State := (s.leaveDrill r).modThread r fun t => { t with place := .drill slot }

theorem State.newDrill_eq (s : State) (core slot : Nat) (rs : List Ref) (single : Bool) (group : Option GroupWord) :
    s.newDrill core slot rs single group = (rs.foldl (State.joinSlot slot) s).modCore core fun k =>
      { k with drills := tput k.drills slot { lanes := rs, formed := s.cycle, ready := s.cycle, single := single, group := group } } := rfl

theorem shift_joinSlot (slot : Nat) (s : State) (r : Ref) : Shift s (s.joinSlot slot r) := (shift_leaveDrill s r).trans (shift_modThread _ _ _)

theorem State.joinSlot_thread? (slot : Nat) (s : State) (r q : Ref) :
    (s.joinSlot slot r).thread? q = if q = r then (s.thread? q).map fun t => { t with place := .drill slot } else s.thread? q := by
  rw [State.joinSlot, State.thread?_modThread, State.leaveDrill_thread?, State.leaveDrill_thread?]
  split <;> simp [*]

theorem State.foldl_joinSlot_thread? (slot : Nat) (q : Ref) : ∀ (rs : List Ref) (s : State),
    (rs.foldl (State.joinSlot slot) s).thread? q = if q ∈ rs then (s.thread? q).map fun t => { t with place := .drill slot } else s.thread? q
  | [], s => by simp
  | r :: rs, s => by
    rw [List.foldl_cons, State.foldl_joinSlot_thread? slot q rs, State.joinSlot_thread?]
    by_cases hr : q = r <;> by_cases hq : q ∈ rs <;> simp [hr, hq, Function.comp_def]

/-- The cores keep all but their drills while threads move into a slot. -/
theorem State.foldl_joinSlot_core (slot c : Nat) : ∀ (rs : List Ref) (s : State),
    (rs.foldl (State.joinSlot slot) s).core c = { s.core c with drills := ((rs.foldl (State.joinSlot slot) s).core c).drills }
  | [], _ => rfl
  | r :: rs, s => by
    have h : (s.joinSlot slot r).core c = { s.core c with drills := ((s.joinSlot slot r).core c).drills } := by
      have e : (s.joinSlot slot r).core c = (s.leaveDrill r).core c := State.core_of_cores rfl c
      rw [e]; exact (s.leaveDrill_frame r).2 c
    rw [List.foldl_cons, State.foldl_joinSlot_core slot c rs, h]

theorem shift_newDrill (s : State) (core slot : Nat) (rs : List Ref) (single : Bool) (group : Option GroupWord) :
    Shift s (s.newDrill core slot rs single group) := by
  rw [State.newDrill_eq]
  exact (Shift.foldl (shift_joinSlot slot) rs s).trans (shift_modCore _ _ _ fun _ => rfl)

/-- The threads of a new drill stand at its slot; all others stay where they are. -/
theorem State.newDrill_thread? (s : State) (core slot : Nat) (rs : List Ref) (single : Bool) (group : Option GroupWord) (q : Ref) :
    (s.newDrill core slot rs single group).thread? q = if q ∈ rs then (s.thread? q).map fun t => { t with place := .drill slot } else s.thread? q := by
  rw [State.newDrill_eq]
  exact (State.thread?_of_plots rfl q).trans (State.foldl_joinSlot_thread? slot q rs s)

/-- The record of a new drill. -/
theorem State.newDrill_drill (s : State) (core slot : Nat) (rs : List Ref) (single : Bool) (group : Option GroupWord) :
    tget ((s.newDrill core slot rs single group).core core).drills slot =
      some { lanes := rs, formed := s.cycle, ready := s.cycle, single := single, group := group } := by
  rw [State.newDrill_eq, State.core_modCore, if_pos rfl]
  exact tget_tput_same ..

/-- Of its core a new drill changes the drills alone. -/
theorem State.newDrill_core (s : State) (core slot : Nat) (rs : List Ref) (single : Bool) (group : Option GroupWord) :
    (s.newDrill core slot rs single group).core core = { s.core core with drills := ((s.newDrill core slot rs single group).core core).drills } := by
  rw [State.newDrill_eq, State.core_modCore, if_pos rfl, State.foldl_joinSlot_core]

/-! ## A drill of one lane -/

/-- What settling does to a drill of one lane: what becomes of the lane, and the records where it may have left one. -/
theorem State.settle_one (s : State) (r : Ref) (o : Out) :
    s.settle [(r, o)] = if o.mayRecord then (s.settleLane s.cur.word (maskOf [(r, o)]) s.cur.slot (r, o)).deliverRecs
        ((s.settleLane s.cur.word (maskOf [(r, o)]) s.cur.slot (r, o)).ctxIdOf r)
      else s.settleLane s.cur.word (maskOf [(r, o)]) s.cur.slot (r, o) := by
  have hrec : ∀ u : State, (u.recCtxs [(r, o)]).foldl State.deliverRecs u = if o.mayRecord then u.deliverRecs (u.ctxIdOf r) else u := by
    intro u
    rw [State.recCtxs]
    cases o <;> simp [Out.mayRecord, List.eraseDups_cons]
  rw [State.settle]
  have hmid : ∀ u : State, (if ([(r, o)].filter fun x => x.2.stays).any fun x => x.2.isRegroup then
        u.regroup s.cur.slot (([(r, o)].filter fun x => x.2.stays).map Prod.fst)
      else u.split s.cur.core s.cur.slot ((([(r, o)].filter fun x => x.2.stays).filter fun x => x.2.isGoto).map Prod.fst)
        ((([(r, o)].filter fun x => x.2.stays).filter fun x => !x.2.isGoto).map Prod.fst)) = u := by
    intro u
    cases o <;> simp [Out.stays, Out.isRegroup, Out.isGoto, State.split, State.regroup, State.fileAll]
  simp only [List.foldl_cons, List.foldl_nil, hmid, hrec]

/-- Running a drill of one lane that does not wait for a port. -/
theorem OneLane.run {s u : State} {r : Ref} {p : Plot} {th : Thread} {o : Out} {F : LaneFn} (h : OneLane s r p th) (hF : F s r p th = (u, o))
    (hw : o.waits = false) :
    runLanes F s = u.settle [(r, o)] := by
  rw [runLanes, h.lanes]
  simp only [List.foldl_cons, List.foldl_nil, runLane, h.plot, h.thread, hF, List.nil_append, State.settleOr, List.any_cons, List.any_nil, hw, Bool.or_false,
    Bool.false_eq_true, if_false]

/-- Running a drill of one lane that leaves no record: the lane's own part and what becomes of it. -/
theorem OneLane.run_quiet {s u : State} {r : Ref} {p : Plot} {th : Thread} {o : Out} {F : LaneFn} (h : OneLane s r p th) (hF : F s r p th = (u, o))
    (hr : o.mayRecord = false) : runLanes F s = u.settleLane u.cur.word (maskOf [(r, o)]) u.cur.slot (r, o) := by
  have hw : o.waits = false := by cases o <;> simp_all [Out.mayRecord, Out.waits]
  rw [h.run hF hw, State.settle_one, if_neg (by simp [hr])]

/-- The records of the one lane's context are none. -/
theorem OneLane.held {s : State} {r : Ref} {p : Plot} {th : Thread} (h : OneLane s r p th) :
    ∀ c, tget s.ctxs (s.ctxIdOf r) = some c → c.heldRecs = [] := by
  rw [State.ctxIdOf_of_plot h.plot]; exact h.records

/-- A lane that traps outside the handler. -/
theorem OneLane.run_trap {s : State} {r : Ref} {p : Plot} {th : Thread} {F : LaneFn} {code imm : Nat} {ea : DWord} (h : OneLane s r p th)
    (hF : F s r p th = (s, .trap code imm ea)) (hs : th.sup = false) :
    ThreadOnly s (runLanes F s) r (th.trapped s.cur.word (s.tvecOf r) code imm ea) := by
  obtain ⟨ho, hc, hi⟩ := State.takeTrap_only s.cur.word code imm ea h.thread hs h.goes
  have hd : (s.takeTrap r s.cur.word code imm ea).deliverRecs ((s.takeTrap r s.cur.word code imm ea).ctxIdOf r) = s.takeTrap r s.cur.word code imm ea :=
    State.deliverRecs_none (by rw [hi, hc]; exact h.held)
  rw [h.run hF rfl, State.settle_one, if_pos (by rfl)]
  exact hd.symm ▸ ho

end Sys2Proof.Machine
end

section
/-! LAWS. Branches over a drill, its split (01 R23, 07 R159), and the instructions that file their thread (07 R160, R166, R168). -/

namespace Sys2Proof.Machine

/-! ## Lanes that only say where they go on -/

/-- A change given by its effect on the threads there are. -/
theorem ChangesOn.congr_thread {L : List Ref} {s t : State} {f g : Ref → Plot → Thread → Thread} (h : ChangesOn L s t f)
    (hfg : ∀ r ∈ L, ∀ p th, s.thread? r = some th → f r p th = g r p th) : ChangesOn L s t g where
  frame := h.frame
  plot := fun n p hp => by
    obtain ⟨q, hq, he, ht⟩ := h.plot n p hp
    refine ⟨q, hq, he, fun i => ?_⟩
    rw [ht]
    cases hi : tget p.threads i with
    | none => rfl
    | some th =>
      have hth : s.thread? ⟨n, i⟩ = some th := by rw [State.thread?, hp]; exact hi
      simp only [Option.map_some]
      split
      · rw [hfg _ ‹_› p th hth]
      · rfl
  gone := h.gone

theorem ChangesOn.memory {L : List Ref} {s t : State} {f : Ref → Plot → Thread → Thread} (h : ChangesOn L s t f) : MemorySame s t :=
  (pinsSame_of_cores (by rw [h.frame])).memory (by rw [h.frame])

theorem ChangesOn.spads {L : List Ref} {s t : State} {f : Ref → Plot → Thread → Thread} (h : ChangesOn L s t f) : SpadsSame s t := fun n x => by
  rw [State.spadByte_eq, State.spadByte_eq]
  cases hp : tget s.plots n with
  | none => rw [h.gone n hp]
  | some p => obtain ⟨q, hq, he, -⟩ := h.plot n p hp; rw [hq, he]; rfl

theorem ChangesOn.core {L : List Ref} {s t : State} {f : Ref → Plot → Thread → Thread} (h : ChangesOn L s t f) (c : Nat) : t.core c = s.core c :=
  State.core_of_cores (by rw [h.frame]) c

/-- A thread that no lane names is as before. -/
theorem ChangesOn.thread_out {L : List Ref} {s t : State} {f : Ref → Plot → Thread → Thread} (h : ChangesOn L s t f) {r : Ref} (hr : r ∉ L) :
    t.thread? r = s.thread? r := by
  cases ht : s.thread? r with
  | none => exact h.thread_none ht
  | some th => obtain ⟨p, hp, -⟩ := State.thread?_some ht; rw [h.thread hp ht, if_neg hr]

/-- Lanes that leave the state as it is: their outcomes, in order. -/
theorem foldl_runLane_still {F : LaneFn} {o : Ref → Out} {s : State} : ∀ (L : List Ref) (O : List (Ref × Out)),
    (∀ r ∈ L, ∃ th, s.thread? r = some th ∧ ∀ p, F s r p th = (s, o r)) → L.foldl (runLane F) (s, O) = (s, O ++ L.map fun r => (r, o r))
  | [], O, _ => by simp
  | r :: L, O, h => by
    obtain ⟨th, ht, hF⟩ := h r List.mem_cons_self
    obtain ⟨p, hp, -⟩ := State.thread?_some ht
    have hstep : runLane F (s, O) r = (s, O ++ [(r, o r)]) := by rw [runLane]; simp only [hp, ht, hF]
    rw [List.foldl_cons, hstep, foldl_runLane_still L _ fun q hq => h q (List.mem_cons_of_mem _ hq)]
    simp

/-- An outcome at which the lane goes on in the drill, a branch taken or not. -/
def Out.goesTo : Out → Bool
  | .next => true
  | .goto _ => true
  | _ => false

/-- Where such an outcome sends its thread. -/
def Out.dest (t : Thread) : Out → DWord
  | .goto pc => pc
  | _ => t.pc4

/-- Each thread moved to where its outcome sends it. -/
def moveTo (o : Ref → Out) : Ref → Plot → Thread → Thread := fun r _ th => { th with pc := (o r).dest th }

theorem State.settleLane_goesTo (s : State) (w : Word) (m : DWord) (k : Nat) (r : Ref) {o : Ref → Out} (h : (o r).goesTo = true) :
    s.settleLane w m k (r, o r) = s.modPlot r.tag fun p => p.modThread r.tid (moveTo o r p) := by
  have hm : ∀ p, moveTo o r p = fun t => { t with pc := (o r).dest t } := fun _ => rfl
  simp only [State.settleLane, hm]
  cases ho : o r <;> simp only [ho, Out.goesTo, Bool.false_eq_true] at h <;> rfl

theorem foldl_settleLane_goesTo {s : State} {o : Ref → Out} (w : Word) (m : DWord) (k : Nat) : ∀ (L D : List Ref) (t : State),
    (∀ r ∈ L, (o r).goesTo = true) → (L ++ D).Nodup → ChangesOn D s t (moveTo o) →
      ChangesOn (L ++ D) s ((L.map fun r => (r, o r)).foldl (fun s x => s.settleLane w m k x) t) (moveTo o)
  | [], D, t, _, _, h => h
  | r :: L, D, t, hg, hn, h => by
    have hp : (L ++ r :: D).Perm (r :: L ++ D) := List.perm_middle
    have hr : r ∉ D := fun hd => (List.nodup_cons.mp hn).1 (List.mem_append_right _ hd)
    rw [List.map_cons, List.foldl_cons, State.settleLane_goesTo t w m k r (hg r List.mem_cons_self)]
    exact changesOn_congr (foldl_settleLane_goesTo w m k L (r :: D) _ (fun q hq => hg q (List.mem_cons_of_mem _ hq)) (hp.nodup_iff.mpr hn)
      (changesOn_cons h (fun _ _ _ => rfl) hr)) fun q => hp.mem_iff

/-- A drill whose lanes each go on, by a branch or without one: each thread has its new PC, and the drill splits where they differ (01 R23). -/
theorem runLanes_goesTo {F : LaneFn} {o : Ref → Out} {s : State} (hn : s.cur.lanes.Nodup)
    (hF : ∀ r ∈ s.cur.lanes, ∃ th, s.thread? r = some th ∧ ∀ p, F s r p th = (s, o r)) (ho : ∀ r ∈ s.cur.lanes, (o r).goesTo = true) :
    ∃ t, ChangesOn s.cur.lanes s t (moveTo o) ∧
      runLanes F s = t.split s.cur.core s.cur.slot (s.cur.lanes.filter fun r => (o r).isGoto) (s.cur.lanes.filter fun r => !(o r).isGoto) := by
  have hstays : ∀ x, (o x).goesTo = true → (o x).stays = true ∧ (o x).isRegroup = false ∧ (o x).mayRecord = false ∧ (o x).waits = false := by
    intro x h
    cases hx : o x <;> simp_all [Out.goesTo, Out.stays, Out.isRegroup, Out.mayRecord, Out.waits]
  let outs := s.cur.lanes.map fun r => (r, o r)
  have hall : ∀ x ∈ outs, x.2.stays = true ∧ x.2.isRegroup = false ∧ x.2.mayRecord = false ∧ x.2.waits = false := by
    intro x hx
    obtain ⟨r, hr, rfl⟩ := List.mem_map.mp hx
    exact hstays r (ho r hr)
  have hwaits : outs.any (fun x => x.2.waits) = false := by
    rw [List.any_eq_false]; intro x hx; simp [hall x hx]
  have hstay : outs.filter (fun x => x.2.stays) = outs := List.filter_eq_self.mpr fun x hx => (hall x hx).1
  have hregroup : outs.any (fun x => x.2.isRegroup) = false := by
    rw [List.any_eq_false]; intro x hx; simp [hall x hx]
  have hrec : outs.filter (fun x => x.2.mayRecord) = [] := by
    rw [List.filter_eq_nil_iff]; intro x hx; simp [hall x hx]
  have hfst : ∀ b : Out → Bool, (outs.filter fun x => b x.2).map Prod.fst = s.cur.lanes.filter fun r => b (o r) := by
    intro b
    simp only [outs, List.filter_map, List.map_map, Function.comp_def, List.map_id']
  have hset := foldl_settleLane_goesTo s.cur.word (maskOf outs) s.cur.slot s.cur.lanes [] s ho (by simpa using hn) (changesOn_nil s (moveTo o))
  rw [List.append_nil] at hset
  refine ⟨_, hset, ?_⟩
  have hrun : runLanes F s = s.settle outs := by
    have hf : s.cur.lanes.foldl (runLane F) (s, []) = (s, outs) := foldl_runLane_still s.cur.lanes [] hF
    simp only [runLanes, hf, State.settleOr, hwaits, Bool.false_eq_true, if_false]
  rw [hrun, State.settle]
  simp only [hstay, hregroup, State.recCtxs, hrec, List.map_nil, List.eraseDups_nil, List.foldl_nil, Bool.false_eq_true, if_false, hfst, hfst fun y => !y.isGoto]
  rfl

/-- A split with one of its parts empty is none. -/
theorem State.split_nil {s : State} {c k : Nat} {a b : List Ref} (h : a = [] ∨ b = []) : s.split c k a b = s := by
  rw [State.split, if_pos]; rcases h with h | h <;> simp [h]

/-- A split with a slot free puts the taken part into it (01 R23). -/
theorem State.split_free {s : State} {c k n : Nat} {a b : List Ref} (ha : a ≠ []) (hb : b ≠ []) (hn : tfree (s.core c).drills 0 256 = some n) :
    s.split c k a b = s.newDrill c n a false none := by
  rw [State.split, if_neg (by simp [ha, hb])]; simp only [hn]

/-! ## BRA -/

/-- What BRA does with a lane's thread. -/
def State.braOut (s : State) (pr : Fin 128) (n : Bool) (off : BitVec 18) (r : Ref) : Out :=
  match s.thread? r with
  | some t => if t.taken pr n then .goto (t.target off) else .next
  | none => .next

theorem State.braOut_eq {s : State} {pr : Fin 128} {n : Bool} {off : BitVec 18} {r : Ref} {t : Thread} (h : s.thread? r = some t) :
    s.braOut pr n off r = if t.pred pr.val != n then .goto (t.target off) else .next := by
  rw [State.braOut, h]; rfl

theorem State.braOut_goesTo (s : State) (pr : Fin 128) (n : Bool) (off : BitVec 18) (r : Ref) : (s.braOut pr n off r).goesTo = true := by
  rw [State.braOut]; split <;> [split; skip] <;> rfl

theorem State.braOut_isGoto {s : State} {pr : Fin 128} {n : Bool} {off : BitVec 18} {r : Ref} {t : Thread} (h : s.thread? r = some t) :
    (s.braOut pr n off r).isGoto = (t.pred pr.val != n) := by
  rw [State.braOut_eq h]; split <;> simp_all [Out.isGoto]

theorem State.braOut_move {s : State} {pr : Fin 128} {n : Bool} {off : BitVec 18} {r : Ref} {t : Thread} (p : Plot) (h : s.thread? r = some t) :
    moveTo (s.braOut pr n off) r p t = { t with pc := if t.pred pr.val != n then t.pc + 4 * off.signExtend 64 else t.pc + 4 } := by
  rw [moveTo, State.braOut_eq h]; split <;> rfl

theorem exec_bra (pr : Fin 128) (n : Bool) (off : BitVec 18) {s : State} (hn : s.cur.lanes.Nodup) (hl : ∀ r ∈ s.cur.lanes, ∃ th, s.thread? r = some th) :
    ∃ t, ChangesOn s.cur.lanes s t (moveTo (s.braOut pr n off)) ∧
      exec (.bra pr n off) s = .next (t.split s.cur.core s.cur.slot (s.cur.lanes.filter fun r => (s.braOut pr n off r).isGoto)
        (s.cur.lanes.filter fun r => !(s.braOut pr n off r).isGoto)) := by
  obtain ⟨t, hc, hr⟩ := runLanes_goesTo (F := braLane pr n off) (o := s.braOut pr n off) hn (fun r hr => by
    obtain ⟨th, ht⟩ := hl r hr
    refine ⟨th, ht, fun p => ?_⟩
    rw [braLane, State.braOut]; simp only [ht]) fun r _ => s.braOut_goesTo pr n off r
  exact ⟨t, hc, by rw [← hr]; rfl⟩

/-- BRA whose lanes agree keeps its drill. -/
theorem exec_bra_agree {pr : Fin 128} {n b : Bool} {off : BitVec 18} {s : State} (hn : s.cur.lanes.Nodup) (hl : ∀ r ∈ s.cur.lanes, ∃ th, s.thread? r = some th)
    (hb : ∀ r ∈ s.cur.lanes, ∀ th, s.thread? r = some th → (th.pred pr.val != n) = b) :
    ∃ t, exec (.bra pr n off) s = .next t ∧
      ChangesOn s.cur.lanes s t fun _ _ th => { th with pc := if b then th.pc + 4 * off.signExtend 64 else th.pc + 4 } := by
  obtain ⟨t, hc, hr⟩ := exec_bra pr n off hn hl
  have hg : ∀ r ∈ s.cur.lanes, (s.braOut pr n off r).isGoto = b := fun r hr => by
    obtain ⟨th, ht⟩ := hl r hr
    rw [State.braOut_isGoto ht, hb r hr th ht]
  refine ⟨t, ?_, hc.congr_thread fun r hr p th ht => by rw [State.braOut_move p ht, hb r hr th ht]⟩
  rw [hr, State.split_nil]
  cases b
  · left; rw [List.filter_eq_nil_iff]; intro r hr; simp [hg r hr]
  · right; rw [List.filter_eq_nil_iff]; intro r hr; simp [hg r hr]

/-! ## Filing -/

/-- A drill of one lane whose thread files itself. -/
theorem OneLane.run_file {s u : State} {r : Ref} {p : Plot} {th : Thread} {pc : DWord} {F : LaneFn} (h : OneLane s r p th)
    (hF : F s r p th = (u, .file pc)) (hu : u.thread? r = some th) (hq : Quiet s u) :
    ThreadOnly s (runLanes F s) r { th with pc := pc, place := .filed } := by
  rw [h.run_quiet hF rfl]
  exact hq.threadOnly (State.fileThread_only pc (rankDrill u.cur.slot r) hu h.goes)

/-- A drill of one lane whose thread goes on. -/
theorem OneLane.run_next {s u : State} {r : Ref} {p : Plot} {th : Thread} {F : LaneFn} (h : OneLane s r p th)
    (hF : F s r p th = (u, .next)) (hu : u.thread? r = some th) (hq : Quiet s u) :
    ThreadOnly s (runLanes F s) r { th with pc := th.pc + 4 } := by
  rw [h.run_quiet hF rfl]
  exact hq.threadOnly (threadOnly_modThread (fun t => { t with pc := t.pc4 }) hu)

/-- An instruction that files the thread at PC + 4 where its guard holds. -/
theorem OneLane.run_file_guarded {s u : State} {r : Ref} {p : Plot} {th : Thread} {g : Fin 128} {F : LaneFn} (h : OneLane s r p th)
    (hF : F s r p th = if gY g th then (u, .file th.pc4) else (s, .next)) (hu : u.thread? r = some th) (hq : Quiet s u) :
    ThreadOnly s (runLanes F s) r (if guardY g th then { th with pc := th.pc + 4, place := .filed } else { th with pc := th.pc + 4 }) := by
  rw [guardY_eq] at hF
  split
  · exact h.run_file (hF.trans (if_pos ‹_›)) hu hq
  · exact h.run_next (hF.trans (if_neg ‹_›)) h.thread (Quiet.refl s)

theorem exec_brf {s : State} {r : Ref} {p : Plot} {th : Thread} (h : OneLane s r p th) (pr : Fin 128) (n : Bool) (off : BitVec 18) :
    ∃ t, exec (.brf pr n off) s = .next t ∧
      ThreadOnly s t r { th with pc := if th.pred pr.val != n then th.pc + 4 * off.signExtend 64 else th.pc + 4, place := .filed } :=
  ⟨_, rfl, h.run_file rfl h.thread (Quiet.refl s)⟩

theorem exec_reform {s : State} {r : Ref} {p : Plot} {th : Thread} (h : OneLane s r p th) (g : Fin 128) :
    ∃ t, exec (.reform g) s = .next t ∧
      ThreadOnly s t r (if guardY g th then { th with pc := th.pc + 4, place := .filed } else { th with pc := th.pc + 4 }) :=
  ⟨_, rfl, h.run_file_guarded (g := g) (u := s) (by split <;> simp [*]) h.thread (Quiet.refl s)⟩

/-- The state after YIELD has noted it for the tract (07 R168). -/
def State.noteYield (s : State) (n : Nat) : State := s.modTract n fun x => { x with yielded := true }

theorem exec_yield {s : State} {r : Ref} {p : Plot} {th : Thread} (h : OneLane s r p th) (g : Fin 128) :
    ∃ t, exec (.yield g) s = .next t ∧
      ThreadOnly s t r (if guardY g th then { th with pc := th.pc + 4, place := .filed } else { th with pc := th.pc + 4 }) ∧
      (guardY g th = true → ∀ x, tget s.tracts p.tract = some x → tget t.tracts p.tract = some { x with yielded := true }) := by
  have hq : Quiet s (s.noteYield p.tract) := quiet_of_same rfl rfl rfl
  have hu : (s.noteYield p.tract).thread? r = some th := (hq.threads r).trans h.thread
  refine ⟨_, rfl, h.run_file_guarded (F := yieldLane g) (g := g) (u := s.noteYield p.tract) rfl hu hq, fun hg x hx => ?_⟩
  have hF : yieldLane g s r p th = (s.noteYield p.tract, .file th.pc4) := by rw [yieldLane, guardY_eq, if_pos hg]; rfl
  rw [h.run_quiet hF rfl]
  refine Eq.trans (congrArg (tget · p.tract) (State.fileThread_tracts th.pc4 _ hu h.goes)) ?_
  rw [State.noteYield, State.modTract_tracts, tget_tmod, if_pos rfl, hx]; rfl

/-- Settles O18: BRA by its lanes' outcomes and the split, BRF, REFORM and YIELD by the filing of their one thread. -/
theorem branchesAndFilings : Obligations.BranchesAndFilings := by
  unfold Obligations.BranchesAndFilings
  refine ⟨fun pr n off s hn hl => ⟨fun hb => exec_bra_agree hn hl hb, fun hb => exec_bra_agree hn hl hb, fun k hk ⟨r1, hr1, t1, ht1, hb1⟩ ⟨r2, hr2, t2, ht2, hb2⟩ => ?_⟩,
    fun s r p th h => ⟨exec_brf h, exec_reform h, exec_yield h⟩⟩
  obtain ⟨t, hc, hx⟩ := exec_bra pr n off hn hl
  have hk' : tfree (t.core s.cur.core).drills 0 256 = some k := by rw [hc.core, hk]
  have ha : (s.cur.lanes.filter fun r => (s.braOut pr n off r).isGoto) ≠ [] :=
    List.ne_nil_of_mem (List.mem_filter.mpr ⟨hr1, by rw [State.braOut_isGoto ht1]; exact hb1⟩)
  have hb : (s.cur.lanes.filter fun r => !(s.braOut pr n off r).isGoto) ≠ [] :=
    List.ne_nil_of_mem (List.mem_filter.mpr ⟨hr2, by rw [State.braOut_isGoto ht2, hb2]; rfl⟩)
  rw [hx, State.split_free ha hb hk']
  have hd := shift_newDrill t s.cur.core k (s.cur.lanes.filter fun r => (s.braOut pr n off r).isGoto) false none
  refine ⟨_, rfl, fun r hr => ?_, hc.memory.trans hd.memory, hc.spads.trans hd.spads, fun r hr th ht => ?_⟩
  · rw [State.newDrill_thread?, if_neg fun h => hr (List.mem_filter.mp h).1, hc.thread_out hr]
  · obtain ⟨p, hp, -⟩ := State.thread?_some ht
    rw [State.newDrill_thread?, hc.thread hp ht, if_pos hr, State.braOut_move p ht]
    cases hg : th.pred pr.val != n
    · rw [if_neg fun h => by simpa [State.braOut_isGoto ht, hg] using (List.mem_filter.mp h).2]; rfl
    · rw [if_pos (List.mem_filter.mpr ⟨hr, by rw [State.braOut_isGoto ht, hg]⟩)]; rfl

end Sys2Proof.Machine
end

section
/-! LAWS. Cache and translation operations of the SYS instructions (21 R383 to R385, 09 R193, 01 R25). -/

namespace Sys2Proof.Machine

/-! ## What the cache tags' operations leave alone -/

/-- Only the tags behind L1 changed: L2, LLC, line directory, and the number of draws. -/
def TagsOnly (s t : State) : Prop := t = { s with l2 := t.l2, llc := t.llc, lineDir := t.lineDir, freeCtr := t.freeCtr }

theorem TagsOnly.trans {s t u : State} (h : TagsOnly s t) (g : TagsOnly t u) : TagsOnly s u := by
  unfold TagsOnly at *; rw [g, h]

theorem TagsOnly.quiet {s t : State} (h : TagsOnly s t) : Quiet s t := quiet_of_same (by rw [h]) (by rw [h]) (by rw [h])

theorem TagsOnly.cores {s t : State} (h : TagsOnly s t) : t.cores = s.cores := by rw [h]

theorem State.leaveDir_tags (s : State) (y die : Nat) : TagsOnly s (s.leaveDir y die) ∧ (s.leaveDir y die).l2 = s.l2 := by
  rw [State.leaveDir]; split <;> exact ⟨rfl, rfl⟩

theorem State.writeBack_tags (s : State) (y : Nat) : TagsOnly s (s.writeBack y) ∧ (s.writeBack y).l2 = s.l2 := by
  rw [State.writeBack]; split <;> exact ⟨rfl, rfl⟩

/-- Recalling a line leaves its L2 copies with none dirty, and the tags of other lines as they are. -/
theorem State.recall_tags (s : State) (y : Nat) : TagsOnly s (s.recall y) := by
  rw [State.recall]
  split
  · exact TagsOnly.trans (t := { s with l2 := _, lineDir := _ }) rfl (State.writeBack_tags _ y).1
  · rfl

theorem State.recall_l2 {s : State} {y k : Nat} {x : L2Line} (hk : k / 4 = y) (hx : tget s.l2 k = some x) :
    tget (s.recall y).l2 k = some { x with dirty := 0 } := by
  rw [State.recall]
  split
  · have hm : (s.l2.map fun (k, (x : L2Line)) => if k / 4 = y then (k, { x with dirty := 0 }) else (k, x)) =
        s.l2.map fun e => (e.1, if e.1 / 4 = y then { e.2 with dirty := 0 } else e.2) :=
      List.map_congr_left fun e _ => by dsimp only; split <;> rfl
    rw [(State.writeBack_tags _ y).2, hm, tget_map s.l2 fun k x => if k / 4 = y then { x with dirty := 0 } else x, hx]
    simp [hk]
  · rename_i h
    have hd : x.dirty = 0 := by
      simp only [Bool.or_eq_true, not_or, List.any_eq_true, not_exists, not_and] at h
      simpa [hk] using h.2 (k, x) (mem_of_tget _ _ _ hx)
    rw [hx, ← hd]

theorem State.cleanLine_tags (s : State) (pa : Nat) : TagsOnly s (s.cleanLine pa) := (s.recall_tags (lineOf pa)).trans rfl

/-- After CWB of a line none of its copies is dirty (21 R383). -/
theorem State.cleanLine_clean (s : State) (pa : Nat) : ∀ x, tget (s.cleanLine pa).llc (lineOf pa) = some x → x.dirty = false := by
  intro x hx
  have h : tget (tmod (s.recall (lineOf pa)).llc (lineOf pa) fun e => { e with dirty := false }) (lineOf pa) = some x := hx
  rw [tget_tmod, if_pos rfl] at h
  obtain ⟨y, -, rfl⟩ := Option.map_eq_some_iff.mp h
  rfl

theorem State.invL2_tags (s : State) (core pa : Nat) : TagsOnly s (s.invL2 core pa) := by
  simp only [State.invL2]
  split
  · rfl
  · refine TagsOnly.trans (t := { (if _ then s else s.writeBack (lineOf pa) : State) with l2 := _ }) ?_ (State.leaveDir_tags _ _ _).1
    split
    · rfl
    · exact (State.writeBack_tags s (lineOf pa)).1.trans rfl

/-- After CINV of a line in L2 its die holds it no more (21 R383). -/
theorem State.invL2_gone (s : State) (core pa : Nat) : tget (s.invL2 core pa).l2 (lineOf pa * 4 + dieOf core % 4) = none := by
  simp only [State.invL2]
  split
  · assumption
  · rw [(State.leaveDir_tags _ _ _).2]
    exact tget_tdel_same ..

/-! ## An operation counted in ST until it is acknowledged -/

/-- The request of a cache operation: of the threads it changes its own, which has one store more outstanding. -/
theorem State.countSync_eq (s : State) (r : Ref) (t : Thread) (va : Nat) : ∃ q, s.countSync r t va =
    ({ s with nextId := s.nextId + 1, reqs := tput s.reqs s.nextId q } : State).modThread r fun t => { t with st := t.st + 1 } :=
  ⟨_, rfl⟩

theorem OneLane.coreOf {s : State} {r : Ref} {p : Plot} {th : Thread} (h : OneLane s r p th) : s.coreOf r = p.core := State.coreOf_of_plot h.plot

/-- CINV and CWB in a drill of one lane, where the address translates to an ordinary page: the caches change as f says, and the thread goes on with one
store more outstanding. -/
theorem OneLane.run_cache {s : State} {r : Ref} {p : Plot} {th : Thread} (h : OneLane s r p th) {a : Reg} (ha : th.inRange a 2 = true) {e : TbEntry}
    (hx : s.xlate p.core p.ctx (th.rd64 (envOf s r p) a).toNat accLoad = (s, .ok e)) (hv : e.view = false) (f : State → Nat → Nat → State)
    (hq : Quiet s (f s p.core (e.pa (th.rd64 (envOf s r p) a).toNat))) :
    ThreadOnly s (runLanes (cacheLane a f) s) r { th with pc := th.pc + 4, st := th.st + 1 } ∧
      (runLanes (cacheLane a f) s).l2 = (f s p.core (e.pa (th.rd64 (envOf s r p) a).toNat)).l2 ∧
      (runLanes (cacheLane a f) s).llc = (f s p.core (e.pa (th.rd64 (envOf s r p) a).toNat)).llc ∧
      (runLanes (cacheLane a f) s).cores = (f s p.core (e.pa (th.rd64 (envOf s r p) a).toNat)).cores := by
  let u := f s p.core (e.pa (th.rd64 (envOf s r p) a).toNat)
  have hF : cacheLane a f s r p th = (u.countSync r th (th.rd64 (envOf s r p) a).toNat, .next) := by
    have ht : s.cacheTarget p.core p.ctx (th.rd64 (envOf s r p) a).toNat = (s, some (e.pa (th.rd64 (envOf s r p) a).toNat)) := by
      simp [State.cacheTarget, hx, hv]
    simp only [cacheLane, Thread.inRanges, List.all_cons, ha, List.all_nil, Bool.and_self, Bool.not_true, Bool.false_eq_true, if_false, h.coreOf]
    rw [show s.env r p = envOf s r p from rfl, ht]
    simp only [h.coreOf]
    rfl
  rw [h.run_quiet hF rfl]
  obtain ⟨q, hc⟩ := u.countSync_eq r th (th.rd64 (envOf s r p) a).toNat
  rw [hc]
  let v : State := { u with nextId := u.nextId + 1, reqs := tput u.reqs u.nextId q }
  have hv : v.thread? r = some th := (State.thread?_of_plots rfl r).trans ((hq.threads r).trans h.thread)
  have h1 := threadOnly_modThread (fun t => { t with st := t.st + 1 }) hv
  refine ⟨(hq.trans (quiet_of_same (t := v) rfl rfl rfl)).threadOnly (h1.trans (threadOnly_modThread (fun t => { t with pc := t.pc4 }) h1.1)), rfl, rfl, rfl⟩

/-! ## The instructions -/

/-- A drill of one lane that goes on, as the state its lane left with the PC moved on. -/
theorem OneLane.run_next_eq {s u : State} {r : Ref} {p : Plot} {th : Thread} {F : LaneFn} (h : OneLane s r p th) (hF : F s r p th = (u, .next)) :
    runLanes F s = u.modThread r fun t => { t with pc := t.pc4 } := h.run_quiet hF rfl

theorem State.core_modThread (s : State) (r : Ref) (f : Thread → Thread) (c : Nat) : (s.modThread r f).core c = s.core c := rfl

theorem Thread.inRanges_one (t : Thread) (a : Reg) (n : Nat) : t.inRanges [(a, n)] = t.inRange a n := by simp [Thread.inRanges]

/-- SEEDSET writes its core's selector (21 R385). -/
theorem exec_seedset {s : State} {r : Ref} {p : Plot} {th : Thread} (h : OneLane s r p th) {a : Reg} (hs : th.sup = true) (ha : th.inRange a 1 = true) :
    ∃ t, exec (.seedset a) s = .next t ∧ ThreadOnly s t r { th with pc := th.pc + 4 } ∧
      (t.core p.core).sel = if th.rd32 (envOf s r p) a = 0 then 1 else th.rd32 (envOf s r p) a := by
  have hF : seedsetLane a s r p th = (s.modCore p.core fun k => { k with sel := seedOf (th.rd32 (envOf s r p) a) }, .next) := by
    simp only [seedsetLane, supLane, hs, if_true, Thread.inRanges_one, ha, Bool.not_true, Bool.false_eq_true, if_false, h.coreOf]
    rfl
  refine ⟨_, rfl, h.run_next hF h.thread (quiet_modCore _ _ _ fun _ => rfl), ?_⟩
  rw [h.run_next_eq hF, State.core_modThread, State.core_modCore, if_pos rfl]
  rfl

/-- TLBINV takes the translations of its context out of every buffer (21 R384). -/
theorem exec_tlbinv {s : State} {r : Ref} {p : Plot} {th : Thread} (h : OneLane s r p th) {a : Reg} (hs : th.sup = true) (ha : th.inRange a 2 = true) (all : Bool) :
    ∃ t, exec (.tlbinv a all) s = .next t ∧ ThreadOnly s t r { th with pc := th.pc + 4 } ∧
      ∀ c k e, tget t.cores c = some k → e ∈ k.tb → e.ctx = p.ctx → all = false ∧
        ¬(e.vbase ≤ (th.rd64 (envOf s r p) a).toNat ∧ (th.rd64 (envOf s r p) a).toNat < e.vbase + e.size) := by
  let va := (th.rd64 (envOf s r p) a).toNat
  let cut : Core → Core := fun k => { k with
    tb := k.tb.filter fun e => !(e.ctx == p.ctx && (all || (decide (e.vbase ≤ va) && decide (va < e.vbase + e.size)))), vbuf := [], vbufAt := s.freeCtr }
  have hc : (s.invTranslations p.ctx va all).cores = s.cores.map fun e => (e.1, cut e.2) := by
    simp only [State.invTranslations, State.dropAllVbuf, List.map_map]; rfl
  have hF : tlbinvLane a all s r p th = (s.invTranslations p.ctx va all, .next) := by
    simp only [tlbinvLane, supLane, hs, if_true, Thread.inRanges_one, ha, Bool.not_true, Bool.false_eq_true, if_false]
    rfl
  have hq : Quiet s (s.invTranslations p.ctx va all) := quiet_of_plots rfl rfl (pinsSame_mapCores cut hc fun _ => rfl)
  refine ⟨_, rfl, h.run_next hF ((hq.threads r).trans h.thread) hq, fun c k e hk he hctx => ?_⟩
  rw [h.run_next_eq hF, State.modThread_cores, hc, tget_map s.cores fun _ => cut] at hk
  obtain ⟨k0, -, rfl⟩ := Option.map_eq_some_iff.mp hk
  have hkeep := (List.mem_filter.mp he).2
  simp only [hctx, beq_self_eq_true, Bool.true_and, Bool.not_eq_true', Bool.or_eq_false_iff] at hkeep
  exact ⟨hkeep.1, fun hin => absurd hkeep.2 (by simp [hin.1, hin.2, va])⟩

/-- A write of LPWC sets the window, whose millisecond begins (09 R193). -/
theorem exec_swrLpwc {s : State} {r : Ref} {p : Plot} {th : Thread} (h : OneLane s r p th) {a : Reg} (n : Fin 16) (ha : th.inRange a 1 = true) :
    ∃ t, exec (.swrLpwc a n) s = .next t ∧ ThreadOnly s t r { th with pc := th.pc + 4 } ∧
      ∀ c, tget s.ctxs p.ctx = some c → ∃ c', tget t.ctxs p.ctx = some c' ∧
        c' = { c with lpwc := c.lpwc.set n.val (th.rd32 (envOf s r p) a &&& 0xFF0FFFFF), lpwHit := c.lpwHit.set n.val false, lpwTick := c.lpwTick.set n.val s.time } := by
  have hF : lpwcLane a n.val s r p th = (s.writeLpwc p.ctx n.val (th.rd32 (envOf s r p) a), .next) := by
    simp only [lpwcLane, Thread.inRanges_one, ha, Bool.not_true, Bool.false_eq_true, if_false]
    rfl
  have hw : ∀ v, Quiet s (s.writeLpwc p.ctx n.val v) ∧ (s.writeLpwc p.ctx n.val v).ctxs = tmod s.ctxs p.ctx fun c =>
      { c with lpwc := c.lpwc.set n.val (v &&& 0xFF0FFFFF), lpwHit := c.lpwHit.set n.val false, lpwTick := c.lpwTick.set n.val s.time } := by
    intro v
    simp only [State.writeLpwc]
    split <;> exact ⟨quiet_of_same rfl rfl rfl, rfl⟩
  obtain ⟨hq, hc⟩ := hw (th.rd32 (envOf s r p) a)
  refine ⟨_, rfl, h.run_next hF ((hq.threads r).trans h.thread) hq, fun c hc' => ⟨_, ?_, rfl⟩⟩
  rw [h.run_next_eq hF, State.modThread_ctxs, hc, tget_tmod, if_pos rfl, hc']
  rfl

/-- CINV drops the line from the core's L1 and from its die's L2 (21 R383). -/
theorem exec_cinv {s : State} {r : Ref} {p : Plot} {th : Thread} (h : OneLane s r p th) {a : Reg} (ha : th.inRange a 2 = true) {e : TbEntry}
    (hx : s.xlate p.core p.ctx (th.rd64 (envOf s r p) a).toNat accLoad = (s, .ok e)) (hv : e.view = false) (l1 l2 : Bool) :
    ∃ t, exec (.cinv a l1 l2) s = .next t ∧ ThreadOnly s t r { th with pc := th.pc + 4, st := th.st + 1 } ∧
      (l1 = true → ∀ x ∈ (t.core p.core).l1, x.addr ≠ e.pa (th.rd64 (envOf s r p) a).toNat / 128 * 128) ∧
      (l2 = true → devOf (e.pa (th.rd64 (envOf s r p) a).toNat) = s.device →
        tget t.l2 (lineOf (e.pa (th.rd64 (envOf s r p) a).toNat) * 4 + p.core / 32 % 4) = none) := by
  let pa := e.pa (th.rd64 (envOf s r p) a).toNat
  let s1 := if l1 then s.dropL1Line p.core pa else s
  let s2 := if l2 && devOf pa == s.device then s1.invL2 p.core pa else s1
  have hq1 : Quiet s s1 := by
    dsimp only [s1]
    split
    · exact quiet_modCore _ _ _ fun _ => rfl
    · exact Quiet.refl s
  have ht : TagsOnly s1 s2 := by
    dsimp only [s2]
    split
    · exact s1.invL2_tags p.core pa
    · rfl
  obtain ⟨ho, h2, -, hc⟩ := h.run_cache ha hx hv (fun s core pa =>
    let s1 := if l1 then s.dropL1Line core pa else s
    if l2 && devOf pa == s.device then s1.invL2 core pa else s1) (hq1.trans ht.quiet)
  refine ⟨_, rfl, ho, fun h1 x hx => ?_, fun hl hd => ?_⟩
  · rw [State.core_of_cores hc, State.core_of_cores ht.cores] at hx
    dsimp only [s1] at hx
    rw [if_pos h1, State.dropL1Line, State.core_modCore, if_pos rfl] at hx
    simpa using (List.mem_filter.mp hx).2
  · rw [h2]
    have : s2 = s1.invL2 p.core pa := if_pos (by simp [hl, hd, pa])
    exact (congrArg (fun u => tget u.l2 (lineOf pa * 4 + p.core / 32 % 4)) this).trans (s1.invL2_gone p.core pa)

/-- CWB leaves every copy of the line, none dirty (21 R383). -/
theorem exec_cwb {s : State} {r : Ref} {p : Plot} {th : Thread} (h : OneLane s r p th) {a : Reg} (ha : th.inRange a 2 = true) {e : TbEntry}
    (hx : s.xlate p.core p.ctx (th.rd64 (envOf s r p) a).toNat accLoad = (s, .ok e)) (hv : e.view = false) :
    ∃ t, exec (.cwb a) s = .next t ∧ ThreadOnly s t r { th with pc := th.pc + 4, st := th.st + 1 } ∧
      (devOf (e.pa (th.rd64 (envOf s r p) a).toNat) = s.device →
        (∀ x, tget t.llc (lineOf (e.pa (th.rd64 (envOf s r p) a).toNat)) = some x → x.dirty = false) ∧
        ∀ k x, k / 4 = lineOf (e.pa (th.rd64 (envOf s r p) a).toNat) → tget s.l2 k = some x → tget t.l2 k = some { x with dirty := 0 }) := by
  have ht : TagsOnly s (if devOf (e.pa (th.rd64 (envOf s r p) a).toNat) = s.device then s.cleanLine (e.pa (th.rd64 (envOf s r p) a).toNat) else s) := by
    split
    · exact s.cleanLine_tags _
    · rfl
  obtain ⟨ho, h2, hl, -⟩ := h.run_cache ha hx hv (fun s _ pa => if devOf pa = s.device then s.cleanLine pa else s) ht.quiet
  refine ⟨_, rfl, ho, fun hd => ?_⟩
  rw [h2, hl, if_pos hd]
  exact ⟨s.cleanLine_clean _, fun k x hk hx => State.recall_l2 hk hx⟩

/-- Settles O23, an instruction at a time. -/
theorem cachesAndTranslations : Obligations.CachesAndTranslations := by
  unfold Obligations.CachesAndTranslations
  exact fun s r p th h a => ⟨exec_seedset h, exec_tlbinv h, exec_swrLpwc h, fun ha e hx hv => ⟨exec_cinv h ha hx hv, exec_cwb h ha hx hv⟩⟩

end Sys2Proof.Machine
end

section
/-! SUPPORT. What an access leaves alone: the frame of translation, of reads and writes at any page, and of the delivery of records. -/

namespace Sys2Proof.Machine

/-! ## The frame of an access -/

/-- The state without what an access may change: memory with what is kept of it, the cores, the contexts' hits, what ports send. -/
def State.kept (s : State) : State :=
  { s with mem := [], sown := [], unsownReads := 0, lineKey := [], poison := [], l2 := [], llc := [], lineDir := [], regionDir := [], reservations := [],
           relTags := [], watches := [], cores := [], ctxs := [], fabric := { s.fabric with ports := [] }, hostWrites := [], freeCtr := 0 }

/-- A core without what an access may change: its buffers and caches, and its pin area. -/
def Core.kept (k : Core) : Core := { k with tb := [], l1 := [], icache := [], vbuf := [], vbufAt := 0, pin := [] }

/-- A context without the hits of its pinned windows. -/
def Ctx.kept (c : Ctx) : Ctx := { c with lpwHit := [] }

/-- From s to t only what accesses change has changed. -/
structure Accessed (s t : State) : Prop where
  rest : t.kept = s.kept
  cores : ∀ c, (t.core c).kept = (s.core c).kept
  ctxs : ∀ c, (tget t.ctxs c).map Ctx.kept = (tget s.ctxs c).map Ctx.kept

theorem Accessed.refl (s : State) : Accessed s s := ⟨rfl, fun _ => rfl, fun _ => rfl⟩

theorem Accessed.trans {s t u : State} (h : Accessed s t) (g : Accessed t u) : Accessed s u :=
  ⟨g.rest.trans h.rest, fun c => (g.cores c).trans (h.cores c), fun c => (g.ctxs c).trans (h.ctxs c)⟩

/-- The state of a result, by the equation that gives the result. -/
theorem Accessed.of_eq {α : Type} {s t : State} {x : State × α} {y : α} (h : Accessed s x.1) (e : x = (t, y)) : Accessed s t := by
  rw [e] at h; exact h

theorem Accessed.ite {s t u : State} (b : Prop) [Decidable b] (h : Accessed s t) (g : Accessed s u) : Accessed s (if b then t else u) := by
  split <;> assumption

/-- A fold of accesses is an access. -/
theorem Accessed.foldl {α : Type} {f : State → α → State} (hf : ∀ s x, Accessed s (f s x)) : ∀ (l : List α) (s : State), Accessed s (l.foldl f s)
  | [], s => Accessed.refl s
  | x :: l, s => (hf s x).trans (Accessed.foldl hf l _)

theorem Accessed.plots {s t : State} (h : Accessed s t) : t.plots = s.plots := by have e := congrArg State.plots h.rest; exact e
theorem Accessed.tracts {s t : State} (h : Accessed s t) : t.tracts = s.tracts := by have e := congrArg State.tracts h.rest; exact e
theorem Accessed.sowings {s t : State} (h : Accessed s t) : t.sowings = s.sowings := by have e := congrArg State.sowings h.rest; exact e
theorem Accessed.copies {s t : State} (h : Accessed s t) : t.copies = s.copies := by have e := congrArg State.copies h.rest; exact e
theorem Accessed.reqs {s t : State} (h : Accessed s t) : t.reqs = s.reqs := by have e := congrArg State.reqs h.rest; exact e
theorem Accessed.nextId {s t : State} (h : Accessed s t) : t.nextId = s.nextId := by have e := congrArg State.nextId h.rest; exact e
theorem Accessed.cycle {s t : State} (h : Accessed s t) : t.cycle = s.cycle := by have e := congrArg State.cycle h.rest; exact e
theorem Accessed.time {s t : State} (h : Accessed s t) : t.time = s.time := by have e := congrArg State.time h.rest; exact e
theorem Accessed.issueQ {s t : State} (h : Accessed s t) : t.issueQ = s.issueQ := by have e := congrArg State.issueQ h.rest; exact e
theorem Accessed.cur {s t : State} (h : Accessed s t) : t.cur = s.cur := by have e := congrArg State.cur h.rest; exact e
theorem Accessed.locked {s t : State} (h : Accessed s t) : t.locked = s.locked := by have e := congrArg State.locked h.rest; exact e
theorem Accessed.thread? {s t : State} (h : Accessed s t) (r : Ref) : t.thread? r = s.thread? r := State.thread?_of_plots h.plots r
theorem Accessed.spads {s t : State} (h : Accessed s t) : SpadsSame s t := fun n x => State.spadByte_of_plots h.plots n x

theorem accessed_of_same {s t : State} (h : t.kept = s.kept) (hk : t.cores = s.cores) (hc : t.ctxs = s.ctxs) : Accessed s t :=
  ⟨h, fun c => by rw [State.core_of_cores hk], fun c => by rw [hc]⟩

/-- A change of what a core buffers. -/
theorem accessed_modCore (s : State) (c : Nat) (f : Core → Core) (h : ∀ k, (f k).kept = k.kept) : Accessed s (s.modCore c f) := by
  refine ⟨rfl, fun x => ?_, fun _ => rfl⟩
  rw [State.core_modCore]
  split
  · subst_vars; exact h _
  · rfl

/-! ## Operations on memory and tags -/

theorem State.countUnsown_accessed (s : State) (a : Nat) : Accessed s (s.countUnsown a) := by
  rw [State.countUnsown]; split <;> exact accessed_of_same rfl rfl rfl

theorem tget_hitsOf (l m : Tab Ctx) (c : Nat) : (tget (hitsOf l m) c).map Ctx.kept = (tget l c).map Ctx.kept := by
  have h : hitsOf l m = l.map fun e => (e.1, { e.2 with lpwHit := ((tget m e.1).map Ctx.lpwHit).getD e.2.lpwHit }) := rfl
  rw [h, tget_map l fun k c => { c with lpwHit := ((tget m k).map Ctx.lpwHit).getD c.lpwHit }, Option.map_map]
  rfl

theorem State.touch_accessed (s : State) (c : Nat) (e : TbEntry) (va pa n : Nat) (w y : Bool) : Accessed s (s.touch c e va pa n w y) :=
  ⟨rfl, fun _ => rfl, fun x => tget_hitsOf s.ctxs _ x⟩

theorem State.sowRow_accessed (s : State) (y : Nat) (k : Option Nat) : Accessed s (s.sowRow y k) := by
  simp only [State.sowRow]; split <;> exact accessed_of_same rfl rfl rfl

theorem State.writeLocal_accessed (s : State) (w : Option Ref) (a : Nat) (l : List Byte) (k : Option Nat) (src : Option SyncSrc) :
    Accessed s (s.writeLocal w a l k src) := by
  rw [State.writeLocal]
  split
  · exact Accessed.refl s
  · have h1 := s.sowRow_accessed (lineOf a) k
    have h2 := h1.trans (State.sowRow_accessed _ (lineOf (a + l.length - 1)) k)
    exact (Accessed.ite _ h1 h2).trans (accessed_of_same rfl rfl rfl)

theorem State.rdPlace_accessed (s : State) (c : Nat) (e : TbEntry) (va pa n : Nat) (y : Bool) : Accessed s (s.rdPlace c e va pa n y).1 := by
  rw [State.rdPlace]
  split
  · exact Accessed.refl s
  · exact (s.touch_accessed c e va pa n false y).trans (State.countUnsown_accessed _ _)

theorem State.wrPhys_accessed (s : State) (c : Nat) (w : Option Ref) (e : TbEntry) (va pa : Nat) (l : List Byte) (src : Option SyncSrc) (y : Bool) :
    Accessed s (s.wrPhys c w e va pa l src y) := by
  rw [State.wrPhys]
  split
  · refine Accessed.trans ?_ (accessed_modCore _ _ _ fun _ => rfl)
    exact accessed_of_same rfl rfl rfl
  · exact (s.touch_accessed c e va pa l.length true y).trans (State.writeLocal_accessed ..)

/-! ## Translation -/

theorem State.writePte_accessed (s : State) (pa v : Nat) : Accessed s (s.writePte pa v) :=
  (s.touch_accessed 128 s.physAt 0 pa 8 true true).trans (State.writeLocal_accessed ..)

theorem State.markLeaf_accessed (s : State) (p va lvl a : Nat) (priv shd : Bool) (own : Nat) : Accessed s (s.markLeaf p va lvl a priv shd own) :=
  Accessed.foldl (fun s e => s.writePte_accessed e _) _ s

theorem State.fillTb_accessed (s : State) (c : Nat) (e : TbEntry) : Accessed s (s.fillTb c e) :=
  Accessed.ite _ (Accessed.refl s) (accessed_modCore _ _ _ fun _ => rfl)

theorem State.linesHome_accessed (s : State) (e : TbEntry) : Accessed s (s.linesHome e) := by
  rw [State.linesHome]; split <;> exact accessed_of_same rfl rfl rfl

theorem State.dropTb_accessed (s : State) (c ctx va : Nat) : Accessed s (s.dropTb c ctx va) := accessed_modCore _ _ _ fun _ => rfl

theorem State.makeShared_accessed (s : State) (ctx va p lvl a : Nat) : Accessed s (s.makeShared ctx va p lvl a) :=
  ((s.linesHome_accessed _).trans (State.markLeaf_accessed ..)).trans (State.dropTb_accessed ..)

theorem State.walkCounted_accessed (s : State) (ctx va : Nat) : Accessed s (s.walkCounted ctx va).1 := by
  have hc : ∀ l, Accessed s (s.countWalk l) := fun l =>
    Accessed.foldl (f := fun s a => if devOf a = s.device then s.countUnsown (localOf a) else s)
      (fun s a => Accessed.ite _ (s.countUnsown_accessed _) (Accessed.refl s)) l s
  simp only [State.walkCounted]
  split
  · split
    · exact hc _
    · exact Accessed.refl s
  · exact Accessed.refl s

theorem State.walkFor_accessed (s : State) (c ctx va : Nat) : Accessed s (s.walkFor c ctx va).1 := by
  rw [State.walkFor]
  split
  · next h => exact (s.walkCounted_accessed ctx va).of_eq h
  · next t p lvl a h =>
    have hw := (s.walkCounted_accessed ctx va).of_eq h
    split
    · exact hw.trans (t.fillTb_accessed _ _)
    split
    · dsimp only
      split
      · exact hw
      · exact hw.trans ((t.makeShared_accessed ..).trans (State.fillTb_accessed ..))
    · exact hw.trans ((t.markLeaf_accessed ..).trans (State.fillTb_accessed ..))

theorem State.xlate_accessed (s : State) (c ctx va acc : Nat) : Accessed s (s.xlate c ctx va acc).1 := by
  rw [State.xlate]
  split
  · exact Accessed.refl s
  · have hm : Accessed s (match (if c < 128 then tbFind (s.core c).tb ctx va else none) with
        | some e => (s, .ok e)
        | none => s.walkFor c ctx va : State × Except Nat TbEntry).1 := by
      split
      · exact Accessed.refl s
      · exact s.walkFor_accessed c ctx va
    dsimp only
    split
    · exact hm
    · split
      · exact hm
      · split <;> exact hm

/-! ## Other devices -/

theorem State.sendFlit_accessed (s : State) (p n : Nat) : Accessed s (s.sendFlit p n) := by
  rw [State.sendFlit]
  split
  · exact Accessed.refl s
  · split <;> exact accessed_of_same rfl rfl rfl

theorem State.usePort_accessed (s : State) (d : Nat) (rc : RC) : Accessed s (s.usePort d rc) := by
  rw [State.usePort]
  split
  · exact s.sendFlit_accessed _ _
  · exact Accessed.refl s

theorem State.freeBytes_accessed (s : State) (n : Nat) : Accessed s (s.freeBytes n).1 := accessed_of_same rfl rfl rfl

theorem State.draw_accessed (s : State) : Accessed s s.draw.2 := accessed_of_same rfl rfl rfl

theorem State.farAnswer_accessed (s : State) (pa : Nat) (rc : RC) : Accessed s (s.farAnswer pa rc).1 := by
  rw [State.farAnswer]
  split
  · exact Accessed.refl s
  · exact (s.usePort_accessed _ rc).trans (State.draw_accessed _)

theorem State.sendBytes_accessed (s : State) (l : List (Nat × Byte)) : Accessed s (s.sendBytes l) := by
  rw [State.sendBytes]; split <;> exact accessed_of_same rfl rfl rfl

/-! ## Accesses at a virtual address -/

theorem State.pread_accessed (s : State) (c ctx va n acc : Nat) (rc : RC) : Accessed s (s.pread c ctx va n acc rc).1 := by
  rw [State.pread]
  have hx := s.xlate_accessed c ctx va acc
  split
  · next h => exact hx.of_eq h
  · next t e h =>
    have ht := hx.of_eq h
    split
    · exact ht
    split
    · exact ht
    split
    · exact ht
    split
    · have hf := t.farAnswer_accessed (e.pa va) rc
      split
      · next h => exact ht.trans (hf.of_eq h)
      · next h => exact ht.trans ((hf.of_eq h).trans (State.freeBytes_accessed _ n))
    · exact ht.trans (State.rdPlace_accessed ..)

theorem State.pwrite_accessed (s : State) (c ctx : Nat) (w : Option Ref) (va : Nat) (l : List Byte) (acc : Nat) (src : Option SyncSrc) (rc : RC) :
    Accessed s (s.pwrite c ctx w va l acc src rc).1 := by
  rw [State.pwrite]
  have hx := s.xlate_accessed c ctx va acc
  split
  · next h => exact hx.of_eq h
  · next t e h =>
    have ht := hx.of_eq h
    split
    · exact ht
    split
    · exact ht
    split
    · exact ht
    split
    · have hf := t.farAnswer_accessed (e.pa va) rc
      split
      · next h => exact ht.trans (hf.of_eq h)
      · next h => exact ht.trans ((hf.of_eq h).trans (State.sendBytes_accessed _ _))
    · exact ht.trans (State.wrPhys_accessed ..)

/-! ## Views -/

theorem State.ttEntry_accessed (s : State) (c ctx id acc : Nat) : Accessed s (s.ttEntry c ctx id acc).1 := by
  rw [State.ttEntry]
  split
  · exact Accessed.refl s
  · next x _ =>
    split
    · exact Accessed.refl s
    · have hp := s.pread_accessed c ctx ((x.ttbase.toNat + 64 * id) % 2 ^ 64) 64 acc .a
      split
      · next h => exact hp.of_eq h
      · next h => exact hp.of_eq h

/-- An entry that is read only where a view names one. -/
theorem State.ttEntry_if_accessed (s : State) (b : Bool) (c ctx id acc : Nat) :
    Accessed s (if b then s.ttEntry c ctx id acc else (s, .ok (some 0)) : State × Except Nat (Option Nat)).1 := by
  cases b
  · exact Accessed.refl s
  · exact s.ttEntry_accessed c ctx id acc

theorem State.viewEnts_accessed (s : State) (c ctx id : Nat) : Accessed s (s.viewEnts c ctx id).1 := by
  rw [State.viewEnts]
  have hv := s.ttEntry_accessed c ctx id accTensor
  split
  · next h => exact hv.of_eq h
  · next h => exact hv.of_eq h
  · next s1 v h =>
    have h1 := hv.of_eq h
    split
    · exact h1
    have hb := s1.ttEntry_accessed c ctx (viewBaseId v) accTensor
    split
    · next h => exact h1.trans (hb.of_eq h)
    · next h => exact h1.trans (hb.of_eq h)
    · next s2 b h =>
      have h2 := h1.trans (hb.of_eq h)
      split
      · exact h2
      have h3 := h2.trans (s2.ttEntry_if_accessed (viewGath v) c ctx (viewGidx v) accTensor)
      dsimp only
      split
      · exact h3
      · exact h3
      · next g _ =>
        split
        · exact h3
        have h4 := h3.trans (State.ttEntry_if_accessed _ (viewIlv v) c ctx (id + 1) accTensor)
        split
        · exact h4
        · exact h4
        · split <;> exact h4

theorem State.dropL1Line_accessed (s : State) (c pa : Nat) : Accessed s (s.dropL1Line c pa) := accessed_modCore _ _ _ fun _ => rfl

theorem State.dropVbuf_accessed (s : State) (c : Nat) : Accessed s (s.dropVbuf c) := accessed_modCore _ _ _ fun _ => rfl

theorem State.dropL1Va_accessed (s : State) (c ctx va : Nat) : Accessed s (s.dropL1Va c ctx va) := by
  rw [State.dropL1Va]
  split
  · exact s.dropL1Line_accessed _ _
  · exact Accessed.refl s

/-- The gleaner's read of an index element, where a view gathers (09 R212). -/
def State.readIndex (s : State) (core ctx : Nat) (ve : ViewEnts) (b0 : List Nat) (o : Nat) : State × Except Nat (List Nat) :=
  match viewIndex ve o with
  | .error c => (s, .error c)
  | .ok none => (s, .ok b0)
  | .ok (some a) =>
    match s.pread 128 ctx a 4 accLoad with
    | (s, .error c) => (s, .error c)
    | (s, .ok l) => ((if core < 128 then (s.dropL1Va core ctx a).dropVbuf core else s), .ok (b0.set (viewGdim ve.v) (leNat l)))

theorem State.readIndex_accessed (s : State) (c ctx : Nat) (ve : ViewEnts) (b0 : List Nat) (o : Nat) : Accessed s (s.readIndex c ctx ve b0 o).1 := by
  rw [State.readIndex]
  split
  · exact Accessed.refl s
  · exact Accessed.refl s
  · next a _ =>
    have hp := s.pread_accessed 128 ctx a 4 accLoad .a
    split
    · next h => exact hp.of_eq h
    · next h =>
      refine (hp.of_eq h).trans (Accessed.ite _ ?_ (Accessed.refl _))
      exact (State.dropL1Va_accessed _ c ctx a).trans (State.dropVbuf_accessed _ c)

theorem State.viewToBase_accessed (s : State) (c ctx : Nat) (ve : ViewEnts) (o : Nat) : Accessed s (s.viewToBase c ctx ve o).1 := by
  simp only [State.viewToBase]
  split
  · exact Accessed.refl s
  · next b0 _ =>
    have hi := s.readIndex_accessed c ctx ve b0 o
    rw [State.readIndex] at hi
    split
    · exact hi
    · split <;> exact hi

theorem State.viewByte_accessed (s : State) (c ctx : Nat) (ve : ViewEnts) (acc o : Nat) : Accessed s (s.viewByte c ctx ve acc o).1 := by
  rw [State.viewByte]
  have hb := s.viewToBase_accessed c ctx ve o
  split
  · next h => exact hb.of_eq h
  · next t a h =>
    have h1 := hb.of_eq h
    have hx := t.xlate_accessed 128 ctx a acc
    split
    · next h => exact h1.trans (hx.of_eq h)
    · next h =>
      have h2 := h1.trans (hx.of_eq h)
      split
      · exact h2
      · split <;> exact h2

theorem State.viewBytes_accessed (c ctx : Nat) (ve : ViewEnts) (acc : Nat) : ∀ (n o : Nat) (s : State), Accessed s (s.viewBytes c ctx ve acc o n).1
  | 0, _, s => Accessed.refl s
  | n + 1, o, s => (s.viewByte_accessed c ctx ve acc o).trans (State.viewBytes_accessed c ctx ve acc n (o + 1) _)

theorem State.readSectors_accessed (s : State) (l : List (Nat × TbEntry)) : Accessed s (s.readSectors l) := by
  refine Accessed.foldl (fun s q => ?_) _ s
  split
  · exact Accessed.ite _ (Accessed.refl s) (s.rdPlace_accessed ..)
  · exact Accessed.refl s

theorem State.viewTake_accessed : ∀ (l : List (Nat × TbEntry)) (s : State), Accessed s (s.viewTake l).1
  | [], s => Accessed.refl s
  | (a, e) :: l, s => by
    have h1 : Accessed s (if s.away e (e.pa a) then s.freeBytes 1 else let (own, i) := s.placeOf e (e.pa a); (s, s.placeBytes own i 1) : State × List Byte).1 := by
      split
      · exact s.freeBytes_accessed 1
      · exact Accessed.refl s
    exact h1.trans (State.viewTake_accessed l _)

theorem State.viewRead_accessed (s : State) (l : List (Nat × TbEntry)) : Accessed s (s.viewRead l).1 :=
  (s.readSectors_accessed l).trans (State.viewTake_accessed l _)

theorem State.writeSector_accessed (s : State) (w : Option Ref) (src : Option SyncSrc) (l : List ((Nat × TbEntry) × Byte)) :
    Accessed s (s.writeSector w src l) := by
  cases l with
  | nil => exact Accessed.refl s
  | cons x l => exact Accessed.ite _ (s.sendBytes_accessed _) (Accessed.foldl (fun s x => s.wrPhys_accessed ..) _ s)

theorem State.viewWrite_accessed (s : State) (w : Option Ref) (src : Option SyncSrc) (bs : List (Nat × TbEntry)) (l : List Byte) :
    Accessed s (s.viewWrite w src bs l) :=
  Accessed.foldl (fun s _ => s.writeSector_accessed w src _) _ s

theorem State.viewAnswer_accessed (s : State) (l : List (Nat × TbEntry)) (rc : RC) : Accessed s (s.viewAnswer l rc).1 := by
  rw [State.viewAnswer]
  split
  · exact Accessed.refl s
  · exact s.farAnswer_accessed _ rc

theorem State.dropViewLines_accessed (s : State) (c : Nat) (l : List (Nat × TbEntry)) : Accessed s (s.dropViewLines c l) :=
  Accessed.ite _ (Accessed.refl s) (Accessed.foldl (fun s _ => s.dropL1Line_accessed c _) l s)

theorem State.dropVbuf_if_accessed (s : State) (c : Nat) : Accessed s (if c < 128 then s.dropVbuf c else s) :=
  Accessed.ite _ (s.dropVbuf_accessed c) (Accessed.refl s)

theorem State.dropLine_if_accessed (s : State) (c pa : Nat) : Accessed s (if c < 128 then (s.dropL1Line c pa).dropVbuf c else s) :=
  Accessed.ite _ ((s.dropL1Line_accessed c pa).trans (State.dropVbuf_accessed _ c)) (Accessed.refl s)

/-! ## Any page, any length -/

theorem State.anyRead_accessed (s : State) (c ctx va n acc : Nat) (rc : RC) : Accessed s (s.anyRead c ctx va n acc rc).1 := by
  rw [State.anyRead]
  have hx := s.xlate_accessed c ctx va acc
  split
  · next h => exact hx.of_eq h
  · next t e h =>
    have h1 := hx.of_eq h
    split
    · have hv := t.viewEnts_accessed c ctx e.tid
      split
      · next h => exact h1.trans (hv.of_eq h)
      · next t2 ve h =>
        have h2 := h1.trans (hv.of_eq h)
        have hb := State.viewBytes_accessed c ctx ve acc n (e.shadow va) t2
        split
        · next h => exact h2.trans (hb.of_eq h)
        · next t3 l h =>
          have h3 := h2.trans (hb.of_eq h)
          split
          · exact h3
          · have ha := t3.viewAnswer_accessed l rc
            split
            · next h => exact h3.trans (ha.of_eq h)
            · next t4 h =>
              have h4 := h3.trans (ha.of_eq h)
              exact h4.trans (((t4.dropViewLines_accessed c l).trans (State.viewRead_accessed _ l)).trans (State.dropVbuf_if_accessed _ c))
    · exact h1.trans ((t.pread_accessed c ctx va n acc rc).trans (State.dropLine_if_accessed _ c _))

theorem State.anyWrite_accessed (s : State) (c ctx : Nat) (w : Option Ref) (va : Nat) (l : List Byte) (acc : Nat) (src : Option SyncSrc) (rc : RC) :
    Accessed s (s.anyWrite c ctx w va l acc src rc).1 := by
  rw [State.anyWrite]
  have hx := s.xlate_accessed c ctx va acc
  split
  · next h => exact hx.of_eq h
  · next t e h =>
    have h1 := hx.of_eq h
    split
    · have hv := t.viewEnts_accessed c ctx e.tid
      split
      · next h => exact h1.trans (hv.of_eq h)
      · next t2 ve h =>
        have h3 := (h1.trans (hv.of_eq h)).trans (State.viewBytes_accessed c ctx ve acc l.length (e.shadow va) t2)
        dsimp only
        split
        · exact h3
        · next bs _ =>
          split
          · exact h3
          · have ha := State.viewAnswer_accessed (t2.viewBytes c ctx ve acc (e.shadow va) l.length).1 bs rc
            split
            · next h => exact h3.trans (ha.of_eq h)
            · next t4 h =>
              have h4 := h3.trans (ha.of_eq h)
              exact h4.trans (((t4.viewWrite_accessed w src bs l).trans (State.dropViewLines_accessed _ c bs)).trans (State.dropVbuf_if_accessed _ c))
    · exact h1.trans ((t.pwrite_accessed c ctx w va l acc src rc).trans (State.dropLine_if_accessed _ c _))

theorem State.rangeRead_accessed (rc : RC) (c ctx acc : Nat) : ∀ (fuel va n : Nat) (s : State), Accessed s (s.rangeRead rc c ctx acc fuel va n).1
  | 0, _, _, s => Accessed.refl s
  | fuel + 1, va, n, s => by
    rw [State.rangeRead]
    split
    · exact Accessed.refl s
    · have ha := s.anyRead_accessed c ctx va (chunk va n) acc rc
      dsimp only
      split
      · next h => exact ha.of_eq h
      · next t l h =>
        have hr := State.rangeRead_accessed rc c ctx acc fuel (va + chunk va n) (n - chunk va n) t
        split
        · next h' => exact (ha.of_eq h).trans (hr.of_eq h')
        · next h' => exact (ha.of_eq h).trans (hr.of_eq h')

theorem State.rangeWrite_accessed (rc : RC) (c ctx : Nat) (w : Option Ref) (acc : Nat) (src : Option SyncSrc) :
    ∀ (fuel va : Nat) (l : List Byte) (s : State), Accessed s (s.rangeWrite rc c ctx w acc src fuel va l).1
  | 0, _, _, s => Accessed.refl s
  | fuel + 1, va, l, s => by
    rw [State.rangeWrite]
    split
    · exact Accessed.refl s
    · have ha := s.anyWrite_accessed c ctx w va (l.take (chunk va l.length)) acc src rc
      dsimp only
      split
      · next h => exact ha.of_eq h
      · next h => exact (ha.of_eq h).trans (State.rangeWrite_accessed rc c ctx w acc src fuel _ _ _)

/-! ## The delivery of records (21 R389) -/

theorem State.recSlot_accessed (s : State) (ctx : Nat) : Accessed s (s.recSlot ctx).1 := by
  rw [State.recSlot]
  split
  · exact Accessed.refl s
  · next c _ =>
    have hp := s.pread_accessed 128 ctx c.frqh.toNat 64 accEngRead .a
    split
    · next h => exact hp.of_eq h
    · next h =>
      have h1 := hp.of_eq h
      dsimp only
      split
      · exact h1
      · split <;> exact h1

theorem State.flushOne_plots (s : State) (ctx : Nat) : (s.flushOne ctx).1.plots = s.plots := by
  rw [State.flushOne]
  split
  · rfl
  · next c _ =>
    split
    · rfl
    · next f rest _ =>
      have hr := s.recSlot_accessed ctx
      split
      · next h => exact (hr.of_eq h).plots
      · next h => exact (hr.of_eq h).plots
      · next t n a h =>
        have h1 := hr.of_eq h
        have hp := t.pwrite_accessed 128 ctx none a (recBytes f) accEngWrite none .a
        split
        · next h => exact (h1.trans (hp.of_eq h)).plots
        · next u _ h =>
          have h2 := h1.trans (hp.of_eq h)
          have hq := u.pwrite_accessed 128 ctx none c.frqh.toNat (natLe 8 (n + 1)) accEngWrite (some { agent := u.deviceAgent, scope := .sys }) .a
          split
          · next h => exact (h2.trans (hq.of_eq h)).plots
          · next h => exact (h2.trans (hq.of_eq h)).plots

theorem State.flushRecs_plots (ctx : Nat) : ∀ (n : Nat) (s : State), (s.flushRecs ctx n).plots = s.plots
  | 0, _ => rfl
  | n + 1, s => by
    rw [State.flushRecs]
    dsimp only
    split
    · rw [State.flushRecs_plots ctx n, s.flushOne_plots]
    · exact s.flushOne_plots ctx

/-- Delivering records changes no thread. -/
theorem State.deliverRecs_plots (s : State) (ctx : Nat) : (s.deliverRecs ctx).plots = s.plots := by
  rw [State.deliverRecs]
  have h1 := State.flushRecs_plots ctx (s.heldCount ctx) s
  split
  · exact h1
  · have hr := (s.flushRecs ctx (s.heldCount ctx)).recSlot_accessed ctx
    split
    · next h => exact (hr.of_eq h).plots.trans h1
    · next h => exact (hr.of_eq h).plots.trans h1

end Sys2Proof.Machine
end

section
/-! LAWS. Row instructions: the rendezvous before them, their execution over a completed row, shuffles and votes (01 R26, 07 R149 to R154). -/

namespace Sys2Proof.Machine

/-! ## A completed rendezvous -/

/-- The effect of a row instruction in one lane. -/
def rowEffect (guard : Thread → Bool) (eff : RowView → Nat → Env → Thread → Thread) (v : RowView) (cycle : Nat) : Ref → Plot → Thread → Thread :=
  fun r p th => if guard th then eff v r.lane { k := p.k, tid := r.tid, cycle := cycle } th else th

/-- A lane's part of a row instruction over the row as its rendezvous found it (07 R149). -/
def rowLane (guard : Thread → Bool) (ops : List (Reg × Nat)) (eff : RowView → Nat → Env → Thread → Thread) (v : RowView) : LaneFn := fun s r p t =>
  if !guard t then (s, .next)
  else if !t.inRanges ops then (s, .trap trapRange 0 0)
  else (s.setThread r (eff v r.lane (s.env r p) t), .next)

theorem runRow_group {s : State} (guard : Thread → Bool) (ops : List (Reg × Nat)) (eff : RowView → Nat → Env → Thread → Thread) (h : s.cur.group = true) :
    runRow guard ops eff s = runLanes (rowLane guard ops eff (rowView s guard ops)) s := by
  rw [runRow, if_pos h]; rfl

/-- A row instruction whose registers are in range, issued by a completed rendezvous. -/
theorem rowComputes_of_run {i : Instr} {guard guard' : Thread → Bool} {ops : List (Reg × Nat)} {eff eff' : RowView → Nat → Env → Thread → Thread}
    (hx : ∀ s, exec i s = .next (runRow guard ops eff s)) (hg : ∀ t, guard t = guard' t) (he : ∀ v j e t, eff v j e t = eff' v j e t)
    (hpc : ∀ v j e t, (eff v j e t).pc = t.pc) : RowComputes i guard' ops eff' := by
  obtain rfl : guard = guard' := funext hg
  obtain rfl : eff = eff' := by funext v j e t; exact he v j e t
  intro s hgrp hn hr
  refine ⟨_, hx s, ?_⟩
  rw [runRow_group guard ops eff hgrp]
  have hgo := runLanes_next (F := rowLane guard ops eff (rowView s guard ops)) (f := rowEffect guard eff (rowView s guard ops) s.cycle) (s := s)
    (fun _ _ _ => rfl) hn fun r hrl t p th ht hp hth hs _ => by
      have hc : t.cycle = s.cycle := by rw [ht]
      rw [rowEffect, rowLane]
      by_cases hgd : guard th = true
      · simp only [hgd, Bool.not_true, Bool.false_eq_true, if_false, hr r hrl th hs hgd, if_true, State.env, hc]
      · simp only [hgd, Bool.not_false, if_true, Bool.false_eq_true, if_false, State.setThread_self hp hth]
  refine hgo.congr fun r p th => ?_
  rw [rowEffect, Thread.pc4]
  split <;> simp [hpc]

/-! ## RBALLOT -/

/-- One present lane whose predicate is set. -/
def rowHas (v : RowView) (q j : Nat) : Bool := match v.getD j none with | some (_, t) => t.pred q | none => false

/-- A mask that gathers a bit for each lane below n. -/
def maskUpTo (b : Nat → Bool) : Nat → Nat
  | 0 => 0
  | n + 1 => maskUpTo b n + (if b n then 2 ^ n else 0)

theorem maskUpTo_lt (b : Nat → Bool) : ∀ n, maskUpTo b n < 2 ^ n
  | 0 => by simp [maskUpTo]
  | n + 1 => by
    have := maskUpTo_lt b n
    rw [maskUpTo, Nat.pow_succ]; split <;> omega

theorem testBit_maskUpTo (b : Nat → Bool) : ∀ n j, j < n → (maskUpTo b n).testBit j = b j
  | n + 1, j, h => by
    have hlt := maskUpTo_lt b n
    have hor : maskUpTo b (n + 1) = maskUpTo b n ||| (if b n then 2 ^ n else 0) := by
      rw [maskUpTo]
      cases b n
      · simp
      · simpa [Nat.add_comm] using (Nat.two_pow_add_eq_or_of_lt hlt 1).trans (Nat.or_comm ..)
    rw [hor, Nat.testBit_or]
    by_cases hj : j = n
    · subst hj
      rw [Nat.testBit_lt_two_pow hlt]
      cases b j <;> simp
    · rw [testBit_maskUpTo b n j (by omega)]
      cases b n <;> simp [Ne.symm hj]

theorem rowBallot_eq (v : RowView) (q : Nat) : rowBallot v q = maskUpTo (rowHas v q) 64 := by
  have h : ∀ n, (List.range n).foldl (fun m j => match v.getD j none with | some (_, t) => if t.pred q then m + 2 ^ j else m | none => m) 0 =
      maskUpTo (rowHas v q) n := by
    intro n
    induction n with
    | zero => rfl
    | succ n ih =>
      rw [List.range_succ, List.foldl_append, ih, maskUpTo, rowHas]
      simp only [List.foldl_cons, List.foldl_nil]
      cases v.getD n none with
      | none => simp
      | some x => dsimp only; split <;> simp [*]
  exact h 64

/-- Bit j of the mask of RBALLOT is the predicate of lane j, 0 where it is absent (07 R151). -/
theorem getLsbD_rowBallot (v : RowView) (q j : Nat) (h : j < 64) : (BitVec.ofNat 64 (rowBallot v q)).getLsbD j = rowHas v q j := by
  rw [BitVec.getLsbD_ofNat, rowBallot_eq, testBit_maskUpTo _ 64 j h]
  simp [h]

/-! ## Reaching a row instruction -/

/-- What a lane does that reaches a row instruction by itself (01 R26, 07 R149, 21 R375). -/
def rowWaitLane : LaneFn := fun s _ _ t => (s, if t.sup then .trap trapIllegal 0 0 else .rendezvous)

/-- A row instruction that no rendezvous issues. -/
theorem exec_row_alone {i : Instr} {s : State} (hi : isRow i = true) (hg : s.cur.group = false) : exec i s = .next (runLanes rowWaitLane s) := by
  have hr : ∀ guard ops eff, runRow guard ops eff s = runLanes rowWaitLane s := fun guard ops eff => by
    rw [runRow, if_neg (by simp [hg])]; rfl
  cases i <;> simp only [isRow, Bool.false_eq_true] at hi <;> exact congrArg Host.Outcome.next (hr ..)

/-- A thread parked with a record: its place is the headland, and its registers are as they were. -/
theorem State.parkThread_thread? {s : State} {r : Ref} {t : Thread} (f : FaultRec) (pc : DWord) (h : s.thread? r = some t) :
    (s.parkThread r f pc).thread? r = some { t with place := .headland .parked, pc := pc, pflt := true } := by
  have hb : (s.startBudget r).plots = s.plots := by
    rw [State.startBudget]; split
    · rfl
    · split <;> rfl
  have h1 : (s.startBudget r).thread? r = some t := (State.thread?_of_plots hb r).trans h
  have h2 := State.thread?_modThread_same (fun t => { t with pc := pc, pflt := true }) (State.toHeadland_only .parked h1).1
  exact (State.thread?_of_plots rfl r).trans h2

/-- In its handler a trap parks the one lane (21 R375). -/
theorem OneLane.run_double {s : State} {r : Ref} {p : Plot} {th : Thread} {F : LaneFn} {code imm : Nat} {ea : DWord} (h : OneLane s r p th)
    (hF : F s r p th = (s, .trap code imm ea)) (hs : th.sup = true) :
    (runLanes F s).thread? r = some { th with place := .headland .parked, pflt := true } := by
  rw [h.run hF rfl, State.settle_one, if_pos (by rfl)]
  refine (State.thread?_of_plots (State.deliverRecs_plots _ _) r).trans ?_
  rw [State.settleLane]
  dsimp only
  rw [State.takeTrap_double _ code imm ea h.thread hs]
  exact State.parkThread_thread? _ th.pc h.thread

/-- Settles O16: over a completed row by the run of its lanes, and before it by what the one lane does. -/
theorem rowShufflesAndVotes : Obligations.RowShufflesAndVotes := by
  unfold Obligations.RowShufflesAndVotes
  refine ⟨⟨fun d a b g => ?_, fun d a b g => ?_, fun d a n g => ?_, fun d q g => ?_, fun p q g => ?_, fun p q g => ?_, fun v q j h => getLsbD_rowBallot v q j h⟩,
    fun i s r p th hi h hg => ⟨fun hs => ⟨_, exec_row_alone hi hg, ?_⟩, fun hs => ⟨_, exec_row_alone hi hg, ?_⟩⟩⟩
  · exact rowComputes_of_run (fun s => rfl) (guardTR_eq g) (fun _ _ _ _ => rfl) fun _ _ _ _ => Thread.pc_wr32 ..
  · exact rowComputes_of_run (fun s => rfl) (guardTR_eq g) (fun _ _ _ _ => rfl) fun _ _ _ _ => Thread.pc_wr32 ..
  · exact rowComputes_of_run (fun s => rfl) (guardTR_eq g) (fun _ _ _ _ => rfl) fun _ _ _ _ => Thread.pc_wr32 ..
  · exact rowComputes_of_run (fun s => rfl) (guardTR_eq g) (fun _ _ _ _ => rfl) fun _ _ _ _ => Thread.pc_wr64 ..
  · exact rowComputes_of_run (fun s => rfl) (guardTR_eq g) (fun _ _ _ _ => rfl) fun _ _ _ _ => Thread.pc_setPred ..
  · exact rowComputes_of_run (fun s => rfl) (guardTR_eq g) (fun _ _ _ _ => rfl) fun _ _ _ _ => Thread.pc_setPred ..
  · have hF : rowWaitLane s r p th = (s, .rendezvous) := by simp [rowWaitLane, hs]
    rw [h.run_quiet hF rfl]
    exact State.toHeadland_only .rendezvous h.thread
  · exact h.run_double (by simp only [rowWaitLane, hs, if_true]; rfl) hs

end Sys2Proof.Machine
end

section
/-! LAWS. The rendezvous of a row: its groups in the order of their PCs, and their execution as drills (01 R26, 07 R149, 11 R249). -/

namespace Sys2Proof.Machine

/-! ## Fetching code -/

theorem State.rdPhys_accessed (s : State) (c : Nat) (e : TbEntry) (va pa n : Nat) : Accessed s (s.rdPhys c e va pa n).1 := s.rdPlace_accessed ..

theorem State.codeLine_accessed (s : State) (c : Nat) (e : TbEntry) (va pa : Nat) : Accessed s (s.codeLine c e va pa).1 := by
  rw [State.codeLine]
  split
  · exact s.freeBytes_accessed 128
  · exact s.rdPhys_accessed ..

theorem State.fetchFar_accessed (s : State) (c : Nat) (e : TbEntry) (va pa : Nat) : Accessed s (s.fetchFar c e va pa).1 := by
  simp only [State.fetchFar]
  split
  · exact s.freeBytes_accessed 4
  · exact s.rdPhys_accessed ..

theorem State.refreshCode_accessed (s : State) (c pa : Nat) (l : List Byte) : Accessed s (s.refreshCode c pa l) := accessed_modCore _ _ _ fun _ => rfl

/-- A code line enters the instruction cache. -/
theorem State.keepCode_accessed (s : State) (c : Nat) (x : L1Line) : Accessed s (s.modCore c fun k => { k with icache := (x :: k.icache).take icacheLines }) :=
  accessed_modCore _ _ _ fun _ => rfl

theorem State.fetchCode_accessed (s : State) (c : Nat) (e : TbEntry) (va pa : Nat) : Accessed s (s.fetchCode c e va pa).1 := by
  rw [State.fetchCode]
  split
  · exact Accessed.refl s
  split
  · exact s.fetchFar_accessed c e va pa
  split
  · split
    · exact Accessed.refl s
    · exact (s.rdPhys_accessed c e va pa 4).trans (State.refreshCode_accessed _ c pa _)
  · have hl := s.codeLine_accessed c e va pa
    exact hl.trans (State.keepCode_accessed ..)

theorem State.fetchAt_accessed (s : State) (c ctx va : Nat) : Accessed s (s.fetchAt c ctx va).1 := by
  rw [State.fetchAt]
  have hx := s.xlate_accessed c ctx va accFetch
  split
  · next h => exact hx.of_eq h
  · next t e h =>
    have h1 := hx.of_eq h
    split
    · exact h1
    split
    · exact h1
    · exact h1.trans (t.fetchCode_accessed c e va _)

theorem State.fetchGroups_accessed (c ctx : Nat) : ∀ (l : List RowGroup) (s : State), Accessed s (s.fetchGroups c ctx l).1
  | [], s => Accessed.refl s
  | g :: l, s => (s.fetchAt_accessed c ctx g.pc.toNat).trans (State.fetchGroups_accessed c ctx l _)

/-! ## Groups -/

/-- A group without its word. -/
def RowGroup.key (g : RowGroup) : Nat × DWord × List Nat := (g.row, g.pc, g.tids)

/-- Fetching their words leaves rows, PCs and threads of the groups. -/
theorem State.fetchGroups_key (c ctx : Nat) : ∀ (l : List RowGroup) (s : State), (s.fetchGroups c ctx l).2.map RowGroup.key = l.map RowGroup.key
  | [], _ => rfl
  | g :: l, s => by
    rw [State.fetchGroups]
    exact congrArg (g.key :: ·) (State.fetchGroups_key c ctx l _)

/-- A thread stands in a group of its PC. -/
def InGroup (l : List RowGroup) (i : Nat) (pc : DWord) : Prop := ∃ g ∈ l, g.pc = pc ∧ i ∈ g.tids

theorem groupInsert_has (row i : Nat) (pc : DWord) : ∀ l : List RowGroup, InGroup (groupInsert row l (i, pc)) i pc
  | [] => ⟨_, List.mem_singleton_self _, rfl, List.mem_singleton_self _⟩
  | g :: l => by
    rw [groupInsert]
    split
    · exact ⟨_, List.mem_cons_self, ‹_›, by simp⟩
    split
    · exact ⟨_, List.mem_cons_self, rfl, by simp [newGroup]⟩
    · obtain ⟨x, hx, h⟩ := groupInsert_has row i pc l
      exact ⟨x, List.mem_cons_of_mem _ hx, h⟩

theorem groupInsert_keeps (row : Nat) (x : Nat × DWord) {j : Nat} {pc : DWord} : ∀ l : List RowGroup, InGroup l j pc → InGroup (groupInsert row l x) j pc
  | g :: l, ⟨y, hy, hpc, hj⟩ => by
    rw [groupInsert]
    rcases List.mem_cons.mp hy with rfl | hy
    · split
      · exact ⟨_, List.mem_cons_self, hpc, by simp [hj]⟩
      split
      · exact ⟨y, by simp, hpc, hj⟩
      · exact ⟨y, List.mem_cons_self, hpc, hj⟩
    · split
      · exact ⟨y, by simp [hy], hpc, hj⟩
      split
      · exact ⟨y, by simp [hy], hpc, hj⟩
      · obtain ⟨z, hz, h⟩ := groupInsert_keeps row x l ⟨y, hy, hpc, hj⟩
        exact ⟨z, List.mem_cons_of_mem _ hz, h⟩

theorem groupInsert_row (row : Nat) (x : Nat × DWord) : ∀ l : List RowGroup, (∀ g ∈ l, g.row = row) → ∀ g ∈ groupInsert row l x, g.row = row
  | [], _, g, hg => by rw [List.mem_singleton.mp hg]; rfl
  | y :: l, h, g, hg => by
    have hy := h y List.mem_cons_self
    have hl : ∀ g ∈ l, g.row = row := fun g hg => h g (List.mem_cons_of_mem _ hg)
    rw [groupInsert] at hg
    split at hg
    · rcases List.mem_cons.mp hg with rfl | hg
      · exact hy
      · exact hl g hg
    split at hg
    · rcases List.mem_cons.mp hg with rfl | hg
      · rfl
      · exact h g hg
    · rcases List.mem_cons.mp hg with rfl | hg
      · exact hy
      · exact groupInsert_row row x l hl g hg

/-- A group after an insertion is at the PC inserted, or at one there was. -/
theorem groupInsert_pc (row : Nat) (x : Nat × DWord) : ∀ l : List RowGroup, ∀ g ∈ groupInsert row l x, g.pc = x.2 ∨ ∃ h ∈ l, h.pc = g.pc
  | [], g, hg => .inl (by rw [List.mem_singleton.mp hg]; rfl)
  | y :: l, g, hg => by
    rw [groupInsert] at hg
    split at hg
    · rcases List.mem_cons.mp hg with rfl | hg
      · exact .inr ⟨y, List.mem_cons_self, rfl⟩
      · exact .inr ⟨g, List.mem_cons_of_mem _ hg, rfl⟩
    split at hg
    · rcases List.mem_cons.mp hg with rfl | hg
      · exact .inl rfl
      · exact .inr ⟨g, hg, rfl⟩
    · rcases List.mem_cons.mp hg with rfl | hg
      · exact .inr ⟨g, List.mem_cons_self, rfl⟩
      · exact (groupInsert_pc row x l g hg).imp id fun ⟨h, hh, e⟩ => ⟨h, List.mem_cons_of_mem _ hh, e⟩

/-- The groups stay in ascending PC. -/
theorem groupInsert_sorted (row : Nat) (x : Nat × DWord) : ∀ l : List RowGroup, l.Pairwise (fun g h => g.pc < h.pc) →
    (groupInsert row l x).Pairwise fun g h => g.pc < h.pc
  | [], _ => List.pairwise_singleton ..
  | y :: l, h => by
    obtain ⟨hy, hl⟩ := List.pairwise_cons.mp h
    rw [groupInsert]
    split
    · exact List.pairwise_cons.mpr ⟨hy, hl⟩
    split
    · next hlt =>
      refine List.pairwise_cons.mpr ⟨fun g hg => ?_, h⟩
      rcases List.mem_cons.mp hg with rfl | hg
      · exact hlt
      · exact BitVec.lt_trans hlt (hy g hg)
    · next hne hnlt =>
      refine List.pairwise_cons.mpr ⟨fun g hg => ?_, groupInsert_sorted row x l hl⟩
      rcases groupInsert_pc row x l g hg with e | ⟨z, hz, e⟩
      · rw [e]; bv_omega
      · rw [← e]; exact hy z hz

/-- The groups that threads of a row make: of that row, in ascending PC, each thread in the group of its PC. -/
theorem foldl_groupInsert (row : Nat) : ∀ (l : List (Nat × Thread)) (gs : List RowGroup), gs.Pairwise (fun g h => g.pc < h.pc) → (∀ g ∈ gs, g.row = row) →
    (l.foldl (fun gs x => groupInsert row gs (x.1, x.2.pc)) gs).Pairwise (fun g h => g.pc < h.pc) ∧
    (∀ g ∈ l.foldl (fun gs x => groupInsert row gs (x.1, x.2.pc)) gs, g.row = row) ∧
    ∀ i pc, InGroup gs i pc ∨ (∃ x ∈ l, x.1 = i ∧ x.2.pc = pc) → InGroup (l.foldl (fun gs x => groupInsert row gs (x.1, x.2.pc)) gs) i pc
  | [], gs, hs, hr => ⟨hs, hr, fun i pc h => h.elim id fun ⟨_, hx, _⟩ => absurd hx List.not_mem_nil⟩
  | x :: l, gs, hs, hr => by
    obtain ⟨h1, h2, h3⟩ := foldl_groupInsert row l (groupInsert row gs (x.1, x.2.pc)) (groupInsert_sorted row _ gs hs) (groupInsert_row row _ gs hr)
    refine ⟨h1, h2, fun i pc h => h3 i pc ?_⟩
    rcases h with h | ⟨y, hy, rfl, rfl⟩
    · exact .inl (groupInsert_keeps row _ gs h)
    · rcases List.mem_cons.mp hy with rfl | hy
      · exact .inl (groupInsert_has row y.1 y.2.pc gs)
      · exact .inr ⟨y, hy, rfl, rfl⟩

theorem Plot.rowGroups_spec (p : Plot) (row : Nat) : (p.rowGroups row).Pairwise (fun g h => g.pc < h.pc) ∧ (∀ g ∈ p.rowGroups row, g.row = row) ∧
    ∀ x ∈ p.threads, x.1 / 64 = row → x.2.live = true → InGroup (p.rowGroups row) x.1 x.2.pc := by
  obtain ⟨h1, h2, h3⟩ := foldl_groupInsert row ((p.row row).filter fun x => x.2.live) [] List.Pairwise.nil (by simp)
  refine ⟨h1, h2, fun x hx hr hl => h3 _ _ (.inr ⟨x, List.mem_filter.mpr ⟨List.mem_filter.mpr ⟨hx, by simp [hr]⟩, hl⟩, rfl, rfl⟩)⟩

/-- The same of groups with these rows, PCs and threads. -/
theorem groups_of_key {l gs : List RowGroup} {row : Nat} (hk : gs.map RowGroup.key = l.map RowGroup.key) (h1 : l.Pairwise (fun g h => g.pc < h.pc))
    (h2 : ∀ g ∈ l, g.row = row) : gs.Pairwise (fun g h => g.pc < h.pc) ∧ (∀ g ∈ gs, g.row = row) ∧ ∀ i pc, InGroup l i pc → InGroup gs i pc := by
  refine ⟨?_, fun g hg => ?_, fun i pc ⟨g, hg, hpc, hi⟩ => ?_⟩
  · have hp : (l.map RowGroup.key).Pairwise fun x y => x.2.1 < y.2.1 := List.pairwise_map.mpr h1
    rw [← hk] at hp
    exact (List.pairwise_map (f := RowGroup.key) (R := fun x y => x.2.1 < y.2.1)).mp hp
  · have hm : g.key ∈ l.map RowGroup.key := hk ▸ List.mem_map_of_mem hg
    obtain ⟨y, hy, e⟩ := List.mem_map.mp hm
    exact (congrArg Prod.fst e).symm.trans (h2 y hy)
  · have hm : g.key ∈ gs.map RowGroup.key := hk ▸ List.mem_map_of_mem hg
    obtain ⟨y, hy, e⟩ := List.mem_map.mp hm
    exact ⟨y, hy, (congrArg (fun z => z.2.1) e).trans hpc, by have ht : y.tids = g.tids := congrArg (fun z => z.2.2) e; rw [ht]; exact hi⟩

/-! ## Lanes in order -/

theorem laneInsert_perm (r : Ref) : ∀ l : List Ref, (laneInsert l r).Perm (r :: l)
  | [] => List.Perm.refl _
  | x :: l => by
    rw [laneInsert]
    split
    · exact ((laneInsert_perm r l).cons x).trans (List.Perm.swap r x l)
    · exact List.Perm.refl _

/-- Putting lanes in order loses none and repeats none. -/
theorem byLane_perm (l : List Ref) : (byLane l).Perm l := by
  have h : ∀ (l a : List Ref), (l.foldl laneInsert a).Perm (l ++ a) := by
    intro l
    induction l with
    | nil => exact fun a => List.Perm.refl a
    | cons r l ih => exact fun a => (ih (laneInsert a r)).trans (((laneInsert_perm r a).append_left l).trans List.perm_middle)
  exact (h l []).trans (by rw [List.append_nil])

theorem mem_byLane {r : Ref} {l : List Ref} : r ∈ byLane l ↔ r ∈ l := (byLane_perm l).mem_iff

/-! ## The rendezvous -/

theorem State.modPlot_thread? (s : State) (n : Nat) (f : Plot → Plot) (hf : ∀ p, (f p).threads = p.threads) (r : Ref) : (s.modPlot n f).thread? r = s.thread? r := by
  rw [State.thread?, State.thread?, State.modPlot_plots, tget_tmod]
  by_cases h : r.tag = n
  · rw [if_pos h]; cases tget s.plots r.tag <;> simp [hf]
  · rw [if_neg h]

/-- A complete rendezvous with no thread about to stop makes its groups (01 R26). -/
theorem State.rowRendezvous_complete {s : State} {tag row : Nat} {p : Plot} (hp : tget s.plots tag = some p) (hpl : s.plotPlaced tag = true)
    (hc : p.rowComplete row = true) (hs : ∀ x ∈ p.threads, x.2.stopReq = false) (ha : allFetched (s.fetchGroups p.core p.ctx (p.rowGroups row)).2 = true) :
    s.rowRendezvous tag row = (s.fetchGroups p.core p.ctx (p.rowGroups row)).1.modPlot tag fun q =>
      { q with groups := q.groups ++ (s.fetchGroups p.core p.ctx (p.rowGroups row)).2 } := by
  have hst : (((p.row row).filter fun x => x.2.live).filter fun x => x.2.stopReq) = [] := by
    rw [List.filter_eq_nil_iff]
    intro x hx
    simp [hs x (List.mem_of_mem_filter (List.mem_of_mem_filter hx))]
  rw [State.rowRendezvous]
  simp only [hp, hc, hpl, Bool.and_self, Bool.not_true, Bool.false_eq_true, if_false, hst, List.isEmpty_nil, ha, if_true]

/-- A group with a slot free, all of whose threads wait and none stops, becomes a drill that executes next (01 R26, log 54). -/
theorem State.rowGroup_runs {s : State} {tag row slot : Nat} {p : Plot} {g : RowGroup} (hp : tget s.plots tag = some p) (hpl : s.plotPlaced tag = true)
    (hg : p.groups.find? (fun g => g.row == row) = some g) (hr : s.groupReady tag g = true) (hf : tfree (s.core p.core).drills 0 256 = some slot)
    (hne : g.tids ≠ []) (hw : ∀ i ∈ g.tids, ∃ th, s.thread? ⟨tag, i⟩ = some th ∧ th.place = .headland .rendezvous ∧ th.stopReq = false) :
    s.rowGroup tag row =
      { (s.modPlot tag fun p => p.dropGroup g).newDrill p.core slot (byLane (g.tids.map fun i => ⟨tag, i⟩)) false (some g.word) with
        issueQ := (p.core, slot) :: s.issueQ } := by
  let l := g.tids.map fun i => (⟨tag, i⟩ : Ref)
  have hgo : ∀ r ∈ l, ∃ th, s.thread? r = some th ∧ th.atRendezvous = true ∧ th.stopReq = false := by
    intro r h
    obtain ⟨i, hi, rfl⟩ := List.mem_map.mp h
    obtain ⟨th, ht, hpl, hst⟩ := hw i hi
    exact ⟨th, ht, by simp [Thread.atRendezvous, hpl], hst⟩
  have hhere : ∀ P : Ref → Bool, (∀ r th, s.thread? r = some th → P r = th.atRendezvous) → l.filter P = l := fun P hP =>
    List.filter_eq_self.mpr fun r h => by obtain ⟨th, ht, hat, -⟩ := hgo r h; rw [hP r th ht, hat]
  have hstops : ∀ P : Ref → Bool, (∀ r th, s.thread? r = some th → P r = th.stopReq) → l.filter P = [] := fun P hP =>
    List.filter_eq_nil_iff.mpr fun r h => by obtain ⟨th, ht, -, hst⟩ := hgo r h; rw [hP r th ht, hst]; simp
  have hfirst : p.firstGroup row = some g := hg
  rw [State.rowGroup]
  simp only [hp, hfirst, hf, hpl, hr, Bool.and_self, Bool.not_true, Bool.false_eq_true, if_false]
  have hgoes : ∀ P : Ref → Bool, (∀ r th, s.thread? r = some th → P r = th.stopReq) → (l.filter fun r => !(l.filter P).contains r) = l := fun P hP => by
    rw [hstops P hP]; simp
  have hemp : l.isEmpty = false := by simp [l, hne]
  rw [hhere _ fun r th h => by rw [h], hgoes _ fun r th h => by rw [h], hstops _ fun r th h => by rw [h], hemp]
  rfl

/-- Settles O36: the groups by insertion in the order of PCs, and their drill by the forming of drills. -/
theorem rowGroupsExecute : Obligations.RowGroupsExecute := by
  unfold Obligations.RowGroupsExecute
  intro s tag row p hp hpl
  refine ⟨fun hc hs ha => ?_, fun g slot hg hr hf hne _ hw => ?_⟩
  · obtain ⟨h1, h2, h3⟩ := p.rowGroups_spec row
    obtain ⟨k1, k2, k3⟩ := groups_of_key (s.fetchGroups_key p.core p.ctx (p.rowGroups row)) h1 h2
    have hq : tget (s.fetchGroups p.core p.ctx (p.rowGroups row)).1.plots tag = some p := by rw [(State.fetchGroups_accessed ..).plots, hp]
    refine ⟨_, _, (s.fetchGroups p.core p.ctx (p.rowGroups row)).2, congrArg Host.Outcome.next (State.rowRendezvous_complete hp hpl hc hs ha), ?_, rfl, rfl, k1, k2,
      fun x hx hr hl => k3 _ _ (h3 x hx hr hl)⟩
    rw [State.modPlot_plots, tget_tmod, if_pos rfl, hq]
    rfl
  · refine ⟨_, _, congrArg Host.Outcome.next (State.rowGroup_runs hp hpl hg hr hf hne hw), rfl, State.newDrill_drill .., rfl, fun r => ?_, fun i hi th ht => ?_⟩
    · rw [mem_byLane, List.mem_map]
      constructor
      · rintro ⟨i, hi, rfl⟩; exact ⟨rfl, hi⟩
      · rintro ⟨rfl, h⟩; exact ⟨r.tid, h, rfl⟩
    · refine (State.newDrill_thread? _ p.core slot _ false (some g.word) _).trans ?_
      rw [if_pos (mem_byLane.mpr (List.mem_map_of_mem hi)), State.modPlot_thread? _ _ _ (fun _ => by rfl), ht]
      rfl

end Sys2Proof.Machine
end

section
/-! LAWS. The debug service (21 R371, R395 to R399): a stopped thread's state, the write that takes effect as it is filed, resume of a thread and of a
still tract, the single step, and the kill. -/

namespace Sys2Proof.Machine

/-! ## A debugger's write -/

theorem Thread.wbOk_iff (t : Thread) (v : Nat) (h : v < 2 ^ 32) : t.wbOk (BitVec.ofNat 32 v) = true ↔ v % 4 = 0 ∧ v + 4 ≤ t.ra := by
  have hv : (BitVec.ofNat 32 v).toNat = v := by rw [BitVec.toNat_ofNat, Nat.mod_eq_of_lt h]
  simp [Thread.wbOk, hv]

theorem bits_lt (v hi lo : Nat) : bits v hi lo < 2 ^ (hi - lo + 1) := Nat.mod_lt _ (by positivity)

/-- A write is taken where WB and EWB are values that the thread can take (03 R46). -/
theorem Thread.takesWrite_iff (t : Thread) (image : BitVec 2048) : t.takesWrite image = true ↔
    bits image.toNat 111 96 % 4 = 0 ∧ bits image.toNat 111 96 + 4 ≤ t.ra ∧ bits image.toNat 1199 1184 % 4 = 0 ∧ bits image.toNat 1199 1184 + 4 ≤ t.ra := by
  have h1 := bits_lt image.toNat 111 96
  have h2 := bits_lt image.toNat 1199 1184
  rw [Thread.takesWrite, Bool.and_eq_true, Thread.wbOk_iff _ _ (by omega), Thread.wbOk_iff _ _ (by omega), and_assoc]

/-- What a thread that is filed keeps of itself beside a write: its place, and what stops it. -/
theorem Thread.withWrite_keeps (t : Thread) : t.withWrite.place = t.place ∧ t.withWrite.stepping = t.stepping ∧ t.withWrite.stopReq = t.stopReq ∧
    t.withWrite.bkptStop = t.bkptStop := by
  rw [Thread.withWrite]; split <;> exact ⟨rfl, rfl, rfl, rfl⟩

theorem Thread.withWrite_stopReq (t : Thread) (b : Bool) : ({ t with stopReq := b } : Thread).withWrite = { t.withWrite with stopReq := b } := by
  simp only [Thread.withWrite]; split <;> rfl

theorem Thread.resumePc_withWrite (t : Thread) : t.withWrite.resumePc = if t.bkptStop.isSome then t.withWrite.pc + 4 else t.withWrite.pc := by
  rw [Thread.resumePc, t.withWrite_keeps.2.2.2]; rfl

/-- The register of a block that a write reaches. -/
theorem Thread.fromBlock_reg (t : Thread) (l : List Word) (i : Nat) (hl : i < l.length) (hr : i < t.ra) : (t.fromBlock l).regs.getD i 0 = l.getD i 0 := by
  have hi : i < t.regs.length := hr
  rw [Thread.fromBlock]
  simp [List.getD_eq_getElem?_getD, hi, hl]

/-! ## Stopped threads -/

theorem State.stopped?_of_place {s : State} {r : Ref} {t : Thread} (h : s.thread? r = some t) (hp : t.place = .headland .stopped) : s.stopped? r = some t := by
  rw [State.stopped?]; simp [h, Thread.stopped, hp]

theorem State.stopped?_some {s : State} {r : Ref} {t : Thread} (h : s.stopped? r = some t) : s.thread? r = some t ∧ t.place = .headland .stopped := by
  rw [State.stopped?] at h
  split at h
  · split at h
    · next u hu hs => cases h; exact ⟨hu, by simpa [Thread.stopped] using hs⟩
    · cases h
  · cases h

/-- A thread as a resume files it (21 R397). -/
def Thread.resumed (t : Thread) : Thread := { t.withWrite with pc := t.withWrite.resumePc, noMatch := true, bkptStop := none, place := .filed }

theorem Thread.resumed_eq (t : Thread) : t.resumed =
    { t.withWrite with pc := if t.bkptStop.isSome then t.withWrite.pc + 4 else t.withWrite.pc, noMatch := true, bkptStop := none, place := .filed } := by
  rw [Thread.resumed, Thread.resumePc_withWrite]

/-- A stopped thread that nothing is about to stop is filed, and no other thread changes (21 R397). -/
theorem State.resumeStopped_files {s : State} {r : Ref} {t : Thread} (h : s.thread? r = some t) (hp : t.place = .headland .stopped) (hg : t.stopsWhenFiled = false) :
    (s.resumeStopped r).thread? r = some t.resumed ∧ (∀ q, q ≠ r → (s.resumeStopped r).thread? q = s.thread? q) ∧ Shift s (s.resumeStopped r) := by
  have hw : ({ t.withWrite with noMatch := true, bkptStop := none } : Thread).stopsWhenFiled = false := by
    rw [Thread.stopsWhenFiled] at hg ⊢
    rw [← hg, ← t.withWrite_keeps.2.1, ← t.withWrite_keeps.2.2.1]
  have h1 := threadOnly_modThread (fun _ => { t.withWrite with noMatch := true, bkptStop := none }) h
  have h2 := State.fileThread_only t.withWrite.resumePc (rankWake r) h1.1 hw
  have he : s.resumeStopped r = (s.setThread r { t.withWrite with noMatch := true, bkptStop := none }).fileThread r t.withWrite.resumePc (rankWake r) := by
    rw [State.resumeStopped]; simp only [State.stopped?_of_place h hp]
  obtain ⟨hr, ho, -, -⟩ := h1.trans h2
  rw [he]
  exact ⟨hr, ho, (shift_modThread s r _).trans (shift_fileThread _ _ h1.1 hw)⟩

/-! ## A stop elsewhere -/

/-- From s to t every plot keeps its tract, and plots of the tracts other than m keep all but their threads named r. -/
structure StopsIn (m : Nat → Prop) (r : Ref) (s t : State) : Prop where
  tract : ∀ n, (tget t.plots n).map Plot.tract = (tget s.plots n).map Plot.tract
  others : ∀ n p, n ≠ r.tag → tget s.plots n = some p → ¬m p.tract → tget t.plots n = some p

theorem StopsIn.trans {m : Nat → Prop} {r : Ref} {s t u : State} (h : StopsIn m r s t) (g : StopsIn m r t u) : StopsIn m r s u :=
  ⟨fun n => (g.tract n).trans (h.tract n), fun n p hn hp hm => g.others n p hn (h.others n p hn hp hm) hm⟩

theorem stopsIn_of_plots {m : Nat → Prop} {r : Ref} {s t : State} (h : t.plots = s.plots) : StopsIn m r s t :=
  ⟨fun n => by rw [h], fun n p _ hp _ => by rw [h]; exact hp⟩

theorem stopsIn_modThread (m : Nat → Prop) (s : State) (r : Ref) (f : Thread → Thread) : StopsIn m r s (s.modThread r f) :=
  ⟨fun n => s.plot_modThread r f Plot.tract (fun _ _ => rfl) n, fun n p hn hp _ => by rw [State.modThread_plots, tget_tmod_ne _ _ hn]; exact hp⟩

theorem stopsIn_leaveDrill (m : Nat → Prop) (s : State) (r : Ref) : StopsIn m r s (s.leaveDrill r) := stopsIn_of_plots (s.leaveDrill_plots r)

/-- What a still stop does to one plot (21 R399). -/
def Plot.stilled (m : Nat) (p : Plot) : Plot :=
  if p.tract = m then { p with threads := p.threads.map fun (i, t) =>
    (i, match t.place with | .headland .stopped => t | .exited => t | _ => { t with stopReq := true }) } else p

theorem Plot.stilled_tract (m : Nat) (p : Plot) : (p.stilled m).tract = p.tract := by rw [Plot.stilled]; split <;> rfl

theorem State.stillTract_plots (s : State) (m : Nat) : (s.stillTract m).plots = s.plots.map fun e => (e.1, e.2.stilled m) := rfl

theorem stopsIn_stillTract (s : State) (r : Ref) (m : Nat) : StopsIn (fun x => x = m) r s (s.stillTract m) where
  tract n := by
    rw [State.stillTract_plots, tget_map s.plots fun _ => Plot.stilled m, Option.map_map]
    cases tget s.plots n <;> simp [Plot.stilled_tract]
  others n p _ hp hm := by
    rw [State.stillTract_plots, tget_map s.plots fun _ => Plot.stilled m, hp, Option.map_some, Plot.stilled, if_neg hm]

/-- A stop of a thread reaches, beside it, threads of its own tract only (21 R399). -/
theorem stopsIn_stopThread {s : State} {r : Ref} {p : Plot} (hp : tget s.plots r.tag = some p) (b : Option Nat) :
    StopsIn (fun x => x = p.tract) r s (s.stopThread r b) := by
  rw [State.stopThread]
  let u : State := (s.toHeadland r .stopped).modThread r fun t => { t with stopReq := false, stepping := false, noMatch := true, bkptStop := b }
  let v : State := { u with debug := u.debug ++ [.stopped r b] }
  have hu : StopsIn (fun x => x = p.tract) r s u := ((stopsIn_leaveDrill _ s r).trans (stopsIn_modThread _ _ r _)).trans (stopsIn_modThread _ _ r _)
  have hv : StopsIn (fun x => x = p.tract) r s v := hu.trans (stopsIn_of_plots rfl)
  split
  · exact hv
  · next q hq =>
    have ht : q.tract = p.tract := by
      have := hv.tract r.tag
      rw [hp] at this
      have hq' : tget v.plots r.tag = some q := hq
      rw [hq'] at this
      exact Option.some.inj this
    split
    · split
      · rw [ht]; exact hv.trans (stopsIn_stillTract v r p.tract)
      · exact hv
    · exact hv

theorem stopsIn_fileThread {s : State} {r : Ref} {p : Plot} (hp : tget s.plots r.tag = some p) (pc : DWord) (n : Nat) :
    StopsIn (fun x => x = p.tract) r s (s.fileThread r pc n) := by
  have hl := stopsIn_leaveDrill (fun x => x = p.tract) s r
  rw [State.fileThread]
  split
  · exact hl
  · next t _ =>
    split
    · have hs := hl.trans (stopsIn_modThread _ (s.leaveDrill r) r fun _ => { t with pc := pc })
      have hq := hs.tract r.tag
      rw [hp] at hq
      obtain ⟨q, hq1, hq2⟩ := Option.map_eq_some_iff.mp hq
      exact hs.trans (hq2 ▸ stopsIn_stopThread hq1 none)
    · have hs := hl.trans (stopsIn_modThread _ (s.leaveDrill r) r fun _ => { t with pc := pc, place := .filed })
      split
      · exact hs
      · exact hs.trans (stopsIn_of_plots rfl)

theorem stopsIn_resumeStopped {s : State} {r : Ref} {p : Plot} (hp : tget s.plots r.tag = some p) : StopsIn (fun x => x = p.tract) r s (s.resumeStopped r) := by
  rw [State.resumeStopped]
  split
  · next t _ =>
    have hs := stopsIn_modThread (fun x => x = p.tract) s r fun _ => { t.withWrite with noMatch := true, bkptStop := none }
    have hq := hs.tract r.tag
    rw [hp] at hq
    obtain ⟨q, hq1, hq2⟩ := Option.map_eq_some_iff.mp hq
    exact hs.trans (hq2 ▸ stopsIn_fileThread hq1 _ _)
  · exact stopsIn_of_plots rfl

/-! ## Resume of a still tract (21 R399) -/

/-- The tract of the plot with a tag. -/
def State.tractAt (s : State) (tag : Nat) : Option Nat := (tget s.plots tag).map Plot.tract

/-- While a still tract is resumed: r stands in it, none of its threads is about to stop, and r is stopped as t, or has been filed. -/
structure Resuming (n : Nat) (r : Ref) (t : Thread) (s : State) : Prop where
  here : s.tractAt r.tag = some n
  free : ∀ q x, s.tractAt q.tag = some n → s.thread? q = some x → x.stopsWhenFiled = false
  thread : s.thread? r = some t ∨ s.thread? r = some t.resumed

theorem Thread.resumed_goes {t : Thread} (h : t.stopsWhenFiled = false) : t.resumed.stopsWhenFiled = false := by
  obtain ⟨-, h1, h2, -⟩ := t.withWrite_keeps
  rw [Thread.stopsWhenFiled] at h ⊢
  rw [← h, ← h1, ← h2]; rfl

/-- A resume of any thread keeps this, and of r itself it files it. -/
theorem Resuming.step {n : Nat} {r : Ref} {t : Thread} {s : State} (h : Resuming n r t s) (hp : t.place = .headland .stopped) (q : Ref) :
    Resuming n r t (s.resumeStopped q) ∧ (q = r ∨ s.thread? r = some t.resumed → (s.resumeStopped q).thread? r = some t.resumed) := by
  cases hs : s.stopped? q with
  | none =>
    have he : s.resumeStopped q = s := by rw [State.resumeStopped]; simp only [hs]
    rw [he]
    refine ⟨h, fun hq => hq.elim (fun e => ?_) id⟩
    rcases h.thread with ht | ht
    · rw [e, State.stopped?_of_place ht hp] at hs; cases hs
    · exact ht
  | some u =>
    obtain ⟨hu, hup⟩ := State.stopped?_some hs
    obtain ⟨p, hpq, -⟩ := State.thread?_some hu
    by_cases hn : p.tract = n
    · have hug := h.free q u (by rw [State.tractAt, hpq, ← hn]; rfl) hu
      obtain ⟨h1, h2, h3⟩ := State.resumeStopped_files hu hup hug
      have htr : ∀ k, (s.resumeStopped q).tractAt k = s.tractAt k := h3.plot Plot.tract fun _ => rfl
      have hfin : q = r → u = t := fun e => by
        subst e
        rcases h.thread with ht | ht <;> rw [ht] at hu <;> cases hu
        · rfl
        · cases hup
      refine ⟨⟨(htr _).trans h.here, fun y x hy hx => ?_, ?_⟩, fun hq => ?_⟩
      · by_cases e : y = q
        · rw [e, h1] at hx; cases hx; exact Thread.resumed_goes hug
        · exact h.free y x ((htr _).symm.trans hy) ((h2 y e).symm.trans hx)
      · by_cases e : q = r
        · right; rw [← e, h1, hfin e]
        · rw [h2 r (Ne.symm e)]; exact h.thread
      · by_cases e : q = r
        · rw [← e, h1, hfin e]
        · rw [h2 r (Ne.symm e)]; exact hq.resolve_left e
    · have hst := stopsIn_resumeStopped hpq
      have htr : ∀ k, (s.resumeStopped q).tractAt k = s.tractAt k := hst.tract
      have hsame : ∀ y : Ref, s.tractAt y.tag = some n → (s.resumeStopped q).thread? y = s.thread? y := by
        intro y hy
        obtain ⟨py, hpy, hyn⟩ := Option.map_eq_some_iff.mp hy
        have hne : y.tag ≠ q.tag := fun e => hn (by rw [e, hpq] at hpy; cases hpy; exact hyn)
        rw [State.thread?_of_plot (hst.others y.tag py hne hpy (by rw [hyn]; exact Ne.symm hn)), State.thread?_of_plot hpy]
      refine ⟨⟨(htr _).trans h.here, fun y x hy hx => ?_, by rw [hsame r h.here]; exact h.thread⟩, fun hq => ?_⟩
      · have hy' := (htr _).symm.trans hy
        exact h.free y x hy' ((hsame y hy').symm.trans hx)
      · rw [hsame r h.here]
        refine hq.resolve_left fun e => hn ?_
        have hr := h.here
        rw [← e, State.tractAt, hpq] at hr
        exact Option.some.inj hr

theorem Resuming.foldl {n : Nat} {r : Ref} {t : Thread} (hp : t.place = .headland .stopped) : ∀ (l : List Ref) (s : State), Resuming n r t s →
    (r ∈ l ∨ s.thread? r = some t.resumed) → (l.foldl State.resumeStopped s).thread? r = some t.resumed
  | [], _, _, hr => hr.resolve_left List.not_mem_nil
  | q :: l, s, h, hr => by
    obtain ⟨h1, h2⟩ := h.step hp q
    refine Resuming.foldl hp l _ h1 ?_
    rcases hr with hr | hr
    · rcases List.mem_cons.mp hr with e | hr
      · exact .inr (h2 (.inl e.symm))
      · exact .inl hr
    · exact .inr (h2 (.inr hr))

/-- The threads of a tract, in the order in which a resume files them. -/
def State.refsOf (s : State) (n : Nat) : List Ref := (s.plotsOf n).flatMap fun x => x.2.threads.map fun y => ⟨x.1, y.1⟩

theorem foldl_flatMap_map {α β γ δ : Type} (f : δ → γ → δ) (g : α → List β) (c : α → β → γ) : ∀ (l : List α) (s : δ),
    l.foldl (fun s x => (g x).foldl (fun s y => f s (c x y)) s) s = (l.flatMap fun x => (g x).map (c x)).foldl f s
  | [], _ => rfl
  | x :: l, s => by
    rw [List.foldl_cons, List.flatMap_cons, List.foldl_append, List.foldl_map, foldl_flatMap_map f g c l]

/-- A still tract as its resume begins: nothing of it is to stop any more. -/
def State.unstilled (s : State) (n : Nat) : State := (s.modTract n fun t => { t with still := false }).modTractThreads n fun t => { t with stopReq := false }

theorem State.resumeTract_eq (s : State) (n : Nat) : s.resumeTract n = ((s.unstilled n).refsOf n).foldl State.resumeStopped (s.unstilled n) :=
  foldl_flatMap_map State.resumeStopped (fun x : Nat × Plot => x.2.threads) (fun x y => (⟨x.1, y.1⟩ : Ref)) _ _

theorem State.unstilled_plot (s : State) (n k : Nat) : tget (s.unstilled n).plots k = (tget s.plots k).map fun p =>
    if p.tract = n then { p with threads := p.threads.map fun e => (e.1, { e.2 with stopReq := false }) } else p := by
  rw [show (s.unstilled n).plots = s.plots.map fun e => (e.1, if e.2.tract = n then
    { e.2 with threads := e.2.threads.map fun e => (e.1, { e.2 with stopReq := false }) } else e.2) from rfl]
  exact tget_map s.plots (fun _ p => if p.tract = n then { p with threads := p.threads.map fun e => (e.1, { e.2 with stopReq := false }) } else p) k

theorem State.mem_plotsOf {s : State} {n : Nat} {x : Nat × Plot} (hx : x ∈ s.plots) (hn : x.2.tract = n) (hi : x.2.index < 8) : x ∈ s.plotsOf n :=
  List.mem_flatMap.mpr ⟨x.2.index, List.mem_range.mpr hi, List.mem_filter.mpr ⟨List.mem_filter.mpr ⟨hx, by simp [hn]⟩, by simp⟩⟩

/-- A stopped thread of a still tract is filed by the tract's resume (21 R399). -/
theorem State.resumeTract_files {s : State} {r : Ref} {t : Thread} {p : Plot} (hp : tget s.plots r.tag = some p) (ht : s.thread? r = some t)
    (hst : t.place = .headland .stopped) (hi : p.index < 8) (hstep : ∀ y ∈ s.plots, y.2.tract = p.tract → ∀ z ∈ y.2.threads, z.2.stepping = false) :
    (s.resumeTract p.tract).thread? r = some ({ t with stopReq := false } : Thread).resumed := by
  let q : Plot := { p with threads := p.threads.map fun e => (e.1, { e.2 with stopReq := false }) }
  have hq : tget (s.unstilled p.tract).plots r.tag = some q := by rw [State.unstilled_plot, hp, Option.map_some, if_pos rfl]
  have hget : ∀ l : Tab Thread, ∀ i, tget (l.map fun e => (e.1, ({ e.2 with stopReq := false } : Thread))) i = (tget l i).map fun x => { x with stopReq := false } :=
    fun l i => tget_map l (fun _ x => { x with stopReq := false }) i
  have hti : tget q.threads r.tid = some { t with stopReq := false } := by
    have hti := State.thread?_of_plot hp (r := r)
    rw [ht] at hti
    rw [hget, ← hti]; rfl
  rw [State.resumeTract_eq]
  refine Resuming.foldl (n := p.tract) (t := { t with stopReq := false }) hst _ _ ⟨by rw [State.tractAt, hq]; rfl, fun y x hy hx => ?_, .inl (by rw [State.thread?_of_plot hq, hti])⟩ (.inl ?_)
  · obtain ⟨z, hz, hzi⟩ := State.thread?_some hx
    rw [State.tractAt, State.unstilled_plot] at hy
    rw [State.unstilled_plot] at hz
    obtain ⟨z0, hz0, rfl⟩ := Option.map_eq_some_iff.mp hz
    rw [hz0] at hy
    by_cases hn : z0.tract = p.tract
    · rw [if_pos hn, hget] at hzi
      obtain ⟨x0, hx0, rfl⟩ := Option.map_eq_some_iff.mp hzi
      have hmem := hstep (y.tag, z0) (mem_of_tget _ _ _ hz0) hn (y.tid, x0) (mem_of_tget _ _ _ hx0)
      rw [Thread.stopsWhenFiled, hmem]; rfl
    · simp [hn] at hy
  · exact List.mem_flatMap.mpr ⟨(r.tag, q), State.mem_plotsOf (mem_of_tget _ _ _ hq) rfl hi, List.mem_map.mpr ⟨_, mem_of_tget _ _ _ hti, rfl⟩⟩

/-! ## The kill (01 R14) -/

theorem State.exitThread_thread? {s : State} {r : Ref} {t : Thread} (h : s.thread? r = some t) :
    (s.exitThread r).thread? r = some { t with place := .exited, pflt := false } :=
  State.thread?_modThread_same _ ((State.thread?_of_plots (s.leaveDrill_plots r) r).trans h)

theorem State.writeImage_plots (s : State) (n : Nat) : (s.writeImage n).plots = s.plots := by
  rw [State.writeImage]
  split
  · rfl
  · split
    · rfl
    · exact (State.rangeWrite_accessed ..).plots

theorem State.imageFollows_plots (s : State) (r : Ref) : (s.imageFollows r).plots = s.plots := by
  rw [State.imageFollows]
  split
  · rfl
  · split
    · split
      · rfl
      · exact s.writeImage_plots _
    · rfl

/-- A kill ends a live thread. -/
theorem exec_debugKill {s : State} {tag tid : Nat} {th : Thread} (h : s.thread? ⟨tag, tid⟩ = some th) (hl : th.live = true) :
    ∃ t, exec (.debugKill tag tid) s = .next t ∧ Ended t ⟨tag, tid⟩ := by
  have hk : s.killThread ⟨tag, tid⟩ = s.exitThread ⟨tag, tid⟩ := by rw [State.killThread]; simp only [h, hl, if_true]
  refine ⟨_, rfl, { th with place := .exited, pflt := false }, ?_, rfl, rfl⟩
  rw [hk]
  exact (State.thread?_of_plots (State.imageFollows_plots _ _) _).trans (State.exitThread_thread? h)

/-! ## The steps of the service -/

theorem exec_debugSetComparator {s : State} {ctx n : Nat} {c : Ctx} (h : tget s.ctxs ctx = some c) (hn : n < 16) (cmp : Comparator) :
    ∃ t, exec (.debugSetComparator ctx n cmp) s = .next t ∧ t = { s with ctxs := t.ctxs } ∧ tget t.ctxs ctx = some { c with cmps := tput c.cmps n cmp } := by
  have he : s.setComparator ctx n cmp = s.modCtx ctx fun x => { x with cmps := tput x.cmps n cmp } := if_neg (by omega)
  refine ⟨_, rfl, ?_⟩
  rw [he]
  refine ⟨rfl, ?_⟩
  rw [State.modCtx_ctxs, tget_tmod, if_pos rfl, h]; rfl

theorem exec_debugSetControl {s : State} {ctx : Nat} {c : Ctx} (h : tget s.ctxs ctx = some c) (st hz bk : Bool) :
    ∃ t, exec (.debugSetControl ctx st hz bk) s = .next t ∧ t = { s with ctxs := t.ctxs } ∧ tget t.ctxs ctx = some { c with still := st, haz := hz, bks := bk } := by
  refine ⟨_, rfl, rfl, ?_⟩
  rw [State.setControl, State.modCtx_ctxs, tget_tmod, if_pos rfl, h]; rfl

theorem exec_debugReadState {s : State} {tag tid : Nat} {th : Thread} (h : s.thread? ⟨tag, tid⟩ = some th) (hp : th.place = .headland .stopped) :
    ∃ t, exec (.debugReadState tag tid) s = .next t ∧ t = { s with debug := t.debug } ∧
      t.debug = s.debug ++ [.state ⟨tag, tid⟩ (BitVec.ofNat 2048 (threadBits s.cycle th)) th.block] := by
  refine ⟨_, rfl, ?_⟩
  rw [State.debugRead, State.stopped?_of_place h hp]
  exact ⟨rfl, rfl⟩

/-- A write that the thread can take is kept until the thread is filed (21 R396). -/
theorem exec_debugWriteState {s : State} {tag tid : Nat} {th : Thread} (h : s.thread? ⟨tag, tid⟩ = some th) (hp : th.place = .headland .stopped)
    (image : BitVec 2048) (regs : List Word) (hw : th.takesWrite image = true) :
    ∃ t, exec (.debugWriteState tag tid image regs) s = .next t ∧ t = { s with plots := t.plots } ∧
      t.thread? ⟨tag, tid⟩ = some { th with written := some { image := image, regs := regs } } ∧ OthersSame s t ⟨tag, tid⟩ := by
  refine ⟨_, rfl, ?_⟩
  rw [State.debugWrite, State.stopped?_of_place h hp]
  dsimp only
  rw [if_pos hw]
  obtain ⟨h1, h2, -, -⟩ := threadOnly_modThread (fun _ => { th with written := some { image := image, regs := regs } }) h
  exact ⟨rfl, h1, h2⟩

/-- What a kept write leaves of the record and of the registers as the thread is filed (21 R396, log 37). -/
theorem Thread.withWrite_written {t : Thread} {image : BitVec 2048} (regs : List Word) (hw : t.takesWrite image = true) :
    let v := ({ t with written := some { image := image, regs := regs } } : Thread).withWrite
    v.place = t.place ∧ v.pc = BitVec.ofNat 64 (bits image.toNat 63 0) ∧ v.wb = bits image.toNat 111 96 ∧ v.ix = BitVec.ofNat 32 (bits image.toNat 159 128) ∧
      v.ra = t.ra ∧ v.written = none ∧ ∀ i, i < regs.length → i < t.ra → v.regs.getD i 0 = regs.getD i 0 := by
  rw [Thread.takesWrite, Bool.and_eq_true] at hw
  refine ⟨rfl, rfl, if_pos hw.1, rfl, ?_, rfl, fun i hl hr => Thread.fromBlock_reg _ regs i hl hr⟩
  show (Thread.fromBlock _ regs).regs.length = t.regs.length
  simp [Thread.fromBlock, Thread.fromRecord]

/-- A single step that can take its thread: the drill of the one thread, next to issue (21 R398). -/
theorem State.singleStep_runs {s : State} {r : Ref} {slot : Nat} {th : Thread} (h : s.thread? r = some th) (hp : th.place = .headland .stopped)
    (hf : tfree (s.core (s.coreOf r)).drills 0 256 = some slot) (hr : s.stepReady r th = true) :
    s.singleStep r = { (s.setThread r th.toStep).newDrill (s.coreOf r) slot [r] true none with
      issueQ := (s.coreOf r, slot) :: ((s.setThread r th.toStep).newDrill (s.coreOf r) slot [r] true none).issueQ } := by
  rw [State.singleStep, State.stopped?_of_place h hp]
  simp only [hf, hr, Bool.not_true, Bool.false_eq_true, if_false]

theorem exec_debugSingleStep {s : State} {tag tid slot : Nat} {th : Thread} (h : s.thread? ⟨tag, tid⟩ = some th) (hp : th.place = .headland .stopped)
    (hf : tfree (s.core (s.coreOf ⟨tag, tid⟩)).drills 0 256 = some slot) (hr : s.stepReady ⟨tag, tid⟩ th = true) :
    ∃ t d u, exec (.debugSingleStep tag tid) s = .next t ∧ t.issueQ = (s.coreOf ⟨tag, tid⟩, slot) :: s.issueQ ∧
      tget (t.core (s.coreOf ⟨tag, tid⟩)).drills slot = some d ∧ d.lanes = [⟨tag, tid⟩] ∧ d.single = true ∧
      t.thread? ⟨tag, tid⟩ = some u ∧ u.place = .drill slot ∧ u.stepping = true := by
  have hq := (shift_newDrill (s.setThread ⟨tag, tid⟩ th.toStep) (s.coreOf ⟨tag, tid⟩) slot [⟨tag, tid⟩] true none).issueQ
  have ht := State.newDrill_thread? (s.setThread ⟨tag, tid⟩ th.toStep) (s.coreOf ⟨tag, tid⟩) slot [⟨tag, tid⟩] true none ⟨tag, tid⟩
  rw [if_pos (List.mem_singleton_self _), State.setThread, State.thread?_modThread_same _ h] at ht
  exact ⟨_, _, _, congrArg Host.Outcome.next (State.singleStep_runs h hp hf hr), congrArg _ hq, State.newDrill_drill .., rfl, rfl, ht, rfl, rfl⟩

/-- Settles O55: each step of the service, a resume by the filing of a stopped thread or of the threads of its still tract. -/
theorem debugService : Obligations.DebugService := by
  unfold Obligations.DebugService
  refine fun s => ⟨fun ctx c n cmp h hn => exec_debugSetComparator h hn cmp, fun ctx c st hz bk h => exec_debugSetControl h st hz bk,
    fun tag tid th h => ⟨exec_debugKill h, fun hp => ?_⟩⟩
  have hresume : th.stepping = false → th.stopReq = false → (s.resumeStopped ⟨tag, tid⟩).thread? ⟨tag, tid⟩ = some { th.withWrite with
      pc := if th.bkptStop.isSome then th.withWrite.pc + 4 else th.withWrite.pc, noMatch := true, bkptStop := none, place := .filed } := fun h1 h2 => by
    rw [← Thread.resumed_eq]
    exact (State.resumeStopped_files h hp (by rw [Thread.stopsWhenFiled, h1, h2]; rfl)).1
  refine ⟨exec_debugReadState h hp, fun image regs => ⟨fun hw => ?_, fun hw => ?_⟩, fun hn h1 h2 => ⟨_, rfl, ?_⟩, fun n x hx => ⟨fun hf => ?_, fun hf hst h1 h2 => ⟨_, rfl, ?_⟩,
    fun hf hst h1 hi hz => ⟨_, rfl, ?_⟩, fun slot hfr hr => exec_debugSingleStep h hp hfr hr⟩⟩
  · have hw' := (th.takesWrite_iff image).mpr hw
    obtain ⟨t, ht, hs, hth, ho⟩ := exec_debugWriteState h hp image regs hw'
    exact ⟨t, ht, hs, hth, ho, Thread.withWrite_written regs hw'⟩
  · have hw' : th.takesWrite image = false := by rw [← Bool.not_eq_true, th.takesWrite_iff image]; exact hw
    have he : s.debugWrite ⟨tag, tid⟩ image regs = s := by
      rw [State.debugWrite, State.stopped?_of_place h hp]; simp [hw']
    exact congrArg Host.Outcome.next he
  · rw [State.debugResume, hn]; exact hresume h1 h2
  · have he : s.debugResume ⟨tag, tid⟩ = s := by rw [State.debugResume, hx]; simp [hf]
    exact congrArg Host.Outcome.next he
  · rw [State.debugResume, hx]; simp only [hf, hst, Bool.false_eq_true, if_false]; exact hresume h1 h2
  · rw [State.debugResume, hx]; simp only [hf, hst, Bool.false_eq_true, if_false, if_true]
    obtain ⟨p, hpl, -⟩ := State.thread?_some h
    have hn : p.tract = n := by
      rw [State.tractOf, hpl] at hx
      obtain ⟨y, -, e⟩ := Option.map_eq_some_iff.mp hx
      exact congrArg Prod.fst e
    subst hn
    rw [State.resumeTract_files hpl h hp (hi p hpl) hz, Thread.resumed_eq, Thread.withWrite_stopReq]

end Sys2Proof.Machine
end

section
/-! SUPPORT. An access of an ordinary page where nothing is to be walked for: what it reads, what it writes, and that it can be made again in a
state that looks the same to it (09 R172 to R179, Table 9.4). -/

namespace Sys2Proof.Machine

/-! ## Bytes and numbers -/

theorem leNat_lt : ∀ l : List Byte, leNat l < 256 ^ l.length
  | [] => by simp [leNat]
  | b :: l => by
    have h := leNat_lt l
    have hb : b.toNat < 256 := b.isLt
    rw [leNat, List.length_cons, Nat.pow_succ]
    omega

theorem leNat_natLe : ∀ n v, leNat (natLe n v) = v % 256 ^ n
  | 0, v => by simp [natLe, leNat, Nat.mod_one]
  | n + 1, v => by
    rw [natLe, leNat, leNat_natLe n, Nat.pow_succ, Nat.mul_comm (256 ^ n), Nat.mod_mul, BitVec.toNat_ofNat]

theorem natLe_leNat : ∀ l : List Byte, natLe l.length (leNat l) = l
  | [] => rfl
  | b :: l => by
    have hb : b.toNat < 256 := b.isLt
    rw [leNat, List.length_cons, natLe]
    have h1 : BitVec.ofNat 8 (b.toNat + 256 * leNat l) = b := by
      apply BitVec.eq_of_toNat_eq; rw [BitVec.toNat_ofNat]; omega
    have h2 : (b.toNat + 256 * leNat l) / 256 = leNat l := by omega
    rw [h1, h2, natLe_leNat l]

theorem State.leNat_placeBytes (s : State) (own : Option Nat) : ∀ n a, leNat (s.placeBytes own a n) = s.placeNat own a n := by
  have h : ∀ (m : Mem) n a, leNat (mreads m a n) = (if n = 0 then 0 else (mget m a).toNat + 256 * leNat (mreads m (a + 1) (n - 1))) := by
    intro m n a; cases n <;> rfl
  intro n
  induction n with
  | zero => intro a; cases own <;> rfl
  | succ n ih =>
    intro a
    rw [State.placeNat, ← ih]
    cases own <;> rfl

theorem State.leNat_spadRead (s : State) (tag : Nat) : ∀ n a, leNat (s.spadRead tag a n) = s.spadNat tag a n := by
  intro n
  induction n with
  | zero => intro a; rw [State.spadRead, State.spadNat]; cases tget s.plots tag <;> rfl
  | succ n ih =>
    intro a
    rw [State.spadNat, ← ih, State.spadRead, State.spadRead, State.spadByte]
    cases tget s.plots tag <;> rfl

theorem State.length_placeBytes (s : State) (own : Option Nat) (a n : Nat) : (s.placeBytes own a n).length = n := by
  cases own <;> exact length_mreads ..

/-- A number read from a place, by its bytes. -/
theorem State.placeNat_of_bytes {s : State} {own : Option Nat} : ∀ (l : List Byte) (a : Nat), (∀ i, i < l.length → s.placeByte own (a + i) = l.getD i 0) →
    s.placeNat own a l.length = leNat l
  | [], _, _ => rfl
  | b :: l, a, h => by
    have h0 := h 0 (by simp)
    rw [List.length_cons, State.placeNat, leNat, State.placeNat_of_bytes l (a + 1) fun i hi => by
      have := h (i + 1) (by simpa using hi)
      rw [Nat.add_assoc, Nat.add_comm 1 i]; simpa using this]
    rw [Nat.add_zero] at h0
    rw [h0]; rfl

/-! ## States with the same page tables -/

/-- The page tables of t read as those of s. -/
structure SameTables (s t : State) : Prop where
  mem : t.mem = s.mem
  locked : t.locked = s.locked
  root : ∀ c, (tget t.ctxs c).map Ctx.root = (tget s.ctxs c).map Ctx.root

theorem SameTables.device {s t : State} (h : SameTables s t) : t.device = s.device := by rw [State.device, State.device, h.locked]

theorem SameTables.pteAt {s t : State} (h : SameTables s t) (a : Nat) : t.pteAt a = s.pteAt a := by
  simp only [State.pteAt, State.readLocal, h.mem, h.device]

theorem SameTables.walkFrom {s t : State} (h : SameTables s t) (va : Nat) : ∀ lvl a, t.walkFrom va lvl a = s.walkFrom va lvl a := by
  have hr : ∀ a, t.runOk a = s.runOk a := fun a => by simp only [State.runOk, h.pteAt]
  intro lvl
  induction lvl with
  | zero => intro a; unfold State.walkFrom; simp only [h.pteAt, hr]
  | succ l ih => intro a; unfold State.walkFrom; simp only [h.pteAt, hr, ih]

theorem SameTables.walkReads {s t : State} (h : SameTables s t) (va : Nat) : ∀ lvl a, t.walkReads va lvl a = s.walkReads va lvl a := by
  intro lvl
  induction lvl with
  | zero => intro a; unfold State.walkReads; simp only [h.pteAt]
  | succ l ih => intro a; unfold State.walkReads; simp only [h.pteAt, ih]

theorem SameTables.walk {s t : State} (h : SameTables s t) (ctx va : Nat) : t.walk ctx va = s.walk ctx va := by
  have hr := h.root ctx
  rw [State.walk, State.walk]
  cases hs : tget s.ctxs ctx with
  | none =>
    rw [hs] at hr
    rw [Option.map_eq_none_iff.mp hr]
  | some c =>
    rw [hs] at hr
    obtain ⟨d, hd, e⟩ := Option.map_eq_some_iff.mp hr
    rw [hd]
    simp only [e, h.walkFrom]

/-! ## States that look the same to translation -/

/-- Translation, and what an access asks of a place, see the same in t as in s. -/
structure Like (s t : State) : Prop where
  mem : t.mem = s.mem
  sown : t.sown = s.sown
  poison : t.poison = s.poison
  locked : t.locked = s.locked
  reqs : t.reqs = s.reqs
  nextId : s.nextId ≤ t.nextId
  tb : ∀ c, (t.core c).tb = (s.core c).tb
  pinPages : ∀ c, (t.core c).pinPages = (s.core c).pinPages
  pin : ∀ c, (t.core c).pin = (s.core c).pin
  root : ∀ c, (tget t.ctxs c).map Ctx.root = (tget s.ctxs c).map Ctx.root

theorem Like.refl (s : State) : Like s s := ⟨rfl, rfl, rfl, rfl, rfl, Nat.le_refl _, fun _ => rfl, fun _ => rfl, fun _ => rfl, fun _ => rfl⟩

theorem Like.trans {s t u : State} (h : Like s t) (g : Like t u) : Like s u :=
  ⟨g.mem.trans h.mem, g.sown.trans h.sown, g.poison.trans h.poison, g.locked.trans h.locked, g.reqs.trans h.reqs, Nat.le_trans h.nextId g.nextId,
    fun c => (g.tb c).trans (h.tb c), fun c => (g.pinPages c).trans (h.pinPages c), fun c => (g.pin c).trans (h.pin c), fun c => (g.root c).trans (h.root c)⟩

theorem Like.memory {s t : State} (h : Like s t) : MemorySame s t := PinsSame.memory h.pin h.mem

theorem Like.tables {s t : State} (h : Like s t) : SameTables s t := ⟨h.mem, h.locked, h.root⟩

theorem Like.device {s t : State} (h : Like s t) : t.device = s.device := h.tables.device

theorem Like.placeByte {s t : State} (h : Like s t) (own : Option Nat) (a : Nat) : t.placeByte own a = s.placeByte own a := h.memory own a

theorem Like.placeNat {s t : State} (h : Like s t) (own : Option Nat) : ∀ n a, t.placeNat own a n = s.placeNat own a n
  | 0, _ => rfl
  | n + 1, a => by rw [State.placeNat, State.placeNat, h.placeByte, h.placeNat own n]

theorem Like.placeOf {s t : State} (h : Like s t) (e : TbEntry) (pa : Nat) : t.placeOf e pa = s.placeOf e pa := by rw [State.placeOf, State.placeOf, h.pinPages]

theorem Like.away {s t : State} (h : Like s t) (e : TbEntry) (pa : Nat) : t.away e pa = s.away e pa := by rw [State.away, State.away, h.device, h.placeOf]

theorem Like.isHost {s t : State} (h : Like s t) (pa : Nat) : t.isHost pa = s.isHost pa := by simp only [State.isHost, h.locked, h.device]

/-! ## The reads that a walk counts -/

/-- Reads of unsown rows among the entries of a list (09 R203). -/
def State.unsownAmong (s : State) (l : List Nat) : Nat := (l.filter fun a => decide (devOf a = s.device) && !s.sown.contains (rowOf (lineOf (localOf a)))).length

/-- One entry of a walk: counted where it is this device's and its row unsown. -/
theorem State.countEntry_eq (s : State) (a : Nat) : (if devOf a = s.device then s.countUnsown (localOf a) else s) =
    { s with unsownReads := s.unsownReads + s.unsownAmong [a] } := by
  simp only [State.unsownAmong, List.filter_cons, List.filter_nil]
  by_cases hd : devOf a = s.device
  · rw [if_pos hd, State.countUnsown]
    cases hs : s.sown.contains (rowOf (lineOf (localOf a))) <;> simp only [hd, decide_true, Bool.true_and, Bool.not_true, Bool.not_false, if_true] <;> rfl
  · rw [if_neg hd]; simp only [hd, decide_false, Bool.false_and]; rfl

theorem State.countWalk_eq : ∀ (l : List Nat) (s : State), s.countWalk l = { s with unsownReads := s.unsownReads + s.unsownAmong l }
  | [], _ => rfl
  | a :: l, s => by
    have ih := State.countWalk_eq l (if devOf a = s.device then s.countUnsown (localOf a) else s)
    have hsum : s.unsownAmong (a :: l) = s.unsownAmong [a] + s.unsownAmong l := by
      rw [State.unsownAmong, ← List.singleton_append, List.filter_append, List.length_append]; rfl
    refine Eq.trans ih ?_
    rw [s.countEntry_eq a, hsum, ← Nat.add_assoc]
    rfl

/-- The unsown rows that the walk of an address reads. -/
def State.walkMiss (s : State) (ctx va : Nat) : Nat :=
  match tget s.ctxs ctx with
  | some c => if va < 2 ^ 52 then s.unsownAmong (s.walkReads va 3 c.root) else 0
  | none => 0

theorem State.walkCounted_eq (s : State) (ctx va : Nat) : s.walkCounted ctx va = ({ s with unsownReads := s.unsownReads + s.walkMiss ctx va }, s.walk ctx va) := by
  simp only [State.walkCounted, State.walkMiss]
  cases tget s.ctxs ctx with
  | none => rfl
  | some c =>
    dsimp only
    split
    · rw [State.countWalk_eq]
    · rfl

theorem Like.walkMiss {s t : State} (h : Like s t) (ctx va : Nat) : t.walkMiss ctx va = s.walkMiss ctx va := by
  have hr := h.root ctx
  rw [State.walkMiss, State.walkMiss]
  cases hs : tget s.ctxs ctx with
  | none =>
    rw [hs] at hr
    rw [Option.map_eq_none_iff.mp hr]
  | some c =>
    rw [hs] at hr
    obtain ⟨d, hd, e⟩ := Option.map_eq_some_iff.mp hr
    rw [hd]
    simp only [e, h.tables.walkReads, State.unsownAmong, h.device, h.sown]

/-! ## Translation that changes nothing -/

theorem State.unsownReads_same {s : State} {k : Nat} (h : ({ s with unsownReads := s.unsownReads + k } : State) = s) : k = 0 := by
  have := congrArg State.unsownReads h
  simpa using this

/-- A page covers the address it was walked for. -/
theorem tbFind_tbOf (ctx va p lvl : Nat) (l : List TbEntry) : tbFind ((tbOf ctx va p lvl :: l).take 4096) ctx va ≠ none := by
  have hsz : 0 < (tbOf ctx va p lvl).size := by
    simp only [tbOf, leafSize]; split <;> positivity
  have hb : (tbOf ctx va p lvl).vbase = va / (tbOf ctx va p lvl).size * (tbOf ctx va p lvl).size := rfl
  have h1 := Nat.div_mul_le_self va (tbOf ctx va p lvl).size
  have h2 := Nat.lt_div_mul_add (a := va) hsz
  rw [List.take_succ_cons, tbFind, if_pos ⟨rfl, by rw [hb]; exact h1, by rw [hb]; exact h2⟩]
  simp

/-- Where a core's buffer has no translation of an address, filling it with one changes the core. -/
theorem State.fillTb_ne {s u : State} {c ctx va p lvl : Nat} (hc : c < 128) (hn : tbFind (s.core c).tb ctx va = none) : u.fillTb c (tbOf ctx va p lvl) ≠ s := by
  intro h
  have htb : ((u.fillTb c (tbOf ctx va p lvl)).core c).tb = (tbOf ctx va p lvl :: (u.core c).tb).take 4096 := by
    rw [State.fillTb, if_neg (by omega), State.core_modCore, if_pos rfl]
  rw [h] at htb
  rw [htb] at hn
  exact tbFind_tbOf ctx va p lvl _ hn

theorem Like.ownerBusy {s t : State} (h : Like s t) {own : Nat} {e : TbEntry} (hb : s.ownerBusy own e s.nextId = true) : t.ownerBusy own e t.nextId = true := by
  rw [State.ownerBusy, List.any_eq_true] at hb ⊢
  obtain ⟨x, hx, hp⟩ := hb
  refine ⟨x, h.reqs ▸ hx, ?_⟩
  simp only [Bool.and_eq_true, decide_eq_true_eq] at hp ⊢
  obtain ⟨⟨⟨⟨h1, h2⟩, h3⟩, h4⟩, h5⟩ := hp
  exact ⟨⟨⟨⟨Nat.lt_of_lt_of_le h1 h.nextId, h2⟩, h3⟩, h4⟩, h5⟩

/-- A walk that leaves the state as it is goes the same way in a state that looks the same. -/
theorem Like.walkFor {s t : State} (h : Like s t) {c ctx va : Nat} {e : TbEntry} (hn : c < 128 → tbFind (s.core c).tb ctx va = none)
    (hw : s.walkFor c ctx va = (s, .ok e)) : t.walkFor c ctx va = (t, .ok e) := by
  have hs : ∀ u : State, u.walkMiss ctx va = 0 → ({ u with unsownReads := u.unsownReads + u.walkMiss ctx va } : State) = u := fun u hu => by rw [hu]; rfl
  rw [State.walkFor, State.walkCounted_eq] at hw ⊢
  rw [h.tables.walk]
  cases hk : s.walk ctx va with
  | bad c => rw [hk] at hw; simp at hw
  | leaf p lvl a =>
    rw [hk] at hw
    dsimp only at hw ⊢
    by_cases h1 : 128 ≤ c ∨ pteHome p ≠ 0 ∨ (ptePriv p = true ∧ pteOwn p = c) ∨ ((!ptePriv p) = true ∧ pteShd p = true)
    · rw [if_pos h1] at hw ⊢
      obtain ⟨hst, he⟩ := Prod.mk.inj hw
      by_cases hc : c < 128
      · exact absurd hst (State.fillTb_ne hc (hn hc))
      · rw [State.fillTb, if_pos (by omega)] at hst ⊢
        rw [hs t (by rw [h.walkMiss]; exact State.unsownReads_same hst), he]
    · rw [if_neg h1] at hw ⊢
      have hc : c < 128 := by rw [not_or] at h1; omega
      by_cases h2 : ptePriv p = true
      · rw [if_pos h2] at hw ⊢
        by_cases h3 : ({ s with unsownReads := s.unsownReads + s.walkMiss ctx va } : State).ownerBusy (pteOwn p) (tbOf ctx va (pteMark p false true (pteOwn p)) lvl) s.nextId = true
        · rw [if_pos h3] at hw
          obtain ⟨hst, he⟩ := Prod.mk.inj hw
          have h4 := h.ownerBusy (s := s) h3
          refine (if_pos h4).trans ?_
          rw [hs t (by rw [h.walkMiss]; exact State.unsownReads_same hst), he]
        · rw [if_neg h3] at hw
          exact absurd (Prod.mk.inj hw).1 (State.fillTb_ne hc (hn hc))
      · rw [if_neg h2] at hw
        exact absurd (Prod.mk.inj hw).1 (State.fillTb_ne hc (hn hc))

/-- The permission that an access needs of a translation (09 R176). -/
def TbEntry.permits (e : TbEntry) (acc : Nat) : Prop := ¬(accWrites acc = true ∧ (!e.w) = true) ∧ ¬(acc = accFetch ∧ ((!e.x) = true ∨ e.view = true))

/-- The buffer, else a walk. -/
def State.lookup (s : State) (c ctx va : Nat) : State × Except Nat TbEntry :=
  match (if c < 128 then tbFind (s.core c).tb ctx va else none) with
  | some e => (s, .ok e)
  | none => s.walkFor c ctx va

/-- A translation as it is looked up, where its permission allows the access. -/
theorem State.xlate_eq (s : State) (c ctx va acc : Nat) : s.xlate c ctx va acc =
    if 2 ^ 52 ≤ va then (s, .error fcNonCanonical)
    else match (s.lookup c ctx va).2 with
      | .error k => ((s.lookup c ctx va).1, .error k)
      | .ok e =>
        if accWrites acc ∧ !e.w then ((s.lookup c ctx va).1, .error fcPermission)
        else if acc = accFetch ∧ (!e.x ∨ e.view) then ((s.lookup c ctx va).1, .error fcPermission)
        else ((s.lookup c ctx va).1, .ok e) := rfl

theorem State.xlate_ok_iff (s t : State) (c ctx va acc : Nat) (e : TbEntry) :
    s.xlate c ctx va acc = (t, .ok e) ↔ va < 2 ^ 52 ∧ e.permits acc ∧ s.lookup c ctx va = (t, .ok e) := by
  rw [State.xlate_eq]
  by_cases hva : 2 ^ 52 ≤ va
  · rw [if_pos hva]; simp; omega
  · rw [if_neg hva]
    obtain ⟨u, r⟩ := s.lookup c ctx va
    cases r with
    | error k => simp
    | ok e' =>
      dsimp only
      by_cases h1 : accWrites acc = true ∧ (!e'.w) = true
      · rw [if_pos h1]
        refine ⟨fun h => absurd (Prod.mk.inj h).2 (by simp), fun ⟨_, hp, he⟩ => ?_⟩
        cases he
        exact absurd h1 hp.1
      · rw [if_neg h1]
        by_cases h2 : acc = accFetch ∧ ((!e'.x) = true ∨ e'.view = true)
        · rw [if_pos h2]
          refine ⟨fun h => absurd (Prod.mk.inj h).2 (by simp), fun ⟨_, hp, he⟩ => ?_⟩
          cases he
          exact absurd h2 hp.2
        · rw [if_neg h2]
          exact ⟨fun h => by cases h; exact ⟨by omega, ⟨h1, h2⟩, rfl⟩, fun h => h.2.2⟩

/-- A translation with nothing to walk for is found again in a state that looks the same. -/
theorem Like.xlate {s t : State} (h : Like s t) {c ctx va acc : Nat} {e : TbEntry} (hx : s.xlate c ctx va acc = (s, .ok e)) : t.xlate c ctx va acc = (t, .ok e) := by
  rw [State.xlate_ok_iff] at hx ⊢
  obtain ⟨h1, h2, h3⟩ := hx
  refine ⟨h1, h2, ?_⟩
  rw [State.lookup] at h3 ⊢
  rw [h.tb]
  cases hb : (if c < 128 then tbFind (s.core c).tb ctx va else none) with
  | some e' =>
    rw [hb] at h3
    dsimp only at h3 ⊢
    rw [(Prod.mk.inj h3).2]
  | none =>
    rw [hb] at h3
    exact h.walkFor (fun hc => by rw [if_pos hc] at hb; exact hb) h3

theorem Like.reaches {s t : State} (h : Like s t) {c ctx va n acc : Nat} {e : TbEntry} (hr : ReachesAt s c ctx va n acc e) : ReachesAt t c ctx va n acc e where
  translated := h.xlate hr.translated
  ordinary := hr.ordinary
  here := by rw [h.away]; exact hr.here
  frame := by
    have := hr.frame
    rw [State.frameIn] at this ⊢
    rw [h.isHost]; exact this
  sound := fun ha => by
    rw [State.areaOf, h.placeOf] at ha
    have := hr.sound ha
    rw [State.poisonAt] at this ⊢
    rw [h.isHost, h.device, h.poison]; exact this

/-! ## Reading at an ordinary page -/

theorem State.countUnsown_like (s : State) (a : Nat) : Like s (s.countUnsown a) := by
  rw [State.countUnsown]; split <;> exact ⟨rfl, rfl, rfl, rfl, rfl, Nat.le_refl _, fun _ => rfl, fun _ => rfl, fun _ => rfl, fun _ => rfl⟩

theorem State.touch_like (s : State) (c : Nat) (e : TbEntry) (va pa n : Nat) (w y : Bool) : Like s (s.touch c e va pa n w y) where
  mem := rfl
  sown := rfl
  poison := rfl
  locked := rfl
  reqs := rfl
  nextId := Nat.le_refl _
  tb _ := rfl
  pinPages _ := rfl
  pin _ := rfl
  root x := by
    have h := congrArg (Option.map Ctx.root) (tget_hitsOf s.ctxs (s.touchCaches c e va pa n w y).ctxs x)
    simp only [Option.map_map] at h
    exact h

/-- A read at a place of Table 9.4 gives its bytes, and leaves what a translation sees. -/
theorem State.rdPlace_like (s : State) (c : Nat) (e : TbEntry) (va pa n : Nat) (y : Bool) :
    Like s (s.rdPlace c e va pa n y).1 ∧ (s.rdPlace c e va pa n y).2 = s.placeBytes (s.placeOf e pa).1 (s.placeOf e pa).2 n := by
  rw [State.rdPlace]
  obtain ⟨own, a⟩ := s.placeOf e pa
  cases own with
  | some k => exact ⟨Like.refl s, rfl⟩
  | none => exact ⟨(s.touch_like c e va pa n false y).trans (State.countUnsown_like _ a), rfl⟩

/-- An access of this device that reaches its place is barred by nothing (21 Table 21.8). -/
theorem ReachesAt.barred {s : State} {c ctx va n acc : Nat} {e : TbEntry} (h : ReachesAt s c ctx va n acc e) (w : Bool) : s.barred e (e.pa va) n w = none := by
  rw [State.barred, State.barredBut, if_neg (by simp [h.frame])]
  by_cases ha : s.areaOf e va = none
  · have hdev : devOf (e.pa va) = s.device := by
      have := h.here
      rw [State.away] at this
      rw [State.areaOf] at ha
      simpa [ha] using this
    have hhost : s.isHost (e.pa va) = false := by simp [State.isHost, hdev]
    rw [State.areaOf] at ha
    simp [ha, h.sound ha, h.here, State.hostProtected, hhost]
  · rw [State.areaOf] at ha
    rw [if_pos (Option.isSome_iff_ne_none.mpr ha)]

theorem ReachesAt.noPort {s : State} {c ctx va n acc : Nat} {e : TbEntry} (h : ReachesAt s c ctx va n acc e) : s.noPort e (e.pa va) = false := by
  simp [State.noPort, h.here]

/-- A read that reaches its place takes the bytes there. -/
theorem ReachesAt.pread {s : State} {c ctx va n acc : Nat} {e : TbEntry} (h : ReachesAt s c ctx va n acc e) (rc : RC) :
    ∃ u l, s.pread c ctx va n acc rc = (u, .ok l) ∧ Like s u ∧ Accessed s u ∧ l.length = n ∧ leNat l = s.placeNat (s.areaOf e va) (s.offsetOf e va) n := by
  obtain ⟨hl, hb⟩ := s.rdPlace_like c e va (e.pa va) n false
  have hp : s.pread c ctx va n acc rc = ((s.rdPlace c e va (e.pa va) n false).1, .ok (s.rdPlace c e va (e.pa va) n false).2) := by
    rw [State.pread, h.translated]
    simp only [h.ordinary, h.barred, h.noPort, h.here, Bool.false_eq_true, if_false]
    rfl
  exact ⟨_, _, hp, hl, s.rdPlace_accessed .., by rw [hb, State.length_placeBytes], by rw [hb, State.leNat_placeBytes]; rfl⟩

theorem ReachesAt.atomicRead {s : State} {c ctx va n : Nat} {e : TbEntry} (h : ReachesAt s c ctx va n accAtomic e) :
    ∃ u l, s.atomicRead c ctx va n = (u, .ok l) ∧ Like s u ∧ Accessed s u ∧ l.length = n ∧ leNat l = s.placeNat (s.areaOf e va) (s.offsetOf e va) n := by
  obtain ⟨u, l, hp, hu⟩ := h.pread .a
  refine ⟨u, l, ?_, hu⟩
  rw [State.atomicRead, h.translated]
  simp only [h.ordinary, Bool.false_eq_true, if_false, hp]

/-! ## Writing at an ordinary page -/

/-- Device memory and the pin areas have their canonical form. -/
def State.placesOk (s : State) : Prop := Memory.wf s.mem = true ∧ ∀ c, Memory.wf (s.core c).pin = true

theorem State.memoriesOk.places {s : State} (h : s.memoriesOk) : s.placesOk := ⟨h.1, State.wf_pin h⟩

theorem Like.placesOk {s t : State} (h : Like s t) (hs : s.placesOk) : t.placesOk := ⟨by rw [h.mem]; exact hs.1, fun c => by rw [h.pin]; exact hs.2 c⟩

/-- n bytes of an area from a have become those of a list, and no other byte of memory has changed. -/
structure Wrote (s t : State) (own : Option Nat) (a : Nat) (l : List Byte) : Prop where
  but : MemorySameBut s t own a l.length
  value : s.placesOk → t.placeNat own a l.length = leNat l

theorem Wrote.of_same {s t u : State} {own : Option Nat} {a : Nat} {l : List Byte} (h : Wrote s t own a l) (g : MemorySame t u) : Wrote s u own a l := by
  have hn : ∀ n x, u.placeNat own x n = t.placeNat own x n := by
    intro n
    induction n with
    | zero => exact fun _ => rfl
    | succ n ih => intro x; rw [State.placeNat, State.placeNat, g own x, ih]
  exact ⟨fun o x hx => (g o x).trans (h.but o x hx), fun hs => (hn _ _).trans (h.value hs)⟩

theorem Like.wrote {s t u : State} {own : Option Nat} {a : Nat} {l : List Byte} (h : Like s t) (g : Wrote t u own a l) : Wrote s u own a l :=
  ⟨fun o x hx => (g.but o x hx).trans (h.placeByte o x), fun hs => g.value (h.placesOk hs)⟩

/-- A write at a place of Table 9.4 writes its bytes there and nowhere else. -/
theorem State.wrPhys_wrote (s : State) (c : Nat) (w : Option Ref) (e : TbEntry) (va pa : Nat) (l : List Byte) (src : Option SyncSrc) (y : Bool) :
    Wrote s (s.wrPhys c w e va pa l src y) (s.placeOf e pa).1 (s.placeOf e pa).2 l := by
  rw [State.wrPhys]
  obtain ⟨own, a⟩ := s.placeOf e pa
  cases own with
  | some k =>
    dsimp only
    generalize hv : ((({ s with relTags := tagBytes s.relTags (placeKey (some k, a)) l.length src } : State).dropReservations w (placeKey (some k, a)) l.length).hitWatches
      (placeKey (some k, a)) l.length) = v
    have hvs : Like s v := by subst hv; exact ⟨rfl, rfl, rfl, rfl, rfl, Nat.le_refl _, fun _ => rfl, fun _ => rfl, fun _ => rfl, fun _ => rfl⟩
    have hpin : ∀ x, (v.modCore k fun z => { z with pin := mwrites z.pin a l }).placeByte (some k) x = mget (mwrites (s.core k).pin a l) x := by
      intro x; rw [State.placeByte]; simp only [State.core_modCore, if_true, hvs.pin k]
    refine ⟨fun o x hx => ?_, fun hs => State.placeNat_of_bytes l a fun i hi => by rw [hpin, mget_mwrites_in l _ _ _ (hs.2 k) hi]⟩
    by_cases ho : o = some k
    · rw [ho, hpin, mget_mwrites_out l _ _ _ (by simp only [ho, true_and, not_and] at hx; omega)]; rfl
    · cases o with
      | none => exact hvs.placeByte none x
      | some j =>
        have hj : j ≠ k := fun h => ho (by rw [h])
        rw [State.placeByte]
        simp only [State.core_modCore, if_neg hj, hvs.pin j]
        rfl
  | none =>
    dsimp only
    have ht := s.touch_like c e va pa l.length true y
    obtain ⟨hm, -, hc⟩ := State.writeLocal_spec (s.touch c e va pa l.length true y) w a l (some e.keyv) src
    refine ⟨fun o x hx => ?_, fun hs => State.placeNat_of_bytes l a fun i hi => ?_⟩
    · cases o with
      | none =>
        rw [State.placeByte, State.placeByte, hm]
        exact mget_mwrites_out l _ _ _ (by simp only [true_and, not_and] at hx; omega)
      | some j => rw [State.placeByte, State.placeByte]; simp only [State.core_of_cores hc j]; rfl
    · rw [State.placeByte, hm]
      exact mget_mwrites_in l _ _ _ hs.1 hi

theorem State.dropL1Line_pins (s : State) (c pa : Nat) : PinsSame s (s.dropL1Line c pa) := pinsSame_modCore _ _ _ fun _ => rfl

theorem State.dropVbuf_pins (s : State) (c : Nat) : PinsSame s (s.dropVbuf c) := pinsSame_modCore _ _ _ fun _ => rfl

/-- A write that reaches its place writes its bytes there (09 R197). -/
theorem ReachesAt.anyWrite {s : State} {c ctx va acc : Nat} {l : List Byte} {e : TbEntry} (h : ReachesAt s c ctx va l.length acc e) (w : Option Ref)
    (src : Option SyncSrc) (rc : RC) :
    ∃ u, s.anyWrite c ctx w va l acc src rc = (u, .ok ()) ∧ Accessed s u ∧ Wrote s u (s.areaOf e va) (s.offsetOf e va) l := by
  have hp : s.pwrite c ctx w va l acc src rc = (s.wrPhys c w e va (e.pa va) l src, .ok ()) := by
    rw [State.pwrite, h.translated]
    simp only [h.ordinary, h.barred, h.noPort, h.here, Bool.false_eq_true, if_false]
  have ha : s.anyWrite c ctx w va l acc src rc = (if c < 128 then ((s.wrPhys c w e va (e.pa va) l src).dropL1Line c (e.pa va)).dropVbuf c
      else s.wrPhys c w e va (e.pa va) l src, .ok ()) := by
    rw [State.anyWrite, h.translated]
    simp only [h.ordinary, Bool.false_eq_true, if_false, hp]
  refine ⟨_, ha, ?_, ?_⟩
  · exact (s.wrPhys_accessed ..).trans (State.dropLine_if_accessed _ c _)
  · refine (s.wrPhys_wrote c w e va (e.pa va) l src false).of_same ?_
    split
    · exact ((State.dropL1Line_pins _ c _).memory rfl).trans ((State.dropVbuf_pins _ c).memory rfl)
    · exact fun _ _ => rfl

end Sys2Proof.Machine
end

section
/-! LAWS. Candidates for swap-out (01 R33), the retirement of plots and tracts, and the completion of a sowing (01 R35, 15 R305). -/

namespace Sys2Proof.Machine

/-! ## Candidates (01 R33) -/

theorem exec_quantumExpiry {s : State} {n : Nat} {t : Tract} (h : tget s.tracts n = some t) (hr : s.quantumReady t = true) :
    ∃ u, exec (.quantumExpiry n) s = .next u ∧ u = { s with tracts := u.tracts } ∧ tget u.tracts n = some { t with quantumOver := true } := by
  refine ⟨_, rfl, ?_⟩
  rw [State.quantumExpiry]
  simp only [h, hr, if_true]
  refine ⟨rfl, ?_⟩
  rw [State.modTract_tracts, tget_tmod, if_pos rfl, h]; rfl

/-- What SLEEP_CANDIDATE_TIMER finds to do is done. -/
theorem exec_sleepTimer {s : State} {n : Nat} {t t' : Tract} (h : tget s.tracts n = some t) (ht : s.sleepTimer n t = some t') :
    ∃ u, exec (.sleepCandidateTimer n) s = .next u ∧ u = { s with tracts := u.tracts } ∧ tget u.tracts n = some t' := by
  refine ⟨_, rfl, ?_⟩
  rw [State.sleepCandidate]
  simp only [h, ht]
  refine ⟨rfl, ?_⟩
  rw [State.modTract_tracts, tget_tmod, if_pos rfl, h]; rfl

theorem exec_sleepTimer_none {s : State} {n : Nat} {t : Tract} (h : tget s.tracts n = some t) (ht : s.sleepTimer n t = none) :
    exec (.sleepCandidateTimer n) s = .next s := by
  have he : s.sleepCandidate n = s := by rw [State.sleepCandidate]; simp only [h, ht]
  exact congrArg Host.Outcome.next he

/-- Threads that have slept for 10 microseconds make their tract a candidate, where it is none yet. -/
theorem exec_sleepOver {s : State} {n x : Nat} {t : Tract} (h : tget s.tracts n = some t) (hr : t.resident = true) (ha : s.allAsleep n = true)
    (hs : t.sleepSince = some x) (hx : x + 10000000 ≤ s.time) (hf : t.frozen = false) (hp : s.pressed (s.prioOf t) = true) :
    ∃ u, exec (.sleepCandidateTimer n) s = .next u ∧ u = { s with tracts := u.tracts } ∧ tget u.tracts n = some { t with sleepCand := true } := by
  have hx' : x + 10 * usec ≤ s.time := hx
  cases hc : t.sleepCand with
  | true =>
    have ht : s.sleepTimer n t = none := by simp [State.sleepTimer, hr, ha, hs, hc]
    have he : ({ t with sleepCand := true } : Tract) = t := by cases t; simp at hc; simp [hc]
    exact ⟨s, exec_sleepTimer_none h ht, rfl, by rw [he]; exact h⟩
  | false =>
    exact exec_sleepTimer h (by simp [State.sleepTimer, hr, ha, hs, hc, hf, hx', hp])

/-! ## Retirement (01 R35) -/

theorem keys_tmod {α : Type} (t : Tab α) (x : Nat) (f : α → α) : (tmod t x f).map Prod.fst = t.map Prod.fst := by
  induction t with
  | nil => rfl
  | cons e t ih => obtain ⟨k, v⟩ := e; simp only [tmod]; split <;> simp [ih]

/-- In a table whose keys are distinct every record stands at its key. -/
theorem tget_of_mem {α : Type} : ∀ {t : Tab α} {x : Nat × α}, (t.map Prod.fst).Nodup → x ∈ t → tget t x.1 = some x.2
  | (k, v) :: t, x, hn, hx => by
    rw [List.map_cons, List.nodup_cons] at hn
    rw [tget]
    rcases List.mem_cons.mp hx with rfl | hx
    · simp
    · have hk : k ≠ x.1 := fun e => hn.1 (by rw [e]; exact List.mem_map.mpr ⟨x, hx, rfl⟩)
      rw [if_neg hk]
      exact tget_of_mem hn.2 hx

/-- The plots after one has been marked as retired. -/
def State.markRetired (s : State) (tag : Nat) : State := s.modPlot tag fun p => { p with retired := true }

theorem State.plotRetire_eq {s : State} {tag : Nat} {p : Plot} (h : tget s.plots tag = some p) (hr : s.retireReady tag p = true) :
    s.plotRetire tag = if (s.markRetired tag).plots.all fun x => x.2.tract != p.tract || x.2.retired then (s.markRetired tag).retireTract p.tract else s.markRetired tag := by
  rw [State.plotRetire]; simp only [h, hr, Bool.not_true, Bool.false_eq_true, if_false]; rfl

/-- A plot retires before the last of its tract. -/
theorem exec_plotRetire_early {s : State} {tag : Nat} {p : Plot} (hn : (s.plots.map Prod.fst).Nodup) (h : tget s.plots tag = some p)
    (hr : s.retireReady tag p = true) (hx : ∃ x ∈ s.plots, x.1 ≠ tag ∧ x.2.tract = p.tract ∧ x.2.retired = false) :
    ∃ t, exec (.plotRetire tag) s = .next t ∧ t = { s with plots := t.plots } ∧ tget t.plots tag = some { p with retired := true } := by
  obtain ⟨x, hxm, hxt, hxp, hxr⟩ := hx
  have hall : ((s.markRetired tag).plots.all fun x => x.2.tract != p.tract || x.2.retired) = false := by
    rw [List.all_eq_false]
    have hg : tget (s.markRetired tag).plots x.1 = some x.2 := by
      rw [State.markRetired, State.modPlot_plots, tget_tmod_ne _ _ hxt, tget_of_mem hn hxm]
    exact ⟨x, mem_of_tget _ _ _ hg, by simp [hxp, hxr]⟩
  refine ⟨s.markRetired tag, ?_, rfl, ?_⟩
  · refine congrArg Host.Outcome.next ?_
    rw [State.plotRetire_eq h hr, hall]; rfl
  · rw [State.markRetired, State.modPlot_plots, tget_tmod, if_pos rfl, h]; rfl

/-- With its last plot a tract retires, and its resources are freed together. -/
theorem exec_plotRetire_last {s : State} {tag : Nat} {p : Plot} (hn : (s.plots.map Prod.fst).Nodup) (h : tget s.plots tag = some p)
    (hr : s.retireReady tag p = true) (hx : ∀ x ∈ s.plots, x.1 ≠ tag → x.2.tract = p.tract → x.2.retired = true) {tr : Tract} {w : Sowing}
    (ht : tget s.tracts p.tract = some tr) (hw : tget s.sowings tr.sow = some w) :
    ∃ t, exec (.plotRetire tag) s = .next t ∧ tget t.tracts p.tract = none ∧ (∀ x ∈ t.plots, x.2.tract ≠ p.tract) ∧
      tget t.sowings tr.sow = some { w with retired := w.retired + 1 } ∧ MemorySame s t := by
  have hn' : ((s.markRetired tag).plots.map Prod.fst).Nodup := by rw [State.markRetired, State.modPlot_plots, keys_tmod]; exact hn
  have hall : ((s.markRetired tag).plots.all fun x => x.2.tract != p.tract || x.2.retired) = true := by
    rw [List.all_eq_true]
    intro x hxm
    have hg := tget_of_mem hn' hxm
    rw [State.markRetired, State.modPlot_plots, tget_tmod] at hg
    by_cases e : x.1 = tag
    · rw [if_pos e, e, h] at hg
      rw [← Option.some.inj hg]; simp
    · rw [if_neg e] at hg
      by_cases hp : x.2.tract = p.tract
      · have hxr : x.2.retired = true := hx _ (mem_of_tget _ _ _ hg) e hp
        simp [hxr]
      · simp [hp]
  refine ⟨(s.markRetired tag).retireTract p.tract, ?_, ?_, fun x hxm => ?_, ?_, ?_⟩
  · refine congrArg Host.Outcome.next ?_
    rw [State.plotRetire_eq h hr, hall]; rfl
  · exact tget_tdel_same ..
  · simpa using (List.mem_filter.mp hxm).2
  · have ht' : tget (s.markRetired tag).tracts p.tract = some tr := ht
    rw [State.retireTract]
    simp only [ht', State.modSow_sowings, tget_tmod, if_true]
    exact congrArg (Option.map _) hw
  · refine PinsSame.memory ?_ rfl
    exact pinsSame_mapCores (fun k => k.freeTags _) rfl fun _ => rfl

/-! ## The completion of a sowing (15 R305) -/

/-- A sowing taken off its queue; its record, where it has no address to go to, is none. -/
theorem State.endPacket_unused (s : State) (q ctx code detail : Nat) : s.endPacket q ctx 0 code detail = s := rfl

/-- The end of a sowing after its DONE. -/
def State.finishSowing (s : State) (n : Nat) (w : Sowing) : State := (s.dropSowing n w).endPacket w.q w.ctx w.statusVa (if w.aborted then csAborted else 0) 0

theorem State.sowingComplete_eq {s : State} {n : Nat} {w : Sowing} (h : tget s.sowings n = some w) (he : w.ends = true) :
    s.sowingComplete n = if w.doneVa = 0 ∨ w.doneAdded = true then s.finishSowing n w
      else match s.addWord w.ctx w.doneVa 1 w.coresUsed with
        | (s, .error c) => s.sowWait n accAtomic c w.doneVa
        | (s, .ok _) => s.finishSowing n w := by
  rw [State.sowingComplete]; simp only [h, he, Bool.not_true, Bool.false_eq_true, if_false]; rfl

theorem State.dropSowing_like (s : State) (n : Nat) (w : Sowing) : Like s (s.dropSowing n w) :=
  ⟨rfl, rfl, rfl, rfl, rfl, Nat.le_refl _, fun _ => rfl, fun _ => rfl, fun _ => rfl, fun _ => rfl⟩

theorem State.noteUpdate_same (s : State) (ctx va v : Nat) (l : List Nat) : Like s (s.noteUpdate ctx va v l) ∧ (s.noteUpdate ctx va v l).plots = s.plots := by
  rw [State.noteUpdate]
  split
  · exact ⟨Like.refl s, rfl⟩
  · exact ⟨⟨rfl, rfl, rfl, rfl, rfl, Nat.le_refl _, fun _ => rfl, fun _ => rfl, fun _ => rfl, fun _ => rfl⟩, rfl⟩

/-- An add to a word of an ordinary page: the word has the sum (15 R314). -/
theorem ReachesAt.addWord {s : State} {ctx va : Nat} {e : TbEntry} (h : ReachesAt s 128 ctx va 8 accAtomic e) (v : Nat) (l : List Nat) :
    ∃ u, s.addWord ctx va v l = (u, .ok ()) ∧ u.plots = s.plots ∧
      Wrote s u (s.areaOf e va) (s.offsetOf e va) (natLe 8 (s.placeNat (s.areaOf e va) (s.offsetOf e va) 8 + v)) := by
  obtain ⟨u1, b, h1, hl1, ha1, -, hv⟩ := h.atomicRead
  have hr1 := hl1.reaches h
  have hlen : (natLe 8 (leNat b + v)).length = 8 := length_natLe ..
  obtain ⟨u2, h2, ha2, hw2⟩ := ReachesAt.anyWrite (l := natLe 8 (leNat b + v)) (hlen.symm ▸ hr1) none (some { agent := u1.deviceAgent, scope := .sys }) .a
  obtain ⟨hl3, hp3⟩ := u2.noteUpdate_same ctx va ((leNat b + v) % 2 ^ 64) l
  refine ⟨_, ?_, hp3.trans (ha2.plots.trans ha1.plots), ?_⟩
  · rw [State.addWord, h1]
    simp only [h2]
  · rw [← hv]
    rw [State.areaOf, State.offsetOf, hl1.placeOf] at hw2
    exact (hl1.wrote hw2).of_same hl3.memory

/-- The sowing is off its queue, and its DONE or record is all that memory still gets. -/
theorem State.dropSowing_gone (s : State) (n : Nat) (w : Sowing) : tget (s.dropSowing n w).sowings n = none := tget_tdel_same ..

/-- A sowing without an address for its record is taken off its queue. -/
theorem State.finishSowing_unrecorded {n : Nat} {w : Sowing} (s : State) (h : w.statusVa = 0) : s.finishSowing n w = s.dropSowing n w := by
  rw [State.finishSowing, h, State.endPacket_unused]

/-- A write within one line that reaches its place. -/
theorem ReachesAt.rangeWrite {s : State} {c ctx va acc : Nat} {l : List Byte} {e : TbEntry} (h : ReachesAt s c ctx va l.length acc e) (hl : l ≠ [])
    (hline : va % 128 + l.length ≤ 128) (rc : RC) (w : Option Ref) (src : Option SyncSrc) (fuel : Nat) :
    ∃ u, s.rangeWrite rc c ctx w acc src (fuel + 1) va l = (u, .ok ()) ∧ Accessed s u ∧ Wrote s u (s.areaOf e va) (s.offsetOf e va) l := by
  obtain ⟨u, hu, ha, hw⟩ := h.anyWrite w src rc
  refine ⟨u, ?_, ha, hw⟩
  have hk : chunk va l.length = l.length := by rw [chunk]; omega
  rw [State.rangeWrite, if_neg (by simpa using hl)]
  simp only [hk, List.take_length, List.drop_length, hu]
  cases fuel <;> rfl

/-- The command that stores the record of a packet of the device (15 R314). -/
def endCommand (q ctx scope status code detail : Nat) : CopyCmd :=
  { newCopy none none (some q) ctx 0 (natLe 64 (scope * 2 ^ 14 + status * 2 ^ 448)) 0 [] with
    needEntry := false, stage := .moved, todo := some [], code := code, detail := detail }

/-- The state in which that command completes. -/
def State.withEnd (s : State) (q : Nat) (c : CopyCmd) : State := (s.putCopy c).2.modQueue q fun x => { x with open' := x.open' ++ [s.nextId] }

theorem State.endAt_eq (s : State) (q ctx scope status code detail : Nat) :
    s.endAt q ctx scope status code detail = if !statusUsed status then s else (s.withEnd q (endCommand q ctx scope status code detail)).copyComplete s.nextId := rfl

theorem State.withEnd_like (s : State) (q : Nat) (c : CopyCmd) : Like s (s.withEnd q c) :=
  ⟨rfl, rfl, rfl, rfl, rfl, Nat.le_succ _, fun _ => rfl, fun _ => rfl, fun _ => rfl, fun _ => rfl⟩

theorem ccStatus_endCommand (q ctx scope status code detail : Nat) (hs : status < 2 ^ 64) (hc : scope < 4) : ccStatus (endCommand q ctx scope status code detail).raw = status := by
  have hb : (endCommand q ctx scope status code detail).raw = scope * 2 ^ 14 + status * 2 ^ 448 := by
    have h : (endCommand q ctx scope status code detail).raw = leNat (natLe 64 (scope * 2 ^ 14 + status * 2 ^ 448)) := rfl
    rw [h, leNat_natLe, Nat.mod_eq_of_lt (by omega)]
  rw [hb, ccStatus, bits]
  omega

/-- The command of a packet's record takes it off its queue and its front end's table. -/
theorem State.copyGone_packet (s : State) (id q ctx scope status code detail : Nat) :
    s.copyGone id (endCommand q ctx scope status code detail) =
      ({ s with copies := tdel s.copies id } : State).modQueue q fun x => { x with open' := x.open'.filter (fun y => y != id) } := rfl

/-- The record of a packet is written where its address reaches an ordinary page (15 R314). -/
theorem ReachesAt.endAt {s : State} {ctx va : Nat} {e : TbEntry} (h : ReachesAt s 128 ctx va 8 accStore e) (h0 : va ≠ 0) (h8 : va % 8 = 0) (hva : va < 2 ^ 64)
    (q scope code detail : Nat) (hs : scope < 4) :
    (s.endAt q ctx scope va code detail).sowings = s.sowings ∧ (s.endAt q ctx scope va code detail).plots = s.plots ∧
      Wrote s (s.endAt q ctx scope va code detail) (s.areaOf e va) (s.offsetOf e va) (completionRecord code 0 detail) := by
  have hlike := s.withEnd_like q (endCommand q ctx scope va code detail)
  have hlen : (completionRecord code 0 detail).length = 8 := length_natLe ..
  have hreach := hlike.reaches h
  rw [← hlen] at hreach
  obtain ⟨u, hu, ha, hw⟩ := hreach.rangeWrite (by intro h; simp [h] at hlen) (by omega) .a none
    (some { agent := (s.withEnd q (endCommand q ctx scope va code detail)).deviceAgent, scope := scopeOf (ccScope (endCommand q ctx scope va code detail).raw) }) 1
  have hget : tget (s.withEnd q (endCommand q ctx scope va code detail)).copies s.nextId = some (endCommand q ctx scope va code detail) := tget_tput_same ..
  have hused : statusUsed va = true := by simp [statusUsed, h0, h8]
  have hstore : (s.withEnd q (endCommand q ctx scope va code detail)).storeRecord (endCommand q ctx scope va code detail) = (u, .ok ()) := by
    rw [State.storeRecord]
    simp only [ccStatus_endCommand _ _ _ _ _ _ hva hs, hused]
    exact hu
  have hready : (s.withEnd q (endCommand q ctx scope va code detail)).recordReady (endCommand q ctx scope va code detail) = true := by
    rw [State.recordReady, hstore]; rfl
  have heq : s.endAt q ctx scope va code detail = u.copyGone s.nextId (endCommand q ctx scope va code detail) := by
    rw [State.endAt_eq, hused, State.copyComplete]
    simp only [hget, hready, hstore]
    rfl
  rw [heq, State.copyGone_packet]
  refine ⟨ha.sowings, ha.plots, ?_⟩
  rw [State.areaOf, State.offsetOf, hlike.placeOf] at hw
  exact (hlike.wrote hw).of_same fun _ _ => rfl

/-- The end of a sowing that has a DONE word and no record (15 R305). -/
theorem exec_sowingComplete_done {s : State} {n : Nat} {w : Sowing} {e : TbEntry} (hw : tget s.sowings n = some w) (he : w.ends = true) (hd : w.doneVa ≠ 0)
    (ha : w.doneAdded = false) (hs : w.statusVa = 0) (hr : ReachesAt s 128 w.ctx w.doneVa 8 accAtomic e) :
    ∃ t, exec (.sowingComplete n) s = .next t ∧ tget t.sowings n = none ∧ t.plots = s.plots ∧
      Wrote s t (s.areaOf e w.doneVa) (s.offsetOf e w.doneVa) (natLe 8 (s.placeNat (s.areaOf e w.doneVa) (s.offsetOf e w.doneVa) 8 + 1)) := by
  obtain ⟨u, hu, hp, hwr⟩ := hr.addWord 1 w.coresUsed
  refine ⟨u.dropSowing n w, congrArg Host.Outcome.next ?_, u.dropSowing_gone n w, hp, hwr.of_same fun _ _ => rfl⟩
  rw [State.sowingComplete_eq hw he, if_neg (by simp [hd, ha]), hu]
  exact u.finishSowing_unrecorded hs

/-- The end of a sowing that has a record and no DONE word (15 R305, R314). -/
theorem exec_sowingComplete_record {s : State} {n : Nat} {w : Sowing} {e : TbEntry} (hw : tget s.sowings n = some w) (he : w.ends = true) (hd : w.doneVa = 0)
    (h0 : w.statusVa ≠ 0) (h8 : w.statusVa % 8 = 0) (hva : w.statusVa < 2 ^ 64) (hr : ReachesAt s 128 w.ctx w.statusVa 8 accStore e) :
    ∃ t, exec (.sowingComplete n) s = .next t ∧ tget t.sowings n = none ∧ t.plots = s.plots ∧
      Wrote s t (s.areaOf e w.statusVa) (s.offsetOf e w.statusVa) (completionRecord (if w.aborted then csAborted else 0) 0 0) := by
  have hlike := s.dropSowing_like n w
  obtain ⟨hso, hpl, hwr⟩ := (hlike.reaches hr).endAt h0 h8 hva w.q 3 (if w.aborted then csAborted else 0) 0 (by omega)
  refine ⟨s.finishSowing n w, congrArg Host.Outcome.next ?_, ?_, hpl, ?_⟩
  · rw [State.sowingComplete_eq hw he, if_pos (.inl hd)]
  · rw [State.finishSowing, State.endPacket, hso, State.dropSowing_gone]
  · rw [State.areaOf, State.offsetOf, hlike.placeOf] at hwr
    exact hlike.wrote hwr

/-- Settles O52: the timers change their tract's mark alone, a plot retires with or before the last of its tract, and a sowing's DONE and record are
the only bytes that its end writes. -/
theorem tractsRetire : Obligations.TractsRetire := by
  unfold Obligations.TractsRetire
  intro s
  refine ⟨fun n t h => ⟨exec_quantumExpiry h, fun hr ha hn => exec_sleepTimer h ?_, fun x => exec_sleepOver h⟩,
    fun tag p hn h hr => ⟨exec_plotRetire_early hn h hr, fun hx tr w => exec_plotRetire_last hn h hr hx⟩,
    fun n w hm hw he => ⟨fun hd hs => ?_, fun e hd ha hs hr => ?_, fun e hd h0 h8 hva hr => ?_⟩⟩
  · simp [State.sleepTimer, hr, ha, hn]
  · refine ⟨s.dropSowing n w, congrArg Host.Outcome.next ?_, rfl, s.dropSowing_gone n w⟩
    rw [State.sowingComplete_eq hw he, if_pos (.inl hd), State.finishSowing_unrecorded s hs]
  · obtain ⟨t, ht, hg, hp, hwr⟩ := exec_sowingComplete_done hw he hd ha hs hr
    have hval := hwr.value hm.places
    have hbut := hwr.but
    rw [length_natLe] at hval hbut
    exact ⟨t, ht, hg, hp, hbut, hval.trans (leNat_natLe 8 _)⟩
  · obtain ⟨t, ht, hg, hp, hwr⟩ := exec_sowingComplete_record hw he hd h0 h8 hva hr
    have hval := hwr.value hm.places
    have hbut := hwr.but
    rw [completionRecord, length_natLe] at hval hbut
    refine ⟨t, ht, hg, hp, hbut, hval.trans ?_⟩
    rw [leNat_natLe]
    split <;> rfl

end Sys2Proof.Machine
end

section
/-! LAWS. CPOST and QPOST: what a front end of 256 commands admits, and the claim of a packet's slots (15 R300, R316 to R318). -/

namespace Sys2Proof.Machine

/-! ## Blocks (15 R317) -/

theorem State.length_spadRead (s : State) (tag off n : Nat) : (s.spadRead tag off n).length = n := by
  rw [State.spadRead]
  split
  · exact length_mreads ..
  · exact List.length_replicate

/-- The n bytes that are read are those of their number. -/
theorem State.natLe_spadNat (s : State) (tag off n : Nat) : natLe n (s.spadNat tag off n) = s.spadRead tag off n := by
  have h := natLe_leNat (s.spadRead tag off n)
  rwa [s.length_spadRead, s.leNat_spadRead] at h

theorem State.readBlock_length {s : State} {tag a n : Nat} {l : List Byte} (h : s.readBlock tag a n = .ok l) : l.length = n := by
  rw [State.readBlock] at h
  cases hp : s.spadAt tag a n with
  | error c => rw [hp] at h; cases h
  | ok x =>
    rw [hp] at h
    cases h
    exact s.length_spadRead ..

/-- A lane that reads a block goes on with its bytes. -/
theorem BlockAt.lane {s : State} {r : Ref} {p : Plot} {th : Thread} {a : Reg} {n : Nat} {l : List Byte} (h : BlockAt s r p th a n l) (f : List Byte → LaneFn) :
    blockLane a n f s r p th = f l s r p th := by
  obtain ⟨tag, x, hx, rfl⟩ := h.bytes
  have hr : s.readBlock r.tag (th.rd32 (s.env r p) a).toNat n = .ok (natLe n (s.spadNat tag x n)) := by
    rw [State.readBlock]
    have hx' : s.spadAt r.tag (th.rd32 (s.env r p) a).toNat n = .ok (tag, x) := hx
    rw [hx', s.natLe_spadNat]
  have ha : (th.rd32 (s.env r p) a).toNat % n = 0 := h.aligned
  rw [blockLane]
  simp only [Thread.inRanges_one, h.range, ha, hr, Bool.not_true, Bool.false_eq_true, if_false, ne_eq, not_true_eq_false]

theorem State.copyEntry_accessed (s : State) (c ctx v : Nat) : Accessed s (s.copyEntry c ctx v).1 := by
  rw [State.copyEntry]
  split
  · exact Accessed.refl s
  · have h := s.ttEntry_accessed c ctx (ccAux v % 4096) accTensor
    split
    · next e => exact h.of_eq e
    · next e => exact h.of_eq e
    · next e => exact h.of_eq e

/-! ## The front end of a core (15 R317) -/

/-- A command that stands in a core's front end. -/
def CopyCmd.standsIn (c : CopyCmd) (core : Nat) : Bool := c.core == some core && !c.waitsRoom

/-- A command that waits for room in a core's front end. -/
def CopyCmd.waitsIn (c : CopyCmd) (core : Nat) : Bool := c.core == some core && c.waitsRoom

theorem State.frontRoom_iff (s : State) (core : Nat) : s.frontRoom core = true ↔ (s.copies.filter fun x => x.2.standsIn core).length < 256 := decide_eq_true_iff

theorem State.frontWaits_eq (s : State) (core : Nat) : s.frontWaits core = (s.copies.find? fun x => x.2.waitsIn core).map Prod.fst := rfl

theorem State.frontWaits_none {s : State} {core : Nat} (h : s.frontWaits core = none) : ∀ x ∈ s.copies, x.2.waitsIn core = false := by
  rw [State.frontWaits_eq, Option.map_eq_none_iff, List.find?_eq_none] at h
  simpa using h

/-- What a command adds to a count over a table of commands. -/
theorem length_filter_tput_le {α : Type} (f : Nat × α → Bool) (x : Nat) (a : α) (hf : f (x, a) = false) :
    ∀ t : Tab α, ((tput t x a).filter f).length ≤ (t.filter f).length
  | [] => by simp [tput, hf]
  | (k, v) :: t => by
    have ih := length_filter_tput_le f x a hf t
    rw [tput]
    split
    · simp only [List.filter_cons, hf, Bool.false_eq_true, if_false]; split <;> simp
    · split
      · simp [List.filter_cons, hf]
      · simp only [List.filter_cons]; split <;> simpa using ih

theorem length_filter_le_tput {α : Type} (f g : Nat × α → Bool) (x : Nat) (a : α) (h : ∀ e, f e = true → e.1 ≠ x ∧ g e = true) :
    ∀ t : Tab α, (t.filter f).length ≤ ((tput t x a).filter g).length
  | [] => by simp
  | (k, v) :: t => by
    have ih := length_filter_le_tput f g x a h t
    have hs : (t.filter f).length ≤ (t.filter g).length := (List.monotone_filter_right t fun e he => (h e he).2).length_le
    have hkv : f (k, v) = true → k ≠ x ∧ g (k, v) = true := h (k, v)
    rw [tput]
    split
    · have hf : f (k, v) ≠ true := fun hf => (hkv hf).1 ‹_›
      simp only [List.filter_cons, if_neg hf]
      split
      · exact Nat.le_succ_of_le hs
      · exact hs
    · split
      · refine Nat.le_trans (List.monotone_filter_right _ fun e he => (h e he).2).length_le ?_
        rw [List.filter_cons (x := (x, a))]
        split <;> simp
      · simp only [List.filter_cons]
        split
        · next hf => rw [if_pos (hkv hf).2]; simpa using ih
        · split
          · exact Nat.le_succ_of_le ih
          · exact ih

/-- Admission changes the commands alone. -/
theorem State.frontAdmit_frame (core : Nat) : ∀ (n : Nat) (s : State), State.frontAdmit core n s = { s with copies := (State.frontAdmit core n s).copies }
  | 0, s => rfl
  | n + 1, s => by
    rw [State.frontAdmit]
    split
    · rfl
    · split
      · exact State.frontAdmit_frame core n _
      · rfl

theorem State.frontAdmit_quiet (core n : Nat) (s : State) : Quiet s (State.frontAdmit core n s) :=
  have hf := State.frontAdmit_frame core n s
  quiet_of_same (by rw [hf]) (by rw [hf]) (by rw [hf])

/-- A command that stands in a front end is not moved by the admission of others. -/
theorem State.frontAdmit_queued (core : Nat) {id : Nat} {c : CopyCmd} (hq : c.stage = .queued) : ∀ (n : Nat) (s : State), tget s.copies id = some c →
    tget (State.frontAdmit core n s).copies id = some c
  | 0, s, h => h
  | n + 1, s, h => by
    have hc : ({ c with stage := .queued } : CopyCmd) = c := by cases c; cases hq; rfl
    rw [State.frontAdmit]
    split
    · exact h
    · split
      · refine State.frontAdmit_queued core hq n _ ?_
        rw [State.modCopy]
        dsimp only
        rw [tget_tmod]
        split
        · next e => rw [h]; exact congrArg some hc
        · exact h
      · exact h

/-- With 256 commands in it a front end admits none. -/
theorem State.frontAdmit_full {s : State} {core : Nat} (h : s.frontRoom core = false) (n : Nat) : State.frontAdmit core n s = s := by
  cases n with
  | zero => rfl
  | succ n =>
    rw [State.frontAdmit]
    split
    · rfl
    · rw [if_neg (by simp [h])]

/-- A command that alone waits, where there is room, is admitted. -/
theorem State.frontAdmit_put {s : State} {core id n : Nat} {c : CopyCmd} (hw : s.frontWaits core = none) (hr : s.frontRoom core = true)
    (hc : c.waitsIn core = true) :
    tget (State.frontAdmit core (n + 1) { s with copies := tput s.copies id c }).copies id = some { c with stage := .queued } := by
  have hnone := State.frontWaits_none hw
  have hfind : State.frontWaits { s with copies := tput s.copies id c } core = some id := by
    rw [State.frontWaits_eq]
    cases hf : (tput s.copies id c).find? fun x => x.2.waitsIn core with
    | none =>
      rw [List.find?_eq_none] at hf
      exact absurd hc (hf (id, c) (mem_of_tget _ _ _ (tget_tput_same ..)))
    | some x =>
      have hx := List.find?_some hf
      rcases mem_tput _ _ _ x (List.mem_of_find?_eq_some hf) with rfl | hm
      · rfl
      · rw [hnone x hm] at hx; cases hx
  have hroom : State.frontRoom { s with copies := tput s.copies id c } core = true := by
    rw [State.frontRoom_iff] at hr ⊢
    have hs : c.standsIn core = false := by
      rw [CopyCmd.waitsIn, Bool.and_eq_true] at hc
      simp [CopyCmd.standsIn, hc]
    exact Nat.lt_of_le_of_lt (length_filter_tput_le (fun x => x.2.standsIn core) id c hs s.copies) hr
  rw [State.frontAdmit, hfind]
  simp only [hroom, if_true]
  refine State.frontAdmit_queued core rfl n _ ?_
  rw [State.modCopy]
  dsimp only
  rw [tget_tmod_same, tget_tput_same]
  rfl

/-- A command posted where 256 others stand waits. -/
theorem State.frontAdmit_put_full {s : State} {core id n : Nat} {c : CopyCmd}
    (h : 256 ≤ (s.copies.filter fun x => x.1 != id && x.2.core == some core && x.2.stage != .waiting && x.2.stage != .recorded).length) :
    tget (State.frontAdmit core n { s with copies := tput s.copies id c }).copies id = some c := by
  rw [State.frontAdmit_full _ n]
  · exact tget_tput_same ..
  · have hle := length_filter_le_tput (fun x => x.1 != id && x.2.core == some core && x.2.stage != .waiting && x.2.stage != .recorded)
      (fun x => x.2.standsIn core) id c (fun e he => ?_) s.copies
    · rw [Bool.eq_false_iff, ne_eq, State.frontRoom_iff]
      exact Nat.not_lt.mpr (Nat.le_trans h hle)
    · simp only [Bool.and_eq_true, bne_iff_ne, beq_iff_eq] at he
      obtain ⟨⟨⟨h1, h2⟩, h3⟩, h4⟩ := he
      simp [CopyCmd.standsIn, CopyCmd.waitsRoom, h1, h2, h3, h4]

/-! ## CPOST (15 R316, R317) -/

/-- A thread that is no copy thread takes the role trap (01 R16). -/
theorem trapsWith_role {s : State} {r : Ref} {p : Plot} {th : Thread} {i : Instr} {ok : Role → Bool} {f : LaneFn} (h : OneLane s r p th)
    (hi : exec i s = .next (runLanes (roleLane ok f) s)) (hs : th.sup = false) (hr : ok (p.role r.tid) = false) : TrapsWith i s r th 4 0 0 :=
  ⟨_, hi, h.run_trap (by rw [roleLane, hr]; rfl) hs⟩

/-- A post: the command is noted and raises CP, and the front end admits what waits. -/
def State.post (s : State) (core : Nat) (r : Ref) (c : CopyCmd) : State :=
  State.frontAdmit core 256 ((s.putCopy c).2.modThread r fun t => { t with cp := t.cp + 1 })

theorem State.post_only {s : State} {r : Ref} {th : Thread} (core : Nat) (c : CopyCmd) (h : s.thread? r = some th) :
    ThreadOnly s (s.post core r c) r { th with cp := th.cp + 1 } := by
  have hq : Quiet s (s.putCopy c).2 := quiet_of_same rfl rfl rfl
  exact threadOnly_quiet (hq.threadOnly (threadOnly_modThread (fun t => { t with cp := t.cp + 1 }) h)) (State.frontAdmit_quiet core 256 _)

/-- CPOST files its command (15 R317). -/
theorem exec_cpost {s s1 : State} {r : Ref} {p : Plot} {th : Thread} {g : Fin 128} {a : Reg} {l en : List Byte} (h : OneLane s r p th)
    (hrole : p.role r.tid = .copy) (hg : guardY g th = true) (hb : BlockAt s r p th a 64 l) (he : s.copyEntry p.core p.ctx (leNat l) = (s1, .ok en)) :
    exec (.cpost g a) s = .next ((s1.post p.core r { newCopy (some r) (some p.core) none p.ctx th.pc l th.rmode en with stage := .waiting }).modThread r
      fun t => { t with pc := t.pc4 }) := by
  have hg' : gY g th = true := by rw [guardY_eq]; exact hg
  refine congrArg Host.Outcome.next (h.run_next_eq ?_)
  rw [cpostLane, roleLane, hrole]
  simp only [hg', hb.lane, h.coreOf, he]
  rfl

/-! ## QPOST (15 R318) -/

/-- A packet that waits for its slots. -/
def State.withPacket (s : State) (q : QPost) : State :=
  { s.fresh.2 with qposts := tput s.qposts s.nextId q }.modThread q.ref fun t => { t with cp := t.cp + 1 }

theorem State.withPacket_like (s : State) (q : QPost) : Like s (s.withPacket q) :=
  ⟨rfl, rfl, rfl, rfl, rfl, Nat.le_succ _, fun _ => rfl, fun _ => rfl, fun _ => rfl, fun _ => rfl⟩

/-- The claim of a packet's slots where the header's WIX reaches an ordinary page: the packet has the value read, which its slots are added to. -/
theorem ReachesAt.qpostClaim {s : State} {id : Nat} {q : QPost} {e : TbEntry} (h : ReachesAt s q.core q.ctx q.va 8 accAtomic e) (hq : tget s.qposts id = some q)
    (h1 : q.slot = none) (h2 : q.paused = none) (h3 : q.held = false) :
    (s.qpostClaim id).plots = s.plots ∧
      tget (s.qpostClaim id).qposts id = some { q with slot := some (s.placeNat (s.areaOf e q.va) (s.offsetOf e q.va) 8) } ∧
      Wrote s (s.qpostClaim id) (s.areaOf e q.va) (s.offsetOf e q.va) (natLe 8 (s.placeNat (s.areaOf e q.va) (s.offsetOf e q.va) 8 + q.slots)) := by
  obtain ⟨u1, b, hb1, hl1, ha1, -, hv⟩ := h.atomicRead
  have hr1 := hl1.reaches h
  have hlen : (natLe 8 (leNat b + q.slots)).length = 8 := length_natLe ..
  obtain ⟨u2, hb2, ha2, hw⟩ := ReachesAt.anyWrite (l := natLe 8 (leNat b + q.slots)) (hlen.symm ▸ hr1) none none .a
  have heq : s.qpostClaim id = u2.modQpost id fun x => { x with slot := some (leNat b) } := by
    rw [State.qpostClaim]
    simp only [hq, h1, h2, h3, hb1, hb2, Option.isSome_none, Bool.false_eq_true, or_self, if_false]
  have hqp : u2.qposts = s.qposts := by
    have e := congrArg State.qposts (ha1.trans ha2).rest
    exact e
  rw [heq, ← hv]
  refine ⟨ha2.plots.trans ha1.plots, ?_, ?_⟩
  · rw [State.modQpost]
    dsimp only
    rw [tget_tmod_same, hqp, hq]
    rfl
  · rw [State.areaOf, State.offsetOf, hl1.placeOf] at hw
    exact (hl1.wrote hw).of_same fun _ _ => rfl

/-- The packet of a QPOST as it is captured (15 R318). -/
def postedPacket (r : Ref) (p : Plot) (th : Thread) (va : Nat) (l : List Byte) : QPost :=
  { ref := r, core := p.core, ctx := p.ctx, pc := th.pc, va := va, slot := none, bytes := l, paused := none, held := false }

/-- The state in which a new packet has claimed its slots. -/
def State.withClaim (s : State) (q : QPost) : State := (s.withPacket q).qpostClaim s.nextId

/-- A new packet raises CP and claims its slots, and nothing else of a thread, a scratchpad or memory changes. -/
theorem ReachesAt.withClaim {s : State} {q : QPost} {e : TbEntry} {th : Thread} (h : ReachesAt s q.core q.ctx q.va 8 accAtomic e) (ht : s.thread? q.ref = some th)
    (h1 : q.slot = none) (h2 : q.paused = none) (h3 : q.held = false) :
    (s.withClaim q).thread? q.ref = some { th with cp := th.cp + 1 } ∧ OthersSame s (s.withClaim q) q.ref ∧ SpadsSame s (s.withClaim q) ∧
      tget (s.withClaim q).qposts s.nextId = some { q with slot := some (s.placeNat (s.areaOf e q.va) (s.offsetOf e q.va) 8) } ∧
      Wrote s (s.withClaim q) (s.areaOf e q.va) (s.offsetOf e q.va) (natLe 8 (s.placeNat (s.areaOf e q.va) (s.offsetOf e q.va) 8 + q.slots)) := by
  have hlike := s.withPacket_like q
  obtain ⟨hp, hq, hw⟩ := (hlike.reaches h).qpostClaim (tget_tput_same ..) h1 h2 h3
  have hpkt : ThreadOnly s (s.withPacket q) q.ref { th with cp := th.cp + 1 } :=
    (quiet_of_same (t := { s.fresh.2 with qposts := tput s.qposts s.nextId q }) rfl rfl rfl).threadOnly (threadOnly_modThread (fun t => { t with cp := t.cp + 1 }) ht)
  obtain ⟨hr, ho, -, hs⟩ := hpkt
  rw [hlike.placeNat, State.areaOf, State.offsetOf, hlike.placeOf] at hw hq
  have hthr : ∀ y, (s.withClaim q).thread? y = (s.withPacket q).thread? y := State.thread?_of_plots hp
  exact ⟨(hthr _).trans hr, fun y hy => (hthr y).trans (ho y hy), hs.trans fun t y => State.spadByte_of_plots hp t y, hq, hlike.wrote hw⟩

/-- QPOST claims its slots (15 R318). -/
theorem exec_qpost {s : State} {r : Ref} {p : Plot} {th : Thread} {g : Fin 128} {a b : Reg} {l l' : List Byte} (h : OneLane s r p th)
    (hrole : p.role r.tid = .copy) (hg : guardY g th = true) (ha : th.inRange a 2 = true) (hb : BlockAt s r p th b 64 l)
    (hva : (th.rd64 (envOf s r p) a).toNat % 64 = 0)
    (hl : s.readBlock r.tag (th.rd32 (envOf s r p) b).toNat (64 * if ccKind (leNat l) = 1 then 2 else 1) = .ok l') :
    exec (.qpost g a b) s = .next ((s.withClaim (postedPacket r p th (th.rd64 (envOf s r p) a).toNat l')).modThread r fun t => { t with pc := t.pc4 }) := by
  have hg' : gY g th = true := by rw [guardY_eq]; exact hg
  have hr : th.inRanges [(a, 2), (b, 1)] = true := by simp [Thread.inRanges, ha, hb.range]
  have hva' : (th.rd64 (s.env r p) a).toNat % 64 = 0 := hva
  have hn : (if ccKind (leNat l) = 1 then 128 else 64) = 64 * if ccKind (leNat l) = 1 then 2 else 1 := by split <;> rfl
  have hl' : s.readBlock r.tag (th.rd32 (s.env r p) b).toNat (if ccKind (leNat l) = 1 then 128 else 64) = .ok l' := by rw [hn]; exact hl
  refine congrArg Host.Outcome.next (h.run_next_eq ?_)
  rw [qpostLane, roleLane, hrole]
  simp only [hg', hr, hva', hb.lane, hl', h.coreOf]
  rfl

/-- Settles O43: CPOST's command is the one that its core's front end admits or leaves waiting, and QPOST's claim is one atomic add at the header's WIX. -/
theorem copyCommandsPosted : Obligations.CopyCommandsPosted := by
  unfold Obligations.CopyCommandsPosted
  intro s r p th h g
  refine ⟨fun a b hs hr => ?_, fun a l s1 en hr hg hb he => ?_, ?_⟩
  · have hok : (p.role r.tid == .copy) = false := by simpa using hr
    exact ⟨trapsWith_role h rfl hs hok, trapsWith_role h rfl hs hok⟩
  · have hth : s1.thread? r = some th := (((s.copyEntry_accessed ..).of_eq he).thread? r).trans h.thread
    have hpost := State.post_only (r := r) p.core { newCopy (some r) (some p.core) none p.ctx th.pc l th.rmode en with stage := .waiting } hth
    refine ⟨_, exec_cpost h hr hg hb he, hpost.trans (threadOnly_modThread (fun t => { t with pc := t.pc4 }) hpost.1), fun hw hroom => ?_, fun hfull => ?_⟩
    · exact State.frontAdmit_put (s := s1.fresh.2.modThread r fun t => { t with cp := t.cp + 1 }) hw hroom (by simp [CopyCmd.waitsIn, CopyCmd.waitsRoom, newCopy])
    · exact State.frontAdmit_put_full (s := s1.fresh.2.modThread r fun t => { t with cp := t.cp + 1 }) hfull
  · intro a b l l' e hm hr hg ha hb va n area x hva hl hreach
    obtain ⟨ht, ho, hs, hq, hw⟩ := ReachesAt.withClaim (q := postedPacket r p th va l') hreach h.thread rfl rfl rfl
    have hslots : (postedPacket r p th va l').slots = n := by
      have hlen : (postedPacket r p th va l').bytes.length = 64 * n := State.readBlock_length hl
      rw [QPost.slots, hlen, Nat.mul_div_cancel_left _ (by omega)]
    have hbut := hw.but
    have hval := hw.value hm.places
    rw [length_natLe] at hbut hval
    rw [hslots] at hval
    have hpc := threadOnly_modThread (fun t => { t with pc := t.pc4 }) ht
    obtain ⟨hr', ho', -, hs'⟩ := hpc
    exact ⟨_, exec_qpost h hr hg ha hb hva hl, hr', fun y hy => (ho' y hy).trans (ho y hy), hs.trans hs', ⟨_, hq, rfl, rfl, rfl, rfl⟩, hbut, hval.trans (leNat_natLe 8 _)⟩

end Sys2Proof.Machine
end

section
/-! LAWS. Token reads (01 R18, R36): a token whose eight bytes do not all stand on this device. -/

namespace Sys2Proof.Machine

/-! ## A token of which a core holds the first bytes only -/

/-- A leaf of 1 GiB with HOME 01 and OWN 0 whose frame is on device 1. -/
def straddlePte : Nat := 2 ^ 42 + 0x2F

/-- Its translation. -/
def straddlePage : TbEntry := tbOf 1 0 straddlePte 2

/-- The token and the sowing that waits for it. -/
def straddleToken : Token := { va := 0x30000, thr := 5, ok := false, upd := none, acq := none }
def straddleSowing : Sowing :=
  { q := 0, ctx := 1, entry := 0x10000, tracts := 1, plots := 1, size := 1, ra := 64, copyN := 0, matN := 0, spadKB := 4, rmode := 0, seed := 1,
    k := List.replicate 10 0, groups := [], toks := [straddleToken], tokAt := none, doneVa := 0, statusVa := 0, prio := 0, quant := 0, order := 0,
    next := 0, retired := 0, coresUsed := [], barc := [], waitRec := none, held := false, doneAdded := false, aborted := false, edge := false }

/-- Its context, with page tables at 0x100000. -/
def straddleCtx : Ctx :=
  { ctxid := 1, root := 0x100000, ttbase := 0x20000, ttlen := 16, pbud := 50, shbase := 0, shgib := 0, tvec := 0x70000, frqh := 0x50000,
    swpb := 0x1000000, swplen := 0x1000000, bks := false, haz := false, still := false, lpwb := List.replicate 16 0, lpwc := List.replicate 16 0,
    lpwHit := List.replicate 16 false, lpwTick := List.replicate 16 0, cmps := [], peerWin := [], lazy := [], svcHeld := false, heldRecs := [],
    recs := [] }

/-- Device 0 whose core 0 holds four bytes of that page in its pin area, so that the token's first four bytes are here and its last four on device 1;
rel are the sources of the bytes that are here. -/
def straddleState (rel : Tab SyncSrc) : State :=
  { State.reset with
    mem := [(0x100000, 1), (0x100002, 0x20), (0x200000, 0x2F), (0x200005, 4)], sown := [1040, 2048, 2080, 2144], ctxs := [(1, straddleCtx)]
    cores := [(0, { Core.reset with pinPages := [(0, { frame := 2 ^ 42 + 0x30000, size := 4 })] })]
    sowings := [(0, straddleSowing)], relTags := rel }

theorem straddle_like (rel : Tab SyncSrc) : Like (straddleState []) (straddleState rel) :=
  ⟨rfl, rfl, rfl, rfl, rfl, Nat.le_refl _, fun _ => rfl, fun _ => rfl, fun _ => rfl, fun _ => rfl⟩

theorem straddle_walk : (straddleState []).walk 1 0x30000 = .leaf straddlePte 2 0x200000 ∧ (straddleState []).walkMiss 1 0x30000 = 0 := by decide +kernel

theorem straddle_xlate : (straddleState []).xlate 128 1 0x30000 accLoad = (straddleState [], .ok straddlePage) := by
  obtain ⟨hw, hm⟩ := straddle_walk
  rw [State.xlate_ok_iff]
  refine ⟨by decide, by rw [TbEntry.permits]; decide +kernel, ?_⟩
  have hs : ({ straddleState [] with unsownReads := (straddleState []).unsownReads + 0 } : State) = straddleState [] := rfl
  rw [State.lookup, if_neg (by decide)]
  dsimp only
  rw [State.walkFor, State.walkCounted_eq, hw, hm, hs]
  dsimp only
  rw [if_pos (.inl (by decide)), State.fillTb, if_pos (by decide)]
  rfl

/-- The token's first byte is here. -/
theorem straddle_reaches (rel : Tab SyncSrc) : ReachesAt (straddleState rel) 128 1 0x30000 8 accLoad straddlePage := by
  refine (straddle_like rel).reaches ⟨straddle_xlate, by decide +kernel, by decide +kernel, by decide +kernel, fun h => ?_⟩
  exact absurd h (by decide +kernel)

/-! ## What is read of it -/

/-- The bytes of an access of an ordinary page. -/
theorem ReachesAt.bytesAt {s : State} {c ctx va k : Nat} {e : TbEntry} (h : ReachesAt s c ctx va k accLoad e) (n : Nat) :
    s.bytesAt c ctx va n = (List.range n).map fun i => (va + i, e) := by
  rw [State.bytesAt, h.translated]
  simp only [h.ordinary, Bool.not_false, if_true]

/-- The sources of an access of an ordinary page. -/
theorem ReachesAt.vaTags {s : State} {c ctx va k : Nat} {e : TbEntry} (h : ReachesAt s c ctx va k accLoad e) (n : Nat) :
    s.vaTags c ctx va n = (List.range n).flatMap fun i => s.placeTags e (e.pa (va + i)) 1 := by
  rw [State.vaTags, h.bytesAt, List.flatMap_map]

/-- A read of what a core holds changes nothing. -/
theorem ReachesAt.anyRead_pinned {s : State} {ctx va n k : Nat} {e : TbEntry} (h : ReachesAt s 128 ctx va n accLoad e) (ho : s.areaOf e va = some k) :
    ∃ l, s.anyRead 128 ctx va n accLoad = (s, .ok l) := by
  have hp : s.placeOf e (e.pa va) = (some k, s.offsetOf e va) := Prod.ext ho rfl
  have hr : s.rdPhys 128 e va (e.pa va) n = (s, s.placeBytes (some k) (s.offsetOf e va) n) := by rw [State.rdPhys, State.rdPlace, hp]
  have hpr : s.pread 128 ctx va n accLoad .a = (s, .ok (s.placeBytes (some k) (s.offsetOf e va) n)) := by
    rw [State.pread, h.translated]
    simp only [h.ordinary, h.barred, h.noPort, h.here, Bool.false_eq_true, if_false, hr]
  refine ⟨s.placeBytes (some k) (s.offsetOf e va) n, ?_⟩
  rw [State.anyRead, h.translated]
  simp only [h.ordinary, Bool.false_eq_true, if_false, hpr]
  rfl

/-- Where a byte is on another device, its sources are what that device reports. -/
theorem State.frontTags_far {s : State} {ctx va : Nat} {x : Nat × TbEntry} (h : (s.bytesAt 128 ctx va 8).find? (fun x => s.away x.2 (x.2.pa x.1)) = some x)
    (hh : s.isHost (x.2.pa x.1) = false) : s.frontTags ctx va = ({ s with freeCtr := s.freeCtr + 1 }, (Config.freeSrcs s.freeCtr).map WireSrc.sync) := by
  rw [State.frontTags]
  split
  · next hn => exact absurd (h.symm.trans hn) (by simp)
  · next hs =>
    cases Option.some.inj (h.symm.trans hs)
    rw [if_neg (by simp [hh]), State.freeTags, if_neg (by simp [hh])]
    rfl

/-- The state after the sources have been drawn. -/
def straddleDrawn (rel : Tab SyncSrc) : State := { straddleState rel with freeCtr := 1 }

/-- The sources that the other device reports: the model's free choice (log 18). -/
def straddleSources : List SyncSrc := (Config.freeSrcs 0).map WireSrc.sync

/-- Since a byte of the token is away, its sources are those that the other device reports, whatever those of the bytes here are. -/
theorem straddle_frontTags (rel : Tab SyncSrc) : (straddleState rel).frontTags 1 0x30000 = (straddleDrawn rel, straddleSources) := by
  have hf : ((List.range 8).map fun i => (0x30000 + i, straddlePage)).find? (fun x => (straddleState []).away x.2 (x.2.pa x.1)) = some (0x30004, straddlePage) := by
    decide +kernel
  have hh : (straddleState []).isHost (straddlePage.pa 0x30004) = false := by decide +kernel
  have hb : ((straddleState rel).bytesAt 128 1 0x30000 8).find? (fun x => (straddleState rel).away x.2 (x.2.pa x.1)) = some (0x30004, straddlePage) := by
    rw [(straddle_reaches rel).bytesAt]; exact hf
  exact State.frontTags_far hb hh

/-- What the distributor acquires with the token. -/
def straddleScope : Option Scope := (straddleState []).releaseScope straddleSources

theorem straddle_acq (rel : Tab SyncSrc) : (tget ((straddleState rel).tokenRead 0).sowings 0).map (fun w => w.toks.map Token.acq) = some [straddleScope] := by
  obtain ⟨l, hl⟩ := (straddle_reaches rel).anyRead_pinned (k := 0) (show (straddleState []).areaOf straddlePage 0x30000 = some 0 by decide +kernel)
  have hl' : (straddleState rel).anyRead 128 1 straddleToken.va 8 accLoad = (straddleState rel, .ok l) := hl
  have ht : (straddleState rel).frontTags 1 straddleToken.va = (straddleDrawn rel, straddleSources) := straddle_frontTags rel
  have hread : (straddleState rel).readToks 1 [straddleToken] = (straddleDrawn rel, .ok [(straddleDrawn rel).tokRead 1 straddleToken (leNat l) straddleSources]) := by
    rw [State.readToks]
    simp only [hl', ht, State.readToks]
  have hw : tget (straddleState rel).sowings 0 = some straddleSowing := rfl
  have hread' : (straddleState rel).readToks straddleSowing.ctx straddleSowing.toks = _ := hread
  have hn : ¬(straddleSowing.toksOk = true ∨ straddleSowing.waitRec.isSome = true ∨ straddleSowing.held = true) := by decide
  rw [State.tokenRead]
  simp only [hw, hn, if_false, hread']
  rfl

/-- What the statement says that the distributor acquires: the widest release of the bytes here. -/
theorem TractsPlaced.straddle (h : Obligations.TractsPlaced) (rel : Tab SyncSrc) : straddleScope = (straddleState rel).releaseScope ((straddleState rel).vaTags 128 1 0x30000 8) := by
  obtain ⟨h1, -⟩ := h (straddleState rel) 0 straddleSowing rfl
  obtain ⟨t, ht, -, -, hs⟩ := h1 (fun _ => straddlePage) (by decide) rfl rfl fun k hk => by
    rw [List.mem_singleton.mp hk]; exact ⟨by decide, straddle_reaches rel⟩
  have hacq := straddle_acq rel
  rw [show (straddleState rel).tokenRead 0 = t from Host.Outcome.next.inj ht, hs] at hacq
  exact (List.singleton_inj.mp (Option.some.inj hacq)).symm

/-- A source of system scope at the token's first byte. -/
def straddleRelease : Tab SyncSrc := [(2 ^ 42, { agent := { dev := 0, tract := none, plot := none }, scope := .sys })]

theorem straddle_here : (straddleState []).releaseScope ((straddleState []).vaTags 128 1 0x30000 8) = none ∧
    (straddleState straddleRelease).releaseScope ((straddleState straddleRelease).vaTags 128 1 0x30000 8) = some .sys := by
  rw [(straddle_reaches []).vaTags, (straddle_reaches straddleRelease).vaTags]
  decide +kernel

/-- Refutes O51: where a token's first bytes stand in a core's pin area and its last bytes on another device, what is acquired with it is the other
device's report (log 18) and not the release of the bytes here: it is the same with and without one. -/
theorem not_tractsPlaced : ¬ Obligations.TractsPlaced := by
  unfold Obligations.TractsPlaced
  intro h
  obtain ⟨hnone, hsys⟩ := straddle_here
  have h1 := TractsPlaced.straddle h []
  have h2 := TractsPlaced.straddle h straddleRelease
  rw [hnone] at h1
  rw [hsys, h1] at h2
  cases h2

end Sys2Proof.Machine
end

section
/-! LAWS. The issue cycle and the formation of drills (01 R23 to R28). -/

namespace Sys2Proof.Machine

/-! ## Tables whose keys rise -/

theorem tsorted_cons {α : Type} (k : Nat) (v : α) (t : Tab α) : tsorted ((k, v) :: t) = true ↔ (∀ x ∈ t, k < x.1) ∧ tsorted t = true := by
  induction t generalizing k v with
  | nil => simp [tsorted]
  | cons y t ih =>
    obtain ⟨j, w⟩ := y
    rw [tsorted, Bool.and_eq_true, decide_eq_true_iff]
    constructor
    · rintro ⟨hkj, ht⟩
      refine ⟨fun x hx => ?_, ht⟩
      rcases List.mem_cons.mp hx with rfl | hx
      · exact hkj
      · exact Nat.lt_trans hkj (((ih j w).mp ht).1 x hx)
    · exact fun ⟨h, ht⟩ => ⟨h (j, w) List.mem_cons_self, ht⟩

theorem tsorted_tput {α : Type} (x : Nat) (a : α) : ∀ t : Tab α, tsorted t = true → tsorted (tput t x a) = true
  | [], _ => rfl
  | (k, v) :: t, h => by
    obtain ⟨hk, ht⟩ := (tsorted_cons k v t).mp h
    rw [tput]
    split
    · next e => subst e; exact (tsorted_cons _ _ _).mpr ⟨hk, ht⟩
    · split
      · next hx => exact (tsorted_cons _ _ _).mpr ⟨fun y hy => by
          rcases List.mem_cons.mp hy with rfl | hy
          · exact hx
          · exact Nat.lt_trans hx (hk y hy), h⟩
      · next hne hx =>
        refine (tsorted_cons _ _ _).mpr ⟨fun y hy => ?_, tsorted_tput x a t ht⟩
        rcases mem_tput _ _ _ y hy with rfl | hy
        · exact Nat.lt_of_le_of_ne (Nat.le_of_not_lt hx) hne
        · exact hk y hy

theorem tsorted_nodup {α : Type} : ∀ t : Tab α, tsorted t = true → (t.map Prod.fst).Nodup
  | [], _ => List.nodup_nil
  | (k, v) :: t, h => by
    obtain ⟨hk, ht⟩ := (tsorted_cons k v t).mp h
    refine List.nodup_cons.mpr ⟨fun hm => ?_, tsorted_nodup t ht⟩
    obtain ⟨y, hy, e⟩ := List.mem_map.mp hm
    exact Nat.lt_irrefl _ (e ▸ hk y hy)

/-! ## The start of a cycle: slots lapse and filings enter (13 R294, 02 R41) -/

/-- Of the cores the pin areas stay, and of the threads all but what their landing slots hold. -/
structure Lapsed (s t : State) : Prop where
  frame : t = { s with cores := t.cores, plots := t.plots }
  pins : PinsSame s t
  sorted : tsorted s.cores = true → tsorted t.cores = true
  threads : ∀ r th, s.thread? r = some th → ∃ u, t.thread? r = some u ∧ u = { th with landing := u.landing, lapses := u.lapses }

theorem Lapsed.refl (s : State) : Lapsed s s := ⟨rfl, fun _ => rfl, id, fun _ th h => ⟨th, h, rfl⟩⟩

theorem Lapsed.trans {s t u : State} (h : Lapsed s t) (g : Lapsed t u) : Lapsed s u where
  frame := by rw [g.frame, h.frame]
  pins c := (g.pins c).trans (h.pins c)
  sorted hs := g.sorted (h.sorted hs)
  threads r th hth := by
    obtain ⟨v, hv, ev⟩ := h.threads r th hth
    obtain ⟨w, hw, ew⟩ := g.threads r v hv
    exact ⟨w, hw, by rw [ew, ev]⟩

theorem Lapsed.foldl {α : Type} {f : State → α → State} (hf : ∀ s x, Lapsed s (f s x)) : ∀ (l : List α) (s : State), Lapsed s (l.foldl f s)
  | [], s => Lapsed.refl s
  | x :: l, s => (hf s x).trans (Lapsed.foldl hf l _)

theorem State.core_setCore (s : State) (c x : Nat) (k : Core) : (s.setCore c k).core x = if x = c then k else s.core x := s.core_modCore c x fun _ => k

/-- A change of the cores outside their pin areas. -/
theorem lapsed_setCore (s : State) (c : Nat) (k : Core) (h : k.pin = (s.core c).pin) : Lapsed s (s.setCore c k) where
  frame := rfl
  pins x := by
    rw [State.core_setCore]
    split
    · subst_vars; exact h
    · rfl
  sorted := tsorted_tput c k s.cores
  threads _ th h := ⟨th, h, rfl⟩

/-- A change of a thread's landing slots. -/
theorem lapsed_modThread (s : State) (r : Ref) (f : Thread → Thread) (hf : ∀ t, f t = { t with landing := (f t).landing, lapses := (f t).lapses }) :
    Lapsed s (s.modThread r f) where
  frame := rfl
  pins _ := rfl
  sorted := id
  threads q th h := by
    rw [State.thread?_modThread]
    split
    · next e => exact ⟨f th, by rw [← e, h]; rfl, hf th⟩
    · exact ⟨th, h, rfl⟩

theorem State.lapseSlot_lapsed (s : State) (c n : Nat) : Lapsed s (s.lapseSlot c n) := by
  refine (lapsed_setCore s c { s.core c with slots := tput (s.core c).slots n ((s.core c).slot n).freed } rfl).trans (lapsed_modThread _ _ _ fun t => ?_)
  split <;> rfl

theorem State.lapseOverdue_lapsed (s : State) : Lapsed s s.lapseOverdue := by
  refine Lapsed.foldl (fun u x => Lapsed.foldl (fun v y => ?_) x.2.slots u) s.cores s
  dsimp only
  split
  · exact v.lapseSlot_lapsed x.1 y.1
  · exact Lapsed.refl v

/-- With no slot at its end none lapses. -/
theorem State.lapseOverdue_none {s : State} (h : ∀ c k, (c, k) ∈ s.cores → ∀ x ∈ k.slots, x.2.mustLapse s.time = false) : s.lapseOverdue = s := by
  have hk : ∀ (c : Nat) (l : Tab Slot) , (∀ x ∈ l, x.2.mustLapse s.time = false) → l.foldl (fun s x => if x.2.mustLapse s.time then s.lapseSlot c x.1 else s) s = s := by
    intro c l
    induction l with
    | nil => exact fun _ => rfl
    | cons x l ih =>
      intro hl
      rw [List.foldl_cons, hl x List.mem_cons_self]
      exact ih fun y hy => hl y (List.mem_cons_of_mem _ hy)
  have hc : ∀ l : Tab Core, (∀ c k, (c, k) ∈ l → ∀ x ∈ k.slots, x.2.mustLapse s.time = false) →
      l.foldl (fun s x => x.2.slots.foldl (fun s y => if y.2.mustLapse s.time then s.lapseSlot x.1 y.1 else s) s) s = s := by
    intro l
    induction l with
    | nil => exact fun _ => rfl
    | cons x l ih =>
      intro hl
      rw [List.foldl_cons, hk x.1 x.2.slots (hl x.1 x.2 List.mem_cons_self)]
      exact ih fun c k hm => hl c k (List.mem_cons_of_mem _ hm)
  exact hc s.cores h

theorem Core.enter_pin (k : Core) (key : Key) (f : Filed) : (k.enter key f).pin = k.pin := by
  rw [Core.enter]
  split
  · rfl
  · split <;> rfl

/-- One filed thread enters its furrow (02 R41). -/
def State.enterFiled (s : State) (k : Core) (q : FileReq) : Core :=
  match tget s.plots q.ref.tag, s.thread? q.ref with
  | some p, some t => if t.place = .filed then k.enter (p.keyOf q.ref.tid t.pc) { ref := q.ref, at' := q.at' } else k
  | _, _ => k

theorem State.enterFiled_pin (s : State) (k : Core) (q : FileReq) : (s.enterFiled k q).pin = k.pin := by
  rw [State.enterFiled]
  split
  · split
    · exact Core.enter_pin ..
    · rfl
  · rfl

/-- A core after the filings of a cycle have entered. -/
def State.flushed (s : State) (c : Nat) : Core := (s.core c).filing.foldl s.enterFiled (s.core c)

theorem State.flushed_pin (s : State) (c : Nat) : (s.flushed c).pin = (s.core c).pin := by
  have h : ∀ (l : List FileReq) (k : Core), (l.foldl s.enterFiled k).pin = k.pin := by
    intro l
    induction l with
    | nil => exact fun _ => rfl
    | cons q l ih => exact fun k => (ih _).trans (s.enterFiled_pin k q)
  exact h _ _

theorem State.flushFiling_lapsed (s : State) (c : Nat) : Lapsed s (s.flushFiling c) :=
  lapsed_setCore s c { s.flushed c with filing := [], furrows := (s.flushed c).furrows.map fun x => (x.1, x.2.refresh s.cycle) } (s.flushed_pin c)

/-- The state in which the cores pick: the cycle has begun. -/
def State.cycleBegun (s : State) : State := { s.correctSoft with cycle := s.cycle + 1, time := s.time + s.cyclePs }

/-- The same with the filings of the last cycle entered. -/
def State.readyToPick (s : State) : State := s.cycleBegun.lapseOverdue.coreNums.foldl State.flushFiling s.cycleBegun.lapseOverdue

theorem State.issueCycle_eq (s : State) :
    s.issueCycle = if s.readyToPick.fallow then s.readyToPick else (s.readyToPick.coreNums.foldl State.pick s.readyToPick).phaseLast := rfl

theorem State.readyToPick_lapsed (s : State) : Lapsed s.cycleBegun s.readyToPick :=
  (s.cycleBegun.lapseOverdue_lapsed).trans (Lapsed.foldl State.flushFiling_lapsed _ _)

theorem State.foldl_flushFiling_plots : ∀ (l : List Nat) (s : State), (l.foldl State.flushFiling s).plots = s.plots
  | [], _ => rfl
  | c :: l, s => State.foldl_flushFiling_plots l (s.flushFiling c)

/-! ## Fetches that claim no page (09 R178, R194) -/

/-- No page is left for a fetch to claim or to make shared. -/
def State.claimless (s : State) : Prop :=
  ∀ ctx va p lvl a, s.walk ctx va = .leaf p lvl a → pteHome p ≠ 0 ∨ ptePriv p = false ∧ pteShd p = true

theorem SameTables.claimless {s t : State} (h : SameTables s t) (hs : s.claimless) : t.claimless := fun ctx va p lvl a hw => hs ctx va p lvl a (by rw [← h.walk]; exact hw)

/-- Memory and the pin areas stay. -/
structure Unwritten (s t : State) : Prop where
  mem : t.mem = s.mem
  pins : PinsSame s t

theorem Unwritten.refl (s : State) : Unwritten s s := ⟨rfl, fun _ => rfl⟩

theorem Unwritten.trans {s t u : State} (h : Unwritten s t) (g : Unwritten t u) : Unwritten s u := ⟨g.mem.trans h.mem, fun c => (g.pins c).trans (h.pins c)⟩

theorem Like.unwritten {s t : State} (h : Like s t) : Unwritten s t := ⟨h.mem, h.pin⟩

theorem unwritten_modCore (s : State) (c : Nat) (f : Core → Core) (h : ∀ k, (f k).pin = k.pin) : Unwritten s (s.modCore c f) := ⟨rfl, pinsSame_modCore s c f h⟩

theorem Unwritten.memory {s t : State} (h : Unwritten s t) : MemorySame s t := h.pins.memory h.mem

theorem State.fillTb_unwritten (s : State) (c : Nat) (e : TbEntry) : Unwritten s (s.fillTb c e) := by
  rw [State.fillTb]
  split
  · exact Unwritten.refl s
  · exact unwritten_modCore _ _ _ fun _ => rfl

theorem State.walkFor_unwritten {s : State} (hs : s.claimless) (c ctx va : Nat) : Unwritten s (s.walkFor c ctx va).1 := by
  rw [State.walkFor, State.walkCounted_eq]
  cases hw : s.walk ctx va with
  | bad c => exact ⟨rfl, fun _ => rfl⟩
  | leaf p lvl a =>
    dsimp only
    have hc : 128 ≤ c ∨ pteHome p ≠ 0 ∨ (ptePriv p = true ∧ pteOwn p = c) ∨ ((!ptePriv p) = true ∧ pteShd p = true) := by
      rcases hs ctx va p lvl a hw with h | ⟨h1, h2⟩
      · exact .inr (.inl h)
      · exact .inr (.inr (.inr ⟨by rw [h1]; rfl, h2⟩))
    rw [if_pos hc]
    exact Unwritten.trans (t := { s with unsownReads := s.unsownReads + s.walkMiss ctx va }) ⟨rfl, fun _ => rfl⟩ (State.fillTb_unwritten ..)

theorem State.xlate_unwritten {s : State} (hs : s.claimless) (c ctx va acc : Nat) : Unwritten s (s.xlate c ctx va acc).1 := by
  have hl : Unwritten s (s.lookup c ctx va).1 := by
    rw [State.lookup]
    split
    · exact Unwritten.refl s
    · exact State.walkFor_unwritten hs c ctx va
  rw [State.xlate_eq]
  split
  · exact Unwritten.refl s
  · split
    · exact hl
    · split
      · exact hl
      · split <;> exact hl

theorem State.rdPhys_unwritten (s : State) (c : Nat) (e : TbEntry) (va pa n : Nat) : Unwritten s (s.rdPhys c e va pa n).1 := (s.rdPlace_like c e va pa n false).1.unwritten

theorem State.codeLine_unwritten (s : State) (c : Nat) (e : TbEntry) (va pa : Nat) : Unwritten s (s.codeLine c e va pa).1 := by
  rw [State.codeLine]
  split
  · exact ⟨rfl, fun _ => rfl⟩
  · exact s.rdPhys_unwritten ..

theorem State.fetchFar_unwritten (s : State) (c : Nat) (e : TbEntry) (va pa : Nat) : Unwritten s (s.fetchFar c e va pa).1 := by
  simp only [State.fetchFar]
  split
  · exact ⟨rfl, fun _ => rfl⟩
  · exact s.rdPhys_unwritten ..

theorem State.refreshCode_unwritten (s : State) (c pa : Nat) (l : List Byte) : Unwritten s (s.refreshCode c pa l) := unwritten_modCore _ _ _ fun _ => rfl

theorem State.keepCode_unwritten (s : State) (c : Nat) (x : L1Line) : Unwritten s (s.modCore c fun k => { k with icache := (x :: k.icache).take icacheLines }) :=
  unwritten_modCore _ _ _ fun _ => rfl

theorem State.fetchCode_unwritten (s : State) (c : Nat) (e : TbEntry) (va pa : Nat) : Unwritten s (s.fetchCode c e va pa).1 := by
  rw [State.fetchCode]
  split
  · exact Unwritten.refl s
  split
  · exact s.fetchFar_unwritten c e va pa
  split
  · split
    · exact Unwritten.refl s
    · exact (s.rdPhys_unwritten c e va pa 4).trans (State.refreshCode_unwritten _ c pa _)
  · exact (s.codeLine_unwritten c e va pa).trans (State.keepCode_unwritten ..)

theorem State.fetchAt_unwritten {s : State} (hs : s.claimless) (c ctx va : Nat) : Unwritten s (s.fetchAt c ctx va).1 := by
  have hx := State.xlate_unwritten hs c ctx va accFetch
  rw [State.fetchAt]
  split
  · next h => rw [h] at hx; exact hx
  · next t e h =>
    rw [h] at hx
    split
    · exact hx
    split
    · exact hx
    · exact hx.trans (t.fetchCode_unwritten c e va _)

/-! ## What the cores pick (01 R28) -/

theorem State.fetch_accessed (s : State) (r : Ref) : Accessed s (s.fetch r).1 := by
  rw [State.fetch]
  split
  · exact Accessed.refl s
  · exact s.fetchAt_accessed ..

theorem State.fetch_unwritten {s : State} (hs : s.claimless) (r : Ref) : Unwritten s (s.fetch r).1 := by
  rw [State.fetch]
  split
  · exact Unwritten.refl s
  · exact State.fetchAt_unwritten hs ..

/-- An access that writes no memory leaves the page tables. -/
theorem Accessed.tables {s t : State} (h : Accessed s t) (hm : t.mem = s.mem) : SameTables s t where
  mem := hm
  locked := h.locked
  root c := by
    have hc := congrArg (Option.map Ctx.root) (h.ctxs c)
    simp only [Option.map_map] at hc
    exact hc

/-- The fetch of a drill's next word, where it may fetch. -/
def State.fetchOpen (s : State) (d : Drill) : State := if s.drillOpen d then match d.lanes with | r :: _ => (s.fetch r).1 | [] => s else s

theorem State.fetchAhead_eq (s : State) (k : Core) : s.fetchAhead k = k.drills.foldl (fun s x => s.fetchOpen x.2) s := rfl

theorem State.fetchOpen_accessed (s : State) (d : Drill) : Accessed s (s.fetchOpen d) := by
  rw [State.fetchOpen]
  split
  · split
    · exact s.fetch_accessed _
    · exact Accessed.refl s
  · exact Accessed.refl s

theorem State.fetchOpen_unwritten {s : State} (hs : s.claimless) (d : Drill) : Unwritten s (s.fetchOpen d) := by
  rw [State.fetchOpen]
  split
  · split
    · exact State.fetch_unwritten hs _
    · exact Unwritten.refl s
  · exact Unwritten.refl s

theorem State.fetchAhead_accessed (s : State) (k : Core) : Accessed s (s.fetchAhead k) := by
  rw [State.fetchAhead_eq]
  exact Accessed.foldl (f := fun s (x : Nat × Drill) => s.fetchOpen x.2) (fun s x => s.fetchOpen_accessed x.2) _ _

theorem State.fetchAhead_unwritten {s : State} (hs : s.claimless) (k : Core) : Unwritten s (s.fetchAhead k) := by
  have h : ∀ (l : Tab Drill) (u : State), u.claimless → Unwritten u (l.foldl (fun s x => s.fetchOpen x.2) u) := by
    intro l
    induction l with
    | nil => exact fun u _ => Unwritten.refl u
    | cons x l ih =>
      intro u hu
      have h1 := State.fetchOpen_unwritten hu x.2
      exact h1.trans (ih _ (((u.fetchOpen_accessed x.2).tables h1.mem).claimless hu))
  exact h k.drills s hs

/-- Threads, time and page tables stay while the cores pick, and memory where no page is left to claim. -/
structure Picks (s t : State) : Prop where
  plots : t.plots = s.plots
  cycle : t.cycle = s.cycle
  time : t.time = s.time
  locked : t.locked = s.locked
  root : ∀ x, (tget t.ctxs x).map Ctx.root = (tget s.ctxs x).map Ctx.root
  writes : s.claimless → Unwritten s t

theorem Picks.refl (s : State) : Picks s s := ⟨rfl, rfl, rfl, rfl, fun _ => rfl, fun _ => Unwritten.refl s⟩

theorem Picks.trans {s t u : State} (h : Picks s t) (g : Picks t u) : Picks s u where
  plots := g.plots.trans h.plots
  cycle := g.cycle.trans h.cycle
  time := g.time.trans h.time
  locked := g.locked.trans h.locked
  root x := (g.root x).trans (h.root x)
  writes hs := (h.writes hs).trans (g.writes ((SameTables.mk (h.writes hs).mem h.locked h.root).claimless hs))

theorem Picks.foldl {α : Type} {f : State → α → State} (hf : ∀ s x, Picks s (f s x)) : ∀ (l : List α) (s : State), Picks s (l.foldl f s)
  | [], s => Picks.refl s
  | x :: l, s => (hf s x).trans (Picks.foldl hf l _)

theorem State.fetchAhead_picks (s : State) (k : Core) : Picks s (s.fetchAhead k) where
  plots := (s.fetchAhead_accessed k).plots
  cycle := (s.fetchAhead_accessed k).cycle
  time := (s.fetchAhead_accessed k).time
  locked := (s.fetchAhead_accessed k).locked
  root x := by
    have hc := congrArg (Option.map Ctx.root) ((s.fetchAhead_accessed k).ctxs x)
    simp only [Option.map_map] at hc
    exact hc
  writes hs := State.fetchAhead_unwritten hs k

theorem length_insertNat_le (x : Nat) : ∀ l : List Nat, (insertNat l x).length ≤ l.length + 1
  | [] => Nat.le_refl _
  | y :: l => by
    rw [insertNat]
    split
    · simp
    · split
      · simp
      · simpa using length_insertNat_le x l

theorem length_sortNat_le (l : List Nat) : (sortNat l).length ≤ l.length := by
  have h : ∀ l a : List Nat, (l.foldl insertNat a).length ≤ a.length + l.length := by
    intro l
    induction l with
    | nil => simp
    | cons x l ih => intro a; have := ih (insertNat a x); have := length_insertNat_le x a; simp only [List.foldl_cons, List.length_cons]; omega
  simpa only [sortNat, List.length_nil, Nat.zero_add] using h l []

/-- Elements for which a predicate holds before the others: as many. -/
theorem length_filter_add_not {α : Type} (f : α → Bool) (l : List α) : (l.filter f).length + (l.filter fun x => !f x).length = l.length := by
  induction l with
  | nil => rfl
  | cons x l ih => simp only [List.filter_cons]; cases f x <;> simp <;> omega

/-- The drills of a core that issue in a cycle, the array commands first (17 R332). -/
def State.picksOf (s : State) (c : Nat) : List (Nat × Nat) :=
  let l := (sortNat ((s.readySlots (s.core c)).take 4)).map fun x => (c, x)
  (l.filter (s.slotIs forArray)) ++ l.filter fun x => !s.slotIs forArray x

theorem State.pick_eq (s : State) (c : Nat) : s.pick c = match ((s.fetchAhead (s.core c)).readySlots ((s.fetchAhead (s.core c)).core c)).take 4 |>.getLast? with
    | none => s.fetchAhead (s.core c)
    | some n => { (s.fetchAhead (s.core c)).modCore c fun k => { k with rr := (n + 1) % 256 } with
        issueQ := (s.fetchAhead (s.core c)).issueQ ++ (s.fetchAhead (s.core c)).picksOf c } := rfl

theorem State.picksOf_length (s : State) (c : Nat) : (s.picksOf c).length ≤ 4 := by
  have h1 := length_sortNat_le ((s.readySlots (s.core c)).take 4)
  have h2 : ((s.readySlots (s.core c)).take 4).length ≤ 4 := List.length_take_le ..
  rw [State.picksOf]
  rw [List.length_append, length_filter_add_not, List.length_map]
  omega

theorem State.picksOf_core (s : State) (c : Nat) : ∀ x ∈ s.picksOf c, x.1 = c := by
  intro x hx
  have hm : x ∈ (sortNat ((s.readySlots (s.core c)).take 4)).map fun x => (c, x) := by
    rcases List.mem_append.mp hx with hx | hx <;> exact (List.mem_filter.mp hx).1
  obtain ⟨y, -, rfl⟩ := List.mem_map.mp hm
  rfl

theorem State.searchFrom_unwritten (s : State) (c n : Nat) : Unwritten s (s.modCore c fun k => { k with rr := n }) := unwritten_modCore _ _ _ fun _ => rfl

theorem State.pick_picks (s : State) (c : Nat) : Picks s (s.pick c) := by
  refine (s.fetchAhead_picks (s.core c)).trans ?_
  rw [State.pick_eq]
  split
  · exact Picks.refl _
  · exact ⟨rfl, rfl, rfl, rfl, fun _ => rfl, fun _ => ⟨rfl, (State.searchFrom_unwritten _ c _).pins⟩⟩

/-- A core's picks add at most four of its own drills to what is issued. -/
theorem State.pick_adds (s : State) (c : Nat) : ∃ l : List (Nat × Nat), (s.pick c).issueQ = s.issueQ ++ l ∧ l.length ≤ 4 ∧ ∀ x ∈ l, x.1 = c := by
  have hq := (s.fetchAhead_accessed (s.core c)).issueQ
  rw [State.pick_eq]
  split
  · exact ⟨[], by rw [hq, List.append_nil], by simp, by simp⟩
  · exact ⟨_, by rw [← hq], State.picksOf_length _ c, State.picksOf_core _ c⟩

/-- How many drills of a core are issued. -/
def issuedOf (l : List (Nat × Nat)) (c : Nat) : Nat := (l.filter fun x => x.1 == c).length

theorem issuedOf_append (l m : List (Nat × Nat)) (c : Nat) : issuedOf (l ++ m) c = issuedOf l c + issuedOf m c := by
  rw [issuedOf, List.filter_append, List.length_append]; rfl

theorem issuedOf_le (l : List (Nat × Nat)) (c : Nat) : issuedOf l c ≤ l.length := List.length_filter_le ..

theorem issuedOf_other {l : List (Nat × Nat)} {c d : Nat} (h : ∀ x ∈ l, x.1 = c) (hd : d ≠ c) : issuedOf l d = 0 := by
  rw [issuedOf, List.length_eq_zero_iff, List.filter_eq_nil_iff]
  intro x hx
  simp [h x hx, Ne.symm hd]

/-- Each of distinct cores adds at most four of its drills. -/
theorem State.foldl_pick_issued (d : Nat) : ∀ (l : List Nat) (s : State), l.Nodup →
    issuedOf (l.foldl State.pick s).issueQ d ≤ issuedOf s.issueQ d + if d ∈ l then 4 else 0
  | [], s, _ => by simp
  | c :: l, s, h => by
    obtain ⟨hc, hl⟩ := List.nodup_cons.mp h
    obtain ⟨m, hm, hlen, hcore⟩ := s.pick_adds c
    have ih := State.foldl_pick_issued d l (s.pick c) hl
    rw [hm, issuedOf_append] at ih
    rw [List.foldl_cons]
    by_cases hd : d = c
    · subst hd
      have := issuedOf_le m d
      simp only [hc, if_false, List.mem_cons, true_or, if_true] at ih ⊢
      omega
    · rw [issuedOf_other hcore hd] at ih
      simpa [hd] using ih

/-- The order of a cycle's picks does not change how many there are of a core. -/
theorem State.phaseLast_issued (s : State) (d : Nat) : issuedOf s.phaseLast.issueQ d = issuedOf s.issueQ d := by
  have hc : ∀ f : Nat × Nat → Bool, (s.issueQ.filter f).filter (fun x => x.1 == d) = (s.issueQ.filter fun x => x.1 == d).filter f := fun f => List.filter_comm ..
  rw [State.phaseLast, issuedOf_append, issuedOf, issuedOf, hc, hc, Nat.add_comm]
  exact length_filter_add_not _ _

/-- What the picks of a cycle change. -/
theorem State.issueCycle_picks (s : State) : Picks s.readyToPick s.issueCycle := by
  rw [State.issueCycle_eq]
  split
  · exact Picks.refl _
  · exact (Picks.foldl State.pick_picks _ _).trans ⟨rfl, rfl, rfl, rfl, fun _ => rfl, fun _ => ⟨rfl, fun _ => rfl⟩⟩

theorem State.issueCycle_issued {s : State} (hs : tsorted s.cores = true) (hq : s.issueQ = []) (d : Nat) : issuedOf s.issueCycle.issueQ d ≤ 4 := by
  have hl := s.readyToPick_lapsed
  have hq' : s.readyToPick.issueQ = [] := by rw [hl.frame]; exact hq
  have hn : s.readyToPick.coreNums.Nodup := tsorted_nodup _ (hl.sorted hs)
  have hp := State.foldl_pick_issued d _ s.readyToPick hn
  rw [State.issueCycle_eq]
  split
  · rw [hq']; simp [issuedOf]
  · rw [State.phaseLast_issued]
    rw [hq'] at hp
    refine Nat.le_trans hp ?_
    split <;> simp [issuedOf]

/-- A fallow device issues nothing (23 R438). -/
theorem State.issueCycle_fallow {s : State} (hq : s.issueQ = []) (h : s.fallow = true) : s.issueCycle.issueQ = [] ∧ s.issueCycle.mem = s.mem := by
  have hl := s.readyToPick_lapsed.frame
  have hf : s.readyToPick.fallow = true := by rw [State.fallow, hl]; exact h
  rw [State.issueCycle_eq, if_pos hf]
  rw [hl]
  exact ⟨hq, rfl⟩

/-! ## Formation (01 R24, R25) -/

/-- The threads taken have distinct home lanes, none of them among those that are full. -/
theorem takeLanes_nodup (ok : Filed → Bool) : ∀ (l : List Filed) (n : Nat) (lanes : List Nat),
    ((takeLanes ok n lanes l).1.map Ref.lane).Nodup ∧ ∀ r ∈ (takeLanes ok n lanes l).1, r.lane ∉ lanes
  | [], _, _ => by simp [takeLanes]
  | f :: l, n, lanes => by
    rw [takeLanes]
    split
    · next h =>
      obtain ⟨h1, h2⟩ := takeLanes_nodup ok l (n - 1) (f.ref.lane :: lanes)
      have hf : f.ref.lane ∉ lanes := by simp only [Bool.and_eq_true, Bool.not_eq_true', List.contains_eq_mem, decide_eq_false_iff_not] at h; exact h.2
      refine ⟨List.nodup_cons.mpr ⟨fun hm => ?_, h1⟩, fun r hr => ?_⟩
      · obtain ⟨r, hr, e⟩ := List.mem_map.mp hm
        exact h2 r hr (e ▸ List.mem_cons_self)
      · rcases List.mem_cons.mp hr with rfl | hr
        · exact hf
        · exact fun hm => h2 r hr (List.mem_cons_of_mem _ hm)
    · exact takeLanes_nodup ok l n lanes

/-- A drill has been formed of core c at a slot: of threads with distinct home lanes, in this cycle, by one step of the selector. -/
def FormedAt (s t : State) (c slot : Nat) : Prop :=
  ∃ d, tget (t.core c).drills slot = some d ∧ d.formed = s.cycle ∧ d.group = none ∧ d.single = false ∧ (d.lanes.map Ref.lane).Nodup ∧
    (∀ r ∈ d.lanes, ∀ th, s.thread? r = some th → t.thread? r = some { th with place := .drill slot })

/-- A drill of the threads that formation takes of a list. -/
theorem State.formed_of_take (s : State) (c slot : Nat) (k : Core) (ok : Filed → Bool) (l : List Filed) :
    FormedAt s ((s.setCore c k).newDrill c slot (byLane (takeLanes ok 64 [] l).1) false none) c slot := by
  refine ⟨_, State.newDrill_drill .., rfl, rfl, rfl, ?_, fun r hr th h => ?_⟩
  · exact ((byLane_perm _).map _).nodup_iff.mpr (takeLanes_nodup ok l 64 []).1
  · rw [State.newDrill_thread?, if_pos hr]
    exact congrArg (Option.map _) h

theorem longest_mem : ∀ (l : List (Nat × Nat)) (x : Nat × Nat), longest l = some x → x ∈ l
  | (n, since) :: l, x, h => by
    rw [longest] at h
    split at h
    · next m y hm =>
      split at h
      · cases h; exact List.mem_cons_self
      · cases h; exact List.mem_cons_of_mem _ (longest_mem l _ hm)
    · cases h; exact List.mem_cons_self

theorem longest_none {l : List (Nat × Nat)} (h : longest l = none) : l = [] := by
  cases l with
  | nil => rfl
  | cons x l =>
    rw [longest] at h
    split at h
    · split at h <;> cases h
    · cases h

/-- A furrow that formation takes is an eligible one. -/
theorem chooseFurrow_some {l : Word} {now n : Nat} {el : List (Nat × Nat)} {b : Bool} (h : chooseFurrow l now el b = some n) : ∃ c, (n, c) ∈ el := by
  rw [chooseFurrow] at h
  split at h
  · cases h
  · next m since hm =>
    have hmem := longest_mem el _ hm
    split at h
    · cases h; exact ⟨since, hmem⟩
    · split at h
      · cases h
      · cases h
        rw [List.getD_eq_getElem?_getD]
        cases hx : el[(l >>> 16).toNat * el.length / 65536]? with
        | none => exact ⟨since, hmem⟩
        | some y => exact ⟨y.2, List.mem_of_getElem? hx⟩

/-- Where formation takes no furrow, none is eligible or the spill furrow has threads. -/
theorem chooseFurrow_none {l : Word} {now : Nat} {el : List (Nat × Nat)} {b : Bool} (h : chooseFurrow l now el b = none) : el = [] ∨ b = true := by
  rw [chooseFurrow] at h
  split at h
  · next hn => exact .inl (longest_none hn)
  · split at h
    · cases h
    · split at h
      · next hb => exact .inr hb
      · cases h

theorem Core.eligible_furrow {k : Core} {now n c : Nat} (h : (n, c) ∈ k.eligible now) : ∃ f, (n, f) ∈ k.furrows := by
  rw [Core.eligible, List.mem_filterMap] at h
  obtain ⟨⟨m, f⟩, hm, he⟩ := h
  refine ⟨f, ?_⟩
  dsimp only at he
  split at he
  · split at he
    · cases he; exact hm
    · cases he
  · cases he

theorem tget_of_key {α : Type} : ∀ {t : Tab α} {x : Nat} {a : α}, (x, a) ∈ t → ∃ b, tget t x = some b
  | (k, v) :: t, x, a, h => by
    rw [tget]
    split
    · exact ⟨v, rfl⟩
    · next hne =>
      rcases List.mem_cons.mp h with e | h
      · cases e; exact absurd rfl hne
      · exact tget_of_key h

/-- Formation from a furrow or the spill furrow forms a drill, and leaves the core's selector and the cycle in which it formed. -/
theorem State.formFrom_forms {s : State} {c slot n : Nat} {f : Furrow} (h : tget (s.core c).furrows n = some f) :
    FormedAt s (s.formFrom c slot n) c slot ∧ ((s.formFrom c slot n).core c).sel = (s.core c).sel ∧ ((s.formFrom c slot n).core c).formed = (s.core c).formed := by
  rw [State.formFrom]
  simp only [h]
  refine ⟨State.formed_of_take .., ?_, ?_⟩ <;> rw [State.newDrill_core, State.core_setCore, if_pos rfl]

theorem State.formSpill_forms {s : State} {c slot : Nat} (h : (s.core c).spill ≠ []) :
    FormedAt s (s.formSpill c slot) c slot ∧ ((s.formSpill c slot).core c).sel = (s.core c).sel ∧ ((s.formSpill c slot).core c).formed = (s.core c).formed := by
  rw [State.formSpill]
  dsimp only
  split
  · next e => exact absurd e h
  · refine ⟨State.formed_of_take .., ?_, ?_⟩ <;> rw [State.newDrill_core, State.core_setCore, if_pos rfl]

/-- The selector and the cycle of a formation. -/
def State.stepped (s : State) (c : Nat) : State := s.setCore c { s.core c with sel := lfsrStep (s.core c).sel, formed := some s.cycle }

theorem State.stepped_core (s : State) (c : Nat) : (s.stepped c).core c = { s.core c with sel := lfsrStep (s.core c).sel, formed := some s.cycle } := by
  rw [State.stepped, State.core_setCore, if_pos rfl]

theorem State.formDrill_eq {s : State} {c slot : Nat} (hf : tfree (s.core c).drills 0 256 = some slot) (h : s.canForm c = true) :
    s.formDrill c = match chooseFurrow (lfsrStep (s.core c).sel) s.cycle ((s.core c).eligible s.cycle) (!(s.core c).spill.isEmpty) with
      | some n => (s.stepped c).formFrom c slot n
      | none => (s.stepped c).formSpill c slot := by
  rw [State.formDrill]
  simp only [hf, h, Bool.not_true, Bool.false_eq_true, if_false]
  rfl

theorem exec_formDrill {s : State} {c : Nat} (h : s.canForm c = true) : ∃ t slot, exec (.formDrill c) s = .next t ∧ tfree (s.core c).drills 0 256 = some slot ∧
    FormedAt s t c slot ∧ (t.core c).sel = lfsrStep (s.core c).sel ∧ (t.core c).formed = some s.cycle := by
  have hc := h
  rw [State.canForm] at hc
  simp only [Bool.and_eq_true, Bool.or_eq_true, Bool.not_eq_true'] at hc
  obtain ⟨⟨-, hfree⟩, hwork⟩ := hc
  obtain ⟨slot, hslot⟩ := Option.isSome_iff_exists.mp hfree
  have hcore := s.stepped_core c
  have hgoal : FormedAt (s.stepped c) (s.formDrill c) c slot ∧ ((s.formDrill c).core c).sel = ((s.stepped c).core c).sel ∧
      ((s.formDrill c).core c).formed = ((s.stepped c).core c).formed := by
    rw [State.formDrill_eq hslot h]
    cases hch : chooseFurrow (lfsrStep (s.core c).sel) s.cycle ((s.core c).eligible s.cycle) (!(s.core c).spill.isEmpty) with
    | some n =>
      obtain ⟨y, hy⟩ := chooseFurrow_some hch
      obtain ⟨f, hf⟩ := Core.eligible_furrow hy
      obtain ⟨g, hg⟩ := tget_of_key hf
      exact State.formFrom_forms (f := g) (by rw [hcore]; exact hg)
    | none =>
      refine State.formSpill_forms ?_
      rw [hcore]
      rcases chooseFurrow_none hch with he | hs
      · rw [he] at hwork; simpa using hwork
      · simpa using hs
  rw [hcore] at hgoal
  exact ⟨s.formDrill c, slot, rfl, hslot, hgoal⟩

/-- FURROW_AGE_ELIGIBLE notes the age of a furrow (01 R24). -/
theorem exec_furrowAge {s : State} {c n : Nat} {f : Furrow} (h : tget (s.core c).furrows n = some f) (hs : f.since = none) (ha : ∃ x ∈ f.threads, x.at' + 64 ≤ s.cycle) :
    ∃ t, exec (.furrowAgeEligible c n) s = .next t ∧ tget (t.core c).furrows n = some { f with since := some s.cycle } := by
  have hage : f.comesOfAge s.cycle = true := by
    obtain ⟨x, hx, hle⟩ := ha
    rw [Furrow.comesOfAge, hs, Furrow.aged]
    exact List.any_eq_true.mpr ⟨x, hx, by simpa using hle⟩
  refine ⟨s.furrowAge c n, rfl, ?_⟩
  rw [State.furrowAge]
  simp only [h, hage, if_true]
  rw [State.core_modCore, if_pos rfl]
  exact tget_tput_same ..

/-- Settles O35: a cycle's start changes landing slots and furrows alone, the fetches of its picks write no memory where they claim no page, and a drill
is formed of what takeLanes takes. -/
theorem drillsFormAndAreIssued : Obligations.DrillsFormAndAreIssued := by
  unfold Obligations.DrillsFormAndAreIssued
  refine ⟨fun s hs hq => ?_, fun s c => ⟨fun h => ?_, fun n f h hs ha => exec_furrowAge h hs ha⟩⟩
  · have hl := s.readyToPick_lapsed
    have hp := s.issueCycle_picks
    refine ⟨s.issueCycle, rfl, ?_, ?_, State.issueCycle_issued hs hq, State.issueCycle_fallow hq, fun r th h => ?_, fun h => ?_, fun h => ?_⟩
    · rw [hp.cycle, hl.frame]; rfl
    · rw [hp.time, hl.frame]; rfl
    · rw [State.thread?_of_plots hp.plots]
      exact hl.threads r th h
    · have hnone : s.cycleBegun.lapseOverdue = s.cycleBegun := State.lapseOverdue_none fun c k hm x hx => ?_
      · rw [hp.plots, State.readyToPick, State.foldl_flushFiling_plots, hnone]
        rfl
      · rw [Slot.mustLapse, Bool.and_eq_false_iff, decide_eq_false_iff_not, Nat.not_le, beq_eq_false_iff_ne]
        exact Decidable.or_iff_not_imp_left.mpr fun hlive => h c k hm x hx (Decidable.not_not.mp hlive)
    · have hc : s.claimless := h
      have ht : SameTables s s.readyToPick := by rw [hl.frame]; exact ⟨rfl, rfl, fun _ => rfl⟩
      have hw := hp.writes (ht.claimless hc)
      exact (PinsSame.memory (t := s.readyToPick) hl.pins ht.mem).trans hw.memory
  · obtain ⟨t, slot, ht, hf, ⟨d, hd⟩, hsel, hformed⟩ := exec_formDrill h
    obtain ⟨h1, h2, h3, h4, h5, h6⟩ := hd
    exact ⟨t, slot, d, ht, hf, h1, h2, h3, h4, h5, h6, hsel, hformed⟩

end Sys2Proof.Machine
end

section
/-! LAWS. Decoder and encoder agree (03 R54 to R70): every constructor's round trip, and what the branches of the decoder's tables accept. -/

namespace Sys2Proof
namespace Laws.RoundTrip

/-- The round trip of every instruction, by the lemma of its constructor. -/
theorem roundTrip (i : Instr) : Statement i := by
  cases i <;> simp only [
    iadd, isub, imul, imulh, imulhu, imad, divs, divu, rems, remu, imin, imax, iminu, imaxu, iabs, ineg, andb, orb, xorb, andn, shl, shr, sar, rotl,
    popc, clz, brev, bfe, bfi, lea, sel, mov, iadd64, isub64, imul64, mov64, shl64, shr64, sar64, imad64, icmpEq, icmpNe, icmpLt, icmpLe, icmpLtu,
    icmpLeu, itst, itstn, pand, por, pxor, pandn, pmov, ptor, rtop, pcnt, fadd, fsub, fmul, ffma, fmin, fmax, fcmpeq, fcmplt, fcmple, fcmpun, fdiv,
    fsqrt, frsq, frcp, fexp2, flog2, fsinpi, fcospi, ftanh, fsigm, fldexp, frint, cvtfi, cvtif, cvtff, cvtpk, fabs, fneg, fcpys, fclass, xacc, xadd,
    xcvt, xneg, xanc, xdoth, xdotb, xcmp, rshf, rshfx, rbcast, rballot, rredAddi, rredAddf, rredMin, rredMax, rscani, rscanf, rany, rall, movi, movhi,
    addi, andi, ori, xori, shli, shri, fmoviF32Bf, fmoviF32Hf, fmoviE4, fmoviE5, fmoviB2, fmoviH2, faddiF32, fmuliF32, winb, ixset, ixadd, ld, st,
    lds, sts, atomAdd, atomAnd, atomOr, atomXor, atomMin, atomMax, atomMinu, atomMaxu, atomExch, atomCas, atomFaddF32, atomXadd128, atomIncw,
    atomDecw, atomsAdd, atomsAnd, atomsOr, atomsXor, atomsMin, atomsMax, atomsMinu, atomsMaxu, atomsExch, atomsCas, atomsFaddF32, atomsXadd128,
    atomsIncw, atomsDecw, lr, sc, bra, brf, call, nop, ret, calli, jmpi, reform, exit, yield, pause, setrm, wait, fence, barp, barc, bcinit, bcexp,
    bcarr, bcwait, bctest, waitw, mint, land, lwait, ltest, ldrop, rnext, mma, mmac, mwaitb, mdrain, mzero, mstat, apipe, cpost, qpost, ttld, ttst,
    ttinv, vbind, vunbind, trap, eret, srd, swr, swrFpark, swrLpwc, bkpt, cinv, cwb, tlbinv, seedset, clkrd, issueCycle, formDrill, furrowAgeEligible,
    rowRendezvousComplete, rowGroupExecute, tokenRead, placeTract, quantumExpiry, sleepCandidateTimer, swapOut, swapIn, plotRetire, sowingComplete,
    threadWake, pauseExpiry, waitwRecheck, barpComplete, barcComplete, loadReturn, storeAck, pageWalk, directoryMakeShared, regionWindowEnd,
    regionMigrate, regionMerge, lpwFadeTick, glean, viewAtomic, faratAtomic, reservationExpiry, barrierArrive, landArrive, landAnswer, slotLapse,
    frontEndTakePacket, launch, nopPacket, tokenSignal, queueCopyHandoff, qpostRingRoom, copy, quantisingCopy, conditionalCopy, peerCopy,
    copyComplete, mmaStreamStart, mmaStreamEnd, mdrainRun, mdrainComplete, mzeroTurn, apipeStart, apipeComplete, faultRecordFlush,
    parkingBudgetExpiry, faultService, debugSetComparator, debugSetControl, debugReadState, debugWriteState, debugResume, debugSingleStep, debugKill,
    faultsHold, faultsRelease, faultsKill, h2dDoorbell, mailboxWrite, mailboxAccept, d2hPost, selfTestRecord, attestation, certificates,
    contextRegister, contextUnregister, queueRegister, queueUnregister, pinChange, lazyAdd, discard, unfreeze, apertureSet, peerWindowSet,
    linkKeyRotate, memoryKeyRotate, errorLogRead, keyDeliver, keyInstallAck, oldGenerationAcked, retireMarker, flitReceive, portLinkUp,
    portLeaveService, oRemapRelease, destUnreachable, fabricRequestReceive, relayForward, hostAccess, powerOn, deviceReset, patrolScrub,
    powerThrottle, thermalTrip, uncorrectableError, reachabilityTableChange]

end Laws.RoundTrip

/-- What a decoder branch accepts has an encoding. -/
def Encoded (o : Option Instr) : Prop := ∀ i, o = some i → i.isEvent = false

theorem encoded_none : Encoded none := fun _ h => (Option.some_ne_none _ h.symm).elim

theorem encoded_some (i : Instr) : Encoded (some i) ↔ i.isEvent = false :=
  ⟨fun h => h i rfl, fun h _ e => Option.some.inj e ▸ h⟩

theorem encoded_bind {α : Type} (o : Option α) (f : α → Option Instr) : Encoded (o.bind f) ↔ ∀ x, o = some x → Encoded (f x) := by
  cases o with
  | none => simp [encoded_none]
  | some a => exact ⟨fun h x e => Option.some.inj e ▸ h, fun h => h a rfl⟩

theorem encoded_ite (c : Prop) [Decidable c] (x y : Option Instr) : Encoded (if c then x else y) ↔ (c → Encoded x) ∧ (¬c → Encoded y) := by
  split <;> simp [*]

/-- No major has a word of a step of the device: every branch of its table names an encoded instruction. -/
theorem encoded_parse (w : Nat) : Encoded (parse w) := by
  unfold parse
  split <;> simp only [encoded_ite, encoded_bind, encoded_some, encoded_none, Instr.isEvent, implies_true, and_self,
    parse00, parse01, parse02, parse03, parse04, parse05, parse06, parse07, parse08, parse09, parse0A, parse0B, parse0C, parse0D, parse0E, parse0F,
    parse10, parse11, parse12, parse13, parse14, parse15, parse16, parse17, parse18, parse19, parse1A, parse1B, parse1C, parse1D, parse1E, parse1F,
    parse20, parse21, parse26, parse27, parse28, parse2C, parse2D, parse2E, parse2F, parse30, parse31, parse32, parse33, parse34, parse35, parse36,
    parse37, parse38, parse39, parse3A, parse3B]

/-- A word decodes to the instruction that it parses to, where that is well formed. -/
theorem decodeWord_ok_iff (w : Word) (i : Instr) : decodeWord w = .ok i ↔ parse w.toNat = some i ∧ i.wf = true := by
  rw [decodeWord]
  cases parse w.toNat with
  | none => simp
  | some _ =>
    dsimp only
    split
    · simp only [Except.ok.injEq, Option.some.injEq]
      exact ⟨fun h => ⟨h, h ▸ ‹_›⟩, fun h => h.1⟩
    · simp only [reduceCtorEq, Option.some.injEq, false_iff]
      rintro ⟨rfl, h⟩
      exact absurd h ‹_›

/-- Settles O2: each constructor by its own round trip; what decodes has passed the check of its form, and every branch of the decoder's tables names an
instruction that has an encoding. -/
theorem decodeEncodeAgree : Obligations.DecodeEncodeAgree := by
  unfold Obligations.DecodeEncodeAgree
  refine ⟨⟨fun i => (Laws.RoundTrip.roundTrip i).1, fun i => (Laws.RoundTrip.roundTrip i).2⟩, fun w i h => ?_⟩
  obtain ⟨hp, hw⟩ := (decodeWord_ok_iff w i).mp h
  exact ⟨hw, encoded_parse _ i hp⟩

end Sys2Proof
end

section
/-! LAWS. A step with a drill picked, from its stops and its fetch to the end of the instruction (03 R62), and that every step goes on. -/

namespace Sys2Proof.Machine

/-! ## A drill that issues -/

/-- With a drill picked, a step issues from it. -/
theorem step_of_picked {s : State} {c slot : Nat} {q : List (Nat × Nat)} (h : s.issueQ = (c, slot) :: q) :
    step s = State.issueDrill { s with issueQ := q } c slot := by
  rw [step, h]

/-- A row group that may issue executes the word fetched when its rendezvous completed (07 R149). -/
theorem State.issueDrill_of_group {s : State} {c slot : Nat} {d : Drill} {w : GroupWord} (h : tget (s.core c).drills slot = some d)
    (hm : d.mayIssue s.cycle = true) (hg : d.group = some w) : s.issueDrill c slot = s.runWord c slot d w := by
  simp only [State.issueDrill, h, hm, hg, Bool.not_true, Bool.false_eq_true, if_false]

/-- Another drill that may issue fetches its next word. -/
theorem State.issueDrill_of_plain {s : State} {c slot : Nat} {d : Drill} (h : tget (s.core c).drills slot = some d)
    (hm : d.mayIssue s.cycle = true) (hg : d.group = none) : s.issueDrill c slot = s.issueNext c slot d := by
  simp only [State.issueDrill, h, hm, hg, Bool.not_true, Bool.false_eq_true, if_false]

/-- The lanes that stop have left the drill, and its first lane fetches. -/
theorem State.issueNext_of_lanes {s : State} {c slot : Nat} {d0 d : Drill} {r : Ref} {l : List Ref}
    (h : tget ((s.stopLanes d0.lanes).core c).drills slot = some d) (hl : d.lanes = r :: l) :
    s.issueNext c slot d0 = (s.stopLanes d0.lanes).issueWord c slot d r := by
  simp only [State.issueNext, h, hl]

/-- A word that has been fetched runs. -/
theorem State.issueWord_of_fetch {s t : State} {c slot : Nat} {d : Drill} {r : Ref} {w : Word} (h : s.fetch r = (t, .ok w)) :
    s.issueWord c slot d r = t.runWord c slot d (.word w) := by
  simp only [State.issueWord, h]

/-- A word that decodes runs as its instruction, delayed by that instruction's bank cycles. -/
theorem State.runWord_of_decode {s : State} {c slot : Nat} {d : Drill} {w : Word} {i : Instr} (h : decodeWord w = .ok i) :
    s.runWord c slot d (.word w) = endOutcome c slot (s.extraCycles i d.lanes) (exec i (s.withCur c slot w d)) := by
  simp only [State.runWord, State.execWord, State.wordDelay, h]

/-- Settles O4: the step unfolds into its stops, its fetch, and the instruction of the word with its end. -/
theorem stepRunsDecodedWord : Obligations.StepRunsDecodedWord := by
  unfold Obligations.StepRunsDecodedWord
  intro s c slot q d hq hd hm ends
  have hends : ∀ i w x d, ends i w x d = endOutcome c slot (x.extraCycles i d.lanes) (exec i (x.withCur c slot w d)) := by
    intro i w x d
    dsimp only [ends]
    cases exec i (x.withCur c slot w d) <;> rfl
  refine ⟨fun s1 s2 d1 r l w i hg hs hd1 hl hf hw => ?_, fun w i hg hw => ?_⟩
  · subst hs
    rw [step_of_picked hq, State.issueDrill_of_plain (s := { s with issueQ := q }) hd hm hg, hends, ← State.runWord_of_decode hw,
      ← State.issueWord_of_fetch hf]
    exact State.issueNext_of_lanes hd1 hl
  · rw [step_of_picked hq, State.issueDrill_of_group (s := { s with issueQ := q }) hd hm hg, hends]
    exact State.runWord_of_decode hw

/-! ## Going on -/

/-- Every instruction and every step of the device answers a next state. -/
theorem exec_goesOn (i : Instr) (s : State) : goesOn (exec i s) := by
  cases i <;> exact trivial

/-- The steps that are due by themselves go on. -/
theorem State.runDue_goesOn (s : State) (i : Due) : goesOn (s.runDue i) := by
  cases i <;> exact trivial

theorem endOutcome_goesOn {c slot extra : Nat} {o : Host.Outcome State Fault Refusal} (h : goesOn o) : goesOn (endOutcome c slot extra o) := by
  cases o with
  | next s => trivial
  | fault f => exact h
  | refused f => exact h

/-- A word goes on, one that decodes to nothing with a trap. -/
theorem State.execWord_goesOn (s : State) (w : Word) : goesOn (s.execWord w) := by
  rw [State.execWord]
  split
  · trivial
  · exact exec_goesOn ..

theorem State.runWord_goesOn (s : State) (c slot : Nat) (d : Drill) (w : GroupWord) : goesOn (s.runWord c slot d w) := by
  cases w with
  | fault code => trivial
  | word w => exact endOutcome_goesOn (State.execWord_goesOn ..)

theorem State.issueWord_goesOn (s : State) (c slot : Nat) (d : Drill) (r : Ref) : goesOn (s.issueWord c slot d r) := by
  rw [State.issueWord]
  split
  · split
    · trivial
    · exact State.runWord_goesOn ..
  · exact State.runWord_goesOn ..

theorem State.issueNext_goesOn (s : State) (c slot : Nat) (d : Drill) : goesOn (s.issueNext c slot d) := by
  dsimp only [State.issueNext]
  split
  · trivial
  · split
    · trivial
    · exact State.issueWord_goesOn ..

theorem State.issueDrill_goesOn (s : State) (c slot : Nat) : goesOn (s.issueDrill c slot) := by
  rw [State.issueDrill]
  split
  · trivial
  · split
    · trivial
    · split
      · exact State.runWord_goesOn ..
      · exact State.issueNext_goesOn ..

/-- Settles O7: of its three cases only the agenda's can stop, and it does not where its head is a step of the device. -/
theorem everyStepGoesOn : Obligations.EveryStepGoesOn := by
  unfold Obligations.EveryStepGoesOn
  refine ⟨exec_goesOn, fun s ha => ?_⟩
  cases hq : s.issueQ with
  | cons x q => rw [step_of_picked hq]; exact State.issueDrill_goesOn ..
  | nil =>
    cases hl : s.agenda with
    | nil => rw [step, hq, hl]; exact State.runDue_goesOn ..
    | cons i l =>
      have hi : i.isEvent = true := ha i (hl ▸ List.mem_cons_self)
      rw [step_of_agenda hq hl, if_neg (by simp [hi])]
      split
      · trivial
      · exact exec_goesOn ..

end Sys2Proof.Machine
end

section
/-! LAWS. Register and predicate operands (03 Table 3.1, R43, R45, R49). -/

namespace Sys2Proof.Machine

/-! ## Registers written -/

/-- Writing consecutive registers changes the registers alone. -/
theorem Thread.setRegs_frame (l : List Word) : ∀ (t : Thread) (x : Nat), t.setRegs x l = { t with regs := (t.setRegs x l).regs } := by
  induction l with
  | nil => exact fun _ _ => rfl
  | cons v l ih => exact fun t x => by rw [Thread.setRegs, ih (t.setReg x v) (x + 1)]; rfl

@[simp] theorem Thread.setReg_ra (t : Thread) (x : Nat) (v : Word) : (t.setReg x v).ra = t.ra := List.length_set

/-- A register after one in range has been written. -/
theorem Thread.setReg_getD {t : Thread} {x : Nat} (v : Word) (h : x < t.ra) (y : Nat) :
    (t.setReg x v).regs.getD y 0 = if y = x then v else t.regs.getD y 0 := by
  simp only [Thread.setReg, List.getD_eq_getElem?_getD, List.getElem?_set]
  by_cases hy : x = y
  · subst hy; simp [h]
  · simp [hy, Ne.symm hy]

/-- A register after consecutive ones in range have been written. -/
theorem Thread.setRegs_getD (l : List Word) : ∀ (t : Thread) (x y : Nat), x + l.length ≤ t.ra →
    (t.setRegs x l).regs.getD y 0 = if x ≤ y ∧ y < x + l.length then l.getD (y - x) 0 else t.regs.getD y 0 := by
  induction l with
  | nil => intro t x y _; rw [Thread.setRegs, if_neg (by simp)]
  | cons v l ih =>
    intro t x y h
    rw [List.length_cons] at h
    rw [Thread.setRegs, ih _ _ _ (by rw [Thread.setReg_ra]; omega), Thread.setReg_getD v (by omega), List.length_cons]
    by_cases hy : y = x
    · subst hy; rw [if_neg (by omega), if_pos rfl, if_pos (by omega), Nat.sub_self]; rfl
    · by_cases hin : x + 1 ≤ y ∧ y < x + 1 + l.length
      · rw [if_pos hin, if_pos (by omega), show y - x = y - (x + 1) + 1 by omega, List.getD_cons_succ]
      · rw [if_neg hin, if_neg hy, if_neg (by omega)]

/-- A 32-bit destination in the window. -/
theorem Thread.wr32_reg {t : Thread} {r : Reg} {x : Nat} (hr : ∀ v, t.wr32 r v = t.setReg x v) (h : x < t.ra) (v : Word) :
    t.wr32 r v = { t with regs := (t.wr32 r v).regs } ∧ (t.wr32 r v).ra = t.ra ∧
      ∀ y, (t.wr32 r v).regs.getD y 0 = if y = x then v else t.regs.getD y 0 := by
  rw [hr]
  exact ⟨rfl, Thread.setReg_ra .., Thread.setReg_getD v h⟩

/-! ## Values of several registers (03 R45) -/

/-- A word taken out of a value, as a number. -/
theorem extract32_eq {n : Nat} (v : BitVec n) (k : Nat) : v.extractLsb' k 32 = BitVec.ofNat 32 (v.toNat / 2 ^ k) := by
  rw [BitVec.extractLsb', Nat.shiftRight_eq_div_pow]

theorem words64_getD {v : DWord} {i : Nat} (h : i < 2) : (words64 v).getD i 0 = BitVec.ofNat 32 (v.toNat / 2 ^ (32 * i)) := by
  interval_cases i <;> exact extract32_eq ..

theorem words128_getD {v : Quad} {i : Nat} (h : i < 4) : (words128 v).getD i 0 = BitVec.ofNat 32 (v.toNat / 2 ^ (32 * i)) := by
  interval_cases i <;> exact extract32_eq ..

@[simp] theorem length_words64 (v : DWord) : (words64 v).length = 2 := rfl

@[simp] theorem length_words128 (v : Quad) : (words128 v).length = 4 := rfl

/-- Two words together, as a number. -/
theorem toNat_append_words (hi lo : Word) : (hi ++ lo : DWord).toNat = lo.toNat + 2 ^ 32 * hi.toNat := by
  rw [BitVec.toNat_append, ← Nat.shiftLeft_add_eq_or_of_lt lo.isLt, Nat.shiftLeft_eq]
  omega

@[simp] theorem Thread.rd64_zero (t : Thread) (e : Env) : t.rd64 e .zero = 0 := show ((0 : Word) ++ (0 : Word) : DWord) = 0 by decide

/-- A pair written to the window. -/
theorem Thread.wr64_w {t : Thread} {n : Fin 96} (v : DWord) (h : t.wb + n.val + 2 ≤ t.ra) :
    t.wr64 (.w n) v = { t with regs := (t.wr64 (.w n) v).regs } ∧
    ∀ x, (t.wr64 (.w n) v).regs.getD x 0 =
      if x = t.wb + n.val then BitVec.ofNat 32 v.toNat else if x = t.wb + n.val + 1 then BitVec.ofNat 32 (v.toNat / 2 ^ 32)
      else t.regs.getD x 0 := by
  refine ⟨Thread.setRegs_frame .., fun x => ?_⟩
  rw [show t.wr64 (.w n) v = t.setRegs (t.wb + n.val) (words64 v) from rfl, Thread.setRegs_getD _ _ _ _ h, length_words64]
  by_cases h0 : x = t.wb + n.val
  · subst h0; rw [if_pos (by omega), if_pos rfl, Nat.sub_self, words64_getD (by omega)]; simp
  · rw [if_neg h0]
    by_cases h1 : x = t.wb + n.val + 1
    · subst h1; rw [if_pos (by omega), if_pos rfl, Nat.add_sub_cancel_left, words64_getD (by omega)]
    · rw [if_neg (by omega), if_neg h1]

/-- A quad written to the window. -/
theorem Thread.wr128_w {t : Thread} {n : Fin 96} (v : Quad) (h : t.wb + n.val + 4 ≤ t.ra) :
    t.wr128 (.w n) v = { t with regs := (t.wr128 (.w n) v).regs } ∧
    ∀ x, (t.wr128 (.w n) v).regs.getD x 0 =
      if t.wb + n.val ≤ x ∧ x < t.wb + n.val + 4 then BitVec.ofNat 32 (v.toNat / 2 ^ (32 * (x - (t.wb + n.val)))) else t.regs.getD x 0 := by
  refine ⟨Thread.setRegs_frame .., fun x => ?_⟩
  rw [show t.wr128 (.w n) v = t.setRegs (t.wb + n.val) (words128 v) from rfl, Thread.setRegs_getD _ _ _ _ h, length_words128]
  split
  · exact words128_getD (by omega)
  · rfl

/-! ## Predicates (03 R49) -/

theorem Thread.setPred_frame (t : Thread) (p : Nat) (b : Bool) : t.setPred p b = { t with preds := (t.setPred p b).preds } := by
  rw [Thread.setPred]; split <;> rfl

/-- A predicate after one has been written: p0 stays true. -/
theorem Thread.pred_setPred (t : Thread) (p q : Fin 128) (b : Bool) :
    (t.setPred p.val b).pred q.val = if q = p ∧ p.val ≠ 0 then b else t.pred q.val := by
  rw [Thread.setPred]
  by_cases hp : p.val = 0
  · simp [hp]
  · have hbit : (1#128 <<< p.val).getLsbD q.val = decide (q = p) := by
      rw [BitVec.getLsbD_shiftLeft, BitVec.getLsbD_one, Bool.eq_iff_iff]
      simp only [Bool.and_eq_true, decide_eq_true_eq, Bool.not_eq_true', decide_eq_false_iff_not, Fin.ext_iff]
      omega
    rw [if_neg hp]
    cases b <;> simp only [Thread.pred, BitVec.getLsbD_or, BitVec.getLsbD_and, BitVec.getLsbD_not, hbit, q.isLt, if_true, Bool.false_eq_true, if_false]
    · by_cases hq : q = p <;> simp [hq, hp]
    · by_cases hq : q = p <;> simp [hq, hp]

/-- Settles O1: what Table 3.1 reads by unfolding, a destination by the registers it writes, a predicate by its bit. -/
theorem registersReadAndWritten : Obligations.RegistersReadAndWritten := by
  unfold Obligations.RegistersReadAndWritten
  refine ⟨fun t e => ⟨fun n => rfl, fun n => rfl, rfl, rfl, rfl, rfl, rfl, rfl, fun n => toNat_append_words .., Thread.rd64_zero t e⟩,
    fun t => ⟨fun n v h => Thread.wr32_reg (fun _ => rfl) h v, fun v h => ?_, fun v => rfl, fun v => rfl, fun n v h => Thread.wr64_w v h, fun v => rfl,
      fun n v h => Thread.wr128_w v h, fun v => rfl⟩,
    fun t p b => ⟨rfl, rfl, Thread.setPred_frame .., fun q => Thread.pred_setPred t p q b⟩⟩
  obtain ⟨hf, -, hg⟩ := Thread.wr32_reg (r := .wix) (fun _ => rfl) h v
  exact ⟨hf, hg⟩

end Sys2Proof.Machine
end

section
/-! LAWS. Immediates, the window base, the index register, NOP and SETRM (03 R67, 07 R156 to R158, R164, R170). -/

namespace Sys2Proof.Machine

/-- A register instruction without a guard that writes its one destination. -/
theorem computes_of_imm {i : Instr} {d : Reg} {eff : Env → Thread → Thread} {v : Env → Thread → Word} (hx : ∀ s, exec i s = .next (runPure gAll [(d, 1)] eff s))
    (he : ∀ e t, eff e t = t.wr32 d (v e t)) : Computes i always [(d, 1)] fun e t => t.wr32 d (v e t) :=
  computes_of_pure hx (fun _ => rfl) he fun e t => by rw [he, Thread.pc_wr32]

/-- The high half from the immediate, the low half kept (07 R156). -/
theorem movhi_value (imm : BitVec 16) (x : Word) : (imm.setWidth 32 <<< 16) ||| (x &&& 0xFFFF) = imm ++ x.extractLsb' 0 16 := by
  apply BitVec.eq_of_getLsbD_eq
  intro j hj
  have hm : (0xFFFF : Word).getLsbD j = decide (j < 16) := by
    rw [show (0xFFFF : Word) = BitVec.ofNat 32 (2 ^ 16 - 1) from rfl, BitVec.getLsbD_ofNat, Nat.testBit_two_pow_sub_one]
    simp [hj]
  rw [BitVec.getLsbD_or, BitVec.getLsbD_and, hm, BitVec.getLsbD_append]
  by_cases h : j < 16
  · simp [h]
  · simp [h, hj]

/-- A BF16 immediate widened: its bits moved up (07 R157). -/
theorem widenBf_eq (imm : BitVec 16) : widenBf imm = imm ++ 0#16 := by
  apply BitVec.eq_of_getLsbD_eq
  intro j hj
  rw [widenBf, BitVec.getLsbD_append]
  by_cases h : j < 16
  · simp [h]
  · simp [h, hj]

/-- WINB over lanes that all have the window (07 R158). -/
theorem exec_winb {imm : BitVec 16} {s : State} (hn : s.cur.lanes.Nodup)
    (hw : ∀ r ∈ s.cur.lanes, ∀ th, s.thread? r = some th → imm.toNat % 4 = 0 ∧ imm.toNat + 4 ≤ th.ra) :
    ∃ t, exec (.winb imm) s = .next t ∧ ChangesOn s.cur.lanes s t fun _ _ th => { th with wb := imm.toNat, pc := th.pc + 4 } :=
  ⟨_, rfl, runLanes_next (f := fun _ _ th => { th with wb := imm.toNat }) (fun _ _ _ => rfl) hn fun r hr _ _ th _ _ _ hs _ => if_pos (hw r hr th hs)⟩

/-- Settles O12: the immediates by one lemma, the others by their effect in one lane. -/
theorem immediatesAndIndex : Obligations.ImmediatesAndIndex := by
  unfold Obligations.ImmediatesAndIndex
  refine ⟨fun d i => ?_, fun d i => ?_, fun d i => ?_, fun d i => ?_, fun d i => ?_, fun d i => ?_, fun d n => ?_, fun d n => ?_, fun d i => ?_, fun d i => ?_,
    fun d i => ?_, fun d i => ?_, fun d i => ?_, fun d i => ?_, fun imm => ?_, fun imm => ?_, fun imm s => exec_winb, fun g => ?_, fun g m => ?_⟩
  · exact computes_of_imm (fun _ => rfl) fun _ _ => rfl
  · exact computes_of_imm (fun _ => rfl) fun _ t => congrArg (t.wr32 d) (movhi_value ..)
  iterate 6 · exact computes_of_imm (fun _ => rfl) fun _ _ => rfl
  · exact computes_of_imm (fun _ => rfl) fun _ t => congrArg (t.wr32 d) (widenBf_eq i)
  iterate 5 · exact computes_of_imm (fun _ => rfl) fun _ _ => rfl
  · exact computes_of_pure (fun _ => rfl) (fun _ => rfl) (fun _ _ => rfl) fun _ _ => rfl
  · exact computes_of_pure (fun _ => rfl) (fun _ => rfl) (fun _ _ => rfl) fun _ _ => rfl
  · exact computes_of_pure (fun _ => rfl) (guardY_eq g) (fun _ _ => rfl) fun _ _ => rfl
  · exact computes_of_pure (fun _ => rfl) (guardY_eq g) (fun _ _ => rfl) fun _ _ => rfl

end Sys2Proof.Machine
end

section
/-! LAWS. Trap entry and parking in a drill of one lane: illegal words, operands out of range, misaligned and untranslated addresses (03 R44, R62, 21 R373,
R375, R386). -/

namespace Sys2Proof.Machine

section Lemmas
variable {s : State} {r : Ref} {p : Plot} {th : Thread}

/-! ## What the one lane ends with -/

/-- An instruction whose one lane traps outside the handler. -/
theorem OneLane.trapsWith {i : Instr} {F : LaneFn} {code imm : Nat} {ea : DWord} (h : OneLane s r p th)
    (hs : th.sup = false) (hx : exec i s = .next (runLanes F s)) (hF : F s r p th = (s, .trap code imm ea)) : TrapsWith i s r th code imm ea :=
  ⟨_, hx, h.run_trap hF hs⟩

/-- An instruction whose one lane traps in its handler (21 R375). -/
theorem OneLane.parksIn_double {i : Instr} {F : LaneFn} {code imm : Nat} {ea : DWord} (h : OneLane s r p th)
    (hs : th.sup = true) (hx : exec i s = .next (runLanes F s)) (hF : F s r p th = (s, .trap code imm ea)) : ParksIn i s r th :=
  ⟨_, hx, h.run_double hF hs⟩

/-- An instruction whose one lane parks with a fault that is no violation and not the want of a port (21 R386). -/
theorem OneLane.parksIn {i : Instr} {F : LaneFn} {code acc : Nat} {addr : DWord} (h : OneLane s r p th)
    (hx : exec i s = .next (runLanes F s)) (hF : F s r p th = (s, .park code acc addr)) (hc : code < 0x20) : ParksIn i s r th := by
  have hport : code ≠ fcNoPort := by rw [fcNoPort]; omega
  have hfreeze : code ≠ fcFreeze := by rw [fcFreeze]; omega
  refine ⟨_, hx, ?_⟩
  rw [h.run hF (by simpa [Out.waits] using hport), State.settle_one, if_pos (by rfl)]
  refine (State.thread?_of_plots (State.deliverRecs_plots _ _) r).trans ?_
  simp only [State.settleLane, h.thread, hfreeze, if_false]
  exact State.parkThread_thread? _ th.pc h.thread

/-! ## Illegal words and operands out of range -/

/-- A word that decodes to nothing traps in every lane. -/
theorem State.execWord_of_reject {w : Word} (h : ∀ i, decodeWord w ≠ .ok i) :
    s.execWord w = .next (runLanes (fun s _ _ _ => (s, .trap trapIllegal 0 0)) s) := by
  rw [State.execWord]
  cases hw : decodeWord w with
  | error e => rfl
  | ok i => exact absurd hw (h i)

/-- Trap entry sets SUP (21 R373). -/
theorem Thread.trapped_sup (th : Thread) (w : Word) (tvec : DWord) (code imm : Nat) (ea : DWord) : (th.trapped w tvec code imm ea).sup = true := by
  simp [Thread.sup, Thread.trapped]

/-- A register instruction with an operand out of range, in a lane whose guard holds (03 R62 check 4). -/
theorem pureLane_out {guard : Thread → Bool} {ops : List (Reg × Nat)} {eff : Env → Thread → Thread}
    (hg : guard th = true) (ho : th.inRanges ops = false) : pureLane guard ops eff s r p th = (s, .trap trapRange 0 0) := by
  simp [pureLane, hg, ho]

/-- One operand out of range is enough. -/
theorem Thread.inRanges_out {t : Thread} {ops : List (Reg × Nat)} {x : Reg × Nat} (hm : x ∈ ops) (hx : t.inRange x.1 x.2 = false) :
    t.inRanges ops = false := List.all_eq_false.mpr ⟨x, hm, by simp [hx]⟩

/-! ## Addresses -/

/-- The instruction's one lane issues an access of n bytes at an address, of a kind of Table 21.7. -/
def IssuesBy (issue : Access → LaneFn) (i : Instr) (s : State) (r : Ref) (p : Plot) (th : Thread) (va n acc : Nat) : Prop :=
  ∃ F a, exec i s = .next (runLanes F s) ∧ F s r p th = issue a s r p th ∧ a.va = va ∧ a.bytes = n ∧ a.acc = acc

/-- An access that tests its alignment first traps where it fails (03 R62 check 6). -/
theorem OneLane.misaligned {issue : Access → LaneFn} {i : Instr} {va n acc : Nat} (h : OneLane s r p th)
    (hs : th.sup = false) (ha : ∀ a, a.va % a.bytes ≠ 0 → issue a s r p th = (s, .trap trapAlign 0 (BitVec.ofNat 64 a.va)))
    (hi : IssuesBy issue i s r p th va n acc) (hv : va % n ≠ 0) : TrapsWith i s r th 3 0 (BitVec.ofNat 64 va) := by
  obtain ⟨F, a, hx, hF, rfl, rfl, rfl⟩ := hi
  exact h.trapsWith hs hx (hF.trans (ha a hv))

theorem issueGlobal_misaligned (a : Access) (hv : a.va % a.bytes ≠ 0) :
    issueGlobal a s r p th = (s, .trap trapAlign 0 (BitVec.ofNat 64 a.va)) := if_pos hv

theorem issueSpad_misaligned (a : Access) (hv : a.va % a.bytes ≠ 0) :
    issueSpad a s r p th = (s, .trap trapAlign 0 (BitVec.ofNat 64 a.va)) := if_pos hv

theorem OneLane.issueGlobal_fault {a : Access} {c : Nat} (h : OneLane s r p th) (hv : a.va % a.bytes = 0)
    (hx : s.xlate p.core p.ctx a.va a.acc = (s, .error c)) : issueGlobal a s r p th = (s, .park c a.acc (BitVec.ofNat 64 a.va)) := by
  rw [issueGlobal, if_neg (not_not.mpr hv), h.coreOf, State.ctxIdOf_of_plot h.plot, hx]

/-- An access in global memory whose translation fails parks the thread (21 R386). -/
theorem OneLane.untranslated {i : Instr} {va n acc : Nat} (h : OneLane s r p th)
    (hi : IssuesBy issueGlobal i s r p th va n acc) (hv : va % n = 0) {c : Nat} (hc : c < 0x20) (hx : s.xlate p.core p.ctx va acc = (s, .error c)) :
    ParksIn i s r th := by
  obtain ⟨F, a, he, hF, rfl, rfl, rfl⟩ := hi
  exact h.parksIn he (hF.trans (h.issueGlobal_fault hv hx)) hc

/-- The one fault of a scratchpad address (09 R174). -/
theorem State.spadAt_error {tag addr n c : Nat} (h : s.spadAt tag addr n = .error c) : c = fcSpadRange := by
  dsimp only [State.spadAt] at h
  repeat' split at h
  all_goals cases h
  all_goals rfl

theorem issueSpad_fault {a : Access} (hv : a.va % a.bytes = 0)
    (ho : ∀ x, s.spadAt r.tag a.va a.bytes ≠ .ok x) : issueSpad a s r p th = (s, .park fcSpadRange a.acc (BitVec.ofNat 64 a.va)) := by
  rw [issueSpad, if_neg (not_not.mpr hv)]
  cases hc : s.spadAt r.tag a.va a.bytes with
  | ok x => exact absurd hc (ho x)
  | error c => rw [State.spadAt_error hc]

/-- A scratchpad access outside the scratchpad parks the thread (21 R386). -/
theorem OneLane.outside_spad {i : Instr} {va n acc : Nat} (h : OneLane s r p th)
    (hi : IssuesBy issueSpad i s r p th va n acc) (hv : va % n = 0) (ho : ∀ x, s.spadAt r.tag va n ≠ .ok x) : ParksIn i s r th := by
  obtain ⟨F, a, he, hF, rfl, rfl, rfl⟩ := hi
  exact h.parksIn he (hF.trans (issueSpad_fault hv ho)) (by decide)

/-! ## Which instructions issue which access -/

variable {i : Instr} {op : ReqOp} {aop n acc : Nat} {d a : Reg} {rc : RC} {sc : Scope} {sz : Sz} {o : AOrd}

/-- A lane of the M format, as of LD, ST, LR and SC (13 R262). -/
theorem issues_laneM {off : BitVec 4} {acq rel : Bool} (hx : exec i s = .next (runLanes (laneM op acc d a off rc sc acq rel sz) s))
    (hr : th.inRanges [(d, szRegs sz), (a, 2)] = true) : IssuesBy issueGlobal i s r p th (addrM s r p th a off (szBytes sz)) (szBytes sz) acc :=
  ⟨_, _, hx, if_neg (by simp [hr]), rfl, rfl, rfl⟩

/-- A lane of the S format, as of LDS and STS (13 R264). -/
theorem issues_laneS {off : BitVec 9} (hx : exec i s = .next (runLanes (laneS op acc d a off sz) s)) (hr : th.inRanges [(d, szRegs sz), (a, 1)] = true) :
    IssuesBy issueSpad i s r p th (addrS s r p th a off (szBytes sz)) (szBytes sz) acc :=
  ⟨_, _, hx, if_neg (by simp [hr]), rfl, rfl, rfl⟩

/-- A global atomic runs the lane of its AOP and width (13 R265, R266). -/
theorem exec_of_atomForm (h : atomForm i = some (aop, n, d, a, rc, sc, o)) (s : State) : exec i s = .next (runLanes (laneAtom aop n d a rc sc o) s) := by
  cases i <;> cases h <;> rfl

theorem issues_of_atomForm (h : atomForm i = some (aop, n, d, a, rc, sc, o)) (hr : th.inRanges [(d, operandRegs aop n), (a, 2)] = true) :
    IssuesBy issueGlobal i s r p th (th.rd64 (envOf s r p) a).toNat n accAtomic :=
  ⟨_, _, exec_of_atomForm h s, if_neg (by simpa [operandRegs, atomRegs] using hr), rfl, rfl, rfl⟩

/-- A scratchpad atomic runs the lane of its AOP and width (13 R269). -/
theorem exec_of_atomsForm (h : atomsForm i = some (aop, n, d, a, o)) (s : State) : ∃ tr, exec i s = .next (runLanes (laneAtoms aop n d a tr o) s) := by
  cases i <;> cases h <;> exact ⟨_, rfl⟩

theorem issues_of_atomsForm (h : atomsForm i = some (aop, n, d, a, o)) (hr : th.inRanges [(d, operandRegs aop n), (a, 1)] = true) :
    IssuesBy issueSpad i s r p th (th.rd32 (envOf s r p) a).toNat n accAtomic := by
  obtain ⟨tr, hx⟩ := exec_of_atomsForm h s
  exact ⟨_, _, hx, if_neg (by simpa [operandRegs, atomRegs] using hr), rfl, rfl, rfl⟩

end Lemmas

/-! ## The statements -/

/-- Settles O5: the word runs as the illegal-instruction trap of its one lane. -/
theorem illegalWordTraps : Obligations.IllegalWordTraps := by
  unfold Obligations.IllegalWordTraps
  intro s w r th p hw hl hcw hp ht hs hd hg hr
  have h : OneLane s r p th := ⟨hl, hp, ht, hd, hg, hr⟩
  obtain ⟨hu, ho, hm, -⟩ := h.run_trap (F := fun s _ _ _ => (s, .trap trapIllegal 0 0)) rfl hs
  exact ⟨_, _, State.execWord_of_reject hw, hu, rfl, rfl, rfl, hcw, rfl, rfl, rfl, Thread.trapped_sup .., rfl, rfl, rfl, ho, hm⟩

/-- Settles O20: a register instruction with an operand out of range traps in its one lane, and in its handler the lane parks. -/
theorem trapEntry : Obligations.TrapEntry := by
  unfold Obligations.TrapEntry
  refine ⟨fun s r p th h hs d a b g hg => ⟨fun ho => ?_, fun ho => ?_⟩, fun s r p th h hs => ⟨fun n => ?_, fun d a b g hg ho => ?_⟩⟩
  · have hr : th.inRanges [(d, 1), (a, 1), (b, 1)] = false := by
      rcases ho with ho | ho | ho
      · exact Thread.inRanges_out (x := (d, 1)) (by simp) ho
      · exact Thread.inRanges_out (x := (a, 1)) (by simp) ho
      · exact Thread.inRanges_out (x := (b, 1)) (by simp) ho
    have hg' := (guardTR_eq g th).trans hg
    exact ⟨h.trapsWith hs rfl (pureLane_out hg' hr), h.trapsWith hs rfl (pureLane_out rfl hr), fun ty => h.trapsWith hs rfl (pureLane_out hg' hr)⟩
  · exact h.trapsWith hs rfl (pureLane_out rfl ((th.inRanges_one d 2).trans ho))
  · exact h.parksIn_double hs rfl rfl
  · exact h.parksIn_double hs rfl (pureLane_out ((guardTR_eq g th).trans hg) (Thread.inRanges_out (x := (d, 1)) (by simp) ho))

/-- Settles O28: each instruction by the access that it issues, misaligned or at an address without a translation. -/
theorem misalignedAndUntranslated : Obligations.MisalignedAndUntranslated := by
  unfold Obligations.MisalignedAndUntranslated
  refine fun s r p th h hs => ⟨fun d a off rc sc ord sz hr => ⟨fun hv => ?_, fun hv c hc => ?_⟩, fun d a off sz hr => ⟨fun hv => ?_, fun hv ho => ?_⟩,
    fun i aop n d a rc sc o hi hr => ⟨fun hv => ?_, fun hv c hc hx => ?_⟩, fun i aop n d a o hi hr => ⟨fun hv => ?_, fun hv ho => ?_⟩⟩
  · have trap : ∀ {i acc}, IssuesBy issueGlobal i s r p th (addrM s r p th a off (szBytes sz)) (szBytes sz) acc →
        TrapsWith i s r th 3 0 (BitVec.ofNat 64 (addrM s r p th a off (szBytes sz))) := fun hi => h.misaligned hs issueGlobal_misaligned hi hv
    exact ⟨trap (issues_laneM rfl hr), trap (issues_laneM rfl hr), trap (issues_laneM rfl hr), trap (issues_laneM rfl hr)⟩
  · exact ⟨h.untranslated (issues_laneM rfl hr) hv hc, h.untranslated (issues_laneM rfl hr) hv hc, h.untranslated (issues_laneM rfl hr) hv hc,
      h.untranslated (issues_laneM rfl hr) hv hc⟩
  · exact ⟨h.misaligned hs issueSpad_misaligned (issues_laneS rfl hr) hv, h.misaligned hs issueSpad_misaligned (issues_laneS rfl hr) hv⟩
  · exact ⟨h.outside_spad (issues_laneS rfl hr) hv ho, h.outside_spad (issues_laneS rfl hr) hv ho⟩
  · have ht := h.misaligned hs issueGlobal_misaligned (issues_of_atomForm hi hr) hv
    rwa [BitVec.ofNat_toNat, BitVec.setWidth_eq] at ht
  · exact h.untranslated (issues_of_atomForm hi hr) hv hc hx
  · have ht := h.misaligned hs issueSpad_misaligned (issues_of_atomsForm hi hr) hv
    rwa [BitVec.ofNat_toNat] at ht
  · exact h.outside_spad (issues_of_atomsForm hi hr) hv ho

end Sys2Proof.Machine
end

section
/-! LAWS. Functions, conversions, signs and FCLASS of F32 values: the special cases of Table 5.6, and each instruction as one operation in one lane
(05 R116, 07 R137 to R143). -/

namespace Sys2Proof.Machine

/-! ## Instructions on registers, with and without flags -/

@[simp] theorem Thread.pc_wrFlags (t : Thread) (d : Reg) (x : Word × Nat) : (t.wrFlags d x).pc = t.pc := by
  rw [Thread.wrFlags, Thread.orStat_pc, Thread.pc_wr32]

theorem float1_of_run {i : Reg → Reg → Fin 8 → Instr} {f : Mode → Word → Word × Nat} (hx : ∀ d a g s, exec (i d a g) s = fp32u d a g f s) : Float1 i f :=
  fun d a g => computes_of_pure (hx d a g) (guardTR_eq g) (fun _ _ => rfl) fun _ _ => Thread.pc_wrFlags ..

theorem float2_of_run {i : Reg → Reg → Reg → Fin 8 → Instr} {f : Mode → Word → Word → Word × Nat} (hx : ∀ d a b g s, exec (i d a b g) s = fp32 d a b g f s) :
    Float2 i f :=
  fun d a b g => computes_of_pure (hx d a b g) (guardTR_eq g) (fun _ _ => rfl) fun _ _ => Thread.pc_wrFlags ..

theorem op1_of_run {i : Reg → Reg → Fin 8 → Instr} {f : Word → Word} (hx : ∀ d a g s, exec (i d a g) s = tr32u d a g f s) : Op1 i f :=
  fun d a g => computes_of_pure (hx d a g) (guardTR_eq g) (fun _ _ => rfl) fun _ _ => Thread.pc_wr32 ..

theorem op2_of_run {i : Reg → Reg → Reg → Fin 8 → Instr} {f : Word → Word → Word} (hx : ∀ d a b g s, exec (i d a b g) s = tr32 d a b g f s) : Op2 i f :=
  fun d a b g => computes_of_pure (hx d a b g) (guardTR_eq g) (fun _ _ => rfl) fun _ _ => Thread.pc_wr32 ..

/-! ## F32 codes and values -/

/-- What an F32 operation returns for an exact result: its code, and its own flags with those of the rounding. -/
def toF32 (m : Mode) (x : XReal × Nat) : Word × Nat := asWord (roundOp fmtF32 m x)

theorem fnOp_eq (f : XReal → XReal × Nat) (m : Mode) (a : Word) : fnOp f m a = toF32 m (f (f32 a)) := rfl

theorem fdivOp_eq (m : Mode) (a b : Word) : fdivOp m a b = toF32 m ((f32 a).div (f32 b)) := rfl

theorem toF32_nan (m : Mode) (g : Bool) (k : Nat) : toF32 m (.nan g, k) = (0x7FC00000, k) := by
  simp [toF32, asWord, roundOp, Fmt.round, Fmt.nanOf, fmtF32]

theorem toF32_inf (m : Mode) (s : Bool) (k : Nat) : toF32 m (.inf s, k) = (if s then 0xFF800000 else 0x7F800000, k) := by
  cases s <;> simp [toF32, asWord, roundOp, Fmt.round, Fmt.infCode, Fmt.signBit, Fmt.mag, fmtF32]

theorem toF32_zero (m : Mode) (s : Bool) (d k : Nat) : toF32 m (.fin s 0 d, k) = (if s then 0x80000000 else 0, k) := by
  cases s <;> simp [toF32, asWord, roundOp, Fmt.round, Fmt.signBit, Fmt.mag, fmtF32]

theorem toF32_one : ∀ (m : Mode) (s : Bool), toF32 m (.fin s 1 1, 0) = (if s then 0xBF800000 else 0x3F800000, 0) := by decide

theorem toF32_half : ∀ m : Mode, toF32 m (.fin false 1 2, 0) = (0x3F000000, 0) := by decide

/-- An exact result without flags of its own is rounded once. -/
theorem toF32_exact (m : Mode) (x : XReal) : toF32 m (x, 0) = asWord (fmtF32.round m x) := by
  simp [toF32, roundOp]

theorem f32_zero (s : Bool) : f32 (if s then 0x80000000 else 0) = .fin s 0 (2 ^ 149) := by cases s <;> rfl

theorem f32_inf (s : Bool) : f32 (if s then 0xFF800000 else 0x7F800000) = .inf s := by cases s <;> rfl

theorem f32_one : f32 0x3F800000 = .fin false (2 ^ 23) (2 ^ 23) := rfl

/-! ## NaNs and quotients (05 R107, R116) -/

theorem XReal.sigFlag_eq (x : XReal) : x.sigFlag = if x = .nan true then flagNV else 0 := by
  rcases x with (_ | _) | _ | _ <;> simp [XReal.sigFlag]

/-- A quotient with a NaN among its operands. -/
theorem XReal.div_nan {x y : XReal} (h : x.isNaN = true ∨ y.isNaN = true) :
    x.div y = (.nan false, if x = .nan true ∨ y = .nan true then flagNV else 0) := by
  have hd : x.div y = (.nan false, orFlags x.sigFlag y.sigFlag) := by
    cases x <;> cases y <;> simp_all [XReal.div, XReal.isNaN]
  have hor : ∀ b c : Prop, [Decidable b] → [Decidable c] → orFlags (if b then flagNV else 0) (if c then flagNV else 0) = if b ∨ c then flagNV else 0 := by
    intro b c _ _
    by_cases hb : b <;> by_cases hc : c <;> simp [hb, hc, orFlags]
  rw [hd, x.sigFlag_eq, y.sigFlag_eq, hor]

/-- A function of Table 5.6 gives NaN for a NaN, with NV for a signalling one. -/
theorem fn_nan (g : Bool) : ∀ f ∈ [fnSqrt, fnRsq, fnRcp, fnExp2, fnLog2, fnSinPi, fnCosPi, fnTanh, fnSigm], f (.nan g) = (.nan false, if g then flagNV else 0) := by
  simp only [List.forall_mem_cons, List.not_mem_nil, false_imp_iff, implies_true, and_true]
  exact ⟨rfl, rfl, by rw [fnRcp, XReal.div_nan (.inr rfl)]; simp, rfl, rfl, rfl, rfl, rfl, rfl⟩

/-! ## The special cases of Table 5.6 for numbers -/

theorem fnSinPi_int (x : Bool) {p q : Nat} (hp : p ≠ 0) (h : p % q = 0) : fnSinPi (.fin x p q) = (.fin x 0 1, 0) := by
  simp [fnSinPi, hp, h]

/-- cos(pi x) of an odd multiple of a half. -/
theorem fnCosPi_half (x : Bool) {p q : Nat} (h : 2 * p % (2 * q) = q) : fnCosPi (.fin x p q) = (.fin false 0 1, 0) := by
  have hr : 2 * (p % q) = q := by rwa [Nat.mul_mod_mul_left] at h
  have hu : 2 * (if q < p % (2 * q) then 2 * q - p % (2 * q) else p % (2 * q)) = q := by
    have hs : p % (2 * q) = p % q ∨ p % (2 * q) = p % q + q := by
      rw [Nat.mul_comm 2 q, Nat.mod_mul]
      rcases Nat.mod_two_eq_zero_or_one (p / q) with h | h <;> simp [h]
    split <;> omega
  simp only [fnCosPi, hu, if_true]

/-- The functions at a zero. -/
theorem fn_zero (s : Bool) (d : Nat) :
    fnSqrt (.fin s 0 d) = (.fin s 0 d, 0) ∧ fnRsq (.fin s 0 d) = (.inf s, flagDZ) ∧ fnRcp (.fin s 0 d) = (.inf s, flagDZ) ∧
    fnExp2 (.fin s 0 d) = (.fin false 1 1, 0) ∧ fnLog2 (.fin s 0 d) = (.inf true, flagDZ) ∧ fnSinPi (.fin s 0 d) = (.fin s 0 d, 0) ∧
    fnTanh (.fin s 0 d) = (.fin s 0 d, 0) ∧ fnSigm (.fin s 0 d) = (.fin false 1 2, 0) := by
  refine ⟨rfl, rfl, by simp [fnRcp, XReal.div], by simp [fnExp2, mulPow], rfl, rfl, rfl, rfl⟩

/-- The functions at an infinity. -/
theorem fn_inf (s : Bool) :
    fnSqrt (.inf s) = (if s then (.nan false, flagNV) else (.inf false, 0)) ∧ fnRsq (.inf s) = (if s then (.nan false, flagNV) else (.fin false 0 1, 0)) ∧
    fnRcp (.inf s) = (.fin s 0 1, 0) ∧ fnExp2 (.inf s) = (if s then .fin false 0 1 else .inf false, 0) ∧
    fnLog2 (.inf s) = (if s then (.nan false, flagNV) else (.inf false, 0)) ∧ fnSinPi (.inf s) = (.nan false, flagNV) ∧
    fnCosPi (.inf s) = (.nan false, flagNV) ∧ fnTanh (.inf s) = (.fin s 1 1, 0) ∧ fnSigm (.inf s) = (.fin false (if s then 0 else 1) 1, 0) := by
  cases s <;> exact ⟨rfl, rfl, rfl, rfl, rfl, rfl, rfl, rfl, rfl⟩

theorem fnLog2_one (q : Nat) (h : q ≠ 0) : fnLog2 (.fin false q q) = (.fin false 0 1, 0) := by
  simp [fnLog2, ilog2, shiftFrac, XReal.ofInt, h]

/-! ## What the operations return on F32 codes -/

theorem fnOp_nan {m : Mode} {a : Word} {g : Bool} (h : f32 a = .nan g) :
    ∀ f ∈ [fnSqrt, fnRsq, fnRcp, fnExp2, fnLog2, fnSinPi, fnCosPi, fnTanh, fnSigm], fnOp f m a = (0x7FC00000, if g then flagNV else 0) := fun f hf => by
  rw [fnOp_eq, h, fn_nan g f hf, toF32_nan]

theorem fdivOp_nan {m : Mode} {a b : Word} (h : (f32 a).isNaN = true ∨ (f32 b).isNaN = true) :
    fdivOp m a b = (0x7FC00000, if f32 a = .nan true ∨ f32 b = .nan true then flagNV else 0) := by
  rw [fdivOp_eq, XReal.div_nan h, toF32_nan]

/-- The special cases at the zeros, the infinities and 1 (05 Table 5.6). -/
theorem fnOp_special (m : Mode) (s : Bool) :
    let zero : Word := if s then 0x80000000 else 0
    let inf : Word := if s then 0xFF800000 else 0x7F800000
    fnOp fnSqrt m zero = (zero, 0) ∧ fnOp fnRsq m zero = (inf, flagDZ) ∧ fnOp fnRcp m zero = (inf, flagDZ) ∧ fnOp fnRcp m inf = (zero, 0) ∧
    fnOp fnExp2 m zero = (0x3F800000, 0) ∧ fnOp fnLog2 m zero = (0xFF800000, flagDZ) ∧ fnOp fnSinPi m zero = (zero, 0) ∧ fnOp fnSinPi m inf = (0x7FC00000, flagNV) ∧
    fnOp fnCosPi m inf = (0x7FC00000, flagNV) ∧ fnOp fnTanh m zero = (zero, 0) ∧ fnOp fnTanh m inf = (if s then 0xBF800000 else 0x3F800000, 0) ∧
    fnOp fnSigm m zero = (0x3F000000, 0) ∧ fnOp fnSqrt m inf = (if s then (0x7FC00000, flagNV) else (inf, 0)) ∧
    fnOp fnRsq m inf = (if s then (0x7FC00000, flagNV) else (0, 0)) ∧ fnOp fnExp2 m inf = (if s then 0 else inf, 0) ∧
    fnOp fnLog2 m inf = (if s then (0x7FC00000, flagNV) else (inf, 0)) ∧ fnOp fnLog2 m 0x3F800000 = (0, 0) ∧ fnOp fnSigm m inf = (if s then 0 else 0x3F800000, 0) := by
  intro zero inf
  have z : ∀ f, fnOp f m zero = toF32 m (f (.fin s 0 (2 ^ 149))) := fun f => by rw [fnOp_eq, f32_zero]
  have i : ∀ f, fnOp f m inf = toF32 m (f (.inf s)) := fun f => by rw [fnOp_eq, f32_inf]
  obtain ⟨zsqrt, zrsq, zrcp, zexp, zlog, zsin, ztanh, zsigm⟩ := fn_zero s (2 ^ 149)
  obtain ⟨isqrt, irsq, ircp, iexp, ilog, isin, icos, itanh, isigm⟩ := fn_inf s
  have log1 : fnOp fnLog2 m 0x3F800000 = (0, 0) := by rw [fnOp_eq, f32_one, fnLog2_one _ (by decide), toF32_zero]; rfl
  simp only [z, i, zsqrt, zrsq, zrcp, zexp, zlog, zsin, ztanh, zsigm, isqrt, irsq, ircp, iexp, ilog, isin, icos, itanh, isigm, log1]
  cases s <;> simp [toF32_nan, toF32_inf, toF32_zero, toF32_one, toF32_half, zero, inf]

/-- The results on numbers: a quotient is the exact one rounded once, or that of Table 5.6 for a zero divisor; the invalid operands of the roots and the
logarithm; sin and cos of the multiples of pi and of the odd multiples of its half. -/
theorem f32_numbers_special (m : Mode) {a b : Word} {x y : Bool} {p q r t : Nat} (ha : f32 a = .fin x p q) (hb : f32 b = .fin y r t) :
    (r ≠ 0 → fdivOp m a b = asWord (fmtF32.round m (.fin (x != y) (p * t) (q * r)))) ∧
    (r = 0 → p ≠ 0 → fdivOp m a b = (if x = y then 0x7F800000 else 0xFF800000, flagDZ)) ∧ (r = 0 → p = 0 → fdivOp m a b = (0x7FC00000, flagNV)) ∧
    (x = true → p ≠ 0 → fnOp fnSqrt m a = (0x7FC00000, flagNV) ∧ fnOp fnRsq m a = (0x7FC00000, flagNV) ∧ fnOp fnLog2 m a = (0x7FC00000, flagNV)) ∧
    (p ≠ 0 → p % q = 0 → fnOp fnSinPi m a = (if x then 0x80000000 else 0, 0)) ∧ (2 * p % (2 * q) = q → fnOp fnCosPi m a = (0, 0)) := by
  simp only [fdivOp_eq, fnOp_eq, ha, hb]
  refine ⟨fun hr => ?_, fun hr hp => ?_, fun hr hp => ?_, fun hx hp => ?_, fun hp h => ?_, fun h => ?_⟩
  · simp only [XReal.div, hr, if_false, toF32_exact]
  · simp only [XReal.div, hr, hp, if_true, if_false, toF32_inf]
    cases x <;> cases y <;> rfl
  · simp only [XReal.div, hr, hp, if_true, toF32_nan]
  · simp only [fnSqrt, fnRsq, fnLog2, hp, hx, if_true, if_false, toF32_nan, and_self]
  · rw [fnSinPi_int x hp h, toF32_zero]
  · rw [fnCosPi_half x h, toF32_zero]; rfl

/-! ## FCLASS -/

/-- FCLASS answers one of the ten masks of Table 7.8. -/
theorem fclassOp_mem (a : Word) : fclassOp a ∈ [0x001#32, 0x002, 0x004, 0x008, 0x010, 0x020, 0x040, 0x080, 0x100, 0x200] := by
  rw [fclassOp]
  split_ifs <;> decide

/-- Settles O14: the special cases by the exact result of each function, every instruction by its operation in one lane. -/
theorem floatFunctionsAndConversions : Obligations.FloatFunctionsAndConversions := by
  unfold Obligations.FloatFunctionsAndConversions
  refine ⟨⟨fun m a g h => ⟨fnOp_nan h, fun b => ⟨?_, ?_⟩⟩, fun m a b x y p q r t ha hb => f32_numbers_special m ha hb, fnOp_special,
    float2_of_run fun _ _ _ _ _ => rfl, ?_, ?_, ?_, ?_, ?_, ?_, ?_, ?_, ?_, float2_of_run fun _ _ _ _ _ => rfl, float1_of_run fun _ _ _ _ => rfl⟩,
    fun ce u => ⟨float1_of_run fun _ _ _ _ => rfl, float1_of_run fun _ _ _ _ => rfl⟩, fun src dst => float1_of_run fun _ _ _ _ => rfl,
    fun d a ce g => ?_, op1_of_run fun _ _ _ _ => rfl, op1_of_run fun _ _ _ _ => rfl, op2_of_run fun _ _ _ _ _ => rfl, op1_of_run fun _ _ _ _ => rfl, fclassOp_mem⟩
  · rw [fdivOp_nan (.inl (by rw [h]; rfl)), h]; simp
  · rw [fdivOp_nan (.inr (by rw [h]; rfl)), h]; simp [or_comm]
  iterate 9 · exact float1_of_run fun _ _ _ _ => rfl
  · exact computes_of_pure (fun _ => rfl) (guardTR_eq g) (fun _ _ => rfl) fun _ _ => Thread.pc_wrFlags ..

end Sys2Proof.Machine
end

section
/-! LAWS. The anchored exact accumulator: the parts of a state, sums and conversions of states, and the instructions (05 R111 to R114, 07 R144 to R148). -/

namespace Sys2Proof.Machine

/-! ## A state and its parts (05 Table 5.5) -/

/-- Z of a state made from its parts. -/
def axaZ (nan oowp oown : Bool) (n : Nat) : Bool := n % 2 ^ 124 == 0 && !nan && !oowp && !oown

theorem axaMake_toNat (nan oowp oown : Bool) (n : Nat) : (axaMake nan oowp oown n).toNat =
    n % 2 ^ 124 + (axaZ nan oowp oown n).toNat * 2 ^ 124 + oown.toNat * 2 ^ 125 + oowp.toNat * 2 ^ 126 + nan.toNat * 2 ^ 127 := by
  have hz := (axaZ nan oowp oown n).toNat_le
  have h1 := nan.toNat_le
  have h2 := oowp.toNat_le
  have h3 := oown.toNat_le
  have hlt : n % 2 ^ 124 + (axaZ nan oowp oown n).toNat * 2 ^ 124 + oown.toNat * 2 ^ 125 + oowp.toNat * 2 ^ 126 + nan.toNat * 2 ^ 127 < 2 ^ 128 := by omega
  exact (BitVec.toNat_ofNat ..).trans (Nat.mod_eq_of_lt hlt)

/-- A binary digit of a sum. -/
theorem testBit_digit {lo hi k x : Nat} {b : Bool} (h : lo < 2 ^ k) (hx : x = lo + (b.toNat + 2 * hi) * 2 ^ k) : x.testBit k = b := by
  rw [Nat.testBit_eq_decide_div_mod_eq, hx, Nat.add_mul_div_right _ _ (Nat.two_pow_pos k), Nat.div_eq_of_lt h]
  cases b <;> simp

/-- N, Z and the three flags of a state made from its parts. -/
theorem axaMake_parts (nan oowp oown : Bool) (n : Nat) :
    (axaMake nan oowp oown n).extractLsb' 0 124 = BitVec.ofNat 124 n ∧ (axaMake nan oowp oown n).getLsbD 124 = axaZ nan oowp oown n ∧
    (axaMake nan oowp oown n).getLsbD 125 = oown ∧ (axaMake nan oowp oown n).getLsbD 126 = oowp ∧ (axaMake nan oowp oown n).getLsbD 127 = nan := by
  have hx := axaMake_toNat nan oowp oown n
  have hn : n % 2 ^ 124 < 2 ^ 124 := Nat.mod_lt _ (by decide)
  have hz := (axaZ nan oowp oown n).toNat_le
  have h2 := oowp.toNat_le
  have h3 := oown.toNat_le
  refine ⟨?_, testBit_digit (hi := oown.toNat + 2 * oowp.toNat + 4 * nan.toNat) hn ?_,
    testBit_digit (lo := n % 2 ^ 124 + (axaZ nan oowp oown n).toNat * 2 ^ 124) (hi := oowp.toNat + 2 * nan.toNat) ?_ ?_,
    testBit_digit (lo := n % 2 ^ 124 + (axaZ nan oowp oown n).toNat * 2 ^ 124 + oown.toNat * 2 ^ 125) (hi := nan.toNat) ?_ ?_,
    testBit_digit (lo := n % 2 ^ 124 + (axaZ nan oowp oown n).toNat * 2 ^ 124 + oown.toNat * 2 ^ 125 + oowp.toNat * 2 ^ 126) (hi := 0) ?_ ?_⟩
  · apply BitVec.eq_of_toNat_eq
    rw [BitVec.extractLsb'_toNat, Nat.shiftRight_zero, BitVec.toNat_ofNat, hx]
    omega
  all_goals omega

/-- N as bits of the state. -/
theorem axaN_eq (a : Quad) : axaN a = (a.extractLsb' 0 124).toNat := by
  rw [axaN, BitVec.extractLsb'_toNat, Nat.shiftRight_zero]

/-- The signed value of a field is that of its bits in two's complement. -/
theorem sgn_toNat {w : Nat} (x : BitVec (w + 1)) : sgn (w + 1) x.toNat = x.toInt := by
  rw [sgn, Nat.mod_eq_of_lt x.isLt, BitVec.toInt_eq_toNat_cond, Nat.add_sub_cancel, Nat.pow_succ]
  have h : x.toNat < 2 ^ w ↔ 2 * x.toNat < 2 ^ w * 2 := by omega
  simp only [h]
  norm_cast

/-! ## Sums (05 R113) -/

theorem axaCombine_parts (a b : Quad) :
    let c := axaCombine a b
    c.extractLsb' 0 124 = a.extractLsb' 0 124 + b.extractLsb' 0 124 ∧ (∀ i ∈ [125, 126, 127], c.getLsbD i = (a.getLsbD i || b.getLsbD i)) ∧
    (c.getLsbD 124 = true ↔ c.extractLsb' 0 124 = 0 ∧ ∀ i ∈ [125, 126, 127], c.getLsbD i = false) := by
  intro c
  obtain ⟨hn, hz, h1, h2, h3⟩ := axaMake_parts (a.getLsbD 127 || b.getLsbD 127) (a.getLsbD 126 || b.getLsbD 126) (a.getLsbD 125 || b.getLsbD 125) (axaN a + axaN b)
  rw [← axaCombine] at hn hz h1 h2 h3
  have h0 : c.extractLsb' 0 124 = 0 ↔ (axaN a + axaN b) % 2 ^ 124 = 0 := by
    rw [hn, ← BitVec.toNat_inj, BitVec.toNat_ofNat]; rfl
  refine ⟨?_, ?_, ?_⟩
  · rw [hn, BitVec.ofNat_add, axaN_eq, axaN_eq, BitVec.ofNat_toNat, BitVec.ofNat_toNat, BitVec.setWidth_eq, BitVec.setWidth_eq]
  · simp only [List.forall_mem_cons, List.not_mem_nil, false_imp_iff, implies_true, and_true]
    exact ⟨h1, h2, h3⟩
  · simp only [List.forall_mem_cons, List.not_mem_nil, false_imp_iff, implies_true, and_true]
    rw [h0, hz, h1, h2, h3]
    simp only [axaZ, Bool.and_eq_true, beq_iff_eq, Bool.not_eq_true']
    exact ⟨fun ⟨⟨⟨h, hn⟩, hp⟩, hm⟩ => ⟨h, hm, hp, hn⟩, fun ⟨h, hm, hp, hn⟩ => ⟨⟨⟨h, hn⟩, hp⟩, hm⟩⟩

/-! ## Conversions (05 R114) -/

/-- A number that is not zero is N × 2^(XA - 96), as a fraction. -/
theorem axaReal_eq (a : Quad) (xa : Int) : ∃ p q : Nat, 0 < q ∧ p * 2 ^ (96 - xa).toNat = (a.extractLsb' 0 124).toInt.natAbs * q * 2 ^ (xa - 96).toNat ∧
    axaReal (axaN a) xa = .fin (decide ((a.extractLsb' 0 124).toInt < 0)) p q := by
  rw [axaReal, axaN_eq, sgn_toNat]
  generalize (a.extractLsb' 0 124).toInt = n
  by_cases h : 0 ≤ 96 - xa
  · have h0 : (xa - 96).toNat = 0 := by omega
    exact ⟨n.natAbs, 1 * 2 ^ (96 - xa).toNat, by positivity, by rw [h0]; ring, by rw [shiftFrac, if_pos h]⟩
  · have h0 : (96 - xa).toNat = 0 := by omega
    have h1 : (-(96 - xa)).toNat = (xa - 96).toNat := by omega
    exact ⟨n.natAbs * 2 ^ (xa - 96).toNat, 1, one_pos, by rw [h0]; ring, by rw [shiftFrac, if_neg h, h1]⟩

theorem axaN_eq_zero (a : Quad) : axaN a = 0 ↔ (a.extractLsb' 0 124).toInt = 0 := by
  rw [axaN_eq, BitVec.toInt_eq_toNat_cond]
  have := (a.extractLsb' 0 124).isLt
  split <;> omega

/-- A state converts by its flags before its number. -/
theorem axaConvert_cases (a : Quad) (xa : Int) (f : Fmt) (m : Mode) :
    let n := (a.extractLsb' 0 124).toInt
    let r := axaConvert a xa f m
    (a.getLsbD 127 = true → r = f.nanOf) ∧
    (a.getLsbD 127 = false → a.getLsbD 126 = true → a.getLsbD 125 = true → r = (f.nanOf.1, flagNV ||| f.nanOf.2)) ∧
    (a.getLsbD 127 = false → a.getLsbD 126 = true → a.getLsbD 125 = false → r = f.round m (.inf false)) ∧
    (a.getLsbD 127 = false → a.getLsbD 126 = false → a.getLsbD 125 = true → r = f.round m (.inf true)) ∧
    (a.getLsbD 127 = false → a.getLsbD 126 = false → a.getLsbD 125 = false →
      (n = 0 → r = f.round m (.fin (decide (m = 3)) 0 1)) ∧
      (n ≠ 0 → ∃ p q : Nat, 0 < q ∧ p * 2 ^ (96 - xa).toNat = n.natAbs * q * 2 ^ (xa - 96).toNat ∧ r = f.round m (.fin (decide (n < 0)) p q))) := by
  intro n r
  refine ⟨fun h => ?_, fun h h' h'' => ?_, fun h h' h'' => ?_, fun h h' h'' => ?_, fun h h' h'' => ⟨fun hn => ?_, fun hn => ?_⟩⟩
  · simp only [r, axaConvert, h, if_true]
  · simp only [r, axaConvert, h, h', h'', Bool.false_eq_true, if_false, Bool.and_self, if_true]; rfl
  · simp only [r, axaConvert, h, h', h'', Bool.false_eq_true, if_false, Bool.and_false, if_true]
  · simp only [r, axaConvert, h, h', h'', Bool.false_eq_true, if_false, Bool.false_and, if_true]
  · have h0 := (axaN_eq_zero a).2 hn
    simp only [r, axaConvert, h, h', h'', h0, Bool.false_eq_true, if_false, Bool.and_self, if_true]; rfl
  · have h0 : axaN a ≠ 0 := fun h0 => hn ((axaN_eq_zero a).1 h0)
    obtain ⟨p, q, hq, hv, hr⟩ := axaReal_eq a xa
    refine ⟨p, q, hq, hv, ?_⟩
    simp only [r, axaConvert, h, h', h'', h0, Bool.false_eq_true, if_false, Bool.and_self, hr]; rfl

/-! ## Comparison (07 R148) -/

/-- Two states agree but for Z exactly when their difference has no other bit. -/
theorem xcmpOp_eq (a b : Quad) : xcmpOp a b = ((a ^^^ b) &&& ~~~(1#128 <<< 124) == 0) := by
  have key : ∀ x y z : Bool, (x || z) = (y || z) ↔ ((x ^^ y) && !z) = false := by decide
  have bit : ∀ z : Quad, a ||| z = b ||| z ↔ (a ^^^ b) &&& ~~~z = 0 := fun z => by
    refine ⟨fun h => BitVec.eq_of_getLsbD_eq fun i hi => ?_, fun h => BitVec.eq_of_getLsbD_eq fun i hi => ?_⟩
    · have hb := congrArg (·.getLsbD i) h
      simp only [BitVec.getLsbD_or, key] at hb
      rw [BitVec.getLsbD_and, BitVec.getLsbD_xor, BitVec.getLsbD_not, decide_eq_true hi, Bool.true_and, hb]
      exact BitVec.getLsbD_zero.symm
    · have hb := congrArg (·.getLsbD i) h
      simp only [BitVec.getLsbD_and, BitVec.getLsbD_xor, BitVec.getLsbD_not, decide_eq_true hi, Bool.true_and] at hb
      rw [BitVec.getLsbD_or, BitVec.getLsbD_or, key, hb]
      exact BitVec.getLsbD_zero
  rw [xcmpOp, Bool.eq_iff_iff, beq_iff_eq, beq_iff_eq, bit]

/-- Settles O15: the parts of a sum, the cases of a conversion, and every instruction by its effect in one lane. -/
theorem anchoredAccumulator : Obligations.AnchoredAccumulator := by
  unfold Obligations.AnchoredAccumulator
  refine ⟨axaCombine_parts, axaConvert_cases, fun d a b g => ?_, fun d a g => ?_, fun d a ce g => ?_, fun d a g => ?_, fun a g => ?_, fun d a b g => ?_,
    fun d a b g => ?_, fun p a b g => ?_⟩
  · exact computes_of_pure (fun _ => rfl) (guardTR_eq g) (fun _ _ => rfl) fun _ _ => Thread.pc_wr128 ..
  · exact computes_of_pure (fun _ => rfl) (guardTR_eq g) (fun _ _ => rfl) fun _ _ => Thread.pc_wr128 ..
  · exact computes_of_pure (fun _ => rfl) (guardTR_eq g) (fun _ _ => rfl) fun _ _ => Thread.pc_wr32 ..
  · exact computes_of_pure (fun _ => rfl) (guardTR_eq g) (fun _ _ => rfl) fun _ _ => Thread.pc_wr128 ..
  · exact computes_of_pure (fun _ => rfl) (guardTR_eq g) (fun _ _ => rfl) fun _ _ => rfl
  · exact computes_of_pure (fun _ => rfl) (guardTR_eq g) (fun _ _ => rfl) fun _ _ => Thread.pc_wr128 ..
  · exact computes_of_pure (fun _ => rfl) (guardTR_eq g) (fun _ _ => rfl) fun _ _ => Thread.pc_wr128 ..
  · exact computes_of_pure (fun _ => rfl) (guardTR_eq g) (fun e t => congrArg (t.setPred p.val) (xcmpOp_eq ..)) fun _ _ => Thread.pc_setPred ..

end Sys2Proof.Machine
end

section
/-! LAWS. Reductions and scans of a row: the fixed trees, integers through them, and F32 by them (05 R117, 07 R149, R152, R153). -/

namespace Sys2Proof.Machine

/-! ## The trees (05 R117) -/

section Trees
variable {α β : Type} {op : α → α → α} {op' : β → β → β} {g : α → β}

theorem reduceLevel_map (h : ∀ x y, op' (g x) (g y) = g (op x y)) : ∀ v, reduceLevel op' (v.map g) = (reduceLevel op v).map g
  | [] => rfl
  | [_] => rfl
  | x :: y :: l => by simp only [List.map_cons, reduceLevel, h, reduceLevel_map h l]

/-- The tree of values that stand for others is the tree of those. -/
theorem reduceTree_map (h : ∀ x y, op' (g x) (g y) = g (op x y)) (v : List α) : reduceTree op' (v.map g) = (reduceTree op v).map g := by
  simp only [reduceTree, reduceLevel_map h]

theorem scanLevel_map (h : ∀ x y, op' (g x) (g y) = g (op x y)) (v : List α) (d : Nat) : scanLevel op' (v.map g) d = (scanLevel op v d).map g := by
  rw [scanLevel, scanLevel, ← List.map_take, ← List.map_drop, List.zipWith_map, List.map_append, List.map_zipWith]
  simp only [h]

theorem scanTree_map (h : ∀ x y, op' (g x) (g y) = g (op x y)) (v : List α) : scanTree op' (v.map g) = (scanTree op v).map g := by
  simp only [scanTree, List.foldl_cons, List.foldl_nil, scanLevel_map h]

/-- One level halves the list and keeps what an associative operation makes of all its values. -/
theorem reduceLevel_foldl (ha : ∀ x y z, op (op x y) z = op x (op y z)) : ∀ (x : α) (l : List α),
    ∃ y m, reduceLevel op (x :: l) = y :: m ∧ m.length = l.length / 2 ∧ m.foldl op y = l.foldl op x
  | x, [] => ⟨x, [], rfl, by simp, rfl⟩
  | x, [b] => ⟨op x b, [], rfl, by simp, rfl⟩
  | x, b :: c :: l => by
    obtain ⟨y, m, hr, hm, hf⟩ := reduceLevel_foldl ha c l
    have : Std.Associative op := ⟨ha⟩
    refine ⟨op x b, y :: m, by rw [reduceLevel, hr], by simp only [List.length_cons]; omega, ?_⟩
    simp only [List.foldl_cons]
    rw [List.foldl_assoc (op := op), hf, ← List.foldl_assoc (op := op)]

/-- The reduction of 64 values by an associative operation is their fold. -/
theorem reduceTree_foldl (ha : ∀ x y z, op (op x y) z = op x (op y z)) {v : List α} (hv : v.length = 64) :
    ∃ x l, v = x :: l ∧ reduceTree op v = [l.foldl op x] := by
  obtain ⟨x, l, rfl⟩ := List.exists_cons_of_length_eq_add_one hv
  have hl : l.length = 63 := by simpa using hv
  obtain ⟨x1, l1, e1, n1, f1⟩ := reduceLevel_foldl ha x l
  obtain ⟨x2, l2, e2, n2, f2⟩ := reduceLevel_foldl ha x1 l1
  obtain ⟨x3, l3, e3, n3, f3⟩ := reduceLevel_foldl ha x2 l2
  obtain ⟨x4, l4, e4, n4, f4⟩ := reduceLevel_foldl ha x3 l3
  obtain ⟨x5, l5, e5, n5, f5⟩ := reduceLevel_foldl ha x4 l4
  obtain ⟨x6, l6, e6, n6, f6⟩ := reduceLevel_foldl ha x5 l5
  have h6 : l6 = [] := List.eq_nil_of_length_eq_zero (by omega)
  subst h6
  exact ⟨x, l, rfl, by rw [reduceTree, e1, e2, e3, e4, e5, e6, ← f1, ← f2, ← f3, ← f4, ← f5, ← f6]; rfl⟩

/-- Absent values at an identity of the operation count for nothing. -/
theorem foldl_getD {P : α → Prop} {e : α} (hP : ∀ x y, P x → P y → P (op x y)) (he : ∀ x, P x → op x e = x) :
    ∀ (l : List (Option α)) (x : α), (∀ y, some y ∈ l → P y) → P x → (l.map (·.getD e)).foldl op x = (l.filterMap id).foldl op x
  | [], _, _, _ => rfl
  | none :: l, x, hl, hx => by
    simpa [he x hx] using foldl_getD hP he l x (fun y hy => hl y (List.mem_cons_of_mem _ hy)) hx
  | some y :: l, x, hl, hx => by
    simpa using foldl_getD hP he l (op x y) (fun z hz => hl z (List.mem_cons_of_mem _ hz)) (hP x y hx (hl y List.mem_cons_self))

/-- The reduction of a row whose absent lanes stand at the identity is the fold of the present ones. -/
theorem reduceTree_getD {P : α → Prop} {e : α} (ha : ∀ x y z, op (op x y) z = op x (op y z)) (hP : ∀ x y, P x → P y → P (op x y)) (h0 : P e)
    (he : ∀ x, P x → op x e = x ∧ op e x = x) {l : List (Option α)} (hl : ∀ y, some y ∈ l → P y) (hn : l.length = 64) :
    reduceTree op (l.map (·.getD e)) = [(l.filterMap id).foldl op e] := by
  obtain ⟨x, m, hx, hr⟩ := reduceTree_foldl ha (v := l.map (·.getD e)) (by rw [List.length_map, hn])
  have hPx : P x := by
    have hm : x ∈ l.map (·.getD e) := by rw [hx]; exact List.mem_cons_self
    obtain ⟨o, ho, rfl⟩ := List.mem_map.1 hm
    cases o with
    | none => exact h0
    | some y => exact hl y ho
  rw [hr, ← foldl_getD hP (fun x h => (he x h).1) l e hl h0, hx, List.foldl_cons, (he x hPx).2]

end Trees

/-! ## Running sums -/

/-- After the level at distance d an element is the sum of the values of the d lanes up to its own. -/
def SumsOf (v u : List Nat) (d : Nat) : Prop :=
  u.length = v.length ∧ ∀ j (h : j < u.length), u[j] + (v.take (j + 1 - d)).sum = (v.take (j + 1)).sum

theorem sumsOf_one (v : List Nat) : SumsOf v v 1 :=
  ⟨rfl, fun j h => by rw [Nat.add_sub_cancel, List.sum_take_succ _ _ h, Nat.add_comm]⟩

theorem sumsOf_scanLevel {v u : List Nat} {d : Nat} (h : SumsOf v u d) (hd : d ≤ v.length) : SumsOf v (scanLevel (· + ·) u d) (2 * d) := by
  obtain ⟨hn, hs⟩ := h
  have hlen : (scanLevel (· + ·) u d).length = u.length := by
    rw [scanLevel, List.length_append, List.length_take, List.length_zipWith, List.length_drop]; omega
  refine ⟨hlen.trans hn, fun j hj => ?_⟩
  have hju : j < u.length := hlen ▸ hj
  by_cases h : j < d
  · have e : (scanLevel (· + ·) u d)[j] = u[j] := by simp [scanLevel, h, hju]
    have h0 := hs j hju
    rw [show j + 1 - d = 0 by omega] at h0
    rw [e, show j + 1 - 2 * d = 0 by omega, h0]
  · have e : (scanLevel (· + ·) u d)[j] = u[j - d] + u[j] := by
      have hm : min d u.length = d := by omega
      have hjd : d + (j - d) = j := by omega
      simp [scanLevel, List.getElem_append, h, hm, hjd]
    have h0 := hs j hju
    have h1 := hs (j - d) (by omega)
    rw [show j - d + 1 - d = j + 1 - 2 * d by omega, show j - d + 1 = j + 1 - d by omega] at h1
    rw [e]; omega

/-- An element of the scan of 64 values is the sum of those up to its own lane. -/
theorem scanTree_add {v : List Nat} (hv : v.length = 64) {j : Nat} (hj : j < 64) (x : Nat) : (scanTree (· + ·) v).getD j x = (v.take (j + 1)).sum := by
  have h1 := sumsOf_scanLevel (sumsOf_one v) (by omega)
  have h2 := sumsOf_scanLevel h1 (by omega)
  have h3 := sumsOf_scanLevel h2 (by omega)
  have h4 := sumsOf_scanLevel h3 (by omega)
  have h5 := sumsOf_scanLevel h4 (by omega)
  obtain ⟨hn, hs⟩ := sumsOf_scanLevel h5 (by omega)
  have hlt : j < (scanTree (· + ·) v).length := by rw [← hv, ← hn] at hj; exact hj
  have hsum := hs j hlt
  rw [show j + 1 - 2 * (2 * (2 * (2 * (2 * (2 * 1))))) = 0 by omega] at hsum
  rw [List.getD_eq_getElem _ _ hlt]
  exact hsum

/-! ## The values of a row -/

/-- The values of an operand in the 64 lanes of a row. -/
def rowOpts (v : RowView) (rt : RT) (a : Reg) : List (Option Nat) := v.map fun x => x.map fun (e, t) => t.rowValue e rt a

theorem rowInputs_eq (v : RowView) (rt : RT) (a : Reg) (n : Nat) : rowInputs v rt a n = ((rowOpts v rt a).map (·.getD n)).map fun x => (x, 0) := by
  rw [rowInputs, rowOpts, List.map_map, List.map_map]
  refine List.map_congr_left fun x _ => ?_
  cases x <;> rfl

theorem presentValues_eq (v : RowView) (rt : RT) (a : Reg) : presentValues v rt a = (rowOpts v rt a).filterMap id := by
  rw [presentValues, rowOpts, List.filterMap_map]; rfl

theorem laneValues_eq (v : RowView) (rt : RT) (a : Reg) : laneValues v rt a = (rowOpts v rt a).map (·.getD 0) := by
  rw [laneValues, rowOpts, List.map_map]
  refine List.map_congr_left fun x _ => ?_
  cases x <;> rfl

theorem rowOpts_length (v : RowView) (rt : RT) (a : Reg) : (rowOpts v rt a).length = v.length := List.length_map ..

theorem Thread.rowValue_lt (t : Thread) (e : Env) (rt : RT) (a : Reg) : t.rowValue e rt a < 2 ^ rtWidth rt := by
  cases rt <;> exact BitVec.isLt _

theorem rowOpts_lt {v : RowView} {rt : RT} {a : Reg} {y : Nat} (h : some y ∈ rowOpts v rt a) : y < 2 ^ rtWidth rt := by
  obtain ⟨x, -, hx⟩ := List.mem_map.1 h
  obtain ⟨⟨e, t⟩, -, rfl⟩ := Option.map_eq_some_iff.1 hx
  exact t.rowValue_lt e rt a

theorem rowView_length (s : State) (guard : Thread → Bool) (ops : List (Reg × Nat)) : (rowView s guard ops).length = 64 := by
  rw [rowView, List.length_map, List.length_range]

/-! ## Row instructions that reduce or scan -/

/-- A row has 64 lanes. -/
theorem RowComputes.congr {i : Instr} {guard : Thread → Bool} {ops : List (Reg × Nat)} {eff eff' : RowView → Nat → Env → Thread → Thread}
    (h : RowComputes i guard ops eff) (he : ∀ v j e t, v.length = 64 → j < 64 → eff v j e t = eff' v j e t) : RowComputes i guard ops eff' := by
  intro s hg hn hr
  obtain ⟨t, hx, hc⟩ := h s hg hn hr
  have hl : ∀ r : Ref, r.lane < 64 := fun r => Nat.mod_lt _ (by decide)
  exact ⟨t, hx, hc.congr fun r p th => by rw [he _ _ _ _ (rowView_length s guard ops) (hl r)]⟩

@[simp] theorem Thread.pc_wrRow (t : Thread) (rt : RT) (d : Reg) (n : Nat) : (t.wrRow rt d n).pc = t.pc := by
  cases rt <;> simp [Thread.wrRow]

theorem Thread.orStat_zero (t : Thread) : t.orStat (BitVec.ofNat 32 0) = t := by
  simp [Thread.orStat]

theorem intNode_zero (f : Nat → Nat → Nat) (x y : Nat) : intNode f (x, 0) (y, 0) = (f x y, 0) := by
  rw [intNode, Nat.or_self]

section Instructions
variable {i : Instr} {d a : Reg} {rt : RT} {g : Fin 8} {node : RowNode} {ident : Nat}

/-- A reduction writes the root of the tree and the flags below it. -/
theorem rowComputes_reduce (hx : ∀ s, exec i s = rowReduce d a rt g node ident s) :
    RowComputes i (guardTR g) [(d, rtRegs rt), (a, rtRegs rt)] fun v _ _ t =>
      let x := (reduceTree node (rowInputs v rt a ident)).headD (ident, 0)
      (t.wrRow rt d x.1).orStat (BitVec.ofNat 32 x.2) :=
  rowComputes_of_run hx (guardTR_eq g) (fun _ _ _ _ => rfl) fun _ _ _ _ => by rw [Thread.orStat_pc, Thread.pc_wrRow]

/-- A scan writes an element of the scan and the flags of all. -/
theorem rowComputes_scan {ex : Bool} (hx : ∀ s, exec i s = rowScan d a rt ex g node ident s) :
    RowComputes i (guardTR g) [(d, rtRegs rt), (a, rtRegs rt)] fun v j _ t =>
      let xs := scanTree node (rowInputs v rt a ident)
      let x := if ex then (if j = 0 then ident else (xs.getD (j - 1) (ident, 0)).1) else (xs.getD j (ident, 0)).1
      (t.wrRow rt d x).orStat (BitVec.ofNat 32 (xs.foldl (fun f y => f ||| y.2) 0)) :=
  rowComputes_of_run hx (guardTR_eq g) (fun _ _ _ _ => rfl) fun _ _ _ _ => by rw [Thread.orStat_pc, Thread.pc_wrRow]

/-- A reduction whose tree has a root without flags. -/
theorem rowComputes_reduce_value {f : RowView → Nat} (hx : ∀ s, exec i s = rowReduce d a rt g node ident s)
    (hv : ∀ v, v.length = 64 → reduceTree node (rowInputs v rt a ident) = [(f v, 0)]) :
    RowComputes i (guardTR g) [(d, rtRegs rt), (a, rtRegs rt)] fun v _ _ t => t.wrRow rt d (f v) :=
  (rowComputes_reduce hx).congr fun v _ _ t h _ => by
    simp only [hv v h, List.headD_cons, Thread.orStat_zero]

/-- A reduction by an associative integer operation over the present values. -/
theorem rowComputes_reduce_int {op : Nat → Nat → Nat} (hx : ∀ s, exec i s = rowReduce d a rt g (intNode op) ident s)
    (ha : ∀ x y z, op (op x y) z = op x (op y z)) (hP : ∀ x y, x < 2 ^ rtWidth rt → y < 2 ^ rtWidth rt → op x y < 2 ^ rtWidth rt)
    (h0 : ident < 2 ^ rtWidth rt) (he : ∀ x, x < 2 ^ rtWidth rt → op x ident = x ∧ op ident x = x) :
    RowComputes i (guardTR g) [(d, rtRegs rt), (a, rtRegs rt)] fun v _ _ t => t.wrRow rt d ((presentValues v rt a).foldl op ident) :=
  rowComputes_reduce_value hx fun v h => by
    rw [rowInputs_eq, reduceTree_map (intNode_zero op), presentValues_eq,
      reduceTree_getD ha hP h0 he (fun _ => rowOpts_lt) ((rowOpts_length v rt a).trans h)]
    rfl

end Instructions

/-! ## Sums -/

/-- What stands at a node of a tree of sums: the sum of the lanes below it, without flags. -/
def sumAt (rt : RT) (n : Nat) : Nat × Nat := (n % 2 ^ rtWidth rt, 0)

theorem addNode_sumAt (rt : RT) (x y : Nat) : addNode rt (sumAt rt x) (sumAt rt y) = sumAt rt (x + y) := by
  rw [addNode, sumAt, sumAt, sumAt, intNode_zero, ← Nat.add_mod]

theorem rowInputs_sumAt (v : RowView) (rt : RT) (a : Reg) : rowInputs v rt a 0 = (laneValues v rt a).map (sumAt rt) := by
  rw [rowInputs_eq, laneValues_eq]
  refine List.map_congr_left fun x hx => ?_
  obtain ⟨o, ho, rfl⟩ := List.mem_map.1 hx
  rw [sumAt, Nat.mod_eq_of_lt]
  cases o with
  | none => exact Nat.two_pow_pos _
  | some y => exact rowOpts_lt ho

theorem reduceTree_addNode {v : RowView} (hv : v.length = 64) (rt : RT) (a : Reg) :
    reduceTree (addNode rt) (rowInputs v rt a 0) = [sumAt rt (presentValues v rt a).sum] := by
  rw [rowInputs_sumAt, reduceTree_map (addNode_sumAt rt), laneValues_eq,
    reduceTree_getD (P := fun _ => True) Nat.add_assoc (fun _ _ _ _ => trivial) trivial (fun x _ => ⟨x.add_zero, x.zero_add⟩) (fun _ _ => trivial)
      ((rowOpts_length v rt a).trans hv), ← presentValues_eq, List.sum_eq_foldl]
  rfl

/-- Values without flags have none together. -/
theorem foldl_flags_sumAt (rt : RT) (l : List Nat) : (l.map (sumAt rt)).foldl (fun f y => f ||| y.2) 0 = 0 := by
  induction l with
  | nil => rfl
  | cons x l ih => simpa [sumAt] using ih

theorem scanTree_addNode (v : RowView) (rt : RT) (a : Reg) :
    scanTree (addNode rt) (rowInputs v rt a 0) = (scanTree (· + ·) (laneValues v rt a)).map (sumAt rt) := by
  rw [rowInputs_sumAt, scanTree_map (addNode_sumAt rt)]

theorem scanTree_addNode_getD {v : RowView} (hv : v.length = 64) (rt : RT) (a : Reg) {j : Nat} (hj : j < 64) :
    ((scanTree (addNode rt) (rowInputs v rt a 0)).getD j (0, 0)).1 = ((laneValues v rt a).take (j + 1)).sum % 2 ^ rtWidth rt := by
  have hl : (laneValues v rt a).length = 64 := by rw [laneValues, List.length_map, hv]
  have h0 : ((0, 0) : Nat × Nat) = sumAt rt 0 := by rw [sumAt, Nat.zero_mod]
  rw [scanTree_addNode, h0, List.getD_map, scanTree_add hl hj]
  rfl

/-! ## Least and greatest values -/

theorem minMaxNode_unsigned {rt : RT} (h : rt = .u32 ∨ rt = .u64) (mx : Bool) : minMaxNode rt mx = intNode (cond mx max min) := by
  rcases h with rfl | rfl <;> cases mx <;> rfl

/-- The operation of a node on signed values. -/
def signedPick (w : Nat) (mx : Bool) (x y : Nat) : Nat := if decide (sgn w x ≤ sgn w y) == mx then y else x

theorem minMaxNode_signed {rt : RT} (h : rt = .i32 ∨ rt = .i64) (mx : Bool) : minMaxNode rt mx = intNode (signedPick (rtWidth rt) mx) := by
  rcases h with rfl | rfl <;> rfl

theorem signedPick_mem (w : Nat) (mx : Bool) (x y : Nat) : signedPick w mx x y = x ∨ signedPick w mx x y = y := by
  rw [signedPick]; split
  · exact .inr rfl
  · exact .inl rfl

theorem signedPick_lt {w n x y : Nat} {mx : Bool} (hx : x < n) (hy : y < n) : signedPick w mx x y < n := by
  rcases signedPick_mem w mx x y with e | e <;> rw [e] <;> assumption

theorem sgn_signedPick (w : Nat) (mx : Bool) (x y : Nat) : sgn w (signedPick w mx x y) = cond mx max min (sgn w x) (sgn w y) := by
  rw [signedPick]
  cases mx <;> by_cases h : sgn w x ≤ sgn w y <;> simp [h] <;> omega

theorem signedPick_assoc (w : Nat) (mx : Bool) (x y z : Nat) : signedPick w mx (signedPick w mx x y) z = signedPick w mx x (signedPick w mx y z) := by
  simp only [signedPick]
  cases mx <;> simp only [beq_false, beq_true, Bool.not_eq_true', decide_eq_false_iff_not, decide_eq_true_eq] <;> split_ifs <;> omega

/-- The least and the greatest signed value. -/
theorem sgn_bounds (w x : Nat) : -2 ^ w ≤ sgn (w + 1) x ∧ sgn (w + 1) x ≤ 2 ^ w - 1 := by
  have hm : x % 2 ^ (w + 1) < 2 ^ (w + 1) := Nat.mod_lt _ (Nat.two_pow_pos _)
  rw [sgn, Nat.add_sub_cancel]
  generalize x % 2 ^ (w + 1) = y at hm ⊢
  have h2 : (2 : Int) ^ (w + 1) = 2 ^ w * 2 := pow_succ ..
  have h0 : (0 : Int) ≤ (y : Int) := Int.natCast_nonneg y
  zify at hm
  split
  · next h => zify at h; omega
  · next h => zify at h; omega

/-- A value of w + 1 bits from its signed reading. -/
theorem unsgn_sgn {w x : Nat} (h : x < 2 ^ (w + 1)) : unsgn (w + 1) (sgn (w + 1) x) = x := by
  have hm : ((x : Int) % (2 ^ (w + 1) : Nat)).toNat = x := by
    rw [← Int.natCast_mod, Nat.mod_eq_of_lt h, Int.toNat_natCast]
  rw [unsgn, sgn, Nat.mod_eq_of_lt h]
  split
  · exact hm
  · rw [← Nat.cast_ofNat, ← Nat.cast_pow, Int.sub_emod_right]
    exact hm

/-- The identity of a node on signed values: the greatest value for a minimum, the least for a maximum (07 Table 7.9). -/
def signedIdentity (w : Nat) (mx : Bool) : Nat := if mx then 2 ^ w else 2 ^ w - 1

theorem signedIdentity_lt (w : Nat) (mx : Bool) : signedIdentity w mx < 2 ^ (w + 1) := by
  have := Nat.two_pow_pos w
  rw [signedIdentity, Nat.pow_succ]; split <;> omega

theorem sgn_signedIdentity (w : Nat) (mx : Bool) : sgn (w + 1) (signedIdentity w mx) = if mx then -2 ^ w else 2 ^ w - 1 := by
  have hw := Nat.two_pow_pos w
  rw [sgn, Nat.mod_eq_of_lt (signedIdentity_lt w mx), Nat.add_sub_cancel, signedIdentity]
  cases mx
  · simp
  · simp [pow_succ]; ring

theorem signedPick_identity {w x : Nat} (mx : Bool) (h : x < 2 ^ (w + 1)) :
    signedPick (w + 1) mx x (signedIdentity w mx) = x ∧ signedPick (w + 1) mx (signedIdentity w mx) x = x := by
  have inj : ∀ y, y < 2 ^ (w + 1) → sgn (w + 1) y = sgn (w + 1) x → y = x := fun y hy he => by rw [← unsgn_sgn hy, he, unsgn_sgn h]
  have hi := signedIdentity_lt w mx
  obtain ⟨hmin, hmax⟩ := sgn_bounds w x
  have hs : cond mx max min (sgn (w + 1) x) (sgn (w + 1) (signedIdentity w mx)) = sgn (w + 1) x ∧
      cond mx max min (sgn (w + 1) (signedIdentity w mx)) (sgn (w + 1) x) = sgn (w + 1) x := by
    rw [sgn_signedIdentity]
    cases mx
    · exact ⟨min_eq_left hmax, min_eq_right hmax⟩
    · exact ⟨max_eq_left hmin, max_eq_right hmin⟩
  exact ⟨inj _ (signedPick_lt h hi) (by rw [sgn_signedPick, hs.1]), inj _ (signedPick_lt hi h) (by rw [sgn_signedPick, hs.2])⟩

theorem foldl_signedPick_lt {w n : Nat} {mx : Bool} : ∀ {l : List Nat} {x : Nat}, (∀ y ∈ l, y < n) → x < n → l.foldl (signedPick w mx) x < n
  | [], _, _, hx => hx
  | y :: l, _, hl, hx => foldl_signedPick_lt (l := l) (fun z hz => hl z (List.mem_cons_of_mem y hz)) (signedPick_lt hx (hl y List.mem_cons_self))

/-- The fold of a row's values through their signed readings. -/
theorem foldl_signedPick {w : Nat} (mx : Bool) {l : List Nat} (hl : ∀ y ∈ l, y < 2 ^ (w + 1)) {x : Nat} (hx : x < 2 ^ (w + 1)) :
    l.foldl (signedPick (w + 1) mx) x = unsgn (w + 1) ((l.map (sgn (w + 1))).foldl (cond mx max min) (sgn (w + 1) x)) := by
  rw [List.foldl_map, List.foldl_hom (sgn (w + 1)) (g₁ := signedPick (w + 1) mx) fun x y => (sgn_signedPick ..).symm, unsgn_sgn (foldl_signedPick_lt hl hx)]

theorem presentValues_lt {v : RowView} {rt : RT} {a : Reg} : ∀ y ∈ presentValues v rt a, y < 2 ^ rtWidth rt := fun y hy => by
  rw [presentValues_eq] at hy
  obtain ⟨o, ho, rfl⟩ := List.mem_filterMap.1 hy
  exact rowOpts_lt ho

/-- The minimum and the maximum of unsigned values. -/
theorem rowComputes_unsigned {i : Instr} {d a : Reg} {rt : RT} {g : Fin 8} (h : rt = .u32 ∨ rt = .u64) (mx : Bool)
    (hx : ∀ s, exec i s = rowReduce d a rt g (minMaxNode rt mx) (minMaxIdentity rt mx) s) :
    RowComputes i (guardTR g) [(d, rtRegs rt), (a, rtRegs rt)] fun v _ _ t =>
      t.wrRow rt d ((presentValues v rt a).foldl (cond mx max min) (if mx then 0 else 2 ^ rtWidth rt - 1)) := by
  have hid : minMaxIdentity rt mx = if mx then 0 else 2 ^ rtWidth rt - 1 := by rcases h with rfl | rfl <;> rfl
  rw [minMaxNode_unsigned h, hid] at hx
  have hw := Nat.two_pow_pos (rtWidth rt)
  cases mx
  · exact rowComputes_reduce_int hx Nat.min_assoc (fun x y hx _ => lt_of_le_of_lt (Nat.min_le_left x y) hx) (Nat.sub_lt hw one_pos) fun x h =>
      ⟨min_eq_left (Nat.le_pred_of_lt h), min_eq_right (Nat.le_pred_of_lt h)⟩
  · exact rowComputes_reduce_int hx Nat.max_assoc (fun x y hx hy => Nat.max_lt.2 ⟨hx, hy⟩) hw fun x _ => ⟨Nat.max_zero x, Nat.zero_max x⟩

/-- The minimum and the maximum of signed values. -/
theorem rowComputes_signed {i : Instr} {d a : Reg} {rt : RT} {g : Fin 8} {w : Nat} (h : rt = .i32 ∨ rt = .i64) (hw : rtWidth rt = w + 1) (mx : Bool)
    (hx : ∀ s, exec i s = rowReduce d a rt g (minMaxNode rt mx) (signedIdentity w mx) s) :
    RowComputes i (guardTR g) [(d, rtRegs rt), (a, rtRegs rt)] fun v _ _ t =>
      t.wrRow rt d (unsgn (rtWidth rt) (((presentValues v rt a).map (sgn (rtWidth rt))).foldl (cond mx max min) (if mx then -2 ^ (rtWidth rt - 1) else 2 ^ (rtWidth rt - 1) - 1))) := by
  rw [minMaxNode_signed h] at hx
  refine (rowComputes_reduce_int hx (signedPick_assoc _ mx) (fun _ _ => signedPick_lt) (hw ▸ signedIdentity_lt w mx) fun x hx => ?_).congr fun v _ _ t _ _ => ?_
  · rw [hw] at hx ⊢; exact signedPick_identity mx hx
  · have hl := presentValues_lt (v := v) (rt := rt) (a := a)
    rw [hw] at hl ⊢
    rw [foldl_signedPick mx hl (signedIdentity_lt w mx), sgn_signedIdentity]; rfl

/-! ## The statement -/

/-- The sum of the present lanes, wrapped. -/
theorem rowComputes_rredAddi (d a : Reg) (rt : RT) (g : Fin 8) :
    RowComputes (.rredAddi d a rt g) (guardTR g) [(d, rtRegs rt), (a, rtRegs rt)] fun v _ _ t => t.wrRow rt d ((presentValues v rt a).sum % 2 ^ rtWidth rt) :=
  rowComputes_reduce_value (fun _ => rfl) fun _ h => reduceTree_addNode h rt a

/-- The sum of the lanes up to and with a lane, or before it, wrapped. -/
theorem rowComputes_rscani (d a : Reg) (rt : RT) (ex : Bool) (g : Fin 8) :
    RowComputes (.rscani d a rt ex g) (guardTR g) [(d, rtRegs rt), (a, rtRegs rt)] fun v j _ t =>
      t.wrRow rt d (((laneValues v rt a).take (if ex then j else j + 1)).sum % 2 ^ rtWidth rt) := by
  refine (rowComputes_scan (node := addNode rt) (ident := 0) fun _ => rfl).congr fun v j _ t hv hj => ?_
  have hf : (scanTree (addNode rt) (rowInputs v rt a 0)).foldl (fun f y => f ||| y.2) 0 = 0 := by
    rw [scanTree_addNode, foldl_flags_sumAt]
  simp only [hf, Thread.orStat_zero]
  cases ex with
  | false => simp only [Bool.false_eq_true, if_false, scanTree_addNode_getD hv rt a hj]
  | true =>
    cases j with
    | zero => simp
    | succ j => simp only [if_true, Nat.succ_ne_zero, if_false, Nat.add_sub_cancel, scanTree_addNode_getD hv rt a (Nat.lt_of_succ_lt hj)]

/-- Settles O17: integers by what their trees come to, F32 by the trees themselves. -/
theorem rowReductions : Obligations.RowReductions := by
  unfold Obligations.RowReductions
  refine ⟨⟨fun d a rt g _ => rowComputes_rredAddi d a rt g, fun d a rt g h => rowComputes_unsigned h false fun _ => rfl,
    fun d a rt g h => rowComputes_unsigned h true fun _ => rfl, fun d a rt g h => ?_, fun d a rt g h => ?_, fun d a rt ex g _ => rowComputes_rscani d a rt ex g⟩,
    fun d a g => rowComputes_reduce (rt := .f32) (node := addfNode) (ident := addfIdentity) fun _ => rfl, fun d a g mx => ?_, fun d a ex g => rowComputes_scan (rt := .f32) (node := addfNode) (ident := addfIdentity) fun _ => rfl, fun op v hv ha => reduceTree_foldl ha hv⟩
  · rcases h with rfl | rfl
    · exact rowComputes_signed (w := 31) (.inl rfl) rfl false fun _ => rfl
    · exact rowComputes_signed (w := 63) (.inr rfl) rfl false fun _ => rfl
  · rcases h with rfl | rfl
    · exact rowComputes_signed (w := 31) (.inl rfl) rfl true fun _ => rfl
    · exact rowComputes_signed (w := 63) (.inr rfl) rfl true fun _ => rfl
  · cases mx
    · exact rowComputes_reduce (rt := .f32) (node := minMaxNode .f32 false) (ident := minMaxIdentity .f32 false) fun _ => rfl
    · exact rowComputes_reduce (rt := .f32) (node := minMaxNode .f32 true) (ident := minMaxIdentity .f32 true) fun _ => rfl

end Sys2Proof.Machine
end

section
/-! LAWS. Integer, logic, shift, bit-field, 64-bit, compare and predicate instructions: their values, and each as one operation in one lane
(07 R124 to R132). -/

namespace Sys2Proof.Machine

/-! ## Instructions on registers that compute a value -/

/-- An instruction on two registers, by a function that has the values of its meaning. -/
theorem op2_of_values {i : Reg → Reg → Reg → Fin 8 → Instr} {f' f : Word → Word → Word} (hx : ∀ d a b g s, exec (i d a b g) s = tr32 d a b g f' s)
    (hf : ∀ x y, f' x y = f x y) : Op2 i f := by
  have h : f' = f := funext₂ hf
  exact op2_of_run fun d a b g s => h ▸ hx d a b g s

theorem op1_of_values {i : Reg → Reg → Fin 8 → Instr} {f' f : Word → Word} (hx : ∀ d a g s, exec (i d a g) s = tr32u d a g f' s)
    (hf : ∀ x, f' x = f x) : Op1 i f := by
  have h : f' = f := funext hf
  exact op1_of_run fun d a g s => h ▸ hx d a g s

theorem op3_of_run {i : Reg → Reg → Reg → Fin 8 → Instr} {f : Word → Word → Word → Word} (hx : ∀ d a b g s, exec (i d a b g) s = tr32d d a b g f s) :
    Op3 i f :=
  fun d a b g => computes_of_pure (hx d a b g) (guardTR_eq g) (fun _ _ => rfl) fun _ _ => Thread.pc_wr32 ..

theorem pair2_of_run {i : Reg → Reg → Reg → Fin 8 → Instr} {f : DWord → DWord → DWord} (hx : ∀ d a b g s, exec (i d a b g) s = tr64 d a b g f s) :
    Pair2 i f :=
  fun d a b g => computes_of_pure (hx d a b g) (guardTR_eq g) (fun _ _ => rfl) fun _ _ => Thread.pc_wr64 ..

theorem pairWord_of_run {i : Reg → Reg → Reg → Fin 8 → Instr} {f : DWord → Word → DWord} (hx : ∀ d a b g s, exec (i d a b g) s = tr64w d a b g f s) :
    PairWord i f :=
  fun d a b g => computes_of_pure (hx d a b g) (guardTR_eq g) (fun _ _ => rfl) fun _ _ => Thread.pc_wr64 ..

/-- A compare, by the test of its meaning. -/
theorem compare_of_test {i : Fin 128 → Reg → Reg → Fin 8 → Instr} {c : Word → Word → Prop} [∀ x y, Decidable (c x y)] {test : Word → Word → Bool}
    (hx : ∀ p a b g s, exec (i p a b g) s = trCmp p a b g test s) (hc : ∀ x y, test x y = true ↔ c x y) : Compare i c :=
  fun p a b g => computes_of_pure (hx p a b g) (guardTR_eq g)
    (fun _ _ => by rw [Bool.eq_iff_iff.mpr ((hc _ _).trans decide_eq_true_iff.symm)]) fun _ _ => Thread.pc_setPred ..

theorem predicates_of_run {i : Fin 128 → Fin 128 → Fin 128 → Fin 8 → Instr} {c : Bool → Bool → Bool}
    (hx : ∀ p q r g s, exec (i p q r g) s = trPred p q r g c s) : Predicates i c :=
  fun p q r g => computes_of_pure (hx p q r g) (guardTR_eq g) (fun _ _ => rfl) fun _ _ => Thread.pc_setPred ..

/-! ## Products and quotients (07 Tables 7.1 and 7.2) -/

/-- The sign-extended product is the product of the integers, in 64 bits. -/
theorem mulHigh_eq (a b : Word) : mulHigh a b = BitVec.ofInt 32 (a.toInt * b.toInt / 2 ^ 32) := by
  have hp : a.signExtend 64 * b.signExtend 64 = BitVec.ofInt 64 (a.toInt * b.toInt) := (BitVec.ofInt_mul ..).symm
  rw [mulHigh, hp]
  apply BitVec.eq_of_toNat_eq
  rw [BitVec.toNat_setWidth, BitVec.toNat_ushiftRight, BitVec.toNat_ofInt, BitVec.toNat_ofInt, Nat.shiftRight_eq_div_pow]
  generalize a.toInt * b.toInt = z
  omega

theorem mulHighU_eq (a b : Word) : mulHighU a b = BitVec.ofNat 32 (a.toNat * b.toNat / 2 ^ 32) := by
  have hp : (a.setWidth 64 * b.setWidth 64 : BitVec 64) = BitVec.ofNat 64 (a.toNat * b.toNat) := by
    rw [← BitVec.ofNat_toNat, ← BitVec.ofNat_toNat, BitVec.ofNat_mul]
  rw [mulHighU, hp]
  apply BitVec.eq_of_toNat_eq
  rw [BitVec.toNat_setWidth, BitVec.toNat_ushiftRight, BitVec.toNat_ofNat, BitVec.toNat_ofNat, Nat.shiftRight_eq_div_pow]
  generalize a.toNat * b.toNat = z
  omega

theorem divSigned_eq (a b : Word) : divSigned a b =
    if b = 0 then 0xFFFFFFFF else if a = 0x80000000 ∧ b = 0xFFFFFFFF then 0x80000000 else BitVec.ofInt 32 (a.toInt.tdiv b.toInt) := by
  by_cases h : a = 0x80000000 ∧ b = 0xFFFFFFFF
  · obtain ⟨rfl, rfl⟩ := h; decide
  · rw [divSigned, if_neg h]

theorem remSigned_eq (a b : Word) : remSigned a b =
    if b = 0 then a else if a = 0x80000000 ∧ b = 0xFFFFFFFF then 0 else BitVec.ofInt 32 (a.toInt.tmod b.toInt) := by
  by_cases h : a = 0x80000000 ∧ b = 0xFFFFFFFF
  · obtain ⟨rfl, rfl⟩ := h; decide
  · rw [remSigned, if_neg h]

theorem divUnsigned_eq (a b : Word) : divUnsigned a b = if b = 0 then 0xFFFFFFFF else BitVec.ofNat 32 (a.toNat / b.toNat) := by
  rw [divUnsigned, ← BitVec.toNat_udiv, BitVec.ofNat_toNat, BitVec.setWidth_eq]

theorem remUnsigned_eq (a b : Word) : remUnsigned a b = if b = 0 then a else BitVec.ofNat 32 (a.toNat % b.toNat) := by
  rw [remUnsigned, ← BitVec.toNat_umod, BitVec.ofNat_toNat, BitVec.setWidth_eq]

/-! ## Bits (07 Table 7.3, R127) -/

/-- A word put together bit by bit. -/
theorem getLsbD_foldl_range (c : Nat → Bool) {j : Nat} (hj : j < 32) : ∀ n,
    ((List.range n).foldl (fun v i => if c i then v ||| (1#32 <<< i) else v) 0).getLsbD j = (decide (j < n) && c j)
  | 0 => by simp
  | n + 1 => by
    have hbit : (1#32 <<< n).getLsbD j = decide (j = n) := by
      rw [BitVec.getLsbD_shiftLeft, BitVec.getLsbD_one, Bool.eq_iff_iff]
      simp only [Bool.and_eq_true, decide_eq_true_eq, Bool.not_eq_true', decide_eq_false_iff_not]
      omega
    rw [List.range_succ, List.foldl_append, List.foldl_cons, List.foldl_nil]
    by_cases hn : j = n
    · subst hn
      have ih := getLsbD_foldl_range c hj j
      rw [decide_eq_false (Nat.lt_irrefl j), Bool.false_and] at ih
      cases c j
      · simpa using ih
      · simp [hbit]
    · have hlt : decide (j < n + 1) = decide (j < n) := by rw [decide_eq_decide]; omega
      rw [hlt, ← getLsbD_foldl_range c hj n]
      split <;> simp [hbit, hn]

theorem bitReverse_eq (a : Word) : bitReverse a = a.reverse := by
  apply BitVec.eq_of_getLsbD_eq
  intro j hj
  rw [bitReverse, getLsbD_foldl_range (fun i => a.getLsbD (31 - i)) hj, BitVec.getLsbD_reverse, BitVec.getMsbD]

theorem rotLeft_eq (a : Word) (k : Nat) : rotLeft a (k % 32) = a.rotateLeft (k % 32) := by
  rw [BitVec.rotateLeft_def, Nat.mod_mod, rotLeft]

theorem onesBelow_eq (a : Word) : ∀ n, onesBelow a n = ((List.range n).filter fun i => a.getLsbD i).length
  | 0 => rfl
  | n + 1 => by
    rw [onesBelow, onesBelow_eq a n, List.range_succ, List.filter_append, List.length_append]
    cases h : a.getLsbD n <;> simp [h]

/-- Above its highest 1 bit a word has only zeros. -/
theorem leadingZeros_eq (a : Word) : ∀ n, a.toNat < 2 ^ n → leadingZeros a n = if a = 0 then n else n - 1 - Nat.log2 a.toNat
  | 0, h => by
    have h0 : a = 0 := BitVec.eq_of_toNat_eq (by simpa using h)
    rw [if_pos h0]; rfl
  | n + 1, h => by
    rw [leadingZeros, BitVec.getLsbD]
    by_cases hlt : a.toNat < 2 ^ n
    · rw [Nat.testBit_lt_two_pow hlt, leadingZeros_eq a n hlt]
      by_cases h0 : a = 0
      · simp [h0]
      · have hlog : Nat.log2 a.toNat < n := (Nat.log2_lt fun hz => h0 (BitVec.eq_of_toNat_eq hz)).mpr hlt
        simp only [h0, Bool.false_eq_true, if_false]
        omega
    · have hge : 2 ^ n ≤ a.toNat := Nat.le_of_not_lt hlt
      have hne : a.toNat ≠ 0 := by have := Nat.two_pow_pos n; omega
      have hlog : Nat.log2 a.toNat = n := (Nat.log2_eq_iff hne).mpr ⟨hge, h⟩
      rw [Nat.testBit_of_two_pow_le_and_two_pow_add_one_gt hge h, if_pos rfl, if_neg fun h0 => hne (congrArg BitVec.toNat h0), hlog]
      omega

theorem clz_eq (a : Word) : BitVec.ofNat 32 (leadingZeros a 32) = if a = 0 then 32 else BitVec.ofNat 32 (31 - Nat.log2 a.toNat) := by
  rw [leadingZeros_eq a 32 a.isLt]; split <;> rfl

theorem getLsbD_lowMask (n : Nat) {j : Nat} (hj : j < 32) : (lowMask n).getLsbD j = decide (j < n) := by
  rw [lowMask, BitVec.getLsbD_ofNat, Nat.testBit_two_pow_sub_one]; simp [hj]

theorem getLsbD_bitExtract (a b : Word) {i : Nat} (hi : i < 32) :
    (bitExtract a b).getLsbD i = (decide (i < b.toNat / 256 % 32 + 1) && a.getLsbD (b.toNat % 32 + i)) := by
  rw [bitExtract, BitVec.getLsbD_and, BitVec.getLsbD_ushiftRight, getLsbD_lowMask _ hi, Bool.and_comm]; rfl

theorem getLsbD_bitInsert (a b d : Word) {i : Nat} (hi : i < 32) :
    (bitInsert a b d).getLsbD i =
      if b.toNat % 32 ≤ i ∧ i < b.toNat % 32 + (b.toNat / 256 % 32 + 1) then a.getLsbD (i - b.toNat % 32) else d.getLsbD i := by
  have hm : (lowMask (fieldLen b) <<< fieldStart b).getLsbD i = decide (b.toNat % 32 ≤ i ∧ i < b.toNat % 32 + (b.toNat / 256 % 32 + 1)) := by
    rw [BitVec.getLsbD_shiftLeft, getLsbD_lowMask _ (by omega), fieldLen, fieldStart, Bool.eq_iff_iff]
    simp only [Bool.and_eq_true, decide_eq_true_eq, Bool.not_eq_true', decide_eq_false_iff_not]
    omega
  rw [bitInsert, BitVec.getLsbD_or, BitVec.getLsbD_and, BitVec.getLsbD_and, BitVec.getLsbD_not, hm, BitVec.getLsbD_shiftLeft, fieldStart]
  by_cases h : b.toNat % 32 ≤ i ∧ i < b.toNat % 32 + (b.toNat / 256 % 32 + 1)
  · simp [h, hi]
  · simp [h, hi]

/-- Settles O10: the values by their lemmas, each instruction as one operation in one lane. -/
theorem integerInstructions : Obligations.IntegerInstructions := by
  unfold Obligations.IntegerInstructions
  refine ⟨⟨op2_of_run fun _ _ _ _ _ => rfl, op2_of_run fun _ _ _ _ _ => rfl, op2_of_run fun _ _ _ _ _ => rfl, op2_of_values (f' := mulHigh) (fun _ _ _ _ _ => rfl) mulHigh_eq,
      op2_of_values (f' := mulHighU) (fun _ _ _ _ _ => rfl) mulHighU_eq, op3_of_run fun _ _ _ _ _ => rfl, op2_of_values (f' := divSigned) (fun _ _ _ _ _ => rfl) divSigned_eq,
      op2_of_values (f' := divUnsigned) (fun _ _ _ _ _ => rfl) divUnsigned_eq, op2_of_values (f' := remSigned) (fun _ _ _ _ _ => rfl) remSigned_eq,
      op2_of_values (f' := remUnsigned) (fun _ _ _ _ _ => rfl) remUnsigned_eq, op2_of_values (f' := fun x y => if x.slt y then x else y) (fun _ _ _ _ _ => rfl) fun x y => ?_,
      op2_of_values (f' := fun x y => if y.slt x then x else y) (fun _ _ _ _ _ => rfl) fun x y => ?_,
      op2_of_run fun _ _ _ _ _ => rfl, op2_of_run fun _ _ _ _ _ => rfl, op1_of_values (f' := fun x => if x.slt 0 then -x else x) (fun _ _ _ _ => rfl) fun x => ?_,
      op1_of_values (f' := fun x => 0 - x) (fun _ _ _ _ => rfl) fun x => BitVec.zero_sub x⟩,
    ⟨op2_of_run fun _ _ _ _ _ => rfl, op2_of_run fun _ _ _ _ _ => rfl, op2_of_run fun _ _ _ _ _ => rfl, op2_of_run fun _ _ _ _ _ => rfl,
      op2_of_run fun _ _ _ _ _ => rfl, op2_of_run fun _ _ _ _ _ => rfl, op2_of_run fun _ _ _ _ _ => rfl,
      op2_of_values (f' := fun x y => rotLeft x (y.toNat % 32)) (fun _ _ _ _ _ => rfl) fun x y => rotLeft_eq x y.toNat,
      op1_of_values (f' := fun x => BitVec.ofNat 32 (popCount x)) (fun _ _ _ _ => rfl) fun x => congrArg _ (onesBelow_eq x 32),
      op1_of_values (f' := fun x => BitVec.ofNat 32 (leadingZeros x 32)) (fun _ _ _ _ => rfl) clz_eq,
      op1_of_values (f' := bitReverse) (fun _ _ _ _ => rfl) bitReverse_eq,
      op1_of_run fun _ _ _ _ => rfl,
      op2_of_run fun _ _ _ _ _ => rfl, op3_of_run fun _ _ _ _ _ => rfl, fun a b i => getLsbD_bitExtract a b, fun a b d i => getLsbD_bitInsert a b d⟩,
    ⟨pairWord_of_run fun _ _ _ _ _ => rfl, fun d a b g => ?_, pair2_of_run fun _ _ _ _ _ => rfl, pair2_of_run fun _ _ _ _ _ => rfl,
      pair2_of_run fun _ _ _ _ _ => rfl, fun d a g => ?_, pairWord_of_run fun _ _ _ _ _ => rfl, pairWord_of_run fun _ _ _ _ _ => rfl,
      pairWord_of_run fun _ _ _ _ _ => rfl, fun d a b g => ?_⟩⟩
  · simp only [BitVec.slt_iff_toInt_lt]
  · simp only [BitVec.slt_iff_toInt_lt, gt_iff_lt]
  · simp only [BitVec.slt_iff_toInt_lt]; rfl
  · refine computes_of_pure (fun _ => rfl) (fun _ => rfl) (fun e t => ?_) fun _ _ => Thread.pc_wr32 ..
    rw [← guardTR_eq]; rfl
  · exact computes_of_pure (fun _ => rfl) (guardTR_eq g) (fun _ _ => rfl) fun _ _ => Thread.pc_wr64 ..
  · exact computes_of_pure (fun _ => rfl) (guardTR_eq g) (fun _ _ => rfl) fun _ _ => Thread.pc_wr64 ..

/-! ## Groups of predicates (07 R132) -/

theorem getLsbD_predWord (t : Thread) (n : Nat) {i : Nat} (hi : i < 32) : (predWord t n).getLsbD i = t.pred (n + i) := by
  rw [predWord, getLsbD_foldl_range (fun i => t.pred (n + i)) hi]; simp [hi]

theorem popCount_predWord (t : Thread) (n : Nat) : popCount (predWord t n) = ((List.range 32).filter fun i => t.pred (n + i)).length := by
  rw [popCount, onesBelow_eq]
  exact congrArg List.length (List.filter_congr fun i hi => getLsbD_predWord t n (List.mem_range.mp hi))

/-- A predicate after a group has been written: p0 stays true. -/
theorem Thread.pred_setPreds : ∀ (l : List Bool) (t : Thread) (n q : Nat), n + l.length ≤ 128 → q < 128 →
    (t.setPreds n l).pred q = if q ≠ 0 ∧ n ≤ q ∧ q < n + l.length then l.getD (q - n) false else t.pred q
  | [], t, n, q, _, _ => by rw [Thread.setPreds, if_neg (by simp only [List.length_nil]; omega)]
  | b :: l, t, n, q, hn, hq => by
    rw [List.length_cons] at hn ⊢
    have hone : (t.setPred n b).pred q = if q = n ∧ n ≠ 0 then b else t.pred q := by
      have h := Thread.pred_setPred t ⟨n, by omega⟩ ⟨q, hq⟩ b
      simpa only [Fin.mk.injEq] using h
    rw [Thread.setPreds, Thread.pred_setPreds l _ _ _ (by omega) hq, hone]
    by_cases h0 : q = n
    · subst h0
      rw [if_neg (by omega), Nat.sub_self]
      by_cases hz : q = 0
      · rw [if_neg (by omega), if_neg (by omega)]
      · rw [if_pos ⟨rfl, hz⟩, if_pos (by omega)]; rfl
    · by_cases hin : q ≠ 0 ∧ n + 1 ≤ q ∧ q < n + 1 + l.length
      · rw [if_pos hin, if_pos (by omega), show q - n = q - (n + 1) + 1 by omega, List.getD_cons_succ]
      · rw [if_neg hin, if_neg (fun h => h0 h.1), if_neg (by omega)]

/-- Settles O11: the compares by their tests, the groups of predicates bit by bit. -/
theorem comparesAndPredicates : Obligations.ComparesAndPredicates := by
  unfold Obligations.ComparesAndPredicates
  refine ⟨compare_of_test (test := fun x y => x == y) (fun _ _ _ _ _ => rfl) fun x y => beq_iff_eq,
    compare_of_test (test := fun x y => x != y) (fun _ _ _ _ _ => rfl) fun x y => bne_iff_ne,
    compare_of_test (test := BitVec.slt) (fun _ _ _ _ _ => rfl) fun x y => BitVec.slt_iff_toInt_lt,
    compare_of_test (test := BitVec.sle) (fun _ _ _ _ _ => rfl) fun x y => BitVec.sle_iff_toInt_le,
    compare_of_test (test := BitVec.ult) (fun _ _ _ _ _ => rfl) fun x y => BitVec.ult_iff_toNat_lt,
    compare_of_test (test := BitVec.ule) (fun _ _ _ _ _ => rfl) fun x y => BitVec.ule_iff_toNat_le,
    compare_of_test (test := fun x y => (x &&& y) != 0) (fun _ _ _ _ _ => rfl) fun x y => bne_iff_ne,
    compare_of_test (test := fun x y => (x &&& y) == 0) (fun _ _ _ _ _ => rfl) fun x y => beq_iff_eq,
    predicates_of_run fun _ _ _ _ _ => rfl, predicates_of_run fun _ _ _ _ _ => rfl, predicates_of_run fun _ _ _ _ _ => rfl,
    predicates_of_run fun _ _ _ _ _ => rfl, fun p q g => ?_, fun d q g => ?_, fun p a g => ?_, fun d q g => ?_, fun t n i => getLsbD_predWord t n,
    fun t n q l => Thread.pred_setPreds l t n q⟩
  · exact computes_of_pure (fun _ => rfl) (guardTR_eq g) (fun _ _ => rfl) fun _ _ => Thread.pc_setPred ..
  · exact computes_of_pure (fun _ => rfl) (guardTR_eq g) (fun _ _ => rfl) fun _ _ => Thread.pc_wr32 ..
  · exact computes_of_pure (fun _ => rfl) (guardTR_eq g) (fun _ _ => rfl) fun _ _ => Thread.pc_setPreds ..
  · exact computes_of_pure (fun _ => rfl) (guardTR_eq g) (fun e t => by rw [popCount_predWord]) fun _ _ => Thread.pc_wr32 ..

end Sys2Proof.Machine
end

section
/-! LAWS. Floating-point arithmetic and compares on packed elements (05 R105, 07 R133 to R136). -/

namespace Sys2Proof.Machine

/-! ## Packing (05 R105) -/

/-- The first n elements packed at a width, and the flags of them all. -/
def packUpTo (w : Nat) (f : Nat → Nat × Nat) : Nat → Nat × Nat
  | 0 => (0, 0)
  | n + 1 => ((packUpTo w f n).1 + (f n).1 % 2 ^ w * 2 ^ (w * n), (packUpTo w f n).2 ||| (f n).2)

theorem packElems_eq (ty : FTy) (f : Nat → Nat × Nat) :
    packElems ty f = (BitVec.ofNat 32 (packUpTo (ftyFmt ty).width f ty.elems).1, (packUpTo (ftyFmt ty).width f ty.elems).2) := by
  have h : ∀ (w n : Nat), (List.range n).foldl (fun (acc : Nat × Nat) e => (acc.1 + (f e).1 % 2 ^ w * 2 ^ (w * e), acc.2 ||| (f e).2)) (0, 0) = packUpTo w f n := by
    intro w n
    induction n with
    | zero => rfl
    | succ n ih => rw [List.range_succ, List.foldl_append, ih]; rfl
  rw [← h]; rfl

theorem packUpTo_lt (w : Nat) (f : Nat → Nat × Nat) : ∀ n, (packUpTo w f n).1 < 2 ^ (w * n)
  | 0 => by simp [packUpTo]
  | n + 1 => by
    have hx : (f n).1 % 2 ^ w + 1 ≤ 2 ^ w := Nat.mod_lt _ (Nat.two_pow_pos w)
    calc (packUpTo w f n).1 + (f n).1 % 2 ^ w * 2 ^ (w * n)
      _ < 2 ^ (w * n) + (f n).1 % 2 ^ w * 2 ^ (w * n) := Nat.add_lt_add_right (packUpTo_lt w f n) _
      _ = ((f n).1 % 2 ^ w + 1) * 2 ^ (w * n) := by rw [Nat.add_mul, Nat.one_mul, Nat.add_comm]
      _ ≤ 2 ^ w * 2 ^ (w * n) := Nat.mul_le_mul_right _ hx
      _ = 2 ^ (w * (n + 1)) := by rw [← Nat.pow_add, Nat.mul_succ, Nat.add_comm]

/-- Each packed element is what was put there. -/
theorem packUpTo_elem (w : Nat) (f : Nat → Nat × Nat) {i : Nat} : ∀ n, i < n → (packUpTo w f n).1 / 2 ^ (w * i) % 2 ^ w = (f i).1 % 2 ^ w
  | n + 1, hi => by
    rw [packUpTo]
    by_cases hn : i = n
    · subst hn
      rw [Nat.add_mul_div_right _ _ (Nat.two_pow_pos _), Nat.div_eq_of_lt (packUpTo_lt w f i), Nat.zero_add, Nat.mod_mod]
    · have hlt : i < n := by omega
      have hpow : 2 ^ (w * n) = 2 ^ (w * (n - i - 1)) * 2 ^ w * 2 ^ (w * i) := by
        rw [← Nat.pow_add, ← Nat.pow_add, ← Nat.mul_succ, ← Nat.mul_add]
        congr 2; omega
      rw [hpow, ← Nat.mul_assoc, Nat.add_mul_div_right _ _ (Nat.two_pow_pos _), ← Nat.mul_assoc, Nat.add_mul_mod_self_right, packUpTo_elem w f n hlt]

theorem packUpTo_flags (w : Nat) (f : Nat → Nat × Nat) (b : Nat) : ∀ n, (packUpTo w f n).2.testBit b = true ↔ ∃ j, j < n ∧ (f j).2.testBit b = true
  | 0 => by simp [packUpTo]
  | n + 1 => by
    rw [packUpTo, Nat.testBit_or, Bool.or_eq_true, packUpTo_flags w f b n]
    constructor
    · rintro (⟨j, hj, h⟩ | h)
      · exact ⟨j, by omega, h⟩
      · exact ⟨n, by omega, h⟩
    · rintro ⟨j, hj, h⟩
      by_cases hn : j = n
      · exact .inr (hn ▸ h)
      · exact .inl ⟨j, by omega, h⟩

/-- The elements of a packed type fill a register (05 Table 5.4). -/
theorem ftyFmt_width_mul_elems (ty : FTy) : (ftyFmt ty).width * ty.elems = 32 := by cases ty <;> rfl

theorem elem_packElems (ty : FTy) (f : Nat → Nat × Nat) {i : Nat} (hi : i < ty.elems) :
    elem ty (packElems ty f).1 i = (f i).1 % 2 ^ (ftyFmt ty).width := by
  have hlt := packUpTo_lt (ftyFmt ty).width f ty.elems
  rw [ftyFmt_width_mul_elems] at hlt
  rw [packElems_eq, elem, BitVec.toNat_ofNat, Nat.mod_eq_of_lt hlt, packUpTo_elem _ f _ hi]

/-! ## Compares (07 R136) -/

theorem orFlags_sigFlag (x y : XReal) : orFlags x.sigFlag y.sigFlag = if x = .nan true ∨ y = .nan true then flagNV else 0 := by
  rw [orFlags, x.sigFlag_eq, y.sigFlag_eq]
  by_cases hx : x = .nan true <;> by_cases hy : y = .nan true <;> simp [hx, hy]

/-- The four compares with a NaN among their operands. -/
theorem fpCmp_nan {f : Fmt} {a b : Nat} (h : ((f.value a).isNaN || (f.value b).isNaN) = true) :
    let sg := if f.value a = .nan true ∨ f.value b = .nan true then flagNV else 0
    fpCmp f 0 a b = (false, sg) ∧ fpCmp f 1 a b = (false, flagNV) ∧ fpCmp f 2 a b = (false, flagNV) ∧ fpCmp f 3 a b = (true, sg) := by
  have heq : (f.value a).eqv (f.value b) = false := by
    rw [XReal.eqv]
    rcases Bool.or_eq_true_iff.mp h with hn | hn <;> simp [hn]
  simp only [fpCmp, h, heq, orFlags_sigFlag, Bool.not_true, Bool.false_and, if_true, and_self]

/-- The four compares on numbers: no flags. -/
theorem fpCmp_numbers {f : Fmt} {a b : Nat} (h : ((f.value a).isNaN || (f.value b).isNaN) = false) :
    fpCmp f 1 a b = ((f.value a).lt (f.value b), 0) ∧ fpCmp f 2 a b = (!(f.value b).lt (f.value a), 0) ∧
    fpCmp f 0 a b = (!(f.value a).lt (f.value b) && !(f.value b).lt (f.value a), 0) ∧ fpCmp f 3 a b = (false, 0) := by
  obtain ⟨hx, hy⟩ := Bool.or_eq_false_iff.mp h
  have hsig : ∀ x : XReal, x.isNaN = false → x.sigFlag = 0 := by
    intro x hx
    rw [x.sigFlag_eq, if_neg]
    rintro rfl
    cases hx
  simp [fpCmp, XReal.eqv, hx, hy, hsig _ hx, hsig _ hy, orFlags]

/-- A compare of packed elements, of any of the four kinds. -/
theorem computes_fpCompare {i : Instr} {ty : FTy} {k : Nat} {p : Fin 128} {a b : Reg} {g : Fin 8} (hx : ∀ s, exec i s = fpCompare ty k p a b g s) :
    Computes i (guardTR g) [(a, 1), (b, 1)] fun e t =>
      let rs := (List.range ty.elems).map fun i => fpCmp (ftyFmt ty) k (elem ty (t.rd32 e a) i) (elem ty (t.rd32 e b) i)
      (t.setPreds p.val (rs.map Prod.fst)).orStat (BitVec.ofNat 32 (rs.foldl (fun f x => f ||| x.2) 0)) :=
  computes_of_pure hx (guardTR_eq g) (fun _ _ => rfl) fun _ _ => by rw [Thread.orStat_pc, Thread.pc_setPreds]

/-! ## The statement -/

/-- Writing a register leaves the status as it was. -/
@[simp] theorem Thread.tstat_wr32 (t : Thread) (r : Reg) (v : Word) : (t.wr32 r v).tstat = t.tstat := by
  cases r <;> rfl

/-- Settles O13: the arithmetic element by element, the compares by their NaNs. -/
theorem floatArithmeticAndCompares : Obligations.FloatArithmeticAndCompares := by
  unfold Obligations.FloatArithmeticAndCompares
  refine ⟨⟨fun ty => ⟨float2_of_run fun _ _ _ _ _ => rfl, float2_of_run fun _ _ _ _ _ => rfl, float2_of_run fun _ _ _ _ _ => rfl,
        float2_of_run fun _ _ _ _ _ => rfl, float2_of_run fun _ _ _ _ _ => rfl⟩, fun ty d a b g => ?_, fun d imm => ?_, fun d imm => ?_,
      fun ty f i hi => ⟨elem_packElems ty f hi, fun b => ?_⟩, fun t d v f => by rw [Thread.wrFlags, Thread.orStat, Thread.tstat_wr32]⟩,
    fun ty p a b g k => ?_, fun f a b => ⟨fpCmp_nan, fpCmp_numbers⟩⟩
  · exact computes_of_pure (fun _ => rfl) (guardTR_eq g) (fun _ _ => rfl) fun _ _ => Thread.pc_wrFlags ..
  · rw [← widenBf_eq]
    exact computes_of_pure (fun _ => rfl) (fun _ => rfl) (fun _ _ => rfl) fun _ _ => Thread.pc_wrFlags ..
  · rw [← widenBf_eq]
    exact computes_of_pure (fun _ => rfl) (fun _ => rfl) (fun _ _ => rfl) fun _ _ => Thread.pc_wrFlags ..
  · rw [packElems_eq]; exact packUpTo_flags ..
  · fin_cases k
    all_goals exact computes_fpCompare fun _ => rfl

end Sys2Proof.Machine
end

section
/-! LAWS. Calls, returns, indirect jumps, EXIT and PAUSE in a drill of one lane (07 R161, R163, R164, R167, R169). -/

namespace Sys2Proof.Machine

/-! ## A lane that goes on elsewhere -/

theorem threadOnly_refl {s : State} {r : Ref} {t : Thread} (h : s.thread? r = some t) : ThreadOnly s s r t :=
  ⟨h, fun _ _ => rfl, fun _ _ => rfl, fun _ _ => rfl⟩

/-- Putting a stack back changes that of its thread alone. -/
theorem State.setStack_only {s : State} {r : Ref} {t : Thread} (u : Thread) (h : s.thread? r = some t) :
    ThreadOnly s (s.setStack r u) r { t with rstack := u.rstack, spd := u.spd } := threadOnly_modThread _ h

/-- A push where the stack has room (07 R161). -/
theorem State.push_room (s : State) (r : Ref) {t : Thread} (v : DWord) (h : t.rstack.length < 8) :
    s.push r t v = (s, .ok { t with rstack := v :: t.rstack }) := if_pos h

theorem State.pop_resident (s : State) (r : Ref) {t : Thread} {v : DWord} {l : List DWord} (h : t.rstack = v :: l) :
    s.pop r t = (s, .ok (some v, { t with rstack := l })) := by
  rw [State.pop, h]

theorem State.pop_empty (s : State) (r : Ref) {t : Thread} (h : t.rstack = []) (hs : t.spd = 0) : s.pop r t = (s, .ok (none, t)) := by
  rw [State.pop, h]; exact if_pos hs

/-- The test of a target's alignment (07 R164). -/
theorem and_three_eq_zero (v : DWord) : v &&& 3 = 0 ↔ v.toNat % 4 = 0 := by
  have h : (v &&& 3).toNat = v.toNat % 4 := by
    rw [BitVec.toNat_and]; exact Nat.and_two_pow_sub_one_eq_mod _ 2
  rw [← h, ← BitVec.toNat_inj]; rfl

section Lanes
variable {s u : State} {r : Ref} {p : Plot} {th x : Thread} {F : LaneFn}

/-- A drill of one lane whose thread goes on in it at a PC. -/
theorem OneLane.run_to {o : Out} {pc : DWord} (h : OneLane s r p th) (hF : F s r p th = (u, o)) (ho : o = .goto pc ∨ o = .regroup pc)
    (hu : ThreadOnly s u r x) : ThreadOnly s (runLanes F s) r { x with pc := pc } := by
  have hset : ThreadOnly u (u.setPc r pc) r { x with pc := pc } := threadOnly_modThread _ hu.1
  rcases ho with rfl | rfl <;> rw [h.run_quiet hF rfl] <;> exact hu.trans hset

/-- A drill of one lane whose thread goes to sleep. -/
theorem OneLane.run_sleep {k : Sleep} (h : OneLane s r p th) (hF : F s r p th = (s, .sleep k)) :
    ThreadOnly s (runLanes F s) r (asleep th k) := by
  rw [h.run_quiet hF rfl]; exact State.toHeadland_only _ h.thread

/-- A drill of one lane whose thread exits. -/
theorem OneLane.run_exit (h : OneLane s r p th) (hF : F s r p th = (s, .exit)) : runLanes F s = s.exitThread r := h.run_quiet hF rfl

/-- What operands read for a lane of the drill. -/
theorem State.env_eq (s : State) (r : Ref) (p : Plot) : s.env r p = envOf s r p := rfl

/-! ## Exit (07 R167, 13 R297) -/

theorem State.unfile_quiet (s : State) (r : Ref) : Quiet s (s.unfile r) := quiet_modCore _ _ _ fun _ => rfl

theorem State.freeSlots_quiet (s : State) (r : Ref) : Quiet s (s.freeSlots r) := 
  quiet_of_plots rfl rfl (pinsSame_mapCores (fun k => { k with slots := k.slots.map fun e => (e.1, if e.2.state ≠ .free ∧ e.2.owner = r then e.2.freed else e.2) })
    rfl fun _ => rfl)

theorem State.unwatch_quiet (s : State) (r : Ref) : Quiet s (s.unwatch r) := quiet_of_same rfl rfl rfl

theorem State.exitThread_only (h : s.thread? r = some th) : ThreadOnly s (s.exitThread r) r { th with place := .exited, pflt := false } := by
  have hq : Quiet s ((((s.leaveDrill r).unfile r).freeSlots r).unwatch r) :=
    (((s.leaveDrill_quiet r).trans (State.unfile_quiet _ r)).trans (State.freeSlots_quiet _ r)).trans (State.unwatch_quiet _ r)
  exact hq.threadOnly (threadOnly_modThread (fun t => { t with place := .exited, pflt := false }) ((hq.threads r).trans h))

/-- No slot of a thread whose names have been freed is in use. -/
theorem State.freeSlots_free {c n : Nat} {k : Core} {x : Slot} (hk : tget (s.freeSlots r).cores c = some k) (hx : tget k.slots n = some x)
    (ho : x.owner = r) : x.state = .free := by
  have hc := tget_map s.cores (fun _ k => { k with slots := k.slots.map fun e => (e.1, if e.2.state ≠ .free ∧ e.2.owner = r then e.2.freed else e.2) }) c
  obtain ⟨k0, -, rfl⟩ := Option.map_eq_some_iff.mp (hc.symm.trans hk)
  have hs := tget_map k0.slots (fun _ x => if x.state ≠ .free ∧ x.owner = r then x.freed else x) n
  obtain ⟨y, -, rfl⟩ := Option.map_eq_some_iff.mp (hs.symm.trans hx)
  by_cases hy : y.state ≠ .free ∧ y.owner = r
  · rw [if_pos hy]; rfl
  · rw [if_neg hy] at ho ⊢
    by_contra hf
    exact hy ⟨hf, ho⟩

theorem State.exitThread_cores (s : State) (r : Ref) : (s.exitThread r).cores = (((s.leaveDrill r).unfile r).freeSlots r).cores := rfl

/-! ## The instructions -/

theorem exec_call (h : OneLane s r p th) (pr : Fin 128) (n : Bool) (off : BitVec 18) (hl : th.rstack.length < 8) :
    ∃ t, exec (.call pr n off) s = .next t ∧
      ThreadOnly s t r (if th.pred pr.val != n then { th with pc := th.pc + 4 * off.signExtend 64, rstack := (th.pc + 4) :: th.rstack }
        else { th with pc := th.pc + 4 }) := by
  refine ⟨_, rfl, ?_⟩
  split
  · rename_i ht
    have hF : callLane pr n off s r p th = (s.setStack r { th with rstack := th.pc4 :: th.rstack }, .goto (th.target off)) := by
      rw [callLane, Thread.taken, if_pos ht, State.push_room s r _ hl]
    exact h.run_to hF (.inl rfl) (State.setStack_only _ h.thread)
  · rename_i ht
    exact h.run_next (if_neg ht) h.thread (Quiet.refl s)

theorem exec_ret_resident (h : OneLane s r p th) {g : Fin 128} {v : DWord} {l : List DWord} (hg : guardY g th = true) (hl : th.rstack = v :: l) :
    ∃ t, exec (.ret g) s = .next t ∧ ThreadOnly s t r { th with pc := v, rstack := l } := by
  have hF : retLane g s r p th = (s.setStack r { th with rstack := l }, .regroup v) := by
    rw [retLane, guardY_eq, hg, State.pop_resident s r hl]; rfl
  exact ⟨_, rfl, h.run_to hF (.inr rfl) (State.setStack_only _ h.thread)⟩

theorem exec_ret_empty (h : OneLane s r p th) {g : Fin 128} (hg : guardY g th = true) (hl : th.rstack = []) (hs : th.spd = 0) :
    ∃ t, exec (.ret g) s = .next t ∧ ThreadOnly s t r { th with place := .exited, pflt := false } := by
  have hF : retLane g s r p th = (s, .exit) := by
    rw [retLane, guardY_eq, hg, State.pop_empty s r hl hs]; rfl
  exact ⟨_, rfl, h.run_exit (F := retLane g) hF ▸ State.exitThread_only h.thread⟩

theorem exec_ret_guarded (h : OneLane s r p th) {g : Fin 128} (hg : guardY g th = false) :
    ∃ t, exec (.ret g) s = .next t ∧ ThreadOnly s t r { th with pc := th.pc + 4 } := by
  have hF : retLane g s r p th = (s, .regroup th.pc4) := by rw [retLane, guardY_eq, hg]; rfl
  exact ⟨_, rfl, h.run_to hF (.inr rfl) (threadOnly_refl h.thread)⟩

section Indirect
variable {g : Fin 128} {a : Reg} (hg : guardY g th = true) (ha : th.inRange a 2 = true)
include hg ha

theorem jmpiLane_aligned (hv : (th.rd64 (envOf s r p) a).toNat % 4 = 0) : jmpiLane g a s r p th = (s, .regroup (th.rd64 (envOf s r p) a)) := by
  simp only [jmpiLane, guardY_eq, hg, Thread.inRanges_one, ha, Bool.not_true, Bool.false_eq_true, if_false, ne_eq, and_three_eq_zero, State.env_eq, hv, not_true]

theorem jmpiLane_misaligned (hv : (th.rd64 (envOf s r p) a).toNat % 4 ≠ 0) :
    jmpiLane g a s r p th = (s, .trap trapAlign 0 (th.rd64 (envOf s r p) a)) := by
  simp only [jmpiLane, guardY_eq, hg, Thread.inRanges_one, ha, Bool.not_true, Bool.false_eq_true, if_false, ne_eq, and_three_eq_zero, State.env_eq, hv, not_false_eq_true,
    if_true]

theorem calliLane_aligned (hv : (th.rd64 (envOf s r p) a).toNat % 4 = 0) (hl : th.rstack.length < 8) :
    calliLane g a s r p th = (s.setStack r { th with rstack := th.pc4 :: th.rstack }, .regroup (th.rd64 (envOf s r p) a)) := by
  simp only [calliLane, guardY_eq, hg, Thread.inRanges_one, ha, Bool.not_true, Bool.false_eq_true, if_false, ne_eq, and_three_eq_zero, State.env_eq, hv, not_true,
    State.push_room s r _ hl]

theorem calliLane_misaligned (hv : (th.rd64 (envOf s r p) a).toNat % 4 ≠ 0) :
    calliLane g a s r p th = (s, .trap trapAlign 0 (th.rd64 (envOf s r p) a)) := by
  simp only [calliLane, guardY_eq, hg, Thread.inRanges_one, ha, Bool.not_true, Bool.false_eq_true, if_false, ne_eq, and_three_eq_zero, State.env_eq, hv,
    not_false_eq_true, if_true]

theorem exec_jmpi (h : OneLane s r p th) (hv : (th.rd64 (envOf s r p) a).toNat % 4 = 0) :
    ∃ t, exec (.jmpi g a) s = .next t ∧ ThreadOnly s t r { th with pc := th.rd64 (envOf s r p) a } :=
  ⟨_, rfl, h.run_to (jmpiLane_aligned hg ha hv) (.inr rfl) (threadOnly_refl h.thread)⟩

theorem exec_calli (h : OneLane s r p th) (hv : (th.rd64 (envOf s r p) a).toNat % 4 = 0) (hl : th.rstack.length < 8) :
    ∃ t, exec (.calli g a) s = .next t ∧ ThreadOnly s t r { th with pc := th.rd64 (envOf s r p) a, rstack := (th.pc + 4) :: th.rstack } :=
  ⟨_, rfl, h.run_to (calliLane_aligned hg ha hv hl) (.inr rfl) (State.setStack_only _ h.thread)⟩

end Indirect

theorem exec_exit (h : OneLane s r p th) {g : Fin 128} (hg : guardY g th = true) :
    ∃ t, exec (.exit g) s = .next t ∧ ThreadOnly s t r { th with place := .exited, pflt := false } ∧
      ∀ c k n x, tget t.cores c = some k → tget k.slots n = some x → x.owner = r → x.state = .free := by
  refine ⟨_, rfl, ?_⟩
  rw [h.run_exit (by rw [guardY_eq, if_pos hg])]
  exact ⟨State.exitThread_only h.thread, fun c k n x hk hx ho => State.freeSlots_free (State.exitThread_cores s r ▸ hk) hx ho⟩

theorem exec_pause (h : OneLane s r p th) {g : Fin 128} {a : Reg} (hg : guardY g th = true) (ha : th.inRange a 1 = true) :
    ∃ t, exec (.pause g a) s = .next t ∧
      ThreadOnly s t r (if (th.rd32 (envOf s r p) a).toNat = 0 then { th with pc := th.pc + 4, place := .filed }
        else asleep th (.pause (s.cycle + (th.rd32 (envOf s r p) a).toNat))) := by
  have hF : pauseLane g a s r p th =
      (s, if (th.rd32 (envOf s r p) a).toNat = 0 then .file th.pc4 else .sleep (.pause (s.cycle + (th.rd32 (envOf s r p) a).toNat))) := by
    rw [pauseLane, guardY_eq, hg, Thread.inRanges_one, ha]; rfl
  refine ⟨_, rfl, ?_⟩
  by_cases hz : (th.rd32 (envOf s r p) a).toNat = 0
  · rw [if_pos hz] at hF ⊢
    exact h.run_file hF h.thread (Quiet.refl s)
  · rw [if_neg hz] at hF ⊢
    exact h.run_sleep hF

end Lanes

/-- Settles O19: each instruction by what its one lane ends with. -/
theorem callsReturnsAndExits : Obligations.CallsReturnsAndExits := by
  unfold Obligations.CallsReturnsAndExits
  refine ⟨fun s r p th h => ⟨exec_call h, fun g v l => exec_ret_resident h, fun g => exec_ret_empty h, fun g => exec_ret_guarded h,
      fun g a hg ha hv => ⟨exec_jmpi hg ha h hv, exec_calli hg ha h hv⟩, fun g a hg ha hv hs =>
      ⟨h.trapsWith hs rfl (jmpiLane_misaligned hg ha hv), h.trapsWith hs rfl (calliLane_misaligned hg ha hv)⟩⟩,
    fun s r p th h g hg => ⟨exec_exit h hg, fun a => exec_pause h hg⟩⟩

end Sys2Proof.Machine
end

section
/-! LAWS. The ends of sleep (13 R258, Table 13.2, R283, 07 R169): what an acquire does to its thread, and the filing of a thread whose sleep has ended. -/

namespace Sys2Proof.Machine

/-! ## An acquire of a thread (11 R237, 09 R186, R187) -/

/-- The thread has acquired: of it only SCOPEX may have changed, and no other thread, no memory and no scratchpad. -/
def Acquired (s t : State) (r : Ref) (th : Thread) : Prop :=
  ∃ u, ThreadOnly s t r u ∧ u = { th with tstat := u.tstat } ∧ ∀ b, b ≠ 5 → u.tstat.getLsbD b = th.tstat.getLsbD b

theorem acquired_refl {s : State} {r : Ref} {th : Thread} (h : s.thread? r = some th) : Acquired s s r th :=
  ⟨th, threadOnly_refl h, rfl, fun _ _ => rfl⟩

theorem Acquired.quiet {s t u : State} {r : Ref} {th : Thread} (h : Acquired s t r th) (g : Quiet t u) : Acquired s u r th := by
  obtain ⟨x, hx, he, hb⟩ := h
  exact ⟨x, threadOnly_quiet hx g, he, hb⟩

theorem Quiet.acquired {s t u : State} {r : Ref} {th : Thread} (h : Quiet s t) (g : Acquired t u r th) : Acquired s u r th := by
  obtain ⟨x, hx, he, hb⟩ := g
  exact ⟨x, h.threadOnly hx, he, hb⟩

theorem State.acquireCaches_quiet (s : State) (c : Nat) (sc : Scope) : Quiet s (s.acquireCaches c sc) := by
  have hv : Quiet s (s.dropVbuf c) := quiet_modCore _ _ _ fun _ => rfl
  rw [State.acquireCaches]
  split
  · exact hv
  · exact hv.trans (quiet_modCore _ _ _ fun _ => rfl)

/-- Setting SCOPEX changes bit 5 alone. -/
theorem getLsbD_or_scopexBit (v : Word) {b : Nat} (h : b ≠ 5) : (v ||| scopexBit).getLsbD b = v.getLsbD b := by
  have hbit : scopexBit.getLsbD b = false := by
    rw [scopexBit, show (0x20 : Word) = BitVec.twoPow 32 5 from rfl, BitVec.getLsbD_twoPow]
    simp [Ne.symm h]
  rw [BitVec.getLsbD_or, hbit, Bool.or_false]

theorem State.observe_acquired {s : State} {r : Ref} {th : Thread} (sc : Scope) (l : List SyncSrc) (h : s.thread? r = some th) :
    Acquired s (s.observe r sc l) r th := by
  rw [State.observe]
  split
  · exact acquired_refl h
  · exact ⟨_, threadOnly_modThread _ h, rfl, fun b hb => getLsbD_or_scopexBit _ hb⟩

theorem State.barAcquire_acquired {s : State} {r : Ref} {th : Thread} (tag off : Nat) (h : s.thread? r = some th) : Acquired s (s.barAcquire r tag off) r th :=
  (State.observe_acquired _ _ h).quiet (State.acquireCaches_quiet ..)

theorem State.watchDone_acquired {s : State} {r : Ref} {th : Thread} (l : List SyncSrc) (h : s.thread? r = some th) : Acquired s (s.watchDone r l) r th :=
  (State.observe_acquired _ _ h).quiet (State.acquireCaches_quiet ..)

/-! ## Filing at PC + 4 -/

theorem State.wake_only {s : State} {r : Ref} {th : Thread} (h : s.thread? r = some th) (hg : th.stopsWhenFiled = false) :
    ThreadOnly s (s.wake r) r { th with pc := th.pc + 4, place := .filed } := by
  rw [State.wake]; simp only [h]
  exact State.fileThread_only _ _ h hg

/-- A thread that has acquired is filed. -/
theorem Acquired.wake {s t : State} {r : Ref} {th : Thread} (h : Acquired s t r th) (hg : th.stopsWhenFiled = false) : Woken s (t.wake r) r th := by
  obtain ⟨u, hu, he, hb⟩ := h
  have hgu : u.stopsWhenFiled = false := by rw [he]; exact hg
  obtain ⟨ht, ho, hm, hs⟩ := hu.trans (State.wake_only hu.1 hgu)
  refine ⟨⟨_, ht, ?_, hb⟩, ho, hm, hs⟩
  rw [he]

/-! ## THREAD_WAKE (13 R258) -/

section Wakes
variable {s : State} {r : Ref} {th : Thread} {k : Sleep}

theorem Sleeps.sleepOf (h : Sleeps s r th k) : s.sleepOf r = some k := by
  simp only [State.sleepOf, h.thread, h.place]

/-- A sleep whose end is an acquire at plot scope. -/
theorem Sleeps.woken_plot (h : Sleeps s r th k) (he : s.threadWake r = (s.acquireCaches (s.coreOf r) .plot).wake r) : Woken s (s.threadWake r) r th :=
  he ▸ ((acquired_refl h.thread).quiet (State.acquireCaches_quiet ..)).wake h.goes

theorem Sleeps.wait {a b c d : Nat} (h : Sleeps s r th (.wait a b c d)) (ha : th.ld ≤ a) (hb : th.st ≤ b) (hc : th.cp ≤ c) (hd : th.tl ≤ d) :
    Woken s (s.threadWake r) r th := by
  have hw : s.wakes r = true := by simp [State.wakes, h.placed, h.sleepOf, h.thread, Thread.countsHold, ha, hb, hc, hd]
  exact h.woken_plot (by simp only [State.threadWake, hw, h.sleepOf, Bool.not_true, Bool.false_eq_true, if_false])

theorem Sleeps.mwaitb {n : Nat} {p : Plot} (h : Sleeps s r th (.mwaitb n)) (hp : tget s.plots r.tag = some p) (hn : p.count n = 0) :
    Woken s (s.threadWake r) r th := by
  have hw : s.wakes r = true := by simp [State.wakes, h.placed, h.sleepOf, hp, hn]
  exact h.woken_plot (by simp only [State.threadWake, hw, h.sleepOf, Bool.not_true, Bool.false_eq_true, if_false])

theorem Sleeps.bcwait {addr : Word} {ph : Bool} {g x : Nat} (h : Sleeps s r th (.bcwait addr ph)) (hx : s.spadAt r.tag addr.toNat 16 = .ok (g, x))
    (hph : (s.barAt g x).phase ≠ ph) : Woken s (s.threadWake r) r th := by
  have hbar : s.sleepBar r addr = some (g, x, s.barAt g x) := by simp only [State.sleepBar, hx]
  have hw : s.wakes r = true := by simp [State.wakes, h.placed, h.sleepOf, hbar, hph]
  have he : s.threadWake r = (s.barAcquire r g x).wake r := by simp only [State.threadWake, hw, h.sleepOf, hbar, Bool.not_true, Bool.false_eq_true, if_false]
  exact he ▸ (State.barAcquire_acquired _ _ h.thread).wake h.goes

/-! ## LWAIT (13 R292) -/

/-- The thread after LWAIT or LTEST has read a landing state that is not pending. -/
def Thread.landingRead (t : Thread) (pd x : Nat) : Thread :=
  { (t.setPred pd (decide (t.landingOf x = .delivered))).setLanding x .none with landSrc := tdel t.landSrc x }

theorem Thread.landingRead_frame (t : Thread) (pd x : Nat) :
    t.landingRead pd x = { t with preds := (t.landingRead pd x).preds, landing := (t.landingRead pd x).landing, landSrc := (t.landingRead pd x).landSrc } := by
  rw [Thread.landingRead, t.setPred_frame]; rfl

/-- Reading a landing state is that change of the thread, with the acquire of a delivery. -/
theorem State.readLanding_acquired (pd x : Nat) (h : s.thread? r = some th) :
    ∃ t, ThreadOnly s t r (th.landingRead pd x) ∧ Acquired t (s.readLanding r th pd x) r (th.landingRead pd x) := by
  have h1 : ThreadOnly s (s.modThread r fun t =>
      { (t.setPred pd (decide (th.landingOf x = .delivered))).setLanding x .none with landSrc := tdel t.landSrc x }) r (th.landingRead pd x) :=
    threadOnly_modThread _ h
  refine ⟨_, h1, ?_⟩
  rw [State.readLanding]
  split
  · exact (State.observe_acquired _ _ h1.1).quiet (State.acquireCaches_quiet ..)
  · exact acquired_refl h1.1

theorem Sleeps.lwait {pd : Fin 128} {x : Nat} (h : Sleeps s r th (.lwait pd x)) (hx : th.landingOf x ≠ .pending) :
    ∃ u, (s.threadWake r).thread? r = some u ∧ u = { th.landingRead pd.val x with pc := th.pc + 4, place := .filed, tstat := u.tstat } := by
  have hw : s.wakes r = true := by simp [State.wakes, h.placed, h.sleepOf, h.thread, hx]
  have he : s.threadWake r = (s.readLanding r th pd.val x).wake r := by
    simp only [State.threadWake, hw, h.sleepOf, h.thread, Bool.not_true, Bool.false_eq_true, if_false]
  have hg : (th.landingRead pd.val x).stopsWhenFiled = false := by rw [Thread.landingRead_frame]; exact h.goes
  have hpc : (th.landingRead pd.val x).pc = th.pc := by rw [Thread.landingRead_frame]
  obtain ⟨t, -, ha⟩ := State.readLanding_acquired pd.val x h.thread
  obtain ⟨⟨u, hu, e, -⟩, -⟩ := ha.wake hg
  rw [hpc] at e
  exact ⟨u, he ▸ hu, e⟩

/-! ## PAUSE (07 R169) -/

theorem Sleeps.pause {c : Nat} (h : Sleeps s r th (.pause c)) (hc : c ≤ s.cycle) : Woken s (s.pauseExpiry r) r th := by
  have hw : s.pauseOver r = true := by simp [State.pauseOver, h.placed, h.sleepOf, hc]
  have he : s.pauseExpiry r = s.wake r := if_pos hw
  exact he ▸ (acquired_refl h.thread).wake h.goes

/-! ## WAITW (13 R283) -/

/-- What WAITW reads at a word that its access reaches. -/
theorem ReachesAt.watchWord {c ctx va : Nat} {e : TbEntry} (h : ReachesAt s c ctx va 4 accLoad e) :
    ∃ u tags, s.watchWord c ctx va = (u, .word (BitVec.ofNat 32 (s.placeNat (s.areaOf e va) (s.offsetOf e va) 4)) tags) ∧ Quiet s u ∧ u.time = s.time := by
  obtain ⟨hl, hb⟩ := s.rdPlace_like c e va (e.pa va) 4 false
  have ha : Accessed s (s.rdPhys c e va (e.pa va) 4).1 := s.rdPhys_accessed ..
  have hv : leNat (s.rdPhys c e va (e.pa va) 4).2 = s.placeNat (s.areaOf e va) (s.offsetOf e va) 4 :=
    (congrArg leNat hb).trans (s.leNat_placeBytes ..)
  refine ⟨(s.rdPhys c e va (e.pa va) 4).1, s.placeTags e (e.pa va) 4, ?_, ⟨ha.thread?, hl.memory, ha.spads⟩, ha.time⟩
  rw [State.watchWord, h.translated]
  simp only [h.ordinary, h.barred, h.noPort, h.here, Bool.false_eq_true, if_false, hv]

theorem State.watch_quiet (s : State) (r : Ref) (va : Nat) : Quiet s (s.watch r va) := by
  rw [State.watch]
  split
  · split
    · exact s.unwatch_quiet r
    · exact (s.unwatch_quiet r).trans (quiet_of_same rfl rfl rfl)
  · exact s.unwatch_quiet r

/-- A WAITW that sleeps on looks again from now. -/
theorem State.watchAgain_only (va : DWord) (v : Word) (h : s.thread? r = some th) :
    ThreadOnly s (s.watchAgain r va v) r (asleep th (.waitw va v s.time)) :=
  (s.watch_quiet r va.toNat).threadOnly (threadOnly_modThread _ (((s.watch_quiet r va.toNat).threads r).trans h))

theorem Sleeps.waitw {va : DWord} {v : Word} {since : Nat} {p : Plot} {e : TbEntry} (h : Sleeps s r th (.waitw va v since)) (hp : tget s.plots r.tag = some p)
    (hr : Reaches s p va.toNat 4 accLoad e) :
    let x := BitVec.ofNat 32 (s.placeNat (s.areaOf e va.toNat) (s.offsetOf e va.toNat) 4)
    (x ≠ v → Woken s (s.waitwRecheck r) r th) ∧ (x = v → ThreadOnly s (s.waitwRecheck r) r (asleep th (.waitw va v s.time))) := by
  obtain ⟨u, tags, hw, hq, ht⟩ := hr.reaches.watchWord
  have hu : u.thread? r = some th := (hq.threads r).trans h.thread
  intro x
  have he : s.waitwRecheck r = if x ≠ v then ((u.watchDone r tags).unwatch r).wake r else u.watchAgain r va v := by
    simp only [State.waitwRecheck, h.sleepOf, h.thread, h.placed, State.coreOf_of_plot hp, State.ctxIdOf_of_plot hp, hw, Bool.not_true, Bool.false_eq_true, if_false]
    rfl
  rw [he]
  refine ⟨fun hx => ?_, fun hx => ?_⟩
  · rw [if_pos hx]
    exact (hq.acquired ((State.watchDone_acquired _ hu).quiet (State.unwatch_quiet ..))).wake h.goes
  · rw [if_neg (not_not.mpr hx), ← ht]
    exact hq.threadOnly (State.watchAgain_only va v hu)

end Wakes

/-- Settles O34: each sleep by the condition that ends it, and what its acquire does before its thread is filed. -/
theorem sleepsEnd : Obligations.SleepsEnd := by
  unfold Obligations.SleepsEnd
  refine fun s tag tid th => ⟨fun a b c d h ha hb hc hd => ⟨_, rfl, h.wait ha hb hc hd⟩, fun addr ph g x h hx hph => ⟨_, rfl, h.bcwait hx hph⟩,
    fun n p h hp hn => ⟨_, rfl, h.mwaitb hp hn⟩, fun pd x h hx => ?_, fun c h hc => ⟨_, rfl, h.pause hc⟩, fun va v since p e h hp hr => ?_⟩
  · obtain ⟨u, hu, e⟩ := h.lwait hx
    exact ⟨_, u, rfl, hu, e⟩
  · obtain ⟨hne, heq⟩ := h.waitw hp hr
    exact ⟨fun hx => ⟨_, rfl, hne hx⟩, fun hx => ⟨_, rfl, heq hx⟩⟩

end Sys2Proof.Machine
end

section
/-! LAWS. Accesses that come to their end (13 R255, R256, 11 R223), and what the order of their thread holds back (11 R226, R235). -/

namespace Sys2Proof.Machine

/-! ## Requests that are sent (23 R406) -/

/-- From s to t requests and LANDs were put on their ways: no thread, no memory and no scratchpad has changed, and no request has come. -/
structure Sent (s t : State) : Prop where
  quiet : Quiet s t
  none : ∀ id, tget s.reqs id = none → tget t.reqs id = none

theorem Sent.refl (s : State) : Sent s s := ⟨Quiet.refl s, fun _ h => h⟩

theorem Sent.trans {s t u : State} (h : Sent s t) (g : Sent t u) : Sent s u := ⟨h.quiet.trans g.quiet, fun id hn => g.none id (h.none id hn)⟩

theorem sent_of_same {s t : State} (hr : t.reqs = s.reqs) (hp : t.plots = s.plots) (hm : t.mem = s.mem) (hc : t.cores = s.cores) : Sent s t :=
  ⟨quiet_of_same hp hm hc, fun id h => by rw [hr, h]⟩

theorem State.sendFlit_sent (s : State) (p n : Nat) : Sent s (s.sendFlit p n) := by
  rw [State.sendFlit]
  split
  · exact Sent.refl s
  · split
    · exact Sent.refl s
    · exact sent_of_same rfl rfl rfl rfl

theorem State.sendOn_sent (s : State) (v : Via) : Sent s (s.sendOn v) := by
  rw [State.sendOn]
  split
  · exact s.sendFlit_sent _ _
  · exact Sent.refl s

/-- The way of a class-S request draws a relay and changes nothing else. -/
theorem State.viaS_fst (s : State) (dst : Nat) : (s.viaS dst).1 = s.draw.2 := by
  unfold State.viaS
  generalize s.draw = d
  obtain ⟨k, s1⟩ := d
  dsimp only
  generalize s1.relaySet dst = l
  split
  · rfl
  · split <;> rfl

theorem State.viaS_sent (s : State) (dst : Nat) : Sent s (s.viaS dst).1 := by
  rw [State.viaS_fst]; exact sent_of_same rfl rfl rfl rfl

theorem State.wayNow_sent (s : State) (dst : Nat) (rc : RC) : Sent s (s.wayNow dst rc).1 := by
  unfold State.wayNow
  split
  · exact Sent.refl s
  · split
    · exact Sent.refl s
    · cases rc with
      | o => exact Sent.refl s
      | a => exact Sent.refl s
      | s => exact s.viaS_sent dst

theorem State.routeNow_sent (s : State) (dst : Nat) (rc : RC) : Sent s (s.routeNow dst rc).1 := (s.wayNow_sent dst rc).trans (State.sendOn_sent ..)

theorem State.setVia_sent (s : State) (id dst : Nat) (v : Via) : Sent s (s.setVia id dst v) :=
  ⟨quiet_of_same rfl rfl rfl, fun x h => by rw [State.setVia, tget_tmod, h]; simp⟩

theorem State.setLandVia_sent (s : State) (id : Nat) (v : Via) : Sent s (s.setLandVia id v) := sent_of_same rfl rfl rfl rfl

theorem State.sendReqs_sent : ∀ (l : List (Nat × Req)) (s : State), Sent s (s.sendReqs l)
  | [], s => Sent.refl s
  | (id, q) :: l, s => by
    rw [State.sendReqs]
    split
    · split
      · exact State.sendReqs_sent l s
      · exact ((s.routeNow_sent _ _).trans (State.setVia_sent ..)).trans (State.sendReqs_sent l _)
    · exact State.sendReqs_sent l s

theorem State.sendLands_sent : ∀ (l : List (Nat × Land)) (s : State), Sent s (s.sendLands l)
  | [], s => Sent.refl s
  | (id, x) :: l, s => by
    rw [State.sendLands]
    split
    · split
      · exact State.sendLands_sent l s
      · exact ((s.routeNow_sent _ _).trans (State.setLandVia_sent _ id _)).trans (State.sendLands_sent l _)
    · exact State.sendLands_sent l s

theorem State.sendHeld_sent (s : State) : Sent s s.sendHeld := (State.sendReqs_sent _ s).trans (State.sendLands_sent ..)

/-! ## A request is taken off -/

/-- Where no LAND waits for a thread's loads, none is delivered with them (13 R291). -/
theorem State.deliverWaiting_none {s : State} {r : Ref} (h : NoDelivery s r) : s.deliverWaiting r = s := by
  have hnil : s.acceptingSlots r = [] := by
    rw [State.acceptingSlots, List.flatten_eq_nil_iff]
    intro l hl
    obtain ⟨⟨c, k⟩, hk, rfl⟩ := List.mem_map.mp hl
    rw [List.map_eq_nil_iff, List.filter_eq_nil_iff]
    intro x hx
    have := h c k hk x hx
    simpa using this
  rw [State.deliverWaiting, hnil]; rfl

theorem State.retire_sent {s : State} {r : Ref} (id : Nat) (h : NoDelivery s r) : Quiet s (s.retire id r) ∧ tget (s.retire id r).reqs id = none := by
  have hd : ({ s with reqs := tdel s.reqs id } : State).deliverWaiting r = { s with reqs := tdel s.reqs id } := State.deliverWaiting_none h
  have hq : Quiet s { s with reqs := tdel s.reqs id } := quiet_of_same rfl rfl rfl
  have hs := State.sendHeld_sent { s with reqs := tdel s.reqs id }
  rw [State.retire, hd]
  exact ⟨hq.trans hs.quiet, hs.none id (tget_tdel_same s.reqs id)⟩

/-- A request taken off after a change of its thread. -/
theorem State.modThread_retire {s : State} {r : Ref} {th : Thread} (id : Nat) (f : Thread → Thread) (ht : s.thread? r = some th) (h : NoDelivery s r) :
    tget ((s.modThread r f).retire id r).reqs id = none ∧ ThreadOnly s ((s.modThread r f).retire id r) r (f th) := by
  obtain ⟨hq, hn⟩ := State.retire_sent (s := s.modThread r f) id h
  exact ⟨hn, threadOnly_quiet (threadOnly_modThread f ht) hq⟩

/-! ## What is held back (11 R226, R235) -/

section Order
variable {s : State} {id : Nat} {q : Req}

/-- An access that a request has to wait for: of one of its sectors, or of another stream before a full release. -/
theorem Req.key_heldBy {x : Req} (h : (∃ y ∈ x.sectors, y ∈ q.sectors) ∨ q.rel = true ∧ (x.stream = none ∨ x.stream ≠ q.stream)) :
    q.key.heldBy x = true := by
  rcases h with ⟨y, hx, hq⟩ | ⟨hr, hs⟩
  · have hm : q.key.meets x = true := by
      have : x.sectors.any q.key.sectors.contains = true := List.any_eq_true.mpr ⟨y, hx, List.contains_iff_mem.mpr hq⟩
      simp [OrderKey.meets, this]
    simp [OrderKey.heldBy, hm]
  · have hn : (x.stream.isNone || x.stream != q.stream) = true := by
      rcases hs with hs | hs <;> simp [hs]
    simp only [OrderKey.heldBy, Req.key, hr, hn, Bool.and_self, Bool.or_true]

/-- A request behind an earlier one of its thread that it has to wait for is not performed. -/
theorem State.mayPerform_held {i : Nat} {x : Req} (hx : (i, x) ∈ s.reqs) (hi : i < id) (hr : x.ref = q.ref) (h : q.key.heldBy x = true) :
    s.mayPerform id q = false := by
  have hany : (s.reqs.any fun e => decide (e.1 < id) && e.2.ref == q.key.ref && q.key.heldBy e.2) = true :=
    List.any_eq_true.mpr ⟨_, hx, by rw [hr, h, show q.key.ref = q.ref from rfl]; simp [hi]⟩
  have hissue : s.mayIssue id q.key = false := by
    rw [State.mayIssue, Bool.and_eq_false_iff]
    exact .inl (by rw [hany]; rfl)
  simp [State.mayPerform, hissue]

variable (hq : tget s.reqs id = some q) (hm : s.mayPerform id q = false)
include hq hm

theorem State.loadReturn_held (hs : q.stage = .place) (v : WireValue) : s.loadReturn id v = s := by
  simp [State.loadReturn, hq, hs, hm]

theorem State.storeAck_held (hs : q.stage = .place) (ho : q.op = .store) (f : WireAck) : s.storeAck id f = s := by
  simp [State.storeAck, hq, hs, ho, hm]

theorem State.glean_held : s.glean id = s := by
  simp [State.glean, hq, State.gleanReady, hm]

theorem State.viewAtomic_held : s.viewAtomic id = s := by
  simp [State.viewAtomic, hq, State.gleanReady, hm]

theorem State.faratAtomic_held : s.faratAtomic id = s := by
  simp [State.faratAtomic, hq, hm]

end Order

/-! ## What has been performed comes to its end (13 R255, 11 R223) -/

section Ends
variable {s : State} {id : Nat} {q : Req} {v : Quad} (hq : tget s.reqs id = some q) (hs : q.stage = .performed v)
include hq hs

theorem State.loadReturn_performed (ho : q.op.countsLd = true) (x : WireValue) : s.loadReturn id x = s.finishLoad id q q.op v q.flags := by
  simp [State.loadReturn, hq, hs, ho]

theorem State.storeAck_performed (ho : q.op.countsSt = true) (f : WireAck) : s.storeAck id f = s.finishStore id q := by
  cases hop : q.op with
  | store | sync | bcarr | bcexp | bcinit => simp [State.storeAck, hq, hs, hop, ReqOp.countsSt]
  | load | atom | lr | sc | fence => rw [hop] at ho; cases ho

end Ends

/-- Settles O37: a performed access by the request taken off, one held back by the order of its thread. -/
theorem accessesComplete : Obligations.AccessesComplete := by
  unfold Obligations.AccessesComplete
  refine fun s id q th hq ht => ⟨fun v hv hn => ⟨fun ho x => ?_, fun ho f => ?_⟩, fun i x hx hi hr hh => ?_⟩
  · have he : exec (.loadReturn id x) s = .next (s.finishLoad id q q.op v q.flags) := congrArg Host.Outcome.next (State.loadReturn_performed hq hv ho x)
    exact ⟨_, he, State.modThread_retire id _ ht hn⟩
  · have he : exec (.storeAck ⟨id, f⟩) s = .next (s.finishStore id q) := congrArg Host.Outcome.next (State.storeAck_performed hq hv ho f)
    exact ⟨_, he, State.modThread_retire id _ ht hn⟩
  · have hm : s.mayPerform id q = false := State.mayPerform_held hx hi hr (Req.key_heldBy hh)
    exact ⟨fun hs _ v => congrArg Host.Outcome.next (State.loadReturn_held hq hm hs v), fun hs ho f => congrArg Host.Outcome.next (State.storeAck_held hq hm hs ho f),
      fun _ => ⟨congrArg Host.Outcome.next (State.glean_held hq hm), congrArg Host.Outcome.next (State.viewAtomic_held hq hm)⟩,
      fun _ => congrArg Host.Outcome.next (State.faratAtomic_held hq hm)⟩

end Sys2Proof.Machine
end

section
/-! LAWS. Reset (09 R202, 23 R423). -/

namespace Sys2Proof.Machine

/-- Settles O9: reset lists no byte, no row and no work, and the memories and the agenda meet their invariants. -/
theorem resetState : Obligations.ResetState :=
  ⟨rfl, rfl, rfl, rfl, rfl, rfl, rfl, rfl, rfl, rfl, rfl, rfl, rfl, rfl, rfl, rfl, rfl, fun _ => rfl, reset_memoriesOk, fun _ h => nomatch h⟩

end Sys2Proof.Machine
end

section
/-! LAWS. Every operation keeps the memories' canonical form (09 R203): device memory, each scratchpad and each pin area. The operations that write them are
those of Laws/Memory.lean; of every other function of the model one lemma says that it keeps the form, named after the function, so that a composed
operation is proved by the chain of its parts (`h.leaveDrill.modThread`). Where a function answers a pair, `of` and `ofEq` take the form to the state named
by the match. -/

namespace Sys2Proof.Machine

-- The lemmas are short and each cites those before it: elaborated one after another, they wait for one another less.
set_option Elab.async false

variable {s : State}

/-- A change of other parts of the state keeps the memories' form. -/
theorem State.memoriesOk.same {t : State} (h : s.memoriesOk) (m : t.mem = s.mem := by rfl) (p : t.plots = s.plots := by rfl)
    (c : t.cores = s.cores := by rfl) : t.memoriesOk := State.memoriesOk_of_same h m p c

/-- The state of an answer, of which the form is known. -/
theorem State.memoriesOk.of {α : Type} {p : State × α} {t : State} {a : α} (h : p.1.memoriesOk) (e : p = (t, a)) : t.memoriesOk := by
  subst e; exact h

theorem State.memoriesOk.ofEq {α : Type} {p : State × α} {t : State} {a : α} (e : p = (t, a)) (h : p.1.memoriesOk) : t.memoriesOk := h.of e

theorem State.memoriesOk.ofSnd {α : Type} {p : α × State} {t : State} {a : α} (h : p.2.memoriesOk) (e : p = (a, t)) : t.memoriesOk := by
  subst e; exact h

/-- A fold of operations that keep the form. -/
theorem State.memoriesOk.foldl {α : Type} {f : State → α → State} {l : List α} (h : s.memoriesOk) (hf : ∀ s x, s.memoriesOk → (f s x).memoriesOk) :
    (l.foldl f s).memoriesOk := List.foldlRecOn l f h fun b hb a _ => hf b a hb

/-- One lane's part of an instruction keeps the form. -/
def LaneKeeps (F : LaneFn) : Prop := ∀ s r p t, s.memoriesOk → (F s r p t).1.memoriesOk

/-- A change of every core that keeps each pin area's form. -/
theorem State.memoriesOk.mapCores {f : Nat × Core → Nat × Core} (h : s.memoriesOk)
    (g : ∀ x, Memory.wf x.2.pin = true → Memory.wf (f x).2.pin = true) : ({ s with cores := s.cores.map f } : State).memoriesOk := by
  refine ⟨h.1, h.2.1, fun x hx => ?_⟩
  obtain ⟨y, hy, rfl⟩ := List.mem_map.1 hx
  exact g y (h.2.2 y hy)

/-- A change of every plot that keeps each scratchpad's form. -/
theorem State.memoriesOk.mapPlots {f : Nat × Plot → Nat × Plot} (h : s.memoriesOk)
    (g : ∀ x, Memory.wf x.2.spad = true → Memory.wf (f x).2.spad = true) : ({ s with plots := s.plots.map f } : State).memoriesOk := by
  refine ⟨h.1, fun x hx => ?_, h.2.2⟩
  obtain ⟨y, hy, rfl⟩ := List.mem_map.1 hx
  exact g y (h.2.1 y hy)

/-- A plot that is put with a scratchpad of the form. -/
theorem State.memoriesOk.putPlot {n : Nat} {p : Plot} (h : s.memoriesOk) (g : Memory.wf p.spad = true) :
    ({ s with plots := tput s.plots n p } : State).memoriesOk := by
  refine ⟨h.1, fun x hx => ?_, h.2.2⟩
  rcases mem_tput s.plots n p x hx with rfl | hx
  exacts [g, h.2.1 x hx]

/-- The scratchpad of a plot of the state has the form. -/
theorem State.memoriesOk.spad {n : Nat} {p : Plot} (h : s.memoriesOk) (e : tget s.plots n = some p) : Memory.wf p.spad = true :=
  h.2.1 _ (mem_of_tget s.plots n p e)

/-- Of a state chosen by a condition, each choice keeps the form. -/
theorem State.memoriesOk.cond {c : Prop} [Decidable c] {x y : State} (hx : x.memoriesOk) (hy : y.memoriesOk) : (if c then x else y).memoriesOk := by
  split
  exacts [hx, hy]

/-- Of an answer chosen by a condition, each choice keeps the form. -/
theorem State.memoriesOk.ite {c : Prop} [Decidable c] {α : Type} {x y : State × α} (hx : x.1.memoriesOk) (hy : y.1.memoriesOk) :
    (if c then x else y).1.memoriesOk := by
  split
  exacts [hx, hy]

/-! ### Operations of a plot or a core that leave its scratchpad or its pin area alone -/

theorem Plot.foldl_spad {α : Type} {f : Plot → α → Plot} (hf : ∀ p x, (f p x).spad = p.spad) (l : List α) (p : Plot) :
    (l.foldl f p).spad = p.spad :=
  List.foldlRecOn (motive := fun q : Plot => q.spad = p.spad) l f rfl fun q h x _ => (hf q x).trans h

theorem Plot.putCell_spad (p : Plot) (tile i j : Nat) (v : Quad) : (p.putCell tile i j v).spad = p.spad := rfl

theorem Plot.mmaEffect_spad (p : Plot) (c : EngCmd) : (p.mmaEffect c).spad = p.spad :=
  Plot.foldl_spad (fun p _ => Plot.foldl_spad (fun _ _ => Plot.putCell_spad ..) _ p) _ p

theorem Plot.clearCells_spad (p : Plot) (c : EngCmd) : (p.clearCells c).spad = p.spad :=
  Plot.foldl_spad (fun p _ => Plot.foldl_spad (fun _ _ => Plot.putCell_spad ..) _ p) _ p

theorem Plot.codeTsw_spad (p : Plot) (tile code : Nat) : (p.codeTsw tile code).spad = p.spad := by
  unfold Plot.codeTsw
  split <;> rfl

theorem EngCmd.sweepRow_spad (c : EngCmd) (v : ApValues) (p : Plot) (i : Nat) : (c.sweepRow v p i).1.spad = p.spad :=
  Plot.foldl_spad (fun _ _ => Plot.putCell_spad ..) _ p

/-! ### The state's parts, threads and traps -/

theorem State.memoriesOk.modPlot {n : Nat} {f : Plot → Plot} (h : s.memoriesOk)
    (g : ∀ p, Memory.wf p.spad = true → Memory.wf (f p).spad = true) : (s.modPlot n f).memoriesOk := State.memoriesOk_modPlot n f h g

theorem State.memoriesOk.modThread {r : Ref} {f : Thread → Thread} (h : s.memoriesOk) : (s.modThread r f).memoriesOk := h.modPlot fun _ g => g

theorem State.memoriesOk.setThread {r : Ref} {t : Thread} (h : s.memoriesOk) : (s.setThread r t).memoriesOk := h.modThread

theorem State.memoriesOk.setCore {c : Nat} {k : Core} (h : s.memoriesOk) (g : Memory.wf k.pin = true) : (s.setCore c k).memoriesOk := by
  refine ⟨h.1, h.2.1, fun x hx => ?_⟩
  rcases mem_tput s.cores c k x hx with rfl | hx
  exacts [g, h.2.2 x hx]

theorem State.memoriesOk.modCore {c : Nat} {f : Core → Core} (h : s.memoriesOk)
    (g : ∀ k, Memory.wf k.pin = true → Memory.wf (f k).pin = true) : (s.modCore c f).memoriesOk := State.memoriesOk_modCore c f h g

theorem State.memoriesOk.modCtx {c : Nat} {f : Ctx → Ctx} (h : s.memoriesOk) : (s.modCtx c f).memoriesOk := h.same

theorem State.memoriesOk.modTract {n : Nat} {f : Tract → Tract} (h : s.memoriesOk) : (s.modTract n f).memoriesOk := h.same

theorem State.memoriesOk.modSow {n : Nat} {f : Sowing → Sowing} (h : s.memoriesOk) : (s.modSow n f).memoriesOk := h.same

theorem State.memoriesOk.modQueue {n : Nat} {f : Queue → Queue} (h : s.memoriesOk) : (s.modQueue n f).memoriesOk := h.same

theorem State.memoriesOk.draw (h : s.memoriesOk) : (s.draw).2.memoriesOk := h.same

theorem State.memoriesOk.fresh (h : s.memoriesOk) : (s.fresh).2.memoriesOk := h.same

theorem State.memoriesOk.leaveDrill {r : Ref} (h : s.memoriesOk) : (s.leaveDrill r).memoriesOk := State.memoriesOk_leaveDrill r h

theorem State.memoriesOk.toHeadland {r : Ref} {why : Reason} (h : s.memoriesOk) : (s.toHeadland r why).memoriesOk := h.leaveDrill.modThread

theorem State.memoriesOk.stillTract {n : Nat} (h : s.memoriesOk) : (s.stillTract n).memoriesOk := State.memoriesOk_stillTract n h

theorem State.memoriesOk.stopThread {r : Ref} {tag : Option Nat} (h : s.memoriesOk) : (s.stopThread r tag).memoriesOk := State.memoriesOk_stopThread r tag h

theorem State.memoriesOk.fileThread {r : Ref} {pc : DWord} {n : Nat} (h : s.memoriesOk) : (s.fileThread r pc n).memoriesOk :=
  State.memoriesOk_fileThread r pc n h

theorem State.memoriesOk.flushFiling {c : Nat} (h : s.memoriesOk) : (s.flushFiling c).memoriesOk := by
  refine h.setCore (List.foldlRecOn (motive := fun k : Core => Memory.wf k.pin = true) (s.core c).filing _ (State.wf_pin h c) fun k g q _ => ?_)
  split
  · split
    exacts [(congrArg (Memory.wf · = true) (Core.enter_pin ..)).mpr g, g]
  · exact g

theorem State.memoriesOk.unfile {r : Ref} (h : s.memoriesOk) : (s.unfile r).memoriesOk := h.modCore fun _ g => g

theorem State.memoriesOk.addRec {ctx : Nat} {f : FaultRec} (h : s.memoriesOk) : (s.addRec ctx f).memoriesOk := h.modCtx

theorem State.memoriesOk.startBudget {r : Ref} (h : s.memoriesOk) : (s.startBudget r).memoriesOk := by
  unfold State.startBudget
  split
  · exact h
  · split
    exacts [h, h.modTract]

theorem State.memoriesOk.parkThread {r : Ref} {f : FaultRec} {pc : DWord} (h : s.memoriesOk) : (s.parkThread r f pc).memoriesOk :=
  h.startBudget.toHeadland.modThread.addRec

theorem State.memoriesOk.takeTrap {r : Ref} {word : Word} {code imm : Nat} {eaddr : DWord} (h : s.memoriesOk) :
    (s.takeTrap r word code imm eaddr).memoriesOk := State.memoriesOk_takeTrap r word code imm eaddr h

theorem State.memoriesOk.freeSlots {r : Ref} (h : s.memoriesOk) : (s.freeSlots r).memoriesOk := State.memoriesOk_freeSlots r h

theorem State.memoriesOk.unwatch {r : Ref} (h : s.memoriesOk) : (s.unwatch r).memoriesOk := h.same

theorem State.memoriesOk.exitThread {r : Ref} (h : s.memoriesOk) : (s.exitThread r).memoriesOk := h.leaveDrill.unfile.freeSlots.unwatch.modThread

theorem State.memoriesOk.killThread {r : Ref} (h : s.memoriesOk) : (s.killThread r).memoriesOk := by
  unfold State.killThread
  split
  · split
    exacts [h.exitThread, h]
  · exact h

/-! ### Device memory, its rows and the scratchpads -/

theorem State.memoriesOk.countUnsown {a : Nat} (h : s.memoriesOk) : (s.countUnsown a).memoriesOk := by
  unfold State.countUnsown
  split
  exacts [h, h.same]

theorem State.memoriesOk.dropReservations {by' : Option Ref} {a n : Nat} (h : s.memoriesOk) : (s.dropReservations by' a n).memoriesOk := h.same

theorem State.memoriesOk.hitWatches {a n : Nat} (h : s.memoriesOk) : (s.hitWatches a n).memoriesOk := h.same

theorem State.memoriesOk.writeLocal {b : Option Ref} {a : Nat} {l : List Byte} {k : Option Nat} {src : Option SyncSrc} (h : s.memoriesOk) :
    (s.writeLocal b a l k src).memoriesOk := State.memoriesOk_writeLocal b a l k src h

theorem State.memoriesOk.dropL1 {c : Nat} (h : s.memoriesOk) : (s.dropL1 c).memoriesOk := h.modCore fun _ g => g

theorem State.memoriesOk.dropVbuf {c : Nat} (h : s.memoriesOk) : (s.dropVbuf c).memoriesOk := h.modCore fun _ g => g

theorem State.memoriesOk.dropAllVbuf (h : s.memoriesOk) : (s.dropAllVbuf).memoriesOk := h.mapCores fun _ g => g

theorem State.memoriesOk.acquireCaches {c : Nat} {sc : Scope} (h : s.memoriesOk) : (s.acquireCaches c sc).memoriesOk := by
  unfold State.acquireCaches
  split
  exacts [h.dropVbuf, h.dropVbuf.dropL1]

theorem State.memoriesOk.dropL1Line {c pa : Nat} (h : s.memoriesOk) : (s.dropL1Line c pa).memoriesOk := h.modCore fun _ g => g

theorem State.memoriesOk.updateL1 {c pa : Nat} {l : List Byte} {src : Option SyncSrc} (h : s.memoriesOk) : (s.updateL1 c pa l src).memoriesOk :=
  h.modCore fun _ g => g

theorem State.memoriesOk.countWalk {l : List Nat} (h : s.memoriesOk) : (s.countWalk l).memoriesOk :=
  h.foldl fun s a h => by
    split
    exacts [h.countUnsown, h]

theorem State.memoriesOk.fillTb {core : Nat} {e : TbEntry} (h : s.memoriesOk) : (s.fillTb core e).memoriesOk := by
  unfold State.fillTb
  split
  exacts [h, h.modCore fun _ g => g]

theorem State.memoriesOk.dropTb {core ctx va : Nat} (h : s.memoriesOk) : (s.dropTb core ctx va).memoriesOk := h.modCore fun _ g => g

theorem State.memoriesOk.spadPut {tag off : Nat} {l : List Byte} {src : Option SyncSrc} (h : s.memoriesOk) : (s.spadPut tag off l src).memoriesOk :=
  State.memoriesOk_spadPut tag off l src h

theorem State.memoriesOk.observe {r : Ref} {sc : Scope} {l : List SyncSrc} (h : s.memoriesOk) : (s.observe r sc l).memoriesOk := by
  unfold State.observe
  dsimp only
  split
  exacts [h, h.modThread]

theorem State.memoriesOk.remember {r : Ref} {c : Classes} {l : List SyncSrc} (h : s.memoriesOk) : (s.remember r c l).memoriesOk := by
  unfold State.remember
  split
  exacts [h, h.modThread]

theorem State.memoriesOk.readSync {r : Ref} {acq : Bool} {sc : Scope} {c : Classes} {l : List SyncSrc} (h : s.memoriesOk) :
    (s.readSync r acq sc c l).memoriesOk := by
  unfold State.readSync
  split
  exacts [h.observe, h.remember]

theorem State.memoriesOk.fenceDone {r : Ref} {sc : Scope} {m : Classes} (h : s.memoriesOk) : (s.fenceDone r sc m).memoriesOk := by
  unfold State.fenceDone
  split
  exacts [h, h.observe.modThread.acquireCaches]

/-! ### L1, L2, the LLC and the directories -/

theorem State.memoriesOk.writeBack {y : Nat} (h : s.memoriesOk) : (s.writeBack y).memoriesOk := by
  unfold State.writeBack
  split
  · split
    exact (h.draw.ofSnd ‹_›).same
  · exact h

theorem State.memoriesOk.putDir {y : Nat} {d : DirEntry} (h : s.memoriesOk) : (s.putDir y d).memoriesOk := h.same

theorem State.memoriesOk.leaveDir {y die : Nat} (h : s.memoriesOk) : (s.leaveDir y die).memoriesOk := by
  unfold State.leaveDir
  split
  exacts [h.putDir, h]

theorem State.memoriesOk.recall {y : Nat} (h : s.memoriesOk) : (s.recall y).memoriesOk := by
  unfold State.recall
  split
  exacts [h.same.writeBack, h]

theorem State.memoriesOk.moveRegion {k : Nat} {e : Region} {slice : Nat} (h : s.memoriesOk) : (s.moveRegion k e slice).memoriesOk := h.same

theorem State.memoriesOk.regionRoom {k : Nat} (h : s.memoriesOk) : (s.regionRoom k).memoriesOk := by
  unfold State.regionRoom
  dsimp only
  split
  · exact h
  · split
    · next q e _ => exact (h.moveRegion (k := q) (e := e) (slice := keySlice q)).same
    · exact h

theorem State.memoriesOk.touch {core : Nat} {e : TbEntry} {va pa n : Nat} {write sync : Bool} (h : s.memoriesOk) :
    (s.touch core e va pa n write sync).memoriesOk :=
  h.same

/-! ### Page walks and translation -/

theorem State.memoriesOk.writePte {pa v : Nat} (h : s.memoriesOk) : (s.writePte pa v).memoriesOk := h.touch.writeLocal

theorem State.memoriesOk.markLeaf {p va lvl a : Nat} {priv shd : Bool} {own : Nat} (h : s.memoriesOk) : (s.markLeaf p va lvl a priv shd own).memoriesOk :=
  h.foldl fun _ _ h => h.writePte

theorem State.memoriesOk.linesHome {e : TbEntry} (h : s.memoriesOk) : (s.linesHome e).memoriesOk := by
  unfold State.linesHome
  split
  exacts [h, h.same]

theorem State.memoriesOk.makeShared {ctx va p lvl a : Nat} (h : s.memoriesOk) : (s.makeShared ctx va p lvl a).memoriesOk := h.linesHome.markLeaf.dropTb

theorem State.memoriesOk.walkCounted {ctx va : Nat} (h : s.memoriesOk) : (s.walkCounted ctx va).1.memoriesOk := by
  unfold State.walkCounted
  split
  · split
    · dsimp only
      exact h.countWalk
    · dsimp only
      exact h
  · dsimp only
    exact h

theorem State.memoriesOk.walkFor {core ctx va : Nat} (h : s.memoriesOk) : (s.walkFor core ctx va).1.memoriesOk := by
  unfold State.walkFor
  split
  · exact h.walkCounted.of ‹_›
  · split
    · dsimp only
      exact (h.walkCounted.of ‹_›).fillTb
    · split
      · dsimp only
        split
        exacts [h.walkCounted.of ‹_›, (h.walkCounted.of ‹_›).makeShared.fillTb]
      · dsimp only
        exact (h.walkCounted.of ‹_›).markLeaf.fillTb

theorem State.memoriesOk.xlate {core ctx va acc : Nat} (h : s.memoriesOk) : (s.xlate core ctx va acc).1.memoriesOk := by
  unfold State.xlate
  refine .ite h ?_
  split
  next s1 r e =>
  have h1 : s1.memoriesOk := by
    refine .ofEq e ?_
    split
    exacts [h, h.walkFor]
  split
  · exact h1
  · exact .ite h1 (.ite h1 h1)

/-! ### Reads and writes at a place, of views, and of the engines -/

theorem State.memoriesOk.rdPlace {core : Nat} {e : TbEntry} {va pa n : Nat} {sync : Bool} (h : s.memoriesOk) :
    (s.rdPlace core e va pa n sync).1.memoriesOk := by
  unfold State.rdPlace
  split
  exacts [h, h.touch.countUnsown]

theorem State.memoriesOk.rdPhys {core : Nat} {e : TbEntry} {va pa n : Nat} (h : s.memoriesOk) : (s.rdPhys core e va pa n).1.memoriesOk := h.rdPlace

theorem State.memoriesOk.wrPhys {c : Nat} {b : Option Ref} {e : TbEntry} {va pa : Nat} {l : List Byte} {src : Option SyncSrc} {y : Bool} (h : s.memoriesOk) :
    (s.wrPhys c b e va pa l src y).memoriesOk := State.memoriesOk_wrPhys c b e va pa l src y h

theorem State.memoriesOk.sendFlit {p relayed : Nat} (h : s.memoriesOk) : (s.sendFlit p relayed).memoriesOk := by
  unfold State.sendFlit
  split
  · exact h
  · split
    · exact h
    · split
      exact (h.draw.ofSnd ‹_›).same

theorem State.memoriesOk.usePort {dst : Nat} {rc : RC} (h : s.memoriesOk) : (s.usePort dst rc).memoriesOk := by
  unfold State.usePort
  split
  exacts [h.sendFlit, h]

theorem State.memoriesOk.freeBytes {n : Nat} (h : s.memoriesOk) : (s.freeBytes n).1.memoriesOk := h.same

theorem State.memoriesOk.freeTags {pa : Nat} (h : s.memoriesOk) : (s.freeTags pa).1.memoriesOk := by
  unfold State.freeTags
  split
  · exact h
  · split
    exact h.draw.ofSnd ‹_›

theorem State.memoriesOk.farAnswer {pa : Nat} {rc : RC} (h : s.memoriesOk) : (s.farAnswer pa rc).1.memoriesOk := by
  unfold State.farAnswer
  split
  · exact h
  · split
    exact h.usePort.draw.ofSnd ‹_›

theorem State.memoriesOk.answerPeer {dev tag : Nat} {r : FabReply} (h : s.memoriesOk) : (s.answerPeer dev tag r).memoriesOk := h.usePort.same

theorem State.memoriesOk.pread {core ctx va n acc : Nat} {rc : RC} (h : s.memoriesOk) : (s.pread core ctx va n acc rc).1.memoriesOk := by
  unfold State.pread
  split
  · exact h.xlate.of ‹_›
  · split
    · exact h.xlate.of ‹_›
    · split
      · exact h.xlate.of ‹_›
      · split
        · exact h.xlate.of ‹_›
        · split
          · split
            · exact (h.xlate.of ‹_›).farAnswer.of ‹_›
            · split
              exact ((h.xlate.of ‹_›).farAnswer.of ‹_›).freeBytes.of ‹_›
          · split
            exact (h.xlate.of ‹_›).rdPhys.of ‹_›

theorem State.memoriesOk.sendBytes {l : List (Nat × Byte)} (h : s.memoriesOk) : (s.sendBytes l).memoriesOk := by
  unfold State.sendBytes
  split
  exacts [h.same, h]

theorem State.memoriesOk.sendWrite {pa : Nat} {l : List Byte} (h : s.memoriesOk) : (s.sendWrite pa l).memoriesOk := h.sendBytes

theorem State.memoriesOk.pwrite {core ctx : Nat} {by' : Option Ref} {va : Nat} {l : List Byte} {acc : Nat} {src : Option SyncSrc} {rc : RC} (h : s.memoriesOk) :
    (s.pwrite core ctx by' va l acc src rc).1.memoriesOk := by
  unfold State.pwrite
  split
  · exact h.xlate.of ‹_›
  · split
    · exact h.xlate.of ‹_›
    · split
      · exact h.xlate.of ‹_›
      · split
        · exact h.xlate.of ‹_›
        · split
          · split
            exacts [(h.xlate.of ‹_›).farAnswer.of ‹_›, ((h.xlate.of ‹_›).farAnswer.of ‹_›).sendWrite]
          · exact (h.xlate.of ‹_›).wrPhys

theorem State.memoriesOk.ttEntry {core ctx id acc : Nat} (h : s.memoriesOk) : (s.ttEntry core ctx id acc).1.memoriesOk := by
  unfold State.ttEntry
  split
  · exact h
  · split
    · exact h
    · split <;> exact h.pread.of ‹_›

/-- An entry that is read only where the view needs it. -/
theorem State.memoriesOk.ttEntryIf {c : Prop} [Decidable c] {core ctx id acc : Nat} {x : Except Nat (Option Nat)} (h : s.memoriesOk) :
    (if c then s.ttEntry core ctx id acc else (s, x)).1.memoriesOk := .ite h.ttEntry h

theorem State.memoriesOk.viewEnts {core ctx id : Nat} (h : s.memoriesOk) : (s.viewEnts core ctx id).1.memoriesOk := by
  unfold State.viewEnts
  split
  · exact .ofEq ‹_› h.ttEntry
  · exact .ofEq ‹_› h.ttEntry
  · have h1 := State.memoriesOk.ofEq ‹_› h.ttEntry
    refine .ite h1 ?_
    split
    · exact .ofEq ‹_› h1.ttEntry
    · exact .ofEq ‹_› h1.ttEntry
    · have h2 := State.memoriesOk.ofEq ‹_› h1.ttEntry
      refine .ite h2 ?_
      split
      have h3 := State.memoriesOk.ofEq ‹_› h2.ttEntryIf
      split
      · exact h3
      · exact h3
      · refine .ite h3 ?_
        split
        have h4 := State.memoriesOk.ofEq ‹_› h3.ttEntryIf
        split
        exacts [h4, h4, .ite h4 h4]

theorem State.memoriesOk.dropL1Va {core ctx va : Nat} (h : s.memoriesOk) : (s.dropL1Va core ctx va).memoriesOk := by
  unfold State.dropL1Va
  split
  exacts [h.dropL1Line, h]

/-- The read of a view's index word. -/
theorem State.memoriesOk.indexRead {core ctx a : Nat} {r : Except Nat (List Byte)} {t : State} (h : s.memoriesOk) (e : s.pread 128 ctx a 4 accLoad = (t, r)) :
    (if core < 128 then (t.dropL1Va core ctx a).dropVbuf core else t).memoriesOk := by
  have h1 : t.memoriesOk := .ofEq e h.pread
  split
  exacts [h1.dropL1Va.dropVbuf, h1]

theorem State.memoriesOk.viewToBase {core ctx : Nat} {ve : ViewEnts} {o : Nat} (h : s.memoriesOk) : (s.viewToBase core ctx ve o).1.memoriesOk := by
  unfold State.viewToBase
  extract_lets g j
  split
  · exact h
  · split
    next t b e =>
    have h1 : t.memoriesOk := by
      refine .ofEq e ?_
      split
      · exact h
      · exact h
      · split
        exacts [.ofEq ‹_› h.pread, h.indexRead ‹_›]
    split
    · exact h1
    · exact .ite h1 h1

theorem State.memoriesOk.viewByte {core ctx : Nat} {ve : ViewEnts} {acc o : Nat} (h : s.memoriesOk) : (s.viewByte core ctx ve acc o).1.memoriesOk := by
  unfold State.viewByte
  split
  · exact h.viewToBase.of ‹_›
  · split
    · exact (h.viewToBase.of ‹_›).xlate.of ‹_›
    · split
      · exact (h.viewToBase.of ‹_›).xlate.of ‹_›
      · split <;> exact (h.viewToBase.of ‹_›).xlate.of ‹_›

theorem State.memoriesOk.viewBytes {core ctx : Nat} {ve : ViewEnts} {acc o n : Nat} (h : s.memoriesOk) :
    (s.viewBytes core ctx ve acc o n).1.memoriesOk := by
  induction n generalizing s o with
  | zero => exact h
  | succ n ih => exact ih h.viewByte

theorem State.memoriesOk.readSectors {l : List (Nat × TbEntry)} (h : s.memoriesOk) : (s.readSectors l).memoriesOk := by
  unfold State.readSectors
  refine h.foldl fun s x h => ?_
  dsimp only
  split
  · split
    exacts [h, h.rdPhys]
  · exact h

theorem State.memoriesOk.viewTake {l : List (Nat × TbEntry)} (h : s.memoriesOk) : (s.viewTake l).1.memoriesOk := by
  induction l generalizing s with
  | nil => exact h
  | cons x l ih =>
    unfold State.viewTake
    dsimp only
    split
    exacts [ih h.freeBytes, ih h]

theorem State.memoriesOk.viewRead {l : List (Nat × TbEntry)} (h : s.memoriesOk) : (s.viewRead l).1.memoriesOk := h.readSectors.viewTake

theorem State.memoriesOk.writeSector {by' : Option Ref} {src : Option SyncSrc} {l : List ((Nat × TbEntry) × Byte)} (h : s.memoriesOk) :
    (s.writeSector by' src l).memoriesOk := by
  unfold State.writeSector
  split
  · exact h
  · split
    exacts [h.sendBytes, h.foldl fun _ _ h => h.wrPhys]

theorem State.memoriesOk.viewWrite {by' : Option Ref} {src : Option SyncSrc} {bs : List (Nat × TbEntry)} {l : List Byte} (h : s.memoriesOk) :
    (s.viewWrite by' src bs l).memoriesOk :=
  h.foldl fun _ _ h => h.writeSector

theorem State.memoriesOk.viewAnswer {l : List (Nat × TbEntry)} {rc : RC} (h : s.memoriesOk) : (s.viewAnswer l rc).1.memoriesOk := by
  unfold State.viewAnswer
  split
  exacts [h, h.farAnswer]

theorem State.memoriesOk.dropViewLines {core : Nat} {l : List (Nat × TbEntry)} (h : s.memoriesOk) : (s.dropViewLines core l).memoriesOk := by
  unfold State.dropViewLines
  split
  · exact h
  · refine h.foldl fun s x h => ?_
    dsimp only
    exact h.dropL1Line

theorem State.memoriesOk.anyRead {core ctx va n acc : Nat} {rc : RC} (h : s.memoriesOk) : (s.anyRead core ctx va n acc rc).1.memoriesOk := by
  unfold State.anyRead
  split
  · exact h.xlate.of ‹_›
  · split
    · split
      · exact (h.xlate.of ‹_›).viewEnts.of ‹_›
      · split
        · exact ((h.xlate.of ‹_›).viewEnts.of ‹_›).viewBytes.of ‹_›
        · split
          · exact ((h.xlate.of ‹_›).viewEnts.of ‹_›).viewBytes.of ‹_›
          · split
            · exact (((h.xlate.of ‹_›).viewEnts.of ‹_›).viewBytes.of ‹_›).viewAnswer.of ‹_›
            · split
              · split
                · exact (((((h.xlate.of ‹_›).viewEnts.of ‹_›).viewBytes.of ‹_›).viewAnswer.of ‹_›).dropViewLines.viewRead.of ‹_›).dropVbuf
                · exact ((((h.xlate.of ‹_›).viewEnts.of ‹_›).viewBytes.of ‹_›).viewAnswer.of ‹_›).dropViewLines.viewRead.of ‹_›
    · split
      · split
        exacts [((h.xlate.of ‹_›).pread.of ‹_›).dropL1Line.dropVbuf, (h.xlate.of ‹_›).pread.of ‹_›]

theorem State.memoriesOk.anyWrite {core ctx : Nat} {by' : Option Ref} {va : Nat} {l : List Byte} {acc : Nat} {src : Option SyncSrc} {rc : RC}
    (h : s.memoriesOk) :
    (s.anyWrite core ctx by' va l acc src rc).1.memoriesOk := by
  unfold State.anyWrite
  split
  · exact h.xlate.of ‹_›
  · split
    · split
      · exact (h.xlate.of ‹_›).viewEnts.of ‹_›
      · split
        · split
          · exact ((h.xlate.of ‹_›).viewEnts.of ‹_›).viewBytes.of ‹_›
          · split
            · exact ((h.xlate.of ‹_›).viewEnts.of ‹_›).viewBytes.of ‹_›
            · split
              · exact (((h.xlate.of ‹_›).viewEnts.of ‹_›).viewBytes.of ‹_›).viewAnswer.of ‹_›
              · split
                · dsimp only
                  exact ((((h.xlate.of ‹_›).viewEnts.of ‹_›).viewBytes.of ‹_›).viewAnswer.of ‹_›).viewWrite.dropViewLines.dropVbuf
                · dsimp only
                  exact ((((h.xlate.of ‹_›).viewEnts.of ‹_›).viewBytes.of ‹_›).viewAnswer.of ‹_›).viewWrite.dropViewLines
    · split
      · split
        exacts [((h.xlate.of ‹_›).pwrite.of ‹_›).dropL1Line.dropVbuf, (h.xlate.of ‹_›).pwrite.of ‹_›]

theorem State.memoriesOk.rangeRead {rc : RC} {core ctx acc fuel va n : Nat} (h : s.memoriesOk) :
    (s.rangeRead rc core ctx acc fuel va n).1.memoriesOk := by
  induction fuel generalizing s va n with
  | zero => exact h
  | succ fuel ih =>
    unfold State.rangeRead
    split
    · exact h
    · dsimp only
      split
      · exact .ofEq ‹_› h.anyRead
      · split <;> exact .ofEq ‹_› (ih (.ofEq ‹_› h.anyRead))

theorem State.memoriesOk.rangeWrite {rc : RC} {core ctx : Nat} {b : Option Ref} {acc : Nat} {src : Option SyncSrc} {fuel va : Nat} {l : List Byte}
    (h : s.memoriesOk) : (s.rangeWrite rc core ctx b acc src fuel va l).1.memoriesOk := by
  induction fuel generalizing s va l with
  | zero => exact h
  | succ fuel ih =>
    unfold State.rangeWrite
    split
    · exact h
    · dsimp only
      split
      exacts [.ofEq ‹_› h.anyWrite, ih (.ofEq ‹_› h.anyWrite)]

theorem State.memoriesOk.engRead {core ctx acc fuel va n : Nat} (h : s.memoriesOk) : (s.engRead core ctx acc fuel va n).1.memoriesOk := h.rangeRead

theorem State.memoriesOk.engWrite {core ctx : Nat} {by' : Option Ref} {acc : Nat} {src : Option SyncSrc} {fuel va : Nat} {l : List Byte} (h : s.memoriesOk) :
    (s.engWrite core ctx by' acc src fuel va l).1.memoriesOk :=
  h.rangeWrite

/-! ### Lanes: how the parts of an instruction end -/

theorem State.memoriesOk.event {code detail : Nat} (h : s.memoriesOk) : (s.event code detail).memoriesOk := h.same

theorem State.memoriesOk.recSlot {ctx : Nat} (h : s.memoriesOk) : (s.recSlot ctx).1.memoriesOk := by
  unfold State.recSlot
  split
  · exact h
  · split
    · exact h.pread.of ‹_›
    · dsimp only
      split
      · exact h.pread.of ‹_›
      · split <;> exact h.pread.of ‹_›

theorem State.memoriesOk.flushOne {ctx : Nat} (h : s.memoriesOk) : (s.flushOne ctx).1.memoriesOk := by
  unfold State.flushOne
  split
  · exact h
  · split
    · exact h
    · split
      · exact h.recSlot.of ‹_›
      · exact h.recSlot.of ‹_›
      · split
        · exact (h.recSlot.of ‹_›).pwrite.of ‹_›
        · split
          · exact ((h.recSlot.of ‹_›).pwrite.of ‹_›).pwrite.of ‹_›
          · exact (((h.recSlot.of ‹_›).pwrite.of ‹_›).pwrite.of ‹_›).modCtx

theorem State.memoriesOk.flushRecs {ctx n : Nat} (h : s.memoriesOk) : (s.flushRecs ctx n).memoriesOk := by
  induction n generalizing s with
  | zero => exact h
  | succ n ih =>
    unfold State.flushRecs
    dsimp only
    split
    exacts [ih h.flushOne, h.flushOne]

theorem State.memoriesOk.deliverRecs {ctx : Nat} (h : s.memoriesOk) : (s.deliverRecs ctx).memoriesOk := by
  unfold State.deliverRecs
  dsimp only
  split
  · exact h.flushRecs
  · split
    exacts [(h.flushRecs.recSlot.of ‹_›).event, h.flushRecs.recSlot.of ‹_›]

theorem State.memoriesOk.setPc {r : Ref} {pc : DWord} (h : s.memoriesOk) : (s.setPc r pc).memoriesOk := h.modThread

theorem State.memoriesOk.freezePlot {r : Ref} {acc va : Nat} (h : s.memoriesOk) : (s.freezePlot r acc va).memoriesOk := by
  unfold State.freezePlot
  split
  · next t p _ _ =>
    extract_lets f s1 s2 s3
    have h3 : s3.memoriesOk := State.memoriesOk.modPlot (.modThread (.toHeadland (.modTract h.stillTract))) fun _ g => g
    exact .addRec (.event h3.same)
  · exact h

theorem State.memoriesOk.settleLane {word : Word} {mask : DWord} {slot : Nat} {x : Ref × Out} (h : s.memoriesOk) :
    (s.settleLane word mask slot x).memoriesOk := by
  unfold State.settleLane
  split
  · exact h.modThread
  · exact h.setPc
  · exact h.setPc
  · exact h.fileThread
  · exact h.takeTrap
  · split
    · dsimp only
      split
      exacts [h, h.freezePlot]
    · dsimp only
      split
      exacts [h, h.parkThread]
  · exact h.toHeadland
  · exact h.toHeadland
  · exact h.exitThread
  · exact h.stopThread
  · exact h

theorem State.memoriesOk.newDrill {core slot : Nat} {rs : List Ref} {single : Bool} {group : Option GroupWord} (h : s.memoriesOk) :
    (s.newDrill core slot rs single group).memoriesOk :=
  (h.foldl fun _ _ h => h.leaveDrill.modThread).modCore fun _ g => g

theorem State.memoriesOk.fileAll {slot : Nat} {rs : List Ref} (h : s.memoriesOk) : (s.fileAll slot rs).memoriesOk :=
  h.foldl fun s r h => by
    split
    exacts [h.fileThread, h]

theorem State.memoriesOk.split {core slot : Nat} {taken rest : List Ref} (h : s.memoriesOk) : (s.split core slot taken rest).memoriesOk := by
  unfold State.split
  split
  · exact h
  · split
    · exact h.newDrill
    · split <;> exact h.fileAll

theorem State.memoriesOk.regroup {slot : Nat} {stay : List Ref} (h : s.memoriesOk) : (s.regroup slot stay).memoriesOk := by
  unfold State.regroup
  split
  exacts [h, h.fileAll]

theorem State.memoriesOk.settle {outs : List (Ref × Out)} (h : s.memoriesOk) : (s.settle outs).memoriesOk := by
  have h1 := h.foldl (l := outs) fun t x g => State.memoriesOk.settleLane (word := s.cur.word) (mask := maskOf outs) (slot := s.cur.slot) (x := x) g
  unfold State.settle
  dsimp only
  refine .foldl ?_ fun _ _ g => g.deliverRecs
  split
  exacts [h1.regroup, h1.split]

theorem State.memoriesOk.settleOr {s0 : State} {outs : List (Ref × Out)} (h : s.memoriesOk) (h0 : s0.memoriesOk) :
    (s.settleOr s0 outs).memoriesOk := by
  unfold State.settleOr
  split
  exacts [h0.same, h.settle]

/-- One lane after the lanes before it. -/
theorem runLane_memoriesOk {f : LaneFn} (hf : LaneKeeps f) {x : State × List (Ref × Out)} {r : Ref} (h : x.1.memoriesOk) :
    (runLane f x r).1.memoriesOk := by
  unfold runLane
  dsimp only
  split
  · exact hf _ _ _ _ h
  · exact h

/-- An instruction keeps the form when each lane's part of it does. -/
theorem State.memoriesOk.runLanes {f : LaneFn} (h : s.memoriesOk) (hf : LaneKeeps f) : (runLanes f s).memoriesOk :=
  .settleOr (List.foldlRecOn s.cur.lanes (runLane f) (motive := fun x => x.1.memoriesOk) h fun _ hx _ _ => runLane_memoriesOk hf hx) h

theorem pureLane_keeps {guard : Thread → Bool} {ops : List (Reg × Nat)} {eff : Env → Thread → Thread} :
    LaneKeeps (pureLane guard ops eff) := fun s r p t h => by
  unfold pureLane
  split
  · exact h
  · split
    exacts [h, h.setThread]

theorem State.memoriesOk.runPure {guard : Thread → Bool} {ops : List (Reg × Nat)} {eff : Env → Thread → Thread} (h : s.memoriesOk) :
    (runPure guard ops eff s).memoriesOk :=
  h.runLanes pureLane_keeps

theorem supLane_keeps {f : LaneFn} (hf : LaneKeeps f) : LaneKeeps (supLane f) := fun s r p t h => by
  unfold supLane
  split
  exacts [hf s r p t h, h]

theorem roleLane_keeps {ok : Role → Bool} {f : LaneFn} (hf : LaneKeeps f) : LaneKeeps (roleLane ok f) := fun s r p t h => by
  unfold roleLane
  split
  exacts [hf s r p t h, h]

/-! ### Scratchpad writes of the engines -/

theorem State.memoriesOk.reportHazards {who : Writer} {tag off n : Nat} {c : EngCmd} (h : s.memoriesOk) : (s.reportHazards who tag off n c).memoriesOk := by
  unfold State.reportHazards
  extract_lets l s1
  have h1 : s1.memoriesOk := h.modPlot fun _ g => g
  split
  exacts [h, h1.same]

theorem State.memoriesOk.hazards {who : Machine.Writer} {tag off n : Nat} (h : s.memoriesOk) : (s.hazards who tag off n).memoriesOk :=
  h.foldl fun _ _ h => h.reportHazards

theorem State.memoriesOk.spadWrite {who : Machine.Writer} {tag off : Nat} {l : List Byte} {src : Option SyncSrc} (h : s.memoriesOk) :
    (s.spadWrite who tag off l src).memoriesOk :=
  h.hazards.spadPut

/-! ### Ways to other devices -/

theorem State.memoriesOk.viaS {dst : Nat} (h : s.memoriesOk) : (s.viaS dst).1.memoriesOk := by
  unfold State.viaS
  dsimp only
  split
  · exact h.draw
  · split <;> exact h.draw

theorem State.memoriesOk.wayNow {dst : Nat} {rc : RC} (h : s.memoriesOk) : (s.wayNow dst rc).1.memoriesOk := by
  unfold State.wayNow
  split
  · exact h
  · split
    · exact h
    · split
      exacts [h, h, h.viaS]

theorem State.memoriesOk.sendOn {v : Via} (h : s.memoriesOk) : (s.sendOn v).memoriesOk := by
  unfold State.sendOn
  split
  exacts [h.sendFlit, h]

theorem State.memoriesOk.routeNow {dst : Nat} {rc : RC} (h : s.memoriesOk) : (s.routeNow dst rc).1.memoriesOk := by
  unfold State.routeNow
  split
  exact (h.wayNow.of ‹_›).sendOn

theorem State.memoriesOk.route {id dst : Nat} {rc : RC} {k : OrderKey} (h : s.memoriesOk) : (s.route id dst rc k).1.memoriesOk := by
  unfold State.route
  split
  exacts [h, h.routeNow]

theorem State.memoriesOk.setVia {id dst : Nat} {v : Via} (h : s.memoriesOk) : (s.setVia id dst v).memoriesOk := h.same

theorem State.memoriesOk.setLandVia {id : Nat} {v : Via} (h : s.memoriesOk) : (s.setLandVia id v).memoriesOk := h.same

theorem State.memoriesOk.sendReqs {l : List (Nat × Req)} (h : s.memoriesOk) : (s.sendReqs l).memoriesOk := by
  induction l generalizing s with
  | nil => exact h
  | cons x l ih =>
    unfold State.sendReqs
    split
    · split
      exacts [ih h, ih h.routeNow.setVia]
    · exact ih h

theorem State.memoriesOk.sendLands {l : List (Nat × Land)} (h : s.memoriesOk) : (s.sendLands l).memoriesOk := by
  induction l generalizing s with
  | nil => exact h
  | cons x l ih =>
    unfold State.sendLands
    split
    · split
      exacts [ih h, ih h.routeNow.setLandVia]
    · exact ih h

theorem State.memoriesOk.sendHeld (h : s.memoriesOk) : (s.sendHeld).memoriesOk := h.sendReqs.sendLands

theorem State.memoriesOk.resend {l : List (Nat × Req)} (h : s.memoriesOk) : (s.resend l).memoriesOk := by
  induction l generalizing s with
  | nil => exact h
  | cons x l ih =>
    unfold State.resend
    split
    · split
      exacts [ih h, ih h.routeNow.setVia]
    · exact ih h

theorem State.memoriesOk.resendLands {l : List (Nat × Land)} (h : s.memoriesOk) : (s.resendLands l).memoriesOk := by
  induction l generalizing s with
  | nil => exact h
  | cons x l ih =>
    unfold State.resendLands
    split
    · split
      exacts [ih h, ih h.routeNow.setLandVia]
    · exact ih h

theorem State.memoriesOk.noteDst {s0 : State} {dst : Nat} (h : s.memoriesOk) : (s0.noteDst s dst).memoriesOk := by
  unfold State.noteDst
  dsimp only
  split <;> exact h.same

theorem State.memoriesOk.retryHeld (h : s.memoriesOk) : (s.retryHeld).memoriesOk := by
  refine ⟨h.1, fun x hx => ?_, h.2.2⟩
  obtain ⟨y, hy, rfl⟩ := List.mem_map.1 hx
  exact h.2.1 y hy

theorem State.memoriesOk.changePorts {f : Fabric → Fabric} (h : s.memoriesOk) : (s.changePorts f).memoriesOk :=
  (h.same.foldl fun _ _ h => h.noteDst).resend.resendLands.sendHeld.retryHeld

/-! ### Loads, stores and atomics -/

theorem State.memoriesOk.addReq {r : Ref} {t : Thread} {a : Access} {pa : Nat} {src : Option SyncSrc} {x : Spot} (h : s.memoriesOk) :
    (s.addReq r t a pa src x).memoriesOk := by
  unfold State.addReq
  split
  exact (h.fresh.ofSnd ‹_›).same.modThread

theorem State.memoriesOk.loadAt {core : Nat} {e : TbEntry} {va pa n : Nat} {acq : Bool} (h : s.memoriesOk) : (s.loadAt core e va pa n acq).1.memoriesOk := by
  unfold State.loadAt
  extract_lets hit
  split
  next s0 k s1 e1 =>
  have h1 : s1.memoriesOk := by
    refine State.memoriesOk.ofSnd ?_ e1
    split
    exacts [h.draw, h]
  split
  · exact h1
  · have h2 : (s1.rdPhys core e va pa n).1.memoriesOk := h1.rdPhys
    refine .cond (.modCore h2.dropVbuf.dropL1Line fun _ g => g) h2.dropVbuf

theorem State.memoriesOk.readPast {core : Nat} {e : TbEntry} {va pa n : Nat} (h : s.memoriesOk) : (s.readPast core e va pa n).1.memoriesOk := by
  unfold State.readPast
  split
  · dsimp only
    exact (h.rdPlace.of ‹_›).dropL1Line.dropVbuf

theorem State.memoriesOk.storeAt {core : Nat} {r : Ref} {e : TbEntry} {va pa : Nat} {l : List Byte} {src : Option SyncSrc} {sync : Bool} (h : s.memoriesOk) :
    (s.storeAt core r e va pa l src sync).memoriesOk :=
  h.wrPhys.updateL1.dropVbuf

theorem State.memoriesOk.losePeer {peer : Option Nat} {r : Ref} (h : s.memoriesOk) : (s.losePeer peer r).memoriesOk := h.same

theorem State.memoriesOk.loseReservation {r : Ref} (h : s.memoriesOk) : (s.loseReservation r).memoriesOk := h.losePeer

theorem State.memoriesOk.reserve {peer : Option Nat} {r : Ref} {table key n : Nat} (h : s.memoriesOk) : (s.reserve peer r table key n).memoriesOk := by
  have h1 : (s.losePeer peer r).memoriesOk := h.losePeer
  unfold State.reserve
  extract_lets s1 here s2
  have h2 : s2.memoriesOk := by
    dsimp only [s2]
    split
    · exact h1
    · cases here
      exacts [h1, h1.losePeer]
  exact h2.same

theorem State.memoriesOk.performOrd {core : Nat} {r : Ref} {e : TbEntry} {pa : Nat} {op : ReqOp} {va n : Nat} {data : Quad} {rmode : BitVec 2}
    {acq : Bool} {src : Option SyncSrc} (h : s.memoriesOk) :
    (s.performOrd core r e pa op va n data rmode acq src).1.memoriesOk := by
  unfold State.performOrd
  split
  · split
    · dsimp only
      exact h.loadAt.of ‹_›
  · split
    · dsimp only
      exact (h.readPast.of ‹_›).reserve
  · dsimp only
    exact h.storeAt
  · dsimp only
    split
    exacts [h.loseReservation.readPast.storeAt, h.loseReservation.readPast.dropReservations]
  · split
    · dsimp only
      split
      exacts [(h.readPast.of ‹_›).storeAt, (h.readPast.of ‹_›).dropReservations]
  · dsimp only
    exact h

theorem State.memoriesOk.afterAccess {core : Nat} {r : Ref} {op : ReqOp} {acq : Bool} {sc : Scope} {c : Classes} {tags : List SyncSrc} (h : s.memoriesOk) :
    (s.afterAccess core r op acq sc c tags).memoriesOk := by
  unfold State.afterAccess
  split
  · split
    exacts [h.readSync.acquireCaches, h.readSync]
  · split
    exacts [h.acquireCaches, h]

theorem State.memoriesOk.indexSectors {ctx : Nat} {ve : ViewEnts} {o n : Nat} (h : s.memoriesOk) : (s.indexSectors ctx ve o n).1.memoriesOk := by
  induction n generalizing s o with
  | zero => exact h
  | succ n ih =>
    unfold State.indexSectors
    dsimp only
    refine ih ?_
    split
    · exact h
    · exact h
    · split
      · exact .ofEq ‹_› h.xlate
      · split
        · exact .ofEq ‹_› h.xlate
        · split <;> exact .ofEq ‹_› h.xlate

theorem State.memoriesOk.viewAhead {core ctx : Nat} {ve : ViewEnts} {acc o n : Nat} {k : OrderKey} (h : s.memoriesOk) :
    (s.viewAhead core ctx ve acc o n k).1.memoriesOk := by
  unfold State.viewAhead
  split
  · split
    · exact h.indexSectors.of ‹_›
    · split
      · exact h.indexSectors.of ‹_›
      · split <;> exact (h.indexSectors.of ‹_›).viewBytes.of ‹_›

/-- An access to a view joins the requests, past the view read buffer where it writes. -/
theorem State.memoriesOk.joinView {c : Prop} [Decidable c] {core : Nat} {r : Ref} {t : Thread} {a : Access} {pa : Nat} {src : Option SyncSrc} {sp : Spot}
    (h : s.memoriesOk) : ((if c then s.dropVbuf core else s).addReq r t a pa src sp).memoriesOk := by
  refine State.memoriesOk.addReq ?_
  split
  exacts [h.dropVbuf, h]

theorem issueView_keeps {a : Access} {e : TbEntry} : LaneKeeps (issueView a e) := fun s r p t h => by
  unfold issueView
  extract_lets core ctx park
  split
  · exact .ofEq ‹_› h.viewEnts
  · have h1 := State.memoriesOk.ofEq ‹_› h.viewEnts
    extract_lets home own bars c src dev spot key clear
    split
    · exact h1
    · refine .ite h1 ?_
      exact h1.viewBytes.route.joinView
    · split
      have h2 := State.memoriesOk.ofEq ‹_› h1.viewAhead
      split
      exacts [h2, h2.joinView]

theorem issueOrdinary_keeps {a : Access} {e : TbEntry} : LaneKeeps (issueOrdinary a e) := fun s r p t h => by
  unfold issueOrdinary
  extract_lets core pa own c src dev sp
  split
  · exact h
  · exact .ite h.route.addReq h.addReq

theorem issueGlobal_keeps {a : Access} : LaneKeeps (issueGlobal a) := fun s r p t h => by
  unfold issueGlobal
  split
  · exact h
  · split
    · exact h.xlate.of ‹_›
    · split
      exacts [issueView_keeps _ _ _ _ (h.xlate.of ‹_›), issueOrdinary_keeps _ _ _ _ (h.xlate.of ‹_›)]

theorem laneM_keeps {op : ReqOp} {acc : Nat} {d a : Reg} {off : BitVec 4} {rc : RC} {sc : Scope} {acq rel : Bool} {sz : Sz} :
    LaneKeeps (laneM op acc d a off rc sc acq rel sz) := fun s r p t h => by
  unfold laneM
  split
  · exact h
  · split
    · split
      · dsimp only
        exact issueGlobal_keeps _ _ _ _ h
      · dsimp only
        exact issueGlobal_keeps _ _ _ _ h
    · split
      · dsimp only
        exact issueGlobal_keeps _ _ _ _ h
      · dsimp only
        exact issueGlobal_keeps _ _ _ _ h

theorem laneAtom_keeps {aop n : Nat} {d a : Reg} {rc : RC} {sc : Scope} {o : AOrd} : LaneKeeps (laneAtom aop n d a rc sc o) := fun s r p t h => by
  unfold laneAtom
  split
  · exact h
  · dsimp only
    exact issueGlobal_keeps _ _ _ _ h

theorem State.memoriesOk.performSpad {r : Ref} {tag off : Nat} {op : ReqOp} {n : Nat} {data : Quad} {rmode : BitVec 2} {src : Option SyncSrc}
    (h : s.memoriesOk) :
    (s.performSpad r tag off op n data rmode src).1.memoriesOk := by
  unfold State.performSpad
  split
  · exact h.spadWrite
  · dsimp only
    split
    exacts [h.spadWrite, h]
  · exact h
  · exact h

theorem issueSpad_keeps {a : Access} : LaneKeeps (issueSpad a) := fun s r p t h => by
  unfold issueSpad
  split
  · exact h
  · split
    · exact h
    · split
      · dsimp only
        exact h.addReq
      · dsimp only
        exact h.addReq

theorem laneS_keeps {op : ReqOp} {acc : Nat} {d a : Reg} {off : BitVec 9} {sz : Sz} : LaneKeeps (laneS op acc d a off sz) := fun s r p t h => by
  unfold laneS
  split
  · exact h
  · split
    · split
      · dsimp only
        exact issueSpad_keeps _ _ _ _ h
      · dsimp only
        exact issueSpad_keeps _ _ _ _ h
    · split
      · dsimp only
        exact issueSpad_keeps _ _ _ _ h
      · dsimp only
        exact issueSpad_keeps _ _ _ _ h

theorem laneAtoms_keeps {aop n : Nat} {d a : Reg} {tr : Bool} {o : AOrd} : LaneKeeps (laneAtoms aop n d a tr o) := fun s r p t h => by
  unfold laneAtoms
  split
  · exact h
  · split
    · dsimp only
      exact issueSpad_keeps _ _ _ _ h
    · dsimp only
      exact issueSpad_keeps _ _ _ _ h

/-! ### WAIT, FENCE, barriers and landings -/

theorem waitLane_keeps {ld st cp tl : Nat} : LaneKeeps (waitLane ld st cp tl) := fun s r p t h => by
  unfold waitLane
  split
  exacts [h.acquireCaches, h]

theorem fenceLane_keeps {sc : Scope} {m : Classes} : LaneKeeps (fenceLane sc m) := fun s r p t h => by
  unfold fenceLane
  split
  · dsimp only
    exact h.modThread.fenceDone
  · dsimp only
    exact h.modThread.addReq

theorem barpLane_keeps : LaneKeeps (barpLane) := fun _ _ _ _ h =>
  h.modPlot fun _ g => g

theorem barcLane_keeps {a : Reg} : LaneKeeps (barcLane a) := fun s r p t h => by
  unfold barcLane
  split
  · exact h
  · dsimp only
    split
    exacts [h.modSow, h.acquireCaches]

theorem State.memoriesOk.putBar {who : Machine.Writer} {tag off : Nat} {b : Barrier} (h : s.memoriesOk) : (s.putBar who tag off b).memoriesOk := h.spadWrite

theorem State.memoriesOk.arrive {who : Machine.Writer} {tag off n : Nat} {src : Option SyncSrc} (h : s.memoriesOk) :
    (s.arrive who tag off n src).1.memoriesOk := by
  unfold State.arrive
  split
  · split
    · dsimp only
      exact h.putBar.modPlot fun _ g => g
    · dsimp only
      exact h.putBar

theorem barLane_keeps {ops : List (Reg × Nat)} {a : Reg} {f : Nat → Nat → Word → LaneFn} (hf : ∀ tag off v, LaneKeeps (f tag off v)) :
    LaneKeeps (barLane ops a f) := fun s r p t h => by
  unfold barLane
  split
  · exact h
  · dsimp only
    split
    exacts [h, hf _ _ _ s r p t h]

theorem State.memoriesOk.countSync {r : Ref} {t : Thread} {va : Nat} (h : s.memoriesOk) : (s.countSync r t va).memoriesOk := h.addReq

theorem barOp_keeps {op : ReqOp} {rel : Bool} {tag off : Nat} {v : Word} : LaneKeeps (barOp op rel tag off v) := fun _ _ _ _ h =>
  h.addReq

theorem bcinitLane_keeps {a b : Reg} : LaneKeeps (bcinitLane a b) := fun s r p t h => by
  unfold bcinitLane
  refine barLane_keeps (fun tag off v s r p t h => ?_) _ _ _ _ h
  exact barOp_keeps _ _ _ _ h

theorem bcexpLane_keeps {a b : Reg} : LaneKeeps (bcexpLane a b) := fun s r p t h => by
  unfold bcexpLane
  refine barLane_keeps (fun tag off v s r p t h => ?_) _ _ _ _ h
  exact barOp_keeps _ _ _ _ h

theorem bcarrLane_keeps {a b : Reg} : LaneKeeps (bcarrLane a b) := fun s r p t h => by
  unfold bcarrLane
  refine barLane_keeps (fun tag off v s r p t h => ?_) _ _ _ _ h
  exact barOp_keeps _ _ _ _ h

theorem State.memoriesOk.performBar {r : Ref} {tag off : Nat} {op : ReqOp} (h : s.memoriesOk) : (s.performBar r tag off op).memoriesOk := by
  unfold State.performBar
  split
  exacts [h.arrive, h.putBar, h.putBar.modPlot fun _ g => g, h]

theorem State.memoriesOk.barNote {tag off place : Nat} (h : s.memoriesOk) : (s.barNote tag off place).memoriesOk := h.modPlot fun _ g => g

theorem State.memoriesOk.modReq {id : Nat} {f : Req → Req} (h : s.memoriesOk) : (s.modReq id f).memoriesOk := h.same

theorem State.memoriesOk.barStep {tag off : Nat} {x : Nat × Req} (h : s.memoriesOk) : (s.barStep tag off x).memoriesOk := by
  unfold State.barStep
  split
  exacts [h.performBar.barNote.modReq, h]

theorem State.memoriesOk.settleBar {tag off : Nat} (h : s.memoriesOk) : (s.settleBar tag off).memoriesOk := h.foldl fun _ _ h => h.barStep

theorem State.memoriesOk.barAcquire {r : Ref} {tag off : Nat} (h : s.memoriesOk) : (s.barAcquire r tag off).memoriesOk := h.observe.acquireCaches

theorem State.memoriesOk.barLook {r : Ref} {tag off : Nat} (h : s.memoriesOk) : (s.barLook r tag off).memoriesOk := h.settleBar.barNote

theorem bcwaitLane_keeps {a : Reg} {ph : Bool} : LaneKeeps (bcwaitLane a ph) := barLane_keeps fun tag off v s r p t h => by
  dsimp only
  split
  exacts [h.barLook.barAcquire, h.barLook]

theorem bctestLane_keeps {pd : Fin 128} {a : Reg} {ph : Bool} : LaneKeeps (bctestLane pd a ph) := barLane_keeps fun tag off v s r p t h => by
  dsimp only
  split
  exacts [h.barLook.barAcquire.modThread, h.barLook.modThread]

theorem State.memoriesOk.watchWord {core ctx va : Nat} (h : s.memoriesOk) : (s.watchWord core ctx va).1.memoriesOk := by
  unfold State.watchWord
  split
  · exact h.xlate.of ‹_›
  · split
    · split <;> exact (h.xlate.of ‹_›).viewEnts.of ‹_›
    · dsimp only
      split
      · exact h.xlate.of ‹_›
      · split
        · exact h.xlate.of ‹_›
        · split
          · split
            exacts [(h.xlate.of ‹_›).farAnswer.of ‹_›, ((h.xlate.of ‹_›).farAnswer.of ‹_›).freeBytes.freeTags]
          · exact (h.xlate.of ‹_›).rdPhys

theorem State.memoriesOk.watchDone {r : Ref} {tags : List SyncSrc} (h : s.memoriesOk) : (s.watchDone r tags).memoriesOk := h.observe.acquireCaches

theorem State.memoriesOk.watch {r : Ref} {va : Nat} (h : s.memoriesOk) : (s.watch r va).memoriesOk := by
  have h1 : (s.unwatch r).memoriesOk := h.unwatch
  unfold State.watch
  dsimp only
  split
  · split
    exacts [h1, h1.same]
  · exact h1

theorem waitwLane_keeps {a b : Reg} : LaneKeeps (waitwLane a b) := fun s r p t h => by
  unfold waitwLane
  split
  · exact h
  · dsimp only
    split
    · exact h
    · split
      · exact h.watchWord.of ‹_›
      · exact (h.watchWord.of ‹_›).watch
      · split
        exacts [(h.watchWord.of ‹_›).watchDone, (h.watchWord.of ‹_›).watch]

theorem State.memoriesOk.putSlot {c n : Nat} {x : Slot} (h : s.memoriesOk) : (s.putSlot c n x).memoriesOk := h.modCore fun _ g => g

theorem State.memoriesOk.lapseSlot {c n : Nat} (h : s.memoriesOk) : (s.lapseSlot c n).memoriesOk := h.putSlot.modThread

/-- A new landing name: a draw, the slot and the register it is bound to. -/
theorem State.memoriesOk.mintSlot {c n : Nat} {x : Slot} {r : Ref} {f : Thread → Thread} (h : s.memoriesOk) :
    ((s.draw.2.putSlot c n x).modThread r f).memoriesOk := h.draw.putSlot.modThread

theorem mintLane_keeps {d a b : Reg} : LaneKeeps (mintLane d a b) := fun s r p t h => by
  unfold mintLane
  extract_lets e c wide core
  refine .ite h ?_
  refine .ite h ?_
  split
  · exact h
  · refine .ite h ?_
    extract_lets s1
    have h1 : s1.memoriesOk := by
      dsimp only [s1]
      split
      · split
        exacts [h.lapseSlot, h]
      · exact h
    split
    exacts [h1.modThread, h1.mintSlot]

theorem landLane_keeps {rc : RC} {sc : Scope} {w : Bool} {a b : Reg} : LaneKeeps (landLane rc sc w a b) := fun s r p t h => by
  unfold landLane
  refine .ite h ?_
  extract_lets e name v dev own l
  split
  next x id s1 e1 =>
  split
  next s2 via e2 =>
  have h1 : s1.memoriesOk := .ofSnd h.fresh e1
  have h2 : s2.memoriesOk := .ofEq e2 (.ite h1 h1.route)
  exact State.memoriesOk.modThread h2.same

theorem State.memoriesOk.readLanding {r : Ref} {t : Thread} {pd x : Nat} (h : s.memoriesOk) : (s.readLanding r t pd x).memoriesOk := by
  unfold State.readLanding
  dsimp only
  split
  exacts [h.modThread.observe.acquireCaches, h.modThread]

theorem lwaitLane_keeps {pd : Fin 128} {a : Reg} : LaneKeeps (lwaitLane pd a) := fun s r p t h => by
  unfold lwaitLane
  split
  · exact h
  · split
    · exact h
    · split
      exacts [h, h.readLanding]

theorem ltestLane_keeps {pd : Fin 128} {a : Reg} : LaneKeeps (ltestLane pd a) := fun s r p t h => by
  unfold ltestLane
  split
  · exact h
  · split
    · exact h
    · split
      exacts [h.modThread, h.readLanding]

theorem ldropLane_keeps {a : Reg} : LaneKeeps (ldropLane a) := fun s r p t h => by
  unfold ldropLane
  split
  · exact h
  · dsimp only
    split
    exacts [h.lapseSlot, h]

theorem rnextLane_keeps {d a : Reg} : LaneKeeps (rnextLane d a) := barLane_keeps fun tag off v s r p t h => by
  dsimp only
  split
  exacts [h, h.modThread]

/-! ### The tensor table -/

theorem State.memoriesOk.ttRead {core ctx id : Nat} (h : s.memoriesOk) : (s.ttRead core ctx id).1.memoriesOk := by
  unfold State.ttRead
  split <;> exact h.ttEntry.of ‹_›

theorem State.memoriesOk.checkEntry {core ctx id e : Nat} (h : s.memoriesOk) : (s.checkEntry core ctx id e).1.memoriesOk := by
  unfold State.checkEntry
  split
  · exact h
  · exact h
  · exact h
  · refine .ite h ?_
    split
    · exact .ofEq ‹_› h.ttRead
    · have h1 := State.memoriesOk.ofEq ‹_› h.ttRead
      split
      · exact .ofEq ‹_› (.ite h1.ttRead h1)
      · have h2 := State.memoriesOk.ofEq ‹_› (State.memoriesOk.ite h1.ttRead h1)
        split <;> exact .ofEq ‹_› (.ite h2.ttRead h2)

theorem ttLane_keeps {g : Thread → Bool} {ops : List (Reg × Nat)} {a : Reg} {f : Nat → LaneFn} (hf : ∀ id, LaneKeeps (f id)) :
    LaneKeeps (ttLane g ops a f) := fun s r p t h => by
  unfold ttLane
  split
  · exact h
  · split
    · exact h
    · dsimp only
      split
      exacts [h, hf _ s r p t h]

theorem State.memoriesOk.ttPark {ctx id code : Nat} (h : s.memoriesOk) : (s.ttPark ctx id code).1.memoriesOk := h

theorem ttldLane_keeps {d a : Reg} : LaneKeeps (ttldLane d a) := ttLane_keeps fun id s r p t h => by
  split
  exacts [State.memoriesOk.ttPark (.ofEq ‹_› h.ttRead), State.memoriesOk.modThread (.ofEq ‹_› h.ttRead)]

theorem State.memoriesOk.ttWrite {r : Ref} {ctx id e : Nat} (h : s.memoriesOk) : (s.ttWrite r ctx id e).1.memoriesOk := by
  unfold State.ttWrite
  split
  · exact .ofEq ‹_› h.pwrite
  · exact State.memoriesOk.dropAllVbuf (State.memoriesOk.mapCores (.ofEq ‹_› h.pwrite) fun _ g => g)

theorem ttstLane_keeps {g : Fin 128} {a b : Reg} : LaneKeeps (ttstLane g a b) := fun s r p t h => by
  unfold ttstLane
  refine ttLane_keeps (fun id s r p t h => ?_) _ _ _ _ h
  dsimp only
  split
  · exact (h.checkEntry.of ‹_›).ttPark
  · exact (h.checkEntry.of ‹_›).ttPark
  · split
    exacts [((h.checkEntry.of ‹_›).ttWrite.of ‹_›).ttPark, (h.checkEntry.of ‹_›).ttWrite.of ‹_›]

theorem ttinvLane_keeps {g : Fin 128} {a : Reg} : LaneKeeps (ttinvLane g a) := ttLane_keeps fun id s r p t h => by
  split
  · exact State.memoriesOk.ttPark (.ofEq ‹_› h.ttRead)
  · have h1 := State.memoriesOk.ofEq ‹_› h.ttRead
    split
    exacts [State.memoriesOk.ttPark (.ofEq ‹_› h1.ttWrite), .ofEq ‹_› h1.ttWrite]

theorem State.memoriesOk.countLeaf {ctx va : Nat} (h : s.memoriesOk) : (s.countLeaf ctx va).memoriesOk := by
  unfold State.countLeaf
  split
  · split
    exacts [h.countWalk, h]
  · exact h

theorem State.memoriesOk.dropRange {ctx va n : Nat} (h : s.memoriesOk) : (s.dropRange ctx va n).memoriesOk := h.mapCores fun _ g => g

theorem State.memoriesOk.bindPages {ctx id va : Nat} {l : List Nat} (h : s.memoriesOk) : (s.bindPages ctx id va l).memoriesOk := by
  induction l generalizing s with
  | nil => exact h
  | cons v l ih =>
    unfold State.bindPages
    split
    exacts [ih h.writePte, ih h]

theorem vbindLane_keeps {g : Fin 128} {a b : Reg} : LaneKeeps (vbindLane g a b) := fun s r p t h => by
  unfold vbindLane
  refine ttLane_keeps (fun id s r p t h => ?_) _ _ _ _ h
  split
  · dsimp only
    exact (h.ttRead.of ‹_›).ttPark
  · split
    · dsimp only
      exact (h.ttRead.of ‹_›).ttPark
    · split
      · dsimp only
        exact ((h.ttRead.of ‹_›).ttRead.of ‹_›).ttPark
      · dsimp only
        split
        · exact ((h.ttRead.of ‹_›).ttRead.of ‹_›).foldl fun _ _ h => h.countLeaf
        · exact (((h.ttRead.of ‹_›).ttRead.of ‹_›).foldl fun _ _ h => h.countLeaf).bindPages.dropRange

theorem State.memoriesOk.unbindPages {ctx id va fuel v : Nat} (h : s.memoriesOk) : (s.unbindPages ctx id va fuel v).1.memoriesOk := by
  induction fuel generalizing s v with
  | zero => exact h
  | succ fuel ih =>
    unfold State.unbindPages
    dsimp only
    split
    · split
      exacts [ih h.countLeaf.writePte, h.countLeaf]
    · exact h.countLeaf

theorem vunbindLane_keeps {g : Fin 128} {b : Reg} : LaneKeeps (vunbindLane g b) := fun s r p t h => by
  unfold vunbindLane
  split
  · exact h
  · split
    · exact h
    · dsimp only
      split
      · split
        exacts [h.unbindPages.dropRange, h.countLeaf]
      · exact h.countLeaf

/-! ### Copies and queue posts -/

theorem State.memoriesOk.modCopy {id : Nat} {f : CopyCmd → CopyCmd} (h : s.memoriesOk) : (s.modCopy id f).memoriesOk := h.same

theorem State.memoriesOk.report {ctx : Nat} {f : FaultRec} (h : s.memoriesOk) : (s.report ctx f).memoriesOk := h.addRec.deliverRecs

theorem State.memoriesOk.logFreeze {addr : Nat} (h : s.memoriesOk) : (s.logFreeze addr).memoriesOk := h.same

theorem State.memoriesOk.freezeCmd {r : Ref} {ctx acc : Nat} {pc : DWord} {addr : Nat} (h : s.memoriesOk) : (s.freezeCmd r ctx acc pc addr).memoriesOk := by
  have h1 : (s.logFreeze addr).memoriesOk := h.logFreeze
  unfold State.freezeCmd
  dsimp only
  split
  exacts [h1, .report (.event (.modPlot (.modTract h1.stillTract) fun _ g => g))]

theorem State.memoriesOk.freezeMaster {c : CopyCmd} {acc addr : Nat} (h : s.memoriesOk) : (s.freezeMaster c acc addr).memoriesOk := by
  unfold State.freezeMaster
  split
  exacts [h.freezeCmd, h.logFreeze.modQueue.event, h.logFreeze]

theorem State.memoriesOk.pauseCopy {id acc code addr : Nat} (h : s.memoriesOk) : (s.pauseCopy id acc code addr).memoriesOk := by
  unfold State.pauseCopy
  split
  · exact h
  · split
    · exact h.modCopy
    · split
      · exact h.freezeMaster.modCopy
      · split
        exact (h.fresh.ofSnd ‹_›).modCopy.report

theorem State.memoriesOk.copyRow {c : CopyCmd} {r : Nat} (h : s.memoriesOk) : (s.copyRow c r).1.memoriesOk := by
  unfold State.copyRow
  split
  · dsimp only
    split
    · split <;> exact h
    · exact h.engRead
  · dsimp only
    split
    · split <;> exact h
    · exact h.engRead

theorem State.memoriesOk.copyRows {c : CopyCmd} {l : List Nat} (h : s.memoriesOk) : (s.copyRows c l).1.memoriesOk := by
  induction l generalizing s with
  | nil => exact h
  | cons r l ih =>
    unfold State.copyRows
    split
    · exact .ofEq ‹_› h.copyRow
    · split <;> exact .ofEq ‹_› (ih (.ofEq ‹_› h.copyRow))

theorem State.memoriesOk.atomicRead {core ctx va n : Nat} (h : s.memoriesOk) : (s.atomicRead core ctx va n).1.memoriesOk := by
  unfold State.atomicRead
  split
  · exact h.xlate.of ‹_›
  · split
    · split
      · exact (h.xlate.of ‹_›).viewEnts.of ‹_›
      · split
        exact ((h.xlate.of ‹_›).viewEnts.of ‹_›).viewBytes.of ‹_›
    · exact (h.xlate.of ‹_›).pread

theorem State.memoriesOk.takeSector {core ctx va n : Nat} (h : s.memoriesOk) : (s.takeSector core ctx va n).memoriesOk := by
  unfold State.takeSector
  split
  · split
    exacts [h, h.dropReservations]
  · exact h

theorem State.memoriesOk.casWord {core ctx va expect new : Nat} (h : s.memoriesOk) : (s.casWord core ctx va expect new).1.memoriesOk := by
  unfold State.casWord
  split
  · exact h.atomicRead.of ‹_›
  · split
    · exact (h.atomicRead.of ‹_›).takeSector
    · split <;> exact (h.atomicRead.of ‹_›).anyWrite.of ‹_›

theorem State.memoriesOk.sendPieces {base fuel a : Nat} {l : List Byte} (h : s.memoriesOk) : (s.sendPieces base fuel a l).memoriesOk := by
  induction fuel generalizing s a l with
  | zero => exact h
  | succ fuel ih =>
    unfold State.sendPieces
    split
    exacts [h, ih h.same]

theorem State.memoriesOk.peerWrite {c : CopyCmd} {w : CopyWrite} (h : s.memoriesOk) : (s.peerWrite c w).1.memoriesOk := by
  unfold State.peerWrite
  dsimp only
  split
  · exact h
  · split
    · exact h
    · split
      exacts [h.usePort.draw, h.usePort.draw.sendPieces]

theorem State.memoriesOk.copyWrite {id : Nat} {c : CopyCmd} {w : CopyWrite} (h : s.memoriesOk) : (s.copyWrite id c w).1.memoriesOk := by
  unfold State.copyWrite
  extract_lets src tag
  refine .ite ?_ (.ite h.peerWrite h.engWrite)
  split
  exacts [h, h.spadWrite]

theorem State.memoriesOk.copyWrites {id : Nat} {c : CopyCmd} {l : List CopyWrite} (h : s.memoriesOk) : (s.copyWrites id c l).1.memoriesOk := by
  induction l generalizing s with
  | nil => exact h
  | cons w l ih =>
    unfold State.copyWrites
    split
    exacts [ih (.ofEq ‹_› h.copyWrite), .ofEq ‹_› h.copyWrite]

theorem State.memoriesOk.copyArrive {id : Nat} {c : CopyCmd} (h : s.memoriesOk) : (s.copyArrive id c).1.memoriesOk := by
  unfold State.copyArrive
  split
  · dsimp only
    split
    · exact h.modCopy
    · split
      exacts [h, h.fresh.same.modCopy]
    · exact h.fresh.same.modCopy
  · dsimp only
    split
    · exact h.modCopy
    · split
      exacts [h, h.fresh.same.modCopy]
    · exact h.fresh.same.modCopy

theorem State.memoriesOk.copyGoOn {id : Nat} {l : List CopyWrite} (h : s.memoriesOk) : (s.copyGoOn id l).memoriesOk := by
  unfold State.copyGoOn
  split
  · exact h
  · next c _ =>
    split
    · exact State.memoriesOk.pauseCopy (.modCopy (.ofEq ‹_› h.copyWrites))
    · next s2 _ e =>
      have h2 : s2.memoriesOk := .ofEq e h.copyWrites
      extract_lets s1
      have h1 : s1.memoriesOk := h2.modCopy
      split
      · exact h1
      · split
        exacts [State.memoriesOk.pauseCopy (.ofEq ‹_› h1.copyArrive), .ofEq ‹_› h1.copyArrive]

theorem State.memoriesOk.rejectCopy {id code detail : Nat} (h : s.memoriesOk) : (s.rejectCopy id code detail).memoriesOk := h.modCopy

theorem State.memoriesOk.peerRefused {c : CopyCmd} (h : s.memoriesOk) : (s.peerRefused c).1.memoriesOk := by
  unfold State.peerRefused
  split
  · dsimp only
    split
    · exact h
    · split
      exacts [h, h.draw.ofSnd ‹_›]

theorem State.memoriesOk.copyStage {id : Nat} {c : CopyCmd} (h : s.memoriesOk) : (s.copyStage id c).memoriesOk := by
  unfold State.copyStage
  extract_lets v
  split
  · exact State.memoriesOk.pauseCopy (.ofEq ‹_› h.copyRows)
  · have h1 := State.memoriesOk.ofEq ‹_› h.copyRows
    split
    · split
      exact h1.modCopy.copyGoOn
    · split
      · exact State.memoriesOk.pauseCopy (.ofEq ‹_› h1.casWord)
      · have h2 := State.memoriesOk.ofEq ‹_› h1.casWord
        exact h2.modCopy.copyGoOn
      · have h2 := State.memoriesOk.ofEq ‹_› h1.casWord
        exact h2.modCopy.copyGoOn
    · split
      exact h1.modCopy.copyGoOn

theorem State.memoriesOk.copyEntry {core ctx v : Nat} (h : s.memoriesOk) : (s.copyEntry core ctx v).1.memoriesOk := by
  unfold State.copyEntry
  split
  · exact h
  · split <;> exact h.ttEntry.of ‹_›

theorem State.memoriesOk.copyBegin {id : Nat} {c : CopyCmd} (h : s.memoriesOk) : (s.copyBegin id c).memoriesOk := by
  unfold State.copyBegin
  split
  · split
    · split
      · dsimp only
        split
        · exact h.rejectCopy
        · split
          exacts [(h.peerRefused.of ‹_›).rejectCopy, h.copyStage]
      · dsimp only
        split
        · exact h.rejectCopy
        · split
          exacts [(h.peerRefused.of ‹_›).copyStage, h.copyStage]
  · split
    · split
      · dsimp only
        split
        · exact h.rejectCopy
        · split
          exacts [(h.peerRefused.of ‹_›).rejectCopy, h.copyStage]
      · dsimp only
        split
        · exact h.rejectCopy
        · split
          exacts [(h.peerRefused.of ‹_›).copyStage, h.copyStage]

theorem State.memoriesOk.copyRun {id : Nat} (h : s.memoriesOk) : (s.copyRun id).memoriesOk := by
  unfold State.copyRun
  split
  · exact h
  · split
    · exact h.copyGoOn
    · split
      · split
        exacts [(h.copyEntry.of ‹_›).pauseCopy, (h.copyEntry.of ‹_›).modCopy.copyBegin]
      · exact h.copyBegin

theorem State.memoriesOk.copyEvent {id : Nat} {kinds : Nat → Bool} (h : s.memoriesOk) : (s.copyEvent id kinds).memoriesOk := by
  unfold State.copyEvent
  split
  · exact h
  · split
    exacts [h.copyRun, h]

theorem State.memoriesOk.arrivalDone {a : Nat} {x : Arrival} {code : Nat} (h : s.memoriesOk) : (s.arrivalDone a x code).memoriesOk := by
  unfold State.arrivalDone
  split
  · split
    · split
      exacts [h.same.answerPeer.modCopy, h.same.answerPeer]
    · split
      · split
        exacts [h.same.answerPeer.modCopy, h.same.answerPeer]
      · split
        exacts [h.same.answerPeer.modCopy, h.same.answerPeer]
  · split
    exacts [h.same.modCopy, h.same]

theorem State.memoriesOk.arriveAtHandle {who : Writer} {hd : DWord} {n : Nat} {src : Option SyncSrc} (h : s.memoriesOk) :
    (s.arriveAtHandle who hd n src).1.memoriesOk := by
  unfold State.arriveAtHandle
  dsimp only
  split
  · exact h
  · split
    exacts [h, h.arrive]

theorem State.memoriesOk.deliverArrival {a : Nat} (h : s.memoriesOk) : (s.deliverArrival a).memoriesOk := by
  unfold State.deliverArrival
  split
  · exact h
  · split
    · split
      exact (h.draw.ofSnd ‹_›).arrivalDone
    · split
      · exact h.arrivalDone.same
      · dsimp only
        split
        · refine .arrivalDone ?_
          refine .ofEq ‹_› ?_
          refine .arriveAtHandle ?_
          split
          exacts [h.barNote, h]
        · refine .arrivalDone ?_
          refine .ofEq ‹_› ?_
          refine .arriveAtHandle ?_
          split
          exacts [h.barNote, h]
        · refine .arrivalDone ?_
          refine .ofEq ‹_› ?_
          refine .arriveAtHandle ?_
          split
          exacts [h.barNote, h]

theorem State.memoriesOk.frontAdmit {core n : Nat} (h : s.memoriesOk) : (State.frontAdmit core n s).memoriesOk := by
  induction n generalizing s with
  | zero => exact h
  | succ n ih =>
    unfold State.frontAdmit
    split
    · exact h
    · split
      exacts [ih h.modCopy, h]

theorem State.memoriesOk.frontOf {c : CopyCmd} (h : s.memoriesOk) : (s.frontOf c).memoriesOk := by
  unfold State.frontOf
  split
  exacts [h.frontAdmit, h]

theorem State.memoriesOk.copyGone {id : Nat} {c : CopyCmd} (h : s.memoriesOk) : (s.copyGone id c).memoriesOk := by
  unfold State.copyGone
  split
  · split
    exacts [h.same.frontOf.modThread.modQueue, h.same.frontOf.modThread]
  · split
    exacts [h.same.frontOf.modQueue, h.same.frontOf]

theorem State.memoriesOk.storeRecord {c : CopyCmd} (h : s.memoriesOk) : (s.storeRecord c).1.memoriesOk := by
  unfold State.storeRecord
  dsimp only
  split
  exacts [h, h.engWrite]

theorem State.memoriesOk.copyComplete {id : Nat} (h : s.memoriesOk) : (s.copyComplete id).memoriesOk := by
  unfold State.copyComplete
  split
  · exact h
  · split
    · exact h
    · split
      exacts [(h.storeRecord.of ‹_›).copyGone, (h.storeRecord.of ‹_›).pauseCopy]

theorem State.memoriesOk.copyResume {id : Nat} (h : s.memoriesOk) : (s.copyResume id).memoriesOk := h.modCopy

theorem State.memoriesOk.copyAbort {id : Nat} (h : s.memoriesOk) : (s.copyAbort id).memoriesOk := h.modCopy

theorem State.memoriesOk.putCopy {c : CopyCmd} (h : s.memoriesOk) : (s.putCopy c).2.memoriesOk := by
  unfold State.putCopy
  split
  exact (h.fresh.ofSnd ‹_›).same

theorem blockLane_keeps {a : Reg} {n : Nat} {f : List Byte → LaneFn} (hf : ∀ l, LaneKeeps (f l)) : LaneKeeps (blockLane a n f) := fun s r p t h => by
  unfold blockLane
  split
  · exact h
  · dsimp only
    split
    · exact h
    · split
      exacts [h, hf _ s r p t h]

theorem cpostLane_keeps {g : Fin 128} {a : Reg} : LaneKeeps (cpostLane g a) := roleLane_keeps fun s r p t h => by
  split
  · exact h
  · refine blockLane_keeps (fun l s r p t h => ?_) s r p t h
    dsimp only
    split
    exacts [State.memoriesOk.ttPark (.ofEq ‹_› h.copyEntry), (State.memoriesOk.ofEq ‹_› h.copyEntry).putCopy.modThread.frontAdmit]

theorem State.memoriesOk.modQpost {id : Nat} {f : QPost → QPost} (h : s.memoriesOk) : (s.modQpost id f).memoriesOk := h.same

theorem State.memoriesOk.pauseQpost {id : Nat} {q : QPost} {acc code addr : Nat} (h : s.memoriesOk) : (s.pauseQpost id q acc code addr).memoriesOk := by
  unfold State.pauseQpost
  split
  · exact h.modQpost
  · split
    · exact h.freezeCmd.modQpost
    · split
      exact (h.fresh.ofSnd ‹_›).modQpost.report

theorem State.memoriesOk.qpostClaim {id : Nat} (h : s.memoriesOk) : (s.qpostClaim id).memoriesOk := by
  unfold State.qpostClaim
  split
  · exact h
  · split
    · exact h
    · split
      · exact (h.atomicRead.of ‹_›).pauseQpost
      · split
        exacts [((h.atomicRead.of ‹_›).anyWrite.of ‹_›).pauseQpost, ((h.atomicRead.of ‹_›).anyWrite.of ‹_›).modQpost]

theorem State.memoriesOk.qpostHeader {q : QPost} (h : s.memoriesOk) : (s.qpostHeader q).1.memoriesOk := by
  unfold State.qpostHeader
  split <;> exact h.anyRead.of ‹_›

theorem State.memoriesOk.qpostPublish {id : Nat} {q : QPost} {hd g n : Nat} (h : s.memoriesOk) : (s.qpostPublish id q hd g n).memoriesOk := by
  unfold State.qpostPublish
  dsimp only
  split
  · exact State.memoriesOk.pauseQpost (.ofEq ‹_› h.engWrite)
  · have h1 := State.memoriesOk.ofEq ‹_› h.engWrite
    split
    · exact State.memoriesOk.pauseQpost (.ofEq ‹_› h1.engWrite)
    · have h2 := State.memoriesOk.ofEq ‹_› h1.engWrite
      split
      · exact State.memoriesOk.pauseQpost (.ofEq ‹_› h2.engWrite)
      · have h3 := State.memoriesOk.ofEq ‹_› h2.engWrite
        exact State.memoriesOk.modThread h3.same

theorem State.memoriesOk.qpostRun {id : Nat} (h : s.memoriesOk) : (s.qpostRun id).memoriesOk := by
  unfold State.qpostRun
  split
  · exact h
  · split
    · exact h
    · split
      · exact h.qpostClaim
      · split
        · exact (h.qpostHeader.of ‹_›).pauseQpost
        · split
          exacts [(h.qpostHeader.of ‹_›).qpostPublish, h.qpostHeader.of ‹_›]

theorem qpostLane_keeps {g : Fin 128} {a b : Reg} : LaneKeeps (qpostLane g a b) := roleLane_keeps fun s r p t h => by
  split
  · exact h
  · split
    · exact h
    · split
      · exact h
      · refine blockLane_keeps (fun l s r p t h => ?_) s r p t h
        dsimp only
        split
        · exact h
        · exact State.memoriesOk.qpostClaim (State.memoriesOk.modThread (State.memoriesOk.same h))

/-! ### The matrix engine -/

theorem State.memoriesOk.modEng {tag id : Nat} {f : EngCmd → EngCmd} (h : s.memoriesOk) : (s.modEng tag id f).memoriesOk := h.modPlot fun _ g => g

theorem State.memoriesOk.apWriteRecord {c : EngCmd} {l : List Byte} (h : s.memoriesOk) : (s.apWriteRecord c l).memoriesOk := by
  unfold State.apWriteRecord
  dsimp only
  split
  · exact h
  · split
    exacts [h, h.spadWrite]

theorem State.memoriesOk.engRemove {tag : Nat} {c : EngCmd} {status : Nat} (h : s.memoriesOk) : (s.engRemove tag c status).memoriesOk :=
  State.memoriesOk.modThread (h.modPlot fun p g => (congrArg (Memory.wf · = true) (Plot.codeTsw_spad p c.tile status)).mpr g)

theorem State.memoriesOk.engEnter {c : EngCmd} (h : s.memoriesOk) : (s.engEnter c).memoriesOk := by
  unfold State.engEnter
  extract_lets c' s1
  have h1 : s1.memoriesOk := State.memoriesOk.modThread (h.modPlot fun _ g => g)
  split
  · exact h1
  · split
    exacts [h1.apWriteRecord.engRemove, h1.engRemove]

theorem State.memoriesOk.engAdmit {tag n : Nat} (h : s.memoriesOk) : (State.engAdmit tag n s).memoriesOk := by
  induction n generalizing s with
  | zero => exact h
  | succ n ih =>
    unfold State.engAdmit
    split
    · exact h
    · split
      · exact h
      · split
        exacts [ih h.engEnter, h]

theorem State.memoriesOk.engAdmitAll {tag : Nat} (h : s.memoriesOk) : (s.engAdmitAll tag).memoriesOk := by
  unfold State.engAdmitAll
  split
  exacts [h.engAdmit, h]

theorem State.memoriesOk.engComplete {tag : Nat} {c : EngCmd} {status : Nat} (h : s.memoriesOk) : (s.engComplete tag c status).memoriesOk :=
  h.engRemove.engAdmitAll

theorem State.memoriesOk.engIssue {c : EngCmd} (h : s.memoriesOk) : (s.engIssue c).memoriesOk := State.memoriesOk.engAdmitAll (h.fresh.modPlot fun _ g => g)

theorem State.memoriesOk.engArrive {c : EngCmd} {bar n : Nat} (h : s.memoriesOk) : (s.engArrive c bar n).1.memoriesOk := by
  unfold State.engArrive
  split
  · exact h
  · dsimp only
    exact h.barNote.arrive

theorem State.memoriesOk.engEntries {core ctx : Nat} {l : List Nat} (h : s.memoriesOk) : (s.engEntries core ctx l).1.memoriesOk := by
  induction l generalizing s with
  | nil => exact h
  | cons id l ih =>
    unfold State.engEntries
    split
    · exact .ofEq ‹_› h.ttEntry
    · split <;> exact .ofEq ‹_› (ih (.ofEq ‹_› h.ttEntry))

theorem mmaLane_keeps {g : Fin 128} {a : Reg} : LaneKeeps (mmaLane g a) := roleLane_keeps fun s r p t h => by
  split
  · exact h
  · refine blockLane_keeps (fun l s r p t h => ?_) s r p t h
    dsimp only
    split
    exacts [State.memoriesOk.ttPark (.ofEq ‹_› h.engEntries), State.memoriesOk.engIssue (.ofEq ‹_› h.engEntries)]

theorem State.memoriesOk.mmaStart {core arr : Nat} (h : s.memoriesOk) : (s.mmaStart core arr).memoriesOk := by
  unfold State.mmaStart
  split
  exacts [h, h.modEng]

theorem State.memoriesOk.mmaEnd {core arr : Nat} (h : s.memoriesOk) : (s.mmaEnd core arr).memoriesOk := by
  unfold State.mmaEnd
  split
  · exact h
  · extract_lets b s1 n
    have h1 : s1.memoriesOk := h.modPlot fun p g => (congrArg (Memory.wf · = true) (Plot.mmaEffect_spad p _)).mpr g
    dsimp only
    split
    exacts [h1.engArrive.engComplete, h1.engComplete]

theorem mmacLane_keeps {g : Fin 128} {tag : Nat} : LaneKeeps (mmacLane g tag) := roleLane_keeps fun s r p t h => by
  split
  exacts [h, h.modPlot fun _ g => g]

theorem mwaitbLane_keeps {tag : Nat} : LaneKeeps (mwaitbLane tag) := roleLane_keeps fun s r p t h => by
  split
  exacts [h.acquireCaches, h]

theorem mdrainLane_keeps {g : Fin 128} {a : Reg} : LaneKeeps (mdrainLane g a) := roleLane_keeps fun s r p t h => by
  split
  exacts [h, blockLane_keeps (fun l s r p t h => State.memoriesOk.engIssue h) s r p t h]

theorem State.memoriesOk.drainChunks {c : EngCmd} {bytes : List Byte} {l : List (Nat × Nat)} (h : s.memoriesOk) : (s.drainChunks c bytes l).memoriesOk := by
  induction l generalizing s bytes with
  | nil => exact h
  | cons x l ih =>
    unfold State.drainChunks
    split
    exacts [ih h, ih h.spadWrite]

theorem State.memoriesOk.drainRows {c : EngCmd} {l : List (Nat × List Nat)} (h : s.memoriesOk) : (s.drainRows c l).memoriesOk := by
  induction l generalizing s with
  | nil => exact h
  | cons x l ih =>
    unfold State.drainRows
    dsimp only
    split
    exacts [ih h.modThread, ih h.drainChunks]

theorem State.memoriesOk.drainRun {core arr : Nat} (h : s.memoriesOk) : (s.drainRun core arr).memoriesOk := by
  unfold State.drainRun
  split
  · exact h
  · split
    · exact h
    · extract_lets b rows fl s1
      have h1 : s1.memoriesOk := h.modPlot fun p g => by
        dsimp only [Plot.orTsw]
        split
        exacts [(congrArg (Memory.wf · = true) (Plot.clearCells_spad p _)).mpr g, g]
      exact h1.modEng.drainRows

theorem State.memoriesOk.drainDone {core arr : Nat} (h : s.memoriesOk) : (s.drainDone core arr).memoriesOk := by
  unfold State.drainDone
  split
  · exact h
  · dsimp only
    refine .engComplete ?_
    split
    exacts [h.engArrive, h]

theorem mzeroLane_keeps {g : Fin 128} {arr tile : Bool} : LaneKeeps (mzeroLane g arr tile) := roleLane_keeps fun s r p t h => by
  split
  exacts [h, h.engIssue]

theorem State.memoriesOk.zeroTurn {core arr : Nat} (h : s.memoriesOk) : (s.zeroTurn core arr).memoriesOk := by
  unfold State.zeroTurn
  split
  · exact h.engComplete
  · split
    exacts [h, .modEng (h.modPlot fun _ g => g)]

theorem mstatLane_keeps {d : Reg} {tile : Nat} : LaneKeeps (mstatLane d tile) := roleLane_keeps fun s r p t h => by
  split
  exacts [h, h.modThread.modPlot fun _ g => g]

/-! ### APIPE -/

theorem apipeLane_keeps {g : Fin 128} {a : Reg} : LaneKeeps (apipeLane g a) := roleLane_keeps fun s r p t h => by
  split
  · exact h
  · refine blockLane_keeps (fun l s r p t h => ?_) s r p t h
    dsimp only
    split
    exacts [State.memoriesOk.ttPark (.ofEq ‹_› h.engEntries), State.memoriesOk.engIssue (.ofEq ‹_› h.engEntries)]

theorem State.memoriesOk.apRead {core ctx n : Nat} {l : List Nat} (h : s.memoriesOk) : (s.apRead core ctx n l).1.memoriesOk := by
  induction l generalizing s with
  | nil => exact h
  | cons a l ih =>
    unfold State.apRead
    split
    exacts [.ofEq ‹_› h.engRead, ih (.ofEq ‹_› h.engRead)]

theorem State.memoriesOk.apPause {tag : Nat} {c : EngCmd} {code addr : Nat} (h : s.memoriesOk) : (s.apPause tag c code addr).memoriesOk := by
  unfold State.apPause
  split
  · exact h.modEng
  · split
    · exact h
    · split
      exact (h.fresh.ofSnd ‹_›).modEng.report

theorem State.memoriesOk.apGoOn {core tag ctx n : Nat} {c : EngCmd} (h : s.memoriesOk) : (State.apGoOn core tag ctx n s c).memoriesOk := by
  induction n generalizing s c with
  | zero => exact h
  | succ n ih =>
    unfold State.apGoOn
    split
    · exact h.modEng
    · dsimp only
      split
      exacts [h.apRead.modEng.apPause, ih h.apRead]

theorem State.memoriesOk.apContinue {core tag : Nat} {c : EngCmd} (h : s.memoriesOk) : (s.apContinue core tag c).memoriesOk := by
  unfold State.apContinue
  split
  exacts [h, h.apGoOn]

theorem State.memoriesOk.apPut {c : EngCmd} {a : Nat} {l : List Byte} (h : s.memoriesOk) : (s.apPut c a l).memoriesOk := by
  unfold State.apPut
  split
  exacts [h, h.spadWrite]

theorem State.memoriesOk.apPutAll {c : EngCmd} {a n : Nat} {l : List Nat} (h : s.memoriesOk) : (s.apPutAll c a n l).memoriesOk := by
  unfold State.apPutAll
  refine h.foldl fun s x h => ?_
  dsimp only
  exact h.apPut

theorem State.memoriesOk.apSweep1 {tag : Nat} {c : EngCmd} (h : s.memoriesOk) : (s.apSweep1 tag c).1.memoriesOk := by
  unfold State.apSweep1
  dsimp only
  exact h.modEng.apPutAll

theorem State.memoriesOk.apSweep2 {tag : Nat} {c : EngCmd} (h : s.memoriesOk) : (s.apSweep2 tag c).1.memoriesOk := by
  unfold State.apSweep2
  split
  · exact h
  · next p e =>
    refine State.memoriesOk.apPutAll (State.memoriesOk.modEng (h.modPlot fun _ _ => ?_))
    refine List.foldlRecOn (motive := fun x : Plot × List Nat × Nat => Memory.wf x.1.spad = true) _ _ (h.spad e) fun x hx i _ => ?_
    dsimp only
    rw [EngCmd.sweepRow_spad]
    exact hx

theorem State.memoriesOk.apReadQ {tag : Nat} {c : EngCmd} (h : s.memoriesOk) : (s.apReadQ tag c).1.memoriesOk := by
  unfold State.apReadQ
  dsimp only
  refine .modEng ?_
  split
  exacts [h.modEng.engArrive, h.modEng]

theorem State.memoriesOk.apStart {core : Nat} (h : s.memoriesOk) : (s.apStart core).memoriesOk := by
  unfold State.apStart
  split
  · exact h.apContinue
  · split
    · split
      · split
        exact (h.apSweep1.of ‹_›).apContinue
      · exact h
    · split
      · exact h
      · split
        exact (h.apReadQ.of ‹_›).apContinue

theorem State.memoriesOk.apFinish {tag : Nat} {c : EngCmd} {n flags code : Nat} (h : s.memoriesOk) : (s.apFinish tag c n flags code).memoriesOk :=
  State.memoriesOk.engComplete (.apWriteRecord (h.modPlot fun _ g => g))

theorem State.memoriesOk.apDone {core : Nat} (h : s.memoriesOk) : (s.apDone core).memoriesOk := by
  unfold State.apDone
  split
  · exact h
  · split
    · exact h
    · split
      · refine .apFinish ?_
        refine .ofEq ‹_› ?_
        split
        exacts [h.apSweep1, h.apSweep2]

theorem State.memoriesOk.apFreeCells {tag : Nat} {c : EngCmd} (h : s.memoriesOk) : (s.apFreeCells tag c).memoriesOk := by
  unfold State.apFreeCells
  extract_lets b k
  have h1 : ({ s with freeCtr := k + apNq b * apD b } : State).memoriesOk := h.same
  refine h1.modPlot fun p g => ?_
  rw [Plot.foldl_spad fun p _ => Plot.foldl_spad (fun _ _ => Plot.putCell_spad ..) _ p]
  exact g

theorem State.memoriesOk.apEither {c : EngCmd} {a n : Nat} {new : Option Nat} (h : s.memoriesOk) : (s.apEither c a n new).memoriesOk := by
  unfold State.apEither
  split
  · dsimp only
    split
    exacts [(State.memoriesOk.ofSnd h.draw ‹_›).apPut, (State.memoriesOk.ofSnd h.draw ‹_›).freeBytes.apPut]

theorem State.memoriesOk.apAbort {tag : Nat} {c : EngCmd} (h : s.memoriesOk) : (s.apAbort tag c).memoriesOk := by
  unfold State.apAbort
  extract_lets b v rows
  split
  next k s1 e =>
  extract_lets w s2 s3 s4
  have h1 : s1.memoriesOk := h.draw.ofSnd e
  have h2 : s2.memoriesOk := .cond h1.apFreeCells h1
  have h3 : s3.memoriesOk := .cond (h2.foldl fun _ _ h => h.apEither) h2
  have h4 : s4.memoriesOk := .cond (h3.foldl fun _ _ h => h.apEither) h3
  exact h4.apFinish

/-! ### System instructions -/

theorem srdLane_keeps {d : Reg} {n : Nat} : LaneKeeps (srdLane d n) := fun s r p t h => by
  unfold srdLane
  split
  · exact h
  · split
    exacts [h, h.setThread]

theorem swrLane_keeps {a : Reg} {n : Nat} : LaneKeeps (swrLane a n) := fun s r p t h => by
  unfold swrLane
  split
  · exact h
  · split
    · exact h
    · split
      · dsimp only
        split
        exacts [h, h.modCtx]
      · dsimp only
        split
        exacts [h, h.setThread]

theorem fparkLane_keeps {a : Reg} : LaneKeeps (fparkLane a) := fun s r p t h => by
  unfold fparkLane
  refine supLane_keeps (fun s r p t h => ?_) _ _ _ _ h
  split
  · exact h
  · dsimp only
    exact h.setThread.parkThread

theorem State.memoriesOk.releaseWin {ctx n : Nat} (h : s.memoriesOk) : (s.releaseWin ctx n).memoriesOk := h.same

theorem State.memoriesOk.writeLpwc {ctx n : Nat} {v : Word} (h : s.memoriesOk) : (s.writeLpwc ctx n v).memoriesOk := by
  unfold State.writeLpwc
  split
  exacts [h.modCtx, h.modCtx.releaseWin]

theorem lpwcLane_keeps {a : Reg} {n : Nat} : LaneKeeps (lpwcLane a n) := fun s r p t h => by
  unfold lpwcLane
  split
  exacts [h, h.writeLpwc]

theorem trapLane_keeps {i : Nat} : LaneKeeps (trapLane i) := fun _ _ _ _ h =>
  h

theorem bkptLane_keeps {i : Nat} : LaneKeeps (bkptLane i) := fun s r p t h => by
  unfold bkptLane
  split <;> exact h

theorem eretLane_keeps : LaneKeeps eretLane := supLane_keeps fun _ _ _ _ h => h.setThread

theorem State.memoriesOk.cacheTarget {core ctx va : Nat} (h : s.memoriesOk) : (s.cacheTarget core ctx va).1.memoriesOk := by
  unfold State.cacheTarget
  split <;> exact h.xlate.of ‹_›

theorem State.memoriesOk.invL2 {core pa : Nat} (h : s.memoriesOk) : (s.invL2 core pa).memoriesOk := by
  unfold State.invL2
  dsimp only
  split
  · exact h
  · refine .leaveDir ?_
    refine .same ?_
    split
    exacts [h, h.writeBack]

theorem State.memoriesOk.cleanLine {pa : Nat} (h : s.memoriesOk) : (s.cleanLine pa).memoriesOk := h.recall.same

theorem cacheLane_keeps {a : Reg} {f : State → Nat → Nat → State} (hf : ∀ s c pa, s.memoriesOk → (f s c pa).memoriesOk) :
    LaneKeeps (cacheLane a f) := fun s r p t h => by
  unfold cacheLane
  split
  · exact h
  · dsimp only
    split
    exacts [.ofEq ‹_› h.cacheTarget, (hf _ _ _ (.ofEq ‹_› h.cacheTarget)).countSync]

theorem State.memoriesOk.invTranslations {ctx va : Nat} {all : Bool} (h : s.memoriesOk) : (s.invTranslations ctx va all).memoriesOk :=
  State.memoriesOk.dropAllVbuf (h.mapCores fun _ g => g)

theorem tlbinvLane_keeps {a : Reg} {all : Bool} : LaneKeeps (tlbinvLane a all) := fun s r p t h => by
  unfold tlbinvLane
  refine supLane_keeps (fun s r p t h => ?_) _ _ _ _ h
  split
  exacts [h, h.invTranslations]

theorem seedsetLane_keeps {a : Reg} : LaneKeeps (seedsetLane a) := fun s r p t h => by
  unfold seedsetLane
  refine supLane_keeps (fun s r p t h => ?_) _ _ _ _ h
  split
  exacts [h, h.modCore fun _ g => g]

/-! ### Accesses that come to their end, gleaners, regions and landings -/

theorem State.memoriesOk.deliverSlot {c n : Nat} (h : s.memoriesOk) : (s.deliverSlot c n).memoriesOk := by
  unfold State.deliverSlot
  dsimp only
  split
  · split
    exacts [h.modThread.putSlot, h]
  · split
    exacts [h.modThread.putSlot, h]

theorem State.memoriesOk.deliverWaiting {r : Ref} (h : s.memoriesOk) : (s.deliverWaiting r).memoriesOk := h.foldl fun _ _ h => h.deliverSlot

theorem State.memoriesOk.retire {id : Nat} {r : Ref} (h : s.memoriesOk) : (s.retire id r).memoriesOk := h.same.deliverWaiting.sendHeld

theorem State.memoriesOk.finishLoad {id : Nat} {q : Req} {op : ReqOp} {v : Quad} {flags : Word} (h : s.memoriesOk) :
    (s.finishLoad id q op v flags).memoriesOk :=
  h.modThread.retire

theorem State.memoriesOk.finishStore {id : Nat} {q : Req} (h : s.memoriesOk) : (s.finishStore id q).memoriesOk := h.modThread.retire

theorem State.memoriesOk.settleMiss {q : Req} {e : TbEntry} (h : s.memoriesOk) : (s.settleMiss q e).memoriesOk := by
  unfold State.settleMiss
  split
  · split
    · split
      exacts [h.makeShared.fillTb, h]
    · exact h
  · exact h

theorem State.memoriesOk.clearPoison {q : Req} (h : s.memoriesOk) : (s.clearPoison q).memoriesOk := by
  unfold State.clearPoison
  split
  exacts [h.same, h]

theorem State.memoriesOk.performAt {q : Req} (h : s.memoriesOk) : (s.performAt q).1.memoriesOk := by
  unfold State.performAt
  split
  · split
    exact (h.performSpad.of ‹_›).afterAccess
  · split
    exact (h.settleMiss.performOrd.of ‹_›).clearPoison.afterAccess
  · exact h

theorem State.memoriesOk.remoteReturn {id : Nat} {q : Req} {v : Quad} {srcs : List WireSrc} (h : s.memoriesOk) : (s.remoteReturn id q v srcs).memoriesOk :=
  h.afterAccess.finishLoad

theorem State.memoriesOk.cutReq {id : Nat} {q : Req} {code : Nat} (h : s.memoriesOk) : (s.cutReq id q code).memoriesOk := by
  unfold State.cutReq
  dsimp only
  split
  · exact h.modThread.retire
  · split
    exacts [h.modThread.retire.unfile.parkThread.deliverRecs, h.modThread.retire]

theorem State.memoriesOk.dropsReservation {q : Req} (h : s.memoriesOk) : (s.dropsReservation q).memoriesOk := by
  unfold State.dropsReservation
  split
  exacts [h.loseReservation, h.loseReservation, h]

theorem State.memoriesOk.sendAsA {id dev : Nat} {via : Via} (h : s.memoriesOk) : (s.sendAsA id dev via).memoriesOk := by
  unfold State.sendAsA
  split
  exacts [h.setVia.sendOn, h]

theorem State.memoriesOk.fillVbuf {core : Nat} {x : L1Line} (h : s.memoriesOk) : (s.fillVbuf core x).memoriesOk := h.modCore fun _ g => g

theorem State.memoriesOk.viewLine {core ctx va : Nat} (h : s.memoriesOk) : (s.viewLine core ctx va).1.memoriesOk := by
  unfold State.viewLine
  split
  · exact h.xlate.of ‹_›
  · split
    · exact (h.xlate.of ‹_›).viewEnts.of ‹_›
    · split
      · exact ((h.xlate.of ‹_›).viewEnts.of ‹_›).viewBytes.of ‹_›
      · split
        · dsimp only
          exact (((h.xlate.of ‹_›).viewEnts.of ‹_›).viewBytes.of ‹_›).viewRead.of ‹_›

theorem State.memoriesOk.performedView {id : Nat} {q : Req} {v flags : Nat} {tags : List SyncSrc} (h : s.memoriesOk) :
    (s.performedView id q v flags tags).memoriesOk :=
  h.modReq.afterAccess

theorem State.memoriesOk.partTags {part : List GleanByte} (h : s.memoriesOk) : (s.partTags part).1.memoriesOk := by
  unfold State.partTags
  split
  · exact h
  · split
    exact h.freeTags.of ‹_›

theorem State.memoriesOk.readPart {id : Nat} {q : Req} {part : List GleanByte} (h : s.memoriesOk) : (s.readPart id q part).1.memoriesOk := by
  unfold State.readPart
  split
  · split
    · exact h.draw.ofSnd ‹_›
    · split
      · split
        exact ((h.draw.ofSnd ‹_›).partTags.of ‹_›).viewRead.of ‹_›

theorem State.memoriesOk.partAnswer {part : List GleanByte} (h : s.memoriesOk) : (s.partAnswer part).1.memoriesOk := h.viewAnswer

theorem State.memoriesOk.sawRead {core k : Nat} (h : s.memoriesOk) : (s.sawRead core k).memoriesOk := h.modCore fun _ g => g

theorem State.memoriesOk.endCombining {part : List GleanByte} (h : s.memoriesOk) : (s.endCombining part).memoriesOk := h.same

theorem State.memoriesOk.gleanEnd {id : Nat} {q : Req} (h : s.memoriesOk) : (s.gleanEnd id q).memoriesOk := by
  unfold State.gleanEnd
  split
  · split
    exacts [(h.viewLine.of ‹_›).fillVbuf.performedView, (h.viewLine.of ‹_›).performedView]

theorem State.memoriesOk.gleanLoad {id : Nat} {q : Req} (h : s.memoriesOk) : (s.gleanLoad id q).memoriesOk := by
  unfold State.gleanLoad
  split
  · dsimp only
    split
    · refine .performedView ?_
      refine .dropViewLines ?_
      split
      exacts [h.draw, h]
    · split
      · split
        exacts [h.draw.readPart.dropViewLines.sawRead.modReq.gleanEnd, h.draw.readPart.dropViewLines.sawRead.modReq]
      · split
        exacts [h.readPart.dropViewLines.sawRead.modReq.gleanEnd, h.readPart.dropViewLines.sawRead.modReq]
  · dsimp only
    split
    · refine .performedView ?_
      refine .dropViewLines ?_
      split
      exacts [h.draw, h]
    · split
      · split
        exacts [h.draw.readPart.dropViewLines.sawRead.modReq.gleanEnd, h.draw.readPart.dropViewLines.sawRead.modReq]
      · split
        exacts [h.readPart.dropViewLines.sawRead.modReq.gleanEnd, h.readPart.dropViewLines.sawRead.modReq]

theorem State.memoriesOk.gleanStore {id : Nat} {q : Req} (h : s.memoriesOk) : (s.gleanStore id q).memoriesOk := by
  unfold State.gleanStore
  dsimp only
  split
  · exact h.viewWrite.dropViewLines.dropVbuf.endCombining.modReq.performedView
  · exact h.viewWrite.dropViewLines.dropVbuf.endCombining.modReq

theorem State.memoriesOk.gleanIndex {id : Nat} {q : Req} (h : s.memoriesOk) : (s.gleanIndex id q).memoriesOk := by
  unfold State.gleanIndex
  split
  · split
    exacts [h.viewBytes.of ‹_›, (h.viewBytes.of ‹_›).cutReq]
  · exact (h.viewBytes.of ‹_›).modReq

theorem State.memoriesOk.glean {id : Nat} (h : s.memoriesOk) : (s.glean id).memoriesOk := by
  unfold State.glean
  split
  · exact h
  · split
    · exact h
    · split
      · split
        · exact h.gleanIndex
        · split
          · exact h
          · split
            exacts [State.memoriesOk.cutReq (.ofEq ‹_› h.partAnswer), State.memoriesOk.gleanLoad (.ofEq ‹_› h.partAnswer)]
      · split
        · exact h.gleanIndex
        · split
          · exact h
          · split
            exacts [State.memoriesOk.cutReq (.ofEq ‹_› h.partAnswer), State.memoriesOk.gleanStore (.ofEq ‹_› h.partAnswer)]
      · exact h

theorem State.memoriesOk.combine {id : Nat} {q : Req} {aop : Nat} {v : Quad} (h : s.memoriesOk) : (s.combine id q aop v).memoriesOk := by
  unfold State.combine
  dsimp only
  refine .performedView ?_
  refine .endCombining ?_
  refine .dropVbuf ?_
  refine .dropViewLines ?_
  split
  exacts [h.partTags.viewRead.viewWrite, h.partTags.viewRead]

theorem State.memoriesOk.viewAtomic {id : Nat} (h : s.memoriesOk) : (s.viewAtomic id).memoriesOk := by
  unfold State.viewAtomic
  split
  · exact h
  · split
    · exact h
    · split
      · split
        · exact h.gleanIndex
        · split
          · exact h
          · split
            exacts [(h.partAnswer.of ‹_›).cutReq, (h.partAnswer.of ‹_›).combine]
      · exact h

theorem State.memoriesOk.faratAtomic {id : Nat} (h : s.memoriesOk) : (s.faratAtomic id).memoriesOk := by
  unfold State.faratAtomic
  split
  · exact h
  · split
    · exact h
    · split
      exact (h.performAt.of ‹_›).modReq

theorem State.memoriesOk.pageWalk {core ctx va : Nat} (h : s.memoriesOk) : (s.pageWalk core ctx va).memoriesOk := by
  unfold State.pageWalk
  split
  exacts [h.walkFor, h]

theorem State.memoriesOk.directoryShare {core ctx va : Nat} (h : s.memoriesOk) : (s.directoryShare core ctx va).memoriesOk := by
  unfold State.directoryShare
  split
  · split
    exacts [h.makeShared, h]
  · exact h

theorem State.memoriesOk.splitRegion {k : Nat} {e : Region} (h : s.memoriesOk) : (s.splitRegion k e).memoriesOk := by
  unfold State.splitRegion
  split
  · split
    exacts [h.regionRoom.draw.ofSnd ‹_›, (h.regionRoom.draw.ofSnd ‹_›).same]

theorem State.memoriesOk.regionDecide {k : Nat} {e : Region} (h : s.memoriesOk) : (s.regionDecide k e).memoriesOk := by
  unfold State.regionDecide
  split
  · dsimp only
    split
    · exact h.same
    · split
      · exact h.same
      · split
        exacts [h.splitRegion, h.same]
  · dsimp only
    split <;> exact h.same

theorem State.memoriesOk.regionWindowEnd {die line : Nat} (h : s.memoriesOk) : (s.regionWindowEnd die line).memoriesOk := by
  unfold State.regionWindowEnd
  split
  · split
    exacts [h.regionDecide, h]
  · exact h

theorem State.memoriesOk.regionMigrate {die line : Nat} (h : s.memoriesOk) : (s.regionMigrate die line).memoriesOk := by
  unfold State.regionMigrate
  split
  · exact h
  · next k e _ =>
    split
    · exact h
    · next x _ => exact (h.moveRegion (k := k) (e := e) (slice := x)).same

theorem State.memoriesOk.regionMerge {die line : Nat} (h : s.memoriesOk) : (s.regionMerge die line).memoriesOk := by
  unfold State.regionMerge
  split
  · exact h
  · split
    exacts [h, h.same]

theorem State.memoriesOk.lpwTick {ctx n : Nat} (h : s.memoriesOk) : (s.lpwTick ctx n).memoriesOk := by
  unfold State.lpwTick
  split
  · exact h
  · split
    · exact h
    · dsimp only
      split
      exacts [h.modCtx, h.modCtx.releaseWin]

theorem State.memoriesOk.reservationExpiry {r : Ref} (h : s.memoriesOk) : (s.reservationExpiry r).memoriesOk := by
  unfold State.reservationExpiry
  split
  · split
    exacts [h.loseReservation, h]
  · exact h

theorem State.memoriesOk.answerLand {id : Nat} {ok : Bool} (h : s.memoriesOk) : (s.answerLand id ok).memoriesOk := h.same.sendHeld

theorem State.memoriesOk.landAtSlot {id : Nat} {l : Land} (h : s.memoriesOk) : (s.landAtSlot id l).memoriesOk := by
  unfold State.landAtSlot
  dsimp only
  split
  · exact h.lapseSlot.answerLand
  · split
    exacts [h.answerLand, h.putSlot.deliverSlot.answerLand]

theorem State.memoriesOk.landArrive {id : Nat} (h : s.memoriesOk) : (s.landArrive id).memoriesOk := by
  unfold State.landArrive
  split
  · exact h
  · split
    · exact h
    · split
      · exact h.landAtSlot
      · split
        · exact h.answerLand
        · split
          · exact h
          · split
            · split
              · split
                exacts [(h.draw.ofSnd ‹_›).setLandVia.sendOn, (h.draw.ofSnd ‹_›).answerLand]
              · exact (h.draw.ofSnd ‹_›).answerLand

theorem State.memoriesOk.landAnswer {id : Nat} (h : s.memoriesOk) : (s.landAnswer id).memoriesOk := by
  unfold State.landAnswer
  split
  · exact h
  · split
    · exact h
    · split
      · split
        exacts [h.same.answerPeer, h.same]
      · split
        exacts [h.same.modThread, h.same.modThread.report]

theorem State.memoriesOk.slotLapse {core n : Nat} (h : s.memoriesOk) : (s.slotLapse core n).memoriesOk := by
  unfold State.slotLapse
  dsimp only
  split
  exacts [h.lapseSlot, h]

/-! ### Branches and calls -/

theorem State.memoriesOk.load64 {r : Ref} {va : Nat} (h : s.memoriesOk) : (s.load64 r va).1.memoriesOk := by
  unfold State.load64
  split
  · exact h
  · split
    exact h.rangeRead.of ‹_›

theorem State.memoriesOk.store64 {r : Ref} {va : Nat} {v : DWord} {src : Option SyncSrc} (h : s.memoriesOk) : (s.store64 r va v src).1.memoriesOk := by
  unfold State.store64
  split
  exacts [h, h.rangeWrite]

theorem State.memoriesOk.push {r : Ref} {t : Thread} {v : DWord} (h : s.memoriesOk) : (s.push r t v).1.memoriesOk := by
  unfold State.push
  split
  · exact h
  · dsimp only
    split <;> exact h.store64.of ‹_›

theorem State.memoriesOk.pop {r : Ref} {t : Thread} (h : s.memoriesOk) : (s.pop r t).1.memoriesOk := by
  unfold State.pop
  split
  · exact h
  · split
    · exact h
    · dsimp only
      split
      exacts [h.load64.of ‹_›, (h.load64.of ‹_›).readSync]

theorem State.memoriesOk.setStack {r : Ref} {t : Thread} (h : s.memoriesOk) : (s.setStack r t).memoriesOk := h.modThread

theorem braLane_keeps {p : Fin 128} {n : Bool} {off : BitVec 18} : LaneKeeps (braLane p n off) := fun _ _ _ _ h =>
  h

theorem brfLane_keeps {p : Fin 128} {n : Bool} {off : BitVec 18} : LaneKeeps (brfLane p n off) := fun _ _ _ _ h =>
  h

theorem callLane_keeps {p : Fin 128} {n : Bool} {off : BitVec 18} : LaneKeeps (callLane p n off) := fun s r p t h => by
  unfold callLane
  split
  · split
    exacts [h.push.of ‹_›, (h.push.of ‹_›).setStack]
  · exact h

theorem retLane_keeps {g : Fin 128} : LaneKeeps (retLane g) := fun s r p t h => by
  unfold retLane
  split
  · exact h
  · split
    exacts [h.pop.of ‹_›, h.pop.of ‹_›, (h.pop.of ‹_›).setStack]

theorem calliLane_keeps {g : Fin 128} {a : Reg} : LaneKeeps (calliLane g a) := fun s r p t h => by
  unfold calliLane
  split
  · exact h
  · split
    · exact h
    · split
      · dsimp only
        split
        exacts [h, h.push.of ‹_›]
      · dsimp only
        split
        exacts [h, (h.push.of ‹_›).setStack]

theorem jmpiLane_keeps {g : Fin 128} {a : Reg} : LaneKeeps (jmpiLane g a) := fun s r p t h => by
  unfold jmpiLane
  split
  · exact h
  · split
    · exact h
    · dsimp only
      split <;> exact h

theorem yieldLane_keeps {g : Fin 128} : LaneKeeps (yieldLane g) := fun s r p t h => by
  unfold yieldLane
  split
  exacts [h.modTract, h]

theorem pauseLane_keeps {g : Fin 128} {a : Reg} : LaneKeeps (pauseLane g a) := fun s r p t h => by
  unfold pauseLane
  split
  · exact h
  · split
    · exact h
    · dsimp only
      exact h

/-! ### Row instructions -/

theorem State.memoriesOk.runRow {guard : Thread → Bool} {ops : List (Reg × Nat)} {eff : RowView → Nat → Env → Thread → Thread} (h : s.memoriesOk) :
    (runRow guard ops eff s).memoriesOk := by
  unfold Machine.runRow
  split
  · refine h.runLanes fun s r p t h => ?_
    split
    · exact h
    · split
      exacts [h, h.setThread]
  · exact h.runLanes fun _ _ _ _ h => h

/-! ### Placing, quanta, and the ends of tracts and sowings -/

theorem State.memoriesOk.codeLine {core : Nat} {e : TbEntry} {va pa : Nat} (h : s.memoriesOk) : (s.codeLine core e va pa).1.memoriesOk := by
  unfold State.codeLine
  split
  exacts [h.freeBytes, h.rdPhys]

theorem State.memoriesOk.refreshCode {core pa : Nat} {l : List Byte} (h : s.memoriesOk) : (s.refreshCode core pa l).memoriesOk := h.modCore fun _ g => g

theorem State.memoriesOk.fetchFar {core : Nat} {e : TbEntry} {va pa : Nat} (h : s.memoriesOk) : (s.fetchFar core e va pa).1.memoriesOk := by
  unfold State.fetchFar
  split
  · dsimp only
    refine .ofEq ‹_› ?_
    split
    exacts [h.freeBytes, h.rdPhys]

theorem State.memoriesOk.fetchCode {core : Nat} {e : TbEntry} {va pa : Nat} (h : s.memoriesOk) : (s.fetchCode core e va pa).1.memoriesOk := by
  unfold State.fetchCode
  split
  · exact h
  · split
    · exact h.fetchFar
    · split
      · split
        · exact h
        · split
          exact (h.rdPhys.of ‹_›).refreshCode
      · split
        · dsimp only
          exact (h.codeLine.of ‹_›).modCore fun _ g => g

theorem State.memoriesOk.fetchAt {core ctx va : Nat} (h : s.memoriesOk) : (s.fetchAt core ctx va).1.memoriesOk := by
  unfold State.fetchAt
  split
  · exact h.xlate.of ‹_›
  · split
    · exact h.xlate.of ‹_›
    · split
      · exact h.xlate.of ‹_›
      · split
        exact (h.xlate.of ‹_›).fetchCode.of ‹_›

theorem State.memoriesOk.fetch {r : Ref} (h : s.memoriesOk) : (s.fetch r).1.memoriesOk := by
  unfold State.fetch
  split
  exacts [h, h.fetchAt]

theorem State.memoriesOk.fetchAhead {k : Core} (h : s.memoriesOk) : (s.fetchAhead k).memoriesOk := by
  unfold State.fetchAhead
  refine h.foldl fun s x h => ?_
  dsimp only
  split
  · split
    exacts [h.fetch, h]
  · exact h

theorem State.memoriesOk.pick {c : Nat} (h : s.memoriesOk) : (s.pick c).memoriesOk := by
  unfold State.pick
  extract_lets t picks
  have h1 : t.memoriesOk := h.fetchAhead
  split
  · exact h1
  · next n _ =>
    have h2 : (t.modCore c fun k => { k with rr := (n + 1) % 256 }).memoriesOk := h1.modCore fun _ g => g
    exact h2.same

theorem State.memoriesOk.phaseLast (h : s.memoriesOk) : (s.phaseLast).memoriesOk := h.same

theorem State.memoriesOk.lapseOverdue (h : s.memoriesOk) : (s.lapseOverdue).memoriesOk :=
  h.foldl fun s x h => h.foldl fun s y h => by
    dsimp only
    split
    exacts [h.lapseSlot, h]

theorem State.memoriesOk.correctSoft (h : s.memoriesOk) : (s.correctSoft).memoriesOk := by
  unfold State.correctSoft
  split
  exact (h.draw.ofSnd ‹_›).same

theorem State.memoriesOk.issueCycle (h : s.memoriesOk) : (s.issueCycle).memoriesOk := by
  unfold State.issueCycle
  extract_lets _ s1 s2
  have h0 : s.correctSoft.memoriesOk := h.correctSoft
  have h1 : s1.memoriesOk := .lapseOverdue h0.same
  have h2 : s2.memoriesOk := h1.foldl fun _ _ h => h.flushFiling
  split
  exacts [h2, (h2.foldl fun _ _ h => h.pick).phaseLast]

theorem State.memoriesOk.formSpill {c slot : Nat} (h : s.memoriesOk) : (s.formSpill c slot).memoriesOk := by
  unfold State.formSpill
  dsimp only
  split
  exacts [h, .newDrill (h.setCore (State.wf_pin h c))]

theorem State.memoriesOk.formFrom {c slot n : Nat} (h : s.memoriesOk) : (s.formFrom c slot n).memoriesOk := by
  unfold State.formFrom
  dsimp only
  split
  exacts [h, .newDrill (h.setCore (State.wf_pin h c))]

theorem State.memoriesOk.formDrill {c : Nat} (h : s.memoriesOk) : (s.formDrill c).memoriesOk := by
  unfold State.formDrill
  dsimp only
  split
  · exact h
  · split
    · exact h
    · split
      exacts [.formFrom (h.setCore (State.wf_pin h c)), .formSpill (h.setCore (State.wf_pin h c))]

theorem State.memoriesOk.furrowAge {c n : Nat} (h : s.memoriesOk) : (s.furrowAge c n).memoriesOk := by
  unfold State.furrowAge
  split
  · exact h
  · split
    exacts [h.modCore fun _ g => g, h]

theorem State.memoriesOk.stopAll {l : List Ref} (h : s.memoriesOk) : (s.stopAll l).memoriesOk := h.foldl fun _ _ h => h.stopThread

theorem State.memoriesOk.fetchGroups {core ctx : Nat} {l : List RowGroup} (h : s.memoriesOk) : (s.fetchGroups core ctx l).1.memoriesOk := by
  induction l generalizing s with
  | nil => exact h
  | cons g l ih => exact ih h.fetchAt

theorem State.memoriesOk.rowRendezvous {tag row : Nat} (h : s.memoriesOk) : (s.rowRendezvous tag row).memoriesOk := by
  unfold State.rowRendezvous
  split
  · exact h
  · split
    · exact h
    · split
      · split
        · dsimp only
          split
          exacts [h.stopAll, (h.fetchGroups.of ‹_›).modPlot fun _ g => g]
        · dsimp only
          split
          exacts [h.stopAll, h]

theorem State.memoriesOk.rowGroup {tag row : Nat} (h : s.memoriesOk) : (s.rowGroup tag row).memoriesOk := by
  unfold State.rowGroup
  split
  · exact h
  · split
    · split
      · exact h
      · next p _ _ _ g slot _ _ _ =>
        extract_lets s1 here stops go s2
        have h1 : s1.memoriesOk := h.modPlot fun _ g => g
        have h2 : s2.memoriesOk := h1.stopAll
        split
        · exact h2
        · have h3 : (s2.newDrill p.core slot (byLane go) false (some g.word)).memoriesOk := h2.newDrill
          exact h3.same
    · exact h

theorem State.memoriesOk.wake {r : Ref} (h : s.memoriesOk) : (s.wake r).memoriesOk := by
  unfold State.wake
  split
  exacts [h, h.fileThread]

theorem State.memoriesOk.threadWake {r : Ref} (h : s.memoriesOk) : (s.threadWake r).memoriesOk := by
  unfold State.threadWake
  split
  · exact h
  · split
    · exact h.acquireCaches.wake
    · exact h.acquireCaches.wake
    · split
      exacts [h.barAcquire.wake, h]
    · exact h.readLanding.wake
    · exact h

theorem State.memoriesOk.pauseExpiry {r : Ref} (h : s.memoriesOk) : (s.pauseExpiry r).memoriesOk := by
  unfold State.pauseExpiry
  split
  exacts [h.wake, h]

theorem State.memoriesOk.watchAgain {r : Ref} {va : DWord} {v : Word} (h : s.memoriesOk) : (s.watchAgain r va v).memoriesOk := h.watch.modThread

theorem State.memoriesOk.waitwRecheck {r : Ref} (h : s.memoriesOk) : (s.waitwRecheck r).memoriesOk := by
  unfold State.waitwRecheck
  split
  · split
    · exact h
    · split
      · exact (h.watchWord.of ‹_›).unwatch.parkThread.deliverRecs
      · exact (h.watchWord.of ‹_›).watchAgain
      · split
        exacts [(h.watchWord.of ‹_›).watchDone.unwatch.wake, (h.watchWord.of ‹_›).watchAgain]
  · exact h

theorem State.memoriesOk.barpComplete {tag : Nat} (h : s.memoriesOk) : (s.barpComplete tag).memoriesOk := by
  unfold State.barpComplete
  split
  · exact h
  · split
    · exact h
    · exact .foldl (.acquireCaches (h.modPlot fun _ g => g)) fun _ _ h => h.wake

theorem State.memoriesOk.barcWake {com : Nat} {r : Ref} (h : s.memoriesOk) : (s.barcWake com r).memoriesOk := by
  unfold State.barcWake
  split
  · split
    exacts [h, h.acquireCaches.wake]
  · exact h

theorem State.memoriesOk.barcComplete {sow com : Nat} (h : s.memoriesOk) : (s.barcComplete sow com).memoriesOk := by
  unfold State.barcComplete
  split
  · exact h
  · split
    exacts [h, h.modSow.foldl fun _ _ h => h.barcWake]

/-! ### Pin areas -/

theorem State.memoriesOk.physRead {fuel pa n : Nat} (h : s.memoriesOk) : (s.physRead fuel pa n).1.memoriesOk := by
  induction fuel generalizing s pa n with
  | zero => exact h
  | succ fuel ih =>
    unfold State.physRead
    split
    exacts [h, ih h.rdPhys]

theorem State.memoriesOk.physWrite {src : Option SyncSrc} {fuel pa : Nat} {l : List Byte} (h : s.memoriesOk) : (s.physWrite src fuel pa l).memoriesOk := by
  induction fuel generalizing s pa l with
  | zero => exact h
  | succ fuel ih =>
    unfold State.physWrite
    split
    exacts [h, ih h.wrPhys]

theorem State.memoriesOk.turnPin {own off n : Nat} (h : s.memoriesOk) : (s.turnPin own off n).memoriesOk := h.same.dropReservations.hitWatches

theorem State.memoriesOk.sendLines {fuel pa : Nat} {l : List Byte} (h : s.memoriesOk) : (s.sendLines fuel pa l).memoriesOk := by
  induction fuel generalizing s pa l with
  | zero => exact h
  | succ fuel ih =>
    unfold State.sendLines
    split
    exacts [h, ih h.usePort.sendWrite]

theorem State.memoriesOk.pinOut {frame own : Nat} (h : s.memoriesOk) : (s.pinOut frame own).memoriesOk := by
  unfold State.pinOut
  split
  · exact h
  · dsimp only
    split
    exacts [h.physWrite.turnPin.modCore fun _ g => wf_memWithout _ _ _ g, h.sendLines.turnPin.modCore fun _ g => wf_memWithout _ _ _ g]

/-! ### Queues and their packets -/

theorem State.memoriesOk.queueWait {q acc code addr : Nat} (h : s.memoriesOk) : (s.queueWait q acc code addr).memoriesOk := by
  unfold State.queueWait
  split
  · exact h
  · split
    · exact h.modQueue
    · split
      · exact h.same.modQueue.event
      · split
        exact (h.fresh.ofSnd ‹_›).modQueue.report

theorem State.memoriesOk.endAt {q ctx scope status code detail : Nat} (h : s.memoriesOk) : (s.endAt q ctx scope status code detail).memoriesOk := by
  unfold State.endAt
  split
  exacts [h, h.same.same.modQueue.copyComplete]

theorem State.memoriesOk.endPacket {q ctx status code detail : Nat} (h : s.memoriesOk) : (s.endPacket q ctx status code detail).memoriesOk := h.endAt

theorem State.memoriesOk.queueHeader {x : Queue} (h : s.memoriesOk) : (s.queueHeader x).1.memoriesOk := by
  unfold State.queueHeader
  split <;> exact h.anyRead.of ‹_›

theorem State.memoriesOk.readSlots {x : Queue} {hd n k : Nat} (h : s.memoriesOk) : (s.readSlots x hd n k).1.memoriesOk := by
  induction k generalizing s n with
  | zero => exact h
  | succ k ih =>
    unfold State.readSlots
    split
    · exact .ofEq ‹_› h.anyRead
    · split <;> exact .ofEq ‹_› (ih (.ofEq ‹_› h.anyRead))

theorem State.memoriesOk.clearSlots {x : Queue} {hd n k : Nat} (h : s.memoriesOk) : (s.clearSlots x hd n k).1.memoriesOk := by
  induction k generalizing s n with
  | zero => exact h
  | succ k ih =>
    unfold State.clearSlots
    split
    exacts [.ofEq ‹_› h.anyWrite, ih (.ofEq ‹_› h.anyWrite)]

theorem State.memoriesOk.setPacket {q : Nat} {p : Option Packet} (h : s.memoriesOk) : (s.setPacket q p).memoriesOk := h.modQueue

theorem State.memoriesOk.checkCopy {q : Nat} {x : Queue} {p : Packet} (h : s.memoriesOk) : (s.checkCopy q x p).memoriesOk := by
  unfold State.checkCopy
  dsimp only
  split
  · exact (h.copyEntry.of ‹_›).setPacket
  · split
    exacts [(h.copyEntry.of ‹_›).setPacket.endAt, (h.copyEntry.of ‹_›).setPacket]

theorem State.memoriesOk.packetTaken {q : Nat} {x : Queue} {p : Packet} (h : s.memoriesOk) : (s.packetTaken q x p).memoriesOk := by
  unfold State.packetTaken
  split
  · exact h.setPacket.endPacket
  · split
    exacts [h.checkCopy, h.setPacket]

theorem State.memoriesOk.writeRix {q : Nat} {x : Queue} {p : Packet} (h : s.memoriesOk) : (s.writeRix q x p).memoriesOk := by
  unfold State.writeRix
  split
  exacts [(h.anyWrite.of ‹_›).setPacket.queueWait, (h.anyWrite.of ‹_›).packetTaken]

theorem State.memoriesOk.clearPacket {q : Nat} {x : Queue} {hd : Nat} {p : Packet} (h : s.memoriesOk) : (s.clearPacket q x hd p).memoriesOk := by
  unfold State.clearPacket
  split
  exacts [State.memoriesOk.queueWait (.setPacket (.ofEq ‹_› h.clearSlots)), State.memoriesOk.writeRix (.ofEq ‹_› h.clearSlots)]

theorem State.memoriesOk.frontTags {ctx va : Nat} (h : s.memoriesOk) : (s.frontTags ctx va).1.memoriesOk := by
  unfold State.frontTags
  split
  · exact h
  · split
    · split
      exact h.draw.ofSnd ‹_›
    · exact h.freeTags

theorem State.memoriesOk.headerEdge {ctx va : Nat} (h : s.memoriesOk) : (s.headerEdge ctx va).1.memoriesOk := by
  unfold State.headerEdge
  split
  exact h.frontTags.of ‹_›

theorem State.memoriesOk.readPacket {q : Nat} {x : Queue} {hd : Nat} (h : s.memoriesOk) : (s.readPacket q x hd).memoriesOk := by
  unfold State.readPacket
  dsimp only
  split
  · exact State.memoriesOk.queueWait (.ofEq ‹_› h.headerEdge.anyRead)
  · have h1 := State.memoriesOk.ofEq ‹_› h.headerEdge.anyRead
    split
    · exact h1
    · split
      exacts [State.memoriesOk.queueWait (.ofEq ‹_› h1.readSlots), State.memoriesOk.clearPacket (.fresh (.ofEq ‹_› h1.readSlots))]

theorem State.memoriesOk.packetStep {q : Nat} {x : Queue} {f : State → Nat → State} (h : s.memoriesOk)
    (hf : ∀ s n, s.memoriesOk → (f s n).memoriesOk) : (s.packetStep q x f).memoriesOk := by
  unfold State.packetStep
  split
  exacts [State.memoriesOk.queueWait (.ofEq ‹_› h.queueHeader), hf _ _ (.ofEq ‹_› h.queueHeader)]

theorem State.memoriesOk.takePacket {q : Nat} (h : s.memoriesOk) : (s.takePacket q).memoriesOk := by
  unfold State.takePacket
  split
  · exact h
  · split
    · exact h
    · split
      · exact h.packetStep fun _ _ h => h.readPacket
      · split
        exacts [h.packetStep fun _ _ h => h.clearPacket, h.writeRix, h, h]

theorem State.memoriesOk.nopPacket {q : Nat} (h : s.memoriesOk) : (s.nopPacket q).memoriesOk := by
  unfold State.nopPacket
  split
  · exact h
  · split
    · exact h
    · split
      exact h.setPacket.endPacket

theorem State.memoriesOk.noteUpdate {ctx va v : Nat} {cores : List Nat} (h : s.memoriesOk) : (s.noteUpdate ctx va v cores).memoriesOk := by
  unfold State.noteUpdate
  split
  exacts [h, h.same]

theorem State.memoriesOk.addWord {ctx va v : Nat} {cores : List Nat} (h : s.memoriesOk) : (s.addWord ctx va v cores).1.memoriesOk := by
  unfold State.addWord
  split
  · exact h.atomicRead.of ‹_›
  · split
    exacts [(h.atomicRead.of ‹_›).anyWrite.of ‹_›, ((h.atomicRead.of ‹_›).anyWrite.of ‹_›).noteUpdate]

theorem State.memoriesOk.tokenSignal {q : Nat} (h : s.memoriesOk) : (s.tokenSignal q).memoriesOk := by
  unfold State.tokenSignal
  split
  · exact h
  · split
    · exact h
    · split
      · exact h
      · dsimp only
        split
        · exact h.setPacket.endPacket
        · split
          exacts [(h.addWord.of ‹_›).queueWait, (h.addWord.of ‹_›).setPacket.endPacket]

theorem State.memoriesOk.copyHandoff {q : Nat} (h : s.memoriesOk) : (s.copyHandoff q).memoriesOk := by
  unfold State.copyHandoff
  split
  · exact h
  · split
    · exact h
    · split
      exacts [h, h.same.same.modQueue]

theorem State.memoriesOk.readMembers {ctx tracts plots va n : Nat} {g : Tab (List (Nat × Nat))} (h : s.memoriesOk) :
    (s.readMembers ctx tracts plots va n g).1.memoriesOk := by
  induction n generalizing s va g with
  | zero => exact h
  | succ n ih =>
    unfold State.readMembers
    split
    · exact .ofEq ‹_› h.engRead
    · split
      exacts [.ofEq ‹_› h.engRead, ih (.ofEq ‹_› h.engRead)]

theorem State.memoriesOk.membership {ctx v : Nat} (h : s.memoriesOk) : (s.membership ctx v).1.memoriesOk := by
  unfold State.membership
  split
  · exact h
  · split
    exacts [h.engRead.of ‹_›, (h.engRead.of ‹_›).readMembers]

theorem State.memoriesOk.rejectLaunch {q : Nat} {x : Queue} {p : Packet} {code detail : Nat} (h : s.memoriesOk) :
    (s.rejectLaunch q x p code detail).memoriesOk :=
  h.setPacket.endPacket

theorem State.memoriesOk.acceptLaunch {q : Nat} {x : Queue} {p : Packet} {g : Tab (List (Nat × Nat))} (h : s.memoriesOk) :
    (s.acceptLaunch q x p g).memoriesOk := by
  unfold State.acceptLaunch
  split
  exact (h.fresh.ofSnd ‹_›).same.modQueue

theorem State.memoriesOk.launch {q : Nat} (h : s.memoriesOk) : (s.launch q).memoriesOk := by
  unfold State.launch
  split
  · exact h
  · split
    · exact h
    · dsimp only
      split
      · split
        · exact h.rejectLaunch
        · split
          exacts [(h.membership.of ‹_›).queueWait, (h.membership.of ‹_›).rejectLaunch, (h.membership.of ‹_›).rejectLaunch]
      · split
        exacts [(h.membership.of ‹_›).queueWait, (h.membership.of ‹_›).rejectLaunch, (h.membership.of ‹_›).acceptLaunch]

theorem State.memoriesOk.readToks {ctx : Nat} {l : List Token} (h : s.memoriesOk) : (s.readToks ctx l).1.memoriesOk := by
  induction l generalizing s with
  | nil => exact h
  | cons x l ih =>
    unfold State.readToks
    split
    · exact .ofEq ‹_› h.anyRead
    · dsimp only
      split <;> exact .ofEq ‹_› (ih (State.memoriesOk.frontTags (.ofEq ‹_› h.anyRead)))

theorem State.memoriesOk.sowWait {w acc code addr : Nat} (h : s.memoriesOk) : (s.sowWait w acc code addr).memoriesOk := by
  unfold State.sowWait
  split
  · exact h
  · split
    · exact h.modSow
    · split
      exact (h.fresh.ofSnd ‹_›).modSow.report

theorem State.memoriesOk.tokenRead {w : Nat} (h : s.memoriesOk) : (s.tokenRead w).memoriesOk := by
  unfold State.tokenRead
  split
  · exact h
  · split
    · exact h
    · split
      exacts [(h.readToks.of ‹_›).sowWait, (h.readToks.of ‹_›).modSow]

theorem State.memoriesOk.roomTaken {x : Nat × Option Nat} (h : s.memoriesOk) : (s.roomTaken x).memoriesOk := by
  unfold State.roomTaken
  split
  exacts [h.same, h]

theorem State.memoriesOk.newTag (h : s.memoriesOk) : (s.newTag).2.memoriesOk := by
  unfold State.newTag
  split
  · dsimp only
    exact h.draw.ofSnd ‹_›

theorem State.memoriesOk.dropCode {c : Nat} (h : s.memoriesOk) : (s.dropCode c).memoriesOk := h.modCore fun _ g => g

theorem State.memoriesOk.loadSelectors {cores : List Nat} {l : Word} {acq : Nat → List Scope} (h : s.memoriesOk) : (s.loadSelectors cores l acq).memoriesOk :=
  h.foldl fun s c h => .foldl (.dropCode (by
    split
    exacts [h.modCore fun _ g => g, h])) fun _ _ h => h.acquireCaches

theorem State.memoriesOk.filePlot {tag : Nat} (h : s.memoriesOk) : (s.filePlot tag).memoriesOk := by
  unfold State.filePlot
  split
  · exact h
  · refine h.foldl fun s x h => ?_
    dsimp only
    split
    exacts [h.fileThread, h]

theorem State.memoriesOk.makePlots {w : Sowing} {sow tract ix : Nat} {l : List (Nat × Nat)} (h : s.memoriesOk) :
    (s.makePlots w sow tract ix l).1.memoriesOk := by
  induction l generalizing s with
  | nil => exact h
  | cons x l ih => exact ih (State.memoriesOk.putPlot h.newTag rfl)

theorem State.memoriesOk.placeFresh {n : Nat} {w : Sowing} {run : List Nat} (h : s.memoriesOk) : (s.placeFresh n w run).memoriesOk := by
  unfold State.placeFresh
  split
  · split
    · exact (h.fresh.ofSnd ‹_›).loadSelectors.same.makePlots.modSow.setPacket.foldl fun _ _ h => h.filePlot
    · exact (h.fresh.ofSnd ‹_›).loadSelectors.same.makePlots.modSow.foldl fun _ _ h => h.filePlot

theorem State.memoriesOk.placeTract (h : s.memoriesOk) : (s.placeTract).memoriesOk := by
  unfold State.placeTract
  split
  · split
    exacts [h.placeFresh.roomTaken, h]
  · exact h

theorem State.memoriesOk.quantumExpiry {n : Nat} (h : s.memoriesOk) : (s.quantumExpiry n).memoriesOk := by
  unfold State.quantumExpiry
  split
  · split
    exacts [h.modTract, h]
  · exact h

theorem State.memoriesOk.sleepCandidate {n : Nat} (h : s.memoriesOk) : (s.sleepCandidate n).memoriesOk := by
  unfold State.sleepCandidate
  split
  · split
    exacts [h.modTract, h]
  · exact h

theorem State.memoriesOk.retireTract {n : Nat} (h : s.memoriesOk) : (s.retireTract n).memoriesOk := by
  refine State.memoriesOk.modSow ⟨h.1, fun x hx => h.2.1 x (List.mem_of_mem_filter hx), fun x hx => ?_⟩
  obtain ⟨y, hy, rfl⟩ := List.mem_map.1 hx
  exact h.2.2 y hy

theorem State.memoriesOk.plotRetire {tag : Nat} (h : s.memoriesOk) : (s.plotRetire tag).memoriesOk := by
  unfold State.plotRetire
  split
  · exact h
  · split
    · exact h
    · extract_lets s1
      have h1 : s1.memoriesOk := h.modPlot fun _ g => g
      split
      exacts [h1.retireTract, h1]

theorem State.memoriesOk.dropSowing {n : Nat} {w : Sowing} (h : s.memoriesOk) : (s.dropSowing n w).memoriesOk := h.same.modQueue

theorem State.memoriesOk.sowingComplete {n : Nat} (h : s.memoriesOk) : (s.sowingComplete n).memoriesOk := by
  unfold State.sowingComplete
  split
  · exact h
  · split
    · exact h
    · split
      · split
        · exact h.dropSowing.endPacket
        · split
          exacts [(h.addWord.of ‹_›).sowWait, (h.addWord.of ‹_›).dropSowing.endPacket]
      · split
        · exact h.dropSowing.endPacket
        · split
          exacts [(h.addWord.of ‹_›).sowWait, (h.addWord.of ‹_›).dropSowing.endPacket]

/-! ### Swap -/

theorem State.memoriesOk.writeImage {n : Nat} (h : s.memoriesOk) : (s.writeImage n).memoriesOk := by
  unfold State.writeImage
  split
  · exact h
  · split
    exacts [h, h.engWrite]

theorem State.memoriesOk.unissue {r : Ref} {pc : DWord} (h : s.memoriesOk) : (s.unissue r pc).memoriesOk := h.modThread

theorem State.memoriesOk.dropWaiting {tag : Nat} (h : s.memoriesOk) : (s.dropWaiting tag).memoriesOk := by
  unfold State.dropWaiting
  extract_lets eng cps s1
  have h1 : s1.memoriesOk := .foldl (h.modPlot fun _ g => g) fun _ _ h => h.unissue
  refine h1.foldl fun s x h => ?_
  dsimp only
  split
  exacts [State.memoriesOk.modThread h.same, h]

theorem State.memoriesOk.beginLeave {n : Nat} (h : s.memoriesOk) : (s.beginLeave n).memoriesOk := by
  unfold State.beginLeave
  split
  · exact h
  · split
    · exact h
    · extract_lets len out
      split
      · exact h
      · extract_lets s1 s2 s3
        have h2 : s2.memoriesOk := State.memoriesOk.foldl h.modTract fun s x h => .foldl h fun s y h => by
          dsimp only [out]
          split
          · exact h
          · split
            exacts [h.leaveDrill.modThread, h.unfile, h]
        have h3 : s3.memoriesOk := h2.foldl fun _ _ h => h.dropWaiting
        refine h3.mapPlots fun x g => ?_
        dsimp only
        split <;> exact g

theorem State.memoriesOk.recordCopies {tags : List Nat} (h : s.memoriesOk) : (s.recordCopies tags).memoriesOk := h.same

theorem State.memoriesOk.modTractThreads {n : Nat} {f : Thread → Thread} (h : s.memoriesOk) : (s.modTractThreads n f).memoriesOk :=
  h.mapPlots fun x g => by
    dsimp only
    split <;> exact g

theorem State.memoriesOk.finishLeave {n : Nat} (h : s.memoriesOk) : (s.finishLeave n).memoriesOk := by
  unfold State.finishLeave
  split
  · exact h
  · split
    · exact h
    · split
      · exact h
      · extract_lets len
        split
        · exact h
        · split
          next o s1 e =>
          extract_lets tags s2 s3 s4
          have h1 : s1.memoriesOk := .ofSnd h.fresh e
          have h4 : s4.memoriesOk := h1.modTract.writeImage.modTractThreads.modTract.recordCopies
          exact h4.same

theorem State.memoriesOk.swapOut {n : Nat} (h : s.memoriesOk) : (s.swapOut n).memoriesOk := by
  unfold State.swapOut
  split
  · exact h
  · split
    · exact h.finishLeave
    · split
      · split
        exacts [h.beginLeave.same.finishLeave, h]
      · exact h

theorem State.memoriesOk.budgetExpiry {n : Nat} (h : s.memoriesOk) : (s.budgetExpiry n).memoriesOk := by
  unfold State.budgetExpiry
  split
  · exact h
  · split
    exacts [h.modTract.beginLeave.finishLeave, h]

theorem State.memoriesOk.restorePlot {tag : Nat} {img : List Byte} {off : Nat} (h : s.memoriesOk) : (s.restorePlot tag img off).memoriesOk :=
  State.memoriesOk.same (h.modPlot fun _ _ => wf_memOf _ _)

theorem State.memoriesOk.restorePlots {img : List Byte} {hd : Nat} {l : List (Nat × Plot)} (h : s.memoriesOk) : (s.restorePlots img hd l).memoriesOk := by
  induction l generalizing s with
  | nil => exact h
  | cons x l ih => exact ih h.restorePlot

theorem State.memoriesOk.releaseUnarmed {ctx : Nat} (h : s.memoriesOk) : (s.releaseUnarmed ctx).memoriesOk := by
  unfold State.releaseUnarmed
  split
  exacts [h.foldl fun _ _ h => h.releaseWin, h]

theorem State.memoriesOk.restoreHeader {n ctx hd : Nat} (h : s.memoriesOk) : (s.restoreHeader n ctx hd).memoriesOk := h.modTract.modCtx.releaseUnarmed

theorem State.memoriesOk.restoreImage {n : Nat} {t : Tract} {w : Sowing} (h : s.memoriesOk) : (s.restoreImage n t w).memoriesOk := by
  unfold State.restoreImage
  split
  exacts [h.engRead.of ‹_›, (h.engRead.of ‹_›).restoreHeader.restorePlots]

theorem State.memoriesOk.resleep {r : Ref} (h : s.memoriesOk) : (s.resleep r).memoriesOk := by
  unfold State.resleep
  split
  · split
    · dsimp only
      split
      · exact h.modThread.waitwRecheck
      · exact h.modThread.pauseExpiry
      · split
        exacts [h.modThread.barcWake, h.modThread]
      · exact h.modThread
      · exact h.modThread.threadWake
    · exact h
  · exact h

theorem State.memoriesOk.unparkSlots {tags : List Nat} {c : Nat} (h : s.memoriesOk) : (s.unparkSlots tags c).memoriesOk := by
  unfold State.unparkSlots
  refine h.foldl fun s x h => ?_
  dsimp only
  split
  · exact h.modThread.putSlot
  · split
    exacts [h.lapseSlot, h]

theorem State.memoriesOk.heldArrivals {tags : List Nat} (h : s.memoriesOk) : (s.heldArrivals tags).memoriesOk := by
  unfold State.heldArrivals
  refine h.foldl fun s x h => ?_
  dsimp only
  split
  exacts [h.deliverArrival, h]

theorem State.memoriesOk.seatPlots {n : Nat} {l : List ((Nat × Plot) × Nat)} (h : s.memoriesOk) : (s.seatPlots n l).memoriesOk := by
  induction l generalizing s with
  | nil => exact h
  | cons x l ih => exact ih (h.modPlot fun _ g => g)

theorem State.memoriesOk.reissueCopies {tag core : Nat} (h : s.memoriesOk) : (s.reissueCopies tag core).memoriesOk := h.same.frontAdmit

theorem State.memoriesOk.filePlaced {l : List Ref} (h : s.memoriesOk) : (s.filePlaced l).memoriesOk :=
  h.foldl fun s r h => by
    split
    exacts [h.fileThread, h]

theorem State.memoriesOk.swapTo {n : Nat} {t : Tract} {w : Sowing} {run : List Nat} (h : s.memoriesOk) : (s.swapTo n t w run).memoriesOk := by
  unfold State.swapTo
  extract_lets sr ps tags sel s1 s2
  have h2 : s2.memoriesOk := h.restoreImage.loadSelectors.seatPlots
  split
  next order s2a e =>
  extract_lets s3 s4 s5 s6 filed s7 s8
  have h4 : s4.memoriesOk := (State.memoriesOk.ofSnd h2.fresh e).modTract.heldArrivals
  have h5 : s5.memoriesOk := (h4.foldl fun _ _ h => h.unparkSlots).modTractThreads
  have h6 : s6.memoriesOk := h5.foldl fun _ _ h => h.reissueCopies
  have h7 : s7.memoriesOk := h6.foldl fun _ _ h => h.foldl fun _ _ h => h.resleep
  exact h7.filePlaced.modSow

theorem State.memoriesOk.swapIn {n : Nat} (h : s.memoriesOk) : (s.swapIn n).memoriesOk := by
  unfold State.swapIn
  split
  · split
    · exact h
    · split
      exacts [h.swapTo.roomTaken, h]
  · exact h

/-! ### The service of fault records -/

theorem State.memoriesOk.imageFollows {r : Ref} (h : s.memoriesOk) : (s.imageFollows r).memoriesOk := by
  unfold State.imageFollows
  split
  · exact h
  · split
    · split
      exacts [h, h.writeImage]
    · exact h

theorem State.memoriesOk.resumeCaches {r : Ref} (h : s.memoriesOk) : (s.resumeCaches r).memoriesOk := by
  unfold State.resumeCaches
  split
  exacts [h.acquireCaches, h]

theorem State.memoriesOk.resumeThread {r : Ref} (h : s.memoriesOk) : (s.resumeThread r).memoriesOk := by
  unfold State.resumeThread
  split
  · exact h
  · split
    exacts [h.modThread.resumeCaches.fileThread.imageFollows, h]

theorem State.memoriesOk.killRecorded {r : Ref} (h : s.memoriesOk) : (s.killRecorded r).memoriesOk := h.killThread.imageFollows

theorem State.memoriesOk.resumeWork {n : Nat} (h : s.memoriesOk) : (s.resumeWork n).memoriesOk := by
  unfold State.resumeWork
  split
  exacts [h, h.copyResume, h.modQpost, h.modQueue, h.modSow, h.modEng]

theorem State.memoriesOk.dropQueue {q : Nat} (h : s.memoriesOk) : (s.dropQueue q).memoriesOk := h.same

theorem State.memoriesOk.abortQueue {q : Nat} (h : s.memoriesOk) : (s.abortQueue q).memoriesOk := by
  unfold State.abortQueue
  split
  · exact h
  · split
    · exact h.modQueue.dropQueue.event
    · split
      · exact h.modQueue.dropQueue.event
      · exact h.modQueue.dropQueue.event
      · split
        · exact h.modQueue.rejectLaunch
        · split
          exacts [h.modQueue.setPacket.endPacket, h.modQueue]
      · exact h.modQueue

theorem State.memoriesOk.abortSowing {n : Nat} (h : s.memoriesOk) : (s.abortSowing n).memoriesOk := by
  unfold State.abortSowing
  split
  · exact h
  · split
    exacts [h.modSow, h.dropSowing.setPacket.endPacket]

theorem State.memoriesOk.abortWork {n : Nat} (h : s.memoriesOk) : (s.abortWork n).memoriesOk := by
  unfold State.abortWork
  split
  · exact h
  · exact h.copyAbort
  · split
    exacts [h, State.memoriesOk.modThread h.same]
  · exact h.abortQueue
  · exact h.abortSowing
  · split
    · exact h
    · split
      exacts [h.apAbort, h]

theorem State.memoriesOk.mapLazy {c : Ctx} {p : LazyPage} (h : s.memoriesOk) : (s.mapLazy c p).memoriesOk := by
  have h1 : (s.countWalk (s.leafReads p.va 3 c.root)).memoriesOk := h.countWalk
  unfold State.mapLazy
  dsimp only
  split
  · exact h1
  · split
    · exact h1
    · split
      · split
        exacts [State.memoriesOk.writePte (State.memoriesOk_pinIn _ _ _ h1 ‹_›), h1]
      · exact h1.writePte

theorem State.memoriesOk.resumeRec {f : FaultRec} (h : s.memoriesOk) : (s.resumeRec f).memoriesOk := by
  unfold State.resumeRec
  split
  · split
    exacts [h.resumeThread, h]
  · split
    exacts [h.resumeWork, h]

theorem State.memoriesOk.endRec {f : FaultRec} (h : s.memoriesOk) : (s.endRec f).memoriesOk := by
  unfold State.endRec
  split
  · split
    exacts [h.killRecorded, h]
  · split
    exacts [h.abortWork, h]

theorem State.memoriesOk.endBudgets (h : s.memoriesOk) : (s.endBudgets).memoriesOk := h.same

theorem State.memoriesOk.serviceRec {ctx : Nat} {f : FaultRec} {resume : Bool} (h : s.memoriesOk) : (s.serviceRec ctx f resume).memoriesOk := by
  unfold State.serviceRec
  split
  · exact h.mapLazy.resumeRec
  · split
    · exact h.same
    · split
      exacts [h.resumeRec, h.endRec]

theorem State.memoriesOk.nextRec {c : Ctx} {ctx : Nat} (h : s.memoriesOk) : (s.nextRec c ctx).1.memoriesOk := by
  unfold State.nextRec
  split
  · exact h.pread.of ‹_›
  · split <;> exact h.pread.of ‹_›

theorem State.memoriesOk.faultService {ctx : Nat} {resume : Bool} (h : s.memoriesOk) : (s.faultService ctx resume).memoriesOk := by
  unfold State.faultService
  split
  · exact h
  · split
    · exact h
    · split
      · exact .ofEq ‹_› h.nextRec
      · have h1 := State.memoriesOk.ofEq ‹_› h.nextRec
        split
        · exact h1
        · dsimp only
          split
          exacts [h1.serviceRec.pwrite.modCtx.endBudgets, h1.pwrite.modCtx.endBudgets]

theorem State.memoriesOk.recordFlush {ctx : Nat} (h : s.memoriesOk) : (s.recordFlush ctx).memoriesOk := h.flushRecs

theorem State.memoriesOk.holdService {ctx : Nat} {b : Bool} (h : s.memoriesOk) : (s.holdService ctx b).memoriesOk := h.modCtx

theorem State.memoriesOk.killHeld {ctx n : Nat} (h : s.memoriesOk) : (s.killHeld ctx n).memoriesOk := by
  unfold State.killHeld
  split
  · exact h
  · split
    · split
      exacts [h.endRec.modCtx.endBudgets, h]
    · exact h

/-! ### Debug -/

theorem State.memoriesOk.setComparator {ctx n : Nat} {c : Comparator} (h : s.memoriesOk) : (s.setComparator ctx n c).memoriesOk := by
  unfold State.setComparator
  split
  exacts [h, h.modCtx]

theorem State.memoriesOk.setControl {ctx : Nat} {still haz bks : Bool} (h : s.memoriesOk) : (s.setControl ctx still haz bks).memoriesOk := h.modCtx

theorem State.memoriesOk.debugRead {r : Ref} (h : s.memoriesOk) : (s.debugRead r).memoriesOk := by
  unfold State.debugRead
  split
  exacts [h.same, h]

theorem State.memoriesOk.debugWrite {r : Ref} {image : BitVec 2048} {regs : List Word} (h : s.memoriesOk) : (s.debugWrite r image regs).memoriesOk := by
  unfold State.debugWrite
  split
  · split
    exacts [h.setThread, h]
  · exact h

theorem State.memoriesOk.resumeStopped {r : Ref} (h : s.memoriesOk) : (s.resumeStopped r).memoriesOk := by
  unfold State.resumeStopped
  split
  exacts [h.setThread.fileThread, h]

theorem State.memoriesOk.resumeTract {n : Nat} (h : s.memoriesOk) : (s.resumeTract n).memoriesOk := by
  unfold State.resumeTract
  dsimp only
  exact h.modTract.modTractThreads.foldl fun _ _ h => (h.foldl fun _ _ h => h.resumeStopped)

theorem State.memoriesOk.debugResume {r : Ref} (h : s.memoriesOk) : (s.debugResume r).memoriesOk := by
  unfold State.debugResume
  split
  · exact h.resumeStopped
  · split
    · exact h
    · split
      exacts [h.resumeTract, h.resumeStopped]

theorem State.memoriesOk.singleStep {r : Ref} (h : s.memoriesOk) : (s.singleStep r).memoriesOk := by
  unfold State.singleStep
  split
  · exact h
  · split
    · exact h
    · split
      exacts [h, h.setThread.newDrill.same]

/-! ### The fabric and the host -/

theorem State.memoriesOk.setPort {p : Nat} {x : Port} (h : s.memoriesOk) : (s.setPort p x).memoriesOk := h.same

theorem State.memoriesOk.logError {code detail : Nat} (h : s.memoriesOk) : (s.logError code detail).memoriesOk := h.same

theorem State.memoriesOk.firstKeys {x : Port} (h : s.memoriesOk) : (s.firstKeys x).1.memoriesOk := by
  unfold State.firstKeys
  split
  · exact h
  · split
    · split
      exact (h.draw.ofSnd ‹_›).draw.ofSnd ‹_›

theorem State.memoriesOk.portLinkUp {p lanes : Nat} (h : s.memoriesOk) : (s.portLinkUp p lanes).memoriesOk := by
  unfold State.portLinkUp
  split
  · exact h
  · split
    · exact h.changePorts.logError.event
    · split
      exact (h.firstKeys.of ‹_›).changePorts

theorem State.memoriesOk.portLeave {p : Nat} (h : s.memoriesOk) : (s.portLeave p).memoriesOk := by
  unfold State.portLeave
  split
  · exact h
  · split
    exacts [h.changePorts, h]

theorem State.memoriesOk.reachChange {p : Nat} {dsts : List Nat} (h : s.memoriesOk) : (s.reachChange p dsts).memoriesOk := h.changePorts

theorem State.memoriesOk.remapRelease {dst : Nat} (h : s.memoriesOk) : (s.remapRelease dst).memoriesOk := by
  unfold State.remapRelease
  split
  exacts [h.same.sendHeld, h]

theorem State.memoriesOk.keyDeliver {p : Nat} {key : BitVec 256} (h : s.memoriesOk) : (s.keyDeliver p key).memoriesOk := by
  unfold State.keyDeliver
  dsimp only
  split
  · exact h.setPort
  · split
    exacts [h.setPort, h]

theorem State.memoriesOk.keyInstallAck {p : Nat} (h : s.memoriesOk) : (s.keyInstallAck p).memoriesOk := by
  unfold State.keyInstallAck
  dsimp only
  split
  exacts [h.setPort, h, h]

theorem State.memoriesOk.oldGenAcked {p : Nat} (h : s.memoriesOk) : (s.oldGenAcked p).memoriesOk := by
  unfold State.oldGenAcked
  dsimp only
  split
  exacts [h.setPort.event, h, h]

theorem State.memoriesOk.retireMarker {p : Nat} {g : Bool} (h : s.memoriesOk) : (s.retireMarker p g).memoriesOk := h.setPort

theorem State.memoriesOk.flitReceive {p : Nat} {f : Flit} (h : s.memoriesOk) : (s.flitReceive p f).memoriesOk := by
  unfold State.flitReceive
  dsimp only
  split
  · exact h
  · split
    · exact h.setPort
    · split
      exacts [h.setPort, h.setPort.portLeave.logError.event]

theorem State.memoriesOk.cutReqs {dst : Nat} (h : s.memoriesOk) : (s.cutReqs dst).memoriesOk := List.foldrRecOn _ _ h fun _ h _ _ => h.cutReq

theorem State.memoriesOk.poisonLine {y : Nat} (h : s.memoriesOk) : (s.poisonLine y).memoriesOk := h.same.logError.event

theorem State.memoriesOk.loseHolder {dst : Nat} (h : s.memoriesOk) : (s.loseHolder dst).memoriesOk := h.same.foldl fun _ _ h => h.poisonLine

theorem State.memoriesOk.freezePeer {src pa : Nat} (h : s.memoriesOk) : (s.freezePeer src pa).memoriesOk := h.same.logError.event

theorem State.memoriesOk.freezeHost {pa : Nat} (h : s.memoriesOk) : (s.freezeHost pa).memoriesOk := h.same.logError.event

theorem State.memoriesOk.freezeState {tag : Nat} (h : s.memoriesOk) : (s.freezeState tag).memoriesOk := by
  unfold State.freezeState
  split
  exacts [h, .report (.event (.logError (.modPlot (.modTract h.stillTract) fun _ g => g)))]

theorem State.memoriesOk.addHolder {src y : Nat} (h : s.memoriesOk) : (s.addHolder src y).memoriesOk := h.same

theorem State.memoriesOk.answerValue {r : FabReq} {l : List Byte} {tags : List SyncSrc} (h : s.memoriesOk) : (s.answerValue r l tags).memoriesOk := h.answerPeer

theorem State.memoriesOk.physMasked {src : Option SyncSrc} {pa : Nat} {l : List (Option Byte)} (h : s.memoriesOk) : (s.physMasked src pa l).memoriesOk := by
  unfold State.physMasked
  split
  exacts [h.physWrite, h.foldl fun _ _ h => h.physWrite]

theorem State.memoriesOk.keepsDirty {src y : Nat} (h : s.memoriesOk) : (s.keepsDirty src y).memoriesOk := by
  unfold State.keepsDirty
  split
  · split
    exacts [h.draw.ofSnd ‹_›, (h.draw.ofSnd ‹_›).same]

theorem State.memoriesOk.peerLr {r : FabReq} {pa n : Nat} {th : Ref} (h : s.memoriesOk) : (s.peerLr r pa n th).memoriesOk := by
  unfold State.peerLr
  split
  exact (h.physRead.of ‹_›).reserve.answerValue

theorem State.memoriesOk.peerSc {r : FabReq} {pa : Nat} {l : List Byte} {th : Ref} (h : s.memoriesOk) : (s.peerSc r pa l th).memoriesOk := by
  unfold State.peerSc
  dsimp only
  split
  exacts [h.losePeer.dropReservations.physWrite.answerValue, h.losePeer.dropReservations.answerValue]

theorem State.memoriesOk.peerAccess {r : FabReq} {pa n : Nat} (h : s.memoriesOk) : (s.peerAccess r pa n).memoriesOk := by
  unfold State.peerAccess
  split
  · exact h.answerPeer
  · split
    · split
      next s1 l e =>
      have h1 : s1.memoriesOk := .ofEq e h.physRead
      exact h1.addHolder.answerValue
    · exact h.physMasked.keepsDirty.answerPeer
    · exact h.peerLr
    · exact h.peerSc
    · split
      next s1 l e =>
      have h1 : s1.memoriesOk := .ofEq e h.physRead
      extract_lets s2
      have h2 : s2.memoriesOk := by
        dsimp only [s2]
        split
        exacts [h1.physWrite, h1.dropReservations]
      exact h2.answerValue
    · exact h

theorem State.memoriesOk.peerViolates {r : FabReq} {pa : Nat} (h : s.memoriesOk) : (s.peerViolates r pa).memoriesOk := by
  have h1 : (s.freezePeer r.src pa).memoriesOk := h.freezePeer
  exact h1.same

theorem State.memoriesOk.peerMemory {r : FabReq} {c : Ctx} {pa n : Nat} (h : s.memoriesOk) : (s.peerMemory r c pa n).memoriesOk := by
  unfold State.peerMemory
  split
  exacts [h.peerAccess, h.peerViolates]

theorem State.memoriesOk.takeView {l : List (Nat × TbEntry)} (h : s.memoriesOk) : (s.takeView l).memoriesOk := by
  unfold State.takeView
  refine h.foldl fun s x h => ?_
  dsimp only
  split
  exacts [h, h.dropReservations]

theorem State.memoriesOk.peerGlean {r : FabReq} {l : List (Nat × TbEntry)} {act : ViewAct} (h : s.memoriesOk) : (s.peerGlean r l act).memoriesOk := by
  cases act with
  | load n => exact h.viewRead.answerValue
  | store d => exact h.viewWrite.answerPeer
  | atomic aop v rmode =>
    unfold State.peerGlean
    dsimp only
    split
    exacts [h.viewRead.viewWrite.answerValue, h.viewRead.takeView.answerValue]

theorem State.memoriesOk.peerWaits {r : FabReq} (h : s.memoriesOk) : (s.peerWaits r).memoriesOk := h.same

/-! ### Copies and queue posts -/

theorem State.memoriesOk.peerFault {r : FabReq} {code : Nat} (h : s.memoriesOk) : (s.peerFault r code).memoriesOk := by
  unfold State.peerFault
  split
  exacts [h.peerWaits, h.answerPeer]

/-! ### The fabric and the host -/

theorem State.memoriesOk.peerView {r : FabReq} {c : Ctx} {id off : Nat} {act : ViewAct} (h : s.memoriesOk) : (s.peerView r c id off act).memoriesOk := by
  unfold State.peerView
  split
  · exact (h.viewEnts.of ‹_›).peerFault
  · split
    · split
      · exact ((h.viewEnts.of ‹_›).viewBytes.of ‹_›).peerFault
      · split
        · exact ((h.viewEnts.of ‹_›).viewBytes.of ‹_›).peerViolates
        · split
          · exact ((h.viewEnts.of ‹_›).viewBytes.of ‹_›).peerWaits
          · split
            · exact (((h.viewEnts.of ‹_›).viewBytes.of ‹_›).viewAnswer.of ‹_›).peerFault
            · exact (((h.viewEnts.of ‹_›).viewBytes.of ‹_›).viewAnswer.of ‹_›).peerGlean

theorem State.memoriesOk.peerPerform {r : FabReq} {c : Ctx} (h : s.memoriesOk) : (s.peerPerform r c).memoriesOk := by
  unfold State.peerPerform
  split
  · exact h.peerMemory
  · exact h.peerMemory
  · exact h.peerMemory
  · exact h.peerMemory
  · exact h.peerMemory
  · exact h.peerView
  · split
    exact (h.fresh.ofSnd ‹_›).same
  · split
    exact (h.fresh.ofSnd ‹_›).same

theorem State.memoriesOk.peerRequest {r : FabReq} (h : s.memoriesOk) : (s.peerRequest r).memoriesOk := by
  unfold State.peerRequest
  split
  exacts [h.answerPeer, h.peerPerform]

theorem State.memoriesOk.retryPeers (h : s.memoriesOk) : (s.retryPeers).memoriesOk := h.same.foldl fun _ _ h => h.peerRequest

theorem State.memoriesOk.destUnreachable {dst : Nat} (h : s.memoriesOk) : (s.destUnreachable dst).memoriesOk := by
  unfold State.destUnreachable
  split
  exacts [h, h.loseHolder.same.cutReqs.retryHeld.retryPeers]

theorem State.memoriesOk.relayTake {r : FabReq} (h : s.memoriesOk) : (s.relayTake r).memoriesOk := by
  unfold State.relayTake
  split
  · exact h.answerPeer
  · split
    exact (h.fresh.ofSnd ‹_›).same

theorem State.memoriesOk.noteTag {r : FabReq} (h : s.memoriesOk) : (s.noteTag r).memoriesOk := h.same

theorem State.memoriesOk.fabricReceive {r : FabReq} (h : s.memoriesOk) : (s.fabricReceive r).memoriesOk := by
  unfold State.fabricReceive
  split
  · exact h.same
  · split
    · exact h
    · split
      · split
        exacts [h, h.noteTag.relayTake]
      · exact h.noteTag.peerRequest

theorem State.memoriesOk.relayForward {id : Nat} (h : s.memoriesOk) : (s.relayForward id).memoriesOk := by
  unfold State.relayForward
  split
  · exact h
  · split
    exacts [h, h.same.sendFlit]

theorem State.memoriesOk.hostRead {pa n : Nat} (h : s.memoriesOk) : (s.hostRead pa n).memoriesOk := by
  have h1 : (if physOk pa n && !s.poisoned pa n then s.physRead (lineFuel n) pa n else s.freeBytes n).1.memoriesOk := by
    split
    exacts [h.physRead, h.freeBytes]
  exact h1.same

theorem State.memoriesOk.hostAccess {a : HostAcc} (h : s.memoriesOk) : (s.hostAccess a).memoriesOk := by
  unfold State.hostAccess
  split
  · split
    · exact h.same
    · split
      exacts [h.hostRead, h.freezeHost]
  · split
    · exact h
    · split
      · exact h.freezeHost
      · split
        exacts [h.physWrite, h]

/-! ### The mailbox and the steward -/

theorem State.memoriesOk.reply {m : Msg} {status rest : Nat} (h : s.memoriesOk) : (s.reply m status rest).memoriesOk := h.same

/-- The state of an answer that an operation may give keeps the form. -/
def AnswerOk : Option Answer → Prop
  | some x => x.1.memoriesOk
  | none => True

theorem AnswerOk.ite {c : Prop} [Decidable c] {x y : Option Answer} (hx : AnswerOk x) (hy : AnswerOk y) : AnswerOk (if c then x else y) := by
  split
  exacts [hx, hy]

theorem State.memoriesOk.mailOpOr {op : Nat} {f : State → Msg → Option Answer} (h : s.memoriesOk) (hf : ∀ m, AnswerOk (f s m)) :
    (s.mailOpOr op f).memoriesOk := by
  unfold State.mailOpOr
  split
  · exact h
  · next m _ =>
    split
    · split
      · next s1 st rest e =>
        have h1 : s1.memoriesOk := by
          have := hf m
          rw [e] at this
          exact this
        exact h1.reply
      · exact h
    · exact h

theorem State.memoriesOk.mailOp {op : Nat} {f : State → Msg → Answer} (h : s.memoriesOk) (hf : ∀ m, (f s m).1.memoriesOk) :
    (s.mailOp op f).memoriesOk := h.mailOpOr hf

theorem State.memoriesOk.doorbell {v : Word} (h : s.memoriesOk) : (s.doorbell v).memoriesOk := h.same

theorem State.memoriesOk.mailboxWrite {off : Nat} {v : Word} (h : s.memoriesOk) : (s.mailboxWrite off v).memoriesOk := by
  unfold State.mailboxWrite
  split
  · exact h
  · split
    · exact h.doorbell
    · split
      · exact h.same
      · split
        · exact h.same
        · split
          exacts [h.same, h]

theorem State.memoriesOk.accept (h : s.memoriesOk) : (s.accept).memoriesOk := by
  unfold State.accept
  split
  · exact h
  · dsimp only
    split
    · exact h.same.reply
    · split
      exacts [h.same.reply, h.same]

theorem State.memoriesOk.d2hPost (h : s.memoriesOk) : (s.d2hPost).memoriesOk := by
  unfold State.d2hPost
  split
  · exact h
  · split
    exacts [h, h.same]

theorem State.memoriesOk.selfTestOp {_m : Msg} (h : s.memoriesOk) : (s.selfTestOp _m).1.memoriesOk := h

theorem State.memoriesOk.toBuffer {pa : Nat} {l : List Byte} (h : s.memoriesOk) : (s.toBuffer pa l).1.memoriesOk := by
  unfold State.toBuffer
  split
  exacts [h.physWrite, h]

theorem State.memoriesOk.attestOp {m : Msg} (h : s.memoriesOk) : (s.attestOp m).1.memoriesOk := h.toBuffer

theorem State.memoriesOk.certOp {m : Msg} (h : s.memoriesOk) : (s.certOp m).1.memoriesOk := h.toBuffer

theorem State.memoriesOk.errorLogOp {m : Msg} (h : s.memoriesOk) : (s.errorLogOp m).1.memoriesOk := h.toBuffer

theorem State.memoriesOk.putCtx {c : Ctx} (h : s.memoriesOk) : (s.putCtx c).memoriesOk := h.same.invTranslations

theorem State.memoriesOk.releaseWins {ctx : Nat} (h : s.memoriesOk) : (s.releaseWins ctx).memoriesOk := h.foldl fun _ _ h => h.releaseWin

theorem State.memoriesOk.ctxUnregister {m : Msg} (h : s.memoriesOk) : (s.ctxUnregister m).1.memoriesOk := by
  unfold State.ctxUnregister
  dsimp only
  split
  · exact h
  · split
    · exact h
    · have h1 : (s.releaseWins (msgArg m 0)).memoriesOk := h.releaseWins
      exact State.memoriesOk.invTranslations h1.same

theorem State.memoriesOk.queueUnregister {m : Msg} (h : s.memoriesOk) : (s.queueUnregister m).1.memoriesOk := by
  unfold State.queueUnregister
  split
  exacts [h.dropQueue, h]

theorem State.memoriesOk.pinWrite {new a : Nat} {es : List Nat} (h : s.memoriesOk) : (s.pinWrite new a es).memoriesOk := by
  unfold State.pinWrite
  refine h.foldl fun s x h => ?_
  dsimp only
  exact h.writePte

theorem State.memoriesOk.lazyAdd {m : Msg} (h : s.memoriesOk) : (s.lazyAdd m).1.memoriesOk := by
  unfold State.lazyAdd
  split
  · exact h
  · dsimp only
    exact h.modCtx

theorem State.memoriesOk.dropCached {out : Nat → Bool} (h : s.memoriesOk) : (s.dropCached out).memoriesOk := by
  refine ⟨h.1, h.2.1, fun x hx => ?_⟩
  obtain ⟨y, hy, rfl⟩ := List.mem_map.1 hx
  exact h.2.2 y hy

theorem State.memoriesOk.unsow {out : Nat → Bool} (h : s.memoriesOk) : (s.unsow out).memoriesOk := State.memoriesOk_unsow out h

theorem State.memoriesOk.discardBegin {first n : Nat} (h : s.memoriesOk) : (s.discardBegin first n).memoriesOk := by
  unfold State.discardBegin
  extract_lets d s1
  have h1 : (s1.unsow fun y => inLines first n y && !d.later (rowOf y)).memoriesOk := h.dropCached.unsow
  exact h1.same

theorem State.memoriesOk.discardEnd {d : Discard} (h : s.memoriesOk) : (s.discardEnd d).memoriesOk := by
  have h1 : ((s.dropCached fun y => d.later (rowOf y)).unsow fun y => d.later (rowOf y)).memoriesOk := h.dropCached.unsow
  exact h1.same

theorem State.memoriesOk.discardStep (h : s.memoriesOk) : (s.discardStep).memoriesOk := by
  unfold State.discardStep
  split
  · exact h
  · split
    · exact h
    · split
      · exact h.discardEnd.reply
      · split
        exacts [h.reply, h.discardBegin]

theorem State.memoriesOk.unfreezePlot {tag : Nat} (h : s.memoriesOk) : (s.unfreezePlot tag).memoriesOk := by
  unfold State.unfreezePlot
  split
  · exact h
  · extract_lets s1 s2
    have h1 : s1.memoriesOk := h.modPlot fun _ g => g
    have h2 : s2.memoriesOk := h1.same
    split
    exacts [h2, h2.modTract.resumeTract]

theorem State.memoriesOk.unfreezeQueue {q : Nat} (h : s.memoriesOk) : (s.unfreezeQueue q).memoriesOk := by
  have h1 : (s.modQueue q fun x => { x with frozen := false }).memoriesOk := h.modQueue
  exact h1.same

theorem State.memoriesOk.unfreezePeer {d : Nat} (h : s.memoriesOk) : (s.unfreezePeer d).memoriesOk := h.same.foldl fun _ _ h => h.fabricReceive

theorem State.memoriesOk.unfreezeOp {m : Msg} (h : s.memoriesOk) : (s.unfreezeOp m).1.memoriesOk := by
  unfold State.unfreezeOp
  split
  · dsimp only
    exact h.unfreezePlot
  · dsimp only
    exact h.unfreezeQueue
  · dsimp only
    exact h.unfreezePeer
  · dsimp only
    exact h.same
  · dsimp only
    exact h

theorem State.memoriesOk.apertureOp {m : Msg} (h : s.memoriesOk) : (s.apertureOp m).1.memoriesOk := by
  unfold State.apertureOp
  split
  exacts [h, h.same]

theorem State.memoriesOk.peerWindowOp {m : Msg} (h : s.memoriesOk) : (s.peerWindowOp m).1.memoriesOk := by
  unfold State.peerWindowOp
  split
  exacts [h, h.modCtx]

theorem State.memoriesOk.linkKeyOp {m : Msg} (h : s.memoriesOk) : (s.linkKeyOp m).1.memoriesOk := by
  unfold State.linkKeyOp
  split
  · split
    · dsimp only
      split
      · exact h
      · split
        exacts [(h.draw.ofSnd ‹_›).setPort, h, h]
    · dsimp only
      split
      · exact h
      · split
        exacts [h, (h.draw.ofSnd ‹_›).keyDeliver]

theorem State.memoriesOk.newPair {v : Nat} (h : s.memoriesOk) : (s.newPair v).memoriesOk := by
  unfold State.newPair
  split
  · split
    exact ((h.draw.ofSnd ‹_›).draw.ofSnd ‹_›).same

theorem State.memoriesOk.memKeyOp {_m : Msg} (h : s.memoriesOk) : (s.memKeyOp _m).1.memoriesOk := by
  unfold State.memKeyOp
  split
  · exact h
  · split
    exacts [h, h.same.newPair]

theorem State.memoriesOk.writeBuffered {r : Ref} {pa : Nat} (h : s.memoriesOk) : (s.writeBuffered r pa).1.memoriesOk := by
  unfold State.writeBuffered
  split
  · exact h
  · dsimp only
    split
    exacts [h, h.physRead.debugWrite]

/-! ### Boot, scrub and errors -/

theorem State.memoriesOk.enterFallow {stage result unitk unit detail : Nat} (h : s.memoriesOk) : (s.enterFallow stage result unitk unit detail).memoriesOk :=
  h.same

theorem State.memoriesOk.running (h : s.memoriesOk) : (s.running).memoriesOk := h.same.newPair

theorem State.memoriesOk.boot {st : SelfTest} (h : s.memoriesOk) : (s.boot st).memoriesOk := by
  unfold State.boot
  split
  · exact h.same.enterFallow
  · split
    · exact h.same.enterFallow
    · split
      exacts [h.same.same.enterFallow, h.same.same.running]

theorem State.memoriesOk.fresh0 {e : Word} : (s.fresh0 e).memoriesOk := reset_memoriesOk.same

theorem State.memoriesOk.powerOn {st : SelfTest} : (s.powerOn st).memoriesOk := State.memoriesOk.boot .fresh0

theorem State.memoriesOk.deviceReset {st : SelfTest} : (s.deviceReset st).memoriesOk := State.memoriesOk.boot .fresh0

theorem State.memoriesOk.eraseRetired (h : s.memoriesOk) : (s.eraseRetired).memoriesOk := by
  unfold State.eraseRetired
  refine h.foldl fun s x h => ?_
  dsimp only
  split
  exacts [h.same.event, h]

theorem State.memoriesOk.eccCheck {y : Nat} (h : s.memoriesOk) : (s.eccCheck y).memoriesOk := by
  unfold State.eccCheck
  split
  · split
    exacts [h.draw.ofSnd ‹_›, (h.draw.ofSnd ‹_›).same, (h.draw.ofSnd ‹_›).poisonLine]

theorem State.memoriesOk.patrolScrub {y : Nat} (h : s.memoriesOk) : (s.patrolScrub y).memoriesOk := by
  unfold State.patrolScrub
  split
  · exact h.eraseRetired
  · dsimp only
    refine .eraseRetired ?_
    split
    · split
      exacts [h.eccCheck.same, h.eccCheck]
    · exact h.eccCheck

theorem State.memoriesOk.uncorrectable {x : ErrSite} (h : s.memoriesOk) : (s.uncorrectable x).memoriesOk := by
  unfold State.uncorrectable
  split
  exacts [h.dropCached.logError, h.poisonLine, h.freezeState]

theorem State.memoriesOk.throttle {watts celsius : Nat} (h : s.memoriesOk) : (s.throttle watts celsius).memoriesOk := by
  unfold State.throttle
  split
  exacts [h.same, h]

theorem State.memoriesOk.thermalTrip (h : s.memoriesOk) : (s.thermalTrip).memoriesOk := h.enterFallow

/-! ### The cycle -/

theorem State.memoriesOk.stopLanes {l : List Ref} (h : s.memoriesOk) : (s.stopLanes l).memoriesOk :=
  h.foldl fun s r h => by
    split
    exacts [h.stopThread, h.modThread]

theorem State.memoriesOk.fetchFault {code : Nat} (h : s.memoriesOk) : (s.fetchFault code).memoriesOk := h.runLanes fun _ _ _ _ h => h

theorem State.memoriesOk.illegalWord (h : s.memoriesOk) : (s.illegalWord).memoriesOk := h.runLanes fun _ _ _ _ h => h

theorem State.memoriesOk.endIssue {c slot extra : Nat} (h : s.memoriesOk) : (s.endIssue c slot extra).memoriesOk := by
  unfold State.endIssue
  split
  exacts [h, .stopAll (h.modCore fun _ g => g)]

theorem State.memoriesOk.withCur {c slot : Nat} {w : Word} {d : Drill} (h : s.memoriesOk) : (s.withCur c slot w d).memoriesOk := h.same

/-! ### Accesses that come to their end, gleaners, regions and landings -/

theorem State.memoriesOk.loadReturn {id : Nat} {value : WireValue} (h : s.memoriesOk) : (s.loadReturn id value).memoriesOk := by
  unfold State.loadReturn
  cases tget s.reqs id with
  | none => exact h
  | some q =>
    refine .cond h ?_
    generalize q.stage = st
    cases st with
    | performed v => exact h.finishLoad
    | remote dev via =>
      refine .cond h ?_
      cases value with
      | fault c => exact h.cutReq
      | relayRefused => exact h.sendAsA
      | value v srcs => exact h.dropsReservation.remoteReturn
    | gleaner => exact h
    | hbm => exact h
    | place => exact .cond h.performAt.finishLoad h
    | bank tag off => exact .cond h.performAt.finishLoad h

theorem State.memoriesOk.storeAck {id : Nat} {answer : WireAck} (h : s.memoriesOk) : (s.storeAck id answer).memoriesOk := by
  unfold State.storeAck
  cases tget s.reqs id with
  | none => exact h
  | some q =>
    dsimp only
    generalize q.op = op
    generalize q.stage = st
    cases op with
    | fence m => exact .cond h.fenceDone.retire h
    | store =>
      cases st with
      | performed v => exact .cond h.finishStore h
      | remote dev via =>
        refine .cond h ?_
        cases answer with
        | fault c => exact h.cutReq
        | relayRefused => exact h.sendAsA
        | done => exact h.sendWrite.finishStore
      | gleaner => exact h
      | hbm => exact h
      | place => exact .cond h.performAt.finishStore h
      | bank tag off => exact .cond h.performAt.finishStore h
    | load | atom | lr | sc | sync | bcarr | bcexp | bcinit =>
      cases st with
      | performed v => exact .cond h.finishStore h
      | bank tag off => exact .cond h.settleBar.finishStore h
      | place | gleaner | hbm | remote => exact h

/-! ### The mailbox and the steward -/

theorem State.memoriesOk.debugThread {ctx : Nat} {r : Ref} {f : State → Answer} (h : s.memoriesOk) (hf : (f s).1.memoriesOk) :
    AnswerOk (s.debugThread ctx r f) := by
  unfold State.debugThread
  split
  exacts [hf, h]

theorem State.memoriesOk.debugOp {ctx : Nat} {d : DebugSub} (h : s.memoriesOk) : AnswerOk (s.debugOp ctx d) := by
  unfold State.debugOp
  split
  · exact h.setComparator
  · exact h.setControl
  · exact h.debugThread h.debugRead
  · exact h.debugThread h.writeBuffered
  · exact h.debugThread h.debugResume
  · split
    · exact h
    · refine .ite ?_ trivial
      exact h.singleStep
  · exact h.debugThread h.killThread.imageFollows.endBudgets
  · exact h.holdService
  · exact h.holdService
  · exact h.killHeld

theorem State.memoriesOk.debugAnswer {m : Msg} (h : s.memoriesOk) : AnswerOk (s.debugAnswer m) := by
  unfold State.debugAnswer
  refine .ite h ?_
  split
  exacts [h, h.debugOp]

theorem State.memoriesOk.debugMessage (h : s.memoriesOk) : (s.debugMessage).memoriesOk := h.mailOpOr fun _ => h.debugAnswer

theorem State.memoriesOk.ctxRegister {m : Msg} (h : s.memoriesOk) : AnswerOk (s.ctxRegister m) := by
  unfold State.ctxRegister
  extract_lets pa
  refine .ite h ?_
  split
  next s1 l e =>
  have h1 : s1.memoriesOk := .ofEq e h.physRead
  extract_lets v new c s2
  refine .ite h1 ?_
  have h2 : s2.memoriesOk := h1.putCtx
  split
  · exact .ite trivial h1
  · next s3 _ e3 =>
    have h3 : s3.memoriesOk := .ofEq e3 h2.pread
    exact State.memoriesOk.ite h3 h1

theorem State.memoriesOk.queueRegister {m : Msg} (h : s.memoriesOk) : AnswerOk (s.queueRegister m) := by
  unfold State.queueRegister
  extract_lets ctx va
  refine .ite h ?_
  split
  · next s1 _ e => exact .ite trivial (State.memoriesOk.ofEq e h.pread)
  · next s1 _ e =>
    have h1 : s1.memoriesOk := .ofEq e h.pread
    refine .ite h1 ?_
    split
    · exact h1.modQueue
    · exact State.memoriesOk.same (h1.fresh)

/-- The pin areas after a pin change: the pages that leave it, the entries, and the page that comes in. -/
theorem State.memoriesOk.repin {new a : Nat} {es : List Nat} {t : State} (h : s.memoriesOk) (e : s.repin new a es = some t) : t.memoriesOk := by
  unfold State.repin at e
  extract_lets s1 s2 at e
  have h1 : s1.memoriesOk := h.foldl fun _ _ h => h.pinOut
  have h2 : s2.memoriesOk := h1.pinWrite
  split at e
  · exact State.memoriesOk_pinIn _ _ _ h2 e
  · exact Option.some.inj e ▸ h2

theorem State.memoriesOk.pinChange {m : Msg} (h : s.memoriesOk) : AnswerOk (s.pinChange m) := by
  unfold State.pinChange
  extract_lets va new
  split
  · exact h
  · next c _ =>
    refine .ite h ?_
    extract_lets s1
    have h1 : s1.memoriesOk := h.countWalk
    split
    · exact h1
    · extract_lets es
      refine .ite h1 (.ite h1 (.ite trivial ?_))
      split
      exacts [(h1.repin ‹_›).invTranslations, h1]

/-! ### Instructions and steps of the device -/

/-- The outcome, where it is a next state, has its memories in the form. -/
def Stays : Host.Outcome State Fault Refusal → Prop
  | .next t => t.memoriesOk
  | _ => True

theorem execBarrierArrive_stays (id : Nat) (h : s.memoriesOk) : Stays (execBarrierArrive id s) := by
  unfold execBarrierArrive
  dsimp only [Stays]
  split
  · exact .cond h.deliverArrival h
  · exact h

/-- Every instruction and every step of the device keeps the form. -/
theorem exec_stays (i : Instr) (h : s.memoriesOk) : Stays (exec i s) := by
  cases i with
  | iadd | isub | imul | imulh | imulhu | imad | divs | divu | rems | remu | imin | imax | iminu | imaxu | iabs | ineg | andb | orb | xorb | andn
    | shl | shr | sar | rotl | popc | clz | brev | bfe | bfi | lea | sel | mov | iadd64 | isub64 | imul64 | mov64 | shl64 | shr64 | sar64 | imad64
    | icmpEq | icmpNe | icmpLt | icmpLe | icmpLtu | icmpLeu | itst | itstn | pand | por | pxor | pandn | pmov | ptor | rtop | pcnt | fadd | fsub
    | fmul | ffma | fmin | fmax | fcmpeq | fcmplt | fcmple | fcmpun | fdiv | fsqrt | frsq | frcp | fexp2 | flog2 | fsinpi | fcospi | ftanh | fsigm
    | fldexp | frint | cvtfi | cvtif | cvtff | cvtpk | fabs | fneg | fcpys | fclass | xacc | xadd | xcvt | xneg | xanc | xdoth | xdotb | xcmp | movi
    | movhi | addi | andi | ori | xori | shli | shri | fmoviF32Bf | fmoviF32Hf | fmoviE4 | fmoviE5 | fmoviB2 | fmoviH2 | faddiF32 | fmuliF32 | ixset
    | ixadd | nop | setrm | clkrd => exact h.runPure
  | rshf | rshfx | rbcast | rballot | rredAddi | rredAddf | rredMin | rredMax | rscani | rscanf | rany | rall => exact h.runRow
  | winb =>
    refine h.runLanes fun s r p t h => ?_
    exact .ite h.setThread h
  | ld | st | lr | sc => exact h.runLanes laneM_keeps
  | lds | sts => exact h.runLanes laneS_keeps
  | atomAdd | atomAnd | atomOr | atomXor | atomMin | atomMax | atomMinu | atomMaxu | atomExch | atomCas | atomFaddF32 | atomXadd128 | atomIncw
    | atomDecw => exact h.runLanes laneAtom_keeps
  | atomsAdd | atomsAnd | atomsOr | atomsXor | atomsMin | atomsMax | atomsMinu | atomsMaxu | atomsExch | atomsCas | atomsFaddF32 | atomsXadd128
    | atomsIncw | atomsDecw => exact h.runLanes laneAtoms_keeps
  | bra => exact h.runLanes braLane_keeps
  | brf => exact h.runLanes brfLane_keeps
  | call => exact h.runLanes callLane_keeps
  | ret => exact h.runLanes retLane_keeps
  | calli => exact h.runLanes calliLane_keeps
  | jmpi => exact h.runLanes jmpiLane_keeps
  | reform | exit => exact h.runLanes fun _ _ _ _ h => h
  | yield => exact h.runLanes yieldLane_keeps
  | pause => exact h.runLanes pauseLane_keeps
  | wait => exact h.runLanes waitLane_keeps
  | fence => exact h.runLanes fenceLane_keeps
  | barp => exact h.runLanes barpLane_keeps
  | barc => exact h.runLanes barcLane_keeps
  | bcinit => exact h.runLanes bcinitLane_keeps
  | bcexp => exact h.runLanes bcexpLane_keeps
  | bcarr => exact h.runLanes bcarrLane_keeps
  | bcwait => exact h.runLanes bcwaitLane_keeps
  | bctest => exact h.runLanes bctestLane_keeps
  | waitw => exact h.runLanes waitwLane_keeps
  | mint => exact h.runLanes mintLane_keeps
  | land => exact h.runLanes landLane_keeps
  | lwait => exact h.runLanes lwaitLane_keeps
  | ltest => exact h.runLanes ltestLane_keeps
  | ldrop => exact h.runLanes ldropLane_keeps
  | rnext => exact h.runLanes rnextLane_keeps
  | mma => exact h.runLanes mmaLane_keeps
  | mmac => exact h.runLanes mmacLane_keeps
  | mwaitb => exact h.runLanes mwaitbLane_keeps
  | mdrain => exact h.runLanes mdrainLane_keeps
  | mzero => exact h.runLanes mzeroLane_keeps
  | mstat => exact h.runLanes mstatLane_keeps
  | apipe => exact h.runLanes apipeLane_keeps
  | cpost => exact h.runLanes cpostLane_keeps
  | qpost => exact h.runLanes qpostLane_keeps
  | ttld => exact h.runLanes ttldLane_keeps
  | ttst => exact h.runLanes ttstLane_keeps
  | ttinv => exact h.runLanes ttinvLane_keeps
  | vbind => exact h.runLanes vbindLane_keeps
  | vunbind => exact h.runLanes vunbindLane_keeps
  | trap => exact h.runLanes trapLane_keeps
  | eret => exact h.runLanes eretLane_keeps
  | srd => exact h.runLanes srdLane_keeps
  | swr => exact h.runLanes swrLane_keeps
  | swrFpark => exact h.runLanes fparkLane_keeps
  | swrLpwc => exact h.runLanes lpwcLane_keeps
  | bkpt => exact h.runLanes bkptLane_keeps
  | cinv =>
    refine h.runLanes (cacheLane_keeps fun s c pa h => ?_)
    extract_lets s1
    have h1 : s1.memoriesOk := by
      dsimp only [s1]
      split
      exacts [h.dropL1Line, h]
    split
    exacts [h1.invL2, h1]
  | cwb =>
    refine h.runLanes (cacheLane_keeps fun s _ pa h => ?_)
    split
    exacts [h.cleanLine, h]
  | tlbinv => exact h.runLanes tlbinvLane_keeps
  | seedset => exact h.runLanes seedsetLane_keeps
  | issueCycle => exact h.issueCycle
  | formDrill => exact h.formDrill
  | furrowAgeEligible => exact h.furrowAge
  | rowRendezvousComplete => exact h.rowRendezvous
  | rowGroupExecute => exact h.rowGroup
  | tokenRead => exact h.tokenRead
  | placeTract => exact h.placeTract
  | quantumExpiry => exact h.quantumExpiry
  | sleepCandidateTimer => exact h.sleepCandidate
  | swapOut => exact h.swapOut
  | swapIn => exact h.swapIn
  | plotRetire => exact h.plotRetire
  | sowingComplete => exact h.sowingComplete
  | threadWake => exact h.threadWake
  | pauseExpiry => exact h.pauseExpiry
  | waitwRecheck => exact h.waitwRecheck
  | barpComplete => exact h.barpComplete
  | barcComplete => exact h.barcComplete
  | loadReturn => exact h.loadReturn
  | storeAck => exact h.storeAck
  | pageWalk => exact h.pageWalk
  | directoryMakeShared => exact h.directoryShare
  | regionWindowEnd => exact h.regionWindowEnd
  | regionMigrate => exact h.regionMigrate
  | regionMerge => exact h.regionMerge
  | lpwFadeTick => exact h.lpwTick
  | glean => exact h.glean
  | viewAtomic => exact h.viewAtomic
  | faratAtomic => exact h.faratAtomic
  | reservationExpiry => exact h.reservationExpiry
  | barrierArrive id => exact execBarrierArrive_stays id h
  | landArrive => exact h.landArrive
  | landAnswer => exact h.landAnswer
  | slotLapse => exact h.slotLapse
  | frontEndTakePacket => exact h.takePacket
  | launch => exact h.launch
  | nopPacket => exact h.nopPacket
  | tokenSignal => exact h.tokenSignal
  | queueCopyHandoff => exact h.copyHandoff
  | qpostRingRoom => exact h.qpostRun
  | copy | quantisingCopy | conditionalCopy | peerCopy => exact h.copyEvent
  | copyComplete => exact h.copyComplete
  | mmaStreamStart => exact h.mmaStart
  | mmaStreamEnd => exact h.mmaEnd
  | mdrainRun => exact h.drainRun
  | mdrainComplete => exact h.drainDone
  | mzeroTurn => exact h.zeroTurn
  | apipeStart => exact h.apStart
  | apipeComplete => exact h.apDone
  | faultRecordFlush => exact h.recordFlush
  | parkingBudgetExpiry => exact h.budgetExpiry
  | faultService => exact h.faultService
  | debugSetComparator => exact h.setComparator
  | debugSetControl => exact h.setControl
  | debugReadState => exact h.debugRead
  | debugWriteState => exact h.debugWrite
  | debugResume => exact h.debugResume
  | debugSingleStep => exact h.singleStep
  | debugKill => exact h.killThread.imageFollows.endBudgets
  | faultsHold | faultsRelease => exact h.holdService
  | faultsKill => exact h.killHeld
  | h2dDoorbell => exact h.doorbell
  | mailboxWrite => exact h.mailboxWrite
  | mailboxAccept => exact h.accept
  | d2hPost => exact h.d2hPost
  | selfTestRecord => exact h.mailOp fun _ => h.selfTestOp
  | attestation => exact h.mailOp fun _ => h.attestOp
  | certificates => exact h.mailOp fun _ => h.certOp
  | contextRegister => exact h.mailOpOr fun _ => h.ctxRegister
  | contextUnregister => exact h.mailOp fun _ => h.ctxUnregister
  | queueRegister => exact h.mailOpOr fun _ => h.queueRegister
  | queueUnregister => exact h.mailOp fun _ => h.queueUnregister
  | pinChange => exact h.mailOpOr fun _ => h.pinChange
  | lazyAdd => exact h.mailOp fun _ => h.lazyAdd
  | discard => exact h.discardStep
  | unfreeze => exact h.mailOp fun _ => h.unfreezeOp
  | apertureSet => exact h.mailOp fun _ => h.apertureOp
  | peerWindowSet => exact h.mailOp fun _ => h.peerWindowOp
  | linkKeyRotate => exact h.mailOp fun _ => h.linkKeyOp
  | memoryKeyRotate => exact h.mailOp fun _ => h.memKeyOp
  | errorLogRead => exact h.mailOp fun _ => h.errorLogOp
  | keyDeliver => exact h.keyDeliver
  | keyInstallAck => exact h.keyInstallAck
  | oldGenerationAcked => exact h.oldGenAcked
  | retireMarker => exact h.retireMarker
  | flitReceive => exact h.flitReceive
  | portLinkUp => exact h.portLinkUp.retryPeers
  | portLeaveService => exact h.portLeave
  | oRemapRelease => exact h.remapRelease
  | destUnreachable => exact h.destUnreachable
  | fabricRequestReceive => exact h.fabricReceive
  | relayForward => exact h.relayForward
  | hostAccess => exact h.hostAccess
  | powerOn => exact State.memoriesOk.powerOn
  | deviceReset => exact State.memoriesOk.deviceReset
  | patrolScrub => exact h.patrolScrub
  | powerThrottle => exact h.throttle
  | thermalTrip => exact h.thermalTrip
  | uncorrectableError => exact h.uncorrectable
  | reachabilityTableChange => exact h.reachChange.retryPeers

/-- The steps that are due by themselves keep the form: each is one of the instructions' steps, but for the debug message. -/
theorem State.memoriesOk.runDue (d : Due) (h : s.memoriesOk) : Stays (s.runDue d) := by
  cases d with
  | issueCycle => exact exec_stays .issueCycle h
  | formDrill core => exact exec_stays (.formDrill core) h
  | furrowAgeEligible core furrow => exact exec_stays (.furrowAgeEligible core furrow) h
  | rowRendezvousComplete tag row => exact exec_stays (.rowRendezvousComplete tag row) h
  | rowGroupExecute tag row => exact exec_stays (.rowGroupExecute tag row) h
  | tokenRead sow => exact exec_stays (.tokenRead sow) h
  | placeTract => exact exec_stays .placeTract h
  | quantumExpiry tract => exact exec_stays (.quantumExpiry tract) h
  | sleepCandidateTimer tract => exact exec_stays (.sleepCandidateTimer tract) h
  | swapOut tract => exact exec_stays (.swapOut tract) h
  | swapIn tract => exact exec_stays (.swapIn tract) h
  | plotRetire tag => exact exec_stays (.plotRetire tag) h
  | sowingComplete sow => exact exec_stays (.sowingComplete sow) h
  | threadWake tag tid => exact exec_stays (.threadWake tag tid) h
  | pauseExpiry tag tid => exact exec_stays (.pauseExpiry tag tid) h
  | waitwRecheck tag tid => exact exec_stays (.waitwRecheck tag tid) h
  | barpComplete tag => exact exec_stays (.barpComplete tag) h
  | barcComplete sow com => exact exec_stays (.barcComplete sow com) h
  | loadReturn id => exact exec_stays (.loadReturn id (.value 0 [])) h
  | storeAck id => exact exec_stays (.storeAck ⟨id, .done⟩) h
  | regionWindowEnd die line => exact exec_stays (.regionWindowEnd ⟨die, line⟩) h
  | regionMigrate die line => exact exec_stays (.regionMigrate ⟨die, line⟩) h
  | regionMerge die line => exact exec_stays (.regionMerge ⟨die, line⟩) h
  | lpwFadeTick ctx n => exact exec_stays (.lpwFadeTick ctx n) h
  | glean id => exact exec_stays (.glean id) h
  | viewAtomic id => exact exec_stays (.viewAtomic id) h
  | faratAtomic id => exact exec_stays (.faratAtomic id) h
  | reservationExpiry tag tid => exact exec_stays (.reservationExpiry tag tid) h
  | barrierArrive id => exact exec_stays (.barrierArrive id) h
  | landArrive id => exact exec_stays (.landArrive id) h
  | landAnswer id => exact exec_stays (.landAnswer id) h
  | slotLapse core slot => exact exec_stays (.slotLapse core slot) h
  | frontEndTakePacket q => exact exec_stays (.frontEndTakePacket q) h
  | launch q => exact exec_stays (.launch q) h
  | nopPacket q => exact exec_stays (.nopPacket q) h
  | tokenSignal q => exact exec_stays (.tokenSignal q) h
  | queueCopyHandoff q => exact exec_stays (.queueCopyHandoff q) h
  | qpostRingRoom id => exact exec_stays (.qpostRingRoom id) h
  | copy id => exact exec_stays (.copy id) h
  | quantisingCopy id => exact exec_stays (.quantisingCopy id) h
  | conditionalCopy id => exact exec_stays (.conditionalCopy id) h
  | peerCopy id => exact exec_stays (.peerCopy id) h
  | copyComplete id => exact exec_stays (.copyComplete id) h
  | mmaStreamStart core arr => exact exec_stays (.mmaStreamStart core arr) h
  | mmaStreamEnd core arr => exact exec_stays (.mmaStreamEnd core arr) h
  | mdrainRun core arr => exact exec_stays (.mdrainRun core arr) h
  | mdrainComplete core arr => exact exec_stays (.mdrainComplete core arr) h
  | mzeroTurn core arr => exact exec_stays (.mzeroTurn core arr) h
  | apipeStart core => exact exec_stays (.apipeStart core) h
  | apipeComplete core => exact exec_stays (.apipeComplete core) h
  | faultRecordFlush ctx => exact exec_stays (.faultRecordFlush ctx) h
  | parkingBudgetExpiry tract => exact exec_stays (.parkingBudgetExpiry tract) h
  | faultService ctx => exact exec_stays (.faultService ⟨ctx, false⟩) h
  | mailboxAccept => exact exec_stays .mailboxAccept h
  | d2hPost => exact exec_stays .d2hPost h
  | selfTestRecord => exact exec_stays .selfTestRecord h
  | attestation => exact exec_stays .attestation h
  | certificates => exact exec_stays .certificates h
  | contextRegister => exact exec_stays .contextRegister h
  | contextUnregister => exact exec_stays .contextUnregister h
  | queueRegister => exact exec_stays .queueRegister h
  | queueUnregister => exact exec_stays .queueUnregister h
  | pinChange => exact exec_stays .pinChange h
  | lazyAdd => exact exec_stays .lazyAdd h
  | discard => exact exec_stays .discard h
  | unfreeze => exact exec_stays .unfreeze h
  | apertureSet => exact exec_stays .apertureSet h
  | peerWindowSet => exact exec_stays .peerWindowSet h
  | linkKeyRotate => exact exec_stays .linkKeyRotate h
  | memoryKeyRotate => exact exec_stays .memoryKeyRotate h
  | errorLogRead => exact exec_stays .errorLogRead h
  | debugMessage => exact h.debugMessage
  | oRemapRelease dst => exact exec_stays (.oRemapRelease dst) h
  | destUnreachable dst => exact exec_stays (.destUnreachable dst) h
  | relayForward id => exact exec_stays (.relayForward id) h

/-! ### The step -/

theorem Stays.endOutcome {c slot extra : Nat} {o : Host.Outcome State Fault Refusal} (h : Stays o) : Stays (endOutcome c slot extra o) := by
  cases o with
  | next t => exact State.memoriesOk.endIssue h
  | fault f => trivial
  | refused f => trivial

/-- A word that decodes runs as its instruction, any other traps. -/
theorem State.memoriesOk.execWord {w : Word} (h : s.memoriesOk) : Stays (s.execWord w) := by
  unfold State.execWord
  split
  exacts [h.illegalWord, exec_stays _ h]

theorem State.memoriesOk.runWord {c slot : Nat} {d : Drill} {w : GroupWord} (h : s.memoriesOk) : Stays (s.runWord c slot d w) := by
  cases w with
  | fault code => exact h.withCur.fetchFault.endIssue
  | word w => exact Stays.endOutcome h.withCur.execWord

theorem State.memoriesOk.issueWord {c slot : Nat} {d : Drill} {r : Ref} (h : s.memoriesOk) : Stays (s.issueWord c slot d r) := by
  unfold State.issueWord
  split
  · have h1 := State.memoriesOk.ofEq ‹_› h.fetch
    split
    exacts [h1, h1.runWord]
  · exact State.memoriesOk.runWord (.ofEq ‹_› h.fetch)

theorem State.memoriesOk.issueNext {c slot : Nat} {d : Drill} (h : s.memoriesOk) : Stays (s.issueNext c slot d) := by
  have h1 : (s.stopLanes d.lanes).memoriesOk := h.stopLanes
  unfold State.issueNext
  dsimp only
  split
  · exact h1
  · split
    exacts [h1, h1.issueWord]

theorem State.memoriesOk.issueDrill {c slot : Nat} (h : s.memoriesOk) : Stays (s.issueDrill c slot) := by
  unfold State.issueDrill
  split
  · exact h
  · split
    · exact h
    · split
      exacts [h.runWord, h.issueNext]

theorem step_stays (h : s.memoriesOk) : Stays (step s) := by
  cases hq : s.issueQ with
  | cons x q =>
    rw [step_of_picked hq]
    have h1 : ({ s with issueQ := q } : State).memoriesOk := h.same
    exact h1.issueDrill
  | nil =>
    cases hl : s.agenda with
    | nil =>
      rw [step, hq, hl]
      exact h.runDue _
    | cons i l =>
      rw [step_of_agenda hq hl]
      have h1 : ({ s with agenda := l } : State).memoriesOk := h.same
      split
      · trivial
      · split
        exacts [h1, exec_stays i h1]

/-- Settles O8: each operation of the model keeps the form (the lemmas of this part), and a step is such an operation or one instruction of a drill. -/
theorem memoriesStayCanonical : Obligations.MemoriesStayCanonical := by
  unfold Obligations.MemoriesStayCanonical
  intro s t h e
  have h1 := step_stays h
  rw [e] at h1
  exact h1

end Sys2Proof.Machine
end

section
/-! LAWS. Region directories, pinned windows and reservations in the course of time (09 R193, R195, R196, R198). -/

namespace Sys2Proof.Machine

/-! ## Regions -/

theorem State.regionWindowEnd_eq {s : State} {die line k : Nat} {e : Region} (h : s.regionOf die line = some (k, e)) :
    s.regionWindowEnd die line = if e.start + 4096 ≤ s.cycle then s.regionDecide k e else s := by
  rw [State.regionWindowEnd, h]

/-- A window with fewer than 64 accesses decides nothing: the next one begins. -/
theorem State.regionDecide_few {s : State} {k : Nat} {e : Region} (h : (e.counts.map Prod.snd).sum < 64) :
    s.regionDecide k e = { s with regionDir := tput s.regionDir k (e.newWindow s.cycle) } := by
  have hs : e.counts.foldl (fun n x => n + x.2) 0 = (e.counts.map Prod.snd).sum := by
    rw [List.sum_eq_foldl, List.foldl_map]
  rw [State.regionDecide]
  simp only [hs, h, if_true]

theorem State.regionMigrate_eq {s : State} {die line k x : Nat} {e : Region} (h : s.regionOf die line = some (k, e)) (hx : e.pending = some x) :
    s.regionMigrate die line =
      { s.moveRegion k e x with regionDir := tput (s.moveRegion k e x).regionDir k { e with slice := x, pending := none, since := s.cycle } } := by
  simp only [State.regionMigrate, h, hx]

/-- What moving a region makes of an L2 line. -/
def movedLine (k : Nat) (e : Region) (slice q : Nat) (x : L2Line) : L2Line :=
  if inRegion k e (q / 4) ∧ q % 4 = keyDie k ∧ x.slice = e.slice then { x with slice := slice } else x

theorem State.moveRegion_l2 (s : State) (k : Nat) (e : Region) (slice q : Nat) :
    tget (s.moveRegion k e slice).l2 q = (tget s.l2 q).map (movedLine k e slice q) := by
  rw [← tget_map s.l2 (movedLine k e slice)]
  refine congrArg (tget · q) (List.map_congr_left fun x _ => ?_)
  dsimp only [movedLine]
  split <;> rfl

theorem State.regionMerge_eq {s : State} {die line k k' : Nat} {e x : Region} (h : s.regionOf die line = some (k, e))
    (hx : s.mergeWith k e = some (k', x)) :
    s.regionMerge die line =
      let m : Region :=
        { (e.newWindow s.cycle) with lines := 2 * e.lines, last := max e.last x.last, since := max e.since x.since, made := min e.made x.made }
      { s with regionDir := tput (tdel s.regionDir (max k k')) (min k k') m } := by
  simp only [State.regionMerge, h, hx]

/-! ## Windows and reservations -/

/-- A window that is due fades by its own word and its own hit. -/
theorem State.lpwTick_ctx {s : State} {ctx n : Nat} {c : Ctx} (h : tget s.ctxs ctx = some c) (hd : c.tickDue n s.time = true) :
    tget (s.lpwTick ctx n).ctxs ctx = some { c with
      lpwc := c.lpwc.set n (fadeTick (c.lpwc.getD n 0) (c.lpwHit.getD n false)), lpwHit := c.lpwHit.set n false,
      lpwTick := c.lpwTick.set n (c.lpwTick.getD n 0 + msec) } := by
  have hm : ∀ f : Ctx → Ctx, tget (s.modCtx ctx f).ctxs ctx = some (f c) := fun f => by
    rw [State.modCtx, tget_tmod_same, h]; rfl
  simp only [State.lpwTick, h, hd, Bool.not_true, Bool.false_eq_true, if_false]
  split
  · exact hm _
  · exact hm _

/-- The fading of a window by 09 R193: a window armed and not hit loses one of FADE, and all of it with the last one. -/
theorem fadeTick_eq (w : Word) (hit : Bool) : fadeTick w hit =
    if bits w.toNat 31 24 ≠ 0 ∧ bits w.toNat 19 0 ≠ 0 ∧ hit = false then
      (if bits w.toNat 31 24 = 1 then 0 else BitVec.ofNat 32 ((bits w.toNat 31 24 - 1) * 2 ^ 24 + bits w.toNat 19 0))
    else w := by
  have hc : (armed w && !hit) = true ↔ bits w.toNat 31 24 ≠ 0 ∧ bits w.toNat 19 0 ≠ 0 ∧ hit = false := by
    simp [armed, and_assoc]
  unfold fadeTick
  by_cases h : (armed w && !hit) = true
  · have hf := (hc.mp h).1
    rw [if_pos h, if_pos (hc.mp h)]
    dsimp only
    have : bits w.toNat 31 24 - 1 = 0 ↔ bits w.toNat 31 24 = 1 := by omega
    simp only [this]
  · rw [if_neg h, if_neg (mt hc.mpr h)]

theorem State.reservationOf_loseReservation (s : State) (r : Ref) : (s.loseReservation r).reservationOf r = none := by
  refine List.find?_eq_none.mpr fun v hv => ?_
  have := List.of_mem_filter hv
  revert this
  cases v.peer <;> simp

theorem State.reservationExpiry_eq {s : State} {r : Ref} {v : Reservation} (h : s.reservationOf r = some v) (hm : v.made + 4096 ≤ s.cycle) :
    s.reservationExpiry r = s.loseReservation r := by
  simp only [State.reservationExpiry, h, hm, if_true]

/-- Settles O39: each step by its own equation, under the conditions that the statement names. -/
theorem directoriesAndTimers : Obligations.DirectoriesAndTimers := by
  unfold Obligations.DirectoriesAndTimers
  intro s
  refine ⟨fun die line k e hk => ⟨fun hs hc => ?_, fun x hx => ?_, fun k' x hx => ?_⟩, fun ctx n c hc hn ht hl => ?_, fun tag tid v hv hm => ?_⟩
  · refine ⟨_, congrArg Host.Outcome.next (State.regionWindowEnd_eq hk), ?_⟩
    rw [if_pos hs, State.regionDecide_few hc]
    exact ⟨tget_tput_same .., rfl⟩
  · refine ⟨_, congrArg Host.Outcome.next (State.regionMigrate_eq hk hx), tget_tput_same .., fun q l hq hr hd hsl => ?_⟩
    show tget (s.moveRegion k e x).l2 q = _
    rw [State.moveRegion_l2, hq, Option.map_some, movedLine, if_pos ⟨hr, hd, hsl⟩]
  · refine ⟨_, _, congrArg Host.Outcome.next (State.regionMerge_eq hk hx), tget_tput_same .., rfl, rfl, fun hne => ?_⟩
    show tget (tput _ _ _) _ = none
    rw [tget_tput_ne _ _ (by omega), tget_tdel_same]
  · have hd : c.tickDue n s.time = true := by
      rw [Ctx.tickDue, Bool.and_eq_true]
      exact ⟨decide_eq_true hn, decide_eq_true ht⟩
    refine ⟨_, _, rfl, State.lpwTick_ctx hc hd, ?_⟩
    dsimp only
    rw [← fadeTick_eq, List.getD_eq_getElem?_getD, List.getElem?_set_self (by omega)]
    rfl
  · exact ⟨_, congrArg Host.Outcome.next (State.reservationExpiry_eq hv hm), State.reservationOf_loseReservation .., rfl⟩

end Sys2Proof.Machine
end

section
/-! LAWS. Walks that claim an unclaimed page, and owned pages that become shared: the entry's own bits and no other byte (09 R178, R179, R194). -/

namespace Sys2Proof.Machine

/-! ## Page-table entries -/

/-- A leaf that a walk finds is the entry at its address, and is valid. -/
theorem State.walkFrom_leaf {s : State} {va p l a : Nat} : ∀ {lvl table : Nat}, s.walkFrom va lvl table = .leaf p l a → s.pteAt a = p ∧ pteV p = true := by
  intro lvl
  induction lvl with
  | zero =>
    intro table h
    unfold State.walkFrom at h
    dsimp only at h
    split at h
    · cases h
    · next hv =>
      split at h
      · cases h
      · split at h
        · split at h <;> cases h
          exact ⟨rfl, by simpa using hv⟩
        · cases h
  | succ lvl ih =>
    intro table h
    unfold State.walkFrom at h
    dsimp only at h
    split at h
    · cases h
    · next hv =>
      split at h
      · cases h
      · split at h
        · split at h <;> cases h
          exact ⟨rfl, by simpa using hv⟩
        · exact ih h

theorem State.walk_leaf {s : State} {ctx va p lvl a : Nat} (h : s.walk ctx va = .leaf p lvl a) : s.pteAt a = p ∧ pteV p = true := by
  unfold State.walk at h
  split at h
  · cases h
  · split at h
    · cases h
    · exact State.walkFrom_leaf h

/-- A valid entry lies on this device, where its bytes are read. -/
theorem State.pteAt_valid {s : State} {a : Nat} (h : pteV (s.pteAt a) = true) :
    (devOf a = s.device ∧ localOf a < 2 ^ 39) ∧ s.pteAt a = s.placeNat none (localOf a) 8 ∧ s.pteAt a < 2 ^ 64 := by
  by_cases hc : devOf a = s.device ∧ localOf a < 2 ^ 39
  · have he : s.pteAt a = leNat (s.readLocal (localOf a) 8) := by rw [State.pteAt, if_pos hc]
    refine ⟨hc, he.trans (s.leNat_placeBytes none 8 _), he ▸ ?_⟩
    have := leNat_lt (s.readLocal (localOf a) 8)
    rwa [State.readLocal, length_mreads] at this
  · rw [State.pteAt, if_neg hc] at h
    exact absurd h (by decide)

/-- Marking an entry that is neither owned nor shared as a core's own. -/
theorem pteMark_claim {p own : Nat} (h9 : bit p 9 = false) (h10 : bit p 10 = false) (hown : own < 128) :
    pteMark p true false own = p + 2 ^ 9 + own * 2 ^ 52 - bits p 58 52 * 2 ^ 52 := by
  simp only [pteMark, bits, bit, beq_eq_false_iff_ne, Bool.toNat_true, Bool.toNat_false] at *
  omega

/-- Marking an owned entry as shared keeps its owner. -/
theorem pteMark_share {p : Nat} (h9 : bit p 9 = true) (h10 : bit p 10 = false) : pteMark p false true (bits p 58 52) = p - 2 ^ 9 + 2 ^ 10 := by
  simp only [pteMark, bits, bit, beq_eq_false_iff_ne, beq_iff_eq, Bool.toNat_true, Bool.toNat_false] at *
  omega

theorem pteMark_lt {p own : Nat} (priv shd : Bool) (h : p < 2 ^ 64) : pteMark p priv shd own < 2 ^ 64 := by
  have h1 := Bool.toNat_le priv
  have h2 := Bool.toNat_le shd
  simp only [pteMark, bits]
  omega

/-! ## Writing an entry -/

theorem State.writePte_wrote (s : State) (pa v : Nat) : Wrote s (s.writePte pa v) none (localOf pa) (natLe 8 v) := by
  have ht := s.touch_like 128 s.physAt 0 pa 8 true true
  obtain ⟨hm, -, hc⟩ := State.writeLocal_spec (s.touch 128 s.physAt 0 pa 8 true true) none (localOf pa) (natLe 8 v) none none
  refine ⟨fun o x hx => ?_, fun hs => State.placeNat_of_bytes _ _ fun i hi => ?_⟩
  · cases o with
    | none =>
      rw [State.placeByte, State.placeByte, State.writePte, hm]
      exact mget_mwrites_out _ _ _ _ (by simp only [true_and, not_and] at hx; omega)
    | some c =>
      rw [State.placeByte, State.placeByte, State.writePte, State.core_of_cores hc c]
      rfl
  · rw [State.placeByte, State.writePte, hm]
    exact mget_mwrites_in _ _ _ _ hs.1 hi

/-- A step that writes one entry of the device leaves it so, and no other byte of memory changed. -/
theorem State.pteAt_of_wrote {s t : State} {a v : Nat} (h : Wrote s t none (localOf a) (natLe 8 v)) (hs : s.memoriesOk) (hl : t.locked = s.locked)
    (hv : pteV (s.pteAt a) = true) (hlt : v < 2 ^ 64) : t.pteAt a = v ∧ MemorySameBut s t none (localOf a) 8 := by
  obtain ⟨hd, -, -⟩ := State.pteAt_valid hv
  have hdev : t.device = s.device := by rw [State.device, State.device, hl]
  have hn : t.placeNat none (localOf a) 8 = v := by
    have := h.value hs.places
    rw [length_natLe, leNat_natLe] at this
    exact this.trans (Nat.mod_eq_of_lt hlt)
  refine ⟨?_, ?_⟩
  · rw [State.pteAt, if_pos (hdev ▸ hd), State.readLocal]
    exact (t.leNat_placeBytes none 8 _).trans hn
  · have := h.but
    rwa [length_natLe] at this

theorem State.markLeaf_single {s : State} {p va lvl a own : Nat} {priv shd : Bool} (h : bit p 4 = false) :
    s.markLeaf p va lvl a priv shd own = s.writePte a (pteMark (s.pteAt a) priv shd own) := by
  simp only [State.markLeaf, leafEntries, pteC, h, Bool.false_eq_true, if_false, List.foldl_cons, List.foldl_nil]

/-! ## Walks -/

/-- A walk of a core for an unclaimed page of home 00 claims it. -/
theorem State.walkFor_claim {s : State} {core ctx va p lvl a : Nat} (hc : core < 128) (hw : s.walk ctx va = .leaf p lvl a) (hh : bits p 6 5 = 0)
    (h9 : bit p 9 = false) (h10 : bit p 10 = false) :
    (s.walkFor core ctx va).1 = ((({ s with unsownReads := s.unsownReads + s.walkMiss ctx va } : State).markLeaf p va lvl a true false core).fillTb core
      (tbOf ctx va (pteMark p true false core) lvl)) := by
  have hn : ¬(128 ≤ core ∨ pteHome p ≠ 0 ∨ (ptePriv p = true ∧ pteOwn p = core) ∨ ((!ptePriv p) = true ∧ pteShd p = true)) := by
    simp [pteHome, ptePriv, pteShd, hh, h9, h10]; omega
  have hp : ¬ptePriv p = true := by simp [ptePriv, h9]
  rw [State.walkFor, State.walkCounted_eq, hw]
  dsimp only
  rw [if_neg hn, if_neg hp]

theorem State.fillTb_pins (s : State) (c : Nat) (e : TbEntry) : PinsSame s (s.fillTb c e) := by
  unfold State.fillTb
  split
  · exact fun _ => rfl
  · exact pinsSame_modCore _ _ _ fun _ => rfl

theorem State.fillTb_mem (s : State) (c : Nat) (e : TbEntry) : (s.fillTb c e).mem = s.mem := by
  unfold State.fillTb
  split <;> rfl

theorem State.linesHome_like (s : State) (e : TbEntry) : Like s (s.linesHome e) := by
  unfold State.linesHome
  split <;> exact ⟨rfl, rfl, rfl, rfl, rfl, Nat.le_refl _, fun _ => rfl, fun _ => rfl, fun _ => rfl, fun _ => rfl⟩

theorem State.walkFor_claim_wrote {s : State} {core ctx va p lvl a : Nat} (hc : core < 128) (hw : s.walk ctx va = .leaf p lvl a) (hh : bits p 6 5 = 0)
    (h4 : bit p 4 = false) (h9 : bit p 9 = false) (h10 : bit p 10 = false) :
    Wrote s (s.walkFor core ctx va).1 none (localOf a) (natLe 8 (pteMark (s.pteAt a) true false core)) := by
  rw [State.walkFor_claim hc hw hh h9 h10, State.markLeaf_single h4]
  have hl : Like s { s with unsownReads := s.unsownReads + s.walkMiss ctx va } :=
    ⟨rfl, rfl, rfl, rfl, rfl, Nat.le_refl _, fun _ => rfl, fun _ => rfl, fun _ => rfl, fun _ => rfl⟩
  rw [hl.tables.pteAt]
  exact (hl.wrote (State.writePte_wrote ..)).of_same (PinsSame.memory (fun _ => State.fillTb_pins ..) (State.fillTb_mem ..))

theorem State.makeShared_wrote {s : State} {ctx va p lvl a : Nat} (h4 : bit p 4 = false) :
    Wrote s (s.makeShared ctx va p lvl a) none (localOf a) (natLe 8 (pteMark (s.pteAt a) false true (pteOwn p))) := by
  have hl := s.linesHome_like (tbOf ctx va p lvl)
  unfold State.makeShared
  rw [State.markLeaf_single h4, hl.tables.pteAt]
  refine (hl.wrote (State.writePte_wrote ..)).of_same (PinsSame.memory (pinsSame_modCore _ _ _ fun _ => rfl) rfl)

/-- Settles O38: a walk and the directory write the one entry of the leaf, marked, and nothing else of memory. -/
theorem walksClaimAndShare : Obligations.WalksClaimAndShare := by
  unfold Obligations.WalksClaimAndShare
  intro s core ctx va p lvl a hs hc hw hh h4
  obtain ⟨hp, hv⟩ := State.walk_leaf hw
  have hlt : p < 2 ^ 64 := hp ▸ (State.pteAt_valid (hp ▸ hv)).2.2
  refine ⟨fun hb => ?_, fun h9 h10 hb => ?_, fun h9 hown h10 => ?_⟩
  · have : (tbFind (s.core core).tb ctx va).isNone = false := by rw [Option.isNone_eq_false_iff, Option.isSome_iff_ne_none]; exact hb
    exact congrArg Host.Outcome.next (by rw [State.pageWalk, this]; simp)
  · have he : s.pageWalk core ctx va = (s.walkFor core ctx va).1 := by rw [State.pageWalk, hb]; simp [hc]
    refine ⟨_, congrArg Host.Outcome.next he, ?_⟩
    have := State.pteAt_of_wrote (State.walkFor_claim_wrote hc hw hh h4 h9 h10) hs (State.walkFor_accessed ..).locked (hp ▸ hv)
      (by rw [hp]; exact pteMark_lt _ _ hlt)
    rwa [hp, pteMark_claim h9 h10 hc] at this
  · have he : s.directoryShare core ctx va =
        if s.ownerBusy (bits p 58 52) (tbOf ctx va p lvl) s.nextId = true then s else s.makeShared ctx va p lvl a := by
      unfold State.directoryShare
      rw [hw]
      cases hbusy : s.ownerBusy (bits p 58 52) (tbOf ctx va p lvl) s.nextId <;> simp [pteHome, ptePriv, pteOwn, hh, h9, hown, hbusy]
    refine ⟨fun hbusy => ?_, fun hbusy => ?_⟩
    · exact congrArg Host.Outcome.next (by rw [he, if_pos hbusy])
    · refine ⟨_, congrArg Host.Outcome.next (he.trans (if_neg (by simp [hbusy]))), ?_⟩
      have := State.pteAt_of_wrote (State.makeShared_wrote (ctx := ctx) (va := va) (lvl := lvl) h4) hs (State.makeShared_accessed ..).locked
        (hp ▸ hv) (by rw [hp]; exact pteMark_lt _ _ hlt)
      rwa [hp, pteOwn, pteMark_share h9 h10] at this

end Sys2Proof.Machine
end

section
/-! LAWS. Boot, trip, throttle, scrub and errors: what each leaves of the device (23 R423, R425 to R429, R433 to R438). -/

namespace Sys2Proof.Machine

/-! ## Boot (23 R425 to R428) -/

/-- What a boot does not touch: memory, work, the cycle, flash and EPOCH. -/
structure BootLeaves (s t : State) : Prop where
  epoch : t.mbox.epoch = s.mbox.epoch
  mem : t.mem = s.mem
  sown : t.sown = s.sown
  plots : t.plots = s.plots
  tracts : t.tracts = s.tracts
  queues : t.queues = s.queues
  ctxs : t.ctxs = s.ctxs
  cores : t.cores = s.cores
  cycle : t.cycle = s.cycle
  flash : t.flash = s.flash

theorem State.boot_leaves (s : State) (st : SelfTest) : BootLeaves s (s.boot st) := by
  unfold State.boot
  dsimp only
  split
  · exact ⟨rfl, rfl, rfl, rfl, rfl, rfl, rfl, rfl, rfl, rfl⟩
  split
  · exact ⟨rfl, rfl, rfl, rfl, rfl, rfl, rfl, rfl, rfl, rfl⟩
  split <;> exact ⟨rfl, rfl, rfl, rfl, rfl, rfl, rfl, rfl, rfl, rfl⟩

/-- A self test that fails: its own record (Table 23.8). -/
theorem State.boot_of_fail (s : State) {st : SelfTest} (h : st.pass = false) :
    (s.boot st).mbox.state = 2 ∧ (s.boot st).steward.stage = 0 ∧ (s.boot st).steward.result = st.result ∧ (s.boot st).steward.unit = st.unit := by
  rw [State.boot, h]
  exact ⟨rfl, rfl, (BitVec.ofNat_toNat ..).trans (BitVec.setWidth_eq _), (BitVec.ofNat_toNat ..).trans (BitVec.setWidth_eq _)⟩

/-- A self test that passes: the verdicts on the image and on the record decide. -/
theorem State.boot_of_pass (s : State) {st : SelfTest} (h : st.pass = true) :
    (s.boot st).mbox.state = (if firmwareVerdict s.flash = 0 ∧ recordVerdict s.flash = 0 then 1 else 2) ∧
    (s.boot st).steward.stage = (if firmwareVerdict s.flash ≠ 0 then 1 else if recordVerdict s.flash ≠ 0 then 2 else 3) ∧
    (s.boot st).steward.result = BitVec.ofNat 8 (if firmwareVerdict s.flash ≠ 0 then firmwareVerdict s.flash else recordVerdict s.flash) ∧
    (s.boot st).locked = if firmwareVerdict s.flash = 0 ∧ recordVerdict s.flash = 0 then lockedOf s.flash.record else s.locked := by
  by_cases hf : firmwareVerdict s.flash = 0
  · by_cases hv : recordVerdict s.flash = 0
    · have hb : s.boot st = ({ s with steward := { s.steward with romver := s.flash.romVer, fwsvn := BitVec.ofNat 32 s.flash.fwSvn } } : State).running := by
        simp [State.boot, h, hf, hv]
      simp only [hb, hf, hv]
      exact ⟨rfl, rfl, rfl, rfl⟩
    · simp [State.boot, h, hf, hv, State.enterFallow]
  · simp [State.boot, h, hf, State.enterFallow]

/-! ## Fallow (23 R429) -/

theorem State.enterFallow_port_down (s : State) (stage result unitk unit detail p : Nat) :
    ((s.enterFallow stage result unitk unit detail).port p).up = false := by
  have h : (s.enterFallow stage result unitk unit detail).fabric.ports = s.fabric.ports.map fun e => (e.1, { e.2 with up := false }) := rfl
  rw [State.port, h, tget_map s.fabric.ports fun _ x => { x with up := false }]
  cases tget s.fabric.ports p <;> rfl

/-! ## The patrol scrub (23 R435) -/

/-- Erasing versions leaves the lines with their keys and bytes. -/
theorem State.eraseRetired_lines (s : State) : s.eraseRetired.poison = s.poison ∧ s.eraseRetired.lineKey = s.lineKey ∧ s.eraseRetired.mem = s.mem := by
  unfold State.eraseRetired
  refine List.foldlRecOn (motive := fun t : State => t.poison = s.poison ∧ t.lineKey = s.lineKey ∧ t.mem = s.mem) _ _ ⟨rfl, rfl, rfl⟩ fun t ht v _ => ?_
  split <;> exact ht

/-- Without a retiring version nothing is erased. -/
theorem State.eraseRetired_of_none {s : State} (h : s.keySlots.contains .retiring = false) : s.eraseRetired = s := by
  have hv : ∀ v, s.keySlots.getD v .empty ≠ .retiring := by
    intro v hv
    rw [List.getD_eq_getElem?_getD] at hv
    cases hg : s.keySlots[v]? with
    | none => rw [hg] at hv; cases hv
    | some k =>
      rw [hg] at hv
      obtain rfl : k = .retiring := hv
      rw [List.contains_eq_mem, decide_eq_false_iff_not] at h
      exact h (List.mem_of_getElem? hg)
  unfold State.eraseRetired
  refine List.foldlRecOn (motive := fun t : State => t = s) _ _ rfl fun t ht v _ => ?_
  subst ht
  exact if_neg fun g => hv v g.1

theorem mem_insertNat (l : List Nat) (x : Nat) : x ∈ insertNat l x := by
  induction l with
  | nil => exact List.mem_singleton_self x
  | cons y t ih =>
    rw [insertNat]
    split
    · subst_vars; exact List.mem_cons_self
    split
    · exact List.mem_cons_self
    · exact List.mem_cons_of_mem _ ih

/-- What the scrub finds at a line: it is poisoned, or all but the count of corrections is as before. -/
theorem State.eccCheck_found (s : State) (y : Nat) :
    (s.eccCheck y).mem = s.mem ∧ (s.eccCheck y).keySlots = s.keySlots ∧ (s.eccCheck y).lineKey = s.lineKey ∧ (s.eccCheck y).curv = s.curv ∧
    (y ∈ (s.eccCheck y).poison ∨ (s.eccCheck y).poison = s.poison) := by
  unfold State.eccCheck State.draw
  dsimp only
  split
  · exact ⟨rfl, rfl, rfl, rfl, .inr rfl⟩
  · exact ⟨rfl, rfl, rfl, rfl, .inr rfl⟩
  · exact ⟨rfl, rfl, rfl, rfl, .inl (mem_insertNat ..)⟩

theorem State.patrolScrub_skips {s : State} {y : Nat} (h : s.sown.contains (rowOf y) = false ∨ y ∈ s.poison) : s.patrolScrub y = s.eraseRetired := by
  have hc : (!s.sown.contains (rowOf y) || s.poison.contains y) = true := by
    rcases h with h | h
    · rw [h]; rfl
    · rw [List.contains_iff_mem.mpr h, Bool.or_true]
  rw [State.patrolScrub, if_pos hc]

theorem State.patrolScrub_reencrypts {s : State} {y v : Nat} (hs : s.sown.contains (rowOf y) = true) (hp : y ∉ s.poison) (hk : tget s.lineKey y = some v)
    (hr : s.keySlots.getD v .empty = .retiring) :
    (y ∈ (s.patrolScrub y).poison ∨ tget (s.patrolScrub y).lineKey y = some s.curv) ∧ (s.patrolScrub y).mem = s.mem := by
  obtain ⟨hm, hks, hlk, hcv, hpo⟩ := s.eccCheck_found y
  have hc : (!s.sown.contains (rowOf y) || s.poison.contains y) = false := by
    rw [hs, List.contains_eq_mem, decide_eq_false hp]; rfl
  rw [State.patrolScrub, if_neg (by rw [hc]; exact Bool.false_ne_true)]
  generalize s.eccCheck y = s0 at hm hks hlk hcv hpo ⊢
  dsimp only
  by_cases hf : y ∈ s0.poison
  · obtain ⟨he, _, hm'⟩ := s0.eraseRetired_lines
    have hf' : s0.poison.contains y = true := List.contains_iff_mem.mpr hf
    rw [if_pos hf']
    dsimp only
    exact ⟨.inl (by rw [he]; exact hf), hm'.trans hm⟩
  · have hf' : ¬ s0.poison.contains y = true := fun g => hf (List.contains_iff_mem.mp g)
    rw [if_neg hf', hlk, hk]
    dsimp only
    rw [if_pos (hks ▸ hr)]
    obtain ⟨_, hl, hm'⟩ := State.eraseRetired_lines { s0 with lineKey := tput s.lineKey y s0.curv }
    rw [hl, hm', hcv]
    exact ⟨.inr (tget_tput_same ..), hm⟩

/-! ## Errors (23 R436, R437) -/

theorem State.dropCached_pins (s : State) (out : Nat → Bool) : PinsSame s (s.dropCached out) :=
  pinsSame_mapCores (fun k => { k with l1 := k.l1.filter fun x => !(out (lineOf x.addr) && devOf x.addr == s.device),
                                       icache := k.icache.filter fun x => !(out (lineOf x.addr) && devOf x.addr == s.device), vbuf := [], vbufAt := s.freeCtr })
    rfl fun _ => rfl

theorem State.flushOne_tracts (s : State) (ctx : Nat) : (s.flushOne ctx).1.tracts = s.tracts := by
  rw [State.flushOne]
  split
  · rfl
  · next c _ =>
    split
    · rfl
    · have hr := s.recSlot_accessed ctx
      split
      · next h => exact (hr.of_eq h).tracts
      · next h => exact (hr.of_eq h).tracts
      · next f _ _ _ t n a h =>
        have h1 := hr.of_eq h
        have hp := t.pwrite_accessed 128 ctx none a (recBytes f) accEngWrite none .a
        split
        · next h => exact (h1.trans (hp.of_eq h)).tracts
        · next u _ h =>
          have h2 := h1.trans (hp.of_eq h)
          have hq := u.pwrite_accessed 128 ctx none c.frqh.toNat (natLe 8 (n + 1)) accEngWrite (some { agent := u.deviceAgent, scope := .sys }) .a
          split
          · next h => exact (h2.trans (hq.of_eq h)).tracts
          · next h => exact (h2.trans (hq.of_eq h)).tracts

theorem State.flushRecs_tracts (ctx : Nat) : ∀ (n : Nat) (s : State), (s.flushRecs ctx n).tracts = s.tracts
  | 0, _ => rfl
  | n + 1, s => by
    rw [State.flushRecs]
    dsimp only
    split
    · rw [State.flushRecs_tracts ctx n, s.flushOne_tracts]
    · exact s.flushOne_tracts ctx

/-- Delivering records changes no tract. -/
theorem State.deliverRecs_tracts (s : State) (ctx : Nat) : (s.deliverRecs ctx).tracts = s.tracts := by
  rw [State.deliverRecs]
  have h1 := State.flushRecs_tracts ctx (s.heldCount ctx) s
  split
  · exact h1
  · have hr := (s.flushRecs ctx (s.heldCount ctx)).recSlot_accessed ctx
    split
    · next h => exact (hr.of_eq h).tracts.trans h1
    · next h => exact (hr.of_eq h).tracts.trans h1

theorem State.report_plots (s : State) (ctx : Nat) (f : FaultRec) : (s.report ctx f).plots = s.plots := State.deliverRecs_plots ..
theorem State.report_tracts (s : State) (ctx : Nat) (f : FaultRec) : (s.report ctx f).tracts = s.tracts := State.deliverRecs_tracts ..

/-- A map that keeps each key keeps each entry, with another value. -/
theorem tget_map_of_keys {α : Type} {g : Nat × α → Nat × α} (hg : ∀ e, (g e).1 = e.1) {x : Nat} {a : α} :
    ∀ {t : Tab α}, tget t x = some a → ∃ b, tget (t.map g) x = some b
  | e :: t, h => by
    rw [List.map_cons, tget, hg]
    rw [tget] at h
    split
    · exact ⟨_, rfl⟩
    · exact tget_map_of_keys hg (by rwa [if_neg ‹_›] at h)

/-- Stopping a tract's threads leaves each plot, with other threads. -/
theorem State.stillTract_plot {s : State} {n k : Nat} {p : Plot} (h : tget s.plots n = some p) : ∃ q, tget (s.stillTract k).plots n = some q := by
  unfold State.stillTract
  refine tget_map_of_keys ?_ h
  exact fun _ => rfl

theorem State.freezeState_freezes {s : State} {tag : Nat} {p : Plot} {tr : Tract} (hp : tget s.plots tag = some p) (ht : tget s.tracts p.tract = some tr) :
    ∃ q x, tget (s.freezeState tag).plots tag = some q ∧ q.frozen = true ∧ tget (s.freezeState tag).tracts p.tract = some x ∧ x.frozen = true ∧
      x.still = true := by
  obtain ⟨q, hq⟩ := State.stillTract_plot (k := p.tract) hp
  have hs : tget (s.stillTract p.tract).tracts p.tract = some { tr with still := true } := by
    change tget (tmod s.tracts p.tract _) p.tract = _
    rw [tget_tmod_same, ht]; rfl
  refine ⟨{ q with frozen := true }, { tr with still := true, frozen := true }, ?_, rfl, ?_, rfl, rfl⟩
  · rw [State.freezeState, hp]
    dsimp only
    rw [State.report_plots]
    change tget (tmod (s.stillTract p.tract).plots tag _) tag = _
    rw [tget_tmod_same, hq]; rfl
  · rw [State.freezeState, hp]
    dsimp only
    rw [State.report_tracts]
    change tget (tmod (s.stillTract p.tract).tracts p.tract _) p.tract = _
    rw [tget_tmod_same, hs]; rfl

/-- Settles O60: the boot by its verdicts, the scrub by what it finds, errors by their site. -/
theorem bootAndErrors : Obligations.BootAndErrors := by
  unfold Obligations.BootAndErrors
  intro s
  refine ⟨fun st i e hi => ?_, ?_, fun w c hwc hclk => ?_, fun w c hw hc => ?_, fun y hr hy => ?_, fun y v hs hp hk hr => ?_, fun y => ?_, fun y => ?_,
    fun tag p tr hp ht => ?_⟩
  · have hexec : exec i s = .next ((s.fresh0 e).boot st) := by
      rcases hi with ⟨rfl, rfl⟩ | ⟨rfl, rfl⟩ <;> rfl
    have hl := (s.fresh0 e).boot_leaves st
    exact ⟨_, hexec, hl.epoch, hl.mem, hl.sown, hl.plots, hl.tracts, hl.queues, hl.ctxs, hl.cores, hl.cycle, hl.flash, (s.fresh0 e).boot_of_fail,
      (s.fresh0 e).boot_of_pass⟩
  · exact ⟨_, rfl, rfl, rfl, rfl, fun p => s.enterFallow_port_down 4 resThermal 0 0 0 p⟩
  · refine ⟨s.throttle w c, rfl, ?_, ?_⟩ <;> rw [State.throttle, if_pos hwc]
    rw [if_pos hclk]
  · refine congrArg Host.Outcome.next (if_neg ?_)
    omega
  · exact congrArg Host.Outcome.next ((State.patrolScrub_skips hy).trans (State.eraseRetired_of_none hr))
  · exact ⟨_, rfl, State.patrolScrub_reencrypts hs hp hk hr⟩
  · exact ⟨_, rfl, PinsSame.memory (fun c => s.dropCached_pins (fun x => x == y) c) rfl, rfl, rfl⟩
  · exact ⟨_, rfl, fun _ _ => rfl, rfl, mem_insertNat ..⟩
  · obtain ⟨q, x, h⟩ := State.freezeState_freezes hp ht
    exact ⟨_, q, x, rfl, h⟩

end Sys2Proof.Machine
end

section
/-! LAWS. The operations of the steward: the registration of a context whose fault-record queue header lies in a line that a window of its CTXID pins already (21 R371, 09 R193). -/

namespace Sys2Proof.Machine

/-- CONTEXT_REGISTER of the descriptor at 1024. -/
def staleWindowMsg : Msg := BitVec.ofNat 512 (0x10 * 2 ^ 32 + 1024 * 2 ^ 64)

/-- No context is registered, and line 8 of the LLC is pinned by window 0 of CTXID 0. That line holds a descriptor of CTXID 0 (ROOT 0x10000, FRQH 1024), whose first
64 bytes are a fault-record queue header of 16 records; the tables at 0x10000 and 0x20000 map the first GiB onto itself. -/
def staleWindowSt : State :=
  { State.reset with
    mem := [(1026, 1), (1048, 4), (1073, 4), (0x10000, 1), (0x10002, 2), (0x20000, 9)]
    llc := [(8, { phys := 0, sectors := 1, dirty := false, pinned := false, used := 0, win := [(0, 0)] })]
    steward := { Steward.reset with current := some staleWindowMsg } }

/-- The header at 1024. -/
def staleWindowHeader : List Byte := [0, 0, 1] ++ List.replicate 21 0 ++ [4] ++ List.replicate 24 0 ++ [4] ++ List.replicate 14 0

theorem staleWindowSt_memoriesOk : staleWindowSt.memoriesOk :=
  ⟨by decide, fun _ h => absurd h List.not_mem_nil, fun _ h => absurd h List.not_mem_nil⟩

/-- The descriptor is registered as far as its own fields go. -/
theorem staleWindowSt_descriptor : badDescriptor (staleWindowSt.placeNat none 1024 128) = false ∧ (ctxOf (staleWindowSt.placeNat none 1024 128)).ctxid = 0 ∧
    (ctxOf (staleWindowSt.placeNat none 1024 128)).headerOk (leNat staleWindowHeader) = true := by
  decide +kernel

/-- The device reads the header through the new context. -/
theorem staleWindowSt_header : (((staleWindowSt.physRead 3 1024 128).1.putCtx (ctxOf (staleWindowSt.placeNat none 1024 128))).pread 128
    (ctxOf (staleWindowSt.placeNat none 1024 128)).ctxid (ctxOf (staleWindowSt.placeNat none 1024 128)).frqh.toNat 64 accEngRead).2 = .ok staleWindowHeader := by
  decide +kernel

theorem prod_eq_of_snd {α β : Type} {x : α × β} {v : β} (h : x.2 = v) : x = (x.1, v) := Prod.ext rfl h

/-- Reading the header hits the pinned line, and the hit counts for window 0 of the context just put. -/
theorem staleWindowSt_hit : (tget (staleWindowSt.mailOpOr 0x10 State.ctxRegister).ctxs 0).map (fun c => c.lpwHit.headD false) = some true := by
  decide +kernel

/-- Refutes O59: CONTEXT_REGISTER reads the fault-record queue header, and where that line is pinned by a window of the same CTXID, the read is a hit of it; so the
context that is entered is not the descriptor's, in which no window has been hit. -/
theorem not_stewardOperations : ¬ Obligations.StewardOperations := by
  unfold Obligations.StewardOperations
  intro h
  obtain ⟨hbad, hid, hhdr⟩ := staleWindowSt_descriptor
  obtain ⟨-, -, -, -, hreg, -⟩ := h staleWindowSt staleWindowMsg staleWindowSt_memoriesOk
  have hmsg : msgArg staleWindowMsg 0 = 1024 := by decide +kernel
  have hop : Executing staleWindowSt staleWindowMsg 0x10 := ⟨rfl, by decide +kernel⟩
  rw [hmsg] at hreg
  obtain ⟨-, hreg⟩ := hreg hop (by decide)
  obtain ⟨t, ht, -, hc⟩ := hreg _ _ hbad rfl (prod_eq_of_snd staleWindowSt_header) hhdr
  obtain rfl : staleWindowSt.mailOpOr 0x10 State.ctxRegister = t := by injection ht
  rw [hid] at hc
  have hhit := staleWindowSt_hit
  rw [hc] at hhit
  exact absurd hhit (by decide +kernel)

end Sys2Proof.Machine
end

section
/-! LAWS. Accesses of one lane: the request that each leaves (13 R255, R262 to R272), and what performing it at its place or bank and taking it off change
(11 R223, 09 R186, R197, R198). -/

namespace Sys2Proof.Machine

/-! ## Issue -/

/-- A request carries what its access asks for. -/
structure Asks (th : Thread) (a : Access) (q : Req) : Prop where
  op : q.op = a.op
  dst : q.dst = a.dst
  words : q.words = a.words
  data : q.data = a.data
  acq : q.acq = a.acq
  rel : q.rel = a.rel
  scope : q.scope = a.scope
  rc : q.rc = a.rc
  rmode : q.rmode = th.rmode

section Issue
variable {s : State} {r : Ref} {p : Plot} {th : Thread} {i : Instr} {F : LaneFn} {a : Access}

/-- The request that is added. -/
theorem State.addReq_eq (s : State) (r : Ref) (th : Thread) (a : Access) (pa : Nat) (src : Option SyncSrc) (x : Spot) :
    ∃ q : Req, s.addReq r th a pa src x = ({ s with reqs := tput s.reqs s.nextId q, nextId := s.nextId + 1 } : State).modThread r
        (fun t => { t with ld := t.ld + a.op.countsLd.toNat, st := t.st + a.op.countsSt.toNat }) ∧
      Asks th a q ∧ q.ref = r ∧ q.core = s.coreOf r ∧ q.va = a.va ∧ q.pa = pa ∧ q.bytes = a.bytes ∧ q.view = x.view ∧ q.stage = x.stage ∧ q.sectors = x.sectors :=
  ⟨_, rfl, ⟨rfl, rfl, rfl, rfl, rfl, rfl, rfl, rfl, rfl⟩, rfl, rfl, rfl, rfl, rfl, rfl, rfl, rfl⟩

/-- A lane that adds a request leaves it and goes on. -/
theorem OneLane.leaves (h : OneLane s r p th) (pa : Nat) (src : Option SyncSrc) (x : Spot) (hx : exec i s = .next (runLanes F s))
    (hF : F s r p th = (s.addReq r th a pa src x, .next)) :
    ∃ t q, exec i s = .next t ∧ Leaves s t r th q ∧ Asks th a q ∧ q.core = p.core ∧ q.va = a.va ∧ q.pa = pa ∧ q.bytes = a.bytes ∧ q.view = x.view ∧
      q.stage = x.stage ∧ q.sectors = x.sectors := by
  obtain ⟨q, he, ha, hr, hc, hq⟩ := s.addReq_eq r th a pa src x
  refine ⟨_, q, hx, ⟨hr, ?_, ?_⟩, ha, hc.trans (State.coreOf_of_plot h.plot), hq⟩
  · rw [h.run_next_eq hF, he, ha.op.symm]
    have hq : Quiet s { s with reqs := tput s.reqs s.nextId q, nextId := s.nextId + 1 } := quiet_of_same rfl rfl rfl
    have h1 := hq.threadOnly (threadOnly_modThread (fun t => { t with ld := t.ld + q.op.countsLd.toNat, st := t.st + q.op.countsSt.toNat })
      ((hq.threads r).trans h.thread))
    exact h1.trans (threadOnly_modThread (fun t => { t with pc := t.pc4 }) h1.1)
  · rw [h.run_next_eq hF, he]
    rfl

/-- An access of this device that reaches its place is barred by nothing, whole line or not (21 Table 21.8). -/
theorem ReachesAt.barredBut {s : State} {c ctx va n acc : Nat} {e : TbEntry} (h : ReachesAt s c ctx va n acc e) (w b : Bool) :
    s.barredBut e (e.pa va) n w b = none := by
  rw [State.barredBut, if_neg (by simp [h.frame])]
  by_cases ha : s.areaOf e va = none
  · have hh := h.here
    have hs := h.sound ha
    rw [State.areaOf] at ha
    have hdev : devOf (e.pa va) = s.device := by simpa [State.away, ha] using hh
    simp [ha, hs, hh, State.hostProtected, State.isHost, hdev]
  · rw [State.areaOf] at ha
    rw [if_pos (Option.isSome_iff_ne_none.mpr ha)]

/-- An access of an ordinary page of this device leaves a request for its place (09 Table 9.4). -/
theorem OneLane.leaves_global {e : TbEntry} (h : OneLane s r p th) (hx : exec i s = .next (runLanes F s)) (hF : F s r p th = issueGlobal a s r p th)
    (hr : Reaches s p a.va a.bytes a.acc e) : ∃ t q, exec i s = .next t ∧ Leaves s t r th q ∧ ToPlace p e a.va a.bytes q ∧ Asks th a q := by
  obtain ⟨hal, hre⟩ := hr
  have hg : ∃ src x, issueGlobal a s r p th = (s.addReq r th a (e.pa a.va) src x, .next) ∧ x.view = [(a.va, e)] ∧
      x.stage = (if e.farat then .hbm else .place) ∧ x.sectors = [e.pa a.va / 32] := by
    rw [issueGlobal, if_neg (not_not.mpr hal), State.coreOf_of_plot h.plot, State.ctxIdOf_of_plot h.plot, hre.translated]
    simp only [hre.ordinary, Bool.false_eq_true, if_false, issueOrdinary, hre.barredBut, hre.here]
    exact ⟨_, _, rfl, rfl, rfl, rfl⟩
  obtain ⟨src, x, hi, hv, hst, hse⟩ := hg
  obtain ⟨t, q, ht, hl, ha, hc, hva, hpa, hb, hqv, hqs, hqe⟩ := h.leaves _ src x hx (hF.trans hi)
  exact ⟨t, q, ht, hl, ⟨hc, hva, hpa, hb, hqv.trans hv, hqs.trans hst, hqe.trans hse⟩, ha⟩

/-- An access of the scratchpad leaves a request for its bank (09 R174). -/
theorem OneLane.leaves_spad {tag x : Nat} (h : OneLane s r p th) (hx : exec i s = .next (runLanes F s)) (hF : F s r p th = issueSpad a s r p th)
    (hal : a.va % a.bytes = 0) (hs : s.spadAt r.tag a.va a.bytes = .ok (tag, x)) :
    ∃ t q, exec i s = .next t ∧ Leaves s t r th q ∧ ToBank p tag x a.bytes q ∧ Asks th a q := by
  have hg : ∃ src, issueSpad a s r p th = (s.addReq r th a a.va src (s.spadSpot tag x), .next) := by
    rw [issueSpad, if_neg (not_not.mpr hal), hs]
    exact ⟨_, rfl⟩
  obtain ⟨src, hi⟩ := hg
  obtain ⟨t, q, ht, hl, ha, hc, -, -, hb, -, hqs, hqe⟩ := h.leaves _ src _ hx (hF.trans hi)
  exact ⟨t, q, ht, hl, ⟨hc, hb, hqs, hqe⟩, ha⟩

/-- The data of a store is the number of its registers. -/
theorem dataOf_eq (s : State) (r : Ref) (p : Plot) (th : Thread) (d : Reg) (n : Nat) : th.dataOf (s.env r p) d n = BitVec.ofNat 128 (storeNat s r p th d n) := by
  unfold Thread.dataOf storeNat
  split
  · exact (BitVec.ofNat_toNat ..).symm
  · exact (BitVec.ofNat_toNat ..).symm
  · exact ((BitVec.ofNat_toNat ..).trans (BitVec.setWidth_eq _)).symm

variable {op : ReqOp} {acc : Nat} {d b : Reg} {rc : RC} {sc : Scope} {acq rel : Bool} {sz : Sz}

/-- The request of a lane of the M format, as of LD, ST, LR and SC (13 R262). -/
theorem OneLane.leaves_laneM {off : BitVec 4} {e : TbEntry} (h : OneLane s r p th)
    (hx : exec i s = .next (runLanes (laneM op acc d b off rc sc acq rel sz) s)) (hr : th.inRanges [(d, szRegs sz), (b, 2)] = true)
    (hre : Reaches s p (addrM s r p th b off (szBytes sz)) (szBytes sz) acc e) :
    ∃ t q, exec i s = .next t ∧ Leaves s t r th q ∧ ToPlace p e (addrM s r p th b off (szBytes sz)) (szBytes sz) q ∧ q.op = op ∧
      q.dst = (if op = .store then .none else th.dstOf d) ∧ q.words = szRegs sz ∧
      (op.stores = true → q.data = BitVec.ofNat 128 (storeNat s r p th d (szRegs sz))) ∧ q.acq = acq ∧ q.rel = rel ∧ q.scope = sc ∧ q.rc = rc := by
  obtain ⟨a, hF, hva, hby, hac, hop, hds, hwd, hda, haq, hrl, hsc, hrc⟩ : ∃ a : Access, laneM op acc d b off rc sc acq rel sz s r p th = issueGlobal a s r p th ∧
      a.va = addrM s r p th b off (szBytes sz) ∧ a.bytes = szBytes sz ∧ a.acc = acc ∧ a.op = op ∧ a.dst = (if op = .store then .none else th.dstOf d) ∧
      a.words = szRegs sz ∧ a.data = (if op.stores then th.dataOf (s.env r p) d (szRegs sz) else 0) ∧ a.acq = acq ∧ a.rel = rel ∧ a.scope = sc ∧ a.rc = rc :=
    ⟨_, if_neg (by simp [hr]), rfl, rfl, rfl, rfl, rfl, rfl, rfl, rfl, rfl, rfl, rfl⟩
  rw [← hva, ← hby, ← hac] at hre
  obtain ⟨t, q, ht, hl, hp, ha⟩ := h.leaves_global hx hF hre
  rw [hva, hby] at hp
  exact ⟨t, q, ht, hl, hp, ha.op.trans hop, ha.dst.trans hds, ha.words.trans hwd,
    fun hs => (ha.data.trans hda).trans ((if_pos hs).trans (dataOf_eq ..)), ha.acq.trans haq, ha.rel.trans hrl, ha.scope.trans hsc, ha.rc.trans hrc⟩

end Issue

/-! ## The frame of an access at its place -/

theorem MemoryOnly.trans {s t u : State} (h : MemoryOnly s t) (g : MemoryOnly t u) : MemoryOnly s u := by
  unfold MemoryOnly at *
  rw [g, h]

/-- No slot of a core waits for more than before. -/
def SlotsKept (s t : State) : Prop := ∀ e ∈ t.cores, e.2.slots = [] ∨ ∃ c ∈ s.cores, c.2.slots = e.2.slots

theorem SlotsKept.trans {s t u : State} (h : SlotsKept s t) (g : SlotsKept t u) : SlotsKept s u := fun e he => by
  rcases g e he with g | ⟨c, hc, hs⟩
  · exact .inl g
  · rcases h c hc with h | ⟨c', hc', hs'⟩
    · exact .inl (hs.symm.trans h)
    · exact .inr ⟨c', hc', hs'.trans hs⟩

theorem slotsKept_of_cores {s t : State} (h : t.cores = s.cores) : SlotsKept s t := fun e he => .inr ⟨e, h ▸ he, rfl⟩

theorem slotsKept_modCore (s : State) (c : Nat) (f : Core → Core) (h : ∀ k, (f k).slots = k.slots) : SlotsKept s (s.modCore c f) := by
  intro e he
  rcases mem_tput _ _ _ e he with rfl | he
  · rw [h]
    cases hk : tget s.cores c with
    | none => exact .inl (by rw [State.core, hk]; rfl)
    | some k => exact .inr ⟨_, mem_of_tget _ _ _ hk, by rw [State.core, hk]; rfl⟩
  · exact .inr ⟨e, he, rfl⟩

theorem SlotsKept.noDelivery {s t : State} {r : Ref} (h : SlotsKept s t) (hn : NoDelivery s r) : NoDelivery t r := by
  intro c k hk x hx hst
  rcases h _ hk with he | ⟨e, he, hs⟩
  · rw [he] at hx; exact absurd hx List.not_mem_nil
  · exact hn e.1 e.2 he x (hs ▸ hx) hst

/-- What an access at its place may change: memory with what is kept of it, and the buffers of cores. -/
structure AtMemory (s t : State) : Prop where
  frame : t = { s with mem := t.mem, sown := t.sown, unsownReads := t.unsownReads, lineKey := t.lineKey, poison := t.poison, l2 := t.l2, llc := t.llc,
                       lineDir := t.lineDir, regionDir := t.regionDir, reservations := t.reservations, relTags := t.relTags, watches := t.watches,
                       cores := t.cores, ctxs := t.ctxs, freeCtr := t.freeCtr }
  slots : SlotsKept s t

theorem AtMemory.refl (s : State) : AtMemory s s := ⟨rfl, slotsKept_of_cores rfl⟩

theorem AtMemory.trans {s t u : State} (h : AtMemory s t) (g : AtMemory t u) : AtMemory s u :=
  ⟨by rw [g.frame, h.frame], h.slots.trans g.slots⟩

theorem AtMemory.plots {s t : State} (h : AtMemory s t) : t.plots = s.plots := by rw [h.frame]
theorem AtMemory.cycle {s t : State} (h : AtMemory s t) : t.cycle = s.cycle := by rw [h.frame]
theorem AtMemory.memoryOnly {s t : State} (h : AtMemory s t) : MemoryOnly s t := by
  unfold MemoryOnly
  rw [h.frame]

theorem atMemory_modCore (s : State) (c : Nat) (f : Core → Core) (h : ∀ k, (f k).slots = k.slots) : AtMemory s (s.modCore c f) :=
  ⟨rfl, slotsKept_modCore s c f h⟩

theorem State.touch_atMemory (s : State) (c : Nat) (e : TbEntry) (va pa n : Nat) (w y : Bool) : AtMemory s (s.touch c e va pa n w y) :=
  ⟨rfl, slotsKept_of_cores rfl⟩

theorem State.countUnsown_atMemory (s : State) (a : Nat) : AtMemory s (s.countUnsown a) := by
  rw [State.countUnsown]
  split <;> exact ⟨rfl, slotsKept_of_cores rfl⟩

theorem State.sowRow_atMemory (s : State) (y : Nat) (k : Option Nat) : AtMemory s (s.sowRow y k) := by
  rw [State.sowRow]
  split <;> exact ⟨rfl, slotsKept_of_cores rfl⟩

theorem AtMemory.ite {s t u : State} (b : Prop) [Decidable b] (h : AtMemory s t) (g : AtMemory s u) : AtMemory s (if b then t else u) := by
  split <;> assumption

theorem State.writeLocal_atMemory (s : State) (w : Option Ref) (a : Nat) (l : List Byte) (k : Option Nat) (src : Option SyncSrc) :
    AtMemory s (s.writeLocal w a l k src) := by
  rw [State.writeLocal]
  split
  · exact AtMemory.refl s
  · have h1 := s.sowRow_atMemory (lineOf a) k
    have h2 := h1.trans (State.sowRow_atMemory _ (lineOf (a + l.length - 1)) k)
    exact (AtMemory.ite _ h1 h2).trans ⟨rfl, slotsKept_of_cores rfl⟩

theorem State.rdPlace_atMemory (s : State) (c : Nat) (e : TbEntry) (va pa n : Nat) (y : Bool) : AtMemory s (s.rdPlace c e va pa n y).1 := by
  rw [State.rdPlace]
  split
  · exact AtMemory.refl s
  · exact (s.touch_atMemory c e va pa n false y).trans (State.countUnsown_atMemory _ _)

theorem State.wrPhys_atMemory (s : State) (c : Nat) (w : Option Ref) (e : TbEntry) (va pa : Nat) (l : List Byte) (src : Option SyncSrc) (y : Bool) :
    AtMemory s (s.wrPhys c w e va pa l src y) := by
  rw [State.wrPhys]
  split
  · refine AtMemory.trans ?_ (atMemory_modCore _ _ _ fun _ => rfl)
    exact ⟨rfl, slotsKept_of_cores rfl⟩
  · exact (s.touch_atMemory c e va pa l.length true y).trans (State.writeLocal_atMemory ..)

/-! ## Performing at the place (09 R186, R197, R198) -/

section Place
variable (s : State) (c : Nat) (r : Ref) (e : TbEntry) (va pa n : Nat) (l : List Byte) (src : Option SyncSrc) (y : Bool)

theorem State.dropL1Line_atMemory : AtMemory s (s.dropL1Line c pa) := atMemory_modCore _ _ _ fun _ => rfl
theorem State.dropVbuf_atMemory : AtMemory s (s.dropVbuf c) := atMemory_modCore _ _ _ fun _ => rfl
theorem State.updateL1_atMemory : AtMemory s (s.updateL1 c pa l src) := atMemory_modCore _ _ _ fun _ => rfl
theorem State.dropReservations_atMemory (w : Option Ref) (a : Nat) : AtMemory s (s.dropReservations w a n) := ⟨rfl, slotsKept_of_cores rfl⟩

theorem State.acquireCaches_atMemory (sc : Scope) : AtMemory s (s.acquireCaches c sc) := by
  rw [State.acquireCaches]
  split
  · exact s.dropVbuf_atMemory c
  · exact (s.dropVbuf_atMemory c).trans (atMemory_modCore _ _ _ fun _ => rfl)

/-- A change of a core's caches is not seen by translation. -/
theorem like_modCore (f : Core → Core) (h : ∀ k, (f k).tb = k.tb ∧ (f k).pinPages = k.pinPages ∧ (f k).pin = k.pin) : Like s (s.modCore c f) := by
  have hk : ∀ {α : Type} (g : Core → α), (∀ k, g (f k) = g k) → ∀ x, g ((s.modCore c f).core x) = g (s.core x) := by
    intro α g hg x
    rw [State.core_modCore]
    split
    · subst_vars; exact hg _
    · rfl
  exact ⟨rfl, rfl, rfl, rfl, rfl, Nat.le_refl _, hk Core.tb fun k => (h k).1, hk Core.pinPages fun k => (h k).2.1, hk Core.pin fun k => (h k).2.2, fun _ => rfl⟩

theorem State.dropL1Line_like : Like s (s.dropL1Line c pa) := like_modCore _ _ _ fun _ => ⟨rfl, rfl, rfl⟩
theorem State.dropVbuf_like : Like s (s.dropVbuf c) := like_modCore _ _ _ fun _ => ⟨rfl, rfl, rfl⟩
theorem State.updateL1_like : Like s (s.updateL1 c pa l src) := like_modCore _ _ _ fun _ => ⟨rfl, rfl, rfl⟩

/-- A read past L1 takes the bytes at their place. -/
theorem State.readPast_spec : AtMemory s (s.readPast c e va pa n).1 ∧ Like s (s.readPast c e va pa n).1 ∧
    (s.readPast c e va pa n).1.reservations = s.reservations ∧
    (s.readPast c e va pa n).2.bytes = s.placeBytes (s.placeOf e pa).1 (s.placeOf e pa).2 n := by
  obtain ⟨hl, hb⟩ := s.rdPlace_like c e va pa n true
  have ha := s.rdPlace_atMemory c e va pa n true
  refine ⟨(ha.trans (State.dropL1Line_atMemory ..)).trans (State.dropVbuf_atMemory ..),
    (hl.trans (State.dropL1Line_like ..)).trans (State.dropVbuf_like ..), ?_, hb⟩
  show (s.rdPlace c e va pa n true).1.reservations = _
  rw [State.rdPlace]
  split
  · rfl
  · rw [State.countUnsown]; split <;> rfl

/-- A load that finds no line in L1, or reads past it, takes the bytes at their place. -/
theorem State.loadAt_spec (acq : Bool) (h : acq = true ∨ e.inL1 = false ∨ l1Find (s.core c).l1 (pa / 128 * 128) = none) :
    AtMemory s (s.loadAt c e va pa n acq).1 ∧ Like s (s.loadAt c e va pa n acq).1 ∧
    (s.loadAt c e va pa n acq).2.bytes = s.placeBytes (s.placeOf e pa).1 (s.placeOf e pa).2 n := by
  have hit : (if (e.inL1 && !acq) = true then l1Find (s.core c).l1 (pa / 128 * 128) else none) = none := by
    rcases h with h | h | h <;> simp [h]
  obtain ⟨hl, hb⟩ := s.rdPlace_like c e va pa n false
  have ha := (s.rdPlace_atMemory c e va pa n false).trans (State.dropVbuf_atMemory _ c)
  have hl' := hl.trans (State.dropVbuf_like _ c)
  have he : ∃ f : Core → Core, (∀ k, (f k).tb = k.tb ∧ (f k).pinPages = k.pinPages ∧ (f k).pin = k.pin ∧ (f k).slots = k.slots) ∧
      s.loadAt c e va pa n acq = (if e.inL1 then (((s.rdPlace c e va pa n false).1.dropVbuf c).dropL1Line c pa).modCore c f
        else (s.rdPlace c e va pa n false).1.dropVbuf c, { bytes := (s.rdPlace c e va pa n false).2, tags := s.placeTags e pa n }) := by
    refine ⟨fun k => { k with l1 := (((s.rdPlace c e va pa n false).1.dropVbuf c).lineNow e.ctx pa :: k.l1).take l1Lines }, fun _ => ⟨rfl, rfl, rfl, rfl⟩, ?_⟩
    simp only [State.loadAt, hit, ite_self]
    rfl
  obtain ⟨f, hf, he⟩ := he
  rw [he]
  refine ⟨.ite _ ((ha.trans (State.dropL1Line_atMemory ..)).trans (atMemory_modCore _ _ _ fun k => (hf k).2.2.2)) ha, ?_, hb⟩
  split
  · exact (hl'.trans (State.dropL1Line_like ..)).trans (like_modCore _ _ _ fun k => ⟨(hf k).1, (hf k).2.1, (hf k).2.2.1⟩)
  · exact hl'

/-- A store writes its bytes at their place. -/
theorem State.storeAt_spec : AtMemory s (s.storeAt c r e va pa l src y) ∧ Wrote s (s.storeAt c r e va pa l src y) (s.placeOf e pa).1 (s.placeOf e pa).2 l := by
  refine ⟨((s.wrPhys_atMemory ..).trans (State.updateL1_atMemory ..)).trans (State.dropVbuf_atMemory ..), ?_⟩
  exact ((s.wrPhys_wrote ..).of_same (State.updateL1_like ..).memory).of_same (State.dropVbuf_like ..).memory

end Place

/-! ## Requests and LANDs on their ways -/

/-- From s to t only requests, LANDs, what ports send and the free counter changed. -/
def Sends (s t : State) : Prop :=
  t = { s with reqs := t.reqs, lands := t.lands, fabric := { s.fabric with ports := t.fabric.ports }, freeCtr := t.freeCtr }

theorem Sends.refl (s : State) : Sends s s := rfl

theorem Sends.trans {s t u : State} (h : Sends s t) (g : Sends t u) : Sends s u := by
  unfold Sends at *
  rw [g, h]

theorem Sends.memoryOnly {s t : State} (h : Sends s t) : MemoryOnly s t := by
  unfold Sends at h
  unfold MemoryOnly
  rw [h]

theorem Sends.reservations {s t : State} (h : Sends s t) : t.reservations = s.reservations := by rw [h]

theorem State.sendFlit_sends (s : State) (p n : Nat) : Sends s (s.sendFlit p n) := by
  rw [State.sendFlit]
  split
  · exact Sends.refl s
  · split
    · exact Sends.refl s
    · rfl

theorem State.sendOn_sends (s : State) (v : Via) : Sends s (s.sendOn v) := by
  rw [State.sendOn]
  split
  · exact s.sendFlit_sends _ _
  · exact Sends.refl s

theorem State.wayNow_sends (s : State) (dst : Nat) (rc : RC) : Sends s (s.wayNow dst rc).1 := by
  unfold State.wayNow
  split
  · exact Sends.refl s
  · split
    · exact Sends.refl s
    · cases rc with
      | o => exact Sends.refl s
      | a => exact Sends.refl s
      | s => rw [State.viaS_fst]; rfl

theorem State.routeNow_sends (s : State) (dst : Nat) (rc : RC) : Sends s (s.routeNow dst rc).1 := (s.wayNow_sends dst rc).trans (State.sendOn_sends ..)

theorem State.sendReqs_sends : ∀ (l : List (Nat × Req)) (s : State), Sends s (s.sendReqs l)
  | [], s => Sends.refl s
  | (id, q) :: l, s => by
    rw [State.sendReqs]
    split
    · split
      · exact State.sendReqs_sends l s
      · have hv : ∀ (u : State) (d : Nat) (v : Via), Sends u (u.setVia id d v) := fun _ _ _ => rfl
        exact ((s.routeNow_sends _ _).trans (hv ..)).trans (State.sendReqs_sends l _)
    · exact State.sendReqs_sends l s

theorem State.sendLands_sends : ∀ (l : List (Nat × Land)) (s : State), Sends s (s.sendLands l)
  | [], s => Sends.refl s
  | (id, x) :: l, s => by
    rw [State.sendLands]
    split
    · split
      · exact State.sendLands_sends l s
      · have hv : ∀ (u : State) (v : Via), Sends u (u.setLandVia id v) := fun _ _ => rfl
        exact ((s.routeNow_sends _ _).trans (hv ..)).trans (State.sendLands_sends l _)
    · exact State.sendLands_sends l s

/-- A request taken off, where no LAND waits for its thread, changes only what is on its way. -/
theorem State.retire_sends {s : State} {r : Ref} (id : Nat) (h : NoDelivery s r) : Sends s (s.retire id r) := by
  have hd : ({ s with reqs := tdel s.reqs id } : State).deliverWaiting r = { s with reqs := tdel s.reqs id } := State.deliverWaiting_none h
  have h1 : Sends s { s with reqs := tdel s.reqs id } := rfl
  rw [State.retire, hd]
  exact (h1.trans (State.sendReqs_sends _ _)).trans (State.sendLands_sends _ _)

/-! ## The end of an access (13 R255, 11 R223, R232, R237) -/

theorem memoryOnly_modThread (s : State) (r : Ref) (f : Thread → Thread) : MemoryOnly s (s.modThread r f) := rfl

theorem AtMemory.quiet {s t : State} (h : AtMemory s t) (hm : MemorySame s t) : Quiet s t :=
  ⟨fun r => State.thread?_of_plots h.plots r, hm, fun n x => State.spadByte_of_plots h.plots n x⟩

/-- A thread has read: of it only SCOPEX and what the next FENCE looks at may have changed. -/
def ReadBy (s t : State) (r : Ref) (th : Thread) : Prop :=
  ∃ u, ThreadOnly s t r u ∧ u = { th with tstat := u.tstat, seen := u.seen } ∧ ∀ b, b ≠ 5 → u.tstat.getLsbD b = th.tstat.getLsbD b

theorem State.readSync_readBy {s : State} {r : Ref} {th : Thread} (acq : Bool) (sc : Scope) (c : Classes) (l : List SyncSrc) (h : s.thread? r = some th) :
    ReadBy s (s.readSync r acq sc c l) r th ∧ MemoryOnly s (s.readSync r acq sc c l) ∧ (s.readSync r acq sc c l).cores = s.cores ∧
      (s.readSync r acq sc c l).reservations = s.reservations := by
  rw [State.readSync]
  split
  · obtain ⟨u, hu, he, hb⟩ := State.observe_acquired sc l h
    refine ⟨⟨u, hu, by rw [he], hb⟩, ?_⟩
    rw [State.observe]
    split <;> exact ⟨rfl, rfl, rfl⟩
  · rw [State.remember]
    split
    · exact ⟨⟨th, threadOnly_refl h, rfl, fun _ _ => rfl⟩, rfl, rfl, rfl⟩
    · exact ⟨⟨_, threadOnly_modThread _ h, rfl, fun _ _ => rfl⟩, rfl, rfl, rfl⟩

/-- What follows an access: the synchronisation of its thread, and the caches that an acquire empties. -/
theorem State.afterAccess_readBy {s : State} {r : Ref} {th : Thread} (core : Nat) (op : ReqOp) (acq : Bool) (sc : Scope) (c : Classes) (l : List SyncSrc)
    (h : s.thread? r = some th) :
    ReadBy s (s.afterAccess core r op acq sc c l) r th ∧ MemoryOnly s (s.afterAccess core r op acq sc c l) ∧ SlotsKept s (s.afterAccess core r op acq sc c l) ∧
      (s.afterAccess core r op acq sc c l).reservations = s.reservations ∧ (op.reads = false → (s.afterAccess core r op acq sc c l).thread? r = some th) := by
  have h1 : ∃ s1, s.afterAccess core r op acq sc c l = (if acq then s1.acquireCaches core sc else s1) ∧ ReadBy s s1 r th ∧ MemoryOnly s s1 ∧
      s1.cores = s.cores ∧ s1.reservations = s.reservations ∧ (op.reads = false → s1.thread? r = some th) := by
    refine ⟨_, rfl, ?_⟩
    cases op.reads with
    | true => exact ⟨(State.readSync_readBy acq sc c l h).1, (State.readSync_readBy acq sc c l h).2.1, (State.readSync_readBy acq sc c l h).2.2.1,
        (State.readSync_readBy acq sc c l h).2.2.2, fun h => absurd h (by decide)⟩
    | false => exact ⟨⟨th, threadOnly_refl h, rfl, fun _ _ => rfl⟩, rfl, rfl, rfl, fun _ => h⟩
  obtain ⟨s1, he, ⟨u, hu, hue, hub⟩, hm, hc, hr, ht⟩ := h1
  rw [he]
  cases acq with
  | false => exact ⟨⟨u, hu, hue, hub⟩, hm, slotsKept_of_cores hc, hr, ht⟩
  | true =>
    have ha := s1.acquireCaches_atMemory core sc
    have hq := s1.acquireCaches_quiet core sc
    refine ⟨⟨u, threadOnly_quiet hu hq, hue, hub⟩, hm.trans ha.memoryOnly, (slotsKept_of_cores hc).trans ha.slots, ?_, fun hf => (hq.threads r).trans (ht hf)⟩
    rw [← hr]
    simp only [if_true, State.acquireCaches]
    split <;> rfl

theorem Thread.setRegs_status (t : Thread) (a : Word) (b : List SeenSrc) : ∀ (l : List Word) (x : Nat) ,
    ({ t with tstat := a, seen := b } : Thread).setRegs x l = { t.setRegs x l with tstat := a, seen := b }
  | [], _ => rfl
  | v :: l, x => by
    rw [Thread.setRegs, Thread.setRegs]
    exact Thread.setRegs_status (t.setReg x v) a b l (x + 1)

/-- A destination is written whatever the thread's status. -/
theorem Thread.wrDst_status (t : Thread) (a : Word) (b : List SeenSrc) (d : Dst) (l : List Word) :
    ({ t with tstat := a, seen := b } : Thread).wrDst d l = { t.wrDst d l with tstat := a, seen := b } := by
  cases d with
  | none => rfl
  | ix => rfl
  | reg x => exact t.setRegs_status a b l x

section Ends
variable {w : State} {id : Nat} {q : Req} {th : Thread}

/-- The end of an access that has been performed and that returns words. -/
theorem State.finishLoad_returns (op : ReqOp) (v : Quad) (flags : Word) (tags : List SyncSrc) (hw : w.thread? q.ref = some th) (hl : th.live = true)
    (hn : NoDelivery w q.ref) :
    let t := (w.afterAccess q.core q.ref q.op q.acq q.scope q.cls tags).finishLoad id q op v flags
    MemoryOnly w t ∧ MemorySame w t ∧ SpadsSame w t ∧ Returned w t id q th (reqWords op q.words v) flags ∧ t.reservations = w.reservations := by
  obtain ⟨⟨u, hu, hue, hub⟩, hm, hsl, hr, -⟩ := State.afterAccess_readBy q.core q.op q.acq q.scope q.cls tags hw
  have hn1 := hsl.noDelivery hn
  generalize w.afterAccess q.core q.ref q.op q.acq q.scope q.cls tags = x at hu hm hr hn1 ⊢
  have hlive : u.live = true := by rw [hue]; exact hl
  obtain ⟨hg, ht⟩ := State.modThread_retire id (fun t =>
    if t.live then { (t.wrDst q.dst (reqWords op q.words v)).orStat flags with ld := t.ld - 1 } else { t with ld := t.ld - 1 }) hu.1 hn1
  have hs : Sends _ (x.finishLoad id q op v flags) := State.retire_sends id (s := x.modThread q.ref _) hn1
  obtain ⟨hth, ho, hms, hsp⟩ := hu.trans ht
  refine ⟨hm.trans ((memoryOnly_modThread x q.ref _).trans hs.memoryOnly), hms, hsp, ⟨hg, ho, _, hth, ?_, fun b hb => ?_⟩, hs.reservations.trans hr⟩
  · rw [if_pos hlive, hue, Thread.wrDst_status]
    rfl
  · rw [if_pos hlive, hue, Thread.wrDst_status]
    show (u.tstat ||| flags).getLsbD b = _
    rw [BitVec.getLsbD_or, BitVec.getLsbD_or, hub b hb]

/-- The end of a store that has been performed. -/
theorem State.finishStore_stored (tags : List SyncSrc) (hw : w.thread? q.ref = some th) (hop : q.op.reads = false) (hn : NoDelivery w q.ref) :
    let t := (w.afterAccess q.core q.ref q.op q.acq q.scope q.cls tags).finishStore id q
    MemoryOnly w t ∧ MemorySame w t ∧ SpadsSame w t ∧ Stored w t id q th := by
  obtain ⟨⟨u, hu, hue, hub⟩, hm, hsl, hr, ht⟩ := State.afterAccess_readBy q.core q.op q.acq q.scope q.cls tags hw
  have hn1 := hsl.noDelivery hn
  have hut : u = th := Option.some.inj (hu.1.symm.trans (ht hop))
  generalize w.afterAccess q.core q.ref q.op q.acq q.scope q.cls tags = x at hu hm hr hn1 ⊢
  obtain ⟨hg, ht⟩ := State.modThread_retire id (fun t => { t with st := t.st - 1 }) hu.1 hn1
  have hs : Sends _ (x.finishStore id q) := State.retire_sends id (s := x.modThread q.ref _) hn1
  obtain ⟨hth, ho, hms, hsp⟩ := hu.trans ht
  exact ⟨hm.trans ((memoryOnly_modThread x q.ref _).trans hs.memoryOnly), hms, hsp, hg, ho, hut ▸ hth⟩

end Ends

/-! ## An access whose turn has come -/

theorem Returned.of_threads {s w t : State} {id : Nat} {q : Req} {th : Thread} {ws : List Word} {f : Word} (h : Returned w t id q th ws f)
    (hw : ∀ r, w.thread? r = s.thread? r) : Returned s t id q th ws f :=
  ⟨h.1, fun r hr => (h.2.1 r hr).trans (hw r), h.2.2⟩

theorem Stored.of_threads {s w t : State} {id : Nat} {q : Req} {th : Thread} (h : Stored w t id q th) (hw : ∀ r, w.thread? r = s.thread? r) :
    Stored s t id q th :=
  ⟨h.1, fun r hr => (h.2.1 r hr).trans (hw r), h.2.2⟩

theorem State.clearPoison_atMemory (s : State) (q : Req) : AtMemory s (s.clearPoison q) ∧ MemorySame s (s.clearPoison q) ∧
    (s.clearPoison q).reservations = s.reservations := by
  rw [State.clearPoison]
  split
  · exact ⟨⟨rfl, slotsKept_of_cores rfl⟩, fun _ _ => rfl, rfl⟩
  · exact ⟨AtMemory.refl s, fun _ _ => rfl, rfl⟩

section Turns
variable {s u : State} {id : Nat} {q : Req} {th : Thread} {e : TbEntry} {x : Performed}

/-- What a request at its place does in its turn. -/
theorem State.performAt_place (h : AtPlace s q e)
    (hx : s.performOrd q.core q.ref e q.pa q.op q.va q.bytes q.data q.rmode q.acq q.src = (u, x)) :
    s.performAt q = ((u.clearPoison q).afterAccess q.core q.ref q.op q.acq q.scope q.cls x.tags, x) := by
  obtain ⟨hst, hv, -, -, hs⟩ := h
  unfold State.performAt
  simp only [hst, hv, hs, hx]

/-- A load, LR, SC or atomic at its place comes to its end in its turn. -/
theorem Turn.returned (ht : Turn s id q th) (hp : AtPlace s q e) (ho : q.op.countsLd = true)
    (hx : s.performOrd q.core q.ref e q.pa q.op q.va q.bytes q.data q.rmode q.acq q.src = (u, x)) (hu : AtMemory s u) (v : WireValue) :
    ∃ t, exec (.loadReturn id v) s = .next t ∧ MemoryOnly s t ∧ MemorySame u t ∧ SpadsSame s t ∧
      Returned s t id q th (reqWords (q.op.withOutcome x.stored) q.words x.value) (BitVec.ofNat 32 x.flags) ∧ t.reservations = u.reservations := by
  obtain ⟨hc, hcm, hcr⟩ := u.clearPoison_atMemory q
  have hw := hu.trans hc
  have hth : ∀ r, (u.clearPoison q).thread? r = s.thread? r := State.thread?_of_plots hw.plots
  obtain ⟨hm, hms, hsp, hret, hres⟩ := State.finishLoad_returns (id := id) (q.op.withOutcome x.stored) x.value (BitVec.ofNat 32 x.flags) x.tags
    ((hth q.ref).trans ht.thread) ht.live (hw.slots.noDelivery ht.delivered)
  refine ⟨_, congrArg Host.Outcome.next ?_, hw.memoryOnly.trans hm, hcm.trans hms, ?_, hret.of_threads hth, hres.trans hcr⟩
  · simp only [State.loadReturn, ht.req, ho, hp.1, ht.turn, State.performAt_place hp hx, Bool.not_true, Bool.false_eq_true, if_false, if_true]
  · exact SpadsSame.trans (fun n y => State.spadByte_of_plots hw.plots n y) hsp

/-- A store at its place comes to its end in its turn. -/
theorem Turn.stored (ht : Turn s id q th) (hp : AtPlace s q e) (ho : q.op = .store)
    (hx : s.performOrd q.core q.ref e q.pa q.op q.va q.bytes q.data q.rmode q.acq q.src = (u, x)) (hu : AtMemory s u) (f : WireAck) :
    ∃ t, exec (.storeAck ⟨id, f⟩) s = .next t ∧ MemoryOnly s t ∧ MemorySame u t ∧ SpadsSame s t ∧ Stored s t id q th := by
  obtain ⟨hc, hcm, -⟩ := u.clearPoison_atMemory q
  have hw := hu.trans hc
  have hth : ∀ r, (u.clearPoison q).thread? r = s.thread? r := State.thread?_of_plots hw.plots
  obtain ⟨hm, hms, hsp, hst⟩ := State.finishStore_stored (id := id) x.tags ((hth q.ref).trans ht.thread) (by rw [ho]; rfl) (hw.slots.noDelivery ht.delivered)
  refine ⟨_, congrArg Host.Outcome.next ?_, hw.memoryOnly.trans hm, hcm.trans hms, ?_, hst.of_threads hth⟩
  · have hstage := hp.1
    simp only [State.storeAck, ht.req, ho, hstage, ht.turn, State.performAt_place hp hx, if_true]
  · exact SpadsSame.trans (fun n y => State.spadByte_of_plots hw.plots n y) hsp

end Turns

/-! ## Bytes of a number -/

/-- A byte of the number at a place. -/
theorem State.placeByte_of_placeNat (s : State) (o : Option Nat) : ∀ (n a i : Nat), i < n → s.placeByte o (a + i) = BitVec.ofNat 8 (s.placeNat o a n / 256 ^ i)
  | n + 1, a, 0, _ => by
    have := (s.placeByte o a).isLt
    apply BitVec.eq_of_toNat_eq
    simp only [State.placeNat, BitVec.toNat_ofNat, Nat.pow_zero, Nat.div_one, Nat.add_zero]
    omega
  | n + 1, a, i + 1, h => by
    have hb := (s.placeByte o a).isLt
    rw [show a + (i + 1) = a + 1 + i by omega, State.placeByte_of_placeNat s o n (a + 1) i (by omega), State.placeNat]
    congr 1
    rw [Nat.pow_succ', ← Nat.div_div_eq_div_mul]
    congr 1
    omega

theorem ofNat8_mod_pow (v n i : Nat) (h : i < n) : BitVec.ofNat 8 (v % 256 ^ n / 256 ^ i) = BitVec.ofNat 8 (v / 256 ^ i) := by
  apply BitVec.eq_of_toNat_eq
  simp only [BitVec.toNat_ofNat]
  have : (256 : Nat) ^ n = 256 ^ i * 256 ^ (n - i) := by rw [← Nat.pow_add]; congr 1; omega
  rw [this, Nat.mod_mul_right_div_self, show (2 : Nat) ^ 8 = 256 from rfl]
  exact Nat.mod_mod_of_dvd _ (dvd_pow_self 256 (by omega))

/-- What has been written is the bytes of the number, and nothing else of memory has changed. -/
theorem Wrote.bytes {s t : State} {o : Option Nat} {a n v : Nat} (h : Wrote s t o a (natLe n v)) (hs : s.memoriesOk) :
    MemorySameBut s t o a n ∧ ∀ i, i < n → t.placeByte o (a + i) = BitVec.ofNat 8 (v / 256 ^ i) := by
  have hb := h.but
  have hv := h.value hs.places
  rw [length_natLe] at hb hv
  refine ⟨hb, fun i hi => ?_⟩
  rw [t.placeByte_of_placeNat o n a i hi, hv, leNat_natLe, ofNat8_mod_pow _ _ _ hi]

/-! ## LD and ST -/

section Place
variable (s : State) (c : Nat) (r : Ref) (e : TbEntry) (pa va n : Nat) (data : Quad) (m : BitVec 2) (acq : Bool) (src : Option SyncSrc)

theorem State.performOrd_load (sz : Sz) : s.performOrd c r e pa (.load sz) va n data m acq src = ((s.loadAt c e va pa n acq).1,
    { value := BitVec.ofNat 128 (leNat (s.loadAt c e va pa n acq).2.bytes), flags := 0, stored := false, tags := (s.loadAt c e va pa n acq).2.tags }) := rfl

theorem State.performOrd_store : s.performOrd c r e pa .store va n data m acq src = (s.storeAt c r e va pa (natLe n data.toNat) src false, Performed.plain true) := rfl

end Place

theorem State.placeNat_bytes (s : State) (e : TbEntry) {q : Req} (h : q.pa = e.pa q.va) :
    leNat (s.placeBytes (s.placeOf e q.pa).1 (s.placeOf e q.pa).2 q.bytes) = s.placeNat (s.areaOf e q.va) (s.offsetOf e q.va) q.bytes := by
  rw [State.leNat_placeBytes, h]; rfl

/-- Settles O24: the request by the lane of the M format, its end by what it takes or writes at its place. -/
theorem loadsAndStores : Obligations.LoadsAndStores := by
  unfold Obligations.LoadsAndStores
  refine ⟨⟨fun s r p th h d a off rc sc ord sz e hr hre => ?_, fun s id q th e sz v ht hp ho hc => ?_⟩,
    fun s r p th h d a off rc sc ord sz e hr hre => ?_, fun s id q th e f hs ht hp ho => ?_⟩
  · obtain ⟨t, q, hx, hl, hpl, hop, hds, hwd, -, haq, hrl, hsc, hrc⟩ := h.leaves_laneM (i := .ld d a off rc sc ord sz) rfl hr hre
    exact ⟨t, q, hx, hl, hpl, hop, hds, hwd, haq, hrl, hsc, hrc⟩
  · obtain ⟨ha, hl, hb⟩ := s.loadAt_spec q.core e q.va q.pa q.bytes q.acq hc
    obtain ⟨t, hx, hmo, hm, hsp, hret, -⟩ := ht.returned hp (by rw [ho]; rfl) (ho ▸ State.performOrd_load ..) ha v
    refine ⟨t, hx, hmo, hl.memory.trans hm, hsp, ?_⟩
    rw [ho, hb, s.placeNat_bytes e hp.2.2.1] at hret
    exact hret
  · obtain ⟨t, q, hx, hl, hpl, hop, -, -, hda, haq, hrl, hsc, hrc⟩ := h.leaves_laneM (i := .st d a off rc sc ord sz) rfl hr hre
    exact ⟨t, q, hx, hl, hpl, hop, hda rfl, haq, hrl, hsc, hrc⟩
  · obtain ⟨ha, hw⟩ := s.storeAt_spec q.core q.ref e q.va q.pa (natLe q.bytes q.data.toNat) q.src false
    obtain ⟨t, hx, hmo, hm, hsp, hst⟩ := ht.stored hp ho (ho ▸ State.performOrd_store ..) ha f
    have hb := (hw.of_same hm).bytes hs
    rw [hp.2.2.1] at hb
    exact ⟨t, hx, hmo, hsp, hst, hb.1, hb.2⟩

end Sys2Proof.Machine
end

section
/-! LAWS. LR and SC: the one reservation of a thread, made, found and given up (13 R271, R272, 09 R198). -/

namespace Sys2Proof.Machine

/-! ## Reservations -/

theorem State.reservationOf_none_iff (s : State) (r : Ref) : s.reservationOf r = none ↔ ∀ v ∈ s.reservations, ¬(v.peer.isNone = true ∧ v.ref = r) := by
  rw [State.reservationOf, List.find?_eq_none]
  simp only [Bool.and_eq_true, beq_iff_eq]

/-- A thread without a reservation gets none where reservations only go. -/
theorem reservationOf_none_of_subset {s t : State} {r : Ref} (h : s.reservationOf r = none) (hs : t.reservations ⊆ s.reservations) : t.reservationOf r = none :=
  (t.reservationOf_none_iff r).mpr fun v hv => (s.reservationOf_none_iff r).mp h v (hs hv)

theorem State.wrPhys_reservations (s : State) (c : Nat) (w : Option Ref) (e : TbEntry) (va pa : Nat) (l : List Byte) (src : Option SyncSrc) (y : Bool) :
    (s.wrPhys c w e va pa l src y).reservations ⊆ s.reservations := by
  have hsow : ∀ (u : State) (y : Nat) (k : Option Nat), (u.sowRow y k).reservations = u.reservations := by
    intro u y k
    rw [State.sowRow]
    split <;> rfl
  rw [State.wrPhys]
  split
  · exact List.filter_subset_self ..
  · rw [State.writeLocal]
    split
    · exact List.Subset.refl _
    · refine List.Subset.trans (List.filter_subset_self ..) ?_
      simp only [apply_ite State.reservations, hsow, ite_self]
      exact List.Subset.refl _

/-- A thread's reservation, once made, is the one it has. -/
theorem State.reserve_reservationOf (s : State) (r : Ref) (table key n : Nat) :
    (s.reserve none r table key n).reservationOf r = some { peer := none, ref := r, table := table, pa := key, bytes := n, made := s.cycle } := by
  have h0 := s.reservationOf_loseReservation r
  have hs : ∀ u : State, u.reservations ⊆ (s.loseReservation r).reservations →
      ({ u with reservations := u.reservations ++ [{ peer := none, ref := r, table := table, pa := key, bytes := n, made := s.cycle }] } : State).reservationOf r =
        some { peer := none, ref := r, table := table, pa := key, bytes := n, made := s.cycle } := by
    intro u hu
    have hn := reservationOf_none_of_subset h0 hu
    rw [State.reservationOf] at hn ⊢
    rw [List.find?_append, hn]
    simp
  refine hs _ ?_
  split
  · exact List.Subset.refl _
  · split
    · exact List.filter_subset_self ..
    · exact List.Subset.refl _

theorem holds_iff (v : Option Reservation) (key n now : Nat) : holds v key n now = true ↔ ∃ y, v = some y ∧ y.pa = key ∧ y.bytes = n ∧ now < y.made + 4096 := by
  cases v with
  | none => simp [holds]
  | some y => simp [holds, and_assoc]

section Place
variable (s : State) (c : Nat) (r : Ref) (e : TbEntry) (pa va n : Nat) (data : Quad) (m : BitVec 2) (acq : Bool) (src : Option SyncSrc)

theorem State.performOrd_lr : s.performOrd c r e pa .lr va n data m acq src =
    ((s.readPast c e va pa n).1.reserve none r (s.reservationTable e pa) (placeKey (s.placeOf e pa)) n,
      { value := BitVec.ofNat 128 (leNat (s.readPast c e va pa n).2.bytes), flags := 0, stored := false, tags := (s.readPast c e va pa n).2.tags }) := rfl

theorem State.performOrd_sc (b : Bool) : s.performOrd c r e pa (.sc b) va n data m acq src =
    (if holds (s.reservationOf r) (placeKey (s.placeOf e pa)) n s.cycle then
        (((s.loseReservation r).readPast c e va pa n).1.storeAt c r e va pa (natLe n data.toNat) src true)
      else ((s.loseReservation r).readPast c e va pa n).1.dropReservations (some r) (placeKey (s.placeOf e pa)) n,
      { value := 0, flags := 0, stored := holds (s.reservationOf r) (placeKey (s.placeOf e pa)) n s.cycle,
        tags := ((s.loseReservation r).readPast c e va pa n).2.tags }) := rfl

theorem State.reserve_atMemory (p : Option Nat) (t k : Nat) : AtMemory s (s.reserve p r t k n) ∧ MemorySame s (s.reserve p r t k n) := by
  rw [State.reserve]
  split
  · exact ⟨⟨rfl, slotsKept_of_cores rfl⟩, fun _ _ => rfl⟩
  · split <;> exact ⟨⟨rfl, slotsKept_of_cores rfl⟩, fun _ _ => rfl⟩

theorem State.loseReservation_like : AtMemory s (s.loseReservation r) ∧ Like s (s.loseReservation r) :=
  ⟨⟨rfl, slotsKept_of_cores rfl⟩, rfl, rfl, rfl, rfl, rfl, Nat.le_refl _, fun _ => rfl, fun _ => rfl, fun _ => rfl, fun _ => rfl⟩

end Place

section Ends
variable {s : State} {id : Nat} {q : Req} {th : Thread} {e : TbEntry}

/-- An SC gives its thread's reservation up, whether it stores or not. -/
theorem Turn.sc_stores (hs : s.memoriesOk) (ht : Turn s id q th) (hp : AtPlace s q e) {b : Bool} (ho : q.op = .sc b)
    (hh : holds (s.reservationOf q.ref) (placeKey (s.placeOf e q.pa)) q.bytes s.cycle = true) (v : WireValue) :
    ∃ t, exec (.loadReturn id v) s = .next t ∧ MemoryOnly s t ∧ SpadsSame s t ∧ t.reservationOf q.ref = none ∧
      Returned s t id q th (0 :: List.replicate (q.words - 1) 0) 0 ∧ MemorySameBut s t (s.areaOf e q.va) (s.offsetOf e q.va) q.bytes ∧
      ∀ i, i < q.bytes → t.placeByte (s.areaOf e q.va) (s.offsetOf e q.va + i) = BitVec.ofNat 8 (q.data.toNat / 256 ^ i) := by
  obtain ⟨ha1, hl1⟩ := s.loseReservation_like q.ref
  obtain ⟨ha2, hl2, hr2, -⟩ := (s.loseReservation q.ref).readPast_spec q.core e q.va q.pa q.bytes
  obtain ⟨ha3, hw⟩ := ((s.loseReservation q.ref).readPast q.core e q.va q.pa q.bytes).1.storeAt_spec q.core q.ref e q.va q.pa (natLe q.bytes q.data.toNat) q.src true
  have hl := hl1.trans hl2
  have hx := s.performOrd_sc q.core q.ref e q.pa q.va q.bytes q.data q.rmode q.acq q.src b
  rw [hh, if_pos rfl] at hx
  obtain ⟨t, hex, hmo, hm, hsp, hret, hres⟩ := ht.returned hp (by rw [ho]; rfl) (ho ▸ hx) ((ha1.trans ha2).trans ha3) v
  have hpl : s.placeOf e q.pa = s.placeOf e (e.pa q.va) := congrArg (s.placeOf e) hp.2.2.1
  rw [hl.placeOf, hpl] at hw
  obtain ⟨hbut, hby⟩ := ((hl.wrote hw).of_same hm).bytes hs
  refine ⟨t, hex, hmo, hsp, ?_, ?_, hbut, hby⟩
  · refine reservationOf_none_of_subset (s.reservationOf_loseReservation q.ref) ?_
    rw [hres, ← hr2]
    exact State.wrPhys_reservations ..
  · rw [ho] at hret
    exact hret

/-- An SC without the reservation stores nothing. -/
theorem Turn.sc_fails (ht : Turn s id q th) (hp : AtPlace s q e) {b : Bool} (ho : q.op = .sc b)
    (hh : holds (s.reservationOf q.ref) (placeKey (s.placeOf e q.pa)) q.bytes s.cycle = false) (v : WireValue) :
    ∃ t, exec (.loadReturn id v) s = .next t ∧ MemoryOnly s t ∧ SpadsSame s t ∧ t.reservationOf q.ref = none ∧ MemorySame s t ∧
      Returned s t id q th (1 :: List.replicate (q.words - 1) 0) 0 := by
  obtain ⟨ha1, hl1⟩ := s.loseReservation_like q.ref
  obtain ⟨ha2, hl2, hr2, -⟩ := (s.loseReservation q.ref).readPast_spec q.core e q.va q.pa q.bytes
  have ha3 := ((s.loseReservation q.ref).readPast q.core e q.va q.pa q.bytes).1.dropReservations_atMemory q.bytes (some q.ref) (placeKey (s.placeOf e q.pa))
  have hx := s.performOrd_sc q.core q.ref e q.pa q.va q.bytes q.data q.rmode q.acq q.src b
  rw [hh, if_neg Bool.false_ne_true] at hx
  obtain ⟨t, hex, hmo, hm, hsp, hret, hres⟩ := ht.returned hp (by rw [ho]; rfl) (ho ▸ hx) ((ha1.trans ha2).trans ha3) v
  refine ⟨t, hex, hmo, hsp, ?_, (hl1.trans hl2).memory.trans hm, ?_⟩
  · refine reservationOf_none_of_subset (s.reservationOf_loseReservation q.ref) ?_
    rw [hres, ← hr2]
    exact List.filter_subset_self ..
  · rw [ho] at hret
    exact hret

/-- LR loads at its place and makes the reservation. -/
theorem Turn.lr (ht : Turn s id q th) (hp : AtPlace s q e) (ho : q.op = .lr) (v : WireValue) :
    ∃ t, exec (.loadReturn id v) s = .next t ∧ MemoryOnly s t ∧ MemorySame s t ∧ SpadsSame s t ∧
      Returned s t id q th ((words128 (BitVec.ofNat 128 (s.placeNat (s.areaOf e q.va) (s.offsetOf e q.va) q.bytes))).take q.words) 0 ∧
      t.reservationOf q.ref = some { peer := none, ref := q.ref, table := s.reservationTable e q.pa, pa := placeKey (s.placeOf e q.pa), bytes := q.bytes,
                                     made := s.cycle } := by
  obtain ⟨ha1, hl1, -, hb⟩ := s.readPast_spec q.core e q.va q.pa q.bytes
  obtain ⟨ha2, hm2⟩ := (s.readPast q.core e q.va q.pa q.bytes).1.reserve_atMemory q.ref q.bytes none (s.reservationTable e q.pa) (placeKey (s.placeOf e q.pa))
  have hx := s.performOrd_lr q.core q.ref e q.pa q.va q.bytes q.data q.rmode q.acq q.src
  rw [hb, s.placeNat_bytes e hp.2.2.1] at hx
  obtain ⟨t, hex, hmo, hm, hsp, hret, hres⟩ := ht.returned hp (by rw [ho]; rfl) (ho ▸ hx) (ha1.trans ha2) v
  refine ⟨t, hex, hmo, (hl1.memory.trans hm2).trans hm, hsp, ?_, ?_⟩
  · rw [ho] at hret
    exact hret
  · rw [State.reservationOf, hres]
    exact (State.reserve_reservationOf ..).trans (by rw [ha1.cycle])

end Ends

/-- Settles O25: LR by the reservation it makes, SC by the one it finds. -/
theorem reservedAccesses : Obligations.ReservedAccesses := by
  unfold Obligations.ReservedAccesses
  refine ⟨fun s r p th h d a off rc sc ord sz e hr => ⟨fun hre => ?_, fun hre => ?_⟩, fun s id q th e v hs ht hp => ⟨fun ho => ht.lr hp ho v, fun b ho => ⟨fun y hy hk hb hm => ?_, fun hn => ?_⟩⟩⟩
  · obtain ⟨t, q, hx, hl, hpl, hop, hds, hwd, -, haq, hrl, -⟩ := h.leaves_laneM (i := .lr d a off rc sc ord sz) rfl hr hre
    exact ⟨t, q, hx, hl, hpl, hop, hds, hwd, haq, hrl⟩
  · obtain ⟨t, q, hx, hl, hpl, hop, hds, hwd, hda, haq, hrl, -⟩ := h.leaves_laneM (i := .sc d a off rc sc ord sz) rfl hr hre
    exact ⟨t, q, hx, hl, hpl, hop, hds, hwd, hda rfl, haq, hrl⟩
  · exact ht.sc_stores hs hp ho ((holds_iff ..).mpr ⟨y, hy, hk, hb, hm⟩) v
  · refine ht.sc_fails hp ho (Bool.eq_false_iff.mpr fun hh => ?_) v
    obtain ⟨y, hy, hc⟩ := (holds_iff ..).mp hh
    exact hn y hy hc

end Sys2Proof.Machine
end

section
/-! LAWS. Scratchpad accesses: the bytes that a bank gives and takes, and Table 13.3 at it (13 R264, R266 to R269). -/

namespace Sys2Proof.Machine

/-! ## Bytes of a scratchpad -/

theorem natLe_getD : ∀ (n v i : Nat), i < n → (natLe n v).getD i 0 = BitVec.ofNat 8 (v / 256 ^ i)
  | n + 1, v, 0, _ => by simp [natLe]
  | n + 1, v, i + 1, h => by
    rw [natLe, List.getD_cons_succ, natLe_getD n (v / 256) i (by omega), Nat.div_div_eq_div_mul, Nat.pow_succ']

theorem State.spadNat_of_bytes {s : State} {tag : Nat} : ∀ (l : List Byte) (a : Nat), (∀ i, i < l.length → s.spadByte tag (a + i) = l.getD i 0) →
    s.spadNat tag a l.length = leNat l
  | [], _, _ => rfl
  | b :: l, a, h => by
    have h0 : s.spadByte tag a = b := h 0 (by simp)
    have hl : s.spadNat tag (a + 1) l.length = leNat l := State.spadNat_of_bytes l (a + 1) fun i hi => by
      have := h (i + 1) (by simpa using hi)
      rw [Nat.add_assoc, Nat.add_comm 1 i]
      simpa using this
    rw [List.length_cons, State.spadNat, hl, h0]
    rfl

theorem SpadsSame.spadNat {s t : State} (h : SpadsSame s t) (tag : Nat) : ∀ n a, t.spadNat tag a n = s.spadNat tag a n
  | 0, _ => rfl
  | n + 1, a => by rw [State.spadNat, State.spadNat, h, h.spadNat tag n]

theorem State.spadNat_lt (s : State) (tag x n : Nat) : s.spadNat tag x n < 2 ^ (8 * n) := by
  have h := leNat_lt (s.spadRead tag x n)
  rwa [s.length_spadRead, s.leNat_spadRead, show (256 : Nat) = 2 ^ 8 from rfl, ← Nat.pow_mul] at h

/-! ## Writing at a bank (13 R264, 17 R343) -/

/-- The hazard checker changes neither memory nor a scratchpad nor a thread. -/
structure Watches (s t : State) : Prop where
  mem : t.mem = s.mem
  cores : t.cores = s.cores
  plot : ∀ n, (tget t.plots n).map (fun p => (p.threads, p.spad)) = (tget s.plots n).map fun p => (p.threads, p.spad)

theorem State.hazards_watches (s : State) (who : Writer) (tag off n : Nat) : Watches s (s.hazards who tag off n) := by
  unfold State.hazards
  refine List.foldlRecOn (motive := Watches s) _ _ ⟨rfl, rfl, fun _ => rfl⟩ fun t ht c _ => ?_
  rw [State.reportHazards]
  dsimp only
  split
  · exact ht
  · refine ⟨ht.mem, ht.cores, fun k => Eq.trans ?_ (ht.plot k)⟩
    show (tget (tmod t.plots c.ref.tag fun p => p.setHaz c.tile) k).map _ = _
    rw [tget_tmod]
    split
    · cases tget t.plots k <;> rfl
    · rfl

/-- Bytes written at a bank. -/
structure SpadWrote (s t : State) (tag x : Nat) (l : List Byte) : Prop where
  mem : t.mem = s.mem
  cores : t.cores = s.cores
  threads : ∀ r, t.thread? r = s.thread? r
  but : SpadsSameBut s t tag x l.length
  bytes : ∀ i, i < l.length → t.spadByte tag (x + i) = l.getD i 0

theorem State.spadWrite_wrote {s : State} {tag : Nat} {g : Plot} (who : Writer) (x : Nat) (l : List Byte) (src : Option SyncSrc) (hg : tget s.plots tag = some g)
    (hs : s.memoriesOk) : SpadWrote s (s.spadWrite who tag x l src) tag x l := by
  have hw := s.hazards_watches who tag x l.length
  have hplot : ∀ n, (tget (s.spadWrite who tag x l src).plots n).map (fun p => (p.threads, p.spad)) =
      (tget s.plots n).map fun p => (p.threads, if n = tag then mwrites p.spad x l else p.spad) := by
    intro n
    have hn := hw.plot n
    have he : (s.spadWrite who tag x l src).plots = tmod (s.hazards who tag x l.length).plots tag fun p =>
      { p with spad := mwrites p.spad x l, relTags := tagBytes p.relTags x l.length src } := rfl
    rw [he, tget_tmod]
    cases hp : tget (s.hazards who tag x l.length).plots n with
    | none => cases hq : tget s.plots n with
      | none => simp
      | some q => rw [hp, hq] at hn; cases hn
    | some p => cases hq : tget s.plots n with
      | none => rw [hp, hq] at hn; cases hn
      | some q =>
        rw [hp, hq] at hn
        obtain ⟨ht, hsp⟩ := Prod.mk.inj (Option.some.inj hn)
        split <;> simp [*]
  have hbyte : ∀ n a, (s.spadWrite who tag x l src).spadByte n a = if n = tag then mget (mwrites g.spad x l) a else s.spadByte n a := by
    intro n a
    have h1 := congrArg (fun o : Option (Tab Thread × Mem) => (o.map fun y => mget y.2 a).getD 0) (hplot n)
    simp only [Option.map_map] at h1
    rw [State.spadByte_eq, State.spadByte_eq]
    refine h1.trans ?_
    by_cases hn : n = tag
    · subst hn; simp [hg]
    · simp only [if_neg hn]; rfl
  refine ⟨hw.mem, hw.cores, fun r => ?_, fun n a hna => ?_, fun i hi => ?_⟩
  · have h1 := congrArg (fun o : Option (Tab Thread × Mem) => o.bind fun y => tget y.1 r.tid) (hplot r.tag)
    rw [State.thread?, State.thread?]
    cases hp : tget (s.spadWrite who tag x l src).plots r.tag <;> cases hq : tget s.plots r.tag <;> rw [hp, hq] at h1 <;> simpa using h1
  · rw [hbyte]
    split
    · next hn =>
      subst hn
      rw [mget_mwrites_out l _ _ _ (by simp only [true_and, not_and] at hna; omega), State.spadByte, hg]
    · rfl
  · rw [hbyte, if_pos rfl]
    exact mget_mwrites_in l _ _ _ (hs.2.1 _ (mem_of_tget _ _ _ hg)) hi

/-! ## Table 13.3 -/

theorem fmtF32_signBit_le (b : Bool) : fmtF32.signBit b ≤ 2 ^ 31 := by cases b <;> decide

theorem fmtF32_infCode_lt (b : Bool) : fmtF32.infCode b < 2 ^ 32 := by cases b <;> decide

theorem fmtF32_max_lt (b : Bool) : fmtF32.signBit b + fmtF32.maxCode < 2 ^ 32 := by cases b <;> decide

/-- The code of a magnitude, or what stands for it where it is too large. -/
theorem fmtF32_code_lt (b : Bool) (m : Mode) (code g g' : Nat) :
    (if fmtF32.maxCode < code then
      (if !fmtF32.infinity then fmtF32.signBit b + fmtF32.maxCode
        else if m = 0 then fmtF32.infCode b
        else if m = 1 then fmtF32.signBit b + fmtF32.maxCode
        else if m = 2 then (if b then fmtF32.signBit b + fmtF32.maxCode else fmtF32.infCode b)
        else (if b then fmtF32.infCode b else fmtF32.signBit b + fmtF32.maxCode), g)
      else (fmtF32.signBit b + code, g')).1 < 2 ^ 32 := by
  have hi := fmtF32_infCode_lt b
  have hm := fmtF32_max_lt b
  split
  · dsimp only
    split_ifs <;> assumption
  · dsimp only
    omega

/-- A rounded F32 value is a code of 32 bits. -/
theorem fmtF32_round_lt (m : Mode) (x : XReal) : (fmtF32.round m x).1 < 2 ^ 32 := by
  cases x with
  | nan q => exact (by decide : fmtF32.nanOf.1 < 2 ^ 32)
  | inf b => exact fmtF32_infCode_lt b
  | fin b n d =>
    rw [Fmt.round]
    split
    · exact Nat.lt_of_le_of_lt (fmtF32_signBit_le b) (by decide)
    · exact fmtF32_code_lt ..

theorem sgn_inj {w x y : Nat} (hx : x < 2 ^ (w + 1)) (hy : y < 2 ^ (w + 1)) (h : sgn (w + 1) x = sgn (w + 1) y) : x = y := by
  rw [← unsgn_sgn hx, ← unsgn_sgn hy, h]

theorem atomWidth.fadd {aop n : Nat} (h : atomWidth aop n) (ha : aop = 10) : n = 4 := by
  rw [atomWidth] at h
  split_ifs at h <;> omega

theorem atomWidth.axa {aop n : Nat} (h : atomWidth aop n) (ha : aop = 11) : n = 16 := by
  rw [atomWidth] at h
  split_ifs at h <;> omega

/-- What the model writes and raises for an atomic is Table 13.3, and a number of its width. -/
theorem atomNew_table {aop n old : Nat} (v : Nat) (m : Mode) (h10 : aop = 10 → n = 4) (h11 : aop = 11 → n = 16) (ho : old < 2 ^ (8 * n)) :
    atomNew aop n old v m = (tableNew aop n old v m, tableFlags aop old v m) ∧ ∀ y, tableNew aop n old v m = some y → y < 2 ^ (8 * n) := by
  have hx : v % 2 ^ (8 * n) < 2 ^ (8 * n) := Nat.mod_lt _ (Nat.two_pow_pos _)
  unfold atomNew tableNew tableFlags
  dsimp only
  generalize hv : v % 2 ^ (8 * n) = x at hx ⊢
  match aop, h10, h11 with
  | 0, _, _ => exact ⟨rfl, fun y h => Option.some.inj h ▸ Nat.mod_lt _ (Nat.two_pow_pos _)⟩
  | 1, _, _ => exact ⟨rfl, fun y h => Option.some.inj h ▸ Nat.and_lt_two_pow _ hx⟩
  | 2, _, _ => exact ⟨rfl, fun y h => Option.some.inj h ▸ Nat.or_lt_two_pow ho hx⟩
  | 3, _, _ => exact ⟨rfl, fun y h => Option.some.inj h ▸ Nat.xor_lt_two_pow ho hx⟩
  | 4, _, _ =>
    refine ⟨?_, fun y h => ?_⟩
    · by_cases h : sgn (8 * n) x < sgn (8 * n) old <;> simp [h, not_le.mpr, not_lt.mp]
    · have := Option.some.inj h
      split_ifs at this <;> omega
  | 5, _, _ =>
    refine ⟨?_, fun y h => ?_⟩
    · have hinj : sgn (8 * n) old = sgn (8 * n) x → old = x := by
        cases hw : 8 * n with
        | zero =>
          rw [hw] at ho hx
          omega
        | succ w =>
          rw [hw] at ho hx
          exact sgn_inj ho hx
      rcases lt_trichotomy (sgn (8 * n) old) (sgn (8 * n) x) with h | h | h
      · simp [h, h.le]
      · simp [hinj h]
      · simp [not_le.mpr h, not_lt.mpr h.le]
    · have := Option.some.inj h
      split_ifs at this <;> omega
  | 6, _, _ =>
    refine ⟨?_, fun y h => ?_⟩
    · by_cases h : x < old <;> simp [h] <;> omega
    · have := Option.some.inj h
      split_ifs at this <;> omega
  | 7, _, _ =>
    refine ⟨?_, fun y h => ?_⟩
    · by_cases h : old < x <;> simp [h] <;> omega
    · have := Option.some.inj h
      split_ifs at this <;> omega
  | 8, _, _ => exact ⟨rfl, fun y h => Option.some.inj h ▸ hx⟩
  | 9, _, _ =>
    refine ⟨rfl, fun y h => ?_⟩
    have h9 : (if old = x then some (v / 2 ^ (8 * n) % 2 ^ (8 * n)) else none) = some y := h
    split_ifs at h9
    exact Option.some.inj h9 ▸ Nat.mod_lt _ (Nat.two_pow_pos _)
  | 10, h10, _ =>
    obtain rfl : n = 4 := h10 rfl
    exact ⟨by subst hv; rfl, fun y h => Option.some.inj h ▸ fmtF32_round_lt ..⟩
  | 11, _, h11 =>
    obtain rfl : n = 16 := h11 rfl
    exact ⟨rfl, fun y h => Option.some.inj h ▸ BitVec.isLt _⟩
  | 12, _, _ =>
    refine ⟨?_, fun y h => ?_⟩
    · by_cases h : x ≤ old
      · simp [h]
      · simp [h]
        exact Nat.mod_eq_of_lt (by omega)
    · have := Option.some.inj h
      split_ifs at this <;> omega
  | k + 13, _, _ =>
    refine ⟨rfl, fun y h => ?_⟩
    have := Option.some.inj h
    split_ifs at this <;> omega

/-! ## Performing at a bank -/

section Bank
variable {s u : State} {id tag x : Nat} {q : Req} {th : Thread} {g : Plot} {y : Performed}

theorem State.performAt_bank (hst : q.stage = .bank tag x) (hx : s.performSpad q.ref tag x q.op q.bytes q.data q.rmode q.src = (u, y)) :
    s.performAt q = (u.afterAccess q.core q.ref q.op q.acq q.scope q.cls y.tags, y) := by
  unfold State.performAt
  simp only [hst, hx]

theorem noDelivery_of_cores {s t : State} {r : Ref} (h : t.cores = s.cores) (hn : NoDelivery s r) : NoDelivery t r := (slotsKept_of_cores h).noDelivery hn

theorem memorySame_of_cores {s t : State} (hm : t.mem = s.mem) (hc : t.cores = s.cores) : MemorySame s t := (pinsSame_of_cores hc).memory hm

/-- A load or an atomic at a bank comes to its end in its turn. -/
theorem Turn.returned_bank (ht : Turn s id q th) (hst : q.stage = .bank tag x) (ho : q.op.countsLd = true)
    (hx : s.performSpad q.ref tag x q.op q.bytes q.data q.rmode q.src = (u, y)) (hm : u.mem = s.mem) (hc : u.cores = s.cores)
    (hth : ∀ r, u.thread? r = s.thread? r) (v : WireValue) :
    ∃ t, exec (.loadReturn id v) s = .next t ∧ MemorySame s t ∧ SpadsSame u t ∧
      Returned s t id q th (reqWords (q.op.withOutcome y.stored) q.words y.value) (BitVec.ofNat 32 y.flags) := by
  obtain ⟨-, hms, hsp, hret, -⟩ := State.finishLoad_returns (id := id) (q.op.withOutcome y.stored) y.value (BitVec.ofNat 32 y.flags) y.tags
    ((hth q.ref).trans ht.thread) ht.live (noDelivery_of_cores hc ht.delivered)
  refine ⟨_, congrArg Host.Outcome.next ?_, (memorySame_of_cores hm hc).trans hms, hsp, hret.of_threads hth⟩
  simp only [State.loadReturn, ht.req, ho, hst, ht.turn, State.performAt_bank hst hx, Bool.not_true, Bool.false_eq_true, if_false, if_true]

/-- LDS takes the bytes at its bank. -/
theorem Turn.bank_load (ht : Turn s id q th) (hst : q.stage = .bank tag x) {sz : Sz} (ho : q.op = .load sz) (v : WireValue) :
    ∃ t, exec (.loadReturn id v) s = .next t ∧ MemorySame s t ∧ SpadsSame s t ∧
      Returned s t id q th (loadWords sz (BitVec.ofNat 128 (s.spadNat tag x q.bytes))) 0 := by
  have hx : s.performSpad q.ref tag x (.load sz) q.bytes q.data q.rmode q.src =
      (s, { value := BitVec.ofNat 128 (leNat (s.spadRead tag x q.bytes)), flags := 0, stored := false, tags := s.spadTags tag x q.bytes }) := rfl
  rw [s.leNat_spadRead] at hx
  obtain ⟨t, hex, hm, hsp, hret⟩ := ht.returned_bank hst (by rw [ho]; rfl) (ho ▸ hx) rfl rfl (fun _ => rfl) v
  rw [ho] at hret
  exact ⟨t, hex, hm, hsp, hret⟩

theorem SpadWrote.spadsBut {s u t : State} {l : List Byte} (h : SpadWrote s u tag x l) (g : SpadsSame u t) : SpadsSameBut s t tag x l.length :=
  fun n a ha => (g n a).trans (h.but n a ha)

/-- STS writes its bytes at its bank. -/
theorem Turn.bank_store (hs : s.memoriesOk) (ht : Turn s id q th) (hst : q.stage = .bank tag x) (hg : tget s.plots tag = some g) (ho : q.op = .store)
    (f : WireAck) :
    ∃ t, exec (.storeAck ⟨id, f⟩) s = .next t ∧ MemorySame s t ∧ SpadsSameBut s t tag x q.bytes ∧ Stored s t id q th ∧
      ∀ i, i < q.bytes → t.spadByte tag (x + i) = BitVec.ofNat 8 (q.data.toNat / 256 ^ i) := by
  have hw := State.spadWrite_wrote (.thread q.ref) x (natLe q.bytes q.data.toNat) q.src hg hs
  have hx : s.performSpad q.ref tag x q.op q.bytes q.data q.rmode q.src =
      (s.spadWrite (.thread q.ref) tag x (natLe q.bytes q.data.toNat) q.src, Performed.plain true) := by rw [ho]; rfl
  obtain ⟨-, hms, hsp, hstd⟩ := State.finishStore_stored (id := id) (Performed.plain true).tags ((hw.threads q.ref).trans ht.thread) (by rw [ho]; rfl)
    (noDelivery_of_cores hw.cores ht.delivered)
  have hb := hw.spadsBut hsp
  rw [length_natLe] at hb
  refine ⟨_, congrArg Host.Outcome.next ?_, (memorySame_of_cores hw.mem hw.cores).trans hms, hb, hstd.of_threads hw.threads, fun i hi => ?_⟩
  · simp only [State.storeAck, ht.req, ho, hst, ht.turn, State.performAt_bank hst hx, if_true]
  · rw [hsp, hw.bytes i (by rwa [length_natLe]), natLe_getD _ _ _ hi]

/-- An atomic at its bank: Table 13.3 over the old bytes. -/
theorem Turn.bank_atom (hs : s.memoriesOk) (ht : Turn s id q th) (hst : q.stage = .bank tag x) (hg : tget s.plots tag = some g) {aop : Nat} {v : Quad}
    (ho : q.op = .atom aop v) (hn : atomWidth aop q.bytes) (w : WireValue) :
    ∃ t, exec (.loadReturn id w) s = .next t ∧ MemorySame s t ∧ SpadsSameBut s t tag x q.bytes ∧
      t.spadNat tag x q.bytes = (tableNew aop q.bytes (s.spadNat tag x q.bytes) v.toNat q.rmode).getD (s.spadNat tag x q.bytes) ∧
      Returned s t id q th ((words128 (BitVec.ofNat 128 (s.spadNat tag x q.bytes))).take q.words)
        (BitVec.ofNat 32 (tableFlags aop (s.spadNat tag x q.bytes) v.toNat q.rmode)) := by
  have hmode : ((q.rmode.toNat : Nat) : Mode) = q.rmode := (BitVec.ofNat_toNat ..).trans (BitVec.setWidth_eq _)
  obtain ⟨htab, hlt⟩ := atomNew_table v.toNat q.rmode hn.fadd hn.axa (s.spadNat_lt tag x q.bytes)
  obtain ⟨u, hx, hm, hc, hth, hbut, hval⟩ : ∃ u, s.performSpad q.ref tag x q.op q.bytes q.data q.rmode q.src =
      (u, { value := BitVec.ofNat 128 (s.spadNat tag x q.bytes), flags := tableFlags aop (s.spadNat tag x q.bytes) v.toNat q.rmode,
            stored := (tableNew aop q.bytes (s.spadNat tag x q.bytes) v.toNat q.rmode).isSome, tags := s.spadTags tag x q.bytes }) ∧
      u.mem = s.mem ∧ u.cores = s.cores ∧ (∀ r, u.thread? r = s.thread? r) ∧ SpadsSameBut s u tag x q.bytes ∧
      u.spadNat tag x q.bytes = (tableNew aop q.bytes (s.spadNat tag x q.bytes) v.toNat q.rmode).getD (s.spadNat tag x q.bytes) := by
    rw [ho, State.performSpad]
    simp only [s.leNat_spadRead, hmode, htab]
    cases hy : tableNew aop q.bytes (s.spadNat tag x q.bytes) v.toNat q.rmode with
    | none => exact ⟨s, rfl, rfl, rfl, fun _ => rfl, fun _ _ _ => rfl, rfl⟩
    | some y =>
      have hw := State.spadWrite_wrote (.thread q.ref) x (natLe q.bytes y) q.src hg hs
      have hb := hw.but
      have hv := State.spadNat_of_bytes _ _ hw.bytes
      rw [length_natLe] at hb hv
      rw [leNat_natLe, show (256 : Nat) = 2 ^ 8 from rfl, ← Nat.pow_mul, Nat.mod_eq_of_lt (hlt y hy)] at hv
      exact ⟨_, rfl, hw.mem, hw.cores, hw.threads, hb, hv⟩
  obtain ⟨t, hex, hms, hsp, hret⟩ := ht.returned_bank hst (by rw [ho]; rfl) hx hm hc hth w
  rw [ho] at hret
  exact ⟨t, hex, hms, fun n a ha => (hsp n a).trans (hbut n a ha), (hsp.spadNat ..).trans hval, hret⟩

end Bank

/-! ## Issue -/

section Issue
variable {s : State} {r : Ref} {p : Plot} {th : Thread} {i : Instr} {op : ReqOp} {acc tag x aop n : Nat} {d b : Reg} {sz : Sz} {o : AOrd}

/-- The request of a lane of the S format, as of LDS and STS (13 R264). -/
theorem OneLane.leaves_laneS {off : BitVec 9} (h : OneLane s r p th) (hx : exec i s = .next (runLanes (laneS op acc d b off sz) s))
    (hr : th.inRanges [(d, szRegs sz), (b, 1)] = true) (hal : addrS s r p th b off (szBytes sz) % szBytes sz = 0)
    (hs : s.spadAt r.tag (addrS s r p th b off (szBytes sz)) (szBytes sz) = .ok (tag, x)) :
    ∃ t q, exec i s = .next t ∧ Leaves s t r th q ∧ ToBank p tag x (szBytes sz) q ∧ q.op = op ∧ q.dst = (if op = .store then .none else th.dstOf d) ∧
      q.words = szRegs sz ∧ (op.stores = true → q.data = BitVec.ofNat 128 (storeNat s r p th d (szRegs sz))) := by
  obtain ⟨a, hF, hva, hby, hop, hds, hwd, hda⟩ : ∃ a : Access, laneS op acc d b off sz s r p th = issueSpad a s r p th ∧
      a.va = addrS s r p th b off (szBytes sz) ∧ a.bytes = szBytes sz ∧ a.op = op ∧ a.dst = (if op = .store then .none else th.dstOf d) ∧
      a.words = szRegs sz ∧ a.data = (if op.stores then th.dataOf (s.env r p) d (szRegs sz) else 0) :=
    ⟨_, if_neg (by simp [hr]), rfl, rfl, rfl, rfl, rfl, rfl⟩
  obtain ⟨t, q, ht, hl, hp, ha⟩ := h.leaves_spad hx hF (by rw [hva, hby]; exact hal) (by rw [hva, hby]; exact hs)
  exact ⟨t, q, ht, hl, hby ▸ hp, ha.op.trans hop, ha.dst.trans hds, ha.words.trans hwd, fun hs => (ha.data.trans hda).trans ((if_pos hs).trans (dataOf_eq ..))⟩

/-- The request of a scratchpad atomic (13 R269). -/
theorem OneLane.leaves_atoms (h : OneLane s r p th) (hi : atomsForm i = some (aop, n, d, b, o)) (hr : th.inRanges [(d, operandRegs aop n), (b, 1)] = true)
    (hal : (th.rd32 (envOf s r p) b).toNat % n = 0) (hs : s.spadAt r.tag (th.rd32 (envOf s r p) b).toNat n = .ok (tag, x)) :
    ∃ t q, exec i s = .next t ∧ Leaves s t r th q ∧ ToBank p tag x n q ∧
      q.op = .atom aop (BitVec.ofNat 128 (storeNat s r p th d (operandRegs aop n))) ∧ q.dst = th.dstOf d ∧ q.words = n / 4 ∧ q.acq = ordAcq o ∧ q.rel = ordRel o ∧
      q.rmode = th.rmode := by
  obtain ⟨tr, hx⟩ := exec_of_atomsForm hi s
  obtain ⟨a, hF, hva, hby, hop, hds, hwd, haq, hrl⟩ : ∃ a : Access, laneAtoms aop n d b tr o s r p th = issueSpad a s r p th ∧
      a.va = (th.rd32 (envOf s r p) b).toNat ∧ a.bytes = n ∧ a.op = .atom aop (th.dataOf (s.env r p) d (operandRegs aop n)) ∧ a.dst = th.dstOf d ∧
      a.words = n / 4 ∧ a.acq = ordAcq o ∧ a.rel = ordRel o :=
    ⟨_, if_neg (by simpa [operandRegs, atomRegs] using hr), rfl, rfl, rfl, rfl, rfl, rfl, rfl⟩
  obtain ⟨t, q, ht, hl, hp, ha⟩ := h.leaves_spad hx hF (by rw [hva, hby]; exact hal) (by rw [hva, hby]; exact hs)
  exact ⟨t, q, ht, hl, hby ▸ hp, (ha.op.trans hop).trans (congrArg _ (dataOf_eq ..)), ha.dst.trans hds, ha.words.trans hwd, ha.acq.trans haq, ha.rel.trans hrl, ha.rmode⟩

end Issue

/-- Settles O27: the request by the lane of the S format or of ATOMS, its end by what it takes or writes at its bank. -/
theorem scratchpadAccesses : Obligations.ScratchpadAccesses := by
  unfold Obligations.ScratchpadAccesses
  refine ⟨⟨fun s r p th h d a off sz tag x hr hal hsp => ⟨?_, ?_⟩, fun s id q th tag x g v f hs ht hst hg =>
      ⟨fun sz ho => ht.bank_load hst ho v, fun ho => ht.bank_store hs hst hg ho f⟩⟩,
    fun s r p th h i aop n d a o tag x hi hr hal hsp => h.leaves_atoms hi hr hal hsp,
    fun s id q th tag x g aop v w hs ht hst hg ho hn => ht.bank_atom hs hst hg ho hn w⟩
  · obtain ⟨t, q, hx, hl, hb, hop, hds, hwd, -⟩ := h.leaves_laneS (i := .lds d a off sz) rfl hr hal hsp
    exact ⟨t, q, hx, hl, hb, hop, hds, hwd⟩
  · obtain ⟨t, q, hx, hl, hb, hop, -, -, hda⟩ := h.leaves_laneS (i := .sts d a off sz) rfl hr hal hsp
    exact ⟨t, q, hx, hl, hb, hop, hda rfl⟩

end Sys2Proof.Machine
end

section
/-! LAWS. Byte-count barriers: the requests of BCINIT, BCEXP and BCARR, the order in which they act at their bank and what each makes of the barrier, and
BCWAIT and BCTEST after them (13 R274 to R279, 11 R244). -/

namespace Sys2Proof.Machine

/-! ## The 128 bits of a barrier (13 Table 13.4) -/

/-- A barrier whose fields fit their bits. -/
structure Barrier.Fits (b : Barrier) : Prop where
  low : -2 ^ 31 ≤ b.rem
  high : b.rem < 2 ^ 31
  init : b.init < 2 ^ 30
  scope : b.scope < 4

theorem sgn32_unsgn32 {v : Int} (hl : -2 ^ 31 ≤ v) (hh : v < 2 ^ 31) : sgn 32 (unsgn 32 v) = v ∧ unsgn 32 v < 2 ^ 32 := by
  have : unsgn 32 v = (v % 4294967296).toNat := rfl
  rw [this, sgn]
  split <;> omega

theorem barOf_barBits {b : Barrier} (h : b.Fits) : barOf (leNat (natLe 16 (barBits b))) = b := by
  obtain ⟨hs, hu⟩ := sgn32_unsgn32 h.low h.high
  have hi := h.init
  have hc := h.scope
  have hp := Bool.toNat_lt b.phase
  have ho := Bool.toNat_lt b.ovf
  have hlt : barBits b < 256 ^ 16 := by
    simp only [barBits]
    omega
  have hsgn : ∀ v, sgn 32 (barBits b) = v ↔ sgn 32 (unsgn 32 b.rem) = v := by
    have hm : barBits b % 2 ^ 32 = unsgn 32 b.rem % 2 ^ 32 := by
      simp only [barBits]
      omega
    intro v
    rw [sgn, sgn, hm]
  rw [leNat_natLe, Nat.mod_eq_of_lt hlt, barOf, (hsgn _).mpr hs]
  obtain ⟨rem, init, scope, phase, ovf⟩ := b
  have h1 : bits (barBits ⟨rem, init, scope, phase, ovf⟩) 95 64 = init := by
    simp only [barBits, bits] at *
    omega
  have h2 : bits (barBits ⟨rem, init, scope, phase, ovf⟩) 102 101 = scope := by
    simp only [barBits, bits] at *
    omega
  have h3 : bit (barBits ⟨rem, init, scope, phase, ovf⟩) 103 = phase := by
    simp only [barBits, bit] at *
    cases phase <;> simp at * <;> omega
  have h4 : bit (barBits ⟨rem, init, scope, phase, ovf⟩) 104 = ovf := by
    simp only [barBits, bit] at *
    cases ovf <;> simp at * <;> omega
  rw [h1, h2, h3, h4]

theorem sgn32_bounds (v : Nat) : -2 ^ 31 ≤ sgn 32 v ∧ sgn 32 v < 2 ^ 31 := by
  have h : -2 ^ 31 ≤ sgn 32 v ∧ sgn 32 v ≤ 2 ^ 31 - 1 := sgn_bounds 31 v
  omega

theorem State.barAt_fits {s : State} {tag x : Nat} (h : (s.barAt tag x).init < 2 ^ 30) : (s.barAt tag x).Fits :=
  ⟨(sgn32_bounds _).1, (sgn32_bounds _).2, h, Nat.mod_lt _ (by decide)⟩

/-- What an operation makes of a barrier fits its bits. -/
theorem barEffect_fits {b : Barrier} (op : ReqOp) (h : b.Fits) : (barEffect op b).Fits := by
  obtain ⟨hl, hh, hi, hs⟩ := h
  unfold barEffect
  split
  · next v =>
    have := Nat.mod_lt v (show 0 < 2 ^ 30 by decide)
    exact ⟨by dsimp only; omega, by dsimp only; omega, this, Nat.mod_lt _ (by decide)⟩
  · split
    · exact ⟨hl, hh, hi, hs⟩
    · exact ⟨by dsimp only; omega, by dsimp only; omega, hi, hs⟩
  · split
    · exact ⟨hl, hh, hi, hs⟩
    · split <;> exact ⟨by dsimp only; omega, by dsimp only; omega, hi, hs⟩
  · exact ⟨hl, hh, hi, hs⟩

/-! ## The order at a barrier (11 R244) -/

theorem perm_barInsert (x : Nat × Req) : ∀ t, List.Perm (barInsert t x) (x :: t)
  | [] => List.Perm.refl _
  | y :: t => by
    rw [barInsert]
    split
    · exact ((perm_barInsert x t).cons y).trans (List.Perm.swap x y t)
    · exact List.Perm.refl _

theorem sorted_barInsert (x : Nat × Req) : ∀ {t}, t.Pairwise (fun y z => y.2.barRank ≤ z.2.barRank) →
    (barInsert t x).Pairwise (fun y z => y.2.barRank ≤ z.2.barRank)
  | [], _ => List.pairwise_singleton ..
  | y :: t, h => by
    obtain ⟨hy, ht⟩ := List.pairwise_cons.mp h
    rw [barInsert]
    split
    · next hxy =>
      refine List.pairwise_cons.mpr ⟨fun z hz => ?_, sorted_barInsert x ht⟩
      rcases List.mem_cons.mp ((perm_barInsert x t).mem_iff.mp hz) with rfl | hz
      · exact hxy
      · exact hy z hz
    · next hxy =>
      refine List.pairwise_cons.mpr ⟨fun z hz => ?_, h⟩
      rcases List.mem_cons.mp hz with rfl | hz
      · omega
      · have := hy z hz
        omega

theorem foldl_barInsert : ∀ (l t : Tab Req), t.Pairwise (fun y z => y.2.barRank ≤ z.2.barRank) →
    (l.foldl barInsert t).Pairwise (fun y z => y.2.barRank ≤ z.2.barRank) ∧ List.Perm (l.foldl barInsert t) (l ++ t)
  | [], t, h => ⟨h, List.Perm.refl _⟩
  | x :: l, t, h => by
    obtain ⟨hs, hp⟩ := foldl_barInsert l (barInsert t x) (sorted_barInsert x h)
    exact ⟨hs, hp.trans (((perm_barInsert x t).append_left l).trans List.perm_middle)⟩

theorem State.barPending_perm (s : State) (tag x : Nat) :
    List.Perm (s.barPending tag x) (s.reqs.filter fun y => y.2.op.barKind.isSome && y.2.stage == .bank tag x) := by
  have := (foldl_barInsert (s.reqs.filter fun y => y.2.op.barKind.isSome && y.2.stage == .bank tag x) [] List.Pairwise.nil).2
  rwa [List.append_nil] at this

/-- The operations that wait at a barrier are the requests of its bank. -/
theorem State.mem_barPending {s : State} {tag x : Nat} {y : Nat × Req} :
    y ∈ s.barPending tag x ↔ y ∈ s.reqs ∧ y.2.op.barKind.isSome = true ∧ y.2.stage = .bank tag x := by
  rw [(s.barPending_perm tag x).mem_iff, List.mem_filter, Bool.and_eq_true, beq_iff_eq]

/-- The kind of a barrier operation is one more than its place. -/
theorem barKind_getD {op : ReqOp} (h : op.barKind.isSome = true) : op.barKind.getD 4 = barOrder op + 1 ∧ barOrder op < 3 := by
  cases op with
  | bcarr | bcexp | bcinit => exact ⟨rfl, by simp [barOrder]⟩
  | load | store | atom | lr | sc | sync | fence => cases h

/-- The rank compares cycle, kind, core and lane in turn. -/
theorem actsBefore_of_barRank {q1 q2 : Req} (h1 : q1.op.barKind.isSome = true) (h2 : q2.op.barKind.isSome = true) (hc1 : q1.core ≤ 128) (hc2 : q2.core ≤ 128)
    (h : q1.barRank ≤ q2.barRank) : ActsBefore q1 q2 := by
  obtain ⟨hk1, hb1⟩ := barKind_getD h1
  obtain ⟨hk2, hb2⟩ := barKind_getD h2
  have hl1 : q1.ref.lane < 64 := Nat.mod_lt _ (by decide)
  have hl2 : q2.ref.lane < 64 := Nat.mod_lt _ (by decide)
  rw [Req.barRank, Req.barRank, barPlace, barPlace, hk1, hk2] at h
  unfold ActsBefore
  omega

/-- The operations that wait at a barrier stand in the order of 11 R244. -/
theorem State.barPending_ordered (s : State) (tag x : Nat) :
    (s.barPending tag x).Pairwise (fun y z => y.2.core ≤ 128 → z.2.core ≤ 128 → ActsBefore y.2 z.2) := by
  refine ((foldl_barInsert _ [] List.Pairwise.nil).1).imp_of_mem fun hy hz h hc1 hc2 => ?_
  exact actsBefore_of_barRank (State.mem_barPending.mp hy).2.1 (State.mem_barPending.mp hz).2.1 hc1 hc2 h

/-! ## An operation at its bank (13 R275 to R277) -/

/-- From s to t a barrier has become b: no other byte, no thread and no request has changed. -/
structure BarSet (s t : State) (tag x : Nat) (b : Barrier) : Prop where
  mem : t.mem = s.mem
  cores : t.cores = s.cores
  reqs : t.reqs = s.reqs
  threads : ∀ r, t.thread? r = s.thread? r
  but : SpadsSameBut s t tag x 16
  plot : ∃ g, tget t.plots tag = some g
  barrier : t.barAt tag x = b

theorem State.barAt_eq (s : State) (tag x : Nat) : s.barAt tag x = barOf (s.spadNat tag x 16) := by rw [State.barAt, s.leNat_spadRead]

theorem State.hazards_reqs (s : State) (who : Writer) (tag off n : Nat) : (s.hazards who tag off n).reqs = s.reqs := by
  unfold State.hazards
  refine List.foldlRecOn (motive := fun t : State => t.reqs = s.reqs) _ _ rfl fun t ht c _ => ?_
  rw [State.reportHazards]
  dsimp only
  split <;> exact ht

theorem State.putBar_set {s : State} {tag x : Nat} {g : Plot} (who : Writer) {b : Barrier} (hs : s.memoriesOk) (hg : tget s.plots tag = some g) (hb : b.Fits) :
    BarSet s (s.putBar who tag x b) tag x b := by
  have hw := State.spadWrite_wrote who x (natLe 16 (barBits b)) none hg hs
  have hbut := hw.but
  have hval := State.spadNat_of_bytes _ _ hw.bytes
  rw [length_natLe] at hbut hval
  refine ⟨hw.mem, hw.cores, s.hazards_reqs .., hw.threads, hbut, ?_, ?_⟩
  · have hp := (s.hazards_watches who tag x (natLe 16 (barBits b)).length).plot tag
    rw [hg] at hp
    cases hq : tget (s.hazards who tag x (natLe 16 (barBits b)).length).plots tag with
    | none => rw [hq] at hp; cases hp
    | some q => exact ⟨_, (tget_tmod_same ..).trans (by rw [hq]; rfl)⟩
  · rw [State.barAt_eq]
    exact (congrArg barOf hval).trans (barOf_barBits hb)

/-- A change of a plot that leaves its threads and its scratchpad leaves the barrier. -/
theorem BarSet.modPlot {s t : State} {tag x : Nat} {b : Barrier} (h : BarSet s t tag x b) (f : Plot → Plot) (hf : ∀ p, (f p).threads = p.threads ∧ (f p).spad = p.spad) :
    BarSet s (t.modPlot tag f) tag x b := by
  have hsp : SpadsSame t (t.modPlot tag f) := by
    intro n a
    rw [State.spadByte_eq, State.spadByte_eq, State.modPlot_plots, tget_tmod]
    split
    · cases tget t.plots n <;> simp [(hf _).2]
    · rfl
  have hth := t.modPlot_thread? tag f fun p => (hf p).1
  obtain ⟨g, hg⟩ := h.plot
  refine ⟨h.mem, h.cores, h.reqs, fun r => (hth r).trans (h.threads r), fun n a ha => (hsp n a).trans (h.but n a ha), ⟨f g, ?_⟩, ?_⟩
  · rw [State.modPlot_plots, tget_tmod_same, hg]; rfl
  · rw [State.barAt_eq, hsp.spadNat, ← State.barAt_eq]
    exact h.barrier

/-- What an arrival makes of a barrier. -/
theorem barArrive_fst (b : Barrier) (n : Nat) : (barArrive b n).1 = barEffect (.bcarr n) b := by
  unfold barArrive barEffect
  dsimp only
  split
  · rfl
  · split <;> rfl

/-- An operation makes of its barrier what its kind says. -/
theorem State.performBar_set {s : State} {tag x : Nat} {g : Plot} (r : Ref) {op : ReqOp} (hs : s.memoriesOk) (hg : tget s.plots tag = some g)
    (hi : (s.barAt tag x).init < 2 ^ 30) (ho : op.barKind.isSome = true) : BarSet s (s.performBar r tag x op) tag x (barEffect op (s.barAt tag x)) := by
  have hfit := barEffect_fits op (State.barAt_fits hi)
  cases op with
  | bcinit v => exact (State.putBar_set _ hs hg hfit).modPlot _ fun _ => ⟨rfl, rfl⟩
  | bcexp n => exact State.putBar_set _ hs hg hfit
  | bcarr n =>
    rw [← barArrive_fst] at hfit ⊢
    have hput := fun who => State.putBar_set (x := x) who hs hg hfit
    rw [State.performBar, State.arrive]
    dsimp only
    split
    · exact (hput _).modPlot _ fun _ => ⟨rfl, rfl⟩
    · exact hput _
  | load | store | atom | lr | sc | sync | fence => cases ho

/-! ## Operations in their turn -/

/-- From s to t the barrier has become b and requests have been marked performed: no other byte and no thread has changed. -/
structure BarStepped (s t : State) (tag x : Nat) (b : Barrier) : Prop where
  mem : t.mem = s.mem
  cores : t.cores = s.cores
  threads : ∀ r, t.thread? r = s.thread? r
  but : SpadsSameBut s t tag x 16
  barrier : t.barAt tag x = b

theorem BarStepped.trans {s t u : State} {tag x : Nat} {b c : Barrier} (h : BarStepped s t tag x b) (g : BarStepped t u tag x c) : BarStepped s u tag x c :=
  ⟨g.mem.trans h.mem, g.cores.trans h.cores, fun r => (g.threads r).trans (h.threads r), fun n a ha => (g.but n a ha).trans (h.but n a ha), g.barrier⟩

section Steps
variable {s : State} {tag x id : Nat} {q : Req} {g : Plot}

/-- A step of the order acts where the turn of the operation in its thread has come. -/
theorem State.barStep_stepped (hs : s.memoriesOk) (hg : tget s.plots tag = some g) (hi : (s.barAt tag x).init < 2 ^ 30) (ho : q.op.barKind.isSome = true)
    (hm : s.mayPerform id q = true) :
    BarStepped s (s.barStep tag x (id, q)) tag x (barEffect q.op (s.barAt tag x)) ∧
      (s.barStep tag x (id, q)).reqs = tmod s.reqs id (fun q => { q with stage := .performed 0 }) ∧ ∃ g', tget (s.barStep tag x (id, q)).plots tag = some g' := by
  have h := (State.performBar_set q.ref hs hg hi ho).modPlot (fun p => { p with barActed := tput p.barActed x (max q.barRank ((tget p.barActed x).getD 0)) })
    fun _ => ⟨rfl, rfl⟩
  rw [State.barStep, if_pos hm]
  refine ⟨⟨h.mem, h.cores, h.threads, h.but, h.barrier⟩, ?_, h.plot⟩
  rw [← h.reqs]
  rfl

end Steps

/-- BARARR, BCEXP and BCINIT come to their end once the barrier has settled (13 Table 13.1). -/
theorem Turn.bar_stored {s : State} {id tag x : Nat} {q : Req} {th : Thread} {b : Barrier} (ht : Turn s id q th) (hst : q.stage = .bank tag x)
    (ho : q.op.barKind.isSome = true) (h : BarStepped s (s.settleBar tag x) tag x b) (f : WireAck) :
    ∃ t, exec (.storeAck ⟨id, f⟩) s = .next t ∧ Stored s t id q th ∧ MemorySame s t ∧ SpadsSameBut s t tag x 16 ∧ t.barAt tag x = b ∧
      t = (s.settleBar tag x).finishStore id q := by
  have he : s.storeAck id f = (s.settleBar tag x).finishStore id q := by
    cases hop : q.op with
    | bcarr | bcexp | bcinit => simp [State.storeAck, ht.req, hop, hst, ht.turn, ReqOp.barKind]
    | load | store | atom | lr | sc | sync | fence => rw [hop] at ho; cases ho
  obtain ⟨hgone, hth, hoth, hms, hsp⟩ := State.modThread_retire (s := s.settleBar tag x) id (fun t => { t with st := t.st - 1 }) ((h.threads q.ref).trans ht.thread)
    (noDelivery_of_cores h.cores ht.delivered)
  refine ⟨_, congrArg Host.Outcome.next he, ⟨hgone, fun r hr => (hoth r hr).trans (h.threads r), hth⟩, (memorySame_of_cores h.mem h.cores).trans hms,
    fun n a ha => (hsp n a).trans (h.but n a ha), ?_, rfl⟩
  rw [State.barAt_eq]
  exact (congrArg barOf (SpadsSame.spadNat hsp tag 16 x)).trans ((State.barAt_eq ..).symm.trans h.barrier)

/-! ## Requests that stay -/

theorem State.sendFlit_reqs (s : State) (p n : Nat) : (s.sendFlit p n).reqs = s.reqs := by
  rw [State.sendFlit]
  split
  · rfl
  · split <;> rfl

theorem State.routeNow_reqs (s : State) (dst : Nat) (rc : RC) : (s.routeNow dst rc).1.reqs = s.reqs := by
  have hw : (s.wayNow dst rc).1.reqs = s.reqs := by
    unfold State.wayNow
    split
    · rfl
    · split
      · rfl
      · cases rc with
        | o | a => rfl
        | s => rw [State.viaS_fst]; rfl
  refine Eq.trans ?_ hw
  show ((s.wayNow dst rc).1.sendOn (s.wayNow dst rc).2).reqs = _
  rw [State.sendOn]
  split
  · exact State.sendFlit_reqs ..
  · rfl

/-- A request that is not held at its source is sent nowhere. -/
theorem State.sendReqs_req {id : Nat} : ∀ (l : List (Nat × Req)) (s : State), (∀ y ∈ l, y.1 = id → ∀ d, y.2.stage ≠ .remote d .held) →
    tget (s.sendReqs l).reqs id = tget s.reqs id
  | [], _, _ => rfl
  | (i, q) :: l, s, h => by
    have hl := fun y hy => h y (List.mem_cons_of_mem _ hy)
    rw [State.sendReqs]
    split
    · next d hd =>
      split
      · exact State.sendReqs_req l s hl
      · have hi : id ≠ i := fun he => h (i, q) List.mem_cons_self he.symm d hd
        exact (State.sendReqs_req l _ hl).trans ((tget_tmod_ne _ _ hi).trans (congrArg (tget · id) (s.routeNow_reqs d q.rc)))
    · exact State.sendReqs_req l s hl

theorem State.sendLands_reqs : ∀ (l : List (Nat × Land)) (s : State), (s.sendLands l).reqs = s.reqs
  | [], _ => rfl
  | (i, y) :: l, s => by
    rw [State.sendLands]
    split
    · split
      · exact State.sendLands_reqs l s
      · exact (State.sendLands_reqs l _).trans (State.routeNow_reqs ..)
    · exact State.sendLands_reqs l s

theorem mem_tdel {α : Type} {y : Nat × α} {k : Nat} : ∀ {t : Tab α}, y ∈ tdel t k → y ∈ t
  | [], h => h
  | (i, v) :: t, h => by
    rw [tdel] at h
    split at h
    · exact List.mem_cons_of_mem _ (mem_tdel h)
    · rcases List.mem_cons.mp h with rfl | h
      · exact List.mem_cons_self
      · exact List.mem_cons_of_mem _ (mem_tdel h)

/-- A performed request stays as it is while another is taken off. -/
theorem State.retire_keeps {s : State} {r : Ref} {id k : Nat} {q : Req} {v : Quad} (hn : NoDelivery s r) (hd : (s.reqs.map Prod.fst).Nodup) (hk : k ≠ id)
    (hq : tget s.reqs k = some q) (hst : q.stage = .performed v) : tget (s.retire id r).reqs k = some q := by
  have he : ({ s with reqs := tdel s.reqs id } : State).deliverWaiting r = { s with reqs := tdel s.reqs id } := State.deliverWaiting_none hn
  have hs : ∀ y ∈ tdel s.reqs id, y.1 = k → ∀ d, y.2.stage ≠ .remote d .held := by
    intro y hy hyk d hyd
    have := tget_of_mem hd (mem_tdel hy)
    rw [hyk, hq] at this
    rw [← Option.some.inj this, hst] at hyd
    cases hyd
  rw [State.retire, he, State.sendHeld]
  exact ((congrArg (tget · k) (State.sendLands_reqs ..)).trans (State.sendReqs_req _ _ hs)).trans ((tget_tdel_ne _ hk).trans hq)

/-! ## One and two operations that wait -/

section Settle
variable {s : State} {tag x id id1 id2 : Nat} {q q1 q2 : Req} {th th1 th2 : Thread} {g : Plot}

theorem State.barKind_of_pending {y : Nat × Req} (h : y ∈ s.barPending tag x) : y.2.op.barKind.isSome = true := (State.mem_barPending.mp h).2.1

/-- The one operation that waits acts. -/
theorem State.settleBar_one (hs : s.memoriesOk) (hg : tget s.plots tag = some g) (hi : (s.barAt tag x).init < 2 ^ 30) (hp : s.barPending tag x = [(id, q)])
    (hm : s.mayPerform id q = true) : BarStepped s (s.settleBar tag x) tag x (barEffect q.op (s.barAt tag x)) := by
  have ho := State.barKind_of_pending (hp ▸ List.mem_singleton_self (id, q))
  rw [State.settleBar, hp]
  exact (State.barStep_stepped hs hg hi ho hm).1

/-- Two operations that wait act in their order, and both are performed. -/
theorem State.settleBar_two (hs : s.memoriesOk) (hg : tget s.plots tag = some g) (hi : (s.barAt tag x).init < 2 ^ 30)
    (hp : s.barPending tag x = [(id1, q1), (id2, q2)]) (hm1 : s.mayPerform id1 q1 = true) (hm2 : (s.barStep tag x (id1, q1)).mayPerform id2 q2 = true) :
    BarStepped s (s.settleBar tag x) tag x (barEffect q2.op (barEffect q1.op (s.barAt tag x))) ∧
      (s.settleBar tag x).reqs = tmod (tmod s.reqs id1 fun q => { q with stage := .performed 0 }) id2 fun q => { q with stage := .performed 0 } := by
  have ho1 := State.barKind_of_pending (hp ▸ List.mem_cons_self : (id1, q1) ∈ s.barPending tag x)
  have ho2 := State.barKind_of_pending (hp ▸ List.mem_cons_of_mem _ List.mem_cons_self : (id2, q2) ∈ s.barPending tag x)
  obtain ⟨h1, hr1, g1, hg1⟩ := State.barStep_stepped hs hg hi ho1 hm1
  have hi1 : ((s.barStep tag x (id1, q1)).barAt tag x).init < 2 ^ 30 := by
    rw [h1.barrier]
    exact (barEffect_fits _ (State.barAt_fits hi)).init
  obtain ⟨h2, hr2, -⟩ := State.barStep_stepped hs.barStep hg1 hi1 ho2 hm2
  rw [h1.barrier] at h2
  rw [hr1] at hr2
  rw [State.settleBar, hp]
  exact ⟨h1.trans h2, hr2⟩

/-- The end of the first of two operations: both have acted, and the second waits for its own end. -/
theorem Turn.bar_stored_two (hs : s.memoriesOk) (hsort : tsorted s.reqs = true) (hst1 : q1.stage = .bank tag x) (hst2 : q2.stage = .bank tag x)
    (hg : tget s.plots tag = some g) (hp : s.barPending tag x = [(id1, q1), (id2, q2)]) (hi : (s.barAt tag x).init < 2 ^ 30) (ht1 : Turn s id1 q1 th1)
    (ht2 : Turn (s.barStep tag x (id1, q1)) id2 q2 th2) (f : WireAck) :
    ∃ t, exec (.storeAck ⟨id1, f⟩) s = .next t ∧ Stored s t id1 q1 th1 ∧ MemorySame s t ∧ SpadsSameBut s t tag x 16 ∧
      tget t.reqs id2 = some { q2 with stage := .performed 0 } ∧ t.barAt tag x = barEffect q2.op (barEffect q1.op (s.barAt tag x)) := by
  obtain ⟨h, hr⟩ := State.settleBar_two hs hg hi hp ht1.turn ht2.turn
  obtain ⟨h1, hr1, -⟩ := State.barStep_stepped hs hg hi (State.barKind_of_pending (hp ▸ List.mem_cons_self : (id1, q1) ∈ s.barPending tag x)) ht1.turn
  obtain ⟨t, hx, hstd, hms, hsp, hb, he⟩ := ht1.bar_stored hst1 (State.barKind_of_pending (hp ▸ List.mem_cons_self : (id1, q1) ∈ s.barPending tag x)) h f
  have hreq2 := ht2.req
  rw [hr1] at hreq2
  have hne : id2 ≠ id1 := by
    rintro rfl
    rw [tget_tmod_same, ht1.req] at hreq2
    have := congrArg Req.stage (Option.some.inj hreq2)
    rw [hst2] at this
    cases this
  refine ⟨t, hx, hstd, hms, hsp, ?_, hb⟩
  rw [he]
  refine State.retire_keeps (q := { q2 with stage := .performed 0 }) (v := 0) (noDelivery_of_cores h.cores ht1.delivered) ?_ hne ?_ rfl
  · show ((s.settleBar tag x).reqs.map Prod.fst).Nodup
    rw [hr, keys_tmod, keys_tmod]
    exact tsorted_nodup _ hsort
  · show tget (s.settleBar tag x).reqs id2 = _
    rw [hr, tget_tmod_same, hreq2]
    rfl

end Settle

/-! ## Issue -/

section Issue
variable {s : State} {r : Ref} {p : Plot} {th : Thread} {i : Instr} {a b : Reg} {tag x : Nat}

/-- A barrier operation of a lane in range finds its barrier. -/
theorem barLane_at {ops : List (Reg × Nat)} (f : Nat → Nat → Word → LaneFn) (hr : th.inRanges ops = true)
    (hs : s.spadAt r.tag ((th.rd32 (envOf s r p) a).toNat / 16 * 16) 16 = .ok (tag, x)) :
    barLane ops a f s r p th = f tag x (th.rd32 (envOf s r p) a) s r p th := by
  have hs' : s.spadAt r.tag (barAddr (th.rd32 (s.env r p) a)) 16 = .ok (tag, x) := hs
  rw [barLane, if_neg (by simp [hr])]
  dsimp only
  rw [hs']
  rfl

/-- A barrier operation leaves for its bank. -/
theorem OneLane.leaves_bar (h : OneLane s r p th) {op : ReqOp} {rel : Bool} {v : Word} {F : LaneFn} (hx : exec i s = .next (runLanes F s))
    (hF : F s r p th = barOp op rel tag x v s r p th) :
    ∃ t q, exec i s = .next t ∧ Leaves s t r th q ∧ ToBank p tag x 16 q ∧ q.op = op ∧ q.rel = rel := by
  obtain ⟨t, q, ht, hl, ha, hc, -, -, hb, -, hqs, hqe⟩ := h.leaves (barAddr v) none (s.spadSpot tag x) hx hF
  exact ⟨t, q, ht, hl, ⟨hc, hb, hqs, hqe⟩, ha.op, ha.rel⟩

end Issue

/-! ## BCWAIT and BCTEST (13 R279) -/

theorem Watches.threads {s t : State} (h : Watches s t) (r : Ref) : t.thread? r = s.thread? r := by
  have h1 := congrArg (fun o : Option (Tab Thread × Mem) => o.bind fun y => tget y.1 r.tid) (h.plot r.tag)
  rw [State.thread?, State.thread?]
  cases hp : tget t.plots r.tag <;> cases hq : tget s.plots r.tag <;> rw [hp, hq] at h1 <;> simpa using h1

theorem State.putBar_threads (s : State) (who : Writer) (tag x : Nat) (b : Barrier) (r : Ref) : (s.putBar who tag x b).thread? r = s.thread? r := by
  rw [State.putBar, State.spadWrite, State.spadPut, State.modPlot_thread?]
  · exact (s.hazards_watches ..).threads r
  · exact fun _ => rfl

theorem State.performBar_threads (s : State) (q : Ref) (tag x : Nat) (op : ReqOp) (r : Ref) : (s.performBar q tag x op).thread? r = s.thread? r := by
  cases op with
  | bcarr n =>
    rw [State.performBar, State.arrive]
    dsimp only
    split
    · rw [State.modPlot_thread?]
      · exact State.putBar_threads ..
      · exact fun _ => rfl
    · exact State.putBar_threads ..
  | bcexp n => exact State.putBar_threads ..
  | bcinit v =>
    rw [State.performBar, State.modPlot_thread?]
    · exact State.putBar_threads ..
    · exact fun _ => rfl
  | load | store | atom | lr | sc | sync | fence => rfl

theorem State.barNote_threads (s : State) (tag x n : Nat) (r : Ref) : (s.barNote tag x n).thread? r = s.thread? r := by
  rw [State.barNote, State.modPlot_thread?]
  exact fun _ => rfl

theorem State.barStep_threads (s : State) (tag x : Nat) (y : Nat × Req) (r : Ref) : (s.barStep tag x y).thread? r = s.thread? r := by
  rw [State.barStep]
  split
  · exact (State.barNote_threads ..).trans (State.performBar_threads ..)
  · rfl

/-- No thread changes where the operations at a barrier act. -/
theorem State.settleBar_threads (s : State) (tag x : Nat) (r : Ref) : (s.settleBar tag x).thread? r = s.thread? r :=
  List.foldlRecOn (motive := fun t : State => t.thread? r = s.thread? r) _ _ rfl fun t ht y _ => (t.barStep_threads tag x y r).trans ht

theorem State.settleBar_nil {s : State} {tag x : Nat} (h : s.barPending tag x = []) : s.settleBar tag x = s := by
  rw [State.settleBar, h]; rfl

/-- Noting that a barrier was looked at changes no thread, no memory and no scratchpad. -/
theorem State.barNote_quiet (s : State) (tag x n : Nat) : Quiet s (s.barNote tag x n) :=
  ⟨s.barNote_threads tag x n, memorySame_of_cores rfl rfl, fun k a => by
    rw [State.spadByte_eq, State.spadByte_eq, State.barNote, State.modPlot_plots, tget_tmod]
    split
    · cases tget s.plots k <;> rfl
    · rfl⟩

theorem waitedPhase_eq (v : Word) (ph : Bool) : waitedPhase v ph = (ph ^^ v.getLsbD 0) := rfl

/-- A thread that has acquired and goes on. -/
theorem Acquired.goesOn {s u : State} {r : Ref} {th : Thread} (h : Acquired s u r th) : GoesOn s (u.modThread r fun t => { t with pc := t.pc4 }) r th := by
  obtain ⟨y, hy, he, hb⟩ := h
  obtain ⟨ht, ho, hm, hs⟩ := hy.trans (threadOnly_modThread (fun t => { t with pc := t.pc4 }) hy.1)
  refine ⟨⟨_, ht, ?_, hb⟩, ho, hm, hs⟩
  rw [he]
  rfl

section Waits
variable {s : State} {r : Ref} {p : Plot} {th : Thread} {a : Reg} {ph : Bool} {tag x : Nat}

/-- BCWAIT and BCTEST look at their barrier once the operations at it have acted. -/
theorem State.barLook_quiet (s : State) (r : Ref) (tag x : Nat) :
    Quiet (s.settleBar tag x) (s.barLook r tag x) ∧ (s.barLook r tag x).barAt tag x = (s.settleBar tag x).barAt tag x := by
  have hq := (s.settleBar tag x).barNote_quiet tag x (barPlace s.cycle 4 (s.coreOf r) r.lane)
  refine ⟨hq, ?_⟩
  rw [State.barAt_eq, State.barAt_eq]
  exact congrArg barOf (SpadsSame.spadNat hq.spads tag 16 x)

/-- The thread as the look leaves it. -/
theorem OneLane.barLook_thread (h : OneLane s r p th) : (s.barLook r tag x).thread? r = some th :=
  ((State.barLook_quiet s r tag x).1.threads r).trans ((s.settleBar_threads tag x r).trans h.thread)

/-- BCWAIT on a phase that is over goes on. -/
theorem OneLane.bcwait_over (h : OneLane s r p th) (ha : th.inRange a 1 = true)
    (hs : s.spadAt r.tag ((th.rd32 (envOf s r p) a).toNat / 16 * 16) 16 = .ok (tag, x))
    (hp : ((s.settleBar tag x).barAt tag x).phase ≠ (ph ^^ (th.rd32 (envOf s r p) a).getLsbD 0)) :
    GoesOn (s.settleBar tag x) (runLanes (bcwaitLane a ph) s) r th := by
  obtain ⟨hq, hb⟩ := State.barLook_quiet s r tag x
  have hF : bcwaitLane a ph s r p th = ((s.barLook r tag x).barAcquire r tag x, .next) := by
    rw [bcwaitLane, barLane_at _ (by simp [Thread.inRanges, ha]) hs]
    dsimp only
    rw [hb, waitedPhase_eq, if_pos (by simpa using hp)]
  rw [h.run_next_eq hF]
  exact (hq.acquired (State.barAcquire_acquired tag x h.barLook_thread)).goesOn

/-- BCWAIT on a phase that is not over sleeps. -/
theorem OneLane.bcwait_sleeps (h : OneLane s r p th) (ha : th.inRange a 1 = true)
    (hs : s.spadAt r.tag ((th.rd32 (envOf s r p) a).toNat / 16 * 16) 16 = .ok (tag, x))
    (hp : ((s.settleBar tag x).barAt tag x).phase = (ph ^^ (th.rd32 (envOf s r p) a).getLsbD 0)) :
    ThreadOnly (s.settleBar tag x) (runLanes (bcwaitLane a ph) s) r (asleep th (.bcwait (BitVec.ofNat 32 ((th.rd32 (envOf s r p) a).toNat / 16 * 16))
      (ph ^^ (th.rd32 (envOf s r p) a).getLsbD 0))) := by
  obtain ⟨hq, hb⟩ := State.barLook_quiet s r tag x
  have hF : bcwaitLane a ph s r p th = (s.barLook r tag x, .sleep (.bcwait (BitVec.ofNat 32 ((th.rd32 (envOf s r p) a).toNat / 16 * 16))
      (ph ^^ (th.rd32 (envOf s r p) a).getLsbD 0))) := by
    rw [bcwaitLane, barLane_at _ (by simp [Thread.inRanges, ha]) hs]
    dsimp only
    rw [hb, waitedPhase_eq, if_neg (by simpa using hp)]
    rfl
  rw [h.run_quiet hF rfl]
  exact hq.threadOnly (State.toHeadland_only _ h.barLook_thread)

/-- A predicate written beside TSTAT. -/
theorem Thread.setPred_tstat (t : Thread) (w : Word) (n : Nat) (b : Bool) :
    ({ t with tstat := w } : Thread).setPred n b = { t.setPred n b with tstat := w } := by
  rw [Thread.setPred, Thread.setPred]
  split <;> rfl

/-- BCTEST writes whether the phase is over. -/
theorem OneLane.bctest_writes (pd : Fin 128) (h : OneLane s r p th) (ha : th.inRange a 1 = true)
    (hs : s.spadAt r.tag ((th.rd32 (envOf s r p) a).toNat / 16 * 16) 16 = .ok (tag, x)) :
    GoesOn (s.settleBar tag x) (runLanes (bctestLane pd a ph) s) r
      (th.setPred pd.val (decide (((s.settleBar tag x).barAt tag x).phase ≠ (ph ^^ (th.rd32 (envOf s r p) a).getLsbD 0)))) := by
  obtain ⟨hq, hb⟩ := State.barLook_quiet s r tag x
  let ok := decide (((s.settleBar tag x).barAt tag x).phase ≠ (ph ^^ (th.rd32 (envOf s r p) a).getLsbD 0))
  let u := if ok then (s.barLook r tag x).barAcquire r tag x else s.barLook r tag x
  have hF : bctestLane pd a ph s r p th = (u.modThread r fun t => t.setPred pd.val ok, .next) := by
    rw [bctestLane, barLane_at _ (by simp [Thread.inRanges, ha]) hs]
    dsimp only
    rw [hb, waitedPhase_eq, show ∀ c d : Bool, (c != d) = decide (c ≠ d) by decide]
  have hu : Acquired (s.settleBar tag x) u r th := by
    by_cases hok : ok = true
    · rw [show u = _ from if_pos hok]
      exact hq.acquired (State.barAcquire_acquired tag x h.barLook_thread)
    · rw [show u = _ from if_neg hok]
      exact hq.acquired (acquired_refl h.barLook_thread)
  obtain ⟨y, hy, he, hbits⟩ := hu
  have hset := hy.trans (threadOnly_modThread (fun t => t.setPred pd.val ok) hy.1)
  rw [he, Thread.setPred_tstat] at hset
  rw [h.run_next_eq hF]
  refine Acquired.goesOn ⟨_, hset, rfl, fun b hb => (hbits b hb).trans ?_⟩
  rw [Thread.setPred_frame]

end Waits

end Sys2Proof.Machine

namespace Sys2Proof.Machine

/-- Settles O31: an operation leaves for the bank its address names, the operations there are sorted by their rank and act in their turn, and BCWAIT and
BCTEST look at the barrier after them. -/
theorem byteCountBarriers : Obligations.ByteCountBarriers := by
  unfold Obligations.ByteCountBarriers
  refine ⟨⟨fun s r p th h a b tag x hr hs => ?_, fun s tag x => ⟨s.barPending_ordered tag x, fun y => State.mem_barPending⟩,
    fun s id q th tag x g f hs ht hst hg hp hi => ?_, fun s id1 id2 q1 q2 th1 th2 tag x g f hs hsort hst1 hst2 hg hp hi ht1 ht2 =>
      ⟨ht1.bar_stored_two hs hsort hst1 hst2 hg hp hi ht2 f, (State.settleBar_two hs hg hi hp ht1.turn ht2.turn).1.barrier⟩⟩,
    fun s r p th h a ph tag x ha hs => ⟨State.settleBar_nil, fun hp => ⟨_, rfl, h.bcwait_over ha hs hp⟩, fun hp => ⟨_, rfl, h.bcwait_sleeps ha hs hp⟩,
      fun pd => ?_⟩⟩
  · exact ⟨h.leaves_bar (F := bcinitLane a b) rfl (barLane_at _ hr hs), h.leaves_bar (F := bcexpLane a b) rfl (barLane_at _ hr hs),
      h.leaves_bar (F := bcarrLane a b) rfl (barLane_at _ hr hs)⟩
  · obtain ⟨t, hx, hstd, hm, hsp, hb, -⟩ := ht.bar_stored hst (State.barKind_of_pending (hp ▸ List.mem_singleton_self (id, q))) (State.settleBar_one hs hg hi hp ht.turn) f
    exact ⟨t, hx, hstd, hm, hsp, hb⟩
  · obtain ⟨⟨u, hu, he, hbits⟩, ho, hm, hsp⟩ := h.bctest_writes (ph := ph) pd ha hs
    rw [Thread.setPred_frame] at he hbits
    refine ⟨_, u, rfl, hu, ho, hm, hsp, ?_, hbits⟩
    rw [Thread.setPred_frame]
    exact he

end Sys2Proof.Machine
end

section
/-! LAWS. View accesses at a gleaner, one part after the other (09 R212, R214, R216), and atomics of far-atomic pages at the HBM-side unit (R185): the bytes each
reads and writes. -/

namespace Sys2Proof.Machine

/-! ## Bytes of a view on this device -/

/-- The bytes of a view access all stand on this device. -/
def State.hereAll (s : State) (l : List (Nat × TbEntry)) : Prop := ∀ x ∈ l, s.away x.2 (x.2.pa x.1) = false

/-- Where a byte of a view access stands. -/
def State.bytePlace (s : State) (x : Nat × TbEntry) : Option Nat × Nat := s.placeOf x.2 (x.2.pa x.1)

/-- A byte of a view access. -/
def State.viewByteAt (s : State) (x : Nat × TbEntry) : Byte := s.placeByte (s.bytePlace x).1 (s.bytePlace x).2

theorem State.viewPlaces_eq (s : State) (l : List (Nat × TbEntry)) : s.viewPlaces l = l.map s.bytePlace := rfl

theorem State.placesNat_viewPlaces (s : State) (l : List (Nat × TbEntry)) : s.placesNat (s.viewPlaces l) = leNat (l.map s.viewByteAt) := by
  rw [State.placesNat, State.viewPlaces_eq, List.map_map]
  rfl

theorem Accessed.placeOf {s t : State} (h : Accessed s t) (e : TbEntry) (pa : Nat) : t.placeOf e pa = s.placeOf e pa := by
  have hp : (t.core e.own).pinPages = (s.core e.own).pinPages := by
    have := congrArg Core.pinPages (h.cores e.own)
    exact this
  rw [State.placeOf, State.placeOf, hp]

theorem Accessed.bytePlace {s t : State} (h : Accessed s t) : t.bytePlace = s.bytePlace := funext fun _ => h.placeOf ..

theorem Accessed.hereAll {s t : State} (h : Accessed s t) {l : List (Nat × TbEntry)} (hl : s.hereAll l) : t.hereAll l := fun x hx => by
  rw [← hl x hx, State.away, State.away, h.placeOf, State.device, State.device, h.locked]

theorem State.hereAll.sublist {s : State} {l m : List (Nat × TbEntry)} (h : s.hereAll l) (hs : m.Sublist l) : s.hereAll m := fun x hx => h x (hs.subset hx)

/-! ## Reads -/

theorem State.readSectors_like (s : State) (l : List (Nat × TbEntry)) : Like s (s.readSectors l) := by
  refine List.foldlRecOn (motive := Like s) _ _ (Like.refl s) fun t ht q _ => ?_
  split
  · split
    · exact ht
    · exact ht.trans (t.rdPlace_like ..).1
  · exact ht

theorem State.placeBytes_one (s : State) (o : Option Nat) (a : Nat) : s.placeBytes o a 1 = [s.placeByte o a] := by cases o <;> rfl

theorem State.viewTake_here {s : State} : ∀ {l : List (Nat × TbEntry)}, s.hereAll l → s.viewTake l = (s, l.map s.viewByteAt)
  | [], _ => rfl
  | (a, e) :: l, h => by
    have h1 : s.away e (e.pa a) = false := h (a, e) List.mem_cons_self
    have h2 : s.hereAll l := fun x hx => h x (List.mem_cons_of_mem _ hx)
    have hb : s.placeBytes (s.placeOf e (e.pa a)).1 (s.placeOf e (e.pa a)).2 1 = [s.viewByteAt (a, e)] := State.placeBytes_one ..
    simp only [State.viewTake, h1, Bool.false_eq_true, if_false, State.viewTake_here h2, hb]
    rfl

/-- Bytes of this device are read as they stand. -/
theorem State.viewRead_here {s : State} {l : List (Nat × TbEntry)} (h : s.hereAll l) : Like s (s.viewRead l).1 ∧ (s.viewRead l).2 = l.map s.viewByteAt := by
  have hl := s.readSectors_like l
  have ha := s.readSectors_accessed l
  rw [State.viewRead, State.viewTake_here (ha.hereAll h)]
  refine ⟨hl, List.map_congr_left fun x _ => ?_⟩
  rw [State.viewByteAt, ha.bytePlace, hl.placeByte]
  rfl

/-! ## Writes -/

/-- From s to t the bytes at places have become those listed with them, and no other byte of memory has changed. -/
structure PlacesWrote (s t : State) (l : List ((Option Nat × Nat) × Byte)) : Prop where
  ok : t.memoriesOk
  but : ∀ o y, (∀ x ∈ l, x.1 ≠ (o, y)) → t.placeByte o y = s.placeByte o y
  bytes : (l.map Prod.fst).Nodup → ∀ x ∈ l, t.placeByte x.1.1 x.1.2 = x.2

theorem PlacesWrote.perm {s t : State} {l m : List ((Option Nat × Nat) × Byte)} (h : PlacesWrote s t l) (hp : l.Perm m) : PlacesWrote s t m :=
  ⟨h.ok, fun o y hy => h.but o y fun x hx => hy x (hp.mem_iff.mp hx), fun hn x hx => h.bytes ((hp.map Prod.fst).nodup_iff.mpr hn) x (hp.mem_iff.mpr hx)⟩

/-- Two writes one after the other. -/
theorem PlacesWrote.cons {s t u : State} {x : (Option Nat × Nat) × Byte} {l : List ((Option Nat × Nat) × Byte)} (h : PlacesWrote s t [x])
    (g : PlacesWrote t u l) : PlacesWrote s u (x :: l) := by
  refine ⟨g.ok, fun o y hy => ?_, fun hn z hz => ?_⟩
  · rw [g.but o y fun z hz => hy z (List.mem_cons_of_mem _ hz)]
    exact h.but o y fun z hz => hy z (List.mem_singleton.mp hz ▸ List.mem_cons_self)
  · obtain ⟨hx, hl⟩ := List.nodup_cons.mp hn
    rcases List.mem_cons.mp hz with rfl | hz
    · rw [g.but _ _ fun y hy he => hx (List.mem_map.mpr ⟨y, hy, he⟩)]
      exact h.bytes (List.nodup_singleton _) _ (List.mem_singleton_self _)
    · exact g.bytes hl z hz

/-- One byte written at its place. -/
theorem State.wrPhys_byte {s : State} (hs : s.memoriesOk) (c : Nat) (w : Option Ref) (x : Nat × TbEntry) (b : Byte) (src : Option SyncSrc) :
    PlacesWrote s (s.wrPhys c w x.2 x.1 (x.2.pa x.1) [b] src) [(s.bytePlace x, b)] := by
  have h := s.wrPhys_wrote c w x.2 x.1 (x.2.pa x.1) [b] src false
  refine ⟨hs.wrPhys, fun o y hy => h.but o y ?_, fun _ z hz => ?_⟩
  · rintro ⟨ho, h1, h2⟩
    refine hy _ (List.mem_singleton_self _) (Prod.ext ho.symm ?_)
    have h2 : y < (s.placeOf x.2 (x.2.pa x.1)).2 + 1 := h2
    show (s.placeOf x.2 (x.2.pa x.1)).2 = y
    omega
  · rw [List.mem_singleton.mp hz]
    have hv := h.value hs.places
    apply BitVec.eq_of_toNat_eq
    exact hv

/-- The bytes of a list are written one by one. -/
theorem State.wrPhys_bytes (c : Nat) (w : Option Ref) (src : Option SyncSrc) : ∀ (l : List ((Nat × TbEntry) × Byte)) {s : State}, s.memoriesOk →
    PlacesWrote s (l.foldl (fun s x => s.wrPhys c w x.1.2 x.1.1 (x.1.2.pa x.1.1) [x.2] src) s) (l.map fun x => (s.bytePlace x.1, x.2))
  | [], _, hs => ⟨hs, fun _ _ _ => rfl, fun _ x hx => absurd hx List.not_mem_nil⟩
  | x :: l, s, hs => by
    have h1 := State.wrPhys_byte hs c w x.1 x.2 src
    have ha := s.wrPhys_accessed c w x.1.2 x.1.1 (x.1.2.pa x.1.1) [x.2] src false
    have h2 := State.wrPhys_bytes c w src l h1.ok
    rw [ha.bytePlace] at h2
    exact h1.cons h2

/-- A list gathered by its keys is the list in another order. -/
theorem perm_byKey {α : Type} (f : α → Nat) : ∀ (n : Nat) (l : List α), l.length ≤ n →
    List.Perm ((l.map f).eraseDups.flatMap fun k => l.filter fun x => f x == k) l
  | _, [], _ => List.Perm.refl _
  | n + 1, a :: l, h => by
    let rest := l.filter fun x => !f x == f a
    have hlen : rest.length ≤ n := (List.length_filter_le _ _).trans (by simpa using h)
    have hkeys : (l.map f).filter (fun b => !b == f a) = rest.map f := List.filter_map ..
    have hrest : (a :: l).filter (fun x => !f x == f a) = rest := List.filter_cons_of_neg (by simp)
    have hlater : ((rest.map f).eraseDups.flatMap fun k => (a :: l).filter fun x => f x == k) =
        (rest.map f).eraseDups.flatMap fun k => rest.filter fun x => f x == k := by
      refine List.flatMap_congr fun k hk => ?_
      obtain ⟨y, hy, rfl⟩ := List.mem_map.mp (List.mem_eraseDups.mp hk)
      have hne : f y ≠ f a := by simpa using (List.mem_filter.mp hy).2
      rw [← hrest, List.filter_filter]
      refine List.filter_congr fun x _ => ?_
      by_cases hx : f x = f y
      · simp [hx, hne]
      · simp [hx]
    rw [List.map_cons, List.eraseDups_cons, hkeys, List.flatMap_cons, hlater]
    refine ((perm_byKey f n rest hlen).append_left _).trans ?_
    rw [← hrest]
    exact List.filter_append_perm _ _

/-- Base sectors of this device are written one after the other. -/
theorem State.writeSectors_here (w : Option Ref) (src : Option SyncSrc) (m : List ((Nat × TbEntry) × Byte)) : ∀ (ks : List Nat) {s : State},
    s.hereAll (m.map Prod.fst) → ks.foldl (fun s k => s.writeSector w src (inSector k m)) s =
      (ks.flatMap fun k => inSector k m).foldl (fun s x => s.wrPhys 128 w x.1.2 x.1.1 (x.1.2.pa x.1.1) [x.2] src) s
  | [], _, _ => rfl
  | k :: ks, s, h => by
    have h1 : s.writeSector w src (inSector k m) = (inSector k m).foldl (fun s x => s.wrPhys 128 w x.1.2 x.1.1 (x.1.2.pa x.1.1) [x.2] src) s := by
      cases hm : inSector k m with
      | nil => rfl
      | cons x l =>
        have hx : x ∈ m := (List.mem_filter.mp (hm ▸ List.mem_cons_self : x ∈ inSector k m)).1
        have := h x.1 (List.mem_map_of_mem hx)
        rw [State.writeSector, if_neg (by simp [this])]
    rw [List.foldl_cons, List.flatMap_cons, List.foldl_append, ← h1]
    exact State.writeSectors_here w src m ks ((s.writeSector_accessed w src _).hereAll h)

/-- Bytes of this device are written at their places. -/
theorem State.viewWrite_here {s : State} (hs : s.memoriesOk) (w : Option Ref) (src : Option SyncSrc) {bs : List (Nat × TbEntry)} {l : List Byte}
    (h : s.hereAll bs) (hl : bs.length = l.length) : PlacesWrote s (s.viewWrite w src bs l) ((bs.map s.bytePlace).zip l) := by
  have hfst : (bs.zip l).map Prod.fst = bs := List.map_fst_zip hl.le
  have hk : viewSectors bs = ((bs.zip l).map fun x => x.1.2.pa x.1.1 / 32).eraseDups := by
    conv_lhs => rw [← hfst]
    rw [viewSectors, List.map_map]
    rfl
  rw [State.viewWrite, State.writeSectors_here w src _ _ (by rwa [hfst]), hk, List.zip_map_left]
  exact (State.wrPhys_bytes 128 w src _ hs).perm ((perm_byKey _ _ _ le_rfl).map _)

/-! ## The parts of a view access -/

/-- Every byte of a view access, with its number. -/
def Req.gleanAll (q : Req) : List GleanByte := q.view.zipIdx.map fun x => (x.2, x.1)

theorem Req.bytesLeft_sublist (q : Req) : q.bytesLeft.Sublist q.gleanAll := List.filter_sublist

theorem Req.nextPart_sublist (q : Req) : q.nextPart.Sublist q.bytesLeft := by
  rw [Req.nextPart]
  split
  · exact List.nil_sublist _
  · exact List.filter_sublist

theorem Req.part_sublist (q : Req) : q.nextPart.Sublist q.gleanAll := q.nextPart_sublist.trans q.bytesLeft_sublist

theorem Req.gleanAll_snd (q : Req) : q.gleanAll.map Prod.snd = q.view := by
  rw [Req.gleanAll, List.map_map]
  exact List.zipIdx_map_fst 0 q.view

theorem Req.gleanAll_fst (q : Req) : (q.gleanAll.map Prod.fst).Nodup := by
  rw [Req.gleanAll, List.map_map]
  exact List.nodup_zipIdx_map_snd q.view

theorem Req.part_fst (q : Req) : (q.nextPart.map Prod.fst).Nodup := q.gleanAll_fst.sublist (q.part_sublist.map _)

theorem Req.part_snd (q : Req) : (q.nextPart.map Prod.snd).Sublist q.view := q.gleanAll_snd ▸ q.part_sublist.map Prod.snd

/-- The bytes left are those not gleaned. -/
theorem Req.mem_bytesLeft {q : Req} {x : GleanByte} : x ∈ q.bytesLeft ↔ x ∈ q.gleanAll ∧ tget q.glean.got x.1 = none := by
  rw [Req.bytesLeft, List.mem_filter, Option.isNone_iff_eq_none]
  rfl

/-- A part takes all bytes left of an element that it takes in a sector (09 R214). -/
theorem Req.nextPart_closed {q : Req} {x y : GleanByte} (hx : x ∈ q.nextPart) (hy : y ∈ q.bytesLeft) (hg : q.granuleOf y = q.granuleOf x) : y ∈ q.nextPart := by
  cases hl : q.bytesLeft with
  | nil => rw [hl] at hy; exact absurd hy List.not_mem_nil
  | cons z l =>
    have he : q.nextPart = q.bytesLeft.filter fun x => ((q.bytesLeft.filter fun x => gleanSector x == gleanSector z).map q.granuleOf).contains (q.granuleOf x) := by
      rw [Req.nextPart]
      split
      · next h => rw [h] at hl; cases hl
      · next h => rw [h] at hl; cases hl; rw [h]
    rw [he] at hx ⊢
    refine List.mem_filter.mpr ⟨hy, ?_⟩
    rw [hg]
    exact (List.mem_filter.mp hx).2

/-- Bytes taken stand under their numbers. -/
theorem tget_gleaned (b : GleanByte → Byte) : ∀ (part : List GleanByte) (got : Tab Byte), (part.map Prod.fst).Nodup →
    (∀ x ∈ part, tget ((part.zip (part.map b)).foldl (fun t x => tput t x.1.1 x.2) got) x.1 = some (b x)) ∧
      ∀ k, (∀ x ∈ part, x.1 ≠ k) → tget ((part.zip (part.map b)).foldl (fun t x => tput t x.1.1 x.2) got) k = tget got k
  | [], _, _ => ⟨fun _ h => absurd h List.not_mem_nil, fun _ _ => rfl⟩
  | y :: part, got, hn => by
    obtain ⟨hy, hn⟩ := List.nodup_cons.mp hn
    obtain ⟨h1, h2⟩ := tget_gleaned b part (tput got y.1 (b y)) hn
    refine ⟨fun x hx => ?_, fun k hk => ?_⟩
    · rcases List.mem_cons.mp hx with rfl | hx
      · exact (h2 x.1 fun z hz he => hy (List.mem_map.mpr ⟨z, hz, he⟩)).trans (tget_tput_same ..)
      · exact h1 x hx
    · exact (h2 k fun x hx => hk x (List.mem_cons_of_mem _ hx)).trans (tget_tput_ne _ _ (hk y List.mem_cons_self).symm)

theorem Req.take_got (q : Req) (b : GleanByte → Byte) (tags : List (List SyncSrc)) :
    ∀ x ∈ q.nextPart, tget (q.take q.nextPart (q.nextPart.map b) tags).glean.got x.1 = some (b x) := (tget_gleaned b q.nextPart q.glean.got q.part_fst).1

/-- Nothing is left once the last part is taken. -/
theorem Req.take_last {q : Req} (b : GleanByte → Byte) (tags : List (List SyncSrc)) (h : ∀ x ∈ q.bytesLeft, x ∈ q.nextPart) :
    (q.take q.nextPart (q.nextPart.map b) tags).bytesLeft = [] := by
  refine List.eq_nil_iff_forall_not_mem.mpr fun x hx => ?_
  obtain ⟨hall, hnone⟩ := Req.mem_bytesLeft.mp hx
  have hall : x ∈ q.gleanAll := hall
  have hout : ∀ y ∈ q.nextPart, y.1 ≠ x.1 := fun y hy he => by
    rw [← he, q.take_got b tags y hy] at hnone
    cases hnone
  have hgot := (tget_gleaned b q.nextPart q.glean.got q.part_fst).2 x.1 hout
  exact hout x (h x (Req.mem_bytesLeft.mpr ⟨hall, hgot.symm.trans hnone⟩)) rfl

/-- The bytes gleaned, where the first part is the whole access. -/
theorem Req.take_gleaned {q : Req} (f : Nat × TbEntry → Byte) (tags : List (List SyncSrc)) (hg : q.glean.got = []) (h : ∀ x ∈ q.bytesLeft, x ∈ q.nextPart) :
    (q.take q.nextPart (q.nextPart.map fun x => f x.2) tags).gleaned = q.view.map f := by
  have hb : ∀ x ∈ q.view.zipIdx, (tget (q.take q.nextPart (q.nextPart.map fun x => f x.2) tags).glean.got x.2).getD 0 = f x.1 := fun x hx => by
    have hmem : (x.2, x.1) ∈ q.bytesLeft := Req.mem_bytesLeft.mpr ⟨List.mem_map_of_mem hx, by rw [hg]; rfl⟩
    rw [q.take_got (fun x => f x.2) tags _ (h _ hmem)]
    rfl
  rw [Req.gleaned]
  refine (List.map_congr_left hb).trans ?_
  rw [show (fun x : (Nat × TbEntry) × Nat => f x.1) = f ∘ Prod.fst from rfl, ← List.map_map, List.zipIdx_map_fst]

/-! ## The end of a view access -/

theorem State.afterAccess_reqs (s : State) (core : Nat) (r : Ref) (op : ReqOp) (acq : Bool) (sc : Scope) (c : Classes) (l : List SyncSrc) :
    (s.afterAccess core r op acq sc c l).reqs = s.reqs := by
  have hread : (s.readSync r acq sc c l).reqs = s.reqs := by
    rw [State.readSync]
    split
    · rw [State.observe]
      split <;> rfl
    · rw [State.remember]
      split <;> rfl
  have hacq : ∀ u : State, (u.acquireCaches core sc).reqs = u.reqs := fun u => by
    rw [State.acquireCaches]
    split <;> rfl
  rw [State.afterAccess]
  split <;> split <;> simp only [hacq, hread]

/-- A request as it stands once it has been performed. -/
def Req.performedAs (q : Req) (v flags : Nat) : Req := { q with stage := .performed (BitVec.ofNat 128 v), flags := BitVec.ofNat 32 flags }

theorem State.performedView_req {s : State} {id : Nat} {x : Req} (q : Req) (v flags : Nat) (tags : List SyncSrc) (h : tget s.reqs id = some x) :
    tget (s.performedView id q v flags tags).reqs id = some (x.performedAs v flags) := by
  rw [State.performedView, State.afterAccess_reqs]
  show tget (tmod s.reqs id _) id = _
  rw [tget_tmod_same, h]
  rfl

theorem State.performedView_memory {s : State} {id : Nat} {q : Req} {th : Thread} (v flags : Nat) (tags : List SyncSrc) (h : s.thread? q.ref = some th) :
    MemorySame s (s.performedView id q v flags tags) := by
  have hth : (s.modReq id fun q => { q with stage := .performed (BitVec.ofNat 128 v), flags := BitVec.ofNat 32 flags }).thread? q.ref = some th := h
  obtain ⟨⟨u, hu, -⟩, -⟩ := State.afterAccess_readBy q.core q.op q.acq q.scope q.cls tags hth
  exact hu.2.2.1

theorem State.viewLine_accessed (s : State) (core ctx va : Nat) : Accessed s (s.viewLine core ctx va).1 := by
  have h1 := s.xlate_accessed core ctx va accLoad
  rw [State.viewLine]
  split
  · next hx => exact h1.of_eq hx
  · next u e hx =>
    have h2 := (h1.of_eq hx).trans (u.viewEnts_accessed core ctx e.tid)
    split
    · next hy => exact h2.of_eq hy
    · next w ve hy =>
      have h3 := (h2.of_eq hy).trans (State.viewBytes_accessed core ctx ve accLoad 128 (e.shadow (va / 128 * 128)) w)
      split
      · next hz => exact h3.of_eq hz
      · next z l hz => exact (h3.of_eq hz).trans (z.viewRead_accessed l)

/-- A view load that has read every byte is performed with what it gleaned. -/
theorem State.gleanEnd_req {s : State} {id : Nat} {q : Req} (h : tget s.reqs id = some q) :
    tget (s.gleanEnd id q).reqs id = some (q.performedAs (leNat q.gleaned) 0) := by
  have ha := s.viewLine_accessed q.core q.ctx q.va
  rw [State.gleanEnd]
  generalize s.viewLine q.core q.ctx q.va = y at ha ⊢
  obtain ⟨u, line⟩ := y
  have hu : tget u.reqs id = some q := by rw [ha.reqs, h]
  cases line with
  | none => exact State.performedView_req _ _ _ _ hu
  | some x => exact State.performedView_req _ _ _ _ hu

theorem State.dropViewLines_pins (s : State) (c : Nat) (l : List (Nat × TbEntry)) : MemorySame s (s.dropViewLines c l) := by
  rw [State.dropViewLines]
  split
  · exact fun _ _ => rfl
  · exact List.foldlRecOn (motive := MemorySame s) _ _ (fun _ _ => rfl) fun t ht x _ => ht.trans (State.dropL1Line_like ..).memory

/-- A request whose reads of a part's sectors no other read combines with. -/
def Req.uncombined (q : Req) (part : List GleanByte) : Req :=
  { q with glean := { q.glean with readAt := q.glean.readAt.filter fun y => !(part.map gleanSector).contains y.1 } }

theorem State.endCombining_req {s : State} {id : Nat} {q : Req} (part : List GleanByte) (h : tget s.reqs id = some q) :
    tget (s.endCombining part).reqs id = some (q.uncombined part) := by
  refine (tget_map s.reqs (fun _ x => x.uncombined part) id).trans ?_
  rw [h]
  rfl

/-! ## A view access in its turn -/

section Turns
variable {s : State} {id : Nat} {q : Req} {th : Thread}

/-- Bytes of this device need no port and get no fault. -/
theorem State.viewPorts_here {l : List (Nat × TbEntry)} (h : s.hereAll l) : s.viewPorts l = true :=
  List.all_eq_true.mpr fun x hx => by simp [State.noPort, h x hx]

theorem State.partAnswer_here {part : List GleanByte} (h : s.hereAll (part.map Prod.snd)) : s.partAnswer part = (s, none) := by
  have hf : (part.map Prod.snd).find? (fun x => s.away x.2 (x.2.pa x.1)) = none := List.find?_eq_none.mpr fun x hx => by simp [h x hx]
  rw [State.partAnswer, State.viewAnswer]
  simp only [hf]

theorem State.partTags_here {part : List GleanByte} (h : s.hereAll (part.map Prod.snd)) : ∃ tags, s.partTags part = (s, tags) := by
  have hf : part.find? (fun x => s.away x.2.2 (x.2.2.pa x.2.1)) = none :=
    List.find?_eq_none.mpr fun x hx => by simp [h x.2 (List.mem_map_of_mem hx)]
  refine ⟨part.map fun x => s.placeTags x.2.2 (x.2.2.pa x.2.1) 1, ?_⟩
  rw [State.partTags]
  simp only [hf]

/-- An acquire reads a part as it stands. -/
theorem State.readPart_acquire (hq : q.acq = true) {part : List GleanByte} (h : s.hereAll (part.map Prod.snd)) :
    ∃ u k tags, s.readPart id q part = (u, k, part.map fun x => s.viewByteAt x.2, tags) ∧ Accessed s u := by
  have hc : ∀ (t : State) (x : Nat × Req), t.combinesWith id q part x.1 x.2 = none := fun t x => by
    unfold State.combinesWith
    split
    · rfl
    · dsimp only
      split
      · rfl
      · rw [if_neg (by simp [hq])]
  have hd := s.draw_accessed
  have hn : (if Config.combines s.draw.1 then s.draw.2.reqs.findSome? fun x => s.draw.2.combinesWith id q part x.1 x.2 else none) = none := by
    split
    · exact List.findSome?_eq_none_iff.mpr fun x _ => hc _ x
    · rfl
  obtain ⟨tags, ht⟩ := State.partTags_here (hd.hereAll h)
  have hb := (State.viewRead_here (hd.hereAll h)).2
  rw [List.map_map] at hb
  refine ⟨(s.draw.2.viewRead (part.map Prod.snd)).1, s.draw.1, tags, ?_, hd.trans (State.viewRead_accessed ..)⟩
  have he : s.readPart id q part = ((s.draw.2.viewRead (part.map Prod.snd)).1, s.draw.1, (s.draw.2.viewRead (part.map Prod.snd)).2, tags) := by
    unfold State.readPart
    simp only [hn, ht]
  rw [he, hb]
  rfl

/-- An acquiring view load takes its next part, and is performed with its last. -/
theorem State.gleanLoad_acquire (hr : tget s.reqs id = some q) (hq : q.acq = true) (h : s.hereAll q.view) :
    ∃ q', tget (s.gleanLoad id q).reqs id = some q' ∧ (∀ x ∈ q.nextPart, tget q'.glean.got x.1 = some (s.viewByteAt x.2)) ∧
      (q.glean.got = [] → (∀ x ∈ q.bytesLeft, x ∈ q.nextPart) → q'.stage = .performed (BitVec.ofNat 128 (leNat (q.view.map s.viewByteAt)))) := by
  obtain ⟨u, k, tags, hp, hu⟩ := State.readPart_acquire (id := id) hq (h.sublist q.part_snd)
  let q1 := q.take q.nextPart (q.nextPart.map fun x => s.viewByteAt x.2) tags
  let q2 : Req := { q1 with glean := { q1.glean with readAt := (q.nextPart.map gleanSector).foldl (fun t x => tput t x k) q1.glean.readAt } }
  let w := ((u.dropViewLines q.core (q.nextPart.map Prod.snd)).sawRead q.core k).modReq id fun _ => q2
  have he : s.gleanLoad id q = if q2.bytesLeft.isEmpty then w.gleanEnd id q2 else w := by
    unfold State.gleanLoad
    simp only [hq, Bool.true_or, if_true, ite_self, Option.isSome_none, Bool.false_eq_true, if_false, hp]
    rfl
  have hw : tget w.reqs id = some q2 := by
    show tget (tmod (u.dropViewLines q.core (q.nextPart.map Prod.snd)).reqs id _) id = _
    rw [tget_tmod_same, (State.dropViewLines_accessed ..).reqs, hu.reqs, hr]
    rfl
  have hgot := q.take_got (fun x => s.viewByteAt x.2) tags
  rw [he]
  split
  · refine ⟨_, State.gleanEnd_req hw, hgot, fun hg hall => ?_⟩
    have := q.take_gleaned s.viewByteAt tags hg hall
    show ReqStage.performed (BitVec.ofNat 128 (leNat q1.gleaned)) = _
    rw [this]
  · next hne =>
    refine ⟨q2, hw, hgot, fun _ hall => absurd ?_ hne⟩
    have := Req.take_last (fun x => s.viewByteAt x.2) tags hall
    show q1.bytesLeft.isEmpty = true
    rw [this]
    rfl

/-- The values a list of places takes, where each of its pairs with a value says so. -/
theorem map_of_zip {α β : Type} {f : α → β} : ∀ {l : List α} {m : List β}, l.length = m.length → (∀ x ∈ l.zip m, f x.1 = x.2) → l.map f = m
  | [], [], _, _ => rfl
  | a :: l, b :: m, h, hf => by
    rw [List.map_cons, hf (a, b) List.mem_cons_self, map_of_zip (Nat.succ.inj h) fun x hx => hf x (List.mem_cons_of_mem _ hx)]

/-- A view store writes its next part, and is performed with its last. -/
theorem State.gleanStore_here (hs : s.memoriesOk) (hr : tget s.reqs id = some q) (hth : s.thread? q.ref = some th) (h : s.hereAll q.view)
    (hlen : q.view.length = q.bytes) (hn : (s.viewPlaces q.view).Nodup) :
    ∃ q', tget (s.gleanStore id q).reqs id = some q' ∧
      (∀ x ∈ q.nextPart, (s.gleanStore id q).placeByte (s.bytePlace x.2).1 (s.bytePlace x.2).2 = BitVec.ofNat 8 (q.data.toNat / 256 ^ x.1)) ∧
      (∀ o y, (∀ x ∈ q.nextPart, s.bytePlace x.2 ≠ (o, y)) → (s.gleanStore id q).placeByte o y = s.placeByte o y) ∧
      ((∀ x ∈ q.bytesLeft, x ∈ q.nextPart) → q'.stage = .performed 0) := by
  let b : GleanByte → Byte := fun x => (natLe q.bytes q.data.toNat).getD x.1 0
  let part := q.nextPart
  let v := s.viewWrite (some q.ref) q.src (part.map Prod.snd) (part.map b)
  let u := (v.dropViewLines q.core (part.map Prod.snd)).dropVbuf q.core
  let q1 := q.take part (part.map b) []
  let w := (u.endCombining part).modReq id fun _ => q1
  have he : s.gleanStore id q = if q1.bytesLeft.isEmpty then w.performedView id q1 0 0 [] else w := rfl
  have hw := State.viewWrite_here hs (some q.ref) q.src (h.sublist q.part_snd) (l := part.map b) (by rw [List.length_map, List.length_map])
  have hva : Accessed s v := State.viewWrite_accessed ..
  have hua : Accessed s u := (hva.trans (State.dropViewLines_accessed ..)).trans (State.dropVbuf_accessed ..)
  have hwr : tget w.reqs id = some q1 := by
    show tget (tmod (u.endCombining part).reqs id _) id = _
    rw [tget_tmod_same, State.endCombining_req part (by rw [hua.reqs, hr])]
    rfl
  have hvu : MemorySame v u := (State.dropViewLines_pins v q.core (part.map Prod.snd)).trans (State.dropVbuf_like ..).memory
  have hvw : MemorySame v w := hvu
  have hend : MemorySame v (s.gleanStore id q) := by
    rw [he]
    split
    · have hwt : w.thread? q1.ref = some th := (hua.thread? q.ref).trans hth
      exact hvw.trans (State.performedView_memory 0 0 [] hwt)
    · exact hvw
  have hplaces : (part.map Prod.snd).map s.bytePlace = part.map fun x => s.bytePlace x.2 := List.map_map
  rw [hplaces, List.zip_map'] at hw
  have hnd : ((part.map fun x => (s.bytePlace x.2, b x)).map Prod.fst).Nodup := by
    rw [List.map_map]
    refine List.Nodup.sublist ?_ hn
    rw [State.viewPlaces_eq]
    have := q.part_snd.map s.bytePlace
    rwa [hplaces] at this
  have hnum : ∀ x ∈ part, b x = BitVec.ofNat 8 (q.data.toNat / 256 ^ x.1) := fun x hx => by
    obtain ⟨y, hy, rfl⟩ := List.mem_map.mp (q.part_sublist.subset hx)
    obtain ⟨-, hlt, -⟩ := List.mem_zipIdx hy
    exact natLe_getD _ _ _ (by dsimp only; omega)
  refine ⟨if q1.bytesLeft.isEmpty then q1.performedAs 0 0 else q1, ?_, fun x hx => ?_, fun o y hy => ?_, fun hall => ?_⟩
  · rw [he]
    split
    · exact State.performedView_req _ _ _ _ hwr
    · exact hwr
  · rw [hend, ← hnum x hx]
    exact hw.bytes hnd _ (List.mem_map_of_mem hx)
  · rw [hend]
    refine hw.but o y fun z hz => ?_
    obtain ⟨x, hx, rfl⟩ := List.mem_map.mp hz
    exact hy x hx
  · rw [if_pos (by rw [show q1.bytesLeft = [] from Req.take_last b [] hall]; rfl)]
    rfl

/-- The logical and whole-number atomics always write. -/
theorem tableNew_some {aop : Nat} (n old v : Nat) (m : Mode) (h : aop ≤ 8) : ∃ y, tableNew aop n old v m = some y := by
  match aop, h with
  | 0, _ | 1, _ | 2, _ | 3, _ | 4, _ | 5, _ | 6, _ | 7, _ | 8, _ => exact ⟨_, rfl⟩
  | k + 9, h => exact absurd h (by omega)

/-- What they write is Table 13.3's, a number of the access's width. -/
theorem atomNew_writes {aop n old : Nat} (v : Nat) (m : BitVec 2) (h : aop ≤ 8) (ho : old < 2 ^ (8 * n)) :
    ∃ y f, atomNew aop n old v m.toNat = (some y, f) ∧ tableNew aop n old v m = some y ∧ y < 2 ^ (8 * n) := by
  have hmode : ((m.toNat : Nat) : Mode) = m := (BitVec.ofNat_toNat ..).trans (BitVec.setWidth_eq _)
  obtain ⟨htab, hlt⟩ := atomNew_table (aop := aop) v m (fun h10 => by omega) (fun h11 => by omega) ho
  obtain ⟨y, hy⟩ := tableNew_some n old v m h
  exact ⟨y, _, by rw [hmode, htab, hy], hy, hlt y hy⟩

/-- An atomic acts on its base element. -/
theorem State.combine_here (hs : s.memoriesOk) (hr : tget s.reqs id = some q) (hth : s.thread? q.ref = some th) (h : s.hereAll q.view)
    (hlen : q.view.length = q.bytes) (hn : (s.viewPlaces q.view).Nodup) {aop : Nat} (v : Quad) (ha : aop ≤ 8) :
    ∃ q', tget (s.combine id q aop v).reqs id = some q' ∧ q'.stage = .performed (BitVec.ofNat 128 (s.placesNat (s.viewPlaces q.view))) ∧
      (s.combine id q aop v).placesNat (s.viewPlaces q.view) = (tableNew aop q.bytes (s.placesNat (s.viewPlaces q.view)) v.toNat q.rmode).getD 0 ∧
      ∀ o x, (o, x) ∉ s.viewPlaces q.view → (s.combine id q aop v).placeByte o x = s.placeByte o x := by
  obtain ⟨tags, ht⟩ := State.partTags_here (h.sublist q.part_snd)
  obtain ⟨hlike, hbytes⟩ := State.viewRead_here h
  have hread := s.viewRead_accessed q.view
  have hold : leNat (s.viewRead q.view).2 = s.placesNat (s.viewPlaces q.view) := by rw [hbytes, State.placesNat_viewPlaces]
  have hlt : leNat (s.viewRead q.view).2 < 2 ^ (8 * q.bytes) := by
    have := leNat_lt (s.viewRead q.view).2
    rwa [hbytes, List.length_map, hlen, ← hbytes, show (256 : Nat) = 2 ^ 8 from rfl, ← Nat.pow_mul] at this
  obtain ⟨y, f, hnew, htab, hy⟩ := atomNew_writes v.toNat q.rmode ha hlt
  rw [hold] at htab hnew
  let r := (s.viewRead q.view).1
  let z := r.viewWrite (some q.ref) q.src q.view (natLe q.bytes y)
  let u := (z.dropViewLines q.core q.view).dropVbuf q.core
  let w := u.endCombining q.nextPart
  have he : s.combine id q aop v = w.performedView id q (s.placesNat (s.viewPlaces q.view)) f tags.flatten.eraseDups := by
    unfold State.combine
    simp only [ht, hold, hnew]
    rfl
  have hza : Accessed s z := hread.trans (State.viewWrite_accessed ..)
  have hua : Accessed s u := (hza.trans (State.dropViewLines_accessed ..)).trans (State.dropVbuf_accessed ..)
  have hwq := State.endCombining_req q.nextPart (s := u) (id := id) (q := q) (by rw [hua.reqs, hr])
  have hwt : w.thread? q.ref = some th := (hua.thread? q.ref).trans hth
  have hmem : MemorySame z (s.combine id q aop v) := by
    rw [he]
    exact ((State.dropViewLines_pins z q.core q.view).trans (State.dropVbuf_like _ q.core).memory).trans (State.performedView_memory _ _ _ hwt)
  have hw := State.viewWrite_here hs.viewRead (some q.ref) q.src (hread.hereAll h) (l := natLe q.bytes y) (by rw [length_natLe, hlen])
  rw [hread.bytePlace, ← State.viewPlaces_eq] at hw
  have hlens : (s.viewPlaces q.view).length = (natLe q.bytes y).length := by rw [State.viewPlaces_eq, List.length_map, length_natLe, hlen]
  refine ⟨_, he ▸ State.performedView_req _ _ _ _ hwq, rfl, ?_, fun o x hx => ?_⟩
  · have hvals : (s.viewPlaces q.view).map (fun x => (s.combine id q aop v).placeByte x.1 x.2) = natLe q.bytes y :=
      map_of_zip hlens fun x hx => (hmem _ _).trans (hw.bytes (by rwa [List.map_fst_zip hlens.le]) x hx)
    rw [State.placesNat, hvals, htab, leNat_natLe, show (256 : Nat) = 2 ^ 8 from rfl, ← Nat.pow_mul, Nat.mod_eq_of_lt hy]
    rfl
  · rw [hmem, hw.but o x fun p hp hpe => hx (hpe ▸ (List.of_mem_zip hp).1), hlike.placeByte]

theorem State.placeNat_lt (s : State) (o : Option Nat) (a n : Nat) : s.placeNat o a n < 2 ^ (8 * n) := by
  have h := leNat_lt (s.placeBytes o a n)
  rwa [State.length_placeBytes, s.leNat_placeBytes, show (256 : Nat) = 2 ^ 8 from rfl, ← Nat.pow_mul] at h

/-- An atomic that is performed on an ordinary page reads the bytes at its place and writes those of Table 13.3. -/
theorem State.performOrd_atom (hs : s.memoriesOk) (c : Nat) (r : Ref) (e : TbEntry) (pa va n : Nat) (data : Quad) (m : BitVec 2) (acq : Bool)
    (src : Option SyncSrc) {aop : Nat} (v : Quad) (ha : aop ≤ 8) :
    ∃ u x, s.performOrd c r e pa (.atom aop v) va n data m acq src = (u, x) ∧ x.value = BitVec.ofNat 128 (s.placeNat (s.placeOf e pa).1 (s.placeOf e pa).2 n) ∧
      AtMemory s u ∧ MemorySameBut s u (s.placeOf e pa).1 (s.placeOf e pa).2 n ∧
      u.placeNat (s.placeOf e pa).1 (s.placeOf e pa).2 n = (tableNew aop n (s.placeNat (s.placeOf e pa).1 (s.placeOf e pa).2 n) v.toNat m).getD 0 := by
  obtain ⟨hra, hrl, -, hrb⟩ := s.readPast_spec c e va pa n
  have hold : leNat (s.readPast c e va pa n).2.bytes = s.placeNat (s.placeOf e pa).1 (s.placeOf e pa).2 n := by rw [hrb, s.leNat_placeBytes]
  obtain ⟨y, f, hnew, htab, hy⟩ := atomNew_writes v.toNat m ha (s.placeNat_lt (s.placeOf e pa).1 (s.placeOf e pa).2 n)
  obtain ⟨hwa, hww⟩ := State.storeAt_spec (s.readPast c e va pa n).1 c r e va pa (natLe n y) src true
  rw [hrl.placeOf] at hww
  have hw := hrl.wrote hww
  have hbut := hw.but
  have hval := hw.value hs.places
  rw [length_natLe] at hbut hval
  refine ⟨_, { value := BitVec.ofNat 128 (s.placeNat (s.placeOf e pa).1 (s.placeOf e pa).2 n), flags := f, stored := true, tags := (s.readPast c e va pa n).2.tags },
    ?_, rfl, hra.trans hwa, hbut, hval.trans ?_⟩
  · unfold State.performOrd
    simp only [hold, hnew]
    rfl
  · rw [leNat_natLe, show (256 : Nat) = 2 ^ 8 from rfl, ← Nat.pow_mul, Nat.mod_eq_of_lt hy, htab]
    rfl

theorem MemorySame.placeNat {s t : State} (h : MemorySame s t) (o : Option Nat) : ∀ n a, t.placeNat o a n = s.placeNat o a n
  | 0, _ => rfl
  | n + 1, a => by rw [State.placeNat, State.placeNat, h, h.placeNat o n]

/-- An atomic of a far-atomic page acts at the HBM-side unit. -/
theorem State.faratAtomic_acts (hs : s.memoriesOk) (hr : tget s.reqs id = some q) (hth : s.thread? q.ref = some th) (hm : s.mayPerform id q = true) {e : TbEntry}
    {aop : Nat} {v : Quad} (hst : q.stage = .hbm) (hv : q.view = [(q.va, e)]) (ho : q.op = .atom aop v) (ha : aop ≤ 8) :
    ∃ q', tget (s.faratAtomic id).reqs id = some q' ∧
      q'.stage = .performed (BitVec.ofNat 128 (s.placeNat (s.placeOf e q.pa).1 (s.placeOf e q.pa).2 q.bytes)) ∧
      MemorySameBut s (s.faratAtomic id) (s.placeOf e q.pa).1 (s.placeOf e q.pa).2 q.bytes ∧
      (s.faratAtomic id).placeNat (s.placeOf e q.pa).1 (s.placeOf e q.pa).2 q.bytes =
        (tableNew aop q.bytes (s.placeNat (s.placeOf e q.pa).1 (s.placeOf e q.pa).2 q.bytes) v.toNat q.rmode).getD 0 := by
  obtain ⟨u, x, hord, hxv, hua, hbut, hval⟩ := State.performOrd_atom hs q.core q.ref e q.pa q.va q.bytes q.data q.rmode q.acq q.src v ha
  rw [← ho] at hord
  have hmiss : s.settleMiss q e = s := if_neg (by simp [hst])
  let w := (u.clearPoison q).afterAccess q.core q.ref q.op q.acq q.scope q.cls x.tags
  have hat : s.performAt q = (w, x) := by
    unfold State.performAt
    simp only [hst, hv, hmiss, hord]
    rfl
  let done : Req → Req := fun z => { z with op := z.op.withOutcome x.stored, stage := .performed x.value, flags := BitVec.ofNat 32 x.flags }
  have he : s.faratAtomic id = w.modReq id done := by
    unfold State.faratAtomic
    simp only [hr, hst, hm, hat]
    rfl
  obtain ⟨hpa, hpm, -⟩ := u.clearPoison_atMemory q
  have hua := hua.trans hpa
  have hreqs : w.reqs = s.reqs := by
    rw [State.afterAccess_reqs, hua.frame]
  have hmem : MemorySame u (s.faratAtomic id) := by
    obtain ⟨⟨z, hz, -⟩, -⟩ := State.afterAccess_readBy q.core q.op q.acq q.scope q.cls x.tags ((State.thread?_of_plots hua.plots q.ref).trans hth)
    have hw : MemorySame u w := hpm.trans hz.2.2.1
    rw [he]
    exact hw
  refine ⟨done q, ?_, congrArg ReqStage.performed hxv, fun o a h => (hmem o a).trans (hbut o a h), (hmem.placeNat ..).trans hval⟩
  rw [he]
  show tget (tmod w.reqs id done) id = _
  rw [tget_tmod_same, hreqs, hr]
  rfl

end Turns

/-- Settles O40: a part's bytes are read or written at their own places, which no two of them share; an atomic reads its element and writes it whole. -/
theorem viewsAndFarAtomics : Obligations.ViewsAndFarAtomics := by
  unfold Obligations.ViewsAndFarAtomics
  intro s id q th hs hr hth hm
  refine ⟨fun hst hbl hh => ?_, fun e aop v hst hv ho ha => ?_⟩
  · have hready : s.gleanReady id q = true := by simp [State.gleanReady, hst, hm]
    have hv : s.hereAll q.view := hh
    have hpart := hv.sublist q.part_snd
    have hports := State.viewPorts_here hpart
    have hanswer := State.partAnswer_here hpart
    refine ⟨fun sz ho hq => ?_, fun ho hlen hn => ?_, fun x y hx hy _ hg => Req.nextPart_closed hx hy hg, fun aop v ho ha hlen hn => ?_⟩
    · have he : s.glean id = s.gleanLoad id q := by
        unfold State.glean
        simp [hr, hready, ho, hbl, hports, hanswer]
      obtain ⟨q', hq', hgot, hdone⟩ := State.gleanLoad_acquire hr hq hv
      refine ⟨_, q', rfl, he ▸ hq', hgot, fun hg hall => ?_⟩
      rw [State.placesNat_viewPlaces]
      exact hdone hg hall
    · have he : s.glean id = s.gleanStore id q := by
        unfold State.glean
        simp [hr, hready, ho, hbl, hports, hanswer]
      obtain ⟨q', h⟩ := State.gleanStore_here hs hr hth hv hlen hn
      rw [← he] at h
      exact ⟨_, q', rfl, h⟩
    · have he : s.viewAtomic id = s.combine id q aop v := by
        unfold State.viewAtomic
        simp [hr, hready, ho, hbl, State.viewPorts_here hv, hanswer]
      obtain ⟨q', h⟩ := State.combine_here hs hr hth hv hlen hn v ha
      rw [← he] at h
      exact ⟨_, q', rfl, h⟩
  · obtain ⟨q', h⟩ := State.faratAtomic_acts hs hr hth hm hst hv ho ha
    exact ⟨_, q', rfl, h⟩

end Sys2Proof.Machine
end

section
/-! LAWS. WAIT on the counters of a thread, and FENCE: what it marks, when it completes and what completing does (13 R257, R258, 11 R232, R236). -/

namespace Sys2Proof.Machine

/-! ## WAIT (13 R257) -/

theorem Thread.countsHold_iff (t : Thread) (ld st cp tl : Nat) : t.countsHold ld st cp tl = true ↔ t.ld ≤ ld ∧ t.st ≤ st ∧ t.cp ≤ cp ∧ t.tl ≤ tl := by
  simp [Thread.countsHold, and_assoc]

section Wait
variable {s : State} {r : Ref} {p : Plot} {th : Thread} {a b c d : Nat}

/-- WAIT with every counter within its bound goes on, as an acquire at plot scope. -/
theorem OneLane.wait_goes (h : OneLane s r p th) (hc : th.countsHold a b c d = true) :
    ThreadOnly s (runLanes (waitLane a b c d) s) r { th with pc := th.pc + 4 } := by
  have hq := s.acquireCaches_quiet (s.coreOf r) .plot
  exact h.run_next (if_pos hc) ((hq.threads r).trans h.thread) hq

/-- WAIT with a counter above its bound sleeps. -/
theorem OneLane.wait_sleeps (h : OneLane s r p th) (hc : th.countsHold a b c d = false) :
    ThreadOnly s (runLanes (waitLane a b c d) s) r (asleep th (.wait a b c d)) := by
  have hF : waitLane a b c d s r p th = (s, .sleep (.wait a b c d)) := if_neg (by simp [hc])
  rw [h.run_quiet hF rfl]
  exact State.toHeadland_only _ h.thread

end Wait

/-! ## The completion of a FENCE (11 R232, R236, R237) -/

/-- From s to t a FENCE of the thread has completed: of the thread SCOPEX may have changed, and the kept reads of its classes are gone. -/
def FenceDone (s t : State) (r : Ref) (th : Thread) (m : Classes) : Prop :=
  ∃ v : Word, ThreadOnly s t r { th with tstat := v, seen := th.seen.filter fun y => !y.inMask m } ∧ ∀ b, b ≠ 5 → v.getLsbD b = th.tstat.getLsbD b

theorem FenceDone.quiet {s t u : State} {r : Ref} {th : Thread} {m : Classes} (h : FenceDone s t r th m) (g : Quiet t u) : FenceDone s u r th m := by
  obtain ⟨v, hv, hb⟩ := h
  exact ⟨v, threadOnly_quiet hv g, hb⟩

theorem State.observe_cores_reqs (s : State) (r : Ref) (sc : Scope) (l : List SyncSrc) : (s.observe r sc l).cores = s.cores ∧ (s.observe r sc l).reqs = s.reqs := by
  rw [State.observe]
  split <;> exact ⟨rfl, rfl⟩

theorem State.fenceDone_done {s : State} {r : Ref} {th : Thread} (sc : Scope) (m : Classes) (h : s.thread? r = some th) :
    FenceDone s (s.fenceDone r sc m) r th m ∧ (s.fenceDone r sc m).reqs = s.reqs ∧ SlotsKept s (s.fenceDone r sc m) := by
  let l := (th.seen.filter fun x => x.inMask m).map fun x => x.src
  let u := (s.observe r sc l).modThread r fun t => { t with seen := t.seen.filter fun x => !x.inMask m }
  have he : s.fenceDone r sc m = u.acquireCaches (s.coreOf r) sc := by
    simp only [State.fenceDone, h]
    rfl
  have ha := u.acquireCaches_atMemory (s.coreOf r) sc
  obtain ⟨hc, hr⟩ := s.observe_cores_reqs r sc l
  obtain ⟨x, hx, hxe, hxb⟩ := State.observe_acquired sc l h
  have hu : FenceDone s u r th m := by
    refine ⟨x.tstat, ?_, hxb⟩
    have hm := hx.trans (threadOnly_modThread (fun t => { t with seen := t.seen.filter fun x => !x.inMask m }) hx.1)
    rw [hxe] at hm
    exact hm
  rw [he]
  refine ⟨hu.quiet (u.acquireCaches_quiet ..), ?_, (slotsKept_of_cores (t := u) hc).trans ha.slots⟩
  rw [ha.frame]
  exact hr

/-! ## FENCE (11 R236) -/

section Fence
variable {s : State} {r : Ref} {p : Plot} {th : Thread} {id : Nat} {q : Req} (sc : Scope) {m : Classes}

/-- A FENCE behind no access of its mask completes as it issues. -/
theorem OneLane.fence_completes (h : OneLane s r p th) (hf : s.fenceReady s.nextId r m = true) :
    ∃ v : Word, ThreadOnly s (runLanes (fenceLane sc m) s) r
        { th.fenceMark sc m with pc := th.pc + 4, tstat := v, seen := th.seen.filter fun y => !y.inMask m } ∧
      (∀ b, b ≠ 5 → v.getLsbD b = th.tstat.getLsbD b) ∧ (runLanes (fenceLane sc m) s).reqs = s.reqs := by
  let s1 := s.modThread r fun t => t.fenceMark sc m
  have h1 : ThreadOnly s s1 r (th.fenceMark sc m) := threadOnly_modThread _ h.thread
  have hF : fenceLane sc m s r p th = (s1.fenceDone r sc m, .next) := by rw [fenceLane, if_pos hf]
  obtain ⟨⟨v, hv, hb⟩, hr, -⟩ := State.fenceDone_done sc m h1.1
  rw [h.run_next_eq hF]
  exact ⟨v, (h1.trans hv).trans (threadOnly_modThread (fun t => { t with pc := t.pc4 }) hv.1), hb, hr⟩

/-- A FENCE behind an access of its mask is left waiting as a request. -/
theorem OneLane.fence_waits (h : OneLane s r p th) (hf : s.fenceReady s.nextId r m = false) :
    ThreadOnly s (runLanes (fenceLane sc m) s) r { th.fenceMark sc m with pc := th.pc + 4 } ∧
      ∃ q, tget (runLanes (fenceLane sc m) s).reqs s.nextId = some q ∧ q.ref = r ∧ q.op = .fence m ∧ q.scope = sc := by
  let s1 := s.modThread r fun t => t.fenceMark sc m
  have h1 : ThreadOnly s s1 r (th.fenceMark sc m) := threadOnly_modThread _ h.thread
  obtain ⟨q, he, ha, hqr, -⟩ := s1.addReq_eq r th (fenceAccess sc m) 0 none (Spot.plain m none [] .place [])
  have hF : fenceLane sc m s r p th = (s1.addReq r th (fenceAccess sc m) 0 none (Spot.plain m none [] .place []), .next) := by
    rw [fenceLane, if_neg (by simp [hf])]
  rw [h.run_next_eq hF, he]
  refine ⟨?_, q, tget_tput_same .., hqr, ha.op, ha.scope⟩
  let s2 : State := { s1 with reqs := tput s1.reqs s1.nextId q, nextId := s1.nextId + 1 }
  have hq : Quiet s1 s2 := quiet_of_same rfl rfl rfl
  have h2 := hq.threadOnly (threadOnly_modThread
    (fun t => { t with ld := t.ld + (fenceAccess sc m).op.countsLd.toNat, st := t.st + (fenceAccess sc m).op.countsSt.toNat })
    ((hq.threads r).trans h1.1))
  exact (h1.trans h2).trans (threadOnly_modThread (fun t => { t with pc := t.pc4 }) h2.1)

/-- STORE_ACK of a FENCE that waits: it completes once the accesses before it have. -/
theorem State.storeAck_fence (hq : tget s.reqs id = some q) (ho : q.op = .fence m) (f : WireAck) :
    s.storeAck id f = if s.fenceReady id q.ref m then (s.fenceDone q.ref q.scope m).retire id q.ref else s := by
  simp only [State.storeAck, hq, ho]

/-- A FENCE that waited completes and is taken off. -/
theorem State.fenceDone_retire (hth : s.thread? q.ref = some th) (hn : NoDelivery s q.ref) :
    tget ((s.fenceDone q.ref sc m).retire id q.ref).reqs id = none ∧ FenceDone s ((s.fenceDone q.ref sc m).retire id q.ref) q.ref th m := by
  obtain ⟨hd, -, hs⟩ := State.fenceDone_done sc m hth
  obtain ⟨hq, hg⟩ := State.retire_sent id (hs.noDelivery hn)
  exact ⟨hg, hd.quiet hq⟩

end Fence

/-- Settles O29: WAIT by its bounds, a FENCE by whether an access of its mask stands before it. -/
theorem waitAndFence : Obligations.WaitAndFence := by
  unfold Obligations.WaitAndFence
  refine ⟨fun s r p th h => ⟨fun a b c d => ⟨fun hc => ?_, fun hc => ?_⟩, fun sc o a x => ?_⟩,
    fun s id q th m f hq hth ho hn => ⟨fun hf => ?_, fun hf => ?_⟩⟩
  · exact ⟨_, rfl, h.wait_goes ((th.countsHold_iff ..).mpr hc)⟩
  · exact ⟨_, rfl, h.wait_sleeps (Bool.eq_false_iff.mpr fun hh => hc ((th.countsHold_iff ..).mp hh))⟩
  · cases hf : s.fenceReady s.nextId r { o := o, a := a, s := x } with
    | true =>
      obtain ⟨v, ⟨hu, hoth, hm, hs⟩, hb, hr⟩ := h.fence_completes sc hf
      exact ⟨_, _, rfl, hu, hoth, hm, hs, rfl, hb, fun _ => ⟨hr, rfl⟩, nofun⟩
    | false =>
      obtain ⟨⟨hu, hoth, hm, hs⟩, hq⟩ := h.fence_waits sc hf
      exact ⟨_, _, rfl, hu, hoth, hm, hs, rfl, fun _ _ => rfl, nofun, fun _ => ⟨rfl, rfl, hq⟩⟩
  · exact congrArg Host.Outcome.next ((State.storeAck_fence hq ho f).trans (if_neg (by simp [hf])))
  · have he : exec (.storeAck ⟨id, f⟩) s = .next ((s.fenceDone q.ref q.scope m).retire id q.ref) :=
      congrArg Host.Outcome.next ((State.storeAck_fence hq ho f).trans (if_pos hf))
    obtain ⟨hg, v, ⟨hu, hoth, hm, hs⟩, hb⟩ := State.fenceDone_retire (id := id) q.scope (m := m) hth hn
    exact ⟨_, _, he, hg, hu, hoth, hm, hs, rfl, hb⟩

end Sys2Proof.Machine
end

section
/-! LAWS. LANDs at their slots, their answers, and slots that lapse (13 R291, R294, 11 R228). -/

namespace Sys2Proof.Machine

/-! ## LANDs that stand while requests are sent (23 R406) -/

theorem Accessed.lands {s t : State} (h : Accessed s t) : t.lands = s.lands := by have e := congrArg State.lands h.rest; exact e

theorem State.sendOn_accessed (s : State) (v : Via) : Accessed s (s.sendOn v) := by
  rw [State.sendOn]
  split
  · exact s.sendFlit_accessed _ _
  · exact Accessed.refl s

theorem State.wayNow_accessed (s : State) (dst : Nat) (rc : RC) : Accessed s (s.wayNow dst rc).1 := by
  unfold State.wayNow
  split
  · exact Accessed.refl s
  · split
    · exact Accessed.refl s
    · cases rc with
      | o | a => exact Accessed.refl s
      | s => rw [State.viaS_fst]; exact s.draw_accessed

theorem State.routeNow_lands (s : State) (dst : Nat) (rc : RC) : (s.routeNow dst rc).1.lands = s.lands :=
  ((s.wayNow_accessed dst rc).trans (State.sendOn_accessed _ _)).lands

theorem State.sendReqs_lands : ∀ (l : List (Nat × Req)) (s : State), (s.sendReqs l).lands = s.lands
  | [], _ => rfl
  | (_, _) :: l, s => by
    rw [State.sendReqs]
    split
    · split
      · exact State.sendReqs_lands l s
      · exact (State.sendReqs_lands l _).trans (State.routeNow_lands ..)
    · exact State.sendReqs_lands l s

/-- From s to t the LAND of a number has changed its way at most. -/
def LandKept (s t : State) (id : Nat) : Prop := ∀ x, tget s.lands id = some x → ∃ v, tget t.lands id = some { x with via := v }

theorem landKept_of_lands {s t : State} {id : Nat} (h : t.lands = s.lands) : LandKept s t id := fun x hx => ⟨x.via, by rw [h, hx]⟩

theorem LandKept.trans {s t u : State} {id : Nat} (h : LandKept s t id) (g : LandKept t u id) : LandKept s u id := fun x hx => by
  obtain ⟨v, hv⟩ := h x hx
  obtain ⟨w, hw⟩ := g _ hv
  exact ⟨w, hw⟩

theorem State.setLandVia_kept (s : State) (i id : Nat) (v : Via) : LandKept s (s.setLandVia i v) id := fun x hx => by
  rw [State.setLandVia, tget_tmod, hx]
  split
  · exact ⟨v, rfl⟩
  · exact ⟨x.via, rfl⟩

theorem State.sendLands_kept (id : Nat) : ∀ (l : List (Nat × Land)) (s : State), LandKept s (s.sendLands l) id
  | [], s => landKept_of_lands rfl
  | (i, _) :: l, s => by
    rw [State.sendLands]
    split
    · split
      · exact State.sendLands_kept id l s
      · exact ((landKept_of_lands (State.routeNow_lands ..)).trans (State.setLandVia_kept _ i id _)).trans (State.sendLands_kept id l _)
    · exact State.sendLands_kept id l s

/-! ## An answer (13 R291) -/

theorem Sends.plots {s t : State} (h : Sends s t) : t.plots = s.plots := by rw [h]
theorem Sends.cores {s t : State} (h : Sends s t) : t.cores = s.cores := by rw [h]
theorem Sends.quiet {s t : State} (h : Sends s t) : Quiet s t := quiet_of_same h.plots (by rw [h]) h.cores

theorem State.answerLand_sends (s : State) (id : Nat) (ok : Bool) : Sends s (s.answerLand id ok) :=
  Sends.trans (t := { s with lands := tmod s.lands id fun l => { l with answered := some ok } }) rfl ((State.sendReqs_sends _ _).trans (State.sendLands_sends _ _))

/-- The LAND stands as it did, answered; only its way may have changed. -/
def LandAnswered (t : State) (id : Nat) (l : Land) (ok : Bool) : Prop := ∃ y, tget t.lands id = some y ∧ y = { l with answered := some ok, via := y.via }

theorem State.answerLand_answered {s : State} {id : Nat} {l : Land} (ok : Bool) (h : tget s.lands id = some l) : LandAnswered (s.answerLand id ok) id l ok := by
  let s1 : State := { s with lands := tmod s.lands id fun l => { l with answered := some ok } }
  have h1 : tget s1.lands id = some { l with answered := some ok } := (tget_tmod_same ..).trans (by rw [h]; rfl)
  have hk : LandKept s1 (s.answerLand id ok) id := (landKept_of_lands (State.sendReqs_lands _ s1)).trans (State.sendLands_kept id _ _)
  obtain ⟨v, hv⟩ := hk _ h1
  exact ⟨_, hv, rfl⟩

/-! ## Slots (13 R287, R294) -/

theorem State.slot_putSlot (s : State) (c n : Nat) (x : Slot) : ((s.putSlot c n x).core c).slot n = x := by
  rw [State.putSlot, State.core_modCore, if_pos rfl]
  simp [Core.slot]

theorem State.slot_of_cores {s t : State} (h : t.cores = s.cores) (c n : Nat) : (t.core c).slot n = (s.core c).slot n := by rw [State.core_of_cores h]

theorem State.putSlot_quiet (s : State) (c n : Nat) (x : Slot) : Quiet s (s.putSlot c n x) := quiet_modCore _ _ _ fun _ => rfl

theorem State.lapseSlot_shift (s : State) (c n : Nat) : Shift s (s.lapseSlot c n) :=
  Shift.trans (t := s.putSlot c n ((s.core c).slot n).freed) (shift_modCore _ _ _ fun _ => rfl) (shift_modThread _ _ _)

/-- A slot that lapses is free, and its owner's register has lapsed, now or at the owner's swap-in. -/
theorem State.lapseSlot_only {s : State} {c n : Nat} {th : Thread} (h : s.thread? ((s.core c).slot n).owner = some th) :
    ((s.lapseSlot c n).core c).slot n = ((s.core c).slot n).freed ∧ ThreadOnly s (s.lapseSlot c n) ((s.core c).slot n).owner
      (if s.residentRef ((s.core c).slot n).owner then th.setLanding ((s.core c).slot n).reg .lapsed else { th with lapses := th.lapses ++ [((s.core c).slot n).reg] }) :=
  ⟨State.slot_putSlot .., (s.putSlot_quiet ..).threadOnly (threadOnly_modThread _ (((s.putSlot_quiet ..).threads _).trans h))⟩

/-! ## A LAND at its slot (13 R291) -/

/-- The slot that a LAND names. -/
def State.slotOf (s : State) (l : Land) : Slot := (s.core (nameCore l.name.toNat)).slot (nameSlot l.name.toNat)

/-- A slot that has taken a LAND in. -/
def Slot.taking (x : Slot) (l : Land) (k : SlotState) : Slot := { x with state := k, value := l.value, src := l.src }

theorem Thread.deliver_landingOf (t : Thread) (x : Nat) (w : Bool) (v : DWord) (src : Option SyncSrc) :
    (t.deliver x w v src).landingOf x = if x < t.landing.length then .delivered else .none := by
  have h : (t.deliver x w v src).landing = t.landing.set x .delivered := by
    cases w with
    | false => rfl
    | true =>
      show (t.setRegs x (words64 v)).landing.set x .delivered = _
      rw [Thread.setRegs_frame]
  rw [Thread.landingOf, h, List.getD_eq_getElem?_getD, List.getElem?_set_self']
  split
  · next hx => simp [hx]
  · next hx => simp [hx]

section Slot
variable {s : State} {id : Nat} {l : Land} {c n : Nat} {y : Slot} {th : Thread}

/-- A delivery that no load of the register holds up (13 R291). -/
theorem State.deliverSlot_delivers (hy : (s.core c).slot n = y) (ha : y.state = .accepting) (ho : s.outstanding y.owner y.reg (if y.wide then 2 else 1) = false) :
    s.deliverSlot c n = (s.modThread y.owner fun t => t.deliver y.reg y.wide y.value y.src).putSlot c n y.freed := by
  subst hy
  rw [State.deliverSlot]
  exact if_pos ⟨ha, by simp [ho]⟩

/-- A slot that is not accepting delivers nothing. -/
theorem State.deliverSlot_waits (ha : ((s.core c).slot n).state ≠ .accepting) : s.deliverSlot c n = s := by
  rw [State.deliverSlot]
  exact if_neg fun h => ha h.1

/-- LAND_ARRIVE on this device, when the LAND's turn has come. -/
theorem State.landArrive_here (hl : tget s.lands id = some l) (ha : l.answered = none) (hd : l.dev = s.device) (ht : s.landTurn id l = true) :
    s.landArrive id = s.landAtSlot id l := by
  simp [State.landArrive, hl, ha, hd, ht]

/-- What becomes of a LAND is its slot's to say. -/
theorem State.landAtSlot_eq (s : State) (id : Nat) (l : Land) : s.landAtSlot id l =
    if (s.slotOf l).mustLapse s.time then (s.lapseSlot (nameCore l.name.toNat) (nameSlot l.name.toNat)).answerLand id false
    else if !(slotMatches (s.slotOf l) l.name.toNat && (s.slotOf l).wide == l.wide) then s.answerLand id false
    else ((s.putSlot (nameCore l.name.toNat) (nameSlot l.name.toNat)
      ((s.slotOf l).taking l (if s.residentRef (s.slotOf l).owner then .accepting else .parked))).deliverSlot (nameCore l.name.toNat)
        (nameSlot l.name.toNat)).answerLand id true := rfl

/-- A LAND that finds the live slot of its name is taken in. -/
theorem State.landAtSlot_taken (ht : s.time < (s.slotOf l).expiry + 1000000) (hm : slotMatches (s.slotOf l) l.name.toNat = true) (hw : (s.slotOf l).wide = l.wide) :
    s.landAtSlot id l = ((s.putSlot (nameCore l.name.toNat) (nameSlot l.name.toNat)
      ((s.slotOf l).taking l (if s.residentRef (s.slotOf l).owner then .accepting else .parked))).deliverSlot (nameCore l.name.toNat)
        (nameSlot l.name.toNat)).answerLand id true := by
  have hl : (s.slotOf l).mustLapse s.time = false := by
    have : ¬(s.slotOf l).expiry + usec ≤ s.time := Nat.not_le.mpr ht
    simp [Slot.mustLapse, this]
  rw [State.landAtSlot_eq, if_neg (by simp [hl]), if_neg (by simp [hm, hw])]

/-- A LAND that finds no live slot of its name is refused. -/
theorem State.landAtSlot_refused (h : slotMatches (s.slotOf l) l.name.toNat = false ∨ (s.slotOf l).wide ≠ l.wide ∨ (s.slotOf l).expiry + 1000000 ≤ s.time) :
    ∃ u, s.landAtSlot id l = u.answerLand id false ∧ Shift s u := by
  rw [State.landAtSlot_eq]
  cases hx : (s.slotOf l).mustLapse s.time with
  | true => exact ⟨_, if_pos rfl, s.lapseSlot_shift _ _⟩
  | false =>
    have hno : (slotMatches (s.slotOf l) l.name.toNat && (s.slotOf l).wide == l.wide) = false := by
      rcases h with h | h | h
      · simp [h]
      · simp [h]
      · have hlive : ((s.slotOf l).state == .live) = false := by
          have : (s.slotOf l).expiry + usec ≤ s.time := h
          simpa [Slot.mustLapse, this] using hx
        simp [slotMatches, hlive]
    exact ⟨s, (if_neg (by simp)).trans (if_pos (by simp [hno])), Shift.refl s⟩

end Slot

section Arrives
variable {s : State} {id : Nat} {l : Land} {th : Thread}

/-- A LAND to a thread that is placed is delivered. -/
theorem State.landAtSlot_delivers (hl : tget s.lands id = some l) (ht : s.time < (s.slotOf l).expiry + 1000000) (hm : slotMatches (s.slotOf l) l.name.toNat = true)
    (hw : (s.slotOf l).wide = l.wide) (hr : s.residentRef (s.slotOf l).owner = true)
    (ho : s.outstanding (s.slotOf l).owner (s.slotOf l).reg (if (s.slotOf l).wide then 2 else 1) = false) (hth : s.thread? (s.slotOf l).owner = some th) :
    LandAnswered (s.landAtSlot id l) id l true ∧ (State.slotOf (s.landAtSlot id l) l).state = .free ∧
      ThreadOnly s (s.landAtSlot id l) (s.slotOf l).owner (th.deliver (s.slotOf l).reg (s.slotOf l).wide l.value l.src) := by
  let x := s.slotOf l
  let y := x.taking l .accepting
  let c := nameCore l.name.toNat
  let n := nameSlot l.name.toNat
  let s1 := s.putSlot c n y
  let s2 := (s1.modThread x.owner fun t => t.deliver x.reg x.wide l.value l.src).putSlot c n y.freed
  have he : s.landAtSlot id l = s2.answerLand id true := by
    rw [State.landAtSlot_taken ht hm hw, hr, if_pos rfl, State.deliverSlot_delivers (s := s1) (State.slot_putSlot ..) rfl ho]
    rfl
  have h1 := (s.putSlot_quiet c n y).threadOnly (threadOnly_modThread (fun t => t.deliver x.reg x.wide l.value l.src) (((s.putSlot_quiet ..).threads _).trans hth))
  have hs := s2.answerLand_sends id true
  rw [he]
  refine ⟨State.answerLand_answered (s := s2) true hl, ?_, threadOnly_quiet (threadOnly_quiet h1 (State.putSlot_quiet ..)) hs.quiet⟩
  rw [State.slotOf, State.slot_of_cores hs.cores, State.slot_putSlot]
  rfl

/-- A LAND to a thread that is swapped out is parked in its slot. -/
theorem State.landAtSlot_parks (hl : tget s.lands id = some l) (ht : s.time < (s.slotOf l).expiry + 1000000) (hm : slotMatches (s.slotOf l) l.name.toNat = true)
    (hw : (s.slotOf l).wide = l.wide) (hr : s.residentRef (s.slotOf l).owner = false) :
    LandAnswered (s.landAtSlot id l) id l true ∧ (s.landAtSlot id l).plots = s.plots ∧ State.slotOf (s.landAtSlot id l) l = (s.slotOf l).taking l .parked := by
  let s1 := s.putSlot (nameCore l.name.toNat) (nameSlot l.name.toNat) ((s.slotOf l).taking l .parked)
  have hx : State.slotOf s1 l = (s.slotOf l).taking l .parked := State.slot_putSlot ..
  have he : s.landAtSlot id l = s1.answerLand id true := by
    rw [State.landAtSlot_taken ht hm hw, hr, if_neg (by simp), State.deliverSlot_waits (s := s1)]
    show (State.slotOf s1 l).state ≠ .accepting
    rw [hx]
    exact nofun
  have hs := s1.answerLand_sends id true
  rw [he]
  exact ⟨State.answerLand_answered (s := s1) true hl, hs.plots, (State.slot_of_cores hs.cores _ _).trans hx⟩

end Arrives

/-! ## The answer at the sender (13 R291) -/

/-- What no access, no change of a context and no message to the host touches, the delivery of records leaves alone. -/
theorem State.deliverRecs_leaves {α : Type} (g : State → α) (ha : ∀ {s t}, Accessed s t → g t = g s) (hc : ∀ s c f, g (State.modCtx s c f) = g s)
    (hv : ∀ s a b, g (State.event s a b) = g s) (s : State) (ctx : Nat) : g (s.deliverRecs ctx) = g s := by
  have hone : ∀ s : State, g (s.flushOne ctx).1 = g s := fun s => by
    rw [State.flushOne]
    split
    · rfl
    · next c _ =>
      split
      · rfl
      · next f rest _ =>
        have hr := s.recSlot_accessed ctx
        split
        · next h => exact ha (hr.of_eq h)
        · next h => exact ha (hr.of_eq h)
        · next t n a h =>
          have h1 := hr.of_eq h
          have hp := t.pwrite_accessed 128 ctx none a (recBytes f) accEngWrite none .a
          split
          · next h => exact ha (h1.trans (hp.of_eq h))
          · next u _ h =>
            have h2 := h1.trans (hp.of_eq h)
            have hq := u.pwrite_accessed 128 ctx none c.frqh.toNat (natLe 8 (n + 1)) accEngWrite (some { agent := u.deviceAgent, scope := .sys }) .a
            split
            · next h => exact ha (h2.trans (hq.of_eq h))
            · next h => exact (hc ..).trans (ha (h2.trans (hq.of_eq h)))
  have hall : ∀ (n : Nat) (s : State), g (s.flushRecs ctx n) = g s := by
    intro n
    induction n with
    | zero => exact fun _ => rfl
    | succ n ih =>
      intro s
      rw [State.flushRecs]
      dsimp only
      split
      · exact (ih _).trans (hone s)
      · exact hone s
  have h1 := hall (s.heldCount ctx) s
  rw [State.deliverRecs]
  split
  · exact h1
  · have hr := (s.flushRecs ctx (s.heldCount ctx)).recSlot_accessed ctx
    split
    · next h => exact (hv ..).trans ((ha (hr.of_eq h)).trans h1)
    · next h => exact (ha (hr.of_eq h)).trans h1

theorem State.report_lands (s : State) (ctx : Nat) (f : FaultRec) : (s.report ctx f).lands = s.lands :=
  State.deliverRecs_leaves State.lands Accessed.lands (fun _ _ _ => rfl) (fun _ _ _ => rfl) (s.addRec ctx f) ctx

section Answer
variable {s : State} {id : Nat} {l : Land} {r : Ref} {th : Thread} (hl : tget s.lands id = some l) (hr : l.ref = some r) (hth : s.thread? r = some th)
include hl hr hth

/-- The answer of a LAND that was delivered lowers ST. -/
theorem State.landAnswer_delivered (ha : l.answered = some true) :
    tget (s.landAnswer id).lands id = none ∧ ThreadOnly s (s.landAnswer id) r { th with st := th.st - 1 } := by
  let s1 : State := { s with lands := tdel s.lands id }
  have he : s.landAnswer id = s1.modThread r fun t => { t with st := t.st - 1 } := by simp only [State.landAnswer, hl, hr, ha, if_true]; rfl
  have hq : Quiet s s1 := quiet_of_same rfl rfl rfl
  rw [he]
  exact ⟨tget_tdel_same .., hq.threadOnly (threadOnly_modThread _ ((hq.threads r).trans hth))⟩

/-- The answer of a LAND that was refused lowers ST and sets LANDX, with a record. -/
theorem State.landAnswer_refused (ha : l.answered = some false) :
    tget (s.landAnswer id).lands id = none ∧ (s.landAnswer id).thread? r = some { th.orStat landxBit with st := th.st - 1 } := by
  let s2 := State.modThread { s with lands := tdel s.lands id } r fun t => { t.orStat landxBit with st := t.st - 1 }
  have he : s.landAnswer id = s2.report (s2.ctxIdOf r) { s2.recOf r 3 accLand 0x20 l.name l.pc 0 with ref := none } := by
    simp only [State.landAnswer, hl, hr, ha, Bool.false_eq_true, if_false]
    rfl
  rw [he, State.report_lands]
  exact ⟨tget_tdel_same .., (State.thread?_of_plots (State.report_plots ..) r).trans (State.thread?_modThread_same _ hth)⟩

end Answer

/-- Settles O41: an arrival by what its slot says of it, an answer by what was answered, a lapse by the slot's end. -/
theorem landsArrive : Obligations.LandsArrive := by
  unfold Obligations.LandsArrive
  intro s
  refine ⟨fun id l hl ha hd ht => ⟨fun he hm hw hr ho th hth => ?_, fun he hm hw hr => ?_, fun h => ?_⟩,
    fun id l r th hl hr hth => ⟨fun ha => ?_, fun ha => ?_⟩,
    fun c n x th hx hlive he hth => ?_⟩
  · obtain ⟨hans, hfree, hu, hoth, -, -⟩ := State.landAtSlot_delivers hl he hm hw hr ho hth
    refine ⟨_, _, congrArg Host.Outcome.next (State.landArrive_here hl ha hd ht), hans, hu, Thread.deliver_landingOf .., hoth, fun hn => ?_, hfree⟩
    have hn : (s.slotOf l).wide = false := hn
    rw [hn]
    rfl
  · obtain ⟨hans, hp, hx⟩ := State.landAtSlot_parks hl he hm hw hr
    exact ⟨_, congrArg Host.Outcome.next (State.landArrive_here hl ha hd ht), hans, hp, hx⟩
  · obtain ⟨u, hu, hsh⟩ := State.landAtSlot_refused (id := id) h
    have hs := (u.answerLand_sends id false).quiet
    refine ⟨_, congrArg Host.Outcome.next ((State.landArrive_here hl ha hd ht).trans hu), State.answerLand_answered false ?_,
      hsh.memory.trans hs.memory, hsh.spads.trans hs.spads⟩
    rw [hsh.frame]
    exact hl
  · obtain ⟨hg, ho⟩ := State.landAnswer_delivered hl hr hth ha
    exact ⟨_, rfl, hg, ho⟩
  · obtain ⟨hg, hu⟩ := State.landAnswer_refused hl hr hth ha
    exact ⟨_, _, rfl, hg, hu, rfl, rfl, rfl, rfl⟩
  · subst hx
    have hlapse : s.slotLapse c n = s.lapseSlot c n := if_pos ⟨hlive, he⟩
    obtain ⟨hfree, ho⟩ := State.lapseSlot_only hth
    exact ⟨_, congrArg Host.Outcome.next hlapse, by rw [hfree]; rfl, ho⟩

end Sys2Proof.Machine
end

section
/-! SUPPORT. An access made again after a write: the write sows rows and clears poison, and leaves the rest of what the access asks (09 R172 to R179, R203). -/

namespace Sys2Proof.Machine

/-! ## What an access asks beside the bytes of memory -/

/-- What an access asks beside the bytes of memory is as before, but that more rows may be sown and fewer lines poisoned. -/
structure Eased (s t : State) : Prop where
  sown : ∀ y ∈ s.sown, y ∈ t.sown
  poison : ∀ y ∈ t.poison, y ∈ s.poison
  locked : t.locked = s.locked
  reqs : t.reqs = s.reqs
  nextId : t.nextId = s.nextId
  tb : ∀ c, (t.core c).tb = (s.core c).tb
  pinPages : ∀ c, (t.core c).pinPages = (s.core c).pinPages
  root : ∀ c, (tget t.ctxs c).map Ctx.root = (tget s.ctxs c).map Ctx.root

theorem Eased.refl (s : State) : Eased s s := ⟨fun _ h => h, fun _ h => h, rfl, rfl, rfl, fun _ => rfl, fun _ => rfl, fun _ => rfl⟩

theorem Eased.trans {s t u : State} (h : Eased s t) (g : Eased t u) : Eased s u :=
  ⟨fun y hy => g.sown y (h.sown y hy), fun y hy => h.poison y (g.poison y hy), g.locked.trans h.locked, g.reqs.trans h.reqs, g.nextId.trans h.nextId,
    fun c => (g.tb c).trans (h.tb c), fun c => (g.pinPages c).trans (h.pinPages c), fun c => (g.root c).trans (h.root c)⟩

theorem Like.eased {s t : State} (h : Like s t) (hn : t.nextId = s.nextId) : Eased s t :=
  ⟨fun _ hy => h.sown ▸ hy, fun _ hy => h.poison ▸ hy, h.locked, h.reqs, hn, h.tb, h.pinPages, h.root⟩

theorem eased_modCore (s : State) (c : Nat) (f : Core → Core) (h : ∀ k, (f k).tb = k.tb ∧ (f k).pinPages = k.pinPages) : Eased s (s.modCore c f) := by
  have hk : ∀ {α : Type} (g : Core → α), (∀ k, g (f k) = g k) → ∀ x, g ((s.modCore c f).core x) = g (s.core x) := by
    intro α g hg x
    rw [State.core_modCore]
    split
    · subst_vars; exact hg _
    · rfl
  exact ⟨fun _ h => h, fun _ h => h, rfl, rfl, rfl, hk Core.tb fun k => (h k).1, hk Core.pinPages fun k => (h k).2, fun _ => rfl⟩

theorem Eased.device {s t : State} (h : Eased s t) : t.device = s.device := by rw [State.device, State.device, h.locked]

theorem Eased.isHost {s t : State} (h : Eased s t) (pa : Nat) : t.isHost pa = s.isHost pa := by simp only [State.isHost, h.locked, h.device]

theorem Eased.placeOf {s t : State} (h : Eased s t) (e : TbEntry) (pa : Nat) : t.placeOf e pa = s.placeOf e pa := by rw [State.placeOf, State.placeOf, h.pinPages]

theorem Eased.away {s t : State} (h : Eased s t) (e : TbEntry) (pa : Nat) : t.away e pa = s.away e pa := by rw [State.away, State.away, h.device, h.placeOf]

theorem Eased.ownerBusy {s t : State} (h : Eased s t) (own : Nat) (e : TbEntry) : t.ownerBusy own e t.nextId = s.ownerBusy own e s.nextId := by
  simp only [State.ownerBusy, h.reqs, h.nextId]

/-! ## Walks that change nothing -/

/-- A core's walk of a leaf fills its buffer at once: the leaf's page needs neither to be claimed nor to be made shared (09 R178, R194). -/
def pteFills (c p : Nat) : Prop := 128 ≤ c ∨ pteHome p ≠ 0 ∨ (ptePriv p = true ∧ pteOwn p = c) ∨ ((!ptePriv p) = true ∧ pteShd p = true)

/-- A walk that leaves the state as it is: it counts no unsown row, and fills no buffer, being of no core or held by the directory. -/
structure StillWalk (s : State) (c ctx va : Nat) (e : TbEntry) : Prop where
  counts : s.walkMiss ctx va = 0
  leaf : ∃ p lvl a, s.walk ctx va = .leaf p lvl a ∧ (128 ≤ c ∧ e = tbOf ctx va p lvl ∨
    ¬pteFills c p ∧ ptePriv p = true ∧ s.ownerBusy (pteOwn p) (tbOf ctx va (pteMark p false true (pteOwn p)) lvl) s.nextId = true ∧
      e = tbOf ctx va (pteMark p false true (pteOwn p)) lvl)

theorem State.stillWalk_of_walkFor {s : State} {c ctx va : Nat} {e : TbEntry} (hn : c < 128 → tbFind (s.core c).tb ctx va = none)
    (hw : s.walkFor c ctx va = (s, .ok e)) : StillWalk s c ctx va e := by
  rw [State.walkFor, State.walkCounted_eq] at hw
  cases hk : s.walk ctx va with
  | bad k => rw [hk] at hw; cases (Prod.mk.inj hw).2
  | leaf p lvl a =>
    rw [hk] at hw
    dsimp only at hw
    by_cases h1 : pteFills c p
    · obtain ⟨hst, he⟩ := Prod.mk.inj ((if_pos h1).symm.trans hw)
      by_cases hc : c < 128
      · exact absurd hst (State.fillTb_ne hc (hn hc))
      · rw [State.fillTb, if_pos (by omega)] at hst
        exact ⟨State.unsownReads_same hst, p, lvl, a, hk, .inl ⟨by omega, (Except.ok.inj he).symm⟩⟩
    · have hw := (if_neg h1).symm.trans hw
      have hc : c < 128 := by rw [pteFills, not_or] at h1; omega
      by_cases h2 : ptePriv p = true
      · have hw := (if_pos h2).symm.trans hw
        by_cases h3 : s.ownerBusy (pteOwn p) (tbOf ctx va (pteMark p false true (pteOwn p)) lvl) s.nextId = true
        · obtain ⟨hst, he⟩ := Prod.mk.inj ((if_pos h3).symm.trans hw)
          exact ⟨State.unsownReads_same hst, p, lvl, a, hk, .inr ⟨h1, h2, h3, (Except.ok.inj he).symm⟩⟩
        · exact absurd (Prod.mk.inj ((if_neg h3).symm.trans hw)).1 (State.fillTb_ne hc (hn hc))
      · exact absurd (Prod.mk.inj ((if_neg h2).symm.trans hw)).1 (State.fillTb_ne hc (hn hc))

theorem StillWalk.walkFor {s : State} {c ctx va : Nat} {e : TbEntry} (h : StillWalk s c ctx va e) : s.walkFor c ctx va = (s, .ok e) := by
  obtain ⟨hm, p, lvl, a, hk, hl⟩ := h
  have hs : ({ s with unsownReads := s.unsownReads + s.walkMiss ctx va } : State) = s := by rw [hm]; rfl
  rw [State.walkFor, State.walkCounted_eq, hk, hs]
  dsimp only
  rcases hl with ⟨hc, rfl⟩ | ⟨h1, h2, h3, rfl⟩
  · rw [if_pos (.inl hc), State.fillTb, if_pos hc]
  · exact (if_neg h1).trans ((if_pos h2).trans (if_pos h3))

/-! ## The access again -/

section Again
variable {s t : State} (h : Eased s t) (hm : t.mem = s.mem) {c ctx va n acc : Nat} {e : TbEntry}
include h

theorem Eased.unsownAmong {l : List Nat} (hl : s.unsownAmong l = 0) : t.unsownAmong l = 0 := by
  rw [State.unsownAmong, List.length_eq_zero_iff, List.filter_eq_nil_iff] at hl ⊢
  intro a ha hb
  refine hl a ha ?_
  rw [h.device] at hb
  simp only [Bool.and_eq_true, Bool.not_eq_true', List.contains_eq_mem, decide_eq_true_eq, decide_eq_false_iff_not] at hb ⊢
  exact ⟨hb.1, fun hy => hb.2 (h.sown _ hy)⟩

include hm

theorem Eased.tables : SameTables s t := ⟨hm, h.locked, h.root⟩

theorem Eased.walkMiss (hw : s.walkMiss ctx va = 0) : t.walkMiss ctx va = 0 := by
  have hr := h.root ctx
  rw [State.walkMiss] at hw ⊢
  cases ht : tget t.ctxs ctx with
  | none => rfl
  | some d =>
    obtain ⟨k, hk, e⟩ := Option.map_eq_some_iff.mp (hr.symm.trans (by rw [ht]; rfl))
    rw [hk] at hw
    dsimp only at hw ⊢
    split
    · next hva =>
      rw [if_pos hva, e] at hw
      rw [(h.tables hm).walkReads]
      exact h.unsownAmong hw
    · rfl

theorem Eased.stillWalk (hw : StillWalk s c ctx va e) : StillWalk t c ctx va e := by
  obtain ⟨hc, p, lvl, a, hk, hl⟩ := hw
  refine ⟨h.walkMiss hm hc, p, lvl, a, by rw [(h.tables hm).walk, hk], ?_⟩
  rw [h.ownerBusy]
  exact hl

/-- A translation with nothing to walk for is found again. -/
theorem Eased.xlate (hx : s.xlate c ctx va acc = (s, .ok e)) : t.xlate c ctx va acc = (t, .ok e) := by
  rw [State.xlate_ok_iff] at hx ⊢
  obtain ⟨h1, h2, h3⟩ := hx
  refine ⟨h1, h2, ?_⟩
  rw [State.lookup] at h3 ⊢
  rw [h.tb]
  cases hb : (if c < 128 then tbFind (s.core c).tb ctx va else none) with
  | some e' =>
    rw [hb] at h3
    exact congrArg (t, ·) (Prod.mk.inj h3).2
  | none =>
    rw [hb] at h3
    exact (h.stillWalk hm (State.stillWalk_of_walkFor (fun hc => by rwa [if_pos hc] at hb) h3)).walkFor

/-- An access that reached its place reaches it again. -/
theorem Eased.reaches (hr : ReachesAt s c ctx va n acc e) : ReachesAt t c ctx va n acc e where
  translated := h.xlate hm hr.translated
  ordinary := hr.ordinary
  here := by rw [h.away]; exact hr.here
  frame := by rw [State.frameIn, h.isHost]; exact hr.frame
  sound ha := by
    rw [State.areaOf, h.placeOf] at ha
    have hp := hr.sound ha
    rw [State.poisonAt] at hp ⊢
    rw [h.isHost, h.device]
    cases ht : t.poison.contains (lineOf (e.pa va)) with
    | false => simp
    | true =>
      have hs : s.poison.contains (lineOf (e.pa va)) = true := List.contains_iff_mem.mpr (h.poison _ (List.contains_iff_mem.mp ht))
      rwa [hs] at hp

end Again

/-- An access whose page tables lie outside a range is made again after a write of that range. -/
theorem KeepsReaching.again {s t : State} {own : Option Nat} {a n c ctx va k acc : Nat} {e : TbEntry} (h : KeepsReaching s own a n c ctx va k acc e)
    (hb : MemorySameBut s t own a n) (he : Eased s t) : ReachesAt t c ctx va k acc e := by
  have hmem : ∀ x, ¬(own = none ∧ a ≤ x ∧ x < a + n) → mget t.mem x = mget s.mem x := fun x hx => hb none x fun hi => hx ⟨hi.1.symm, hi.2⟩
  have he' : Eased { s with mem := t.mem } t := ⟨he.sown, he.poison, he.locked, he.reqs, he.nextId, he.tb, he.pinPages, he.root⟩
  exact he'.reaches rfl (h t.mem hmem)

/-! ## What a write changes of it -/

theorem mem_insertNat_of_mem {x y : Nat} : ∀ {l : List Nat}, y ∈ l → y ∈ insertNat l x
  | z :: l, h => by
    rw [insertNat]
    split
    · exact h
    · split
      · exact List.mem_cons_of_mem _ h
      · rcases List.mem_cons.mp h with rfl | h
        · exact List.mem_cons_self
        · exact List.mem_cons_of_mem _ (mem_insertNat_of_mem h)

theorem State.sowRow_eased (s : State) (y : Nat) (k : Option Nat) : Eased s (s.sowRow y k) := by
  rw [State.sowRow]
  split
  · exact ⟨fun _ h => h, fun _ h => h, rfl, rfl, rfl, fun _ => rfl, fun _ => rfl, fun _ => rfl⟩
  · exact ⟨fun _ h => mem_insertNat_of_mem h, fun _ h => h, rfl, rfl, rfl, fun _ => rfl, fun _ => rfl, fun _ => rfl⟩

theorem State.writeLocal_eased (s : State) (w : Option Ref) (a : Nat) (l : List Byte) (k : Option Nat) (src : Option SyncSrc) :
    Eased s (s.writeLocal w a l k src) := by
  rw [State.writeLocal]
  split
  · exact Eased.refl s
  · have h1 := s.sowRow_eased (lineOf a) k
    have h2 : Eased s (if lineOf a = lineOf (a + l.length - 1) then s.sowRow (lineOf a) k else (s.sowRow (lineOf a) k).sowRow (lineOf (a + l.length - 1)) k) := by
      split
      · exact h1
      · exact h1.trans (State.sowRow_eased ..)
    refine h2.trans ⟨fun _ h => h, fun y hy => ?_, rfl, rfl, rfl, fun _ => rfl, fun _ => rfl, fun _ => rfl⟩
    dsimp only at hy
    split at hy
    · exact (List.mem_filter.mp hy).1
    · exact hy

theorem State.wrPhys_eased (s : State) (c : Nat) (w : Option Ref) (e : TbEntry) (va pa : Nat) (l : List Byte) (src : Option SyncSrc) (y : Bool) :
    Eased s (s.wrPhys c w e va pa l src y) := by
  rw [State.wrPhys]
  split
  · refine Eased.trans ?_ (eased_modCore _ _ _ fun _ => ⟨rfl, rfl⟩)
    exact ⟨fun _ h => h, fun _ h => h, rfl, rfl, rfl, fun _ => rfl, fun _ => rfl, fun _ => rfl⟩
  · exact ((s.touch_like c e va pa l.length true y).eased rfl).trans (State.writeLocal_eased ..)

/-- A write at an ordinary page changes nothing else of what an access asks. -/
theorem ReachesAt.anyWrite_eased {s : State} {c ctx va acc : Nat} {l : List Byte} {e : TbEntry} (h : ReachesAt s c ctx va l.length acc e) (w : Option Ref)
    (src : Option SyncSrc) (rc : RC) : Eased s (s.anyWrite c ctx w va l acc src rc).1 := by
  have he : (s.anyWrite c ctx w va l acc src rc).1 =
      if c < 128 then ((s.wrPhys c w e va (e.pa va) l src).dropL1Line c (e.pa va)).dropVbuf c else s.wrPhys c w e va (e.pa va) l src := by
    simp only [State.anyWrite, State.pwrite, h.translated, h.ordinary, h.barred, h.noPort, h.here, Bool.false_eq_true, if_false]
  have hw := s.wrPhys_eased c w e va (e.pa va) l src false
  rw [he]
  split
  · exact (hw.trans ((State.dropL1Line_like ..).eased rfl)).trans ((State.dropVbuf_like ..).eased rfl)
  · exact hw

/-- A write of an engine within one line at an ordinary page. -/
theorem ReachesAt.engWrite {s : State} {c ctx va acc : Nat} {l : List Byte} {e : TbEntry} (h : ReachesAt s c ctx va l.length acc e) (h0 : 0 < l.length)
    (hl : l.length ≤ 128 - va % 128) (w : Option Ref) (src : Option SyncSrc) (fuel : Nat) :
    ∃ u, s.engWrite c ctx w acc src (fuel + 1) va l = (u, .ok ()) ∧ Accessed s u ∧ Wrote s u (s.areaOf e va) (s.offsetOf e va) l ∧ Eased s u := by
  obtain ⟨u, hu, ha, hw⟩ := h.anyWrite w src .a
  have he := h.anyWrite_eased w src .a
  have hk : chunk va l.length = l.length := Nat.min_eq_left hl
  have hne : l.isEmpty = false := by cases l with | nil => cases h0 | cons => rfl
  have hend : ∀ (n a : Nat), u.rangeWrite .a c ctx w acc src n a [] = (u, .ok ()) := fun n _ => by cases n <;> rfl
  rw [hu] at he
  refine ⟨u, ?_, ha, hw, he⟩
  rw [State.engWrite, State.rangeWrite]
  simp only [hne, hk, List.take_length, List.drop_length, hu, hend, Bool.false_eq_true, if_false]

/-! ## Two writes side by side -/

theorem leNat_append : ∀ l m : List Byte, leNat (l ++ m) = leNat l + 256 ^ l.length * leNat m
  | [], m => by simp [leNat]
  | b :: l, m => by
    rw [List.cons_append, leNat, leNat, leNat_append l m, List.length_cons, Nat.pow_succ', Nat.mul_add, Nat.add_assoc, Nat.mul_assoc]

theorem State.placeNat_add (s : State) (o : Option Nat) : ∀ m n a, s.placeNat o a (m + n) = s.placeNat o a m + 256 ^ m * s.placeNat o (a + m) n
  | 0, n, a => by simp [State.placeNat]
  | m + 1, n, a => by
    rw [show m + 1 + n = m + n + 1 by omega, show a + (m + 1) = a + 1 + m by omega, State.placeNat, State.placeNat, State.placeNat_add s o m n (a + 1),
      Nat.pow_succ', Nat.mul_add, Nat.mul_assoc, ← Nat.add_assoc]

/-- Bytes outside what was written read as the number they were. -/
theorem MemorySameBut.placeNat {s t : State} {o : Option Nat} {a k : Nat} (h : MemorySameBut s t o a k) : ∀ n x, a + k ≤ x → t.placeNat o x n = s.placeNat o x n
  | 0, _, _ => rfl
  | n + 1, x, hx => by rw [State.placeNat, State.placeNat, h o x (by omega), h.placeNat n (x + 1) (by omega)]

/-- Bytes written behind a place, then bytes written at it. -/
theorem Wrote.prepend {s u t : State} {o : Option Nat} {a : Nat} {l m : List Byte} (h : Wrote s u o (a + l.length) m) (g : Wrote u t o a l)
    (hu : s.placesOk → u.placesOk) : Wrote s t o a (l ++ m) where
  but o' x hx := by
    rw [List.length_append] at hx
    exact (g.but o' x fun hi => hx ⟨hi.1, by omega, by omega⟩).trans (h.but o' x fun hi => hx ⟨hi.1, by omega, by omega⟩)
  value hs := by
    rw [List.length_append, State.placeNat_add, g.value (hu hs), g.but.placeNat _ _ (Nat.le_refl _), h.value hs, leNat_append]

end Sys2Proof.Machine
end

section
/-! LAWS. QPOST's packet in its ring, and arrivals by handle at byte-count barriers (15 R300, R311, R318, 13 R276, 11 R244). -/

namespace Sys2Proof.Machine

/-! ## The packet (15 R300, R318) -/

theorem Accessed.qposts {s t : State} (h : Accessed s t) : t.qposts = s.qposts := by have e := congrArg State.qposts h.rest; exact e

theorem State.qpostHeader_accessed (s : State) (q : QPost) : Accessed s (s.qpostHeader q).1 := by
  have h := s.anyRead_accessed q.core q.ctx q.va 64 accEngRead .a
  rw [State.qpostHeader]
  split
  · next e => exact h.of_eq e
  · next e => exact h.of_eq e

/-- The bytes of a slot as the queue shows them: the packet's, with the slot's SEQ (15 R300). -/
def QPost.shown (q : QPost) (n : Nat) : List Byte := q.bytes.take 6 ++ natLe 2 n ++ q.bytes.drop 8

theorem QPost.length_shown (q : QPost) (n : Nat) (h : q.bytes.length = 64) : (q.shown n).length = 64 := by simp [QPost.shown, length_natLe, h]

section Post
variable {s s1 : State} {id : Nat} {q : QPost} {n h g : Nat} {e : TbEntry}

/-- A packet that has claimed its slot waits for room, or is published. -/
theorem State.qpostRun_eq (hq : tget s.qposts id = some q) (hp : q.paused = none) (hh : q.held = false) (hn : q.slot = some n)
    (hx : s.qpostHeader q = (s1, .ok (h, g))) : s.qpostRun id = if ringRoom h g n q.slots then s1.qpostPublish id q h g n else s1 := by
  simp only [State.qpostRun, hq, hp, hh, hn, hx, Option.isSome_none, Bool.false_eq_true, or_self, if_false]

/-- The publication of a packet of one slot: its bytes but the first eight, then those as a release. -/
theorem State.qpostPublish_writes (hs : s.memoriesOk) (hb : q.bytes.length = 64) (ha : slotVa h g n % 64 = 0)
    (hk : KeepsReaching s (s.areaOf e (slotVa h g n)) (s.offsetOf e (slotVa h g n)) 64 q.core q.ctx (slotVa h g n) 8 accEngWrite e)
    (hr : ReachesAt s q.core q.ctx (slotVa h g n + 8) 56 accEngWrite e) (harea : s.areaOf e (slotVa h g n + 8) = s.areaOf e (slotVa h g n))
    (hoff : s.offsetOf e (slotVa h g n + 8) = s.offsetOf e (slotVa h g n) + 8) :
    ∃ u, s.qpostPublish id q h g n = ({ u with qposts := tdel u.qposts id } : State).modThread q.ref (fun t => { t with cp := t.cp - 1 }) ∧
      Accessed s u ∧ Wrote s u (s.areaOf e (slotVa h g n)) (s.offsetOf e (slotVa h g n)) (q.shown n) := by
  have hbody : (q.bytes.take 64).drop 8 = q.bytes.drop 8 := by rw [List.take_of_length_le (by omega)]
  have hbl : (q.bytes.drop 8).length = 56 := by rw [List.length_drop, hb]
  have hhl : (qpostHead q.bytes n).length = 8 := by simp [qpostHead, length_natLe, hb]
  obtain ⟨u1, hu1, ha1, hw1, he1⟩ := ReachesAt.engWrite (l := q.bytes.drop 8) (hbl ▸ hr) (by omega) (by omega) none none 2
  rw [harea, hoff] at hw1
  have hbut : MemorySameBut s u1 (s.areaOf e (slotVa h g n)) (s.offsetOf e (slotVa h g n)) 64 :=
    fun o x hx => hw1.but o x fun hi => hx ⟨hi.1, by omega, by omega⟩
  obtain ⟨u2, hu2, ha2, hw2, -⟩ := ReachesAt.engWrite (l := qpostHead q.bytes n) (hhl.symm ▸ hk.again hbut he1) (by omega) (by omega) none
    (some { agent := s.agentOf q.ref, scope := s.qpostScope q }) 2
  rw [State.areaOf, State.offsetOf, he1.placeOf] at hw2
  have hw := Wrote.prepend (l := qpostHead q.bytes n) (m := q.bytes.drop 8) (by rw [hhl]; exact hw1) hw2
    fun _ => (State.memoriesOk.of hs.engWrite hu1).places
  refine ⟨u2, ?_, ha1.trans ha2, hw⟩
  have hnext : u1.engWrite q.core q.ctx none accEngWrite none 3 (slotVa h g (n + 1)) (q.bytes.drop 64) = (u1, .ok ()) := by
    rw [List.drop_eq_nil_of_le (by omega)]
    rfl
  simp only [State.qpostPublish, hbody, hu1, hnext, hu2]

end Post

/-! ## Arrivals by handle (15 R311, 13 R276) -/

section Arrival
variable {s : State} {id tag off : Nat} {x : Arrival} {p : Plot}

/-- An arrival of this device that is none of a command or of a peer, delivered (11 R244). -/
theorem execBarrierArrive_ready (hx : tget s.arrivals id = some x) (hc : x.cmd = none) (hd : handleDev x.handle.toNat = s.device)
    (hh : s.handleHere x.handle = true) (hf : s.barFree (handleTag x.handle.toNat) (handleOff x.handle.toNat) 128 = true) :
    exec (.barrierArrive id) s = .next (s.deliverArrival id) := by
  have hr : s.arrivalReady x = true := by simp [State.arrivalReady, hd, hh, State.arrivalCore, hc, hf]
  show execBarrierArrive id s = _
  simp only [execBarrierArrive, hx, hr, if_true]

/-- An arrival that something of its cycle stands before waits (log 66). -/
theorem execBarrierArrive_waits (hx : tget s.arrivals id = some x) (hc : x.cmd = none) (hd : handleDev x.handle.toNat = s.device)
    (hf : s.barFree (handleTag x.handle.toNat) (handleOff x.handle.toNat) 128 = false) : exec (.barrierArrive id) s = .next s := by
  have hr : s.arrivalReady x = false := by simp [State.arrivalReady, hd, State.arrivalCore, hc, hf]
  show execBarrierArrive id s = _
  simp only [execBarrierArrive, hx, hr, Bool.false_eq_true, if_false]

/-- An arrival that is over changes nothing but that it is gone. -/
theorem State.arrivalDone_eq (s : State) (id : Nat) (code : Nat) (hc : x.cmd = none) (hp : x.peer = none) :
    s.arrivalDone id x code = { s with arrivals := tdel s.arrivals id } := by
  simp only [State.arrivalDone, hc, hp]

/-- An arrival makes of its barrier what its bytes say. -/
theorem State.arrive_set (who : Writer) (n : Nat) (src : Option SyncSrc) (hs : s.memoriesOk) (hg : tget s.plots tag = some p) (hi : (s.barAt tag off).init < 2 ^ 30) :
    BarSet s (s.arrive who tag off n src).1 tag off (barArrive (s.barAt tag off) n).1 := by
  have hfit := barEffect_fits (.bcarr n) (State.barAt_fits hi)
  rw [← barArrive_fst] at hfit
  have hput := State.putBar_set (x := off) who hs hg hfit
  rw [State.arrive]
  dsimp only
  split
  · exact hput.modPlot _ fun _ => ⟨rfl, rfl⟩
  · exact hput

/-- The barrier of a handle takes the arrival. -/
theorem State.arriveAtHandle_set (who : Writer) (hd : DWord) (n : Nat) (src : Option SyncSrc) (hs : s.memoriesOk) (hg : tget s.plots (handleTag hd.toNat) = some p)
    (hr : p.retired = false) (hl : handleOff hd.toNat + 16 ≤ p.spadLen) (hi : (s.barAt (handleTag hd.toNat) (handleOff hd.toNat)).init < 2 ^ 30) :
    ∃ u ok, s.arriveAtHandle who hd n src = (u, some ok) ∧
      BarSet s u (handleTag hd.toNat) (handleOff hd.toNat) (barArrive (s.barAt (handleTag hd.toNat) (handleOff hd.toNat)) n).1 := by
  let at' := s.arrive who (handleTag hd.toNat) (handleOff hd.toNat) n
    (src.map fun x => { x with scope := scopeOf (s.barAt (handleTag hd.toNat) (handleOff hd.toNat)).scope })
  refine ⟨at'.1, at'.2, ?_, s.arrive_set who n _ hs hg hi⟩
  have hno : ¬(p.retired = true ∨ p.spadLen < handleOff hd.toNat + 16) := by
    rw [hr]
    simp only [Bool.false_eq_true, false_or]
    omega
  simp only [State.arriveAtHandle, hg, if_neg hno]
  rfl

/-- The barrier of a handle with the place of an arrival noted (11 R244). -/
def State.arrivalNoted (s : State) (x : Arrival) : State :=
  s.barNote (handleTag x.handle.toNat) (handleOff x.handle.toNat) (barPlace s.cycle 0 (s.arrivalCore x) 0)

/-- The end of an arrival of this device that its barrier has taken, or that overflowed it. -/
theorem State.deliverArrival_taken {u : State} {ok : Bool} (hx : tget s.arrivals id = some x) (hd : handleDev x.handle.toNat = s.device)
    (hh : s.handleHere x.handle = true) (hg : tget s.plots (handleTag x.handle.toNat) = some p)
    (hu : (s.arrivalNoted x).arriveAtHandle ((s.arrivalNoted x).arrivalWriter x) x.handle x.n x.src = (u, some ok)) :
    s.deliverArrival id = u.arrivalDone id x (if ok then 0 else csOverflow) := by
  have hsome : (tget s.plots (handleTag x.handle.toNat)).isSome = true := by rw [hg]; rfl
  rw [State.arrivalNoted] at hu
  simp only [State.deliverArrival, hx, hd, hh, hsome, ne_eq, not_true_eq_false, Bool.not_true, Bool.false_eq_true, if_false, if_true, hu]
  cases ok <;> rfl

/-- An arrival of this device at a barrier that its handle names. -/
theorem State.deliverArrival_applies (hs : s.memoriesOk) (hx : tget s.arrivals id = some x) (hp : x.peer = none) (hc : x.cmd = none)
    (hd : handleDev x.handle.toNat = s.device) (hh : s.handleHere x.handle = true) (hg : tget s.plots (handleTag x.handle.toNat) = some p) (hr : p.retired = false)
    (hl : handleOff x.handle.toNat + 16 ≤ p.spadLen) (hi : (s.barAt (handleTag x.handle.toNat) (handleOff x.handle.toNat)).init < 2 ^ 30) :
    ∃ u, s.deliverArrival id = { u with arrivals := tdel u.arrivals id } ∧ MemorySame s u ∧
      SpadsSameBut s u (handleTag x.handle.toNat) (handleOff x.handle.toNat) 16 ∧
      u.barAt (handleTag x.handle.toNat) (handleOff x.handle.toNat) = (barArrive (s.barAt (handleTag x.handle.toNat) (handleOff x.handle.toNat)) x.n).1 := by
  have hq : Quiet s (s.arrivalNoted x) := s.barNote_quiet ..
  have hbar : (s.arrivalNoted x).barAt (handleTag x.handle.toNat) (handleOff x.handle.toNat) = s.barAt (handleTag x.handle.toNat) (handleOff x.handle.toNat) := by
    rw [State.barAt_eq, State.barAt_eq, SpadsSame.spadNat hq.spads]
  obtain ⟨p1, hg1, hr1, hl1⟩ : ∃ p1, tget (s.arrivalNoted x).plots (handleTag x.handle.toNat) = some p1 ∧ p1.retired = p.retired ∧ p1.spadLen = p.spadLen :=
    ⟨_, (tget_tmod_same ..).trans (congrArg (Option.map _) hg), rfl, rfl⟩
  have hok : (s.arrivalNoted x).memoriesOk := hs.barNote
  obtain ⟨u, ok, hu, hset⟩ := State.arriveAtHandle_set ((s.arrivalNoted x).arrivalWriter x) x.handle x.n x.src hok hg1 (hr1.trans hr) (hl1 ▸ hl) (hbar ▸ hi)
  refine ⟨u, (State.deliverArrival_taken hx hd hh hg hu).trans (State.arrivalDone_eq u id _ hc hp), hq.memory.trans (memorySame_of_cores hset.mem hset.cores),
    fun n a ha => (hset.but n a ha).trans (hq.spads n a), ?_⟩
  rw [hset.barrier, hbar]

/-- An arrival whose handle names no plot is refused. -/
theorem State.deliverArrival_refused (hx : tget s.arrivals id = some x) (hp : x.peer = none) (hc : x.cmd = none) (hd : handleDev x.handle.toNat = s.device)
    (hg : tget s.plots (handleTag x.handle.toNat) = none) : s.deliverArrival id = { s with arrivals := tdel s.arrivals id } := by
  have hh : s.handleHere x.handle = true := by simp [State.handleHere, hg]
  have ha : ∀ w, s.arriveAtHandle w x.handle x.n x.src = (s, none) := fun w => by simp only [State.arriveAtHandle, hg]
  rw [← s.arrivalDone_eq id csRefused hc hp]
  simp [State.deliverArrival, hx, hd, hh, hg, ha]

end Arrival

/-- Settles O46: a packet by the room of its ring, an arrival by its barrier. -/
theorem packetsAndArrivals : Obligations.PacketsAndArrivals := by
  unfold Obligations.PacketsAndArrivals
  intro s hs
  refine ⟨fun id q n h g s1 th hq hp hh hn hb hx hth => ?_,
    fun id x hx hp hc hd => ⟨fun p hg hr hl hh hi hf => ?_, execBarrierArrive_waits hx hc hd, fun hg => ?_⟩⟩
  · have hacc : Accessed s s1 := (s.qpostHeader_accessed q).of_eq hx
    have hs1 : s1.memoriesOk := hs.qpostHeader.of hx
    have hrun := State.qpostRun_eq hq hp hh hn hx
    have hslots : q.slots = 1 := by rw [QPost.slots, hb]
    rw [hslots] at hrun
    refine ⟨fun hroom => ?_, fun e => ?_⟩
    · exact ⟨s1, congrArg Host.Outcome.next (hrun.trans (if_neg (by simp [hroom]))), hacc.qposts ▸ hq, fun _ _ => rfl, hacc.plots⟩
    · intro a area y hroom ha hk hr harea hoff
      obtain ⟨u, hu, hau, hw⟩ := State.qpostPublish_writes (id := id) hs1 hb ha hk hr harea hoff
      have hall := hacc.trans hau
      have hlen := q.length_shown n hb
      obtain ⟨hut, hoth, hmem, hsp⟩ := threadOnly_modThread (s := { u with qposts := tdel u.qposts id }) (fun t => { t with cp := t.cp - 1 })
        ((hall.thread? q.ref).trans hth)
      have hw := hw.of_same hmem
      have hbut := hw.but
      have hval := hw.value hs1.places
      rw [hlen] at hbut hval
      exact ⟨_, congrArg Host.Outcome.next (hrun.trans ((if_pos hroom).trans hu)), tget_tdel_same .., hut, fun r hr => (hoth r hr).trans (hall.thread? r),
        hall.spads.trans hsp, hbut, hval⟩
  · obtain ⟨u, hu, hm, hsp, hb⟩ := State.deliverArrival_applies hs hx hp hc hd hh hg hr hl hi
    exact ⟨_, (execBarrierArrive_ready hx hc hd hh hf).trans (congrArg Host.Outcome.next hu), tget_tdel_same .., hm, hsp, hb⟩
  · have hh : s.handleHere x.handle = true := by simp [State.handleHere, hg]
    have hf : s.barFree (handleTag x.handle.toNat) (handleOff x.handle.toNat) 128 = true := by simp [State.barFree, hg]
    exact ⟨_, (execBarrierArrive_ready hx hc hd hh hf).trans (congrArg Host.Outcome.next (State.deliverArrival_refused hx hp hc hd hg)), tget_tdel_same ..,
      fun _ _ => rfl, rfl⟩

end Sys2Proof.Machine
end

section
/-! LAWS. Global atomics: the request that each leaves, and Table 13.3 at a place of Table 9.4 (13 R265 to R268, 09 R197). -/

namespace Sys2Proof.Machine

/-! ## Issue -/

section Issue
variable {s : State} {r : Ref} {p : Plot} {th : Thread} {i : Instr} {aop n : Nat} {d a : Reg} {rc : RC} {sc : Scope} {o : AOrd} {e : TbEntry}

/-- The request of a global atomic (13 R265, R267). -/
theorem OneLane.leaves_atom (h : OneLane s r p th) (hi : atomForm i = some (aop, n, d, a, rc, sc, o)) (hr : th.inRanges [(d, operandRegs aop n), (a, 2)] = true)
    (hre : Reaches s p (th.rd64 (envOf s r p) a).toNat n accAtomic e) :
    ∃ t q, exec i s = .next t ∧ Leaves s t r th q ∧ ToPlace p e (th.rd64 (envOf s r p) a).toNat n q ∧
      q.op = .atom aop (BitVec.ofNat 128 (storeNat s r p th d (operandRegs aop n))) ∧ q.dst = th.dstOf d ∧ q.words = n / 4 ∧ q.acq = ordAcq o ∧
      q.rel = ordRel o ∧ q.scope = sc ∧ q.rmode = th.rmode := by
  obtain ⟨x, hF, hva, hby, hac, hop, hds, hwd, haq, hrl, hsc⟩ : ∃ x : Access, laneAtom aop n d a rc sc o s r p th = issueGlobal x s r p th ∧
      x.va = (th.rd64 (envOf s r p) a).toNat ∧ x.bytes = n ∧ x.acc = accAtomic ∧ x.op = .atom aop (th.dataOf (s.env r p) d (operandRegs aop n)) ∧
      x.dst = th.dstOf d ∧ x.words = n / 4 ∧ x.acq = ordAcq o ∧ x.rel = ordRel o ∧ x.scope = sc :=
    ⟨_, if_neg (by simpa [operandRegs, atomRegs] using hr), rfl, rfl, rfl, rfl, rfl, rfl, rfl, rfl, rfl⟩
  rw [← hva, ← hby, ← hac] at hre
  obtain ⟨t, q, ht, hl, hp, ha⟩ := h.leaves_global (exec_of_atomForm hi s) hF hre
  rw [hva, hby] at hp
  exact ⟨t, q, ht, hl, hp, (ha.op.trans hop).trans (congrArg _ (dataOf_eq ..)), ha.dst.trans hds, ha.words.trans hwd, ha.acq.trans haq, ha.rel.trans hrl,
    ha.scope.trans hsc, ha.rmode⟩

end Issue

/-! ## Performing at the place -/

/-- An atomic of any AOP reads the old bytes at its place and in the same step writes what Table 13.3 gives over them, or nothing. -/
theorem State.performOrd_table {s : State} (hs : s.memoriesOk) (c : Nat) (r : Ref) (e : TbEntry) (pa va n : Nat) (data : Quad) (m : BitVec 2) (acq : Bool)
    (src : Option SyncSrc) {aop : Nat} (v : Quad) (hn : atomWidth aop n) :
    let o := (s.placeOf e pa).1
    let x := (s.placeOf e pa).2
    ∃ u y, s.performOrd c r e pa (.atom aop v) va n data m acq src = (u, y) ∧ y.value = BitVec.ofNat 128 (s.placeNat o x n) ∧
      y.flags = tableFlags aop (s.placeNat o x n) v.toNat m ∧ AtMemory s u ∧ MemorySameBut s u o x n ∧
      u.placeNat o x n = (tableNew aop n (s.placeNat o x n) v.toNat m).getD (s.placeNat o x n) := by
  intro o x
  have hmode : ((m.toNat : Nat) : Mode) = m := (BitVec.ofNat_toNat ..).trans (BitVec.setWidth_eq _)
  obtain ⟨hra, hrl, -, hrb⟩ := s.readPast_spec c e va pa n
  have hold : leNat (s.readPast c e va pa n).2.bytes = s.placeNat o x n := by rw [hrb, s.leNat_placeBytes]
  obtain ⟨htab, hlt⟩ := atomNew_table v.toNat m hn.fadd hn.axa (s.placeNat_lt o x n)
  unfold State.performOrd
  simp only [hold, hmode, htab]
  cases hy : tableNew aop n (s.placeNat o x n) v.toNat m with
  | none =>
    have hd := (s.readPast c e va pa n).1.dropReservations_atMemory n (some r) (placeKey (s.placeOf e pa))
    have hm : MemorySame s ((s.readPast c e va pa n).1.dropReservations (some r) (placeKey (s.placeOf e pa)) n) := hrl.memory
    exact ⟨_, _, rfl, rfl, rfl, hra.trans hd, fun o x _ => hm o x, hm.placeNat o n x⟩
  | some y =>
    obtain ⟨hwa, hww⟩ := State.storeAt_spec (s.readPast c e va pa n).1 c r e va pa (natLe n y) src true
    rw [hrl.placeOf] at hww
    have hw := hrl.wrote hww
    have hbut := hw.but
    have hval := hw.value hs.places
    rw [length_natLe] at hbut hval
    rw [leNat_natLe, show (256 : Nat) = 2 ^ 8 from rfl, ← Nat.pow_mul, Nat.mod_eq_of_lt (hlt y hy)] at hval
    exact ⟨_, _, rfl, rfl, rfl, hra.trans hwa, hbut, hval⟩

/-- An atomic at its place comes to its end in its turn. -/
theorem Turn.place_atom {s : State} {id : Nat} {q : Req} {th : Thread} {e : TbEntry} (hs : s.memoriesOk) (ht : Turn s id q th) (hp : AtPlace s q e) {aop : Nat}
    {v : Quad} (ho : q.op = .atom aop v) (hn : atomWidth aop q.bytes) (w : WireValue) :
    let o := s.areaOf e q.va
    let x := s.offsetOf e q.va
    let old := s.placeNat o x q.bytes
    ∃ t, exec (.loadReturn id w) s = .next t ∧ MemoryOnly s t ∧ SpadsSame s t ∧ MemorySameBut s t o x q.bytes ∧
      t.placeNat o x q.bytes = (tableNew aop q.bytes old v.toNat q.rmode).getD old ∧
      Returned s t id q th ((words128 (BitVec.ofNat 128 old)).take q.words) (BitVec.ofNat 32 (tableFlags aop old v.toNat q.rmode)) := by
  obtain ⟨u, y, hx, hv, hf, hu, hbut, hval⟩ := State.performOrd_table hs q.core q.ref e q.pa q.va q.bytes q.data q.rmode q.acq q.src v hn
  obtain ⟨t, hex, hmo, hm, hsp, hret, -⟩ := ht.returned hp (by rw [ho]; rfl) (ho ▸ hx) hu w
  obtain ⟨-, -, hpa, -⟩ := hp
  rw [hpa] at hv hf hbut hval
  rw [ho, hv, hf] at hret
  exact ⟨t, hex, hmo, hsp, fun o x hx => (hm o x).trans (hbut o x hx), (hm.placeNat ..).trans hval, hret⟩

/-- Settles O26: the request by the lane of ATOM, its end by Table 13.3 at its place. -/
theorem atomicsReadAndWrite : Obligations.AtomicsReadAndWrite := by
  unfold Obligations.AtomicsReadAndWrite
  exact ⟨fun s r p th h i aop n d a rc sc o e hi hr hre => h.leaves_atom hi hr hre,
    fun s id q th e aop v w hs ht hp ho hn => ht.place_atom hs hp ho hn w⟩

end Sys2Proof.Machine
end

section
/-! LAWS. The plot barrier of a still tract, of which one arrived thread is under a single step (13 R281, 21 R398, R399). -/

namespace Sys2Proof.Machine

/-- A context in still mode. -/
def stillCtx : Ctx :=
  { ctxid := 1, root := 0, ttbase := 0, ttlen := 0, pbud := 50, shbase := 0, shgib := 0, tvec := 0, frqh := 0, swpb := 0, swplen := 0, bks := false,
    haz := false, still := true, lpwb := List.replicate 16 0, lpwc := List.replicate 16 0, lpwHit := List.replicate 16 false,
    lpwTick := List.replicate 16 0, cmps := [], peerWin := [], lazy := [], svcHeld := false, heldRecs := [], recs := [] }

/-- A thread that has arrived at its plot's barrier, under a single step or not. -/
def arrivedThread (step : Bool) : Thread := { placedThread false with place := .headland (.sleep .barp), stepping := step }

/-- Thread 0, which is under a single step, and thread 1, which nothing is about to stop: both have arrived. -/
def stepPlot : Plot := { placedPlot .vector (arrivedThread true) with threads := [(0, arrivedThread true), (1, arrivedThread false)], barp := [0, 1] }

/-- The device with that plot alone, its tract placed. -/
def stepState : State := { State.reset with ctxs := [(1, stillCtx)], tracts := [(0, placedTract)], plots := [(0, stepPlot)] }

theorem stepState_sleeps : Sleeps stepState ⟨0, 1⟩ (arrivedThread false) .barp := ⟨rfl, rfl, rfl, rfl⟩

/-- The end of thread 0's sleep ends its step, and its stop stops its tract: thread 1 stops as it leaves the headland. -/
theorem stepState_stops : ((stepState.barpComplete 0).thread? ⟨0, 1⟩).map Thread.place = some (.headland .stopped) := by decide +kernel

/-- Refutes O30: where another arrived thread is under a single step and the context is in still mode (which the debugger may set while the thread sleeps), the
completion of the plot barrier stops that thread and with it the tract, so a thread at which no stop waited stops too and is not filed. -/
theorem not_barriersArriveAndComplete : ¬ Obligations.BarriersArriveAndComplete := by
  unfold Obligations.BarriersArriveAndComplete
  intro h
  obtain ⟨-, hc⟩ := h
  obtain ⟨hplot, -⟩ := hc stepState
  obtain ⟨t, q, ht, -, -, hfiled⟩ := hplot 0 stepPlot rfl (by decide) (by decide) (by decide)
  obtain rfl : stepState.barpComplete 0 = t := Host.Outcome.next.inj ht
  have hstop := stepState_stops
  rw [hfiled 1 (by decide) _ stepState_sleeps] at hstop
  exact absurd hstop (by decide)

end Sys2Proof.Machine
end

section
/-! LAWS. WAITW at a word that its read reaches, and RNEXT at a ring's header (13 R283, R285). -/

namespace Sys2Proof.Machine

/-- A drill of one lane whose thread changes and goes on. -/
theorem OneLane.run_next_mod {s u : State} {r : Ref} {p : Plot} {th : Thread} {F : LaneFn} {f : Thread → Thread} (h : OneLane s r p th)
    (hF : F s r p th = (u.modThread r f, .next)) (hq : Quiet s u) : ThreadOnly s (runLanes F s) r { f th with pc := (f th).pc + 4 } := by
  have h1 := hq.threadOnly (threadOnly_modThread f ((hq.threads r).trans h.thread))
  rw [h.run_next_eq hF]
  exact h1.trans (threadOnly_modThread (fun t => { t with pc := t.pc4 }) h1.1)

/-! ## WAITW (13 R283) -/

theorem State.toHeadland_watches (s : State) (r : Ref) (w : Reason) : (s.toHeadland r w).watches = s.watches := by
  have he := congrArg State.watches (s.leaveDrill_frame r).1
  exact he

/-- The read of the word leaves what a translation sees. -/
theorem ReachesAt.watchWord_leaves {s : State} {c ctx va : Nat} {e : TbEntry} (h : ReachesAt s c ctx va 4 accLoad e) :
    Like s (s.watchWord c ctx va).1 ∧ Accessed s (s.watchWord c ctx va).1 := by
  have hw : (s.watchWord c ctx va).1 = (s.rdPhys c e va (e.pa va) 4).1 := by
    rw [State.watchWord, h.translated]
    simp only [h.ordinary, h.barred, h.noPort, h.here, Bool.false_eq_true, if_false]
  rw [hw]
  exact ⟨(s.rdPlace_like c e va (e.pa va) 4 false).1, s.rdPhys_accessed ..⟩

/-- A word at its home is watched. -/
theorem State.watch_watches {s : State} {r : Ref} {va : Nat} {e : TbEntry} (h : ReachesAt s (s.coreOf r) (s.ctxIdOf r) va 4 accLoad e) :
    { ref := r, sector := placeKey (s.placeOf e (e.pa va)) / 32, hit := false } ∈ (s.watch r va).watches := by
  rw [State.watch, h.translated]
  simp [h.ordinary, h.here]

/-- The 32-bit word at an address, at its place. -/
def State.wordAt (s : State) (e : TbEntry) (va : Nat) : Word := BitVec.ofNat 32 (s.placeNat (s.areaOf e va) (s.offsetOf e va) 4)

section Waitw
variable {s : State} {r : Ref} {p : Plot} {th : Thread} {a b : Reg} {e : TbEntry}

section Reads
variable (h : OneLane s r p th) (hr : th.inRanges [(a, 2), (b, 1)] = true) (hre : Reaches s p (th.rd64 (envOf s r p) a).toNat 4 accLoad e)
include h hr hre

/-- WAITW at a word that its read reaches goes on or watches it, by what it reads. -/
theorem OneLane.waitwLane_reads :
    let va := th.rd64 (envOf s r p) a
    let v := th.rd32 (envOf s r p) b
    ∃ u tags, waitwLane a b s r p th =
        (if s.wordAt e va.toNat ≠ v then (u.watchDone r tags, .next) else (u.watch r va.toNat, .sleep (.waitw va v s.time))) ∧
      Like s u ∧ Accessed s u ∧ Quiet s u := by
  intro va v
  obtain ⟨u, tags, hw, hq, ht⟩ := hre.reaches.watchWord
  obtain ⟨hl, ha⟩ := hre.reaches.watchWord_leaves
  rw [hw] at hl ha
  have hal : va &&& 3 = 0 := (and_three_eq_zero va).mpr hre.aligned
  refine ⟨u, tags, ?_, hl, ha, hq⟩
  rw [waitwLane, if_neg (by simp [hr]), ← ht]
  simp only [State.env_eq, h.coreOf]
  rw [if_neg (not_not.mpr hal), hw]
  rfl

/-- WAITW on a word that differs from its register goes on. -/
theorem OneLane.waitw_goes (hx : s.wordAt e (th.rd64 (envOf s r p) a).toNat ≠ th.rd32 (envOf s r p) b) : GoesOn s (runLanes (waitwLane a b) s) r th := by
  obtain ⟨u, tags, hF, -, -, hq⟩ := h.waitwLane_reads hr hre
  rw [h.run_next_eq (hF.trans (if_pos hx))]
  exact (hq.acquired (State.watchDone_acquired tags ((hq.threads r).trans h.thread))).goesOn

/-- WAITW on a word that is the same sleeps, and watches it. -/
theorem OneLane.waitw_sleeps (hx : s.wordAt e (th.rd64 (envOf s r p) a).toNat = th.rd32 (envOf s r p) b) :
    let va := th.rd64 (envOf s r p) a
    ThreadOnly s (runLanes (waitwLane a b) s) r (asleep th (.waitw va (th.rd32 (envOf s r p) b) s.time)) ∧
      { ref := r, sector := placeKey (s.placeOf e (e.pa va.toNat)) / 32, hit := false } ∈ (runLanes (waitwLane a b) s).watches := by
  intro va
  obtain ⟨u, tags, hF, hl, ha, hq⟩ := h.waitwLane_reads hr hre
  rw [h.run_quiet (hF.trans (if_neg (not_not.mpr hx))) rfl]
  have hq' := hq.trans (u.watch_quiet r va.toNat)
  have hp : tget u.plots r.tag = some p := by rw [ha.plots, h.plot]
  have hu := hl.reaches hre.reaches
  rw [← State.coreOf_of_plot hp, ← State.ctxIdOf_of_plot hp] at hu
  have hw := State.watch_watches hu
  rw [hl.placeOf] at hw
  exact ⟨hq'.threadOnly (State.toHeadland_only _ ((hq'.threads r).trans h.thread)), (State.toHeadland_watches ..).symm ▸ hw⟩

end Reads

/-- WAITW at an address that is not a multiple of 4 traps. -/
theorem OneLane.waitw_traps (h : OneLane s r p th) (hs : th.sup = false) (hr : th.inRanges [(a, 2), (b, 1)] = true)
    (hv : (th.rd64 (envOf s r p) a).toNat % 4 ≠ 0) : TrapsWith (.waitw a b) s r th 3 0 (th.rd64 (envOf s r p) a) := by
  refine h.trapsWith (F := waitwLane a b) hs rfl ?_
  rw [waitwLane, if_neg (by simp [hr])]
  exact if_pos fun hal => hv ((and_three_eq_zero _).mp hal)

end Waitw

/-! ## RNEXT (13 R285) -/

theorem Thread.nextStage_pc (t : Thread) (h : Word) (b : Bool) (n : Nat) : (t.nextStage h b n).pc = t.pc := by
  rw [Thread.nextStage]
  split
  · rfl
  · split <;> rfl

theorem Thread.ringAddr_eq (t : Thread) (h : Word) :
    t.ringAddr h = h + 16 + 32 * BitVec.ofNat 32 t.rcurStage + (if t.rcurPhase then 1 else 0) := by
  rw [Thread.ringAddr]
  cases t.rcurPhase <;> rfl

section Rnext
variable {s : State} {r : Ref} {p : Plot} {th : Thread} {d a : Reg} {tag x : Nat}

/-- RNEXT reads the number of stages in the header. -/
theorem rnextLane_at (hr : th.inRanges [(d, 1), (a, 1)] = true) (hs : s.spadAt r.tag ((th.rd32 (envOf s r p) a).toNat / 16 * 16) 16 = .ok (tag, x)) :
    let v := th.rd32 (envOf s r p) a
    let h : Word := BitVec.ofNat 32 (v.toNat / 16 * 16)
    let n := s.spadNat tag x 16 % 16
    rnextLane d a s r p th = if n < 2 ∨ 8 < n then (s, .park fcBadRing accRing (h.setWidth 64))
      else (s.modThread r fun t => (t.nextStage h (v.getLsbD 0) n).wr32 d ((t.nextStage h (v.getLsbD 0) n).ringAddr h), .next) := by
  intro v h n
  rw [rnextLane, barLane_at _ hr hs]
  simp only [s.leNat_spadRead]
  rfl

theorem OneLane.rnext_parks (h : OneLane s r p th) (hr : th.inRanges [(d, 1), (a, 1)] = true)
    (hs : s.spadAt r.tag ((th.rd32 (envOf s r p) a).toNat / 16 * 16) 16 = .ok (tag, x)) (hn : s.spadNat tag x 16 % 16 < 2 ∨ 8 < s.spadNat tag x 16 % 16) :
    ParksIn (.rnext d a) s r th :=
  h.parksIn (F := rnextLane d a) rfl ((rnextLane_at hr hs).trans (if_pos hn)) (by decide)

theorem OneLane.rnext_moves (h : OneLane s r p th) (hr : th.inRanges [(d, 1), (a, 1)] = true)
    (hs : s.spadAt r.tag ((th.rd32 (envOf s r p) a).toNat / 16 * 16) 16 = .ok (tag, x)) (h2 : 2 ≤ s.spadNat tag x 16 % 16) (h8 : s.spadNat tag x 16 % 16 ≤ 8) :
    let v := th.rd32 (envOf s r p) a
    let c : Word := BitVec.ofNat 32 (v.toNat / 16 * 16)
    let u := th.nextStage c (v.getLsbD 0) (s.spadNat tag x 16 % 16)
    ThreadOnly s (runLanes (rnextLane d a) s) r
      { (u.wr32 d (c + 16 + 32 * BitVec.ofNat 32 u.rcurStage + (if u.rcurPhase then 1 else 0))) with pc := th.pc + 4 } := by
  intro v c u
  have hm := h.run_next_mod ((rnextLane_at hr hs).trans (if_neg (by omega))) (Quiet.refl s)
  rw [Thread.pc_wr32, Thread.nextStage_pc] at hm
  rw [← u.ringAddr_eq]
  exact hm

end Rnext

/-- Settles O32: WAITW by what it reads at its word, RNEXT by the stages in its ring's header. -/
theorem waitwAndRings : Obligations.WaitwAndRings := by
  unfold Obligations.WaitwAndRings
  refine fun s r p th h => ⟨fun a b e hr hre => ⟨fun hx => ⟨_, rfl, h.waitw_goes hr hre hx⟩, fun hx => ?_⟩, fun a b hs hr hv => h.waitw_traps hs hr hv,
    fun d a tag x hr hs => ⟨fun hn => h.rnext_parks hr hs hn, fun h2 h8 => ?_⟩⟩
  · obtain ⟨hth, hw⟩ := h.waitw_sleeps hr hre hx
    exact ⟨_, rfl, hth, hw⟩
  · exact ⟨_, _, rfl, h.rnext_moves hr hs h2 h8, rfl⟩

end Sys2Proof.Machine
end

section
/-! LAWS. Landing names: their fields, MINT, LAND and LDROP at the core that executes them, and LWAIT and LTEST on a register (13 R286 to R293). -/

namespace Sys2Proof.Machine

/-! ## The fields of a name (13 Table 13.6) -/

theorem mkName_toNat (dev core n : Nat) (gen : BitVec 3) (check : Word) : (mkName dev core n gen check).toNat =
    dev % 1024 * 2 ^ 54 + core / 32 % 4 * 2 ^ 52 + core % 32 * 2 ^ 47 + n % 4096 * 2 ^ 35 + gen.toNat * 2 ^ 32 + check.toNat := by
  have hg := gen.isLt
  have hc := check.isLt
  rw [mkName, BitVec.toNat_ofNat]
  omega

/-- A name holds what it is made of. -/
theorem mkName_fields (dev core n : Nat) (gen : BitVec 3) (check : Word) :
    let v := (mkName dev core n gen check).toNat
    nameCheck v = check.toNat ∧ nameGen v = gen.toNat ∧ nameSlot v = n % 4096 ∧ nameDev v = dev % 1024 ∧ nameCore v = core % 128 := by
  have hg := gen.isLt
  have hc := check.isLt
  rw [mkName_toNat]
  simp only [nameCheck, nameGen, nameSlot, nameDev, nameCore, nameDie, bits]
  omega

theorem checkTag_ne_zero (k : Nat) : checkTag k ≠ 0 := by
  rw [checkTag]
  split
  · decide
  · assumption

/-- The time to live in microseconds: 1 for 0, and at most 1,000,000. -/
theorem ttlOf_eq (c : Word) : ttlOf c = if c.toNat % 2 ^ 20 = 0 then 1 else if 1000000 < c.toNat % 2 ^ 20 then 1000000 else c.toNat % 2 ^ 20 := by
  rw [ttlOf]
  split
  · rfl
  · split <;> omega

/-! ## MINT (13 R289) -/

/-- The slot that MINT binds: live, with a check tag of its own. -/
def State.mintSlot (s : State) (r : Ref) (core n x : Nat) (c : Word) : Slot :=
  { state := .live, gen := ((s.core core).slot n).gen, check := checkTag s.freeCtr, owner := r, reg := x, wide := c.getLsbD 31,
    expiry := s.time + ttlOf c * usec, value := 0, src := none }

section Mint
variable {s : State} {r : Ref} {p : Plot} {th : Thread} {d a b : Reg} {x : Nat} (h : OneLane s r p th) (hr : th.inRanges [(d, 2), (b, 1)] = true)
  (ha : th.inRange a (if (th.rd32 (envOf s r p) b).getLsbD 31 then 2 else 1) = true) (hx : th.phys a = some x)
  (he : (th.rd32 (envOf s r p) b).getLsbD 31 = true → x % 2 = 0) (hl : th.landingOf x ≠ .pending)
include h hr ha hx he hl

/-- MINT of a register in range that has no name binds the lowest free slot, or gives 0. -/
theorem OneLane.mintLane_at : mintLane d a b s r p th = match freeSlot (s.core p.core) 0 4096 with
      | none => (s.modThread r fun t => t.wr64 d 0, .next)
      | some n => ((({ s with freeCtr := s.freeCtr + 1 } : State).putSlot p.core n (s.mintSlot r p.core n x (th.rd32 (envOf s r p) b))).modThread r fun t =>
          ({ t with landSrc := tdel t.landSrc x }.setLanding x .pending).wr64 d
            (mkName s.device p.core n ((s.core p.core).slot n).gen (checkTag s.freeCtr)), .next) := by
  have ha' : th.inRanges [(a, if (th.rd32 (s.env r p) b).getLsbD 31 then 2 else 1)] = true := (th.inRanges_one ..).trans ha
  have he' : ¬((th.rd32 (s.env r p) b).getLsbD 31 = true ∧ x % 2 ≠ 0) := fun hw => hw.2 (he hw.1)
  rw [mintLane]
  simp only [hr, ha', hx, he', hl, h.coreOf, Bool.not_true, Bool.false_eq_true, if_false]
  cases freeSlot (s.core p.core) 0 4096 <;> rfl

/-- MINT where no slot is free. -/
theorem OneLane.mint_none (hn : freeSlot (s.core p.core) 0 4096 = none) :
    ThreadOnly s (runLanes (mintLane d a b) s) r { th.wr64 d 0 with pc := th.pc + 4 } := by
  have hF := h.mintLane_at (d := d) hr ha hx he hl
  rw [hn] at hF
  have hm := h.run_next_mod hF (Quiet.refl s)
  rwa [Thread.pc_wr64] at hm

/-- MINT where a slot is free: the register waits for a LAND to the name. -/
theorem OneLane.mint_some {n : Nat} (hn : freeSlot (s.core p.core) 0 4096 = some n) :
    ThreadOnly s (runLanes (mintLane d a b) s) r
        { (({ th with landSrc := tdel th.landSrc x } : Thread).setLanding x .pending).wr64 d
            (mkName s.device p.core n ((s.core p.core).slot n).gen (checkTag s.freeCtr)) with pc := th.pc + 4 } ∧
      ((runLanes (mintLane d a b) s).core p.core).slot n = s.mintSlot r p.core n x (th.rd32 (envOf s r p) b) := by
  have hF := h.mintLane_at (d := d) hr ha hx he hl
  rw [hn] at hF
  have hd : Quiet s { s with freeCtr := s.freeCtr + 1 } := quiet_of_same rfl rfl rfl
  have hm := h.run_next_mod hF (hd.trans (State.putSlot_quiet ..))
  rw [Thread.pc_wr64] at hm
  refine ⟨hm, ?_⟩
  rw [h.run_next_eq hF]
  exact State.slot_putSlot ..

end Mint

/-! ## LAND (13 R290) -/

section Names
variable {s : State} {r : Ref} {p : Plot} {th : Thread} {a b : Reg}

theorem State.route_sends (s : State) (id dst : Nat) (rc : RC) (k : OrderKey) : Sends s (s.route id dst rc k).1 := by
  rw [State.route]
  split
  · exact Sends.refl s
  · exact s.routeNow_sends dst rc

/-- A LAND of the thread, not answered, with the name and the value that it read at issue. -/
def LandSent (s : State) (r : Ref) (p : Plot) (th : Thread) (rc : RC) (sc : Scope) (w : Bool) (a b : Reg) (l : Land) : Prop :=
  l.ref = some r ∧ l.name = th.rd64 (envOf s r p) a ∧ l.wide = w ∧ l.answered = none ∧ l.rc = rc ∧ l.dev = nameDev (th.rd64 (envOf s r p) a).toNat ∧
    l.src = some { agent := s.agentOf r, scope := sc } ∧ l.value = if w then th.rd64 (envOf s r p) b else (th.rd32 (envOf s r p) b).setWidth 64

/-- LAND enters the LAND under a new number, and no thread, memory or scratchpad has changed but for ST. -/
theorem landLane_at (rc : RC) (sc : Scope) (w : Bool) (hr : th.inRanges [(a, 2), (b, if w then 2 else 1)] = true) :
    ∃ (u : State) (l : Land), landLane rc sc w a b s r p th =
        (({ u with lands := tput u.lands s.nextId l } : State).modThread r fun t => { t with st := t.st + 1 }, .next) ∧
      Quiet s u ∧ LandSent s r p th rc sc w a b l := by
  have hfresh : Quiet s s.fresh.2 := quiet_of_same rfl rfl rfl
  rw [landLane, if_neg (by simp [hr])]
  dsimp only
  split
  · exact ⟨s.fresh.2, _, rfl, hfresh, rfl, rfl, rfl, rfl, rfl, rfl, rfl, rfl⟩
  · exact ⟨_, _, rfl, hfresh.trans (State.route_sends ..).quiet, rfl, rfl, rfl, rfl, rfl, rfl, rfl, rfl⟩

/-- The LAND leaves, counted in ST. -/
theorem OneLane.land_leaves (h : OneLane s r p th) (rc : RC) (sc : Scope) (w : Bool) (hr : th.inRanges [(a, 2), (b, if w then 2 else 1)] = true) :
    ThreadOnly s (runLanes (landLane rc sc w a b) s) r { th with pc := th.pc + 4, st := th.st + 1 } ∧
      ∃ l, tget (runLanes (landLane rc sc w a b) s).lands s.nextId = some l ∧ LandSent s r p th rc sc w a b l := by
  obtain ⟨u, l, hF, hu, hl⟩ := landLane_at (s := s) (r := r) (p := p) rc sc w hr
  refine ⟨h.run_next_mod hF (hu.trans (quiet_of_same rfl rfl rfl)), l, ?_, hl⟩
  rw [h.run_next_eq hF]
  exact tget_tput_same ..

/-! ## LDROP (13 R293) -/

/-- LDROP of a name of the thread frees its slot and marks its register lapsed. -/
theorem OneLane.ldrop_frees (h : OneLane s r p th) (ha : th.inRange a 2 = true) :
    let v := (th.rd64 (envOf s r p) a).toNat
    let x := (s.core p.core).slot (nameSlot v)
    s.residentRef r = true → nameDev v = s.device → nameCore v = p.core → slotMatches x v = true → x.owner = r →
    ThreadOnly s (runLanes (ldropLane a) s) r { th.setLanding x.reg .lapsed with pc := th.pc + 4 } ∧
      ((runLanes (ldropLane a) s).core p.core).slot (nameSlot v) = x.freed := by
  intro v x hres hd hc hm ho
  have hF : ldropLane a s r p th = (s.lapseSlot p.core (nameSlot v), .next) := by
    rw [ldropLane, if_neg (by simp [Thread.inRanges, ha])]
    simp only [State.env_eq, h.coreOf]
    exact if_pos ⟨hd, hc, hm, ho⟩
  have hth : s.thread? x.owner = some th := by rw [ho, h.thread]
  obtain ⟨hfree, hlapse⟩ := State.lapseSlot_only (c := p.core) (n := nameSlot v) hth
  rw [show ((s.core p.core).slot (nameSlot v)).owner = r from ho, hres, if_pos rfl] at hlapse
  rw [h.run_next_eq hF]
  exact ⟨hlapse.trans (threadOnly_modThread (fun t => { t with pc := t.pc4 }) hlapse.1), hfree⟩

/-! ## LWAIT and LTEST (13 R292) -/

/-- A state that is not pending is read, and the thread goes on. -/
theorem OneLane.landing_read {F : LaneFn} {pd x : Nat} (h : OneLane s r p th) (hF : F s r p th = (s.readLanding r th pd x, .next)) :
    ∃ u, (runLanes F s).thread? r = some u ∧ OthersSame s (runLanes F s) r ∧ MemorySame s (runLanes F s) ∧ SpadsSame s (runLanes F s) ∧
      u = { th.landingRead pd x with pc := th.pc + 4, tstat := u.tstat } ∧ ∀ b, b ≠ 5 → u.tstat.getLsbD b = th.tstat.getLsbD b := by
  obtain ⟨t, ⟨-, hto, htm, hts⟩, hacq⟩ := State.readLanding_acquired pd x h.thread
  obtain ⟨⟨u, hu, he, hb⟩, ho, hm, hs⟩ := hacq.goesOn
  rw [h.run_next_eq hF]
  rw [Thread.landingRead_frame] at he hb
  refine ⟨u, hu, fun q hq => (ho q hq).trans (hto q hq), htm.trans hm, hts.trans hs, ?_, hb⟩
  rw [Thread.landingRead_frame]
  exact he

section Lanes
variable {pd : Fin 128} {w : Fin 96}

theorem lwaitLane_at (hr : th.inRange (.w w) 1 = true) : lwaitLane pd (.w w) s r p th =
    if th.landingOf (th.wb + w.val) = .pending then (s, .sleep (.lwait pd (th.wb + w.val))) else (s.readLanding r th pd.val (th.wb + w.val), .next) :=
  if_neg (by simp [Thread.inRanges, hr])

theorem ltestLane_at (hr : th.inRange (.w w) 1 = true) : ltestLane pd (.w w) s r p th =
    if th.landingOf (th.wb + w.val) = .pending then (s.modThread r fun t => t.setPred pd.val false, .next)
    else (s.readLanding r th pd.val (th.wb + w.val), .next) :=
  if_neg (by simp [Thread.inRanges, hr])

/-- LTEST on a pending register. -/
theorem OneLane.ltest_pending (h : OneLane s r p th) (hr : th.inRange (.w w) 1 = true) (hl : th.landingOf (th.wb + w.val) = .pending) :
    ThreadOnly s (runLanes (ltestLane pd (.w w)) s) r { th.setPred pd.val false with pc := th.pc + 4 } := by
  have hm := h.run_next_mod ((ltestLane_at (pd := pd) hr).trans (if_pos hl)) (Quiet.refl s)
  rwa [Thread.pc_setPred] at hm

end Lanes

end Names

/-- Settles O33: MINT by its slot, LAND and LDROP by what they leave, LWAIT and LTEST by the landing state that they read. -/
theorem landingNames : Obligations.LandingNames := by
  unfold Obligations.LandingNames
  refine ⟨fun s r p th h => ⟨fun d a b x hr ha hx he hl => ⟨fun n hn => ?_, fun hn => ⟨_, rfl, h.mint_none hr ha hx he hl hn⟩⟩,
      fun rc sc w a b hr => ?_, fun a ha hres hd hc hm ho => ?_⟩,
    fun s r p th h pd a hr => ⟨fun hl => ⟨⟨_, rfl, h.run_sleep ((lwaitLane_at hr).trans (if_pos hl))⟩, _, rfl, h.ltest_pending hr hl⟩, fun hl i hi => ?_⟩⟩
  · obtain ⟨⟨hth, ho, hm, hs⟩, hslot⟩ := h.mint_some hr ha hx he hl hn
    refine ⟨_, _, _, rfl, ho, hm, hs, hth, hslot, rfl, rfl, rfl, rfl, checkTag_ne_zero _, ?_, mkName_fields ..⟩
    rw [← ttlOf_eq]
    rfl
  · obtain ⟨hth, l, hg, hl⟩ := h.land_leaves rc sc w hr
    exact ⟨_, l, rfl, hth, hg, hl⟩
  · obtain ⟨hth, hfree⟩ := h.ldrop_frees ha hres hd hc hm ho
    exact ⟨_, rfl, hth, by rw [hfree]; rfl, by rw [hfree]; rfl⟩
  · have hread : ∃ F : LaneFn, exec i s = .next (runLanes F s) ∧ F s r p th = (s.readLanding r th pd.val (th.wb + a.val), .next) := by
      rcases List.mem_cons.mp hi with rfl | hi
      · exact ⟨_, rfl, (lwaitLane_at hr).trans (if_neg hl)⟩
      · cases List.mem_singleton.mp hi
        exact ⟨_, rfl, (ltestLane_at hr).trans (if_neg hl)⟩
    obtain ⟨F, hx, hF⟩ := hread
    obtain ⟨u, hu⟩ := h.landing_read hF
    exact ⟨_, u, hx, hu⟩

end Sys2Proof.Machine
end
